-- ==== Sys2Proof/Word.lean ====
section
/-! DEFINITION. The word types of the spec (R9), the shape of a register field and of a row of a register table
(R10, R11, R7), and the plain-data operand types that the commands of Syntax.lean carry. -/

namespace Sys2Proof

/-- A register or memory word: every register is 32 bits wide (R9). -/
abbrev Word := BitVec 32

/-- A byte of memory. -/
abbrev Byte := BitVec 8

/-- A register field `PAGE.REGISTER.FIELD` (R7): its register's page offset, its lowest bit and its width. -/
structure Fld where
  off : Nat
  lo : Nat
  width : Nat
deriving DecidableEq, Repr

/-- The access codes of R11. -/
inductive Acc where
  | rw | ro | wo | w1c | rws | rwl
deriving DecidableEq, Repr

/-- A row of a register table: the offset of the first element, how many elements stand `stride` bytes apart,
the access code, the value after a cold reset (R10), and the mask of the bits that a field map defines;
the other bits are reserved (R13). -/
structure RegRow where
  off : Nat
  count : Nat
  stride : Nat
  acc : Acc
  reset : Word
  mask : Word
deriving DecidableEq, Repr

/-- A row of the address map's page table (R414): family number, base of instance 0, number of instances,
event base, events per instance and the reset value of the protection mask. -/
structure PageRow where
  fam : Nat
  base : Nat
  count : Nat
  evBase : Nat
  width : Nat
  mask : Nat
deriving DecidableEq, Repr

/-- An event of a page's EVT_RAW: family number of R414 and bit. -/
structure Ev where
  fam : Nat
  bit : Nat
deriving DecidableEq, Repr

/-- Who issues a transaction (R418). An engine and a DMA channel are named by the cluster they stand in. -/
inductive Requester where
  | spi | mdio | sup | supDma | part | cascHost | cascSup
  | engine (c e : Nat)
  | clusterDma (c ch : Nat)
deriving DecidableEq, Repr

/-- The second operand of a scalar instruction: a register (ALU-R) or imm16 (ALU-I) of R240. -/
inductive Src where
  | reg (g : Fin 16)
  | imm (i : BitVec 16)
deriving DecidableEq, Repr

/-- The second operand of a compare: gs2 or the signed imm15 of R240. -/
inductive CmpSrc where
  | reg (g : Fin 16)
  | imm (i : BitVec 15)
deriving DecidableEq, Repr

/-- The second operand of a vector instruction: a vector (VEC-VV) or a broadcast scalar (VEC-VG) of R240. -/
inductive VSrc where
  | vec (v : Fin 8)
  | scalar (g : Fin 16)
deriving DecidableEq, Repr

/-- A lane direction (R625): line receive, line transmit, host receive, host transmit, and the lane's number. -/
inductive LaneDir where
  | lineRx (n : Fin 8)
  | lineTx (n : Fin 8)
  | hostRx (m : Fin 16)
  | hostTx (m : Fin 16)
deriving DecidableEq, Repr

/-- A partner-channel cell as it arrives, but for its TYPE (R284): payload bit i is bit 79 - i of `payload`. -/
structure Cell where
  seq : BitVec 16
  tag : BitVec 8
  payload : BitVec 80
  crc : BitVec 16
deriving DecidableEq, Repr

/-- A detection of a dawn correlator (R305, R307): its rate code, the received peak pilot depth relative to the mean envelope in
parts per million, the fast AGC's value at that instant and the shadow AGC's, and whether it lies at the symbol timing of the packet being received, within one symbol. -/
structure Detection where
  rate : Fin 3
  depth : BitVec 20
  gain : BitVec 10
  shadow : BitVec 10
  own : Bool
deriving DecidableEq, Repr

/-- What the capture block takes at a commit point beside the lane's stream (R394, R395): the items of a checkpoint whose bytes the spec does not lay
out, and the trigger causes detected within 8 datapath cycles of the boundary. -/
structure CapFrame where
  state : List Byte
  late : BitVec 5
deriving DecidableEq, Repr

/-- The raw values of a calibration pass that the reference check judges (R133): offset and zero-input noise in thousandths of an LSB, gain and bandwidth
in thousandths of a per cent, skew in attoseconds, and the codes met at rising steps of the calibration DAC. -/
structure RawPass where
  offset : Int
  noise : Nat
  gain : Int
  bw : Int
  skew : Int
  steps : List Int
deriving DecidableEq, Repr

/-- A cascade frame (R567): what stands before its CRC. -/
structure CFrame where
  type : Nat
  seq : Nat
  ack : Nat
  credit : Nat
  status : Nat
  addr : Word
  tag : Nat
  master : Nat
  payload : List Byte
deriving DecidableEq, Repr

end Sys2Proof
end

