-- ==== Sys2Proof/Machine/Regs.lean ====
section
/-! DEFINITION. The register maps of the spec: for every page of R414 its registers with offset, access code (R11),
reset value (R10) and the mask of its defined bits, as the page chapters' register tables and field maps list them,
and one named field `PAGE.REGISTER.FIELD` (R7) for every field of a field map.
An array register names its first element; `Fld.at` reaches the others. -/

namespace Sys2Proof.Machine

/-! ## SUP: registers of R581 (15_startup_firmware_lifecycle.md) -/
abbrev SUP.SUP_STAT : Nat := 0x040
abbrev SUP.SUP_CMD : Nat := 0x044
abbrev SUP.FW_VERSION : Nat := 0x048
abbrev SUP.DL_BASE : Nat := 0x050
abbrev SUP.DL_LEN : Nat := 0x054
abbrev SUP.WD_CFG : Nat := 0x058
abbrev SUP.TRIAL_TMO : Nat := 0x05C
abbrev SUP.BOOT_TIME : Nat := 0x060
abbrev SUP.SET_STAT : Nat := 0x064
abbrev SUP.MPU_SEL : Nat := 0x070
abbrev SUP.MPU_BASE : Nat := 0x074
abbrev SUP.MPU_LIMIT : Nat := 0x078
abbrev SUP.MPU_ATTR : Nat := 0x07C
abbrev SUP.SUP_STAT.WD_CNT : Fld := ⟨0x040, 16, 8⟩
abbrev SUP.SUP_STAT.ERR : Fld := ⟨0x040, 12, 4⟩
abbrev SUP.SUP_STAT.HOST_LOAD : Fld := ⟨0x040, 10, 1⟩
abbrev SUP.SUP_STAT.TRIAL : Fld := ⟨0x040, 9, 1⟩
abbrev SUP.SUP_STAT.BANK : Fld := ⟨0x040, 8, 1⟩
abbrev SUP.SUP_STAT.ACT_STATE : Fld := ⟨0x040, 4, 3⟩
abbrev SUP.SUP_STAT.STAGE : Fld := ⟨0x040, 0, 3⟩
abbrev SUP.SUP_CMD.DL_DONE : Fld := ⟨0x044, 0, 1⟩
abbrev SUP.SUP_CMD.ACTIVATE : Fld := ⟨0x044, 1, 1⟩
abbrev SUP.SUP_CMD.CONFIRM : Fld := ⟨0x044, 2, 1⟩
abbrev SUP.SUP_CMD.REVERT : Fld := ⟨0x044, 3, 1⟩
abbrev SUP.WD_CFG.TIMEOUT : Fld := ⟨0x058, 0, 16⟩
abbrev SUP.WD_CFG.WD_LIM : Fld := ⟨0x058, 16, 4⟩
abbrev SUP.TRIAL_TMO.V : Fld := ⟨0x05C, 0, 16⟩
abbrev SUP.SET_STAT.V : Fld := ⟨0x064, 0, 16⟩
abbrev SUP.SET_STAT.F16 : Fld := ⟨0x064, 16, 16⟩
abbrev SUP.MPU_SEL.V : Fld := ⟨0x070, 0, 4⟩
abbrev SUP.MPU_ATTR.EN : Fld := ⟨0x07C, 0, 1⟩
abbrev SUP.MPU_ATTR.F1 : Fld := ⟨0x07C, 1, 1⟩
abbrev SUP.MPU_ATTR.F2 : Fld := ⟨0x07C, 2, 1⟩
abbrev SUP.MPU_ATTR.F3 : Fld := ⟨0x07C, 3, 1⟩
abbrev SUP.MPU_ATTR.F4 : Fld := ⟨0x07C, 4, 1⟩
abbrev SUP.MPU_ATTR.F5 : Fld := ⟨0x07C, 5, 1⟩
abbrev SUP.MPU_ATTR.F6 : Fld := ⟨0x07C, 6, 1⟩
/-- The register table of SUP (R581). -/
def rowsSUP : List RegRow := [
  ⟨0x040, 1, 0, .ro, 0x00000000, 0x00FFF777⟩,
  ⟨0x044, 1, 0, .wo, 0x00000000, 0x0000000F⟩,
  ⟨0x048, 1, 0, .ro, 0x00000000, 0xFFFFFFFF⟩,
  ⟨0x050, 1, 0, .ro, 0x42000000, 0xFFFFFFFF⟩,
  ⟨0x054, 1, 0, .rw, 0x00000000, 0xFFFFFFFF⟩,
  ⟨0x058, 1, 0, .rw, 0x00030064, 0x000FFFFF⟩,
  ⟨0x05C, 1, 0, .rw, 0x0000003C, 0x0000FFFF⟩,
  ⟨0x060, 1, 0, .ro, 0x00000000, 0xFFFFFFFF⟩,
  ⟨0x064, 1, 0, .ro, 0x00000000, 0xFFFFFFFF⟩,
  ⟨0x070, 1, 0, .rw, 0x00000000, 0x0000000F⟩,
  ⟨0x074, 1, 0, .rw, 0x00000000, 0xFFFFFFFF⟩,
  ⟨0x078, 1, 0, .rw, 0x00000000, 0xFFFFFFFF⟩,
  ⟨0x07C, 1, 0, .rw, 0x00000000, 0x0000007F⟩]

/-! ## PWR: registers of R493 (13_power_clocks_thermal.md) -/
abbrev PWR.MODE : Nat := 0x040
abbrev PWR.PWR_STAT : Nat := 0x044
abbrev PWR.WAKE_EN : Nat := 0x048
abbrev PWR.LAST_WAKE : Nat := 0x04C
abbrev PWR.WAKE_TMR : Nat := 0x050
abbrev PWR.PAD_CFG : Nat := 0x054
abbrev PWR.PAD_REL : Nat := 0x058
abbrev PWR.BO_STAT : Nat := 0x05C
abbrev PWR.RAIL_STAT : Nat := 0x060
abbrev PWR.MODE.TARGET : Fld := ⟨0x040, 0, 2⟩
abbrev PWR.PWR_STAT.REF_CAUSE : Fld := ⟨0x044, 21, 2⟩
abbrev PWR.PWR_STAT.PAD_HELD : Fld := ⟨0x044, 20, 1⟩
abbrev PWR.PWR_STAT.LAST_AP : Fld := ⟨0x044, 16, 2⟩
abbrev PWR.PWR_STAT.LAST_RESULT : Fld := ⟨0x044, 12, 3⟩
abbrev PWR.PWR_STAT.REPLACED : Fld := ⟨0x044, 11, 1⟩
abbrev PWR.PWR_STAT.HELD : Fld := ⟨0x044, 9, 2⟩
abbrev PWR.PWR_STAT.HELD_V : Fld := ⟨0x044, 8, 1⟩
abbrev PWR.PWR_STAT.ARMED : Fld := ⟨0x044, 4, 2⟩
abbrev PWR.PWR_STAT.STATE : Fld := ⟨0x044, 0, 3⟩
abbrev PWR.WAKE_EN.EN : Fld := ⟨0x048, 0, 9⟩
abbrev PWR.LAST_WAKE.LATE : Fld := ⟨0x04C, 16, 1⟩
abbrev PWR.LAST_WAKE.FIRST : Fld := ⟨0x04C, 12, 4⟩
abbrev PWR.LAST_WAKE.SOURCES : Fld := ⟨0x04C, 0, 9⟩
abbrev PWR.PAD_CFG.PWM_LOW : Fld := ⟨0x054, 0, 1⟩
abbrev PWR.PAD_REL.RELEASE : Fld := ⟨0x058, 0, 1⟩
abbrev PWR.BO_STAT.STATE : Fld := ⟨0x05C, 0, 2⟩
abbrev PWR.BO_STAT.COUNT : Fld := ⟨0x05C, 16, 16⟩
abbrev PWR.RAIL_STAT.VDD_CORE : Fld := ⟨0x060, 0, 1⟩
abbrev PWR.RAIL_STAT.VDD_ANA : Fld := ⟨0x060, 1, 1⟩
abbrev PWR.RAIL_STAT.VDD_HV : Fld := ⟨0x060, 2, 1⟩
abbrev PWR.RAIL_STAT.VDD_IO : Fld := ⟨0x060, 3, 1⟩
abbrev PWR.RAIL_STAT.VDD_DRAM : Fld := ⟨0x060, 4, 1⟩
/-- The register table of PWR (R493). -/
def rowsPWR : List RegRow := [
  ⟨0x040, 1, 0, .rw, 0x00000000, 0x00000003⟩,
  ⟨0x044, 1, 0, .ro, 0x00000000, 0x00737F37⟩,
  ⟨0x048, 1, 0, .rw, 0x000001EF, 0x000001FF⟩,
  ⟨0x04C, 1, 0, .ro, 0x00000000, 0x0001F1FF⟩,
  ⟨0x050, 1, 0, .rw, 0x00000000, 0xFFFFFFFF⟩,
  ⟨0x054, 1, 0, .rw, 0x00000000, 0x00000001⟩,
  ⟨0x058, 1, 0, .wo, 0x00000000, 0x00000001⟩,
  ⟨0x05C, 1, 0, .ro, 0x00000000, 0xFFFF0003⟩,
  ⟨0x060, 1, 0, .ro, 0x0000001F, 0x0000001F⟩]

/-! ## CLK: registers of R496 (13_power_clocks_thermal.md) -/
abbrev CLK.CLK_STAT : Nat := 0x040
abbrev CLK.REF_MON : Nat := 0x044
abbrev CLK.LOCK0 : Nat := 0x048
abbrev CLK.LOCK1 : Nat := 0x04C
abbrev CLK.CG_CTRL : Nat := 0x050
abbrev CLK.CG_STAT : Nat := 0x054
abbrev CLK.XLOST : Nat := 0x058
abbrev CLK.OSC_STAT : Nat := 0x05C
abbrev CLK.CLK_STAT.REFCLK_OK : Fld := ⟨0x040, 0, 1⟩
abbrev CLK.CLK_STAT.ON_OSC : Fld := ⟨0x040, 1, 1⟩
abbrev CLK.REF_MON.OFS : Fld := ⟨0x044, 0, 24⟩
abbrev CLK.LOCK0.LRX : Fld := ⟨0x048, 0, 8⟩
abbrev CLK.LOCK0.LTX : Fld := ⟨0x048, 8, 8⟩
abbrev CLK.LOCK0.CORE : Fld := ⟨0x048, 16, 1⟩
abbrev CLK.LOCK0.TIME : Fld := ⟨0x048, 17, 1⟩
abbrev CLK.LOCK0.MEM : Fld := ⟨0x048, 18, 1⟩
abbrev CLK.LOCK0.TRACE : Fld := ⟨0x048, 19, 1⟩
abbrev CLK.LOCK1.HTX : Fld := ⟨0x04C, 0, 16⟩
abbrev CLK.LOCK1.HRX : Fld := ⟨0x04C, 16, 16⟩
abbrev CLK.CG_CTRL.EN : Fld := ⟨0x050, 0, 16⟩
abbrev CLK.CG_STAT.GATED : Fld := ⟨0x054, 0, 16⟩
abbrev CLK.XLOST.EVENT : Fld := ⟨0x058, 0, 1⟩
abbrev CLK.XLOST.STAMP : Fld := ⟨0x058, 1, 1⟩
abbrev CLK.XLOST.WAKE : Fld := ⟨0x058, 2, 1⟩
abbrev CLK.XLOST.OTHER : Fld := ⟨0x058, 3, 1⟩
abbrev CLK.OSC_STAT.OFS : Fld := ⟨0x05C, 0, 16⟩
/-- The register table of CLK (R496). -/
def rowsCLK : List RegRow := [
  ⟨0x040, 1, 0, .ro, 0x00000002, 0x00000003⟩,
  ⟨0x044, 1, 0, .ro, 0x00000000, 0x00FFFFFF⟩,
  ⟨0x048, 1, 0, .ro, 0x00000000, 0x000FFFFF⟩,
  ⟨0x04C, 1, 0, .ro, 0x00000000, 0xFFFFFFFF⟩,
  ⟨0x050, 1, 0, .rw, 0x0000FFFF, 0x0000FFFF⟩,
  ⟨0x054, 1, 0, .ro, 0x00000000, 0x0000FFFF⟩,
  ⟨0x058, 1, 0, .w1c, 0x00000000, 0x0000000F⟩,
  ⟨0x05C, 1, 0, .ro, 0x00000000, 0x0000FFFF⟩]

/-! ## RST: registers of R498 (13_power_clocks_thermal.md) -/
abbrev RST.RST_CMD : Nat := 0x040
abbrev RST.GRP_CMD : Nat := 0x044
abbrev RST.GRP_STAT : Nat := 0x048
abbrev RST.RST_CAUSE : Nat := 0x04C
abbrev RST.RST_CMD.KEY : Fld := ⟨0x040, 8, 8⟩
abbrev RST.RST_CMD.COLD : Fld := ⟨0x040, 1, 1⟩
abbrev RST.RST_CMD.WARM : Fld := ⟨0x040, 0, 1⟩
abbrev RST.GRP_CMD.GO : Fld := ⟨0x044, 8, 1⟩
abbrev RST.GRP_CMD.GROUP : Fld := ⟨0x044, 0, 6⟩
abbrev RST.GRP_STAT.BUSY : Fld := ⟨0x048, 31, 1⟩
abbrev RST.GRP_STAT.RESULT : Fld := ⟨0x048, 28, 2⟩
abbrev RST.GRP_STAT.GROUP : Fld := ⟨0x048, 0, 6⟩
abbrev RST.RST_CAUSE.WARM_CNT : Fld := ⟨0x04C, 16, 16⟩
abbrev RST.RST_CAUSE.WARM_CAUSE : Fld := ⟨0x04C, 8, 4⟩
abbrev RST.RST_CAUSE.RAIL : Fld := ⟨0x04C, 4, 3⟩
abbrev RST.RST_CAUSE.COLD_CAUSE : Fld := ⟨0x04C, 0, 4⟩
/-- The register table of RST (R498). -/
def rowsRST : List RegRow := [
  ⟨0x040, 1, 0, .wo, 0x00000000, 0x0000FF03⟩,
  ⟨0x044, 1, 0, .wo, 0x00000000, 0x0000013F⟩,
  ⟨0x048, 1, 0, .ro, 0x00000000, 0xB000003F⟩,
  ⟨0x04C, 1, 0, .ro, 0x00000000, 0xFFFF0F7F⟩]

/-! ## LCS: registers of R585 (15_startup_firmware_lifecycle.md) -/
abbrev LCS.LCS_STAT : Nat := 0x040
abbrev LCS.LCS_CMD : Nat := 0x044
abbrev LCS.SECVER_FUSE : Nat := 0x048
abbrev LCS.SECVER_CMD : Nat := 0x04C
abbrev LCS.LCS_NONCE : Nat := 0x060
abbrev LCS.LCS_TOKEN : Nat := 0x080
abbrev LCS.LCS_STAT.STATE : Fld := ⟨0x040, 0, 3⟩
abbrev LCS.LCS_STAT.KEY_PRESENT : Fld := ⟨0x040, 8, 1⟩
abbrev LCS.LCS_STAT.LAST : Fld := ⟨0x040, 16, 3⟩
abbrev LCS.LCS_CMD.KEY : Fld := ⟨0x044, 8, 8⟩
abbrev LCS.LCS_CMD.TARGET : Fld := ⟨0x044, 0, 3⟩
abbrev LCS.SECVER_FUSE.V : Fld := ⟨0x048, 0, 6⟩
abbrev LCS.SECVER_CMD.V : Fld := ⟨0x04C, 0, 6⟩
/-- The register table of LCS (R585). -/
def rowsLCS : List RegRow := [
  ⟨0x040, 1, 0, .ro, 0x00000000, 0x00070107⟩,
  ⟨0x044, 1, 0, .wo, 0x00000000, 0x0000FF07⟩,
  ⟨0x048, 1, 0, .ro, 0x00000000, 0x0000003F⟩,
  ⟨0x04C, 1, 0, .wo, 0x00000000, 0x0000003F⟩,
  ⟨0x060, 8, 4, .ro, 0x00000000, 0xFFFFFFFF⟩,
  ⟨0x080, 16, 4, .rw, 0x00000000, 0xFFFFFFFF⟩]

/-! ## EVT: registers of R450 (12_control_plane.md) -/
abbrev EVT.EV_CTRL : Nat := 0x040
abbrev EVT.EV_STAT : Nat := 0x044
abbrev EVT.LOG_BASE : Nat := 0x048
abbrev EVT.LOG_SEQ : Nat := 0x04C
abbrev EVT.LOG_WR : Nat := 0x050
abbrev EVT.LOG_LOST : Nat := 0x054
abbrev EVT.LOG_WRAPS : Nat := 0x058
abbrev EVT.HERR_ADDR : Nat := 0x060
abbrev EVT.HERR_INFO : Nat := 0x064
abbrev EVT.HERR_CNT : Nat := 0x068
abbrev EVT.GRP_SUM_A : Nat := 0x080
abbrev EVT.GRP_SUM_B : Nat := 0x084
abbrev EVT.GRP_SUM_S : Nat := 0x088
abbrev EVT.SRC_PEND : Nat := 0x100
abbrev EVT.ROUTE_A : Nat := 0x200
abbrev EVT.ROUTE_B : Nat := 0x280
abbrev EVT.ROUTE_S : Nat := 0x300
abbrev EVT.LOG_SEL : Nat := 0x380
abbrev EVT.EV_CTRL.LOG_EN : Fld := ⟨0x040, 0, 1⟩
abbrev EVT.EV_CTRL.HOLDOFF : Fld := ⟨0x040, 16, 16⟩
abbrev EVT.EV_STAT.STAGING : Fld := ⟨0x044, 0, 8⟩
abbrev EVT.EV_STAT.LOG_ACTIVE : Fld := ⟨0x044, 8, 1⟩
abbrev EVT.EV_STAT.CFG_ERR : Fld := ⟨0x044, 9, 1⟩
abbrev EVT.LOG_WR.INDEX : Fld := ⟨0x050, 5, 21⟩
abbrev EVT.HERR_INFO.CAUSE : Fld := ⟨0x064, 28, 4⟩
abbrev EVT.HERR_INFO.IFACE : Fld := ⟨0x064, 24, 2⟩
abbrev EVT.HERR_INFO.WORD : Fld := ⟨0x064, 0, 16⟩
/-- The register table of EVT (R450). -/
def rowsEVT : List RegRow := [
  ⟨0x040, 1, 0, .rw, 0x03E80000, 0xFFFF0001⟩,
  ⟨0x044, 1, 0, .ro, 0x00000000, 0x000003FF⟩,
  ⟨0x048, 1, 0, .rw, 0x00000000, 0xFFFFFFFF⟩,
  ⟨0x04C, 1, 0, .ro, 0x00000000, 0xFFFFFFFF⟩,
  ⟨0x050, 1, 0, .ro, 0x00000000, 0x03FFFFE0⟩,
  ⟨0x054, 1, 0, .ro, 0x00000000, 0xFFFFFFFF⟩,
  ⟨0x058, 1, 0, .ro, 0x00000000, 0xFFFFFFFF⟩,
  ⟨0x060, 1, 0, .ro, 0x00000000, 0xFFFFFFFF⟩,
  ⟨0x064, 1, 0, .ro, 0x00000000, 0xF300FFFF⟩,
  ⟨0x068, 1, 0, .ro, 0x00000000, 0xFFFFFFFF⟩,
  ⟨0x080, 1, 0, .ro, 0x00000000, 0xFFFFFFFF⟩,
  ⟨0x084, 1, 0, .ro, 0x00000000, 0xFFFFFFFF⟩,
  ⟨0x088, 1, 0, .ro, 0x00000000, 0xFFFFFFFF⟩,
  ⟨0x100, 32, 4, .ro, 0x00000000, 0xFFFFFFFF⟩,
  ⟨0x200, 32, 4, .rw, 0xFFFFFFFF, 0xFFFFFFFF⟩,
  ⟨0x280, 32, 4, .rw, 0x00000000, 0xFFFFFFFF⟩,
  ⟨0x300, 32, 4, .rw, 0xFFFFFFFF, 0xFFFFFFFF⟩,
  ⟨0x380, 32, 4, .rw, 0x00000000, 0xFFFFFFFF⟩]

/-! ## PROT: registers of R454 (12_control_plane.md) -/
abbrev PROT.PROP_FAM : Nat := 0x040
abbrev PROT.PROP_MASK : Nat := 0x044
abbrev PROT.PROP_CMD : Nat := 0x048
abbrev PROT.PROP_STAT : Nat := 0x04C
abbrev PROT.PROP_OLD : Nat := 0x050
abbrev PROT.PROP_LEFT : Nat := 0x054
abbrev PROT.RATIFY : Nat := 0x058
abbrev PROT.MAP : Nat := 0x100
abbrev PROT.PROP_FAM.FAM : Fld := ⟨0x040, 0, 6⟩
abbrev PROT.PROP_MASK.MASK : Fld := ⟨0x044, 0, 16⟩
abbrev PROT.PROP_CMD.SUBMIT : Fld := ⟨0x048, 0, 1⟩
abbrev PROT.PROP_CMD.WITHDRAW : Fld := ⟨0x048, 1, 1⟩
abbrev PROT.PROP_STAT.PROP_ID : Fld := ⟨0x04C, 16, 16⟩
abbrev PROT.PROP_STAT.PEER : Fld := ⟨0x04C, 8, 1⟩
abbrev PROT.PROP_STAT.STATE : Fld := ⟨0x04C, 0, 3⟩
abbrev PROT.PROP_OLD.MASK : Fld := ⟨0x050, 0, 16⟩
abbrev PROT.PROP_LEFT.US : Fld := ⟨0x054, 0, 14⟩
abbrev PROT.RATIFY.PROP_ID : Fld := ⟨0x058, 16, 16⟩
abbrev PROT.RATIFY.DECISION : Fld := ⟨0x058, 0, 2⟩
abbrev PROT.MAP.MASK : Fld := ⟨0x100, 0, 16⟩
/-- The register table of PROT (R454). -/
def rowsPROT : List RegRow := [
  ⟨0x040, 1, 0, .rw, 0x00000000, 0x0000003F⟩,
  ⟨0x044, 1, 0, .rw, 0x00000000, 0x0000FFFF⟩,
  ⟨0x048, 1, 0, .wo, 0x00000000, 0x00000003⟩,
  ⟨0x04C, 1, 0, .ro, 0x00000000, 0xFFFF0107⟩,
  ⟨0x050, 1, 0, .ro, 0x00000000, 0x0000FFFF⟩,
  ⟨0x054, 1, 0, .ro, 0x00000000, 0x00003FFF⟩,
  ⟨0x058, 1, 0, .wo, 0x00000000, 0xFFFF0003⟩,
  ⟨0x100, 35, 4, .ro, 0x00000000, 0x0000FFFF⟩]

/-! ## ID: registers of R583 (15_startup_firmware_lifecycle.md) -/
abbrev ID.CAP : Nat := 0x040
abbrev ID.STEP : Nat := 0x044
abbrev ID.CLMASK : Nat := 0x048
abbrev ID.DEV_ID_LO : Nat := 0x050
abbrev ID.DEV_ID_HI : Nat := 0x054
abbrev ID.PUBKEY : Nat := 0x060
abbrev ID.NONCE : Nat := 0x0A0
abbrev ID.CTX : Nat := 0x0C0
abbrev ID.CH_CMD : Nat := 0x0C4
abbrev ID.CH_STAT : Nat := 0x0C8
abbrev ID.SIG_A : Nat := 0x100
abbrev ID.SIG_B : Nat := 0x120
abbrev ID.CERT_LEN : Nat := 0x140
abbrev ID.CERT : Nat := 0x400
abbrev ID.CAP.DRAM : Fld := ⟨0x040, 24, 4⟩
abbrev ID.CAP.HOSTS : Fld := ⟨0x040, 16, 5⟩
abbrev ID.CAP.LINES : Fld := ⟨0x040, 8, 4⟩
abbrev ID.CAP.M400 : Fld := ⟨0x040, 4, 1⟩
abbrev ID.CAP.VARIANT : Fld := ⟨0x040, 0, 3⟩
abbrev ID.STEP.ROM_VER : Fld := ⟨0x044, 16, 16⟩
abbrev ID.STEP.LETTER : Fld := ⟨0x044, 8, 8⟩
abbrev ID.STEP.NUMBER : Fld := ⟨0x044, 0, 8⟩
abbrev ID.CLMASK.V : Fld := ⟨0x048, 0, 16⟩
abbrev ID.CH_CMD.SIGN : Fld := ⟨0x0C4, 0, 1⟩
abbrev ID.CH_STAT.DONE : Fld := ⟨0x0C8, 31, 1⟩
abbrev ID.CH_STAT.BUSY : Fld := ⟨0x0C8, 30, 1⟩
abbrev ID.CH_STAT.RESULT : Fld := ⟨0x0C8, 0, 2⟩
abbrev ID.CERT_LEN.V : Fld := ⟨0x140, 0, 11⟩
/-- The register table of ID (R583). -/
def rowsID : List RegRow := [
  ⟨0x040, 1, 0, .ro, 0x00000000, 0x0F1F0F17⟩,
  ⟨0x044, 1, 0, .ro, 0x00000000, 0xFFFFFFFF⟩,
  ⟨0x048, 1, 0, .ro, 0x00000000, 0x0000FFFF⟩,
  ⟨0x050, 1, 0, .ro, 0x00000000, 0xFFFFFFFF⟩,
  ⟨0x054, 1, 0, .ro, 0x00000000, 0xFFFFFFFF⟩,
  ⟨0x060, 16, 4, .ro, 0x00000000, 0xFFFFFFFF⟩,
  ⟨0x0A0, 8, 4, .rw, 0x00000000, 0xFFFFFFFF⟩,
  ⟨0x0C0, 1, 0, .rw, 0x00000000, 0xFFFFFFFF⟩,
  ⟨0x0C4, 1, 0, .wo, 0x00000000, 0x00000001⟩,
  ⟨0x0C8, 1, 0, .ro, 0x00000000, 0xC0000003⟩,
  ⟨0x100, 8, 4, .ro, 0x00000000, 0xFFFFFFFF⟩,
  ⟨0x120, 8, 4, .ro, 0x00000000, 0xFFFFFFFF⟩,
  ⟨0x140, 1, 0, .rw, 0x00000000, 0x000007FF⟩,
  ⟨0x400, 256, 4, .rw, 0x00000000, 0xFFFFFFFF⟩]

/-! ## THERM: registers of R501 (13_power_clocks_thermal.md) -/
abbrev THERM.TH_CTRL : Nat := 0x040
abbrev THERM.TH_STAT : Nat := 0x044
abbrev THERM.TJ_MAX : Nat := 0x048
abbrev THERM.POL_T : Nat := 0x04C
abbrev THERM.ENG_SLOW : Nat := 0x050
abbrev THERM.TS_CMD : Nat := 0x054
abbrev THERM.TS_BROKEN : Nat := 0x058
abbrev THERM.TS : Nat := 0x080
abbrev THERM.TH_CTRL.XCHK_EN : Fld := ⟨0x040, 0, 1⟩
abbrev THERM.TH_CTRL.POL_EN : Fld := ⟨0x040, 1, 1⟩
abbrev THERM.TH_STAT.VALID_CNT : Fld := ⟨0x044, 24, 5⟩
abbrev THERM.TH_STAT.HOT : Fld := ⟨0x044, 16, 5⟩
abbrev THERM.TH_STAT.ALARM_CRIT : Fld := ⟨0x044, 9, 1⟩
abbrev THERM.TH_STAT.ALARM_HI : Fld := ⟨0x044, 8, 1⟩
abbrev THERM.TH_STAT.LEVEL : Fld := ⟨0x044, 0, 2⟩
abbrev THERM.TJ_MAX.TEMP : Fld := ⟨0x048, 0, 16⟩
abbrev THERM.TJ_MAX.VALID : Fld := ⟨0x048, 31, 1⟩
abbrev THERM.POL_T.T1 : Fld := ⟨0x04C, 0, 8⟩
abbrev THERM.POL_T.T2 : Fld := ⟨0x04C, 8, 8⟩
abbrev THERM.POL_T.T3 : Fld := ⟨0x04C, 16, 8⟩
abbrev THERM.ENG_SLOW.EN : Fld := ⟨0x050, 0, 16⟩
abbrev THERM.TS_CMD.SENSOR : Fld := ⟨0x054, 0, 5⟩
abbrev THERM.TS_CMD.READMIT : Fld := ⟨0x054, 8, 1⟩
abbrev THERM.TS_BROKEN.V : Fld := ⟨0x058, 0, 24⟩
abbrev THERM.TS.STRIKES : Fld := ⟨0x080, 18, 2⟩
abbrev THERM.TS.BROKEN : Fld := ⟨0x080, 17, 1⟩
abbrev THERM.TS.VALID : Fld := ⟨0x080, 16, 1⟩
abbrev THERM.TS.TEMP : Fld := ⟨0x080, 0, 16⟩
/-- The register table of THERM (R501). -/
def rowsTHERM : List RegRow := [
  ⟨0x040, 1, 0, .rw, 0x00000003, 0x00000003⟩,
  ⟨0x044, 1, 0, .ro, 0x00000000, 0x1F1F0303⟩,
  ⟨0x048, 1, 0, .ro, 0x00000000, 0x8000FFFF⟩,
  ⟨0x04C, 1, 0, .rw, 0x00736E69, 0x00FFFFFF⟩,
  ⟨0x050, 1, 0, .rw, 0x0000FC00, 0x0000FFFF⟩,
  ⟨0x054, 1, 0, .wo, 0x00000000, 0x0000011F⟩,
  ⟨0x058, 1, 0, .ro, 0x00000000, 0x00FFFFFF⟩,
  ⟨0x080, 24, 4, .ro, 0x00000000, 0x000FFFFF⟩]

/-! ## LRX: registers of R71 (02_line_receiver.md) -/
abbrev LRX.LN_CTRL : Nat := 0x040
abbrev LRX.LN_STAT : Nat := 0x044
abbrev LRX.ACQ_CMD : Nat := 0x048
abbrev LRX.ACQ_TMO : Nat := 0x04C
abbrev LRX.AFE_CTRL : Nat := 0x050
abbrev LRX.AFE_STAT : Nat := 0x054
abbrev LRX.LOS_CFG : Nat := 0x058
abbrev LRX.ADC_MON : Nat := 0x05C
abbrev LRX.SLICE_MAP : Nat := 0x060
abbrev LRX.POS_MAP0 : Nat := 0x064
abbrev LRX.POS_MAP1 : Nat := 0x068
abbrev LRX.POS_MAP2 : Nat := 0x06C
abbrev LRX.DCB_CTRL : Nat := 0x070
abbrev LRX.DCB_EST : Nat := 0x074
abbrev LRX.TR_CFG : Nat := 0x078
abbrev LRX.TR_FREQ : Nat := 0x07C
abbrev LRX.TR_STEP : Nat := 0x080
abbrev LRX.RS_CTRL : Nat := 0x084
abbrev LRX.RS_STAT : Nat := 0x088
abbrev LRX.DET_CTRL : Nat := 0x08C
abbrev LRX.SLC_THR : Nat := 0x090
abbrev LRX.SLC_LVL0 : Nat := 0x094
abbrev LRX.SLC_LVL1 : Nat := 0x098
abbrev LRX.DFE_TAP : Nat := 0x09C
abbrev LRX.COMMIT : Nat := 0x0A0
abbrev LRX.COMMIT_STAT : Nat := 0x0A4
abbrev LRX.ACT_SEL : Nat := 0x0A8
abbrev LRX.ACT_DATA : Nat := 0x0AC
abbrev LRX.SNR_EST : Nat := 0x0B0
abbrev LRX.SNR_CFG : Nat := 0x0B4
abbrev LRX.CNT_LOCK_LOSS : Nat := 0x0B8
abbrev LRX.CNT_ACQ_FAIL : Nat := 0x0BC
abbrev LRX.FRAME_CNT : Nat := 0x0C0
abbrev LRX.MC_A : Nat := 0x100
abbrev LRX.MC_B : Nat := 0x104
abbrev LRX.FFE : Nat := 0x200
abbrev LRX.VOL : Nat := 0x2C0
abbrev LRX.MLSE_REF : Nat := 0x300
abbrev LRX.RS_TAB : Nat := 0x800
abbrev LRX.LN_CTRL.POL_INV : Fld := ⟨0x040, 0, 1⟩
abbrev LRX.LN_STAT.LOSS_CAUSE : Fld := ⟨0x044, 16, 3⟩
abbrev LRX.LN_STAT.SERVED : Fld := ⟨0x044, 11, 1⟩
abbrev LRX.LN_STAT.DCB_FROZEN : Fld := ⟨0x044, 10, 1⟩
abbrev LRX.LN_STAT.FRAME_LOCK : Fld := ⟨0x044, 9, 1⟩
abbrev LRX.LN_STAT.SNR_OK : Fld := ⟨0x044, 8, 1⟩
abbrev LRX.LN_STAT.TR_LOCK : Fld := ⟨0x044, 7, 1⟩
abbrev LRX.LN_STAT.LOS : Fld := ⟨0x044, 6, 1⟩
abbrev LRX.LN_STAT.STATE : Fld := ⟨0x044, 0, 3⟩
abbrev LRX.ACQ_CMD.RESTART : Fld := ⟨0x048, 1, 1⟩
abbrev LRX.ACQ_CMD.ADVANCE : Fld := ⟨0x048, 0, 1⟩
abbrev LRX.AFE_CTRL.POLE : Fld := ⟨0x050, 16, 2⟩
abbrev LRX.AFE_CTRL.VGA : Fld := ⟨0x050, 4, 6⟩
abbrev LRX.AFE_CTRL.CTLE : Fld := ⟨0x050, 0, 4⟩
abbrev LRX.AFE_STAT.AMPL : Fld := ⟨0x054, 0, 10⟩
abbrev LRX.LOS_CFG.LOS_T : Fld := ⟨0x058, 16, 10⟩
abbrev LRX.LOS_CFG.LOS_OFF : Fld := ⟨0x058, 8, 8⟩
abbrev LRX.LOS_CFG.LOS_ON : Fld := ⟨0x058, 0, 8⟩
abbrev LRX.ADC_MON.CLIP : Fld := ⟨0x05C, 16, 12⟩
abbrev LRX.ADC_MON.RMS : Fld := ⟨0x05C, 0, 12⟩
abbrev LRX.SLICE_MAP.RETIRED : Fld := ⟨0x060, 15, 17⟩
abbrev LRX.SLICE_MAP.CAL : Fld := ⟨0x060, 5, 5⟩
abbrev LRX.SLICE_MAP.SPARE : Fld := ⟨0x060, 0, 5⟩
abbrev LRX.DCB_CTRL.SHIFT : Fld := ⟨0x070, 4, 5⟩
abbrev LRX.DCB_CTRL.FREEZE : Fld := ⟨0x070, 0, 1⟩
abbrev LRX.TR_CFG.PH_OFS : Fld := ⟨0x078, 8, 6⟩
abbrev LRX.TR_CFG.FHOLD : Fld := ⟨0x078, 4, 1⟩
abbrev LRX.TR_CFG.BW : Fld := ⟨0x078, 1, 3⟩
abbrev LRX.TR_CFG.TED : Fld := ⟨0x078, 0, 1⟩
abbrev LRX.TR_FREQ.DELTA : Fld := ⟨0x07C, 0, 24⟩
abbrev LRX.RS_CTRL.TAB_DEFAULT : Fld := ⟨0x084, 0, 1⟩
abbrev LRX.RS_STAT.DEFAULT_ACTIVE : Fld := ⟨0x088, 2, 1⟩
abbrev LRX.RS_STAT.TAB_PENDING : Fld := ⟨0x088, 1, 1⟩
abbrev LRX.RS_STAT.RUN : Fld := ⟨0x088, 0, 1⟩
abbrev LRX.DET_CTRL.NOISE_SH : Fld := ⟨0x08C, 4, 5⟩
abbrev LRX.DET_CTRL.DET : Fld := ⟨0x08C, 0, 1⟩
abbrev LRX.SLC_THR.THR_HI : Fld := ⟨0x090, 20, 10⟩
abbrev LRX.SLC_THR.THR_MID : Fld := ⟨0x090, 10, 10⟩
abbrev LRX.SLC_THR.THR_LO : Fld := ⟨0x090, 0, 10⟩
abbrev LRX.SLC_LVL0.L1 : Fld := ⟨0x094, 16, 10⟩
abbrev LRX.SLC_LVL0.L0 : Fld := ⟨0x094, 0, 10⟩
abbrev LRX.SLC_LVL1.L3 : Fld := ⟨0x098, 16, 10⟩
abbrev LRX.SLC_LVL1.L2 : Fld := ⟨0x098, 0, 10⟩
abbrev LRX.DFE_TAP.TAP : Fld := ⟨0x09C, 0, 12⟩
abbrev LRX.COMMIT.GROUPS : Fld := ⟨0x0A0, 0, 7⟩
abbrev LRX.COMMIT_STAT.FRAME : Fld := ⟨0x0A4, 16, 16⟩
abbrev LRX.COMMIT_STAT.LAST_DISCARDED : Fld := ⟨0x0A4, 7, 1⟩
abbrev LRX.COMMIT_STAT.PENDING : Fld := ⟨0x0A4, 0, 7⟩
abbrev LRX.ACT_SEL.OFS : Fld := ⟨0x0A8, 2, 10⟩
abbrev LRX.SNR_EST.SNR : Fld := ⟨0x0B0, 0, 10⟩
abbrev LRX.SNR_CFG.SNR_ACQ : Fld := ⟨0x0B4, 0, 10⟩
abbrev LRX.SNR_CFG.SNR_LOSS : Fld := ⟨0x0B4, 16, 10⟩
abbrev LRX.MC_A.GAIN : Fld := ⟨0x100, 16, 12⟩
abbrev LRX.MC_A.OFFSET : Fld := ⟨0x100, 0, 10⟩
abbrev LRX.MC_B.BW : Fld := ⟨0x104, 16, 8⟩
abbrev LRX.MC_B.SKEW : Fld := ⟨0x104, 0, 11⟩
abbrev LRX.FFE.TAP : Fld := ⟨0x200, 0, 14⟩
abbrev LRX.VOL.COEF : Fld := ⟨0x2C0, 16, 14⟩
abbrev LRX.VOL.EN : Fld := ⟨0x2C0, 8, 1⟩
abbrev LRX.VOL.B : Fld := ⟨0x2C0, 4, 4⟩
abbrev LRX.VOL.A : Fld := ⟨0x2C0, 0, 4⟩
/-- The register table of LRX (R71). -/
def rowsLRX : List RegRow := [
  ⟨0x040, 1, 0, .rw, 0x00000000, 0x00000001⟩,
  ⟨0x044, 1, 0, .ro, 0x00000040, 0x00070FC7⟩,
  ⟨0x048, 1, 0, .wo, 0x00000000, 0x00000003⟩,
  ⟨0x04C, 1, 0, .rw, 0x00000032, 0x0000FFFF⟩,
  ⟨0x050, 1, 0, .rw, 0x000000C6, 0x000303FF⟩,
  ⟨0x054, 1, 0, .ro, 0x00000000, 0x000003FF⟩,
  ⟨0x058, 1, 0, .rw, 0x0064160F, 0x03FFFFFF⟩,
  ⟨0x05C, 1, 0, .ro, 0x00000000, 0x0FFF0FFF⟩,
  ⟨0x060, 1, 0, .ro, 0x000003F0, 0xFFFF83FF⟩,
  ⟨0x064, 1, 0, .ro, 0x0A418820, 0xFFFFFFFF⟩,
  ⟨0x068, 1, 0, .ro, 0x16A4A0E6, 0xFFFFFFFF⟩,
  ⟨0x06C, 1, 0, .ro, 0x0007B9AC, 0xFFFFFFFF⟩,
  ⟨0x070, 1, 0, .rw, 0x00000100, 0x000001F1⟩,
  ⟨0x074, 1, 0, .ro, 0x00000000, 0xFFFFFFFF⟩,
  ⟨0x078, 1, 0, .rw, 0x0000000C, 0x00003F1F⟩,
  ⟨0x07C, 1, 0, .ro, 0x00000000, 0x00FFFFFF⟩,
  ⟨0x080, 1, 0, .ro, 0x43B3D5B0, 0xFFFFFFFF⟩,
  ⟨0x084, 1, 0, .rw, 0x00000001, 0x00000001⟩,
  ⟨0x088, 1, 0, .ro, 0x00000004, 0x00000007⟩,
  ⟨0x08C, 1, 0, .rw, 0x00000041, 0x000001F1⟩,
  ⟨0x090, 1, 0, .rw, 0x08000380, 0x3FFFFFFF⟩,
  ⟨0x094, 1, 0, .rw, 0x03C00340, 0x03FF03FF⟩,
  ⟨0x098, 1, 0, .rw, 0x00C00040, 0x03FF03FF⟩,
  ⟨0x09C, 1, 0, .rw, 0x00000000, 0x00000FFF⟩,
  ⟨0x0A0, 1, 0, .wo, 0x00000000, 0x0000007F⟩,
  ⟨0x0A4, 1, 0, .ro, 0x00000000, 0xFFFF00FF⟩,
  ⟨0x0A8, 1, 0, .rw, 0x00000000, 0x00000FFC⟩,
  ⟨0x0AC, 1, 0, .ro, 0x00000000, 0xFFFFFFFF⟩,
  ⟨0x0B0, 1, 0, .ro, 0x00000000, 0x000003FF⟩,
  ⟨0x0B4, 1, 0, .rw, 0x00780096, 0x03FF03FF⟩,
  ⟨0x0B8, 1, 0, .ro, 0x00000000, 0xFFFFFFFF⟩,
  ⟨0x0BC, 1, 0, .ro, 0x00000000, 0xFFFFFFFF⟩,
  ⟨0x0C0, 1, 0, .ro, 0x00000000, 0xFFFFFFFF⟩,
  ⟨0x100, 17, 8, .rw, 0x00000000, 0x0FFF03FF⟩,
  ⟨0x104, 17, 8, .rw, 0x00000000, 0x00FF07FF⟩,
  ⟨0x200, 41, 4, .rw, 0x00000000, 0x00003FFF⟩,
  ⟨0x2C0, 12, 4, .rw, 0x00000000, 0x3FFF01FF⟩,
  ⟨0x300, 32, 4, .rw, 0x00000000, 0x03FF03FF⟩,
  ⟨0x800, 512, 4, .rw, 0x00000000, 0x00FFFFFF⟩]

/-! ## LTX: registers of R116 (03_line_transmitter.md) -/
abbrev LTX.TX_CTRL : Nat := 0x040
abbrev LTX.TX_STAT : Nat := 0x044
abbrev LTX.SQ_HOLD : Nat := 0x048
abbrev LTX.SKEW_C : Nat := 0x04C
abbrev LTX.SKEW_F : Nat := 0x050
abbrev LTX.AMP_CTRL : Nat := 0x054
abbrev LTX.SLICE_MAP : Nat := 0x058
abbrev LTX.POS_MAP0 : Nat := 0x05C
abbrev LTX.POS_MAP1 : Nat := 0x060
abbrev LTX.POS_MAP2 : Nat := 0x064
abbrev LTX.CLIP_CNT : Nat := 0x068
abbrev LTX.COMMIT : Nat := 0x06C
abbrev LTX.COMMIT_STAT : Nat := 0x070
abbrev LTX.ACT_SEL : Nat := 0x074
abbrev LTX.ACT_DATA : Nat := 0x078
abbrev LTX.FRAME_CNT : Nat := 0x07C
abbrev LTX.REM_CTRL : Nat := 0x080
abbrev LTX.REM_STAT : Nat := 0x084
abbrev LTX.REM_CNT : Nat := 0x088
abbrev LTX.MC_A : Nat := 0x100
abbrev LTX.MC_B : Nat := 0x104
abbrev LTX.FIR : Nat := 0x200
abbrev LTX.NLP : Nat := 0x240
abbrev LTX.TX_CTRL.PAT : Fld := ⟨0x040, 4, 3⟩
abbrev LTX.TX_CTRL.POL_INV : Fld := ⟨0x040, 1, 1⟩
abbrev LTX.TX_CTRL.BEACON : Fld := ⟨0x040, 0, 1⟩
abbrev LTX.TX_STAT.PILOT_ON : Fld := ⟨0x044, 11, 1⟩
abbrev LTX.TX_STAT.REM_PENDING : Fld := ⟨0x044, 10, 1⟩
abbrev LTX.TX_STAT.SKEW_MOVING : Fld := ⟨0x044, 9, 1⟩
abbrev LTX.TX_STAT.SERVED : Fld := ⟨0x044, 8, 1⟩
abbrev LTX.TX_STAT.STATE : Fld := ⟨0x044, 0, 3⟩
abbrev LTX.SQ_HOLD.US : Fld := ⟨0x048, 0, 10⟩
abbrev LTX.SKEW_C.SYM : Fld := ⟨0x04C, 0, 5⟩
abbrev LTX.SKEW_F.F : Fld := ⟨0x050, 0, 6⟩
abbrev LTX.AMP_CTRL.PDEPTH : Fld := ⟨0x054, 8, 5⟩
abbrev LTX.AMP_CTRL.SWING : Fld := ⟨0x054, 0, 6⟩
abbrev LTX.COMMIT.GROUPS : Fld := ⟨0x06C, 0, 5⟩
abbrev LTX.COMMIT_STAT.FRAME : Fld := ⟨0x070, 16, 16⟩
abbrev LTX.COMMIT_STAT.LAST_DISCARDED : Fld := ⟨0x070, 7, 1⟩
abbrev LTX.COMMIT_STAT.PENDING : Fld := ⟨0x070, 0, 5⟩
abbrev LTX.ACT_SEL.OFS : Fld := ⟨0x074, 2, 10⟩
abbrev LTX.REM_CTRL.TAP_MAX : Fld := ⟨0x080, 20, 8⟩
abbrev LTX.REM_CTRL.SUM_MAX : Fld := ⟨0x080, 8, 10⟩
abbrev LTX.REM_CTRL.SWING_ALLOW : Fld := ⟨0x080, 1, 1⟩
abbrev LTX.REM_CTRL.ALLOW : Fld := ⟨0x080, 0, 1⟩
abbrev LTX.REM_STAT.LOCAL_IGNORED : Fld := ⟨0x084, 16, 1⟩
abbrev LTX.REM_STAT.LAST_ARG : Fld := ⟨0x084, 8, 8⟩
abbrev LTX.REM_STAT.LAST_RESP : Fld := ⟨0x084, 4, 3⟩
abbrev LTX.REM_STAT.LAST_REQ : Fld := ⟨0x084, 0, 3⟩
abbrev LTX.REM_CNT.REFUSED : Fld := ⟨0x088, 16, 16⟩
abbrev LTX.REM_CNT.ACCEPTED : Fld := ⟨0x088, 0, 16⟩
abbrev LTX.FIR.TAP : Fld := ⟨0x200, 0, 10⟩
/-- The register table of LTX (R116). -/
def rowsLTX : List RegRow := [
  ⟨0x040, 1, 0, .rw, 0x00000000, 0x00000073⟩,
  ⟨0x044, 1, 0, .ro, 0x00000000, 0x00000F07⟩,
  ⟨0x048, 1, 0, .rw, 0x0000000A, 0x000003FF⟩,
  ⟨0x04C, 1, 0, .rw, 0x00000000, 0x0000001F⟩,
  ⟨0x050, 1, 0, .rw, 0x00000000, 0x0000003F⟩,
  ⟨0x054, 1, 0, .rw, 0x0000081E, 0x00001F3F⟩,
  ⟨0x058, 1, 0, .ro, 0x000003F0, 0xFFFFFFFF⟩,
  ⟨0x05C, 1, 0, .ro, 0x0A418820, 0xFFFFFFFF⟩,
  ⟨0x060, 1, 0, .ro, 0x16A4A0E6, 0xFFFFFFFF⟩,
  ⟨0x064, 1, 0, .ro, 0x0007B9AC, 0xFFFFFFFF⟩,
  ⟨0x068, 1, 0, .ro, 0x00000000, 0xFFFFFFFF⟩,
  ⟨0x06C, 1, 0, .wo, 0x00000000, 0x0000001F⟩,
  ⟨0x070, 1, 0, .ro, 0x00000000, 0xFFFF009F⟩,
  ⟨0x074, 1, 0, .rw, 0x00000000, 0x00000FFC⟩,
  ⟨0x078, 1, 0, .ro, 0x00000000, 0xFFFFFFFF⟩,
  ⟨0x07C, 1, 0, .ro, 0x00000000, 0xFFFFFFFF⟩,
  ⟨0x080, 1, 0, .rw, 0x04010000, 0x0FF3FF03⟩,
  ⟨0x084, 1, 0, .ro, 0x00000000, 0x0001FF77⟩,
  ⟨0x088, 1, 0, .ro, 0x00000000, 0xFFFFFFFF⟩,
  ⟨0x100, 17, 8, .rw, 0x00000000, 0x0FFF03FF⟩,
  ⟨0x104, 17, 8, .rw, 0x00000000, 0x000007FF⟩,
  ⟨0x200, 7, 4, .rw, 0x00000000, 0x000003FF⟩,
  ⟨0x240, 16, 4, .rw, 0x00000000, 0xFFFFFFFF⟩]

/-! ## CAL: registers of R152 (04_calibration_sparing.md) -/
abbrev CAL.CAL_CTRL : Nat := 0x040
abbrev CAL.CAL_STAT : Nat := 0x044
abbrev CAL.CAL_CMD : Nat := 0x048
abbrev CAL.STEP_INT : Nat := 0x04C
abbrev CAL.RETRY_CFG : Nat := 0x050
abbrev CAL.QUIET_CFG : Nat := 0x054
abbrev CAL.MON_CFG : Nat := 0x058
abbrev CAL.REF_MEAS : Nat := 0x05C
abbrev CAL.BG_TRIM : Nat := 0x060
abbrev CAL.U_STAT : Nat := 0x080
abbrev CAL.U_CNT : Nat := 0x0C0
abbrev CAL.U_CMD : Nat := 0x100
abbrev CAL.U_REC : Nat := 0x140
abbrev CAL.RES_OFS : Nat := 0x200
abbrev CAL.RES_GAIN : Nat := 0x204
abbrev CAL.RES_SKEW : Nat := 0x208
abbrev CAL.RES_BW : Nat := 0x20C
abbrev CAL.CAL_CTRL.REF_MODE : Fld := ⟨0x040, 4, 2⟩
abbrev CAL.CAL_CTRL.HK_EN : Fld := ⟨0x040, 3, 1⟩
abbrev CAL.CAL_CTRL.MON_EN : Fld := ⟨0x040, 2, 1⟩
abbrev CAL.CAL_CTRL.QUIET_EN : Fld := ⟨0x040, 1, 1⟩
abbrev CAL.CAL_CTRL.EN : Fld := ⟨0x040, 0, 1⟩
abbrev CAL.CAL_STAT.PAUSED_BO : Fld := ⟨0x044, 3, 1⟩
abbrev CAL.CAL_STAT.REF_BUSY : Fld := ⟨0x044, 2, 1⟩
abbrev CAL.CAL_STAT.CALREF : Fld := ⟨0x044, 0, 2⟩
abbrev CAL.CAL_CMD.REF_MEASURE : Fld := ⟨0x048, 0, 1⟩
abbrev CAL.STEP_INT.MS : Fld := ⟨0x04C, 0, 16⟩
abbrev CAL.RETRY_CFG.RES_TMO : Fld := ⟨0x050, 16, 16⟩
abbrev CAL.RETRY_CFG.DIS_LIM : Fld := ⟨0x050, 4, 3⟩
abbrev CAL.RETRY_CFG.RETRIES : Fld := ⟨0x050, 0, 2⟩
abbrev CAL.QUIET_CFG.QUIET_GRANT_EN : Fld := ⟨0x054, 24, 1⟩
abbrev CAL.QUIET_CFG.QUIET_TMO : Fld := ⟨0x054, 16, 8⟩
abbrev CAL.QUIET_CFG.QUIET_LEN : Fld := ⟨0x054, 0, 8⟩
abbrev CAL.MON_CFG.MON_N : Fld := ⟨0x058, 16, 3⟩
abbrev CAL.MON_CFG.MON_GAIN : Fld := ⟨0x058, 8, 8⟩
abbrev CAL.MON_CFG.MON_OFS : Fld := ⟨0x058, 0, 8⟩
abbrev CAL.REF_MEAS.BG : Fld := ⟨0x05C, 16, 16⟩
abbrev CAL.REF_MEAS.CALREF_V : Fld := ⟨0x05C, 0, 16⟩
abbrev CAL.BG_TRIM.FIELD : Fld := ⟨0x060, 31, 1⟩
abbrev CAL.BG_TRIM.TRIM : Fld := ⟨0x060, 0, 12⟩
abbrev CAL.U_STAT.EMERG : Fld := ⟨0x080, 28, 4⟩
abbrev CAL.U_STAT.RETRY : Fld := ⟨0x080, 24, 4⟩
abbrev CAL.U_STAT.QUIET_BROKEN : Fld := ⟨0x080, 20, 1⟩
abbrev CAL.U_STAT.QUIET_OPEN : Fld := ⟨0x080, 19, 1⟩
abbrev CAL.U_STAT.SUSPECT : Fld := ⟨0x080, 18, 1⟩
abbrev CAL.U_STAT.DEGRADED : Fld := ⟨0x080, 17, 1⟩
abbrev CAL.U_STAT.EXHAUSTED : Fld := ⟨0x080, 16, 1⟩
abbrev CAL.U_STAT.CAUSE : Fld := ⟨0x080, 12, 3⟩
abbrev CAL.U_STAT.POS : Fld := ⟨0x080, 8, 4⟩
abbrev CAL.U_STAT.SLICE : Fld := ⟨0x080, 3, 5⟩
abbrev CAL.U_STAT.PHASE : Fld := ⟨0x080, 0, 3⟩
abbrev CAL.U_CNT.SHADOW_REF : Fld := ⟨0x0C0, 24, 8⟩
abbrev CAL.U_CNT.DISAGREE : Fld := ⟨0x0C0, 16, 8⟩
abbrev CAL.U_CNT.STEPS : Fld := ⟨0x0C0, 0, 16⟩
abbrev CAL.U_CMD.SLICE : Fld := ⟨0x100, 8, 5⟩
abbrev CAL.U_CMD.RETIRE : Fld := ⟨0x100, 4, 1⟩
abbrev CAL.U_CMD.RESUME : Fld := ⟨0x100, 3, 1⟩
abbrev CAL.U_CMD.HOLD : Fld := ⟨0x100, 2, 1⟩
abbrev CAL.U_CMD.SUBMIT : Fld := ⟨0x100, 1, 1⟩
abbrev CAL.U_CMD.STEP_NOW : Fld := ⟨0x100, 0, 1⟩
abbrev CAL.U_REC.OFS : Fld := ⟨0x140, 6, 12⟩
/-- The register table of CAL (R152). -/
def rowsCAL : List RegRow := [
  ⟨0x040, 1, 0, .rw, 0x00000000, 0x0000003F⟩,
  ⟨0x044, 1, 0, .ro, 0x00000000, 0x0000000F⟩,
  ⟨0x048, 1, 0, .wo, 0x00000000, 0x00000001⟩,
  ⟨0x04C, 1, 0, .rw, 0x00000014, 0x0000FFFF⟩,
  ⟨0x050, 1, 0, .rw, 0x03E80023, 0xFFFF0073⟩,
  ⟨0x054, 1, 0, .rw, 0x01320040, 0x01FF00FF⟩,
  ⟨0x058, 1, 0, .rw, 0x00023210, 0x0007FFFF⟩,
  ⟨0x05C, 1, 0, .ro, 0x00000000, 0xFFFFFFFF⟩,
  ⟨0x060, 1, 0, .rws, 0x00000000, 0x80000FFF⟩,
  ⟨0x080, 16, 4, .ro, 0x000000F8, 0xFF1F7FFF⟩,
  ⟨0x0C0, 16, 4, .ro, 0x00000000, 0xFFFFFFFF⟩,
  ⟨0x100, 16, 4, .wo, 0x00000000, 0x00001F1F⟩,
  ⟨0x140, 16, 4, .rw, 0x00000000, 0x0003FFC0⟩,
  ⟨0x200, 16, 16, .rw, 0x00000000, 0x03FF03FF⟩,
  ⟨0x204, 16, 16, .rw, 0x00000000, 0x0FFF0FFF⟩,
  ⟨0x208, 16, 16, .rw, 0x00000000, 0x07FF07FF⟩,
  ⟨0x20C, 16, 16, .rw, 0x00000000, 0x00FF00FF⟩]

/-! ## IFEC: registers of R188 (05_fec_framing.md) -/
abbrev IFEC.IF_CTRL : Nat := 0x040
abbrev IFEC.IF_STAT : Nat := 0x044
abbrev IFEC.SNAP_FRAME : Nat := 0x048
abbrev IFEC.STAT_FLAGS : Nat := 0x04C
abbrev IFEC.BITS_LO : Nat := 0x050
abbrev IFEC.BITS_HI : Nat := 0x054
abbrev IFEC.CORR_LO : Nat := 0x058
abbrev IFEC.CORR_HI : Nat := 0x05C
abbrev IFEC.CW_LO : Nat := 0x060
abbrev IFEC.CW_HI : Nat := 0x064
abbrev IFEC.NCONV_LO : Nat := 0x068
abbrev IFEC.NCONV_HI : Nat := 0x06C
abbrev IFEC.RS_SYM_LO : Nat := 0x070
abbrev IFEC.RS_SYM_HI : Nat := 0x074
abbrev IFEC.HDR_ERR : Nat := 0x078
abbrev IFEC.FLOCK_LOSS : Nat := 0x07C
abbrev IFEC.SYMPOS : Nat := 0x080
abbrev IFEC.LVL : Nat := 0x0C0
abbrev IFEC.CONV : Nat := 0x0D0
abbrev IFEC.IF_CTRL.CLR_ON_SNAP : Fld := ⟨0x040, 16, 1⟩
abbrev IFEC.IF_CTRL.QUAL_T : Fld := ⟨0x040, 8, 8⟩
abbrev IFEC.IF_CTRL.LOSS_N : Fld := ⟨0x040, 4, 3⟩
abbrev IFEC.IF_CTRL.FAW_ERR : Fld := ⟨0x040, 0, 4⟩
abbrev IFEC.IF_STAT.RX_FRAME : Fld := ⟨0x044, 16, 16⟩
abbrev IFEC.IF_STAT.FAR_SIZE : Fld := ⟨0x044, 11, 2⟩
abbrev IFEC.IF_STAT.FAR_LANE : Fld := ⟨0x044, 8, 3⟩
abbrev IFEC.IF_STAT.SNAP_PEND : Fld := ⟨0x044, 6, 1⟩
abbrev IFEC.IF_STAT.FAR_RDI : Fld := ⟨0x044, 5, 1⟩
abbrev IFEC.IF_STAT.FRAME_LOCK : Fld := ⟨0x044, 4, 1⟩
abbrev IFEC.IF_STAT.FSTATE : Fld := ⟨0x044, 0, 2⟩
abbrev IFEC.STAT_FLAGS.SYMPOS_WRAPPED : Fld := ⟨0x04C, 5, 1⟩
abbrev IFEC.STAT_FLAGS.RS_SYM_WRAPPED : Fld := ⟨0x04C, 4, 1⟩
abbrev IFEC.STAT_FLAGS.NCONV_WRAPPED : Fld := ⟨0x04C, 3, 1⟩
abbrev IFEC.STAT_FLAGS.CW_WRAPPED : Fld := ⟨0x04C, 2, 1⟩
abbrev IFEC.STAT_FLAGS.CORR_WRAPPED : Fld := ⟨0x04C, 1, 1⟩
abbrev IFEC.LVL.MEAN : Fld := ⟨0x0C0, 16, 10⟩
abbrev IFEC.LVL.SNR : Fld := ⟨0x0C0, 0, 10⟩
/-- The register table of IFEC (R188). -/
def rowsIFEC : List RegRow := [
  ⟨0x040, 1, 0, .rw, 0x00000F44, 0x0001FF7F⟩,
  ⟨0x044, 1, 0, .ro, 0x00000000, 0xFFFF1F73⟩,
  ⟨0x048, 1, 0, .ro, 0x00000000, 0xFFFFFFFF⟩,
  ⟨0x04C, 1, 0, .w1c, 0x00000000, 0x0000003E⟩,
  ⟨0x050, 1, 0, .ro, 0x00000000, 0xFFFFFFFF⟩,
  ⟨0x054, 1, 0, .ro, 0x00000000, 0xFFFFFFFF⟩,
  ⟨0x058, 1, 0, .ro, 0x00000000, 0xFFFFFFFF⟩,
  ⟨0x05C, 1, 0, .ro, 0x00000000, 0xFFFFFFFF⟩,
  ⟨0x060, 1, 0, .ro, 0x00000000, 0xFFFFFFFF⟩,
  ⟨0x064, 1, 0, .ro, 0x00000000, 0xFFFFFFFF⟩,
  ⟨0x068, 1, 0, .ro, 0x00000000, 0xFFFFFFFF⟩,
  ⟨0x06C, 1, 0, .ro, 0x00000000, 0xFFFFFFFF⟩,
  ⟨0x070, 1, 0, .ro, 0x00000000, 0xFFFFFFFF⟩,
  ⟨0x074, 1, 0, .ro, 0x00000000, 0xFFFFFFFF⟩,
  ⟨0x078, 1, 0, .ro, 0x00000000, 0xFFFFFFFF⟩,
  ⟨0x07C, 1, 0, .ro, 0x00000000, 0xFFFFFFFF⟩,
  ⟨0x080, 16, 4, .ro, 0x00000000, 0xFFFFFFFF⟩,
  ⟨0x0C0, 4, 4, .ro, 0x00000000, 0x03FF03FF⟩,
  ⟨0x0D0, 7, 4, .ro, 0x00000000, 0xFFFFFFFF⟩]

/-! ## OFEC: registers of R192 (05_fec_framing.md) -/
abbrev OFEC.OF_CTRL : Nat := 0x040
abbrev OFEC.OF_STAT : Nat := 0x044
abbrev OFEC.SNAP_FRAME : Nat := 0x048
abbrev OFEC.STAT_FLAGS : Nat := 0x04C
abbrev OFEC.CW_TOTAL_LO : Nat := 0x050
abbrev OFEC.CW_TOTAL_HI : Nat := 0x054
abbrev OFEC.SYM_CORR_LO : Nat := 0x058
abbrev OFEC.SYM_CORR_HI : Nat := 0x05C
abbrev OFEC.BIT_CORR_LO : Nat := 0x060
abbrev OFEC.BIT_CORR_HI : Nat := 0x064
abbrev OFEC.UNCORR_LO : Nat := 0x068
abbrev OFEC.UNCORR_HI : Nat := 0x06C
abbrev OFEC.TSF_NS : Nat := 0x070
abbrev OFEC.TSF_HI : Nat := 0x074
abbrev OFEC.TSL_NS : Nat := 0x078
abbrev OFEC.TSL_HI : Nat := 0x07C
abbrev OFEC.HIST_LO : Nat := 0x080
abbrev OFEC.HIST_HI : Nat := 0x084
abbrev OFEC.DEG_INT : Nat := 0x100
abbrev OFEC.DEG_ACT : Nat := 0x104
abbrev OFEC.DEG_DEACT : Nat := 0x108
abbrev OFEC.TX_UNCORR : Nat := 0x10C
abbrev OFEC.TX_SYM_LO : Nat := 0x110
abbrev OFEC.TX_SYM_HI : Nat := 0x114
abbrev OFEC.OF_CTRL.CLR_ON_SNAP : Fld := ⟨0x040, 8, 1⟩
abbrev OFEC.OF_CTRL.TX_MODE : Fld := ⟨0x040, 1, 1⟩
abbrev OFEC.OF_CTRL.RX_MODE : Fld := ⟨0x040, 0, 1⟩
abbrev OFEC.OF_STAT.SNAP_PEND : Fld := ⟨0x044, 6, 1⟩
abbrev OFEC.OF_STAT.TX_MODE_ACT : Fld := ⟨0x044, 5, 1⟩
abbrev OFEC.OF_STAT.RX_MODE_ACT : Fld := ⟨0x044, 4, 1⟩
abbrev OFEC.OF_STAT.DEG_SER : Fld := ⟨0x044, 2, 1⟩
abbrev OFEC.OF_STAT.TX_CW_LOCK : Fld := ⟨0x044, 1, 1⟩
abbrev OFEC.OF_STAT.RX_CW_LOCK : Fld := ⟨0x044, 0, 1⟩
abbrev OFEC.STAT_FLAGS.TX_SYM_WRAPPED : Fld := ⟨0x04C, 20, 1⟩
abbrev OFEC.STAT_FLAGS.UNCORR_WRAPPED : Fld := ⟨0x04C, 19, 1⟩
abbrev OFEC.STAT_FLAGS.BIT_CORR_WRAPPED : Fld := ⟨0x04C, 18, 1⟩
abbrev OFEC.STAT_FLAGS.SYM_CORR_WRAPPED : Fld := ⟨0x04C, 17, 1⟩
abbrev OFEC.STAT_FLAGS.CW_TOTAL_WRAPPED : Fld := ⟨0x04C, 16, 1⟩
abbrev OFEC.STAT_FLAGS.HIST_WRAPPED : Fld := ⟨0x04C, 0, 16⟩
abbrev OFEC.TSF_HI.VALID : Fld := ⟨0x074, 31, 1⟩
abbrev OFEC.TSF_HI.WRAPS : Fld := ⟨0x074, 0, 16⟩
abbrev OFEC.TSL_HI.VALID : Fld := ⟨0x07C, 31, 1⟩
abbrev OFEC.TSL_HI.WRAPS : Fld := ⟨0x07C, 0, 16⟩
abbrev OFEC.DEG_INT.UNITS : Fld := ⟨0x100, 0, 16⟩
/-- The register table of OFEC (R192). -/
def rowsOFEC : List RegRow := [
  ⟨0x040, 1, 0, .rw, 0x00000000, 0x00000103⟩,
  ⟨0x044, 1, 0, .ro, 0x00000000, 0x00000077⟩,
  ⟨0x048, 1, 0, .ro, 0x00000000, 0xFFFFFFFF⟩,
  ⟨0x04C, 1, 0, .w1c, 0x00000000, 0x001FFFFF⟩,
  ⟨0x050, 1, 0, .ro, 0x00000000, 0xFFFFFFFF⟩,
  ⟨0x054, 1, 0, .ro, 0x00000000, 0xFFFFFFFF⟩,
  ⟨0x058, 1, 0, .ro, 0x00000000, 0xFFFFFFFF⟩,
  ⟨0x05C, 1, 0, .ro, 0x00000000, 0xFFFFFFFF⟩,
  ⟨0x060, 1, 0, .ro, 0x00000000, 0xFFFFFFFF⟩,
  ⟨0x064, 1, 0, .ro, 0x00000000, 0xFFFFFFFF⟩,
  ⟨0x068, 1, 0, .ro, 0x00000000, 0xFFFFFFFF⟩,
  ⟨0x06C, 1, 0, .ro, 0x00000000, 0xFFFFFFFF⟩,
  ⟨0x070, 1, 0, .ro, 0x00000000, 0xFFFFFFFF⟩,
  ⟨0x074, 1, 0, .ro, 0x00000000, 0x8000FFFF⟩,
  ⟨0x078, 1, 0, .ro, 0x00000000, 0xFFFFFFFF⟩,
  ⟨0x07C, 1, 0, .ro, 0x00000000, 0x8000FFFF⟩,
  ⟨0x080, 16, 8, .ro, 0x00000000, 0xFFFFFFFF⟩,
  ⟨0x084, 16, 8, .ro, 0x00000000, 0xFFFFFFFF⟩,
  ⟨0x100, 1, 0, .rw, 0x00000010, 0x0000FFFF⟩,
  ⟨0x104, 1, 0, .rw, 0x00001388, 0xFFFFFFFF⟩,
  ⟨0x108, 1, 0, .rw, 0x000009C4, 0xFFFFFFFF⟩,
  ⟨0x10C, 1, 0, .ro, 0x00000000, 0xFFFFFFFF⟩,
  ⟨0x110, 1, 0, .ro, 0x00000000, 0xFFFFFFFF⟩,
  ⟨0x114, 1, 0, .ro, 0x00000000, 0xFFFFFFFF⟩]

/-! ## PORT: registers of R196 (05_fec_framing.md) -/
abbrev PORT.MODE : Nat := 0x040
abbrev PORT.PORT_EN : Nat := 0x044
abbrev PORT.PORT_CMD : Nat := 0x048
abbrev PORT.PCFG : Nat := 0x080
abbrev PORT.PSTAT : Nat := 0x0A0
abbrev PORT.PSKEW : Nat := 0x0C0
abbrev PORT.MODE.HRATE : Fld := ⟨0x040, 4, 1⟩
abbrev PORT.MODE.LINE : Fld := ⟨0x040, 0, 1⟩
abbrev PORT.PORT_EN.EN : Fld := ⟨0x044, 0, 8⟩
abbrev PORT.PORT_CMD.RESET : Fld := ⟨0x048, 0, 8⟩
abbrev PORT.PCFG.ITER : Fld := ⟨0x080, 12, 3⟩
abbrev PORT.PCFG.SIZE : Fld := ⟨0x080, 4, 2⟩
abbrev PORT.PCFG.DEFINED : Fld := ⟨0x080, 0, 1⟩
abbrev PORT.PSTAT.LANES_LOCKED : Fld := ⟨0x0A0, 16, 8⟩
abbrev PORT.PSTAT.MISMATCH : Fld := ⟨0x0A0, 10, 1⟩
abbrev PORT.PSTAT.SKEW_ERR : Fld := ⟨0x0A0, 9, 1⟩
abbrev PORT.PSTAT.DESKEWED : Fld := ⟨0x0A0, 8, 1⟩
abbrev PORT.PSTAT.LF_LINE : Fld := ⟨0x0A0, 7, 1⟩
abbrev PORT.PSTAT.LF_HOST : Fld := ⟨0x0A0, 6, 1⟩
abbrev PORT.PSTAT.HOST_UP : Fld := ⟨0x0A0, 5, 1⟩
abbrev PORT.PSTAT.FROZEN : Fld := ⟨0x0A0, 4, 1⟩
abbrev PORT.PSTAT.STATE : Fld := ⟨0x0A0, 0, 3⟩
abbrev PORT.PSKEW.LATE : Fld := ⟨0x0C0, 16, 3⟩
abbrev PORT.PSKEW.SKEW : Fld := ⟨0x0C0, 0, 16⟩
/-- The register table of PORT (R196). -/
def rowsPORT : List RegRow := [
  ⟨0x040, 1, 0, .rw, 0x00000000, 0x00000011⟩,
  ⟨0x044, 1, 0, .rw, 0x00000000, 0x000000FF⟩,
  ⟨0x048, 1, 0, .wo, 0x00000000, 0x000000FF⟩,
  ⟨0x080, 8, 4, .rw, 0x00004000, 0x00007031⟩,
  ⟨0x0A0, 8, 4, .ro, 0x00000000, 0x00FF07F7⟩,
  ⟨0x0C0, 8, 4, .ro, 0x00000000, 0x0007FFFF⟩]

/-! ## HSL: registers of R225 (06_host_lanes.md) -/
abbrev HSL.LANE_CFG : Nat := 0x040
abbrev HSL.RX_STAT : Nat := 0x044
abbrev HSL.RX_CMD : Nat := 0x048
abbrev HSL.LOS_CFG : Nat := 0x04C
abbrev HSL.RX_AFE : Nat := 0x050
abbrev HSL.CDR_CFG : Nat := 0x054
abbrev HSL.CDR_FREQ : Nat := 0x058
abbrev HSL.RX_DFE : Nat := 0x05C
abbrev HSL.RX_SNR : Nat := 0x060
abbrev HSL.SNR_CFG : Nat := 0x064
abbrev HSL.CNT_LOSS : Nat := 0x068
abbrev HSL.TX_STAT : Nat := 0x06C
abbrev HSL.TX_CMD : Nat := 0x070
abbrev HSL.TX_AMP : Nat := 0x074
abbrev HSL.TEST_CTRL : Nat := 0x078
abbrev HSL.PRBS_ERR : Nat := 0x07C
abbrev HSL.COMMIT : Nat := 0x080
abbrev HSL.COMMIT_STAT : Nat := 0x084
abbrev HSL.ACT_SEL : Nat := 0x088
abbrev HSL.ACT_DATA : Nat := 0x08C
abbrev HSL.CP_CNT : Nat := 0x090
abbrev HSL.PORT_LB : Nat := 0x094
abbrev HSL.COMP_H2L : Nat := 0x098
abbrev HSL.COMP_L2H : Nat := 0x09C
abbrev HSL.PORT_COMP : Nat := 0x0A0
abbrev HSL.HSKEW : Nat := 0x0A4
abbrev HSL.TX_FIR : Nat := 0x100
abbrev HSL.RX_FFE : Nat := 0x140
abbrev HSL.LANE_CFG.TX_POL_INV : Fld := ⟨0x040, 17, 1⟩
abbrev HSL.LANE_CFG.RX_POL_INV : Fld := ⟨0x040, 16, 1⟩
abbrev HSL.LANE_CFG.TX_LOG : Fld := ⟨0x040, 8, 4⟩
abbrev HSL.LANE_CFG.RX_LOG : Fld := ⟨0x040, 0, 4⟩
abbrev HSL.RX_STAT.LOSS_CAUSE : Fld := ⟨0x044, 16, 3⟩
abbrev HSL.RX_STAT.SERVED : Fld := ⟨0x044, 11, 1⟩
abbrev HSL.RX_STAT.CHK_LOCK : Fld := ⟨0x044, 10, 1⟩
abbrev HSL.RX_STAT.AM_LOCK : Fld := ⟨0x044, 9, 1⟩
abbrev HSL.RX_STAT.SNR_OK : Fld := ⟨0x044, 8, 1⟩
abbrev HSL.RX_STAT.CDR_LOCK : Fld := ⟨0x044, 7, 1⟩
abbrev HSL.RX_STAT.LOS : Fld := ⟨0x044, 6, 1⟩
abbrev HSL.RX_STAT.STATE : Fld := ⟨0x044, 0, 3⟩
abbrev HSL.RX_CMD.RESTART : Fld := ⟨0x048, 1, 1⟩
abbrev HSL.RX_CMD.ADVANCE : Fld := ⟨0x048, 0, 1⟩
abbrev HSL.RX_AFE.VGA : Fld := ⟨0x050, 4, 6⟩
abbrev HSL.RX_AFE.CTLE : Fld := ⟨0x050, 0, 4⟩
abbrev HSL.CDR_CFG.PH_OFS : Fld := ⟨0x054, 8, 6⟩
abbrev HSL.CDR_CFG.FHOLD : Fld := ⟨0x054, 4, 1⟩
abbrev HSL.CDR_CFG.BW : Fld := ⟨0x054, 0, 3⟩
abbrev HSL.CDR_FREQ.DELTA : Fld := ⟨0x058, 0, 24⟩
abbrev HSL.RX_DFE.TAP : Fld := ⟨0x05C, 0, 12⟩
abbrev HSL.RX_SNR.SNR : Fld := ⟨0x060, 0, 10⟩
abbrev HSL.SNR_CFG.SNR_ACQ : Fld := ⟨0x064, 0, 10⟩
abbrev HSL.SNR_CFG.SNR_LOSS : Fld := ⟨0x064, 16, 10⟩
abbrev HSL.TX_STAT.CLIP : Fld := ⟨0x06C, 5, 1⟩
abbrev HSL.TX_STAT.PLL_LOCK : Fld := ⟨0x06C, 4, 1⟩
abbrev HSL.TX_STAT.STATE : Fld := ⟨0x06C, 0, 2⟩
abbrev HSL.TX_CMD.PRESET : Fld := ⟨0x070, 0, 3⟩
abbrev HSL.TX_CMD.LOAD : Fld := ⟨0x070, 3, 1⟩
abbrev HSL.TX_AMP.AMP : Fld := ⟨0x074, 0, 5⟩
abbrev HSL.TEST_CTRL.NEAR : Fld := ⟨0x078, 8, 1⟩
abbrev HSL.TEST_CTRL.CHK_PAT : Fld := ⟨0x078, 4, 3⟩
abbrev HSL.TEST_CTRL.TX_PAT : Fld := ⟨0x078, 0, 3⟩
abbrev HSL.COMMIT.GROUPS : Fld := ⟨0x080, 0, 4⟩
abbrev HSL.COMMIT_STAT.FRAME : Fld := ⟨0x084, 16, 16⟩
abbrev HSL.COMMIT_STAT.LAST_DIR : Fld := ⟨0x084, 8, 1⟩
abbrev HSL.COMMIT_STAT.LAST_DISCARDED : Fld := ⟨0x084, 7, 1⟩
abbrev HSL.COMMIT_STAT.PENDING : Fld := ⟨0x084, 0, 4⟩
abbrev HSL.ACT_SEL.OFS : Fld := ⟨0x088, 2, 10⟩
abbrev HSL.CP_CNT.TX : Fld := ⟨0x090, 16, 16⟩
abbrev HSL.CP_CNT.RX : Fld := ⟨0x090, 0, 16⟩
abbrev HSL.PORT_LB.MODE : Fld := ⟨0x094, 0, 2⟩
abbrev HSL.PORT_COMP.H2L : Fld := ⟨0x0A0, 16, 16⟩
abbrev HSL.PORT_COMP.L2H : Fld := ⟨0x0A0, 0, 16⟩
abbrev HSL.HSKEW.HSKEW_ERR : Fld := ⟨0x0A4, 24, 1⟩
abbrev HSL.HSKEW.LATE : Fld := ⟨0x0A4, 16, 4⟩
abbrev HSL.HSKEW.SKEW : Fld := ⟨0x0A4, 0, 16⟩
abbrev HSL.TX_FIR.TAP : Fld := ⟨0x100, 0, 9⟩
abbrev HSL.RX_FFE.TAP : Fld := ⟨0x140, 0, 14⟩
/-- The register table of HSL (R225). -/
def rowsHSL : List RegRow := [
  ⟨0x040, 1, 0, .rw, 0x00000000, 0x00030F0F⟩,
  ⟨0x044, 1, 0, .ro, 0x00000040, 0x00070FC7⟩,
  ⟨0x048, 1, 0, .wo, 0x00000000, 0x00000003⟩,
  ⟨0x04C, 1, 0, .rw, 0x0064140C, 0x03FFFFFF⟩,
  ⟨0x050, 1, 0, .rw, 0x000000C6, 0x000003FF⟩,
  ⟨0x054, 1, 0, .rw, 0x00000004, 0x00003F17⟩,
  ⟨0x058, 1, 0, .ro, 0x00000000, 0x00FFFFFF⟩,
  ⟨0x05C, 1, 0, .rw, 0x00000000, 0x00000FFF⟩,
  ⟨0x060, 1, 0, .ro, 0x00000000, 0x000003FF⟩,
  ⟨0x064, 1, 0, .rw, 0x00780096, 0x03FF03FF⟩,
  ⟨0x068, 1, 0, .ro, 0x00000000, 0xFFFFFFFF⟩,
  ⟨0x06C, 1, 0, .ro, 0x00000000, 0x00000033⟩,
  ⟨0x070, 1, 0, .wo, 0x00000000, 0x0000000F⟩,
  ⟨0x074, 1, 0, .rw, 0x00000014, 0x0000001F⟩,
  ⟨0x078, 1, 0, .rw, 0x00000000, 0x00000177⟩,
  ⟨0x07C, 1, 0, .ro, 0x00000000, 0xFFFFFFFF⟩,
  ⟨0x080, 1, 0, .wo, 0x00000000, 0x0000000F⟩,
  ⟨0x084, 1, 0, .ro, 0x00000000, 0xFFFF018F⟩,
  ⟨0x088, 1, 0, .rw, 0x00000000, 0x00000FFC⟩,
  ⟨0x08C, 1, 0, .ro, 0x00000000, 0xFFFFFFFF⟩,
  ⟨0x090, 1, 0, .ro, 0x00000000, 0xFFFFFFFF⟩,
  ⟨0x094, 1, 0, .rw, 0x00000000, 0x00000003⟩,
  ⟨0x098, 1, 0, .ro, 0x00000000, 0xFFFFFFFF⟩,
  ⟨0x09C, 1, 0, .ro, 0x00000000, 0xFFFFFFFF⟩,
  ⟨0x0A0, 1, 0, .ro, 0x00000000, 0xFFFFFFFF⟩,
  ⟨0x0A4, 1, 0, .ro, 0x00000000, 0x010FFFFF⟩,
  ⟨0x100, 5, 4, .rw, 0x00000000, 0x000001FF⟩,
  ⟨0x140, 24, 4, .rw, 0x00000000, 0x00003FFF⟩]

/-! ## CLU: registers of R276 (07_engines.md) -/
abbrev CLU.CL_CTRL : Nat := 0x040
abbrev CLU.CL_STAT : Nat := 0x044
abbrev CLU.WD_CFG : Nat := 0x048
abbrev CLU.FAULT_CFG : Nat := 0x04C
abbrev CLU.SERVE_HOLD : Nat := 0x050
abbrev CLU.CP_OWN : Nat := 0x060
abbrev CLU.E_CTRL : Nat := 0x080
abbrev CLU.E_STAT : Nat := 0x0C0
abbrev CLU.E_PC : Nat := 0x100
abbrev CLU.E_DUTY : Nat := 0x140
abbrev CLU.E_FAULT : Nat := 0x180
abbrev CLU.MB_W0 : Nat := 0x200
abbrev CLU.MB_W1 : Nat := 0x204
abbrev CLU.SUP_MB_LO : Nat := 0x280
abbrev CLU.SUP_MB_HI : Nat := 0x284
abbrev CLU.SUP_MB_STAT : Nat := 0x288
abbrev CLU.DMA_STAT : Nat := 0x290
abbrev CLU.CL_CTRL.AUTO_RETIRE : Fld := ⟨0x040, 1, 1⟩
abbrev CLU.CL_CTRL.WD_EN : Fld := ⟨0x040, 0, 1⟩
abbrev CLU.CL_STAT.SUSP : Fld := ⟨0x044, 24, 1⟩
abbrev CLU.CL_STAT.FREE : Fld := ⟨0x044, 16, 5⟩
abbrev CLU.CL_STAT.RETIRED : Fld := ⟨0x044, 8, 5⟩
abbrev CLU.CL_STAT.RUNNING : Fld := ⟨0x044, 0, 5⟩
abbrev CLU.WD_CFG.US : Fld := ⟨0x048, 0, 16⟩
abbrev CLU.FAULT_CFG.FAULT_LIM : Fld := ⟨0x04C, 0, 3⟩
abbrev CLU.FAULT_CFG.FAULT_WIN : Fld := ⟨0x04C, 16, 16⟩
abbrev CLU.SERVE_HOLD.MS : Fld := ⟨0x050, 0, 16⟩
abbrev CLU.CP_OWN.VALID : Fld := ⟨0x060, 8, 1⟩
abbrev CLU.CP_OWN.CLUSTER : Fld := ⟨0x060, 4, 4⟩
abbrev CLU.CP_OWN.ENGINE : Fld := ⟨0x060, 0, 4⟩
abbrev CLU.E_CTRL.HOME_EN : Fld := ⟨0x080, 16, 1⟩
abbrev CLU.E_CTRL.HOME : Fld := ⟨0x080, 12, 4⟩
abbrev CLU.E_CTRL.RETIRE : Fld := ⟨0x080, 4, 1⟩
abbrev CLU.E_CTRL.HOLD : Fld := ⟨0x080, 0, 1⟩
abbrev CLU.E_STAT.FAULTS : Fld := ⟨0x0C0, 16, 3⟩
abbrev CLU.E_STAT.CAUSE : Fld := ⟨0x0C0, 8, 4⟩
abbrev CLU.E_STAT.TBUSY : Fld := ⟨0x0C0, 4, 1⟩
abbrev CLU.E_STAT.LEVEL : Fld := ⟨0x0C0, 3, 1⟩
abbrev CLU.E_STAT.STATE : Fld := ⟨0x0C0, 0, 3⟩
abbrev CLU.E_DUTY.LABEL : Fld := ⟨0x140, 0, 16⟩
abbrev CLU.SUP_MB_STAT.COUNT : Fld := ⟨0x288, 0, 5⟩
abbrev CLU.SUP_MB_STAT.DROPS : Fld := ⟨0x288, 16, 16⟩
abbrev CLU.DMA_STAT.BUSY : Fld := ⟨0x290, 31, 1⟩
abbrev CLU.DMA_STAT.RESULT : Fld := ⟨0x290, 28, 3⟩
abbrev CLU.DMA_STAT.REJECTED : Fld := ⟨0x290, 27, 1⟩
abbrev CLU.DMA_STAT.ENGINE : Fld := ⟨0x290, 16, 4⟩
abbrev CLU.DMA_STAT.DESC : Fld := ⟨0x290, 0, 13⟩
/-- The register table of CLU (R276). -/
def rowsCLU : List RegRow := [
  ⟨0x040, 1, 0, .rw, 0x00000003, 0x00000003⟩,
  ⟨0x044, 1, 0, .ro, 0x00000000, 0x011F1F1F⟩,
  ⟨0x048, 1, 0, .rw, 0x00002710, 0x0000FFFF⟩,
  ⟨0x04C, 1, 0, .rw, 0x003C0002, 0xFFFF0007⟩,
  ⟨0x050, 1, 0, .rw, 0x000000C8, 0x0000FFFF⟩,
  ⟨0x060, 8, 4, .rws, 0x00000000, 0x000001FF⟩,
  ⟨0x080, 16, 4, .rw, 0x00000001, 0x0001F011⟩,
  ⟨0x0C0, 16, 4, .ro, 0x00000000, 0x00070F1F⟩,
  ⟨0x100, 16, 4, .ro, 0x00000000, 0xFFFFFFFF⟩,
  ⟨0x140, 16, 4, .rw, 0x00000000, 0x0000FFFF⟩,
  ⟨0x180, 16, 4, .ro, 0x00000000, 0xFFFFFFFF⟩,
  ⟨0x200, 16, 8, .wo, 0x00000000, 0xFFFFFFFF⟩,
  ⟨0x204, 16, 8, .wo, 0x00000000, 0xFFFFFFFF⟩,
  ⟨0x280, 1, 0, .ro, 0x00000000, 0xFFFFFFFF⟩,
  ⟨0x284, 1, 0, .ro, 0x00000000, 0xFFFFFFFF⟩,
  ⟨0x288, 1, 0, .ro, 0x00000000, 0xFFFF001F⟩,
  ⟨0x290, 4, 4, .ro, 0x00000000, 0xF80F1FFF⟩]

/-! ## PERF: registers of R280 (07_engines.md) -/
abbrev PERF.PF_CTRL : Nat := 0x040
abbrev PERF.PF_STAT : Nat := 0x044
abbrev PERF.CYC_LO : Nat := 0x048
abbrev PERF.CYC_HI : Nat := 0x04C
abbrev PERF.CNT_LO : Nat := 0x080
abbrev PERF.CNT_HI : Nat := 0x084
abbrev PERF.EVSEL : Nat := 0x088
abbrev PERF.MASTER : Nat := 0x08C
abbrev PERF.WIN_BASE : Nat := 0x090
abbrev PERF.WIN_LIMIT : Nat := 0x094
abbrev PERF.SMPL_PERIOD : Nat := 0x098
abbrev PERF.SMP_CTRL : Nat := 0x180
abbrev PERF.SMP_STAT : Nat := 0x184
abbrev PERF.BW_CTRL : Nat := 0x190
abbrev PERF.BW : Nat := 0x1A0
abbrev PERF.PF_CTRL.FREEZE : Fld := ⟨0x040, 1, 1⟩
abbrev PERF.PF_CTRL.EN : Fld := ⟨0x040, 0, 1⟩
abbrev PERF.PF_STAT.OVF : Fld := ⟨0x044, 0, 8⟩
abbrev PERF.PF_STAT.SMP_FULL : Fld := ⟨0x044, 8, 1⟩
abbrev PERF.CNT_HI.HI : Fld := ⟨0x084, 0, 16⟩
abbrev PERF.EVSEL.EN : Fld := ⟨0x088, 16, 1⟩
abbrev PERF.EVSEL.OVF_IRQ : Fld := ⟨0x088, 12, 1⟩
abbrev PERF.EVSEL.SAMPLE : Fld := ⟨0x088, 11, 1⟩
abbrev PERF.EVSEL.WIN_EN : Fld := ⟨0x088, 10, 1⟩
abbrev PERF.EVSEL.LEVEL : Fld := ⟨0x088, 8, 2⟩
abbrev PERF.EVSEL.EVENT : Fld := ⟨0x088, 0, 8⟩
abbrev PERF.SMP_CTRL.BASE : Fld := ⟨0x180, 6, 12⟩
abbrev PERF.SMP_CTRL.WRAP : Fld := ⟨0x180, 1, 1⟩
abbrev PERF.SMP_CTRL.EN : Fld := ⟨0x180, 0, 1⟩
abbrev PERF.SMP_STAT.NEXT : Fld := ⟨0x184, 0, 10⟩
abbrev PERF.SMP_STAT.LOST : Fld := ⟨0x184, 16, 10⟩
abbrev PERF.SMP_STAT.WRAPS : Fld := ⟨0x184, 26, 6⟩
abbrev PERF.BW_CTRL.WIN : Fld := ⟨0x190, 0, 5⟩
/-- The register table of PERF (R280). -/
def rowsPERF : List RegRow := [
  ⟨0x040, 1, 0, .rw, 0x00000000, 0x00000003⟩,
  ⟨0x044, 1, 0, .w1c, 0x00000000, 0x000001FF⟩,
  ⟨0x048, 1, 0, .ro, 0x00000000, 0xFFFFFFFF⟩,
  ⟨0x04C, 1, 0, .ro, 0x00000000, 0xFFFFFFFF⟩,
  ⟨0x080, 8, 32, .rw, 0x00000000, 0xFFFFFFFF⟩,
  ⟨0x084, 8, 32, .rw, 0x00000000, 0x0000FFFF⟩,
  ⟨0x088, 8, 32, .rw, 0x00000000, 0x00011FFF⟩,
  ⟨0x08C, 8, 32, .rw, 0x000FFFFF, 0x000FFFFF⟩,
  ⟨0x090, 8, 32, .rw, 0x00000000, 0xFFFFFFFF⟩,
  ⟨0x094, 8, 32, .rw, 0xFFFFFFFF, 0xFFFFFFFF⟩,
  ⟨0x098, 8, 32, .rw, 0x00000400, 0xFFFFFFFF⟩,
  ⟨0x180, 1, 0, .rw, 0x00000000, 0x0003FFC3⟩,
  ⟨0x184, 1, 0, .ro, 0x00000000, 0xFFFF03FF⟩,
  ⟨0x190, 1, 0, .rw, 0x0000000A, 0x0000001F⟩,
  ⟨0x1A0, 6, 4, .ro, 0x00000000, 0xFFFFFFFF⟩]

/-! ## PART: registers of R317 (08_partner_dawn.md) -/
abbrev PART.PC_CTRL : Nat := 0x040
abbrev PART.PC_STAT : Nat := 0x044
abbrev PART.RREAD_MASK : Nat := 0x048
abbrev PART.RLB_TMO : Nat := 0x04C
abbrev PART.FAR_ID_LO : Nat := 0x050
abbrev PART.FAR_ID_HI : Nat := 0x054
abbrev PART.FAR_INFO : Nat := 0x058
abbrev PART.ID_CMD : Nat := 0x05C
abbrev PART.CNT_CELL : Nat := 0x060
abbrev PART.CNT_SEQ : Nat := 0x064
abbrev PART.CNT_RXOK : Nat := 0x068
abbrev PART.CNT_UNK : Nat := 0x06C
abbrev PART.TXREQ : Nat := 0x070
abbrev PART.TXRSP : Nat := 0x074
abbrev PART.TXRSP_Q0 : Nat := 0x078
abbrev PART.TXRSP_Q1 : Nat := 0x07C
abbrev PART.TXRSP_Q2 : Nat := 0x080
abbrev PART.RR_ADDR : Nat := 0x090
abbrev PART.RR_CMD : Nat := 0x094
abbrev PART.RR_STAT : Nat := 0x098
abbrev PART.RR_DATA0 : Nat := 0x09C
abbrev PART.RR_DATA1 : Nat := 0x0A0
abbrev PART.RLB_CMD : Nat := 0x0A8
abbrev PART.RLB_STAT : Nat := 0x0AC
abbrev PART.FW_TX0 : Nat := 0x0C0
abbrev PART.FW_TX1 : Nat := 0x0C4
abbrev PART.FW_TX2 : Nat := 0x0C8
abbrev PART.FW_TX3 : Nat := 0x0CC
abbrev PART.FW_RX : Nat := 0x0D0
abbrev PART.PC_CTRL.RSP_TMO : Fld := ⟨0x040, 24, 8⟩
abbrev PART.PC_CTRL.ID_CONFIRM : Fld := ⟨0x040, 16, 4⟩
abbrev PART.PC_CTRL.IDENT_INT : Fld := ⟨0x040, 8, 8⟩
abbrev PART.PC_CTRL.RLB_ALLOW : Fld := ⟨0x040, 2, 1⟩
abbrev PART.PC_CTRL.RREAD_EN : Fld := ⟨0x040, 1, 1⟩
abbrev PART.PC_CTRL.EN : Fld := ⟨0x040, 0, 1⟩
abbrev PART.PC_STAT.FW_TX_FULL : Fld := ⟨0x044, 12, 1⟩
abbrev PART.PC_STAT.FW_RX_CNT : Fld := ⟨0x044, 8, 4⟩
abbrev PART.PC_STAT.TXREQ_REJ : Fld := ⟨0x044, 4, 1⟩
abbrev PART.PC_STAT.RLB_ACTIVE : Fld := ⟨0x044, 2, 1⟩
abbrev PART.PC_STAT.TX_ON : Fld := ⟨0x044, 1, 1⟩
abbrev PART.PC_STAT.RX_ALIGNED : Fld := ⟨0x044, 0, 1⟩
abbrev PART.RREAD_MASK.MASK : Fld := ⟨0x048, 0, 12⟩
abbrev PART.RLB_TMO.S : Fld := ⟨0x04C, 0, 16⟩
abbrev PART.FAR_INFO.VALID : Fld := ⟨0x058, 31, 1⟩
abbrev PART.FAR_INFO.SOURCE : Fld := ⟨0x058, 30, 1⟩
abbrev PART.FAR_INFO.FAR_LANE : Fld := ⟨0x058, 24, 3⟩
abbrev PART.FAR_INFO.MULTI : Fld := ⟨0x058, 23, 1⟩
abbrev PART.FAR_INFO.SELF : Fld := ⟨0x058, 22, 1⟩
abbrev PART.FAR_INFO.PEND : Fld := ⟨0x058, 0, 4⟩
abbrev PART.ID_CMD.FAR_CLR : Fld := ⟨0x05C, 0, 1⟩
abbrev PART.CNT_CELL.BAD : Fld := ⟨0x060, 16, 16⟩
abbrev PART.CNT_CELL.MISS : Fld := ⟨0x060, 0, 16⟩
abbrev PART.CNT_SEQ.STALE : Fld := ⟨0x064, 16, 16⟩
abbrev PART.CNT_SEQ.LOST : Fld := ⟨0x064, 0, 16⟩
abbrev PART.CNT_UNK.FW_DROP : Fld := ⟨0x06C, 16, 16⟩
abbrev PART.CNT_UNK.UNKNOWN : Fld := ⟨0x06C, 0, 16⟩
abbrev PART.TXREQ.REQ : Fld := ⟨0x070, 0, 3⟩
abbrev PART.TXREQ.TAP : Fld := ⟨0x070, 4, 3⟩
abbrev PART.TXREQ.STEP : Fld := ⟨0x070, 8, 4⟩
abbrev PART.TXREQ.PRESET : Fld := ⟨0x070, 12, 2⟩
abbrev PART.TXRSP.NEW : Fld := ⟨0x074, 31, 1⟩
abbrev PART.TXRSP.TIMEOUT : Fld := ⟨0x074, 30, 1⟩
abbrev PART.TXRSP.RESP : Fld := ⟨0x074, 16, 3⟩
abbrev PART.TXRSP.FRAME : Fld := ⟨0x074, 0, 16⟩
abbrev PART.RR_CMD.GO : Fld := ⟨0x094, 0, 1⟩
abbrev PART.RR_CMD.COUNT2 : Fld := ⟨0x094, 1, 1⟩
abbrev PART.RR_CMD.SNAP : Fld := ⟨0x094, 2, 1⟩
abbrev PART.RR_STAT.DONE : Fld := ⟨0x098, 31, 1⟩
abbrev PART.RR_STAT.BUSY : Fld := ⟨0x098, 30, 1⟩
abbrev PART.RR_STAT.STATUS : Fld := ⟨0x098, 0, 3⟩
abbrev PART.RLB_CMD.START : Fld := ⟨0x0A8, 0, 1⟩
abbrev PART.RLB_CMD.STOP : Fld := ⟨0x0A8, 1, 1⟩
abbrev PART.RLB_STAT.DONE : Fld := ⟨0x0AC, 31, 1⟩
abbrev PART.RLB_STAT.REMOTE_ACTIVE : Fld := ⟨0x0AC, 9, 1⟩
abbrev PART.RLB_STAT.RESP : Fld := ⟨0x0AC, 0, 3⟩
abbrev PART.FW_TX0.TYPE : Fld := ⟨0x0C0, 0, 8⟩
abbrev PART.FW_TX0.TAG : Fld := ⟨0x0C0, 8, 8⟩
abbrev PART.FW_TX3.PAY : Fld := ⟨0x0CC, 0, 16⟩
/-- The register table of PART (R317). -/
def rowsPART : List RegRow := [
  ⟨0x040, 1, 0, .rw, 0x0A023201, 0xFF0FFF07⟩,
  ⟨0x044, 1, 0, .ro, 0x00000000, 0x00001F17⟩,
  ⟨0x048, 1, 0, .rw, 0x00000000, 0x00000FFF⟩,
  ⟨0x04C, 1, 0, .rw, 0x0000003C, 0x0000FFFF⟩,
  ⟨0x050, 1, 0, .ro, 0x00000000, 0xFFFFFFFF⟩,
  ⟨0x054, 1, 0, .ro, 0x00000000, 0xFFFFFFFF⟩,
  ⟨0x058, 1, 0, .ro, 0x00000000, 0xC7C0000F⟩,
  ⟨0x05C, 1, 0, .wo, 0x00000000, 0x00000001⟩,
  ⟨0x060, 1, 0, .ro, 0x00000000, 0xFFFFFFFF⟩,
  ⟨0x064, 1, 0, .ro, 0x00000000, 0xFFFFFFFF⟩,
  ⟨0x068, 1, 0, .ro, 0x00000000, 0xFFFFFFFF⟩,
  ⟨0x06C, 1, 0, .ro, 0x00000000, 0xFFFFFFFF⟩,
  ⟨0x070, 1, 0, .wo, 0x00000000, 0x00003F77⟩,
  ⟨0x074, 1, 0, .ro, 0x00000000, 0xC007FFFF⟩,
  ⟨0x078, 1, 0, .ro, 0x00000000, 0xFFFFFFFF⟩,
  ⟨0x07C, 1, 0, .ro, 0x00000000, 0xFFFFFFFF⟩,
  ⟨0x080, 1, 0, .ro, 0x00000000, 0xFFFFFFFF⟩,
  ⟨0x090, 1, 0, .rw, 0x00000000, 0xFFFFFFFF⟩,
  ⟨0x094, 1, 0, .wo, 0x00000000, 0x00000007⟩,
  ⟨0x098, 1, 0, .ro, 0x00000000, 0xC0000007⟩,
  ⟨0x09C, 1, 0, .ro, 0x00000000, 0xFFFFFFFF⟩,
  ⟨0x0A0, 1, 0, .ro, 0x00000000, 0xFFFFFFFF⟩,
  ⟨0x0A8, 1, 0, .wo, 0x00000000, 0x00000003⟩,
  ⟨0x0AC, 1, 0, .ro, 0x00000000, 0x80000207⟩,
  ⟨0x0C0, 1, 0, .rw, 0x00000000, 0x0000FFFF⟩,
  ⟨0x0C4, 1, 0, .rw, 0x00000000, 0xFFFFFFFF⟩,
  ⟨0x0C8, 1, 0, .rw, 0x00000000, 0xFFFFFFFF⟩,
  ⟨0x0CC, 1, 0, .rw, 0x00000000, 0x0000FFFF⟩,
  ⟨0x0D0, 4, 4, .ro, 0x00000000, 0xFFFFFFFF⟩]

/-! ## DAWN: registers of R321 (08_partner_dawn.md) -/
abbrev DAWN.DW_CTRL : Nat := 0x040
abbrev DAWN.DW_STAT : Nat := 0x044
abbrev DAWN.DET_THR : Nat := 0x048
abbrev DAWN.AGC : Nat := 0x04C
abbrev DAWN.NOISE : Nat := 0x050
abbrev DAWN.LAST_METRIC : Nat := 0x054
abbrev DAWN.DW_CMD : Nat := 0x058
abbrev DAWN.CNT_A : Nat := 0x060
abbrev DAWN.CNT_B : Nat := 0x064
abbrev DAWN.CNT_C : Nat := 0x068
abbrev DAWN.CNT_D : Nat := 0x06C
abbrev DAWN.CNT_E : Nat := 0x070
abbrev DAWN.CNT_F : Nat := 0x074
abbrev DAWN.TX_HDR : Nat := 0x080
abbrev DAWN.TX_STAT : Nat := 0x084
abbrev DAWN.TX_TMO : Nat := 0x088
abbrev DAWN.HELLO_ADV : Nat := 0x090
abbrev DAWN.HELLO_LABEL : Nat := 0x0A0
abbrev DAWN.TX_BUF : Nat := 0x0C0
abbrev DAWN.RX_HDR : Nat := 0x100
abbrev DAWN.RX_SRC_LO : Nat := 0x104
abbrev DAWN.RX_SRC_HI : Nat := 0x108
abbrev DAWN.RX_METRIC : Nat := 0x10C
abbrev DAWN.RX_TIME : Nat := 0x110
abbrev DAWN.RX_BUF : Nat := 0x140
abbrev DAWN.DW_CTRL.HELLO_INT : Fld := ⟨0x040, 16, 16⟩
abbrev DAWN.DW_CTRL.HELLO_RATE : Fld := ⟨0x040, 8, 2⟩
abbrev DAWN.DW_CTRL.RX_RATES : Fld := ⟨0x040, 4, 3⟩
abbrev DAWN.DW_CTRL.M200_EN : Fld := ⟨0x040, 3, 1⟩
abbrev DAWN.DW_CTRL.AUTO_HELLO : Fld := ⟨0x040, 2, 1⟩
abbrev DAWN.DW_CTRL.TX_EN : Fld := ⟨0x040, 1, 1⟩
abbrev DAWN.DW_CTRL.RX_EN : Fld := ⟨0x040, 0, 1⟩
abbrev DAWN.DW_STAT.NOISE_VALID : Fld := ⟨0x044, 14, 1⟩
abbrev DAWN.DW_STAT.TX_BLOCKED : Fld := ⟨0x044, 13, 1⟩
abbrev DAWN.DW_STAT.TX_BUSY : Fld := ⟨0x044, 12, 1⟩
abbrev DAWN.DW_STAT.RX_COUNT : Fld := ⟨0x044, 8, 3⟩
abbrev DAWN.DW_STAT.CAND : Fld := ⟨0x044, 7, 1⟩
abbrev DAWN.DW_STAT.AGC_FROZEN : Fld := ⟨0x044, 6, 1⟩
abbrev DAWN.DW_STAT.RX_RATE : Fld := ⟨0x044, 4, 2⟩
abbrev DAWN.DW_STAT.RX_STATE : Fld := ⟨0x044, 0, 3⟩
abbrev DAWN.DET_THR.THR_12 : Fld := ⟨0x048, 0, 8⟩
abbrev DAWN.DET_THR.THR_50 : Fld := ⟨0x048, 8, 8⟩
abbrev DAWN.DET_THR.THR_200 : Fld := ⟨0x048, 16, 8⟩
abbrev DAWN.AGC.GAIN : Fld := ⟨0x04C, 0, 10⟩
abbrev DAWN.AGC.SHADOW : Fld := ⟨0x04C, 16, 10⟩
abbrev DAWN.NOISE.FLOOR : Fld := ⟨0x050, 0, 10⟩
abbrev DAWN.LAST_METRIC.METRIC : Fld := ⟨0x054, 0, 8⟩
abbrev DAWN.LAST_METRIC.RATE : Fld := ⟨0x054, 8, 2⟩
abbrev DAWN.DW_CMD.SEND : Fld := ⟨0x058, 0, 1⟩
abbrev DAWN.DW_CMD.RESEND : Fld := ⟨0x058, 1, 1⟩
abbrev DAWN.DW_CMD.ABORT : Fld := ⟨0x058, 2, 1⟩
abbrev DAWN.DW_CMD.RX_POP : Fld := ⟨0x058, 3, 1⟩
abbrev DAWN.DW_CMD.CNT_CLR : Fld := ⟨0x058, 4, 1⟩
abbrev DAWN.CNT_A.OK : Fld := ⟨0x060, 16, 16⟩
abbrev DAWN.CNT_A.DET : Fld := ⟨0x060, 0, 16⟩
abbrev DAWN.CNT_B.SYNC_TMO : Fld := ⟨0x064, 16, 16⟩
abbrev DAWN.CNT_B.HDR_FAIL : Fld := ⟨0x064, 0, 16⟩
abbrev DAWN.CNT_C.PRE_EARLY : Fld := ⟨0x068, 16, 16⟩
abbrev DAWN.CNT_C.CRC : Fld := ⟨0x068, 0, 16⟩
abbrev DAWN.CNT_D.KEPT : Fld := ⟨0x06C, 16, 16⟩
abbrev DAWN.CNT_D.PRE_LATE : Fld := ⟨0x06C, 0, 16⟩
abbrev DAWN.CNT_E.DUP : Fld := ⟨0x070, 16, 16⟩
abbrev DAWN.CNT_E.ECHO : Fld := ⟨0x070, 0, 16⟩
abbrev DAWN.CNT_F.TX : Fld := ⟨0x074, 16, 16⟩
abbrev DAWN.CNT_F.RX_DROP : Fld := ⟨0x074, 0, 16⟩
abbrev DAWN.TX_HDR.TYPE : Fld := ⟨0x080, 0, 8⟩
abbrev DAWN.TX_HDR.LEN : Fld := ⟨0x080, 8, 8⟩
abbrev DAWN.TX_HDR.RATE : Fld := ⟨0x080, 16, 2⟩
abbrev DAWN.TX_STAT.RESULT : Fld := ⟨0x084, 0, 3⟩
abbrev DAWN.TX_TMO.MS : Fld := ⟨0x088, 0, 16⟩
abbrev DAWN.HELLO_ADV.WANT_M400 : Fld := ⟨0x090, 0, 1⟩
abbrev DAWN.HELLO_ADV.SIZE : Fld := ⟨0x090, 4, 2⟩
abbrev DAWN.RX_HDR.VALID : Fld := ⟨0x100, 31, 1⟩
abbrev DAWN.RX_HDR.RATE : Fld := ⟨0x100, 24, 2⟩
abbrev DAWN.RX_HDR.SEQ : Fld := ⟨0x100, 16, 8⟩
abbrev DAWN.RX_HDR.LEN : Fld := ⟨0x100, 8, 8⟩
abbrev DAWN.RX_HDR.TYPE : Fld := ⟨0x100, 0, 8⟩
abbrev DAWN.RX_METRIC.METRIC : Fld := ⟨0x10C, 0, 8⟩
/-- The register table of DAWN (R321). -/
def rowsDAWN : List RegRow := [
  ⟨0x040, 1, 0, .rw, 0x03E80273, 0xFFFF037F⟩,
  ⟨0x044, 1, 0, .ro, 0x00000000, 0x000077F7⟩,
  ⟨0x048, 1, 0, .rw, 0x00301800, 0x00FFFFFF⟩,
  ⟨0x04C, 1, 0, .ro, 0x00000000, 0x03FF03FF⟩,
  ⟨0x050, 1, 0, .ro, 0x00000000, 0x000003FF⟩,
  ⟨0x054, 1, 0, .ro, 0x00000000, 0x000003FF⟩,
  ⟨0x058, 1, 0, .wo, 0x00000000, 0x0000001F⟩,
  ⟨0x060, 1, 0, .ro, 0x00000000, 0xFFFFFFFF⟩,
  ⟨0x064, 1, 0, .ro, 0x00000000, 0xFFFFFFFF⟩,
  ⟨0x068, 1, 0, .ro, 0x00000000, 0xFFFFFFFF⟩,
  ⟨0x06C, 1, 0, .ro, 0x00000000, 0xFFFFFFFF⟩,
  ⟨0x070, 1, 0, .ro, 0x00000000, 0xFFFFFFFF⟩,
  ⟨0x074, 1, 0, .ro, 0x00000000, 0xFFFFFFFF⟩,
  ⟨0x080, 1, 0, .rw, 0x00000000, 0x0003FFFF⟩,
  ⟨0x084, 1, 0, .ro, 0x00000000, 0x00000007⟩,
  ⟨0x088, 1, 0, .rw, 0x00000064, 0x0000FFFF⟩,
  ⟨0x090, 1, 0, .rw, 0x00000000, 0x00000031⟩,
  ⟨0x0A0, 4, 4, .rw, 0x00000000, 0xFFFFFFFF⟩,
  ⟨0x0C0, 16, 4, .rw, 0x00000000, 0xFFFFFFFF⟩,
  ⟨0x100, 1, 0, .ro, 0x00000000, 0x83FFFFFF⟩,
  ⟨0x104, 1, 0, .ro, 0x00000000, 0xFFFFFFFF⟩,
  ⟨0x108, 1, 0, .ro, 0x00000000, 0xFFFFFFFF⟩,
  ⟨0x10C, 1, 0, .ro, 0x00000000, 0x000000FF⟩,
  ⟨0x110, 1, 0, .ro, 0x00000000, 0xFFFFFFFF⟩,
  ⟨0x140, 16, 4, .ro, 0x00000000, 0xFFFFFFFF⟩]

/-! ## TIME: registers of R349 (09_time.md) -/
abbrev TIME.TM_CTRL : Nat := 0x040
abbrev TIME.TM_STAT : Nat := 0x044
abbrev TIME.TM_FLAGS : Nat := 0x048
abbrev TIME.TM_CMD : Nat := 0x04C
abbrev TIME.NODE : Nat := 0x050
abbrev TIME.HOLD_TMO : Nat := 0x054
abbrev TIME.NOW_NS : Nat := 0x060
abbrev TIME.WRAPS : Nat := 0x064
abbrev TIME.NOW_FRAC : Nat := 0x068
abbrev TIME.INCR_FRAC : Nat := 0x070
abbrev TIME.INCR_INT : Nat := 0x074
abbrev TIME.SET_NS : Nat := 0x078
abbrev TIME.SET_WRAPS : Nat := 0x07C
abbrev TIME.STEP_FRAC : Nat := 0x080
abbrev TIME.STEP_NS : Nat := 0x084
abbrev TIME.SLEEP_LO : Nat := 0x088
abbrev TIME.SLEEP_HI : Nat := 0x08C
abbrev TIME.CORR_TX : Nat := 0x090
abbrev TIME.CORR_TX1 : Nat := 0x094
abbrev TIME.CORR_RX : Nat := 0x098
abbrev TIME.CORR_RX1 : Nat := 0x09C
abbrev TIME.LCORR_TX : Nat := 0x0A0
abbrev TIME.LCORR_RX : Nat := 0x0A4
abbrev TIME.PPS_NEXT_NS : Nat := 0x0B0
abbrev TIME.PPS_NEXT_WRAPS : Nat := 0x0B4
abbrev TIME.PPS_PERIOD : Nat := 0x0B8
abbrev TIME.PPS_WIDTH : Nat := 0x0BC
abbrev TIME.PPS_IN_NS : Nat := 0x0C0
abbrev TIME.PPS_IN_HI : Nat := 0x0C4
abbrev TIME.TOD_CFG : Nat := 0x0D0
abbrev TIME.TOD_TX : Nat := 0x0D4
abbrev TIME.TOD_RX : Nat := 0x0D8
abbrev TIME.TOD_STAT : Nat := 0x0DC
abbrev TIME.TT_CTRL : Nat := 0x0E0
abbrev TIME.TS_TX_NS : Nat := 0x100
abbrev TIME.TS_TX_HI : Nat := 0x104
abbrev TIME.TS_RX_NS : Nat := 0x108
abbrev TIME.TS_RX_HI : Nat := 0x10C
abbrev TIME.AMC_TX : Nat := 0x180
abbrev TIME.AMC_RX : Nat := 0x184
abbrev TIME.TT_T1 : Nat := 0x200
abbrev TIME.TT_T2 : Nat := 0x204
abbrev TIME.TT_T3 : Nat := 0x208
abbrev TIME.TT_T4 : Nat := 0x20C
abbrev TIME.TT_FRAC : Nat := 0x210
abbrev TIME.TT_INFO : Nat := 0x214
abbrev TIME.TT_PEER : Nat := 0x218
abbrev TIME.TM_CTRL.SOURCE : Fld := ⟨0x040, 16, 2⟩
abbrev TIME.TM_CTRL.SRC_LANE : Fld := ⟨0x040, 8, 3⟩
abbrev TIME.TM_CTRL.PPS_IN_EN : Fld := ⟨0x040, 1, 1⟩
abbrev TIME.TM_CTRL.PPS_OUT_EN : Fld := ⟨0x040, 0, 1⟩
abbrev TIME.TM_STAT.SLEEP_WRAPS : Fld := ⟨0x044, 16, 8⟩
abbrev TIME.TM_STAT.PPS_ARMED : Fld := ⟨0x044, 6, 1⟩
abbrev TIME.TM_STAT.CASC_SLAVE : Fld := ⟨0x044, 5, 1⟩
abbrev TIME.TM_STAT.HOLDOVER : Fld := ⟨0x044, 3, 1⟩
abbrev TIME.TM_STAT.QUALITY : Fld := ⟨0x044, 0, 3⟩
abbrev TIME.TM_FLAGS.TOD_OVR : Fld := ⟨0x048, 4, 1⟩
abbrev TIME.TM_FLAGS.CLAMP : Fld := ⟨0x048, 2, 1⟩
abbrev TIME.TM_FLAGS.SLEEP_SAT : Fld := ⟨0x048, 1, 1⟩
abbrev TIME.TM_FLAGS.SLEPT : Fld := ⟨0x048, 0, 1⟩
abbrev TIME.TM_CMD.QUAL_WR : Fld := ⟨0x04C, 7, 1⟩
abbrev TIME.TM_CMD.QUAL : Fld := ⟨0x04C, 4, 3⟩
abbrev TIME.TM_CMD.SYNCED : Fld := ⟨0x04C, 2, 1⟩
abbrev TIME.TM_CMD.STEP : Fld := ⟨0x04C, 1, 1⟩
abbrev TIME.TM_CMD.SET : Fld := ⟨0x04C, 0, 1⟩
abbrev TIME.NODE.NODE_ID : Fld := ⟨0x050, 0, 14⟩
abbrev TIME.NODE.DOMAIN : Fld := ⟨0x050, 16, 8⟩
abbrev TIME.NODE.PRIO : Fld := ⟨0x050, 24, 8⟩
abbrev TIME.HOLD_TMO.MS : Fld := ⟨0x054, 0, 16⟩
abbrev TIME.WRAPS.V : Fld := ⟨0x064, 0, 16⟩
abbrev TIME.INCR_INT.INT : Fld := ⟨0x074, 0, 8⟩
abbrev TIME.SET_WRAPS.V : Fld := ⟨0x07C, 0, 16⟩
abbrev TIME.SLEEP_HI.V : Fld := ⟨0x08C, 0, 16⟩
abbrev TIME.PPS_NEXT_WRAPS.V : Fld := ⟨0x0B4, 0, 16⟩
abbrev TIME.PPS_WIDTH.US : Fld := ⟨0x0BC, 0, 16⟩
abbrev TIME.PPS_IN_HI.NEW : Fld := ⟨0x0C4, 31, 1⟩
abbrev TIME.PPS_IN_HI.FRAC : Fld := ⟨0x0C4, 16, 8⟩
abbrev TIME.PPS_IN_HI.WRAPS : Fld := ⟨0x0C4, 0, 16⟩
abbrev TIME.TOD_CFG.BAUD : Fld := ⟨0x0D0, 0, 3⟩
abbrev TIME.TOD_CFG.TX_DELAY : Fld := ⟨0x0D0, 16, 16⟩
abbrev TIME.TOD_TX.BYTE : Fld := ⟨0x0D4, 0, 8⟩
abbrev TIME.TOD_RX.VALID : Fld := ⟨0x0D8, 8, 1⟩
abbrev TIME.TOD_RX.BYTE : Fld := ⟨0x0D8, 0, 8⟩
abbrev TIME.TOD_STAT.TXN : Fld := ⟨0x0DC, 0, 7⟩
abbrev TIME.TOD_STAT.RXN : Fld := ⟨0x0DC, 16, 7⟩
abbrev TIME.TT_CTRL.LANE_EN : Fld := ⟨0x0E0, 0, 8⟩
abbrev TIME.TT_CTRL.TT_INT : Fld := ⟨0x0E0, 16, 4⟩
abbrev TIME.TS_TX_HI.VALID : Fld := ⟨0x104, 31, 1⟩
abbrev TIME.TS_TX_HI.FRAC : Fld := ⟨0x104, 16, 8⟩
abbrev TIME.TS_TX_HI.WRAPS : Fld := ⟨0x104, 0, 16⟩
abbrev TIME.TT_FRAC.T1 : Fld := ⟨0x210, 0, 8⟩
abbrev TIME.TT_FRAC.T2 : Fld := ⟨0x210, 8, 8⟩
abbrev TIME.TT_FRAC.T3 : Fld := ⟨0x210, 16, 8⟩
abbrev TIME.TT_FRAC.T4 : Fld := ⟨0x210, 24, 8⟩
abbrev TIME.TT_INFO.NEW : Fld := ⟨0x214, 31, 1⟩
abbrev TIME.TT_INFO.TAG : Fld := ⟨0x214, 16, 8⟩
abbrev TIME.TT_INFO.WRAPS : Fld := ⟨0x214, 0, 16⟩
abbrev TIME.TT_PEER.QUALITY : Fld := ⟨0x218, 16, 3⟩
abbrev TIME.TT_PEER.NODE_ID : Fld := ⟨0x218, 0, 14⟩
/-- The register table of TIME (R349). -/
def rowsTIME : List RegRow := [
  ⟨0x040, 1, 0, .rw, 0x00000000, 0x00030703⟩,
  ⟨0x044, 1, 0, .ro, 0x00000000, 0x00FF006F⟩,
  ⟨0x048, 1, 0, .w1c, 0x00000000, 0x00000017⟩,
  ⟨0x04C, 1, 0, .wo, 0x00000000, 0x000000F7⟩,
  ⟨0x050, 1, 0, .rw, 0x00003FFF, 0xFFFF3FFF⟩,
  ⟨0x054, 1, 0, .rw, 0x00000BB8, 0x0000FFFF⟩,
  ⟨0x060, 1, 0, .ro, 0x00000000, 0xFFFFFFFF⟩,
  ⟨0x064, 1, 0, .ro, 0x00000000, 0x0000FFFF⟩,
  ⟨0x068, 1, 0, .ro, 0x00000000, 0xFFFFFFFF⟩,
  ⟨0x070, 1, 0, .rw, 0x9999999A, 0xFFFFFFFF⟩,
  ⟨0x074, 1, 0, .rw, 0x00000001, 0x000000FF⟩,
  ⟨0x078, 1, 0, .rw, 0x00000000, 0xFFFFFFFF⟩,
  ⟨0x07C, 1, 0, .rw, 0x00000000, 0x0000FFFF⟩,
  ⟨0x080, 1, 0, .rw, 0x00000000, 0xFFFFFFFF⟩,
  ⟨0x084, 1, 0, .rw, 0x00000000, 0xFFFFFFFF⟩,
  ⟨0x088, 1, 0, .ro, 0x00000000, 0xFFFFFFFF⟩,
  ⟨0x08C, 1, 0, .ro, 0x00000000, 0x0000FFFF⟩,
  ⟨0x090, 1, 0, .rw, 0x00000209, 0x000FFFFF⟩,
  ⟨0x094, 1, 0, .rw, 0x0000036D, 0x000FFFFF⟩,
  ⟨0x098, 1, 0, .rw, 0x000FFBA0, 0x000FFFFF⟩,
  ⟨0x09C, 1, 0, .rw, 0x000FF8BC, 0x000FFFFF⟩,
  ⟨0x0A0, 1, 0, .rw, 0x00000065, 0x000FFFFF⟩,
  ⟨0x0A4, 1, 0, .rw, 0x000FFE72, 0x000FFFFF⟩,
  ⟨0x0B0, 1, 0, .rw, 0x00000000, 0xFFFFFFFF⟩,
  ⟨0x0B4, 1, 0, .rw, 0x00000000, 0x0000FFFF⟩,
  ⟨0x0B8, 1, 0, .rw, 0x3B9ACA00, 0xFFFFFFFF⟩,
  ⟨0x0BC, 1, 0, .rw, 0x0000000A, 0x0000FFFF⟩,
  ⟨0x0C0, 1, 0, .ro, 0x00000000, 0xFFFFFFFF⟩,
  ⟨0x0C4, 1, 0, .ro, 0x00000000, 0x80FFFFFF⟩,
  ⟨0x0D0, 1, 0, .rw, 0x00640004, 0xFFFF0007⟩,
  ⟨0x0D4, 1, 0, .wo, 0x00000000, 0x000000FF⟩,
  ⟨0x0D8, 1, 0, .ro, 0x00000000, 0x000001FF⟩,
  ⟨0x0DC, 1, 0, .ro, 0x00000000, 0x007F007F⟩,
  ⟨0x0E0, 1, 0, .rw, 0x00040000, 0x000F00FF⟩,
  ⟨0x100, 8, 16, .ro, 0x00000000, 0xFFFFFFFF⟩,
  ⟨0x104, 8, 16, .ro, 0x00000000, 0x80FFFFFF⟩,
  ⟨0x108, 8, 16, .ro, 0x00000000, 0xFFFFFFFF⟩,
  ⟨0x10C, 8, 16, .ro, 0x00000000, 0xFFFFFFFF⟩,
  ⟨0x180, 8, 8, .ro, 0x00000000, 0xFFFFFFFF⟩,
  ⟨0x184, 8, 8, .ro, 0x00000000, 0xFFFFFFFF⟩,
  ⟨0x200, 8, 32, .ro, 0x00000000, 0xFFFFFFFF⟩,
  ⟨0x204, 8, 32, .ro, 0x00000000, 0xFFFFFFFF⟩,
  ⟨0x208, 8, 32, .ro, 0x00000000, 0xFFFFFFFF⟩,
  ⟨0x20C, 8, 32, .ro, 0x00000000, 0xFFFFFFFF⟩,
  ⟨0x210, 8, 32, .ro, 0x00000000, 0xFFFFFFFF⟩,
  ⟨0x214, 8, 32, .ro, 0x00000000, 0x80FFFFFF⟩,
  ⟨0x218, 8, 32, .ro, 0x00000000, 0x00073FFF⟩]

/-! ## MEM: registers of R383 (10_memory_ecc.md) -/
abbrev MEM.MEM_STAT : Nat := 0x040
abbrev MEM.BKT_CFG_D : Nat := 0x044
abbrev MEM.BKT_CFG_S : Nat := 0x048
abbrev MEM.LAST_CE : Nat := 0x04C
abbrev MEM.ERR_ADDR : Nat := 0x050
abbrev MEM.ERR_INFO : Nat := 0x054
abbrev MEM.ERR_CNT : Nat := 0x058
abbrev MEM.POISON_SEL : Nat := 0x060
abbrev MEM.POISON_ENT : Nat := 0x064
abbrev MEM.SUSP_SEL : Nat := 0x068
abbrev MEM.SUSP_ENT : Nat := 0x06C
abbrev MEM.SUSP_INFO : Nat := 0x070
abbrev MEM.TEST_CTRL : Nat := 0x080
abbrev MEM.TEST_ADDR : Nat := 0x084
abbrev MEM.TEST_CMD : Nat := 0x088
abbrev MEM.TEST_STAT : Nat := 0x08C
abbrev MEM.TEST_DATA : Nat := 0x090
abbrev MEM.TEST_CHECK : Nat := 0x0B0
abbrev MEM.TEST_SYN : Nat := 0x0B4
abbrev MEM.BKT : Nat := 0x100
abbrev MEM.CE_CNT : Nat := 0x200
abbrev MEM.UE_CNT : Nat := 0x300
abbrev MEM.MEM_STAT.POISON_FULL : Fld := ⟨0x040, 24, 1⟩
abbrev MEM.MEM_STAT.SUSP_CNT : Fld := ⟨0x040, 16, 7⟩
abbrev MEM.MEM_STAT.POISON_CNT : Fld := ⟨0x040, 0, 11⟩
abbrev MEM.BKT_CFG_D.CAP : Fld := ⟨0x044, 0, 16⟩
abbrev MEM.BKT_CFG_D.LEAK : Fld := ⟨0x044, 16, 16⟩
abbrev MEM.LAST_CE.INSTANCE : Fld := ⟨0x04C, 26, 6⟩
abbrev MEM.LAST_CE.POS : Fld := ⟨0x04C, 0, 7⟩
abbrev MEM.ERR_INFO.CAUSE : Fld := ⟨0x054, 28, 4⟩
abbrev MEM.ERR_INFO.INSTANCE : Fld := ⟨0x054, 22, 6⟩
abbrev MEM.ERR_INFO.MASTER : Fld := ⟨0x054, 12, 8⟩
abbrev MEM.ERR_INFO.POS : Fld := ⟨0x054, 0, 7⟩
abbrev MEM.POISON_SEL.SEL : Fld := ⟨0x060, 0, 10⟩
abbrev MEM.POISON_ENT.INSTANCE : Fld := ⟨0x064, 26, 6⟩
abbrev MEM.POISON_ENT.INDEX : Fld := ⟨0x064, 0, 26⟩
abbrev MEM.SUSP_SEL.SEL : Fld := ⟨0x068, 0, 6⟩
abbrev MEM.SUSP_INFO.REPEAT : Fld := ⟨0x070, 0, 3⟩
abbrev MEM.SUSP_INFO.POS : Fld := ⟨0x070, 8, 7⟩
abbrev MEM.TEST_CTRL.INSTANCE : Fld := ⟨0x080, 8, 6⟩
abbrev MEM.TEST_CTRL.EN : Fld := ⟨0x080, 0, 1⟩
abbrev MEM.TEST_CMD.WRITE_RAW : Fld := ⟨0x088, 0, 1⟩
abbrev MEM.TEST_CMD.READ_RAW : Fld := ⟨0x088, 1, 1⟩
abbrev MEM.TEST_STAT.DONE : Fld := ⟨0x08C, 31, 1⟩
abbrev MEM.TEST_STAT.BUSY : Fld := ⟨0x08C, 30, 1⟩
abbrev MEM.TEST_STAT.RESULT : Fld := ⟨0x08C, 28, 2⟩
abbrev MEM.BKT.LEVEL : Fld := ⟨0x100, 0, 16⟩
abbrev MEM.BKT.OVF : Fld := ⟨0x100, 16, 16⟩
abbrev MEM.UE_CNT.UE : Fld := ⟨0x300, 0, 16⟩
abbrev MEM.UE_CNT.REPAIRS : Fld := ⟨0x300, 16, 16⟩
/-- The register table of MEM (R383). -/
def rowsMEM : List RegRow := [
  ⟨0x040, 1, 0, .ro, 0x00000000, 0x017F07FF⟩,
  ⟨0x044, 1, 0, .rw, 0x003C0040, 0xFFFFFFFF⟩,
  ⟨0x048, 1, 0, .rw, 0x02580010, 0xFFFFFFFF⟩,
  ⟨0x04C, 1, 0, .ro, 0x00000000, 0xFC00007F⟩,
  ⟨0x050, 1, 0, .ro, 0x00000000, 0xFFFFFFFF⟩,
  ⟨0x054, 1, 0, .ro, 0x00000000, 0xFFCFF07F⟩,
  ⟨0x058, 1, 0, .ro, 0x00000000, 0xFFFFFFFF⟩,
  ⟨0x060, 1, 0, .rw, 0x00000000, 0x000003FF⟩,
  ⟨0x064, 1, 0, .ro, 0xFFFFFFFF, 0xFFFFFFFF⟩,
  ⟨0x068, 1, 0, .rw, 0x00000000, 0x0000003F⟩,
  ⟨0x06C, 1, 0, .ro, 0xFFFFFFFF, 0xFFFFFFFF⟩,
  ⟨0x070, 1, 0, .ro, 0x00000000, 0x00007F07⟩,
  ⟨0x080, 1, 0, .rwl, 0x00000000, 0x00003F01⟩,
  ⟨0x084, 1, 0, .rw, 0x00000000, 0xFFFFFFFF⟩,
  ⟨0x088, 1, 0, .wo, 0x00000000, 0x00000003⟩,
  ⟨0x08C, 1, 0, .ro, 0x00000000, 0xF0000000⟩,
  ⟨0x090, 8, 4, .rw, 0x00000000, 0xFFFFFFFF⟩,
  ⟨0x0B0, 1, 0, .rw, 0x00000000, 0xFFFFFFFF⟩,
  ⟨0x0B4, 1, 0, .ro, 0x00000000, 0xFFFFFFFF⟩,
  ⟨0x100, 64, 4, .ro, 0x00000000, 0xFFFFFFFF⟩,
  ⟨0x200, 64, 4, .ro, 0x00000000, 0xFFFFFFFF⟩,
  ⟨0x300, 64, 4, .ro, 0x00000000, 0xFFFFFFFF⟩]

/-! ## DRAM: registers of R386 (10_memory_ecc.md) -/
abbrev DRAM.DR_CTRL : Nat := 0x040
abbrev DRAM.DR_STAT : Nat := 0x044
abbrev DRAM.DR_SIZE : Nat := 0x048
abbrev DRAM.FILL_BASE : Nat := 0x050
abbrev DRAM.FILL_LEN : Nat := 0x054
abbrev DRAM.FILL_PAT_LO : Nat := 0x058
abbrev DRAM.FILL_PAT_HI : Nat := 0x05C
abbrev DRAM.FILL_CMD : Nat := 0x060
abbrev DRAM.FILL_STAT : Nat := 0x064
abbrev DRAM.FILL_DONE_BYTES : Nat := 0x068
abbrev DRAM.INIT_CMD : Nat := 0x070
abbrev DRAM.RPR_CMD : Nat := 0x080
abbrev DRAM.RPR_STAT : Nat := 0x084
abbrev DRAM.RPR_SEL : Nat := 0x088
abbrev DRAM.RPR_ENT : Nat := 0x08C
abbrev DRAM.BW_CTRL : Nat := 0x0A0
abbrev DRAM.BW_RD : Nat := 0x0A4
abbrev DRAM.BW_WR : Nat := 0x0A8
abbrev DRAM.INIT_MAP : Nat := 0x800
abbrev DRAM.DR_CTRL.TEMP_REF : Fld := ⟨0x040, 4, 1⟩
abbrev DRAM.DR_STAT.READY : Fld := ⟨0x044, 0, 1⟩
abbrev DRAM.DR_STAT.SELF_REFRESH : Fld := ⟨0x044, 1, 1⟩
abbrev DRAM.DR_STAT.REF_RATE : Fld := ⟨0x044, 4, 2⟩
abbrev DRAM.DR_STAT.FILL_BUSY : Fld := ⟨0x044, 16, 1⟩
abbrev DRAM.DR_SIZE.SIZE : Fld := ⟨0x048, 0, 8⟩
abbrev DRAM.FILL_CMD.GO : Fld := ⟨0x060, 0, 1⟩
abbrev DRAM.FILL_CMD.CANCEL : Fld := ⟨0x060, 1, 1⟩
abbrev DRAM.FILL_STAT.DONE : Fld := ⟨0x064, 31, 1⟩
abbrev DRAM.FILL_STAT.BUSY : Fld := ⟨0x064, 30, 1⟩
abbrev DRAM.FILL_STAT.RESULT : Fld := ⟨0x064, 28, 2⟩
abbrev DRAM.INIT_CMD.GRANULE : Fld := ⟨0x070, 0, 11⟩
abbrev DRAM.INIT_CMD.SET : Fld := ⟨0x070, 16, 1⟩
abbrev DRAM.INIT_CMD.CLR : Fld := ⟨0x070, 17, 1⟩
abbrev DRAM.RPR_CMD.GO : Fld := ⟨0x080, 31, 1⟩
abbrev DRAM.RPR_CMD.SRAM : Fld := ⟨0x080, 30, 1⟩
abbrev DRAM.RPR_CMD.CHANNEL : Fld := ⟨0x080, 26, 3⟩
abbrev DRAM.RPR_CMD.BANK : Fld := ⟨0x080, 22, 4⟩
abbrev DRAM.RPR_CMD.V : Fld := ⟨0x080, 0, 13⟩
abbrev DRAM.RPR_STAT.FREE : Fld := ⟨0x084, 0, 13⟩
abbrev DRAM.RPR_STAT.BUSY : Fld := ⟨0x084, 31, 1⟩
abbrev DRAM.RPR_SEL.SEL : Fld := ⟨0x088, 0, 12⟩
abbrev DRAM.RPR_ENT.VALID : Fld := ⟨0x08C, 31, 1⟩
abbrev DRAM.RPR_ENT.ROW : Fld := ⟨0x08C, 0, 13⟩
abbrev DRAM.BW_CTRL.WIN : Fld := ⟨0x0A0, 0, 5⟩
/-- The register table of DRAM (R386). -/
def rowsDRAM : List RegRow := [
  ⟨0x040, 1, 0, .rw, 0x00000010, 0x00000010⟩,
  ⟨0x044, 1, 0, .ro, 0x00000000, 0x00010033⟩,
  ⟨0x048, 1, 0, .ro, 0x00000010, 0x000000FF⟩,
  ⟨0x050, 1, 0, .rw, 0x40000000, 0xFFFFFFFF⟩,
  ⟨0x054, 1, 0, .rw, 0x00000000, 0xFFFFFFFF⟩,
  ⟨0x058, 1, 0, .rw, 0x00000000, 0xFFFFFFFF⟩,
  ⟨0x05C, 1, 0, .rw, 0x00000000, 0xFFFFFFFF⟩,
  ⟨0x060, 1, 0, .wo, 0x00000000, 0x00000003⟩,
  ⟨0x064, 1, 0, .ro, 0x00000000, 0xF0000000⟩,
  ⟨0x068, 1, 0, .ro, 0x00000000, 0xFFFFFFFF⟩,
  ⟨0x070, 1, 0, .wo, 0x00000000, 0x000307FF⟩,
  ⟨0x080, 1, 0, .wo, 0x00000000, 0xDFFF1FFF⟩,
  ⟨0x084, 1, 0, .ro, 0x00001000, 0x80001FFF⟩,
  ⟨0x088, 1, 0, .rw, 0x00000000, 0x00000FFF⟩,
  ⟨0x08C, 1, 0, .ro, 0x00000000, 0x80001FFF⟩,
  ⟨0x0A0, 1, 0, .rw, 0x0000000A, 0x0000001F⟩,
  ⟨0x0A4, 1, 0, .ro, 0x00000000, 0xFFFFFFFF⟩,
  ⟨0x0A8, 1, 0, .ro, 0x00000000, 0xFFFFFFFF⟩,
  ⟨0x800, 64, 4, .ro, 0x00000000, 0xFFFFFFFF⟩]

/-! ## SCRB: registers of R388 (10_memory_ecc.md) -/
abbrev SCRB.SC_CTRL : Nat := 0x040
abbrev SCRB.SC_STAT : Nat := 0x044
abbrev SCRB.D_PASS : Nat := 0x048
abbrev SCRB.S_PASS : Nat := 0x04C
abbrev SCRB.SUSP_INT : Nat := 0x050
abbrev SCRB.REPEAT_LIM : Nat := 0x054
abbrev SCRB.D_POS : Nat := 0x058
abbrev SCRB.D_PASSES : Nat := 0x05C
abbrev SCRB.S_POS : Nat := 0x100
abbrev SCRB.SC_CTRL.D_EN : Fld := ⟨0x040, 0, 1⟩
abbrev SCRB.SC_CTRL.S_EN : Fld := ⟨0x040, 1, 1⟩
abbrev SCRB.SC_STAT.PAUSED_BO : Fld := ⟨0x044, 0, 1⟩
abbrev SCRB.SC_STAT.BEHIND : Fld := ⟨0x044, 1, 1⟩
abbrev SCRB.D_PASS.MIN : Fld := ⟨0x048, 0, 11⟩
abbrev SCRB.S_PASS.S : Fld := ⟨0x04C, 0, 12⟩
abbrev SCRB.SUSP_INT.MS : Fld := ⟨0x050, 0, 16⟩
abbrev SCRB.REPEAT_LIM.LIM : Fld := ⟨0x054, 0, 3⟩
abbrev SCRB.D_POS.POS : Fld := ⟨0x058, 0, 26⟩
abbrev SCRB.S_POS.POS : Fld := ⟨0x100, 0, 16⟩
abbrev SCRB.S_POS.PASSES : Fld := ⟨0x100, 16, 16⟩
/-- The register table of SCRB (R388). -/
def rowsSCRB : List RegRow := [
  ⟨0x040, 1, 0, .rw, 0x00000003, 0x00000003⟩,
  ⟨0x044, 1, 0, .ro, 0x00000000, 0x00000003⟩,
  ⟨0x048, 1, 0, .rw, 0x00000078, 0x000007FF⟩,
  ⟨0x04C, 1, 0, .rw, 0x00000258, 0x00000FFF⟩,
  ⟨0x050, 1, 0, .rw, 0x000003E8, 0x0000FFFF⟩,
  ⟨0x054, 1, 0, .rw, 0x00000003, 0x00000007⟩,
  ⟨0x058, 1, 0, .ro, 0x00000000, 0x03FFFFFF⟩,
  ⟨0x05C, 1, 0, .ro, 0x00000000, 0xFFFFFFFF⟩,
  ⟨0x100, 64, 4, .ro, 0x00000000, 0xFFFFFFFF⟩]

/-! ## CAP: registers of R407 (11_capture_replay.md) -/
abbrev CAP.CP_CTRL : Nat := 0x040
abbrev CAP.CP_STAT : Nat := 0x044
abbrev CAP.CP_CMD : Nat := 0x048
abbrev CAP.DBASE : Nat := 0x050
abbrev CAP.DLEN : Nat := 0x054
abbrev CAP.IBASE : Nat := 0x058
abbrev CAP.ILEN : Nat := 0x05C
abbrev CAP.KBASE : Nat := 0x060
abbrev CAP.KCFG : Nat := 0x064
abbrev CAP.LBASE : Nat := 0x068
abbrev CAP.LLEN : Nat := 0x06C
abbrev CAP.POST : Nat := 0x070
abbrev CAP.SNR_TRIG : Nat := 0x074
abbrev CAP.TRIG_INFO : Nat := 0x078
abbrev CAP.TRIG_FRAME : Nat := 0x07C
abbrev CAP.TRIG_NS : Nat := 0x080
abbrev CAP.TRIG_WRAPS : Nat := 0x084
abbrev CAP.OLDEST_FRAME : Nat := 0x088
abbrev CAP.NEWEST_FRAME : Nat := 0x08C
abbrev CAP.CNT : Nat := 0x090
abbrev CAP.CP_CTRL.CKPT_ENG : Fld := ⟨0x040, 24, 1⟩
abbrev CAP.CP_CTRL.TRIG_EN : Fld := ⟨0x040, 16, 5⟩
abbrev CAP.CP_CTRL.DECIM : Fld := ⟨0x040, 8, 1⟩
abbrev CAP.CP_CTRL.CONTENT : Fld := ⟨0x040, 4, 2⟩
abbrev CAP.CP_CTRL.LANE : Fld := ⟨0x040, 0, 3⟩
abbrev CAP.CP_STAT.CFG_ERR : Fld := ⟨0x044, 12, 3⟩
abbrev CAP.CP_STAT.TRUNC : Fld := ⟨0x044, 10, 1⟩
abbrev CAP.CP_STAT.LOG_LOST : Fld := ⟨0x044, 9, 1⟩
abbrev CAP.CP_STAT.GAP : Fld := ⟨0x044, 8, 1⟩
abbrev CAP.CP_STAT.PAUSE : Fld := ⟨0x044, 4, 3⟩
abbrev CAP.CP_STAT.STATE : Fld := ⟨0x044, 0, 3⟩
abbrev CAP.CP_CMD.ROLL : Fld := ⟨0x048, 0, 1⟩
abbrev CAP.CP_CMD.ARM : Fld := ⟨0x048, 1, 1⟩
abbrev CAP.CP_CMD.TRIGGER : Fld := ⟨0x048, 2, 1⟩
abbrev CAP.CP_CMD.STOP : Fld := ⟨0x048, 3, 1⟩
abbrev CAP.CP_CMD.RELEASE : Fld := ⟨0x048, 4, 1⟩
abbrev CAP.KCFG.KSLOTS : Fld := ⟨0x064, 0, 5⟩
abbrev CAP.KCFG.KINT : Fld := ⟨0x064, 16, 4⟩
abbrev CAP.POST.FRAMES : Fld := ⟨0x070, 0, 24⟩
abbrev CAP.SNR_TRIG.LEVEL : Fld := ⟨0x074, 0, 10⟩
abbrev CAP.SNR_TRIG.DROP : Fld := ⟨0x074, 16, 10⟩
abbrev CAP.TRIG_INFO.CAUSES : Fld := ⟨0x078, 0, 5⟩
abbrev CAP.TRIG_WRAPS.V : Fld := ⟨0x084, 0, 16⟩
abbrev CAP.CNT.TRIG_MISSED : Fld := ⟨0x090, 0, 16⟩
abbrev CAP.CNT.GAPS : Fld := ⟨0x090, 16, 16⟩
/-- The register table of CAP (R407). -/
def rowsCAP : List RegRow := [
  ⟨0x040, 1, 0, .rw, 0x00000000, 0x011F0137⟩,
  ⟨0x044, 1, 0, .ro, 0x00000000, 0x00007777⟩,
  ⟨0x048, 1, 0, .wo, 0x00000000, 0x0000001F⟩,
  ⟨0x050, 1, 0, .rw, 0x00000000, 0xFFFFFFFF⟩,
  ⟨0x054, 1, 0, .rw, 0x00000000, 0xFFFFFFFF⟩,
  ⟨0x058, 1, 0, .rw, 0x00000000, 0xFFFFFFFF⟩,
  ⟨0x05C, 1, 0, .rw, 0x00000000, 0xFFFFFFFF⟩,
  ⟨0x060, 1, 0, .rw, 0x00000000, 0xFFFFFFFF⟩,
  ⟨0x064, 1, 0, .rw, 0x000A0010, 0x000F001F⟩,
  ⟨0x068, 1, 0, .rw, 0x00000000, 0xFFFFFFFF⟩,
  ⟨0x06C, 1, 0, .rw, 0x00000000, 0xFFFFFFFF⟩,
  ⟨0x070, 1, 0, .rw, 0x00000800, 0x00FFFFFF⟩,
  ⟨0x074, 1, 0, .rw, 0x00140078, 0x03FF03FF⟩,
  ⟨0x078, 1, 0, .ro, 0x00000000, 0x0000001F⟩,
  ⟨0x07C, 1, 0, .ro, 0x00000000, 0xFFFFFFFF⟩,
  ⟨0x080, 1, 0, .ro, 0x00000000, 0xFFFFFFFF⟩,
  ⟨0x084, 1, 0, .ro, 0x00000000, 0x0000FFFF⟩,
  ⟨0x088, 1, 0, .ro, 0x00000000, 0xFFFFFFFF⟩,
  ⟨0x08C, 1, 0, .ro, 0x00000000, 0xFFFFFFFF⟩,
  ⟨0x090, 1, 0, .ro, 0x00000000, 0xFFFFFFFF⟩]

/-! ## RPL: registers of R409 (11_capture_replay.md) -/
abbrev RPL.RP_CTRL : Nat := 0x040
abbrev RPL.RP_STAT : Nat := 0x044
abbrev RPL.RP_CMD : Nat := 0x048
abbrev RPL.START_FRAME : Nat := 0x04C
abbrev RPL.END_FRAME : Nat := 0x050
abbrev RPL.OBASE : Nat := 0x054
abbrev RPL.OLEN : Nat := 0x058
abbrev RPL.DONE_FRAMES : Nat := 0x05C
abbrev RPL.MATCH : Nat := 0x060
abbrev RPL.MISMATCH : Nat := 0x064
abbrev RPL.FIRST_MISMATCH : Nat := 0x068
abbrev RPL.RP_TMO : Nat := 0x06C
abbrev RPL.RP_CTRL.MODE : Fld := ⟨0x040, 0, 1⟩
abbrev RPL.RP_CTRL.OWNER : Fld := ⟨0x040, 4, 4⟩
abbrev RPL.RP_CTRL.ENG_MASK : Fld := ⟨0x040, 16, 16⟩
abbrev RPL.RP_STAT.STATE : Fld := ⟨0x044, 0, 3⟩
abbrev RPL.RP_STAT.RESULT : Fld := ⟨0x044, 4, 4⟩
abbrev RPL.RP_CMD.GO : Fld := ⟨0x048, 0, 1⟩
abbrev RPL.RP_CMD.ABORT : Fld := ⟨0x048, 1, 1⟩
abbrev RPL.RP_TMO.MS : Fld := ⟨0x06C, 0, 16⟩
/-- The register table of RPL (R409). -/
def rowsRPL : List RegRow := [
  ⟨0x040, 1, 0, .rw, 0x00000000, 0xFFFF00F1⟩,
  ⟨0x044, 1, 0, .ro, 0x00000000, 0x000000F7⟩,
  ⟨0x048, 1, 0, .wo, 0x00000000, 0x00000003⟩,
  ⟨0x04C, 1, 0, .rw, 0x00000000, 0xFFFFFFFF⟩,
  ⟨0x050, 1, 0, .rw, 0x00000000, 0xFFFFFFFF⟩,
  ⟨0x054, 1, 0, .rw, 0x00000000, 0xFFFFFFFF⟩,
  ⟨0x058, 1, 0, .rw, 0x00000000, 0xFFFFFFFF⟩,
  ⟨0x05C, 1, 0, .ro, 0x00000000, 0xFFFFFFFF⟩,
  ⟨0x060, 1, 0, .ro, 0x00000000, 0xFFFFFFFF⟩,
  ⟨0x064, 1, 0, .ro, 0x00000000, 0xFFFFFFFF⟩,
  ⟨0x068, 1, 0, .ro, 0xFFFFFFFF, 0xFFFFFFFF⟩,
  ⟨0x06C, 1, 0, .rw, 0x00000064, 0x0000FFFF⟩]

/-! ## TRC: registers of R410 (11_capture_replay.md) -/
abbrev TRC.TRC_CTRL : Nat := 0x040
abbrev TRC.TRC_STAT : Nat := 0x044
abbrev TRC.ALIGN : Nat := 0x048
abbrev TRC.RX_WORD : Nat := 0x050
abbrev TRC.MARK_OFS : Nat := 0x060
abbrev TRC.LERR : Nat := 0x070
abbrev TRC.EXP_SRC : Nat := 0x080
abbrev TRC.EXP_LEN : Nat := 0x084
abbrev TRC.EXP_STREAM : Nat := 0x088
abbrev TRC.EXP_CMD : Nat := 0x08C
abbrev TRC.EXP_STAT : Nat := 0x090
abbrev TRC.EXP_BYTES : Nat := 0x094
abbrev TRC.TRC_CTRL.MODE : Fld := ⟨0x040, 0, 2⟩
abbrev TRC.TRC_CTRL.EN : Fld := ⟨0x040, 4, 1⟩
abbrev TRC.TRC_STAT.LANE_LOCK : Fld := ⟨0x044, 0, 4⟩
abbrev TRC.TRC_STAT.DESKEWED : Fld := ⟨0x044, 8, 1⟩
abbrev TRC.ALIGN.SLIP : Fld := ⟨0x048, 0, 4⟩
abbrev TRC.ALIGN.WSLIP : Fld := ⟨0x048, 4, 4⟩
abbrev TRC.RX_WORD.GROUP : Fld := ⟨0x050, 0, 10⟩
abbrev TRC.MARK_OFS.OFS : Fld := ⟨0x060, 0, 4⟩
abbrev TRC.LERR.DISP : Fld := ⟨0x070, 16, 16⟩
abbrev TRC.LERR.CODE : Fld := ⟨0x070, 0, 16⟩
abbrev TRC.EXP_STREAM.STREAM : Fld := ⟨0x088, 0, 8⟩
abbrev TRC.EXP_CMD.GO : Fld := ⟨0x08C, 0, 1⟩
abbrev TRC.EXP_CMD.CANCEL : Fld := ⟨0x08C, 1, 1⟩
abbrev TRC.EXP_STAT.DONE : Fld := ⟨0x090, 31, 1⟩
abbrev TRC.EXP_STAT.BUSY : Fld := ⟨0x090, 30, 1⟩
abbrev TRC.EXP_STAT.RESULT : Fld := ⟨0x090, 0, 2⟩
/-- The register table of TRC (R410). -/
def rowsTRC : List RegRow := [
  ⟨0x040, 1, 0, .rw, 0x00000000, 0x00000013⟩,
  ⟨0x044, 1, 0, .ro, 0x00000000, 0x0000010F⟩,
  ⟨0x048, 1, 0, .wo, 0x00000000, 0x000000FF⟩,
  ⟨0x050, 4, 4, .ro, 0x00000000, 0x000003FF⟩,
  ⟨0x060, 4, 4, .ro, 0x00000000, 0x0000000F⟩,
  ⟨0x070, 4, 4, .ro, 0x00000000, 0xFFFFFFFF⟩,
  ⟨0x080, 1, 0, .rw, 0x00000000, 0xFFFFFFFF⟩,
  ⟨0x084, 1, 0, .rw, 0x00000000, 0xFFFFFFFF⟩,
  ⟨0x088, 1, 0, .rw, 0x00000000, 0x000000FF⟩,
  ⟨0x08C, 1, 0, .wo, 0x00000000, 0x00000003⟩,
  ⟨0x090, 1, 0, .ro, 0x00000000, 0xC0000003⟩,
  ⟨0x094, 1, 0, .ro, 0x00000000, 0xFFFFFFFF⟩]

/-! ## CASC: registers of R586 (15_startup_firmware_lifecycle.md) -/
abbrev CASC.CC_CTRL : Nat := 0x040
abbrev CASC.CC_STAT : Nat := 0x044
abbrev CASC.PEER_ID_LO : Nat := 0x048
abbrev CASC.PEER_ID_HI : Nat := 0x04C
abbrev CASC.CNT_LINK : Nat := 0x050
abbrev CASC.CC_CTRL.EN : Fld := ⟨0x040, 0, 1⟩
abbrev CASC.CC_CTRL.AUTO_LOAD : Fld := ⟨0x040, 1, 1⟩
abbrev CASC.CC_STAT.LINK_UP : Fld := ⟨0x044, 0, 1⟩
abbrev CASC.CC_STAT.ROLE : Fld := ⟨0x044, 1, 1⟩
abbrev CASC.CC_STAT.PEER_LOADED : Fld := ⟨0x044, 2, 1⟩
abbrev CASC.CC_STAT.F8 : Fld := ⟨0x044, 8, 8⟩
abbrev CASC.CNT_LINK.V : Fld := ⟨0x050, 0, 16⟩
abbrev CASC.CNT_LINK.CRC : Fld := ⟨0x050, 16, 16⟩
/-- The register table of CASC (R586). -/
def rowsCASC : List RegRow := [
  ⟨0x040, 1, 0, .rw, 0x00000003, 0x00000003⟩,
  ⟨0x044, 1, 0, .ro, 0x00000000, 0x0000FF07⟩,
  ⟨0x048, 1, 0, .ro, 0x00000000, 0xFFFFFFFF⟩,
  ⟨0x04C, 1, 0, .ro, 0x00000000, 0xFFFFFFFF⟩,
  ⟨0x050, 1, 0, .ro, 0x00000000, 0xFFFFFFFF⟩]

/-! ## HKADC: registers of R538 (14_housekeeping_converters.md) -/
abbrev HKADC.HK_CTRL : Nat := 0x040
abbrev HKADC.HK_TRIG : Nat := 0x044
abbrev HKADC.HK_CMD : Nat := 0x048
abbrev HKADC.HK_STAT : Nat := 0x04C
abbrev HKADC.HK_OVR : Nat := 0x050
abbrev HKADC.RQ_STAT : Nat := 0x054
abbrev HKADC.RQ_WATER : Nat := 0x058
abbrev HKADC.RQ_LO : Nat := 0x05C
abbrev HKADC.RQ_HI : Nat := 0x060
abbrev HKADC.URG_REQ : Nat := 0x064
abbrev HKADC.URG_RES : Nat := 0x068
abbrev HKADC.TMR_CTRL : Nat := 0x06C
abbrev HKADC.TMR_PER : Nat := 0x070
abbrev HKADC.SEQ : Nat := 0x080
abbrev HKADC.HK_LAST : Nat := 0x100
abbrev HKADC.SLC_CORR : Nat := 0x180
abbrev HKADC.HK_CTRL.LAST : Fld := ⟨0x040, 16, 5⟩
abbrev HKADC.HK_CTRL.REF_EN : Fld := ⟨0x040, 8, 3⟩
abbrev HKADC.HK_CTRL.CAL_EN : Fld := ⟨0x040, 2, 1⟩
abbrev HKADC.HK_CTRL.SEQ_EN : Fld := ⟨0x040, 0, 1⟩
abbrev HKADC.HK_TRIG.SRC : Fld := ⟨0x044, 0, 4⟩
abbrev HKADC.HK_TRIG.DELAY : Fld := ⟨0x044, 16, 16⟩
abbrev HKADC.HK_CMD.TRIGGER : Fld := ⟨0x048, 0, 1⟩
abbrev HKADC.HK_CMD.RQ_FLUSH : Fld := ⟨0x048, 1, 1⟩
abbrev HKADC.HK_CMD.CNT_CLR : Fld := ⟨0x048, 2, 1⟩
abbrev HKADC.HK_STAT.SLICE_OK : Fld := ⟨0x04C, 24, 4⟩
abbrev HKADC.HK_STAT.REF_OK : Fld := ⟨0x04C, 20, 3⟩
abbrev HKADC.HK_STAT.URG_PEND : Fld := ⟨0x04C, 17, 1⟩
abbrev HKADC.HK_STAT.TRIG_HELD : Fld := ⟨0x04C, 16, 1⟩
abbrev HKADC.HK_STAT.ENTRY : Fld := ⟨0x04C, 8, 5⟩
abbrev HKADC.HK_STAT.STATE : Fld := ⟨0x04C, 0, 3⟩
abbrev HKADC.HK_OVR.TRIG : Fld := ⟨0x050, 0, 16⟩
abbrev HKADC.HK_OVR.URG : Fld := ⟨0x050, 16, 16⟩
abbrev HKADC.RQ_STAT.COUNT : Fld := ⟨0x054, 0, 9⟩
abbrev HKADC.RQ_STAT.LOST : Fld := ⟨0x054, 16, 16⟩
abbrev HKADC.RQ_WATER.LEVEL : Fld := ⟨0x058, 0, 8⟩
abbrev HKADC.RQ_LO.VALID : Fld := ⟨0x05C, 31, 1⟩
abbrev HKADC.RQ_LO.PRE : Fld := ⟨0x05C, 30, 1⟩
abbrev HKADC.RQ_LO.CLIP : Fld := ⟨0x05C, 29, 1⟩
abbrev HKADC.RQ_LO.ENTRY : Fld := ⟨0x05C, 24, 5⟩
abbrev HKADC.RQ_LO.LATE : Fld := ⟨0x05C, 23, 1⟩
abbrev HKADC.RQ_LO.REF : Fld := ⟨0x05C, 21, 2⟩
abbrev HKADC.RQ_LO.NOCLK : Fld := ⟨0x05C, 20, 1⟩
abbrev HKADC.RQ_LO.BO : Fld := ⟨0x05C, 19, 1⟩
abbrev HKADC.RQ_LO.REF_NS : Fld := ⟨0x05C, 18, 1⟩
abbrev HKADC.RQ_LO.URG : Fld := ⟨0x05C, 17, 1⟩
abbrev HKADC.RQ_LO.CH : Fld := ⟨0x05C, 12, 5⟩
abbrev HKADC.RQ_LO.CODE : Fld := ⟨0x05C, 0, 12⟩
abbrev HKADC.URG_REQ.CH : Fld := ⟨0x064, 0, 5⟩
abbrev HKADC.URG_REQ.REF : Fld := ⟨0x064, 5, 2⟩
abbrev HKADC.URG_REQ.AVG : Fld := ⟨0x064, 8, 2⟩
abbrev HKADC.URG_RES.VALID : Fld := ⟨0x068, 31, 1⟩
abbrev HKADC.URG_RES.PRE : Fld := ⟨0x068, 30, 1⟩
abbrev HKADC.URG_RES.CLIP : Fld := ⟨0x068, 29, 1⟩
abbrev HKADC.URG_RES.ENTRY : Fld := ⟨0x068, 24, 5⟩
abbrev HKADC.URG_RES.LATE : Fld := ⟨0x068, 23, 1⟩
abbrev HKADC.URG_RES.REF : Fld := ⟨0x068, 21, 2⟩
abbrev HKADC.URG_RES.NOCLK : Fld := ⟨0x068, 20, 1⟩
abbrev HKADC.URG_RES.BO : Fld := ⟨0x068, 19, 1⟩
abbrev HKADC.URG_RES.REF_NS : Fld := ⟨0x068, 18, 1⟩
abbrev HKADC.URG_RES.URG : Fld := ⟨0x068, 17, 1⟩
abbrev HKADC.URG_RES.CH : Fld := ⟨0x068, 12, 5⟩
abbrev HKADC.URG_RES.CODE : Fld := ⟨0x068, 0, 12⟩
abbrev HKADC.TMR_CTRL.V : Fld := ⟨0x06C, 0, 4⟩
abbrev HKADC.SEQ.NOQ : Fld := ⟨0x080, 16, 1⟩
abbrev HKADC.SEQ.AVG : Fld := ⟨0x080, 8, 2⟩
abbrev HKADC.SEQ.REF : Fld := ⟨0x080, 5, 2⟩
abbrev HKADC.SEQ.CH : Fld := ⟨0x080, 0, 5⟩
abbrev HKADC.HK_LAST.VALID : Fld := ⟨0x100, 31, 1⟩
abbrev HKADC.HK_LAST.PRE : Fld := ⟨0x100, 30, 1⟩
abbrev HKADC.HK_LAST.CLIP : Fld := ⟨0x100, 29, 1⟩
abbrev HKADC.HK_LAST.ENTRY : Fld := ⟨0x100, 24, 5⟩
abbrev HKADC.HK_LAST.LATE : Fld := ⟨0x100, 23, 1⟩
abbrev HKADC.HK_LAST.REF : Fld := ⟨0x100, 21, 2⟩
abbrev HKADC.HK_LAST.NOCLK : Fld := ⟨0x100, 20, 1⟩
abbrev HKADC.HK_LAST.BO : Fld := ⟨0x100, 19, 1⟩
abbrev HKADC.HK_LAST.REF_NS : Fld := ⟨0x100, 18, 1⟩
abbrev HKADC.HK_LAST.URG : Fld := ⟨0x100, 17, 1⟩
abbrev HKADC.HK_LAST.CH : Fld := ⟨0x100, 12, 5⟩
abbrev HKADC.HK_LAST.CODE : Fld := ⟨0x100, 0, 12⟩
abbrev HKADC.SLC_CORR.OFFSET : Fld := ⟨0x180, 16, 12⟩
abbrev HKADC.SLC_CORR.GAIN : Fld := ⟨0x180, 0, 12⟩
/-- The register table of HKADC (R538). -/
def rowsHKADC : List RegRow := [
  ⟨0x040, 1, 0, .rw, 0x00000004, 0x001F0705⟩,
  ⟨0x044, 1, 0, .rw, 0x00000000, 0xFFFF000F⟩,
  ⟨0x048, 1, 0, .wo, 0x00000000, 0x00000007⟩,
  ⟨0x04C, 1, 0, .ro, 0x0F000000, 0x0F731F07⟩,
  ⟨0x050, 1, 0, .ro, 0x00000000, 0xFFFFFFFF⟩,
  ⟨0x054, 1, 0, .ro, 0x00000000, 0xFFFF01FF⟩,
  ⟨0x058, 1, 0, .rw, 0x00000080, 0x000000FF⟩,
  ⟨0x05C, 1, 0, .ro, 0x00000000, 0xFFFFFFFF⟩,
  ⟨0x060, 1, 0, .ro, 0x00000000, 0xFFFFFFFF⟩,
  ⟨0x064, 1, 0, .wo, 0x00000000, 0x0000037F⟩,
  ⟨0x068, 1, 0, .ro, 0x00000000, 0xFFFFFFFF⟩,
  ⟨0x06C, 1, 0, .rw, 0x00000000, 0x0000000F⟩,
  ⟨0x070, 4, 4, .rw, 0x0002625A, 0xFFFFFFFF⟩,
  ⟨0x080, 32, 4, .rw, 0x00000000, 0x0001037F⟩,
  ⟨0x100, 32, 4, .ro, 0x00000000, 0xFFFFFFFF⟩,
  ⟨0x180, 4, 4, .ro, 0x00000000, 0x0FFF0FFF⟩]

/-! ## CDAC: registers of R541 (14_housekeeping_converters.md) -/
abbrev CDAC.CD_SC : Nat := 0x040
abbrev CDAC.CD_SCF : Nat := 0x044
abbrev CDAC.CD_QERR : Nat := 0x048
abbrev CDAC.CD_CTRL : Nat := 0x100
abbrev CDAC.CD_SLEW : Nat := 0x104
abbrev CDAC.CD_Q : Nat := 0x108
abbrev CDAC.CD_STAT : Nat := 0x10C
abbrev CDAC.CD_TRIM : Nat := 0x200
abbrev CDAC.CD_SC.SC_NOW : Fld := ⟨0x040, 0, 16⟩
abbrev CDAC.CD_SCF.V : Fld := ⟨0x044, 0, 16⟩
abbrev CDAC.CD_QERR.OVF : Fld := ⟨0x048, 0, 16⟩
abbrev CDAC.CD_QERR.UNDERRUN : Fld := ⟨0x048, 16, 16⟩
abbrev CDAC.CD_CTRL.UPD_DIV : Fld := ⟨0x100, 16, 10⟩
abbrev CDAC.CD_CTRL.SPAN : Fld := ⟨0x100, 4, 2⟩
abbrev CDAC.CD_CTRL.SC_HIZ : Fld := ⟨0x100, 2, 1⟩
abbrev CDAC.CD_CTRL.STREAM : Fld := ⟨0x100, 1, 1⟩
abbrev CDAC.CD_CTRL.EN : Fld := ⟨0x100, 0, 1⟩
abbrev CDAC.CD_SLEW.STEP : Fld := ⟨0x104, 0, 14⟩
abbrev CDAC.CD_SLEW.SLEW_DIV : Fld := ⟨0x104, 16, 16⟩
abbrev CDAC.CD_Q.V : Fld := ⟨0x108, 0, 14⟩
abbrev CDAC.CD_STAT.FLUSHED : Fld := ⟨0x10C, 28, 4⟩
abbrev CDAC.CD_STAT.STATE : Fld := ⟨0x10C, 24, 3⟩
abbrev CDAC.CD_STAT.SPAN_ACT : Fld := ⟨0x10C, 22, 2⟩
abbrev CDAC.CD_STAT.QCOUNT : Fld := ⟨0x10C, 16, 5⟩
abbrev CDAC.CD_STAT.OUT : Fld := ⟨0x10C, 0, 14⟩
abbrev CDAC.CD_TRIM.OFFSET : Fld := ⟨0x200, 16, 12⟩
abbrev CDAC.CD_TRIM.GAIN : Fld := ⟨0x200, 0, 12⟩
/-- The register table of CDAC (R541). -/
def rowsCDAC : List RegRow := [
  ⟨0x040, 1, 0, .ro, 0x00000000, 0x0000FFFF⟩,
  ⟨0x044, 1, 0, .w1c, 0x00000000, 0x0000FFFF⟩,
  ⟨0x048, 1, 0, .w1c, 0x00000000, 0xFFFFFFFF⟩,
  ⟨0x100, 16, 16, .rw, 0x00010000, 0x03FF0037⟩,
  ⟨0x104, 16, 16, .rw, 0x00010000, 0xFFFF3FFF⟩,
  ⟨0x108, 16, 16, .wo, 0x00000000, 0x00003FFF⟩,
  ⟨0x10C, 16, 16, .ro, 0x00000000, 0xF7DF3FFF⟩,
  ⟨0x200, 16, 4, .rw, 0x00000000, 0x0FFF0FFF⟩]

/-! ## PWM: registers of R544 (14_housekeeping_converters.md) -/
abbrev PWM.PW_CTRL : Nat := 0x040
abbrev PWM.PW_STAT : Nat := 0x044
abbrev PWM.PW_FLAGS : Nat := 0x048
abbrev PWM.PW_PER : Nat := 0x050
abbrev PWM.PW_DUTY : Nat := 0x054
abbrev PWM.PW_LIM : Nat := 0x058
abbrev PWM.PW_TRIG : Nat := 0x05C
abbrev PWM.PW_CTRL.POL : Fld := ⟨0x040, 8, 4⟩
abbrev PWM.PW_CTRL.PAIR23 : Fld := ⟨0x040, 5, 1⟩
abbrev PWM.PW_CTRL.PAIR01 : Fld := ⟨0x040, 4, 1⟩
abbrev PWM.PW_CTRL.EN : Fld := ⟨0x040, 0, 4⟩
abbrev PWM.PW_STAT.RUN : Fld := ⟨0x044, 0, 4⟩
abbrev PWM.PW_FLAGS.CLAMP : Fld := ⟨0x048, 0, 4⟩
abbrev PWM.PW_PER.V : Fld := ⟨0x050, 0, 16⟩
abbrev PWM.PW_DUTY.V : Fld := ⟨0x054, 0, 16⟩
abbrev PWM.PW_LIM.DMAX : Fld := ⟨0x058, 0, 16⟩
abbrev PWM.PW_LIM.DEAD : Fld := ⟨0x058, 16, 16⟩
abbrev PWM.PW_TRIG.TRIG_EN : Fld := ⟨0x05C, 16, 1⟩
abbrev PWM.PW_TRIG.TRIG_CNT : Fld := ⟨0x05C, 0, 16⟩
/-- The register table of PWM (R544). -/
def rowsPWM : List RegRow := [
  ⟨0x040, 1, 0, .rw, 0x00000000, 0x00000F3F⟩,
  ⟨0x044, 1, 0, .ro, 0x00000000, 0x0000000F⟩,
  ⟨0x048, 1, 0, .w1c, 0x00000000, 0x0000000F⟩,
  ⟨0x050, 4, 16, .rw, 0x00000271, 0x0000FFFF⟩,
  ⟨0x054, 4, 16, .rw, 0x00000000, 0x0000FFFF⟩,
  ⟨0x058, 4, 16, .rw, 0x0000FFFF, 0xFFFFFFFF⟩,
  ⟨0x05C, 4, 16, .rw, 0x0000FFFF, 0x0001FFFF⟩]

/-! ## BIST: registers of R587 (15_startup_firmware_lifecycle.md) -/
abbrev BIST.BT_CMD : Nat := 0x040
abbrev BIST.BT_STAT : Nat := 0x044
abbrev BIST.SIG_LO : Nat := 0x048
abbrev BIST.SIG_HI : Nat := 0x04C
abbrev BIST.EXP_LO : Nat := 0x050
abbrev BIST.EXP_HI : Nat := 0x054
abbrev BIST.ANA_RES : Nat := 0x058
abbrev BIST.ANA_RX : Nat := 0x05C
abbrev BIST.ANA_TX : Nat := 0x060
abbrev BIST.FAIL_ROWS : Nat := 0x064
abbrev BIST.FRPR_TGT : Nat := 0x068
abbrev BIST.FRPR_CMD : Nat := 0x06C
abbrev BIST.FRPR_STAT : Nat := 0x070
abbrev BIST.BT_CMD.TEST : Fld := ⟨0x040, 0, 3⟩
abbrev BIST.BT_CMD.TARGET : Fld := ⟨0x040, 8, 6⟩
abbrev BIST.BT_CMD.GO : Fld := ⟨0x040, 16, 1⟩
abbrev BIST.BT_CMD.ABORT : Fld := ⟨0x040, 17, 1⟩
abbrev BIST.BT_STAT.DONE : Fld := ⟨0x044, 31, 1⟩
abbrev BIST.BT_STAT.BUSY : Fld := ⟨0x044, 30, 1⟩
abbrev BIST.BT_STAT.RESULT : Fld := ⟨0x044, 24, 3⟩
abbrev BIST.ANA_RES.V : Fld := ⟨0x058, 0, 10⟩
abbrev BIST.ANA_RX.V : Fld := ⟨0x05C, 0, 17⟩
abbrev BIST.ANA_TX.V : Fld := ⟨0x060, 0, 17⟩
abbrev BIST.FAIL_ROWS.V : Fld := ⟨0x064, 0, 16⟩
abbrev BIST.FRPR_TGT.F24 : Fld := ⟨0x068, 24, 6⟩
abbrev BIST.FRPR_TGT.F20 : Fld := ⟨0x068, 20, 3⟩
abbrev BIST.FRPR_TGT.F16 : Fld := ⟨0x068, 16, 4⟩
abbrev BIST.FRPR_TGT.V : Fld := ⟨0x068, 0, 13⟩
abbrev BIST.FRPR_CMD.GO : Fld := ⟨0x06C, 0, 1⟩
abbrev BIST.FRPR_STAT.V : Fld := ⟨0x070, 0, 6⟩
abbrev BIST.FRPR_STAT.F8 : Fld := ⟨0x070, 8, 5⟩
/-- The register table of BIST (R587). -/
def rowsBIST : List RegRow := [
  ⟨0x040, 1, 0, .wo, 0x00000000, 0x00033F07⟩,
  ⟨0x044, 1, 0, .ro, 0x00000000, 0xC7000000⟩,
  ⟨0x048, 1, 0, .ro, 0x00000000, 0xFFFFFFFF⟩,
  ⟨0x04C, 1, 0, .ro, 0x00000000, 0xFFFFFFFF⟩,
  ⟨0x050, 1, 0, .rw, 0x00000000, 0xFFFFFFFF⟩,
  ⟨0x054, 1, 0, .rw, 0x00000000, 0xFFFFFFFF⟩,
  ⟨0x058, 1, 0, .ro, 0x00000000, 0x000003FF⟩,
  ⟨0x05C, 1, 0, .ro, 0x00000000, 0x0001FFFF⟩,
  ⟨0x060, 1, 0, .ro, 0x00000000, 0x0001FFFF⟩,
  ⟨0x064, 1, 0, .ro, 0x00000000, 0x0000FFFF⟩,
  ⟨0x068, 1, 0, .rw, 0x00000000, 0x3F7F1FFF⟩,
  ⟨0x06C, 1, 0, .wo, 0x00000000, 0x00000001⟩,
  ⟨0x070, 1, 0, .ro, 0x00000000, 0x00001F3F⟩]

/-- The register table of each page family of R414; the memory families 32 to 34 have none. -/
def pageRows : Nat → List RegRow
  | 0 => rowsSUP
  | 1 => rowsPWR
  | 2 => rowsCLK
  | 3 => rowsRST
  | 4 => rowsLCS
  | 5 => rowsEVT
  | 6 => rowsPROT
  | 7 => rowsID
  | 8 => rowsTHERM
  | 9 => rowsLRX
  | 10 => rowsLTX
  | 11 => rowsCAL
  | 12 => rowsIFEC
  | 13 => rowsOFEC
  | 14 => rowsPORT
  | 15 => rowsHSL
  | 16 => rowsCLU
  | 17 => rowsPERF
  | 18 => rowsPART
  | 19 => rowsDAWN
  | 20 => rowsTIME
  | 21 => rowsMEM
  | 22 => rowsDRAM
  | 23 => rowsSCRB
  | 24 => rowsCAP
  | 25 => rowsRPL
  | 26 => rowsTRC
  | 27 => rowsCASC
  | 28 => rowsHKADC
  | 29 => rowsCDAC
  | 30 => rowsPWM
  | 31 => rowsBIST
  | _ => []

/-! ## Page bases (R414) -/
abbrev pSUP : Nat := 0x10000000
abbrev pPWR : Nat := 0x10001000
abbrev pCLK : Nat := 0x10002000
abbrev pRST : Nat := 0x10003000
abbrev pLCS : Nat := 0x10004000
abbrev pEVT : Nat := 0x10005000
abbrev pPROT : Nat := 0x10006000
abbrev pID : Nat := 0x10007000
abbrev pTHERM : Nat := 0x10008000
abbrev pLRX (i : Nat) : Nat := 0x10010000 + 0x1000 * i
abbrev pLTX (i : Nat) : Nat := 0x10018000 + 0x1000 * i
abbrev pCAL : Nat := 0x10020000
abbrev pIFEC (i : Nat) : Nat := 0x10030000 + 0x1000 * i
abbrev pOFEC (i : Nat) : Nat := 0x10038000 + 0x1000 * i
abbrev pPORT : Nat := 0x10040000
abbrev pHSL (i : Nat) : Nat := 0x10050000 + 0x1000 * i
abbrev pCLU (i : Nat) : Nat := 0x10060000 + 0x1000 * i
abbrev pPERF (i : Nat) : Nat := 0x10070000 + 0x1000 * i
abbrev pPART (i : Nat) : Nat := 0x10080000 + 0x1000 * i
abbrev pDAWN (i : Nat) : Nat := 0x10088000 + 0x1000 * i
abbrev pTIME : Nat := 0x10090000
abbrev pMEM : Nat := 0x100A0000
abbrev pDRAM : Nat := 0x100A1000
abbrev pSCRB : Nat := 0x100A2000
abbrev pCAP : Nat := 0x100B0000
abbrev pRPL : Nat := 0x100B1000
abbrev pTRC : Nat := 0x100B2000
abbrev pCASC : Nat := 0x100B3000
abbrev pHKADC : Nat := 0x100C0000
abbrev pCDAC : Nat := 0x100C1000
abbrev pPWM : Nat := 0x100C2000
abbrev pBIST : Nat := 0x100D0000

/-- The page table of R414: family, base, instances, event base, events per instance, reset protection mask. -/
def pages : List PageRow := [
  ⟨0, 0x10000000, 1, 980, 8, 0x040F⟩,
  ⟨1, 0x10001000, 1, 968, 4, 0x000C⟩,
  ⟨2, 0x10002000, 1, 972, 4, 0x040F⟩,
  ⟨3, 0x10003000, 1, 976, 4, 0x040F⟩,
  ⟨4, 0x10004000, 1, 996, 4, 0x000C⟩,
  ⟨5, 0x10005000, 1, 988, 4, 0x040F⟩,
  ⟨6, 0x10006000, 1, 992, 4, 0x0004⟩,
  ⟨7, 0x10007000, 1, 1004, 4, 0x060F⟩,
  ⟨8, 0x10008000, 1, 960, 8, 0x068F⟩,
  ⟨9, 0x10010000, 8, 0, 12, 0x061F⟩,
  ⟨10, 0x10018000, 8, 96, 8, 0x061F⟩,
  ⟨11, 0x10020000, 1, 320, 16, 0x061F⟩,
  ⟨12, 0x10030000, 8, 160, 8, 0x064F⟩,
  ⟨13, 0x10038000, 8, 224, 8, 0x064F⟩,
  ⟨14, 0x10040000, 1, 288, 32, 0x060F⟩,
  ⟨15, 0x10050000, 16, 352, 10, 0x062F⟩,
  ⟨16, 0x10060000, 16, 512, 8, 0x040F⟩,
  ⟨17, 0x10070000, 16, 640, 9, 0x040F⟩,
  ⟨18, 0x10080000, 8, 784, 10, 0x061F⟩,
  ⟨19, 0x10088000, 8, 864, 8, 0x060F⟩,
  ⟨20, 0x10090000, 1, 336, 16, 0x064F⟩,
  ⟨21, 0x100A0000, 1, 928, 16, 0x040F⟩,
  ⟨22, 0x100A1000, 1, 944, 4, 0x000C⟩,
  ⟨23, 0x100A2000, 1, 948, 4, 0x040F⟩,
  ⟨24, 0x100B0000, 1, 952, 4, 0x040F⟩,
  ⟨25, 0x100B1000, 1, 956, 2, 0x040F⟩,
  ⟨26, 0x100B2000, 1, 958, 2, 0x040F⟩,
  ⟨27, 0x100B3000, 1, 1008, 4, 0x000C⟩,
  ⟨28, 0x100C0000, 1, 1012, 8, 0x048F⟩,
  ⟨29, 0x100C1000, 1, 1020, 2, 0x048F⟩,
  ⟨30, 0x100C2000, 1, 1022, 2, 0x048F⟩,
  ⟨31, 0x100D0000, 1, 1000, 4, 0x000C⟩]

/-! ## Event bits of EVT_RAW, page by page; an event with one bit per port or counter names its first -/
abbrev SUP.evSUP_WDOG : Ev := ⟨0, 0⟩
abbrev SUP.evBOOT_DONE : Ev := ⟨0, 1⟩
abbrev SUP.evIMG_REJECT : Ev := ⟨0, 2⟩
abbrev SUP.evACT_DONE : Ev := ⟨0, 3⟩
abbrev SUP.evACT_FAIL : Ev := ⟨0, 4⟩
abbrev SUP.evSETTINGS_RESET : Ev := ⟨0, 5⟩
abbrev SUP.evFLASH_ERR : Ev := ⟨0, 6⟩
abbrev SUP.evBANK_FALLBACK : Ev := ⟨0, 7⟩
abbrev PWR.evBO_WARN : Ev := ⟨1, 0⟩
abbrev PWR.evBO_RESUME : Ev := ⟨1, 1⟩
abbrev PWR.evPWR_DONE : Ev := ⟨1, 2⟩
abbrev PWR.evREQ_REPLACED : Ev := ⟨1, 3⟩
abbrev CLK.evREFCLK_LOST : Ev := ⟨2, 0⟩
abbrev CLK.evREFCLK_BACK : Ev := ⟨2, 1⟩
abbrev CLK.evPLL_UNLOCK : Ev := ⟨2, 2⟩
abbrev CLK.evXLOST : Ev := ⟨2, 3⟩
abbrev RST.evGRP_DONE : Ev := ⟨3, 0⟩
abbrev RST.evGRP_REFUSED : Ev := ⟨3, 1⟩
abbrev RST.evWARM_DONE : Ev := ⟨3, 2⟩
abbrev LCS.evLCS_CHANGE : Ev := ⟨4, 0⟩
abbrev LCS.evLCS_REFUSED : Ev := ⟨4, 1⟩
abbrev LCS.evFUSE_FAIL : Ev := ⟨4, 2⟩
abbrev EVT.evHOST_BERR : Ev := ⟨5, 0⟩
abbrev EVT.evLOG_LOST : Ev := ⟨5, 1⟩
abbrev EVT.evLOG_WRAP : Ev := ⟨5, 2⟩
abbrev EVT.evPEER_INT : Ev := ⟨5, 3⟩
abbrev PROT.evPROP_PENDING : Ev := ⟨6, 0⟩
abbrev PROT.evPROP_DONE : Ev := ⟨6, 1⟩
abbrev PROT.evPROT_DENIED : Ev := ⟨6, 2⟩
abbrev ID.evCH_DONE : Ev := ⟨7, 0⟩
abbrev ID.evCH_REFUSED : Ev := ⟨7, 1⟩
abbrev THERM.evALARM_HI : Ev := ⟨8, 0⟩
abbrev THERM.evALARM_CRIT : Ev := ⟨8, 1⟩
abbrev THERM.evALARM_CLEAR : Ev := ⟨8, 2⟩
abbrev THERM.evLEVEL : Ev := ⟨8, 3⟩
abbrev THERM.evSENSOR_BROKEN : Ev := ⟨8, 4⟩
abbrev THERM.evNO_SENSOR : Ev := ⟨8, 5⟩
abbrev LRX.evLOS_ASSERT : Ev := ⟨9, 0⟩
abbrev LRX.evLOS_CLEAR : Ev := ⟨9, 1⟩
abbrev LRX.evLOCKED : Ev := ⟨9, 2⟩
abbrev LRX.evLOCK_LOST : Ev := ⟨9, 3⟩
abbrev LRX.evTIMING_LOST : Ev := ⟨9, 4⟩
abbrev LRX.evSNR_LOSS : Ev := ⟨9, 5⟩
abbrev LRX.evACQ_TIMEOUT : Ev := ⟨9, 6⟩
abbrev LRX.evCOMMIT_DISCARDED : Ev := ⟨9, 7⟩
abbrev LRX.evTR_RANGE : Ev := ⟨9, 8⟩
abbrev LTX.evTX_ACTIVE : Ev := ⟨10, 0⟩
abbrev LTX.evTX_INACTIVE : Ev := ⟨10, 1⟩
abbrev LTX.evCOMMIT_DISCARDED : Ev := ⟨10, 2⟩
abbrev LTX.evCLIP : Ev := ⟨10, 3⟩
abbrev LTX.evREM_ANSWERED : Ev := ⟨10, 4⟩
abbrev LTX.evREM_REFUSED : Ev := ⟨10, 5⟩
abbrev CAL.evDISAGREE : Ev := ⟨11, 0⟩
abbrev CAL.evSLICE_RETIRED : Ev := ⟨11, 1⟩
abbrev CAL.evSPARE_EXHAUSTED : Ev := ⟨11, 2⟩
abbrev CAL.evSLICE_DEGRADED : Ev := ⟨11, 3⟩
abbrev CAL.evEMERGENCY : Ev := ⟨11, 4⟩
abbrev CAL.evSHADOW_REFUSED : Ev := ⟨11, 5⟩
abbrev CAL.evQUIET_MISSED : Ev := ⟨11, 6⟩
abbrev CAL.evRESULT_TIMEOUT : Ev := ⟨11, 7⟩
abbrev CAL.evCALREF_CHANGE : Ev := ⟨11, 8⟩
abbrev CAL.evCALREF_REJECT : Ev := ⟨11, 9⟩
abbrev IFEC.evFRAME_LOCK : Ev := ⟨12, 0⟩
abbrev IFEC.evFRAME_LOSS : Ev := ⟨12, 1⟩
abbrev IFEC.evHDR_CRC : Ev := ⟨12, 2⟩
abbrev IFEC.evWRAPPED : Ev := ⟨12, 3⟩
abbrev IFEC.evFAR_RDI_ON : Ev := ⟨12, 4⟩
abbrev IFEC.evFAR_RDI_OFF : Ev := ⟨12, 5⟩
abbrev IFEC.evNCONV : Ev := ⟨12, 6⟩
abbrev OFEC.evUNCORR : Ev := ⟨13, 0⟩
abbrev OFEC.evTX_UNCORR : Ev := ⟨13, 1⟩
abbrev OFEC.evDEG_SER_ON : Ev := ⟨13, 2⟩
abbrev OFEC.evDEG_SER_OFF : Ev := ⟨13, 3⟩
abbrev OFEC.evCW_LOCK_LOSS : Ev := ⟨13, 4⟩
abbrev OFEC.evWRAPPED : Ev := ⟨13, 5⟩
abbrev PORT.evPORT_UP : Ev := ⟨14, 0⟩
abbrev PORT.evPORT_DOWN : Ev := ⟨14, 8⟩
abbrev PORT.evFROZEN_CHANGE : Ev := ⟨14, 16⟩
abbrev PORT.evSKEW_FAULT : Ev := ⟨14, 24⟩
abbrev HSL.evLOS_ASSERT : Ev := ⟨15, 0⟩
abbrev HSL.evLOS_CLEAR : Ev := ⟨15, 1⟩
abbrev HSL.evRX_UP : Ev := ⟨15, 2⟩
abbrev HSL.evRX_DOWN : Ev := ⟨15, 3⟩
abbrev HSL.evCDR_LOST : Ev := ⟨15, 4⟩
abbrev HSL.evCOMMIT_DISCARDED : Ev := ⟨15, 5⟩
abbrev HSL.evHS_FAULT : Ev := ⟨15, 6⟩
abbrev HSL.evCOMP_SLIP : Ev := ⟨15, 7⟩
abbrev HSL.evHSKEW_FAULT : Ev := ⟨15, 8⟩
abbrev HSL.evPRBS_ERR : Ev := ⟨15, 9⟩
abbrev CLU.evENG_FAULT : Ev := ⟨16, 0⟩
abbrev CLU.evENG_RETIRED : Ev := ⟨16, 1⟩
abbrev CLU.evDUTY_SUSPENDED : Ev := ⟨16, 2⟩
abbrev CLU.evSERVE_LOST : Ev := ⟨16, 3⟩
abbrev CLU.evSUP_MB : Ev := ⟨16, 4⟩
abbrev CLU.evSUP_MB_DROP : Ev := ⟨16, 5⟩
abbrev CLU.evDMA_ERROR : Ev := ⟨16, 6⟩
abbrev PERF.evCNT_OVF : Ev := ⟨17, 0⟩
abbrev PERF.evSMP_FULL : Ev := ⟨17, 8⟩
abbrev PART.evPARTNER_NEW : Ev := ⟨18, 0⟩
abbrev PART.evPARTNER_CHANGED : Ev := ⟨18, 1⟩
abbrev PART.evMULTI_SOURCE : Ev := ⟨18, 2⟩
abbrev PART.evSELF_LOOP : Ev := ⟨18, 3⟩
abbrev PART.evCELL_ERR : Ev := ⟨18, 4⟩
abbrev PART.evTXRSP : Ev := ⟨18, 5⟩
abbrev PART.evRR_DONE : Ev := ⟨18, 6⟩
abbrev PART.evRLB_CHANGE : Ev := ⟨18, 7⟩
abbrev PART.evFW_RX : Ev := ⟨18, 8⟩
abbrev PART.evFW_DROP : Ev := ⟨18, 9⟩
abbrev DAWN.evRX_PKT : Ev := ⟨19, 0⟩
abbrev DAWN.evRX_DROP : Ev := ⟨19, 1⟩
abbrev DAWN.evHDR_FAIL : Ev := ⟨19, 2⟩
abbrev DAWN.evCRC_ERR : Ev := ⟨19, 3⟩
abbrev DAWN.evPREEMPT : Ev := ⟨19, 4⟩
abbrev DAWN.evTX_DONE : Ev := ⟨19, 5⟩
abbrev DAWN.evTX_FAIL : Ev := ⟨19, 6⟩
abbrev DAWN.evECHO : Ev := ⟨19, 7⟩
abbrev TIME.evWRAP : Ev := ⟨20, 0⟩
abbrev TIME.evWRAPS_OVF : Ev := ⟨20, 1⟩
abbrev TIME.evHOLDOVER_ON : Ev := ⟨20, 2⟩
abbrev TIME.evHOLDOVER_OFF : Ev := ⟨20, 3⟩
abbrev TIME.evSLEPT : Ev := ⟨20, 4⟩
abbrev TIME.evPPS_IN : Ev := ⟨20, 5⟩
abbrev TIME.evPPS_IN_LOST : Ev := ⟨20, 6⟩
abbrev TIME.evTT_DONE : Ev := ⟨20, 7⟩
abbrev TIME.evTT_TIMEOUT : Ev := ⟨20, 8⟩
abbrev TIME.evCLAMP : Ev := ⟨20, 9⟩
abbrev TIME.evTOD_RX : Ev := ⟨20, 10⟩
abbrev MEM.evCE_OVERFLOW : Ev := ⟨21, 0⟩
abbrev MEM.evUE_DEMAND : Ev := ⟨21, 1⟩
abbrev MEM.evPOISONED : Ev := ⟨21, 2⟩
abbrev MEM.evPOISON_FULL : Ev := ⟨21, 3⟩
abbrev MEM.evROW_REPAIRED : Ev := ⟨21, 4⟩
abbrev MEM.evREPAIR_EXHAUSTED : Ev := ⟨21, 5⟩
abbrev MEM.evNARROW_REJ : Ev := ⟨21, 6⟩
abbrev MEM.evUNINIT_READ : Ev := ⟨21, 7⟩
abbrev MEM.evSUSP_EVICT : Ev := ⟨21, 8⟩
abbrev DRAM.evFILL_DONE : Ev := ⟨22, 0⟩
abbrev DRAM.evFILL_FAIL : Ev := ⟨22, 1⟩
abbrev DRAM.evREF_RATE : Ev := ⟨22, 2⟩
abbrev SCRB.evD_DONE : Ev := ⟨23, 0⟩
abbrev SCRB.evPASS_LATE : Ev := ⟨23, 1⟩
abbrev SCRB.evS_DONE : Ev := ⟨23, 2⟩
abbrev CAP.evTRIGGERED : Ev := ⟨24, 0⟩
abbrev CAP.evHELD : Ev := ⟨24, 1⟩
abbrev CAP.evCAP_GAP : Ev := ⟨24, 2⟩
abbrev CAP.evLOG_LOST : Ev := ⟨24, 3⟩
abbrev RPL.evRP_DONE : Ev := ⟨25, 0⟩
abbrev RPL.evRP_MISMATCH : Ev := ⟨25, 1⟩
abbrev TRC.evEXP_DONE : Ev := ⟨26, 0⟩
abbrev TRC.evLANE_UNLOCK : Ev := ⟨26, 1⟩
abbrev CASC.evCASC_UP : Ev := ⟨27, 0⟩
abbrev CASC.evCASC_DOWN : Ev := ⟨27, 1⟩
abbrev CASC.evPEER_RESTART : Ev := ⟨27, 2⟩
abbrev CASC.evLOAD_FAIL : Ev := ⟨27, 3⟩
abbrev HKADC.evSEQ_DONE : Ev := ⟨28, 0⟩
abbrev HKADC.evRQ_WATER : Ev := ⟨28, 1⟩
abbrev HKADC.evRQ_OVF : Ev := ⟨28, 2⟩
abbrev HKADC.evOVERRUN : Ev := ⟨28, 3⟩
abbrev HKADC.evURG_DONE : Ev := ⟨28, 4⟩
abbrev HKADC.evURG_OVR : Ev := ⟨28, 5⟩
abbrev HKADC.evREF_FAULT : Ev := ⟨28, 6⟩
abbrev HKADC.evSLICE_FAULT : Ev := ⟨28, 7⟩
abbrev CDAC.evSHORT : Ev := ⟨29, 0⟩
abbrev CDAC.evQERR : Ev := ⟨29, 1⟩
abbrev PWM.evCLAMP : Ev := ⟨30, 0⟩
abbrev BIST.evBIST_DONE : Ev := ⟨31, 0⟩
abbrev BIST.evBIST_FAIL : Ev := ⟨31, 1⟩
abbrev BIST.evREPAIR_FUSED : Ev := ⟨31, 2⟩

end Sys2Proof.Machine
end

