-- ==== Sys2Proof/Machine/Map.lean ====
section
/-! DEFINITION. The register space: the common page header (R415, R416), the lookup of an address in the page table (R414) and
in its page's register table, what a register holds after a cold reset (R10), and which events are masked or logged
at reset (R414, R432). -/

namespace Sys2Proof.Machine

/-- A field of an array register's element `d` bytes beyond the first. -/
def fldAt (f : Fld) (d : Nat) : Fld := { f with off := f.off + d }

/-- An event `p` bits above the first of its group. -/
def evAt (e : Ev) (p : Nat) : Ev := { e with bit := e.bit + p }

/-! ## The common page header -/
abbrev HDR.PAGE_ID : Nat := 0x000
abbrev HDR.PAGE_REV : Nat := 0x004
abbrev HDR.PAGE_CTRL : Nat := 0x008
abbrev HDR.PAGE_STAT : Nat := 0x00C
abbrev HDR.EVT_RAW : Nat := 0x010
abbrev HDR.EVT_MASK : Nat := 0x014
abbrev HDR.EVT_PEND : Nat := 0x018
abbrev HDR.SNAP : Nat := 0x020
abbrev HDR.LOCK : Fld := ⟨0x008, 31, 1⟩
abbrev HDR.DRAIN : Fld := ⟨0x008, 1, 1⟩
abbrev HDR.ENABLE : Fld := ⟨0x008, 0, 1⟩
abbrev HDR.FSTATE : Fld := ⟨0x00C, 16, 2⟩
abbrev HDR.SNAP_PEND : Fld := ⟨0x00C, 4, 1⟩

/-- The rows of the common page header (R415, R416). EVT_RAW and EVT_MASK hold a bit for each of the page's events; the
field map lists no bits of them, so none is reserved (DEDUCED, log entry 3). -/
def rowsHdr : List RegRow := [
  ⟨0x000, 1, 0, .ro, 0x00000000, 0xFFFF0FFF⟩,
  ⟨0x004, 1, 0, .ro, 0x00000100, 0x0000FFFF⟩,
  ⟨0x008, 1, 0, .rw, 0x00000001, 0x80000003⟩,
  ⟨0x00C, 1, 0, .ro, 0x00010000, 0x00030011⟩,
  ⟨0x010, 1, 0, .w1c, 0x00000000, 0xFFFFFFFF⟩,
  ⟨0x014, 1, 0, .rw, 0x00000000, 0xFFFFFFFF⟩,
  ⟨0x018, 1, 0, .ro, 0x00000000, 0xFFFFFFFF⟩,
  ⟨0x020, 1, 0, .wo, 0x00000000, 0xFFFFFFFF⟩]

/-- Where an address of the register space lies: its row of the page table, the instance and the offset (R412, R414). -/
def findPage (a : Nat) : Option (PageRow × Nat × Nat) :=
  match pages.find? (fun p => decide (p.base ≤ a) && decide (a < p.base + 0x1000 * p.count)) with
  | some p => some (p, (a - p.base) / 0x1000, (a - p.base) % 0x1000)
  | none => none

/-- Whether a row of a register table holds the register at an offset. -/
def rowHas (r : RegRow) (off : Nat) : Bool :=
  if r.stride = 0 then r.off == off
  else decide (r.off ≤ off) && (off - r.off) % r.stride == 0 && decide ((off - r.off) / r.stride < r.count)

/-- The row of the register at an offset of a page of a family; none where no register table lists it (R13). -/
def findRow (fam off : Nat) : Option RegRow :=
  if off < 0x040 then rowsHdr.find? (fun r => rowHas r off) else (pageRows fam).find? (fun r => rowHas r off)

/-- The reset value of EVT_MASK (R415). -/
def maskReset (fam : Nat) : Word :=
  if fam = 20 then 0x1 else if fam = 23 then 0x5 else if fam = 5 then 0x4 else 0

/-- The family, instance and bit whose event number (R414) is `e`; none where no page has that number. -/
def eventOf (e : Nat) : Option (PageRow × Nat × Nat) :=
  match pages.find? (fun p => decide (p.evBase ≤ e) && decide (e < p.evBase + p.width * p.count)) with
  | some p => some (p, (e - p.evBase) / p.width, (e - p.evBase) % p.width)
  | none => none

/-- Whether LOG_SEL holds 0 at reset for an event number: sources masked at reset, every PERF source, LTX CLIP and
OFEC UNCORR (R432). -/
def logOff (e : Nat) : Bool :=
  match eventOf e with
  | some (p, _, b) =>
    (maskReset p.fam).getLsbD b || p.fam == 17 || (p.fam == 10 && b == LTX.evCLIP.bit)
      || (p.fam == 13 && b == OFEC.evUNCORR.bit)
  | none => false

/-- The reset value of LOG_SEL[g] (R432). -/
def logSelReset (g : Nat) : Word :=
  (List.range 32).foldl (fun w i => if logOff (32 * g + i) then w else w + BitVec.ofNat 32 (2 ^ i)) 0

/-- The reset values that a register table states by words rather than by one number. -/
def resetSpecial (fam inst off : Nat) : Option Word :=
  if off = HDR.EVT_MASK then some (maskReset fam)
  else if fam = 5 ∧ EVT.LOG_SEL ≤ off ∧ off < EVT.LOG_SEL + 0x80 then some (logSelReset ((off - EVT.LOG_SEL) / 4))
  else if fam = 6 ∧ PROT.MAP ≤ off ∧ off ≤ PROT.MAP + 4 * 34 then
    let f := (off - PROT.MAP) / 4
    some (if f = 32 ∨ f = 33 then 0x000C else if f = 34 then 0x05FF else
      match pages.find? (fun p => p.fam == f) with
      | some p => BitVec.ofNat 32 p.mask
      | none => 0)
  else if fam = 9 ∧ off = LRX.FFE + 4 * 20 then some 0x800
  else if fam = 9 ∧ LRX.MLSE_REF ≤ off ∧ off < LRX.MLSE_REF + 4 * 32 then
    some (match (off - LRX.MLSE_REF) / 4 / 8 with
      | 0 => 0x03400340 | 1 => 0x03C003C0 | 2 => 0x00400040 | _ => 0x00C000C0)
  else if fam = 10 ∧ off = LTX.FIR + 4 * 2 then some 0x100
  else if fam = 15 ∧ off = HSL.TX_FIR + 4 * 2 then some 0x80
  else if fam = 15 ∧ off = HSL.RX_FFE + 4 * 4 then some 0x800
  else if fam = 15 ∧ off = HSL.LANE_CFG then some (BitVec.ofNat 32 (inst + 256 * inst))
  else none

/-- What the register at an address holds after a cold reset (R10); "X" reads 0 (DESIGN CHOICE, log entry 2). -/
def regReset (a : Nat) : Word :=
  match findPage a with
  | some (p, i, off) =>
    match findRow p.fam off with
    | some r => (resetSpecial p.fam i off).getD r.reset
    | none => 0
  | none => 0

end Sys2Proof.Machine
end

