-- ==== Sys2Proof/Syntax.lean ====
section
/-! DEFINITION. The commands of the Z832: one constructor per row of spec/opcode_table.json, in its order, with the row's operands. -/

namespace Sys2Proof

/-- The commands. A requester `r` issues a transaction; `k` is a core (256 the supervisor); `n`, `m`, `p`, `c`, `u` number lanes, ports, clusters and
units. Values that the device measures or receives are operands. -/
inductive Instr where
  /-- REGISTER_WRITE (R11): A write to a register that has no row of its own takes effect as its access code defines, subject to
  LOCK and the protection map. -/
  | registerWrite (r : Requester) (a : Nat) (v : Word)
  /-- PAGE_SNAP (R417): A write of a page's SNAP register requests a coherent latch of its wide and latched registers, or is
  absorbed into a latch already pending. -/
  | pageSnap (r : Requester) (fam : Fin 32) (i : Fin 16)
  /-- IDLE_LATCH_TIMEOUT (R417): A latch requested on a page or lane that is not running is taken within 1 µs of the request. -/
  | idleLatchTimeout (outer : Bool) (n : Fin 8)
  /-- PAGE_ENABLE (R438): A write of PAGE_CTRL.ENABLE = 1 re-enables the page's function, or waits until a drain in progress has
  ended. -/
  | pageEnable (r : Requester) (fam : Fin 32) (i : Fin 16)
  /-- PAGE_DISABLE (R438): A write of PAGE_CTRL.ENABLE = 0 moves a page with work in flight to DRAINING under its drain policy. -/
  | pageDisable (r : Requester) (fam : Fin 32) (i : Fin 16) (cancel : Bool)
  /-- PAGE_DRAIN_DONE (R438): The work in flight of a draining page has ended, and FSTATE becomes DISABLED. -/
  | pageDrainDone (fam : Fin 32) (i : Fin 16)
  /-- PAGE_LOCK (R12): A write of 1 to PAGE_CTRL.LOCK locks the page's RWL fields until its reset group is reset. -/
  | pageLock (r : Requester) (fam : Fin 32) (i : Fin 16)
  /-- EVT_CLEAR (R429): A write of 1 to an EVT_RAW bit clears the event, unless the source occurs again in the same cycle. -/
  | evtClear (r : Requester) (fam : Fin 32) (i : Fin 16) (v : Word)
  /-- PORT_ENABLE (R170): The second of PCFG.DEFINED and PORT_EN bit p becomes 1, which starts the port's lanes and clears its
  statistics. -/
  | portEnable (r : Requester) (p : Fin 8)
  /-- PORT_DISABLE (R36): PORT_EN bit p becomes 0; pending commits are discarded whole and the lanes go to DOWN and SQUELCH. -/
  | portDisable (r : Requester) (p : Fin 8)
  /-- PORT_RESET (R196): A PORT_CMD bit resets an enabled port as a disable followed at once by an enable. -/
  | portReset (r : Requester) (p : Fin 8)
  /-- IDLE_COMMIT_APPLY (R625): A commit request accepted on a lane direction that has no commit points takes effect whole within 1
  µs. -/
  | idleCommitApply (d : LaneDir)
  /-- LRX_COMMIT (R59): A write of LRX.COMMIT requests that the named groups' shadow banks replace the groups in force at the next
  commit point. -/
  | lrxCommit (r : Requester) (n : Fin 8) (groups : BitVec 7)
  /-- LINE_RX_COMMIT_POINT (R61): A received or local inner-frame boundary of a line receive lane applies pending commits, slice
  hand-overs and latches, and advances FRAME_CNT. -/
  | lineRxCommitPoint (n : Fin 8) (late : Nat) (raw : List (BitVec 8)) (cf : CapFrame)
  /-- LOS_ASSERT (R48): The input amplitude has stayed below LOS_ON for LOS_T, so LOS asserts and the lane falls to NO_SIGNAL. -/
  | losAssert (n : Fin 8) (ampl : BitVec 10)
  /-- LOS_CLEAR (R48): The input amplitude has stayed above LOS_OFF for LOS_T, so LOS clears and the lane moves to GAIN. -/
  | losClear (n : Fin 8) (ampl : BitVec 10)
  /-- ACQ_ADVANCE (R65): ADVANCE written by the serving cluster moves the lane to its next acquisition state if that state's
  condition holds. -/
  | acqAdvance (r : Requester) (n : Fin 8)
  /-- ACQ_RESTART (R65): RESTART moves the lane to GAIN from any state above NO_SIGNAL without changing coefficients or pending
  commits. -/
  | acqRestart (r : Requester) (n : Fin 8)
  /-- TIMING_LOCK_SET (R53): TR_FREQ has changed by less than 0.5 ppm over four consecutive 16 µs windows, so TR_LOCK sets. -/
  | timingLockSet (n : Fin 8)
  /-- TR_RANGE (R53): The timing loop's frequency reaches ±300 ppm; the NCO holds at the limit and TR_LOCK clears. -/
  | trRange (n : Fin 8)
  /-- CYCLE_SLIP (R53): A detected cycle slip clears TR_LOCK, and a lane at EQ or above falls to TIMING. -/
  | cycleSlip (n : Fin 8)
  /-- SNR_WINDOW_END (R66): A window of 2^20 resampler output symbols ends and updates SNR_EST, SNR_OK and the count of low windows.
  -/
  | snrWindowEnd (n : Fin 8)
  /-- ACQ_TIMEOUT (R67): The time in GAIN, TIMING, EQ or FRAME exceeds ACQ_TMO, so CNT_ACQ_FAIL increments and the lane returns to
  GAIN. -/
  | acqTimeout (n : Fin 8)
  /-- ADC_MON_WINDOW (R76): A window of 2^20 ADC samples ends and updates the RMS and clip counts of ADC_MON. -/
  | adcMonWindow (n : Fin 8) (ampl : BitVec 10)
  /-- LTX_COMMIT (R105): A write of LTX.COMMIT requests that the named transmit groups take effect at the next transmit frame
  boundary. -/
  | ltxCommit (r : Requester) (n : Fin 8) (groups : BitVec 5)
  /-- TX_PLL_LOCKED (R99): The lane transmit PLL, started from OFF, locks, and the lane enters SQUELCH. -/
  | txPllLocked (n : Fin 8)
  /-- SQ_HOLD_EXPIRY (R99): SQ_HOLD has elapsed since the port was enabled on a squelched lane. -/
  | sqHoldExpiry (n : Fin 8)
  /-- TX_FRAME_TIMER_BOUNDARY (R102): The device transmit frame timer marks a 614.4 ns boundary, which serves as the commit point of
  lanes not yet ACTIVE. -/
  | txFrameTimerBoundary (late : List Nat)
  /-- LINE_TX_FRAME_BOUNDARY (R101): A transmit frame boundary of an ACTIVE lane applies pending transmit commits and advances
  LTX.FRAME_CNT. -/
  | lineTxFrameBoundary (n : Fin 8) (late : Nat)
  /-- TX_BEACON_SET (R99): TX_CTRL.BEACON written 1 on a lane whose port is not enabled starts the beacon once the lane is in
  SQUELCH. -/
  | txBeaconSet (r : Requester) (n : Fin 8)
  /-- TX_BEACON_CLEAR (R99): TX_CTRL.BEACON written 0 returns a beaconing lane to SQUELCH at once. -/
  | txBeaconClear (r : Requester) (n : Fin 8)
  /-- SKEW_FINE_STEP (R97): Every 64 symbols the fine-skew interpolator moves one step towards SKEW_F in force without wrapping. -/
  | skewFineStep (n : Fin 8)
  /-- REM_QUERY (R107): A QUERY request received on the partner channel is answered with the FIR and SWING in force. -/
  | remQuery (n : Fin 8) (c : Cell)
  /-- REM_PRESET (R107): A PRESET request sets the FIR to a ROM preset if ALLOW is 1 and the limits of R110 hold. -/
  | remPreset (n : Fin 8) (c : Cell)
  /-- REM_TAP_INC (R107): A TAP_INC request increases FIR[k] by the step if ALLOW is 1 and the limits of R110 hold. -/
  | remTapInc (n : Fin 8) (c : Cell)
  /-- REM_TAP_DEC (R107): A TAP_DEC request decreases FIR[k] by the step if ALLOW is 1 and the limits of R110 hold. -/
  | remTapDec (n : Fin 8) (c : Cell)
  /-- REM_SWING_INC (R107): A SWING_INC request raises SWING by one code if ALLOW and SWING_ALLOW are 1 and the result stays in
  range. -/
  | remSwingInc (n : Fin 8) (c : Cell)
  /-- REM_SWING_DEC (R107): A SWING_DEC request lowers SWING by one code if ALLOW and SWING_ALLOW are 1 and the result stays in
  range. -/
  | remSwingDec (n : Fin 8) (c : Cell)
  /-- REM_INVALID_REQUEST (R109): A transmit request with code 6 or 7, tap 7 or an out-of-range step is answered INVALID. -/
  | remInvalidRequest (n : Fin 8) (c : Cell)
  /-- CAL_STEP_START (R123): STEP_INT has elapsed since a unit's previous step, so the unit chooses a candidate and begins a
  hand-over step or spare visit. -/
  | calStepStart (u : Fin 16)
  /-- CAL_PHASE_END (R124): The 1.0 µs PHASE of a hand-over step ends and SHADOW begins, once any quiet-window grant has arrived. -/
  | calPhaseEnd (u : Fin 16)
  /-- CAL_SHADOW_END (R127): The shadow length has elapsed and the shadow check decides whether the hand-over is requested or
  refused. -/
  | calShadowEnd (u : Fin 16) (off gain skew : Int)
  /-- CAL_PASS_DONE (R129): A measurement pass of a slice against the reference block completes, and its record is written to the
  serving cluster. -/
  | calPassDone (u : Fin 16) (words : List Word) (temp : BitVec 16) (raw : RawPass)
  /-- CAL_SUBMIT (R131): U_CMD.SUBMIT delivers the engine's results, and the Z832 checks agreement, retries or accepts each
  parameter. -/
  | calSubmit (r : Requester) (u : Fin 16)
  /-- CAL_RESULT_TIMEOUT (R131): No SUBMIT arrives within RES_TMO, so the visit is abandoned and RESULT_TIMEOUT is raised. -/
  | calResultTimeout (u : Fin 16)
  /-- CAL_RETIRE (R136): U_CMD.RETIRE retires the named slice, rebuilding the map or making an emergency hand-over as the lane state
  requires. -/
  | calRetire (r : Requester) (u : Fin 16) (sl : BitVec 5)
  /-- CAL_HOLD (R154): U_CMD.HOLD stops the unit after the step in progress. -/
  | calHold (r : Requester) (u : Fin 16)
  /-- CAL_RESUME (R154): U_CMD.RESUME releases a unit held by HOLD. -/
  | calResume (r : Requester) (u : Fin 16)
  /-- CAL_STEP_NOW (R154): U_CMD.STEP_NOW starts the unit's next step without waiting for STEP_INT. -/
  | calStepNow (r : Requester) (u : Fin 16)
  /-- MON_WINDOW_END (R137): A health-monitor window of a receive unit ends, and a position that deviates for MON_N windows is
  marked SUSPECT. -/
  | monWindowEnd (n : Fin 8) (devs : List (Nat × Nat))
  /-- TX_BIAS_FLAG (R137): A transmit slice's bias current stays below 50 % of the median of the other serving slices for 1 µs, so it is marked
  SUSPECT. `bias` are the bias currents of slices 0 to 16 over that time. -/
  | txBiasFlag (n : Fin 8) (sl : Fin 17) (bias : List Nat)
  /-- PC_QREQ_RECEIVE (R144): A QREQ cell asks this device to hold a lane's transmitter still, and the grant is queued if
  QUIET_GRANT_EN is 1. -/
  | pcQreqReceive (n : Fin 8) (c : Cell)
  /-- PC_QGRANT_RECEIVE (R288): A QGRANT cell lets the waiting receive unit enter SHADOW in the granted window. -/
  | pcQgrantReceive (n : Fin 8) (c : Cell)
  /-- QUIET_WINDOW_CLOSE (R288): The granted number of frames has passed and the quiet window closes. -/
  | quietWindowClose (n : Fin 8)
  /-- QUIET_MISSED (R146): No grant arrives within QUIET_TMO, so the unit continues the step without a window. -/
  | quietMissed (n : Fin 8)
  /-- CALREF_CHANGE (R147): The CALREF pin voltage changes class among ABSENT, PRESENT and OUT_OF_RANGE: it has
  stood at `uv` µV for `us` µs. -/
  | calrefChange (uv us : Nat)
  /-- CAL_REF_MEASURE (R150): CAL_CMD.REF_MEASURE starts 1,024 conversions each of CALREF and the bandgap. -/
  | calRefMeasure (r : Requester)
  /-- CAL_REF_MEASURE_DONE (R150): The CALREF measurement completes, REF_MEAS takes the means and REF_BUSY clears. -/
  | calRefMeasureDone (bg calref : BitVec 16)
  /-- MARL_HEADER_RECEIVE (R161): A received Marl frame header is checked for FAW and CRC, and its fields feed frame lock, deskew
  and the partner channel. -/
  | marlHeaderReceive (n : Fin 8) (faw : BitVec 64) (fields : BitVec 32) (crc : BitVec 16)
  /-- FAW_MATCH (R162): In HUNT a symbol offset matches the FAW within FAW_ERR bit errors, and IFEC moves to CONFIRM. -/
  | fawMatch (n : Fin 8) (faw : BitVec 64)
  /-- FRAME_QUAL_EXPIRY (R162): QUAL_T has elapsed in CONFIRM with every FAW matched, so IFEC enters LOCK. -/
  | frameQualExpiry (n : Fin 8) (late : Nat) (raw : List (BitVec 8)) (cf : CapFrame)
  /-- PORT_FRAME_BOUNDARY (R171): A port frame boundary switches between line data and Local Fault fill and applies loopback
  changes. -/
  | portFrameBoundary (p : Fin 8) (skew : Nat) (lane : Fin 8)
  /-- OUTER_CODEWORD_RX (R173): A received outer code word is decoded, counted, and in TERMINATE corrected or marked uncorrectable.
  -/
  | outerCodewordRx (p : Fin 8) (errs : Option (List (Fin 544 × Fin 1024)))
  /-- OUTER_CODEWORD_TX (R174): A host-to-line outer code word is decoded, counted, and in TERMINATE corrected or marked. -/
  | outerCodewordTx (p : Fin 8) (word : List (BitVec 10)) (errs : Option (List (Fin 544 × Fin 1024)))
  /-- DEG_INTERVAL_END (R176): A degrade interval of DEG_INT × 8,192 code words ends and DEG_SER is set or cleared. -/
  | degIntervalEnd (p : Fin 8)
  /-- HOST_LOS_ASSERT (R211): A host lane's amplitude has stayed below LOS_ON for LOS_T, so LOS asserts and the lane falls to
  NO_SIGNAL. -/
  | hostLosAssert (m : Fin 16) (ampl : BitVec 10)
  /-- HOST_LOS_CLEAR (R211): A host lane's amplitude has stayed above LOS_OFF for LOS_T, so LOS clears and the lane moves to
  ACQUIRE. -/
  | hostLosClear (m : Fin 16) (ampl : BitVec 10)
  /-- CDR_LOCK_SET (R211): CDR_FREQ has changed by less than 1 ppm over four 8 µs windows, so CDR_LOCK sets and the lane moves to
  EQ. -/
  | cdrLockSet (m : Fin 16) (freqs : List Int)
  /-- CDR_LOST (R211): A cycle slip or the ±300 ppm limit clears CDR_LOCK and the lane returns to ACQUIRE. -/
  | cdrLost (m : Fin 16) (limit : Option Bool)
  /-- HOST_SNR_WINDOW_END (R211): A host-lane SNR window of 2^20 symbols ends and updates RX_SNR, SNR_OK and the count of low
  windows. -/
  | hostSnrWindowEnd (m : Fin 16) (snr : BitVec 10) (errs : Nat)
  /-- HOST_ADVANCE (R212): RX_CMD.ADVANCE from the serving cluster moves a host lane from EQ to ALIGN while SNR_OK is 1. -/
  | hostAdvance (r : Requester) (m : Fin 16)
  /-- HOST_RESTART (R212): RX_CMD.RESTART moves a host lane to ACQUIRE without changing coefficients. -/
  | hostRestart (r : Requester) (m : Fin 16)
  /-- AM_LOCK (R211): A host lane gains alignment-marker lock, enters UP and realigns its commit counter. -/
  | amLock (m : Fin 16) (late : Nat)
  /-- AM_LOCK_LOSS (R211): A host lane in UP loses alignment-marker lock and returns to ALIGN. -/
  | amLockLoss (m : Fin 16)
  /-- HS_FAULT (R214): A host-lane PLL loses lock, or the start-up reference check fails, so the lane enters FAULT and its port goes
  DOWN. -/
  | hsFault (m : Fin 16) (pll : Option Bool)
  /-- HOST_RX_COMMIT_POINT (R216): A received alignment marker, or a local counter boundary before AM lock, applies pending
  receive-side HSL commits. -/
  | hostRxCommitPoint (m : Fin 16) (late skew : Nat) (lane : Fin 16) (comp freq : Int)
  /-- HOST_TX_COMMIT_POINT (R215): An alignment marker sent by a host lane applies pending TXEQ commits. -/
  | hostTxCommitPoint (m : Fin 16) (late : Nat) (comp : Int)
  /-- HSL_COMMIT (R226): A write of HSL.COMMIT requests the named host-lane groups at the next commit point of each direction. -/
  | hslCommit (r : Requester) (m : Fin 16) (groups : BitVec 4)
  /-- HSL_TX_PRESET_LOAD (R207): TX_CMD.LOAD copies a ROM preset into the TXEQ shadow bank. -/
  | hslTxPresetLoad (r : Requester) (m : Fin 16) (preset : Fin 8)
  /-- COMP_SLIP (R219): A compensation buffer overruns or underruns, so one whole outer code word is deleted or repeated. -/
  | compSlip (p : Fin 8) (l2h : Bool)
  /-- HOST_STAMP (R332): An alignment marker at the reference lane is stamped, corrected to the MDI and stored with its marker
  count. -/
  | hostStamp (p : Fin 8) (tx : Bool)
  /-- ADD (R241): ADD writes the 32-bit sum of two registers, or of a register and sign-extended imm16, into gd. -/
  | add (k : Fin 257) (gd gs1 : Fin 16) (x : Src)
  /-- SUB (R241): SUB writes the 32-bit difference into gd. -/
  | sub (k : Fin 257) (gd gs1 : Fin 16) (x : Src)
  /-- ADDS (R241): ADDS writes the saturated sum into gd. -/
  | adds (k : Fin 257) (gd gs1 : Fin 16) (x : Src)
  /-- SUBS (R241): SUBS writes the saturated difference into gd. -/
  | subs (k : Fin 257) (gd gs1 : Fin 16) (x : Src)
  /-- MULLO (R241): MULLO writes the low 32 bits of the product into gd. -/
  | mullo (k : Fin 257) (gd gs1 : Fin 16) (x : Src)
  /-- MULHI_S (R241): MULHI.S writes the high 32 bits of the signed 64-bit product into gd. -/
  | mulhiS (k : Fin 257) (gd gs1 : Fin 16) (x : Src)
  /-- MULHI_U (R241): MULHI.U writes the high 32 bits of the unsigned 64-bit product into gd. -/
  | mulhiU (k : Fin 257) (gd gs1 : Fin 16) (x : Src)
  /-- AND (R241): AND writes the bitwise AND into gd. -/
  | and (k : Fin 257) (gd gs1 : Fin 16) (x : Src)
  /-- OR (R241): OR writes the bitwise OR into gd. -/
  | or (k : Fin 257) (gd gs1 : Fin 16) (x : Src)
  /-- XOR (R241): XOR writes the bitwise XOR into gd. -/
  | xor (k : Fin 257) (gd gs1 : Fin 16) (x : Src)
  /-- ANDN (R241): ANDN writes gs1 AND NOT the second operand into gd. -/
  | andn (k : Fin 257) (gd gs1 : Fin 16) (x : Src)
  /-- SHL (R241): SHL shifts left by the low 5 bits of the operand. -/
  | shl (k : Fin 257) (gd gs1 : Fin 16) (x : Src)
  /-- SHR (R241): SHR shifts right logically by the low 5 bits of the operand. -/
  | shr (k : Fin 257) (gd gs1 : Fin 16) (x : Src)
  /-- SRA (R241): SRA shifts right arithmetically by the low 5 bits of the operand. -/
  | sra (k : Fin 257) (gd gs1 : Fin 16) (x : Src)
  /-- ROR (R241): ROR rotates right by the low 5 bits of the operand. -/
  | ror (k : Fin 257) (gd gs1 : Fin 16) (x : Src)
  /-- CLZ (R241): CLZ writes the count of leading zeros into gd. -/
  | clz (k : Fin 257) (gd gs1 : Fin 16)
  /-- MIN (R241): MIN writes the signed minimum into gd. -/
  | min (k : Fin 257) (gd gs1 : Fin 16) (x : Src)
  /-- MAX (R241): MAX writes the signed maximum into gd. -/
  | max (k : Fin 257) (gd gs1 : Fin 16) (x : Src)
  /-- MINU (R241): MINU writes the unsigned minimum into gd. -/
  | minu (k : Fin 257) (gd gs1 : Fin 16) (x : Src)
  /-- MAXU (R241): MAXU writes the unsigned maximum into gd. -/
  | maxu (k : Fin 257) (gd gs1 : Fin 16) (x : Src)
  /-- KLO (R241): KLO writes the sign-extended imm20 into gd. -/
  | klo (k : Fin 257) (gd : Fin 16) (i : BitVec 20)
  /-- KHI (R241): KHI writes imm16 into gd[31:16] and keeps gd[15:0]. -/
  | khi (k : Fin 257) (gd : Fin 16) (i : BitVec 16)
  /-- CMP_EQ (R240): CMP.EQ writes 1 into predicate pd if the operands are equal. -/
  | cmpEq (k : Fin 257) (pd : Fin 4) (gs1 : Fin 16) (x : CmpSrc)
  /-- CMP_LT (R240): CMP.LT writes the signed less-than result into pd. -/
  | cmpLt (k : Fin 257) (pd : Fin 4) (gs1 : Fin 16) (x : CmpSrc)
  /-- CMP_LTU (R240): CMP.LTU writes the unsigned less-than result into pd. -/
  | cmpLtu (k : Fin 257) (pd : Fin 4) (gs1 : Fin 16) (x : CmpSrc)
  /-- CMP_LE (R240): CMP.LE writes the signed less-or-equal result into pd. -/
  | cmpLe (k : Fin 257) (pd : Fin 4) (gs1 : Fin 16) (x : CmpSrc)
  /-- CMP_LEU (R240): CMP.LEU writes the unsigned less-or-equal result into pd. -/
  | cmpLeu (k : Fin 257) (pd : Fin 4) (gs1 : Fin 16) (x : CmpSrc)
  /-- CMP_BIT (R240): CMP.BIT writes 1 into pd if gs1 AND the second operand is not 0. -/
  | cmpBit (k : Fin 257) (pd : Fin 4) (gs1 : Fin 16) (x : CmpSrc)
  /-- PLOG_AND (R240): PLOG with operation AND writes pd = pa AND pb. -/
  | plogAnd (k : Fin 257) (pd pa pb : Fin 4)
  /-- PLOG_OR (R240): PLOG with operation OR writes pd = pa OR pb. -/
  | plogOr (k : Fin 257) (pd pa pb : Fin 4)
  /-- PLOG_XOR (R240): PLOG with operation XOR writes pd = pa XOR pb. -/
  | plogXor (k : Fin 257) (pd pa pb : Fin 4)
  /-- PLOG_ANDN (R240): PLOG with operation ANDN writes pd = pa AND NOT pb. -/
  | plogAndn (k : Fin 257) (pd pa pb : Fin 4)
  /-- SETP (R241): SETP writes 1 or 0 into gd from a predicate. -/
  | setp (k : Fin 257) (gd : Fin 16) (p : Fin 4)
  /-- LB (R241): LB loads a sign-extended byte into gd. -/
  | lb (k : Fin 257) (gd base : Fin 16) (off : BitVec 16) (bits : List Nat)
  /-- LH (R241): LH loads a sign-extended half-word into gd. -/
  | lh (k : Fin 257) (gd base : Fin 16) (off : BitVec 16) (bits : List Nat)
  /-- LW (R241): LW loads an aligned word into gd. -/
  | lw (k : Fin 257) (gd base : Fin 16) (off : BitVec 16) (bits : List Nat)
  /-- LD (R241): LD loads an aligned double into the register pair gd, gd+1. -/
  | ld (k : Fin 257) (p : Fin 8) (base : Fin 16) (off : BitVec 16) (bits : List Nat)
  /-- LBU (R241): LBU loads a zero-extended byte into gd. -/
  | lbu (k : Fin 257) (gd base : Fin 16) (off : BitVec 16) (bits : List Nat)
  /-- LHU (R241): LHU loads a zero-extended half-word into gd. -/
  | lhu (k : Fin 257) (gd base : Fin 16) (off : BitVec 16) (bits : List Nat)
  /-- SB (R247): SB stores a byte, merged into data RAM or trapping WIDTH in shared SRAM. -/
  | sb (k : Fin 257) (gs base : Fin 16) (off : BitVec 16) (bits : List Nat)
  /-- SH (R247): SH stores a half-word under the width rules. -/
  | sh (k : Fin 257) (gs base : Fin 16) (off : BitVec 16) (bits : List Nat)
  /-- SW (R247): SW stores a word under the width rules, stalling on a pending coefficient-port group. -/
  | sw (k : Fin 257) (gs base : Fin 16) (off : BitVec 16) (bits : List Nat)
  /-- SD (R247): SD stores a double from the register pair. -/
  | sd (k : Fin 257) (p : Fin 8) (base : Fin 16) (off : BitVec 16)
  /-- BR_T (R241): BR.T branches when the predicate is 1. -/
  | brT (k : Fin 257) (p : Fin 4) (off : BitVec 24)
  /-- BR_F (R241): BR.F branches when the predicate is 0. -/
  | brF (k : Fin 257) (p : Fin 4) (off : BitVec 24)
  /-- JMP (R240): JMP jumps by a signed word offset. -/
  | jmp (k : Fin 257) (off : BitVec 24)
  /-- CALL (R240): CALL jumps by a signed word offset and writes PC + 4 into g15. -/
  | call (k : Fin 257) (off : BitVec 24)
  /-- JMPR (R240): JMPR jumps to a register plus byte offset. -/
  | jmpr (k : Fin 257) (gs : Fin 16) (off : BitVec 16)
  /-- CALLR (R240): CALLR jumps to a register plus byte offset and writes PC + 4 into g15. -/
  | callr (k : Fin 257) (gs : Fin 16) (off : BitVec 16)
  /-- VADD (R241): VADD adds lane by lane, in vector or broadcast-scalar form. -/
  | vadd (k : Fin 257) (vd vs1 : Fin 8) (x : VSrc)
  /-- VSUB (R241): VSUB subtracts lane by lane. -/
  | vsub (k : Fin 257) (vd vs1 : Fin 8) (x : VSrc)
  /-- VADDS (R241): VADDS adds lane by lane with saturation. -/
  | vadds (k : Fin 257) (vd vs1 : Fin 8) (x : VSrc)
  /-- VSUBS (R241): VSUBS subtracts lane by lane with saturation. -/
  | vsubs (k : Fin 257) (vd vs1 : Fin 8) (x : VSrc)
  /-- VMUL (R241): VMUL writes the rounded and saturated Q15 product of each lane. -/
  | vmul (k : Fin 257) (vd vs1 : Fin 8) (x : VSrc)
  /-- VMIN (R241): VMIN writes the lane-wise minimum. -/
  | vmin (k : Fin 257) (vd vs1 : Fin 8) (x : VSrc)
  /-- VMAX (R241): VMAX writes the lane-wise maximum. -/
  | vmax (k : Fin 257) (vd vs1 : Fin 8) (x : VSrc)
  /-- VABS (R241): VABS writes the lane-wise absolute value. -/
  | vabs (k : Fin 257) (vd vs1 : Fin 8) (x : VSrc)
  /-- VNEG (R241): VNEG writes the lane-wise negation. -/
  | vneg (k : Fin 257) (vd vs1 : Fin 8) (x : VSrc)
  /-- VSHL (R241): VSHL shifts each lane left. -/
  | vshl (k : Fin 257) (vd vs1 : Fin 8) (x : VSrc)
  /-- VSRA (R241): VSRA shifts each lane right arithmetically with rounding. -/
  | vsra (k : Fin 257) (vd vs1 : Fin 8) (x : VSrc)
  /-- VCMPLT (R241): VCMPLT writes a lane-wise less-than mask. -/
  | vcmplt (k : Fin 257) (vd vs1 : Fin 8) (x : VSrc)
  /-- VSEL (R241): VSEL takes each lane from vs1 where the mask is non-zero and from vs2 otherwise. -/
  | vsel (k : Fin 257) (vd vs1 : Fin 8) (x : VSrc)
  /-- VLD (R241): VLD loads sixteen bytes into a vector register, with optional stride 2 and reverse. -/
  | vld (k : Fin 257) (vd : Fin 8) (base : Fin 16) (off : BitVec 16) (stride2 rev : Bool) (flips : List (List Nat))
  /-- VST (R241): VST stores a vector register as sixteen aligned bytes. -/
  | vst (k : Fin 257) (vs : Fin 8) (base : Fin 16) (off : BitVec 16)
  /-- VCLR (R241): VCLR clears the accumulator. -/
  | vclr (k : Fin 257)
  /-- VMAC (R241): VMAC adds vs1 × vs2 into each accumulator lane with saturation. -/
  | vmac (k : Fin 257) (vs1 vs2 : Fin 8)
  /-- VMSC (R241): VMSC subtracts vs1 × vs2 from each accumulator lane. -/
  | vmsc (k : Fin 257) (vs1 vs2 : Fin 8)
  /-- VMACX (R241): VMACX adds vs1 times the broadcast scalar into each accumulator lane. -/
  | vmacx (k : Fin 257) (vs1 : Fin 8) (gs2 : Fin 16)
  /-- VRD (R241): VRD writes the shifted, rounded and saturated accumulator lanes into vd. -/
  | vrd (k : Fin 257) (vd : Fin 8) (sh : Fin 32)
  /-- VEXT (R241): VEXT moves one vector lane into gd. -/
  | vext (k : Fin 257) (gd : Fin 16) (vs1 : Fin 8) (j : Fin 8)
  /-- VINS (R241): VINS moves gd into one vector lane. -/
  | vins (k : Fin 257) (vd : Fin 8) (gs : Fin 16) (j : Fin 8)
  /-- XCHG_D (R241): XCHG.D atomically exchanges an aligned 64-bit shared-SRAM word. -/
  | xchgD (k : Fin 257) (p : Fin 8) (base : Fin 16) (q : Fin 8) (bits : List Nat)
  /-- XADD_D (R241): XADD.D atomically adds to an aligned 64-bit shared-SRAM word. -/
  | xaddD (k : Fin 257) (p : Fin 8) (base : Fin 16) (q : Fin 8) (bits : List Nat)
  /-- RDCR (R241): RDCR reads a control register into gd. -/
  | rdcr (k : Fin 257) (gd : Fin 16) (cr : BitVec 12)
  /-- WRCR (R241): WRCR writes a control register, returning the old value, with side effects such as watchdog restart or timer
  clear. -/
  | wrcr (k : Fin 257) (gd gs : Fin 16) (cr : BitVec 12)
  /-- MDCR (R241): MDCR changes only the masked bits of a control register. -/
  | mdcr (k : Fin 257) (gd gs gt : Fin 16) (cr : BitVec 12)
  /-- CALLK (R241): CALLK raises the CALLK trap with its code. -/
  | callk (k : Fin 257) (code : BitVec 8)
  /-- RTE (R239): RTE copies TSR into SR and continues at TPC. -/
  | rte (k : Fin 257)
  /-- WAIT (R244): WAIT stops the engine, or the supervisor, until an enabled interrupt is pending, and on the supervisor may begin
  power-state entry. -/
  | wait (k : Fin 257) (wakeN : Bool)
  /-- SYNC (R241): SYNC completes every earlier store, port write and DMA start, and ends gathering. -/
  | sync (k : Fin 257)
  /-- DBG (R241): DBG stops at the debugger, or traps when debug is off. -/
  | dbg (k : Fin 257)
  /-- NOP (R241): NOP does nothing. -/
  | nop (k : Fin 257)
  /-- ILLEGAL_INSTRUCTION (R240): An encoding that R240 does not list raises ILLEGAL and has no effect. -/
  | illegalInstruction (k : Fin 257) (enc : Word)
  /-- INTERRUPT_ENTRY (R244): Between instructions with SR.IE at 1, the lowest pending enabled source is taken at its own entry. -/
  | interruptEntry (k : Fin 257)
  /-- TIMER_MATCH (R244): CYCLE[31:0] reaches TIMER, so the TIMER interrupt becomes pending. -/
  | timerMatch (k : Fin 257)
  /-- ENGINE_WATCHDOG (R245): No WDOG write has come within WD_CFG, so the engine faults with cause WATCHDOG. -/
  | engineWatchdog (k : Fin 256)
  /-- ENGINE_HOLD (R235): E_CTRL.HOLD written 1 sends a running engine to DRAINING or a faulted engine to OFF. -/
  | engineHold (r : Requester) (k : Fin 256)
  /-- ENGINE_RELEASE (R630): E_CTRL.HOLD written 0 starts an engine in OFF running from its reset state when the page is enabled. -/
  | engineRelease (r : Requester) (k : Fin 256)
  /-- ENGINE_DRAIN_DONE (R235): A draining engine's work in flight has ended and it enters OFF, or RUN if HOLD is 0. -/
  | engineDrainDone (k : Fin 256)
  /-- ENGINE_RETIRE (R263): A write of 1 to E_CTRL.RETIRE retires the engine in any state. -/
  | engineRetire (r : Requester) (k : Fin 256)
  /-- CP_OWN_WRITE (R232): A write of CP_OWN names or clears the owner of a target, refused while the old owner may still commit. -/
  | cpOwnWrite (r : Requester) (c : Fin 16) (t : Fin 8) (v : Word)
  /-- SERVE_HOLD_EXPIRY (R233): SERVE_HOLD has elapsed since the owner left RUN or WAIT, so the target becomes unserved. -/
  | serveHoldExpiry (c : Fin 16) (t : Fin 8)
  /-- CLUSTER_WINDOW_WRITE (R248): A write through the cluster window reaches shared SRAM or an OFF engine's IRAM or data RAM, or is
  rejected. -/
  | clusterWindowWrite (r : Requester) (c : Fin 16) (off : BitVec 24) (bytes : List Byte)
  /-- MB_SEND (R249): An engine's double store to MB_SEND or MB_SUP delivers a message, or drops it if the mailbox is full. -/
  | mbSend (k : Fin 256) (dst : Option (Fin 16)) (m : BitVec 64)
  /-- MB_W1_SEND (R249): A write of CLU.MB_W1 sends the message assembled in MB_W0 and MB_W1 to engine e. -/
  | mbW1Send (r : Requester) (c e : Fin 16) (v : Word)
  /-- MB_RX_POP (R249): A read of MB_RX_HI removes the oldest message from the engine's mailbox. -/
  | mbRxPop (k : Fin 256)
  /-- MB_STAT_READ (R250): A read of MB_STAT returns the status and clears the sticky DROP bit. -/
  | mbStatRead (k : Fin 256)
  /-- SUP_MB_POP (R276): A read of SUP_MB_HI removes the oldest supervisor message. -/
  | supMbPop (r : Requester) (c : Fin 16)
  /-- DMA_START (R251): DMA_START starts a channel on a descriptor, or is ignored and sets REJECTED if the channel is busy. -/
  | dmaStart (k : Fin 256) (ch : Fin 4) (desc : BitVec 13)
  /-- DMA_DESCRIPTOR_DONE (R253): A DMA descriptor completes with its result, writes DONE and continues its chain or stops. -/
  | dmaDescriptorDone (c : Fin 16) (ch : Fin 4) (n : Nat)
  /-- DMA_CANCEL (R254): A write of DMA_CANCEL ends the descriptor in progress CANCELLED after its current code word. -/
  | dmaCancel (k : Fin 256) (ch : Fin 4)
  /-- DMA_STAT_READ (R244): A read of DMA_STAT clears the DMA interrupt and the REJECTED bit. -/
  | dmaStatRead (r : Requester) (c : Fin 16) (ch : Fin 4)
  /-- TAP_GO (R257): TAP_GO starts a tap snapshot, or is ignored and sets REJECTED while one runs. -/
  | tapGo (k : Fin 256)
  /-- TAP_SNAPSHOT_DONE (R257): The snapshot's last sample is written to shared SRAM and TAP_STAT.DONE sets. -/
  | tapSnapshotDone (c : Fin 16) (samples : List (BitVec 16))
  /-- TAP_STAT_READ (R244): A read of TAP_STAT clears the TAP interrupt. -/
  | tapStatRead (k : Fin 256)
  /-- CP_COMMIT (R259): A COMMIT store through the coefficient port arrives at the lane island as a commit request. -/
  | cpCommit (k : Fin 256) (t : Fin 8) (v : Word)
  /-- CP_COMMIT_STAT_READ (R244): A read of COMMIT_STAT through the coefficient port clears the COMMIT interrupt. -/
  | cpCommitStatRead (k : Fin 256) (t : Fin 8)
  /-- PERF_OVERFLOW (R271): A programmable counter passes 2^48 − 1, wraps, sets OVF and raises CNT_OVF and PERF. -/
  | perfOverflow (c : Fin 16) (k : Fin 8)
  /-- PERF_SAMPLE (R272): A counter reaches SMPL_PERIOD events and writes a sample record, or the sample is lost or the buffer
  fills. -/
  | perfSample (c : Fin 16) (latency : BitVec 16) (lost : Bool)
  /-- PERF_BW_WINDOW (R274): A bandwidth window ends and BW[p] latches the units that crossed each port. -/
  | perfBwWindow (c : Fin 16)
  /-- PF_STAT_CLEAR (R244): A write of PF_STAT clears overflow and full flags and the PERF interrupt. -/
  | pfStatClear (r : Requester) (c : Fin 16) (v : BitVec 9)
  /-- PC_CELL_SLOT (R289): A 32-frame cell slot begins and the lane sends the highest-ranked ready cell. -/
  | pcCellSlot (n : Fin 8)
  /-- PC_CELL_MISSING (R285): A cell in which a frame header failed its CRC is counted missing and discarded. -/
  | pcCellMissing (n : Fin 8)
  /-- PC_IDLE_RECEIVE (R286): An IDLE cell is checked for CRC and SEQ and accepted. -/
  | pcIdleReceive (n : Fin 8) (c : Cell)
  /-- PC_IDENT_RECEIVE (R298): An accepted IDENT cell is an identity observation of the far end. -/
  | pcIdentReceive (n : Fin 8) (c : Cell)
  /-- PC_TXRSP_RECEIVE (R291): A TXRSP cell lands in TXRSP and TXRSP_Q, sets NEW and raises TXRSP. -/
  | pcTxrspReceive (n : Fin 8) (c : Cell)
  /-- PC_TT_A_RECEIVE (R336): An accepted TT_A is stamped as T2 and its TT_B answer is queued, replacing a waiting one. -/
  | pcTtAReceive (n : Fin 8) (c : Cell)
  /-- PC_TT_B_RECEIVE (R336): A TT_B matching the latest TT_A is stamped as T4 and the lane's TT block is written. -/
  | pcTtBReceive (n : Fin 8) (c : Cell)
  /-- PC_RREQ_RECEIVE (R292): An RREQ is checked against the enables and RREAD_MASK and issued as a read, or answered DENIED, BUSY
  or with its last response. -/
  | pcRreqReceive (n : Fin 8) (c : Cell)
  /-- PC_RRSP_RECEIVE (R294): An RRSP delivers the remote read's status and data to RR_STAT and RR_DATA. -/
  | pcRrspReceive (n : Fin 8) (c : Cell)
  /-- PC_RLBREQ_START (R295): An RLBREQ START is answered, and if accepted the port is reset into LINE_LOOP at the next port frame
  boundary. -/
  | pcRlbreqStart (n : Fin 8) (c : Cell)
  /-- PC_RLBREQ_STOP (R297): An RLBREQ STOP is answered and the looped port is reset out of the loop. -/
  | pcRlbreqStop (n : Fin 8) (c : Cell)
  /-- PC_RLBRSP_RECEIVE (R296): An RLBRSP sets RLB_STAT with its response code. -/
  | pcRlbrspReceive (n : Fin 8) (c : Cell)
  /-- PC_FW_RECEIVE (R317): A firmware cell enters the FW_RX queue, or is dropped if it is full. -/
  | pcFwReceive (n : Fin 8) (type : BitVec 8) (c : Cell)
  /-- PC_RESERVED_RECEIVE (R287): A cell of a reserved type is discarded and counted in UNKNOWN. -/
  | pcReservedReceive (n : Fin 8) (type : BitVec 8) (c : Cell)
  /-- REMOTE_READ_DONE (R294): The data of a read made for the link partner returns and its RRSP is queued. -/
  | remoteReadDone (n : Fin 8)
  /-- PART_TXREQ (R291): A write of PART.TXREQ sends a TXREQ cell, or is ignored while a response is awaited. -/
  | partTxreq (r : Requester) (n : Fin 8) (v : Word)
  /-- TXRSP_TIMEOUT (R291): No TXRSP arrives within RSP_TMO, so TXRSP.TIMEOUT sets. -/
  | txrspTimeout (n : Fin 8)
  /-- RR_GO (R294): RR_CMD.GO sends an RREQ for the address in RR_ADDR. -/
  | rrGo (r : Requester) (n : Fin 8) (count2 snap : Bool)
  /-- REQUEST_RESEND_TIMEOUT (R290): No response to an RREQ or RLBREQ within RSP_TMO, so it is resent, or ends TIMEOUT after two
  resends. -/
  | requestResendTimeout (n : Fin 8) (rlb : Bool)
  /-- RLB_START_CMD (R295): RLB_CMD.START sends an RLBREQ START. -/
  | rlbStartCmd (r : Requester) (n : Fin 8)
  /-- RLB_STOP_CMD (R297): RLB_CMD.STOP sends an RLBREQ STOP. -/
  | rlbStopCmd (r : Requester) (n : Fin 8)
  /-- RLB_TIMEOUT (R297): RLB_TMO seconds pass since the loop began and the port leaves the loop. -/
  | rlbTimeout (p : Fin 8)
  /-- RLB_ALLOW_CLEAR (R297): PC_CTRL.RLB_ALLOW written 0 ends a remote loopback in progress. -/
  | rlbAllowClear (r : Requester) (n : Fin 8)
  /-- FW_TX_QUEUE (R317): A write of FW_TX3 queues a firmware cell, or is dropped if the queue is full. -/
  | fwTxQueue (r : Requester) (n : Fin 8) (v : BitVec 16)
  /-- FW_RX_POP (R317): A read of FW_RX3 removes the head entry of the FW_RX queue. -/
  | fwRxPop (r : Requester) (n : Fin 8)
  /-- FAR_CLR (R299): ID_CMD.FAR_CLR clears FAR_ID and FAR_INFO. -/
  | farClr (r : Requester) (n : Fin 8)
  /-- DAWN_SEND (R303): DW_CMD.SEND sends TX_BUF as a dawn packet with the next SEQ, or waits while the conditions of R301 fail. -/
  | dawnSend (r : Requester) (n : Fin 8)
  /-- DAWN_RESEND (R303): DW_CMD.RESEND sends TX_BUF again with the previous SEQ. -/
  | dawnResend (r : Requester) (n : Fin 8)
  /-- DAWN_ABORT (R322): DW_CMD.ABORT stops the packet being sent at once, ending CANCELLED. -/
  | dawnAbort (r : Requester) (n : Fin 8)
  /-- DAWN_RX_POP (R310): DW_CMD.RX_POP removes the head entry of the receive queue. -/
  | dawnRxPop (r : Requester) (n : Fin 8)
  /-- DAWN_CNT_CLR (R321): DW_CMD.CNT_CLR clears the DAWN counters. -/
  | dawnCntClr (r : Requester) (n : Fin 8)
  /-- DAWN_TX_DONE (R302): The last bit of a dawn packet has been sent and TX_STAT ends SENT. -/
  | dawnTxDone (n : Fin 8)
  /-- DAWN_TX_BLOCKED (R301): A waiting packet reaches TX_TMO without its conditions holding and ends BLOCKED. -/
  | dawnTxBlocked (n : Fin 8)
  /-- HELLO_DUE (R313): HELLO_INT has elapsed with AUTO_HELLO set, so a HELLO packet is sent when no host packet waits. -/
  | helloDue (n : Fin 8)
  /-- DAWN_DETECTION (R305): A correlator's metric over 16 preamble symbols reaches its threshold, and the receiver syncs, pre-empts
  or holds a candidate. -/
  | dawnDetection (n : Fin 8) (d : Detection) (more : List Detection)
  /-- DAWN_SYNC_FOUND (R306): The sync word is found with at most 3 bit errors and the receiver enters HEADER. -/
  | dawnSyncFound (n : Fin 8) (word : Word)
  /-- DAWN_SYNC_TIMEOUT (R306): 56 symbols pass after a detection without a sync word, so the reception is abandoned. -/
  | dawnSyncTimeout (n : Fin 8)
  /-- DAWN_HEADER_RECEIVE (R306): A dawn header is validated into PAYLOAD, or abandoned as HDR_FAIL or ECHO. -/
  | dawnHeaderReceive (n : Fin 8) (type len seq : Byte) (src : BitVec 64) (hcs : Byte)
  /-- DAWN_PACKET_END (R310): A packet's CRC is checked at its end and the packet is delivered, dropped or counted, and a candidate
  may be taken. -/
  | dawnPacketEnd (n : Fin 8) (payload : List Byte) (crc : BitVec 16)
  /-- DAWN_CANDIDATE_LAPSE (R309): A held candidate lapses 56 symbols after its detection. -/
  | dawnCandidateLapse (n : Fin 8)
  /-- DAWN_NOISE_MEASURE (R312): After 1 ms in SEARCH without detection the noise floor is measured and NOISE.FLOOR updated. -/
  | dawnNoiseMeasure (n : Fin 8) (floor : BitVec 10) (full : Bool)
  /-- DAWN_RX_ENABLE (R306): DW_CTRL.RX_EN set in NOON moves the dawn receiver from OFF to SEARCH. -/
  | dawnRxEnable (r : Requester) (n : Fin 8)
  /-- DAWN_RX_DISABLE (R306): DW_CTRL.RX_EN cleared moves the receiver to OFF and discards a reception in progress. -/
  | dawnRxDisable (r : Requester) (n : Fin 8)
  /-- TIME_WRAP (R324): NOW_NS carries out, WRAPS increments, and WRAPS_OVF is raised if WRAPS overflows. -/
  | timeWrap
  /-- INCR_APPLY (R325): A write of INCR_INT applies the increment at the next tick, clamped to ±500 ppm. -/
  | incrApply (r : Requester) (v : BitVec 8)
  /-- TIME_SET (R326): TM_CMD.SET loads SET_WRAPS and SET_NS into the counter at the next tick. -/
  | timeSet (r : Requester)
  /-- TIME_STEP (R326): TM_CMD.STEP adds the signed step to the counter at the next tick. -/
  | timeStep (r : Requester)
  /-- TIME_SYNCED (R330): TM_CMD.SYNCED sets QUALITY to LOCKED and restarts the holdover timer. -/
  | timeSynced (r : Requester)
  /-- QUALITY_WRITE (R329): TM_CMD with QUAL_WR writes QUAL into QUALITY. -/
  | qualityWrite (r : Requester) (q : Fin 8)
  /-- HOLDOVER_TIMEOUT (R330): No SYNCED arrives within HOLD_TMO while LOCKED, so QUALITY becomes HOLDOVER. -/
  | holdoverTimeout
  /-- TIME_SOURCE_WRITE (R330): A write of SOURCE or SRC_LANE while LOCKED moves QUALITY to HOLDOVER. -/
  | timeSourceWrite (r : Requester) (v : Word)
  /-- PPS_ARM (R341): A write of PPS_NEXT_WRAPS arms PPS_OUT. -/
  | ppsArm (r : Requester) (v : BitVec 16)
  /-- PPS_OUT_EDGE (R341): The counter reaches PPS_NEXT, PPS_OUT goes high and PPS_NEXT advances by PPS_PERIOD. -/
  | ppsOutEdge
  /-- PPS_OUT_PULSE_END (R341): PPS_WIDTH has elapsed and PPS_OUT goes low. -/
  | ppsOutPulseEnd
  /-- PPS_IN_EDGE (R342): A rising edge at PPS_IN is stamped and NEW sets. -/
  | ppsInEdge
  /-- PPS_IN_LOST (R330): No PPS_IN edge for 1.5 s while enabled raises PPS_IN_LOST and counts as source loss. -/
  | ppsInLost
  /-- PPS_IN_HI_READ (R349): A read of PPS_IN_HI clears NEW. -/
  | ppsInHiRead (r : Requester)
  /-- TOD_TX_WRITE (R343): A write of TOD_TX puts a byte into the transmit FIFO, or drops it when full. -/
  | todTxWrite (r : Requester) (b : Byte)
  /-- TOD_TX_DELAY_EXPIRY (R343): TX_DELAY after a PPS_OUT edge has elapsed, and the UART empties its transmit FIFO. -/
  | todTxDelayExpiry
  /-- TOD_RX_BYTE (R343): A byte received by the UART enters the receive FIFO, or is dropped when full. -/
  | todRxByte (b : Byte)
  /-- TOD_RX_POP (R349): A read of TOD_RX removes a byte from the receive FIFO. -/
  | todRxPop (r : Requester)
  /-- TT_REQUEST_TIMER (R335): Every 16 × 2^TT_INT cells a TT_A slot is requested on each enabled lane and its departure stamped as
  T1. -/
  | ttRequestTimer (n : Fin 8)
  /-- TT_TIMEOUT (R336): No TT_B arrives within RSP_TMO and TT_TIMEOUT is raised. -/
  | ttTimeout (n : Fin 8)
  /-- TT_INFO_READ (R349): A read of TT_INFO clears NEW. -/
  | ttInfoRead (r : Requester) (n : Fin 8)
  /-- TIME_WAKE_ADDITION (R345): At the first tick after a clock-stop interval, the slept time is added and SLEPT and the quality
  change are applied. -/
  | timeWakeAddition
  /-- MEMORY_READ (R366): A read reaching a memory controller delivers data, corrects and writes back, or ends in a bus error with
  poisoning. -/
  | memoryRead (r : Requester) (a : Nat) (bits : List Nat)
  /-- MEMORY_WRITE (R359): A write reaching a memory controller is performed whole, removing poison and suspect entries, or is
  rejected NARROW. -/
  | memoryWrite (r : Requester) (a : Nat) (bytes : List Byte)
  /-- GATHER_TIMEOUT (R420): A gathered code word left incomplete for 10 ms is issued as a narrow write and rejected. -/
  | gatherTimeout (r : Requester)
  /-- BUCKET_LEAK (R367): Every LEAK seconds an instance's bucket level falls by one if above zero. -/
  | bucketLeak (inst : Fin 64)
  /-- DRAM_SCRUB_VISIT (R368): The DRAM scrubber visits its next code word, correcting and writing back or poisoning it. -/
  | dramScrubVisit (bits : List Nat)
  /-- SRAM_SCRUB_VISIT (R369): An SRAM scrubber visits its next 64-bit word. -/
  | sramScrubVisit (inst : Fin 64) (bits : List Nat)
  /-- SUSPECT_REVISIT (R372): Every SUSP_INT each suspect word is revisited, incrementing REPEAT or removing its entry. -/
  | suspectRevisit (slot : Fin 64) (bits : List Nat)
  /-- ROW_REPAIR_COMPLETE (R373): The row copy ends, accesses are redirected to the spare and ROW_REPAIRED is recorded. -/
  | rowRepairComplete (ups : List (Nat × List Nat))
  /-- FILL_GO (R364): FILL_CMD.GO starts a bulk fill of FILL_LEN bytes, or ends ALIGN at once. -/
  | fillGo (r : Requester)
  /-- FILL_CANCEL (R364): FILL_CMD.CANCEL ends the fill CANCELLED after the current code word. -/
  | fillCancel (r : Requester) (n : Nat)
  /-- FILL_GRANULE_COMPLETE (R364): A bulk fill completes a whole granule and sets its INIT bit. -/
  | fillGranuleComplete
  /-- FILL_DONE (R364): A bulk fill writes its last code word and ends OK. -/
  | fillDone
  /-- INIT_SET (R362): INIT_CMD with SET marks a granule initialised. -/
  | initSet (r : Requester) (g : Fin 2048)
  /-- INIT_CLR (R362): INIT_CMD with CLR marks a granule uninitialised and removes its poison and suspect entries. -/
  | initClr (r : Requester) (g : Fin 2048)
  /-- RPR_INSTALL (R375): RPR_CMD.GO installs a DRAM or SRAM row repair into a spare. -/
  | rprInstall (r : Requester) (v : Word)
  /-- TEST_WRITE_RAW (R379): TEST_CMD.WRITE_RAW writes one code word with the code bypassed. -/
  | testWriteRaw (r : Requester)
  /-- TEST_READ_RAW (R379): TEST_CMD.READ_RAW reads one code word raw and returns its syndrome and verdict. -/
  | testReadRaw (r : Requester) (bits : List Nat)
  /-- CAPTURE_ROLL (R392): CP_CMD.ROLL starts a rolling recording at the next commit point, or is refused with CFG_ERR. -/
  | captureRoll (r : Requester)
  /-- CAPTURE_ARM (R392): CP_CMD.ARM starts or arms a recording that accepts triggers. -/
  | captureArm (r : Requester)
  /-- CAPTURE_SW_TRIGGER (R394): CP_CMD.TRIGGER is a trigger condition of cause SW. -/
  | captureSwTrigger (r : Requester)
  /-- CAPTURE_STOP (R392): CP_CMD.STOP moves a recording to HELD, with TRUNC if in POST. -/
  | captureStop (r : Requester)
  /-- CAPTURE_RELEASE (R392): CP_CMD.RELEASE returns a HELD recording to IDLE. -/
  | captureRelease (r : Requester)
  /-- TRIG_IN_PULSE (R394): TRIG_IN stays high for 10 ns after a rising edge, a trigger condition of cause PIN. -/
  | trigInPulse
  /-- CAPTURE_POST_COMPLETE (R392): POST frames have been written and the recording becomes HELD. -/
  | capturePostComplete
  /-- CAPTURE_DRAIN_DONE (R392): A draining capture completes its code word and checkpoint and returns to IDLE. -/
  | captureDrainDone
  /-- REPLAY_GO (R397): RP_CMD.GO starts a FIXED or ADAPT replay from a checkpoint, or ends CONFIG, NO_CKPT or STEPPING. -/
  | replayGo (r : Requester)
  /-- REPLAY_ABORT (R409): RP_CMD.ABORT ends a running replay. -/
  | replayAbort (r : Requester)
  /-- REPLAY_FRAME (R397): The replay processes one frame at 1/64 real time, writes its index record and compares digests. -/
  | replayFrame
  /-- REPLAY_HOLD_RELEASE (R399): Every masked engine is waiting, off or faulted, so an ADAPT replay leaves its commit-point hold.
  -/
  | replayHoldRelease
  /-- REPLAY_STALLED (R399): A hold lasts longer than RP_TMO and the replay ends STALLED. -/
  | replayStalled
  /-- EXPORT_GO (R403): EXP_CMD.GO starts an export of EXP_LEN bytes over the trace port, or ends ALIGN. -/
  | exportGo (r : Requester)
  /-- EXPORT_CANCEL (R403): EXP_CMD.CANCEL ends the export CANCELLED after the packet in progress. -/
  | exportCancel (r : Requester)
  /-- EXPORT_PACKET (R402): A trace packet has been sent, and the next is sent or the END packet closes the export. -/
  | exportPacket
  /-- TRACE_BIT_SLIP (R404): An ALIGN SLIP bit slips one receive lane by one bit. -/
  | traceBitSlip (r : Requester) (lanes : BitVec 4)
  /-- TRACE_WORD_SLIP (R404): An ALIGN WSLIP bit slips one receive lane by one word. -/
  | traceWordSlip (r : Requester) (lanes : BitVec 4)
  /-- TRACE_LANE_LOCK (R404): 64 consecutive valid code groups set a lane's LANE_LOCK. -/
  | traceLaneLock (l : Fin 4) (run : List (BitVec 10))
  /-- TRACE_LANE_UNLOCK (R404): Four code-group or disparity errors within 256 words clear LANE_LOCK and DESKEWED. -/
  | traceLaneUnlock (l : Fin 4) (code disp : Nat)
  /-- SPI_WRITE (R421): An SPI WRITE frame performs one transaction per whole data word until a transaction fails. -/
  | spiWrite (inc : Bool) (a : Word) (words : List Word)
  /-- SPI_READ (R423): An SPI READ frame returns each word with its own status byte until a transaction fails. -/
  | spiRead (inc : Bool) (a : Word) (n : Nat) (flips : List (List Nat))
  /-- SPI_STATUS (R422): An SPI STATUS frame returns only the leading status byte. -/
  | spiStatus
  /-- SPI_RESERVED_OP (R421): A frame with OP 0b11 performs nothing and fails with REFUSED. -/
  | spiReservedOp
  /-- SPI_FRAME_END (R421): CS_N rises, ending the frame, discarding part words and issuing any gathered writes. -/
  | spiFrameEnd
  /-- MDIO_ADDRESS_FRAME (R426): A Clause 45 address frame to MMD 30 selects a window register. -/
  | mdioAddressFrame (port : Fin 32) (reg : BitVec 16)
  /-- MDIO_WRITE_FRAME (R426): A Clause 45 write frame writes a window register, ADDR or DATA_LO or CTRL. -/
  | mdioWriteFrame (port : Fin 32) (v : BitVec 16)
  /-- MDIO_READ_FRAME (R426): A Clause 45 read frame returns a window register, clearing STAT.ERR when STAT is read. -/
  | mdioReadFrame (port : Fin 32)
  /-- MDIO_POST_READ_INC_FRAME (R426): A post-read-increment-address frame reads a window register and increments the MMD register
  address. -/
  | mdioPostReadIncFrame (port : Fin 32)
  /-- MDIO_TRANSACTION_DONE (R426): A device transaction issued through the MDIO window completes and BUSY clears, with ERR on
  failure. -/
  | mdioTransactionDone (bits : List Nat)
  /-- BUS_TIMEOUT (R419): A target does not answer within 10 µs and the transaction ends TIMEOUT. -/
  | busTimeout (r : Requester) (a : Word) (read : Bool)
  /-- LOG_RECORD_WRITE (R433): An occurrence held 4 µs in staging receives its SEQ and is written to the ring, or is lost when
  staging is full. -/
  | logRecordWrite
  /-- LOG_ENABLE (R430): A write of LOG_EN = 1 starts the log at LOG_BASE, or sets CFG_ERR. -/
  | logEnable (r : Requester)
  /-- LOG_DISABLE (R626): A write of LOG_EN = 0 stops writing to the ring and stages a CONTROL record. -/
  | logDisable (r : Requester)
  /-- PROP_SUBMIT (R444): PROP_CMD.SUBMIT proposes a protection-map entry, starting a 10 ms deadline, or ends INVALID. -/
  | propSubmit (r : Requester)
  /-- PROP_WITHDRAW (R444): PROP_CMD.WITHDRAW ends a pending proposal WITHDRAWN. -/
  | propWithdraw (r : Requester)
  /-- RATIFY (R445): A RATIFY from the ratifier accepts or rejects the pending proposal, writing MAP on ACCEPT. -/
  | ratify (r : Requester) (v : Word)
  /-- PROP_EXPIRY (R444): No valid RATIFY by the 10 ms deadline, so the proposal ends EXPIRED. -/
  | propExpiry
  /-- PWR_MODE_REQUEST (R479): A write of PWR.MODE arms a target, is held, or acts as wake source REQ. -/
  | pwrModeRequest (r : Requester) (t : Fin 4)
  /-- ENTRY_DRAIN_DONE (R473): Phase 2 ends when the supervisor's transactions and DMA complete, and the abort points decide whether
  entry continues. -/
  | entryDrainDone (wakeN : Bool) (during : List (Fin 9))
  /-- ENTRY_STOP_DONE (R473): Phase 4 ends when ports have stopped at their boundaries and functions have ended their work. -/
  | entryStopDone
  /-- ENTRY_COMPLETE (R473): Phase 5 ends with the device in DUSK or NIGHT, or wakes at once if the latch holds a source. -/
  | entryComplete (wakeN : Bool)
  /-- WAKE_SOURCE (R474): An enabled wake source occurs, is latched, and begins wake if the device sleeps. -/
  | wakeSource (n : Fin 9)
  /-- WAKE_TIMER_EXPIRY (R480): WAKE_TMR has elapsed since the state was reached, a wake source. -/
  | wakeTimerExpiry
  /-- WAKE_COMPLETE (R476): Wake reaches NOON, the supervisor continues and enabled ports restart. -/
  | wakeComplete
  /-- PAD_RELEASE (R478): PAD_REL.RELEASE in NOON releases the pads held since NIGHT. -/
  | padRelease (r : Requester)
  /-- BO_WARN (R482): VDD_CORE falls below the warning level for 20 ns and the brown-out warning begins. -/
  | boWarn
  /-- BO_CLEAR (R482): VDD_CORE rises above the clearing level and the state becomes RECOVER. -/
  | boClear
  /-- BO_RESUME (R482): 100 µs in RECOVER elapse and normal work resumes. -/
  | boResume
  /-- RAIL_LOSS (R481): A rail falls below its reset threshold and the device takes a cold reset. -/
  | railLoss (rail : Fin 5)
  /-- POWER_ON (R468): Power is applied and the device enters cold reset. -/
  | powerOn
  /-- RESET_PIN (R468): RESET_N held low for at least 1 µs causes a cold reset. -/
  | resetPin
  /-- COLD_RESET_RELEASE (R468): 1 ms after every rail is up and RESET_N is high, the device leaves cold reset and samples its
  straps. -/
  | coldResetRelease (cascLow bootSel : Bool) (prtad : Fin 32)
  /-- RST_CMD_COLD (R468): RST_CMD.COLD with the key causes a cold reset. -/
  | rstCmdCold (r : Requester) (key : Byte)
  /-- RST_CMD_WARM (R468): RST_CMD.WARM with the key resets the supervisor, trace and cluster groups together. -/
  | rstCmdWarm (r : Requester) (key : Byte)
  /-- GROUP_RESET (R469): GRP_CMD.GO resets one island group and its crossing ends, or is refused. -/
  | groupReset (r : Requester) (v : Word)
  /-- GROUP_RESET_DONE (R470): A group reset ends within 2 µs and GRP_DONE is raised. -/
  | groupResetDone
  /-- REFCLK_LOST (R460): REFCLK shows no edge or stays out of range, so the islands switch to the oscillator and every port goes
  down. -/
  | refclkLost
  /-- REFCLK_BACK (R460): REFCLK has stayed in range for 1 ms, so the islands switch back and enabled ports restart. -/
  | refclkBack
  /-- CORE_PLL_UNLOCK (R461): The CORE or MEM PLL loses lock and causes a cold reset. -/
  | corePllUnlock
  /-- LANE_PLL_UNLOCK (R461): A line-lane PLL loses lock and its port goes DOWN. -/
  | lanePllUnlock (n : Fin 8) (tx : Bool)
  /-- LANE_PLL_RELOCK (R461): A line-lane PLL relocks and its port restarts as a port reset. -/
  | lanePllRelock (n : Fin 8) (tx : Bool)
  /-- TIME_PLL_UNLOCK (R461): The TIME PLL loses lock and the time clock counts as stopped. -/
  | timePllUnlock
  /-- TRACE_PLL_UNLOCK (R461): The TRACE PLL loses lock and every trace LANE_LOCK clears. -/
  | tracePllUnlock
  /-- CLUSTER_CLOCK_GATE (R467): Every engine of a cluster is idle with no timer or transfer pending, so its clock is gated. -/
  | clusterClockGate (c : Fin 16)
  /-- CLOCK_RESTART (R466): A request to a gated island restarts its clock within 40 ns. -/
  | clockRestart (c : Fin 16)
  /-- PULSE_CROSSING_DELIVERY (R465): A pulse crossing delivers its accumulated count, saturating and setting XLOST if needed. -/
  | pulseCrossingDelivery (cls : Fin 4) (n : Nat)
  /-- SENSOR_SAMPLE (R485): Each millisecond every sensor is sampled, cross-checked, and TJ_MAX, alarms and policy level updated. -/
  | sensorSample (t : List (BitVec 16))
  /-- SENSOR_READMIT (R486): TS_CMD.READMIT clears a sensor's BROKEN mark and strikes. -/
  | sensorReadmit (r : Requester) (k : Fin 24)
  /-- HK_SEQ_ENABLE (R509): HK_CTRL.SEQ_EN set moves the sequencer from OFF to GAP. -/
  | hkSeqEnable (r : Requester)
  /-- HK_SEQ_DISABLE (R510): HK_CTRL.SEQ_EN cleared stops the sequence after conversions already started. -/
  | hkSeqDisable (r : Requester)
  /-- HK_TRIGGER (R511): HK_CMD.TRIGGER is a software trigger, taken, held or discarded. -/
  | hkTrigger (r : Requester)
  /-- HK_RQ_FLUSH (R538): HK_CMD.RQ_FLUSH discards the result queue. -/
  | hkRqFlush (r : Requester)
  /-- HK_CNT_CLR (R538): HK_CMD.CNT_CLR clears the overrun and lost counters. -/
  | hkCntClr (r : Requester)
  /-- HK_TIMER_FIRE (R513): A housekeeping timer reaches TMR_PER and fires, a trigger source. -/
  | hkTimerFire (t : Fin 4)
  /-- HK_DELAY_END (R509): DELAY × 10 ns elapse after a trigger and the sequence enters RUN. -/
  | hkDelayEnd
  /-- HK_CONVERSION_DONE (R504): A sub-converter completes a conversion and its corrected result is queued or stored. -/
  | hkConversionDone (k : Fin 4) (vin vref : Int)
  /-- HK_GAP_END (R509): The 1 µs gap ends and the sequencer waits or takes a held trigger. -/
  | hkGapEnd
  /-- HK_URGENT_REQUEST (R514): A write of URG_REQ makes an urgent conversion request, or is discarded while one is pending. -/
  | hkUrgentRequest (r : Requester) (ch : Fin 32) (ref : Fin 3) (avg : Fin 4)
  /-- HK_RQ_POP (R516): A read of RQ_HI removes the head entry of the result queue. -/
  | hkRqPop (r : Requester)
  /-- HK_SUBCONV_CALIBRATE (R519): Background calibration of a sub-converter completes and its corrections are staged, or it is
  excluded. -/
  | hkSubconvCalibrate (k : Fin 4) (offset gain : BitVec 12)
  /-- HK_REF_SETTLED (R507): A reference's settling time passes since enable and REF_OK sets. -/
  | hkRefSettled (ref : Fin 3)
  /-- HK_VREF_FAULT (R507): VREF leaves 0.9 V to 1.9 V and REF_OK clears with REF_FAULT. -/
  | hkVrefFault
  /-- CD_ENABLE (R522): CD_CTRL.EN set moves a channel from HIZ to DRIVE at code 0. -/
  | cdEnable (r : Requester) (c : Fin 16)
  /-- CD_DISABLE (R526): CD_CTRL.EN cleared discards the queue and ramps the output to code 0 and HIZ. -/
  | cdDisable (r : Requester) (c : Fin 16)
  /-- CD_SPAN_WRITE (R525): A write of SPAN flushes the queue and ramps the output to 0 V before changing span. -/
  | cdSpanWrite (r : Requester) (c : Fin 16) (span : Fin 4)
  /-- CD_QUEUE_WRITE (R523): A write of CD_Q queues a code, or drops it and sets OVF when full. -/
  | cdQueueWrite (r : Requester) (c : Fin 16) (code : BitVec 14)
  /-- CD_UPDATE_TICK (R523): An update tick takes the oldest queued code as the target, or sets UNDERRUN in STREAM mode. -/
  | cdUpdateTick (c : Fin 16)
  /-- CD_SLEW_TICK (R524): Every SLEW_DIV µs the driven code moves towards the target by at most STEP. -/
  | cdSlewTick (c : Fin 16)
  /-- CD_SWITCH_END (R522): 10 µs at 0 V end the span change and the channel enters HOLD0. -/
  | cdSwitchEnd (c : Fin 16)
  /-- CD_SHORT (R527): An output begins current limiting, setting CD_SCF and raising SHORT. -/
  | cdShort (c : Fin 16) (limiting : BitVec 16)
  /-- CD_SHORT_HIZ (R527): Limiting has lasted 10 µs with SC_HIZ set, so the channel enters HIZ. -/
  | cdShortHiz (c : Fin 16)
  /-- PWM_DUTY_WRITE (R529): A write of PW_DUTY schedules DUTY and the last PER for the next period boundary. -/
  | pwmDutyWrite (r : Requester) (k : Fin 4) (duty : BitVec 16)
  /-- PWM_PERIOD_BOUNDARY (R528): A PWM counter wraps and applies pending PER, DUTY, DMAX, DEAD, TRIG_CNT and POL. -/
  | pwmPeriodBoundary (k : Fin 4)
  /-- PWM_TRIGGER_EDGE (R530): A PWM counter reaches TRIG_CNT and issues a housekeeping trigger. -/
  | pwmTriggerEdge (k : Fin 4)
  /-- PWM_ENABLE (R532): A PW_CTRL.EN bit set starts the output's counter at 0. -/
  | pwmEnable (r : Requester) (k : Fin 4)
  /-- PWM_DISABLE (R532): A PW_CTRL.EN bit cleared drives the output inactive and stops the counter. -/
  | pwmDisable (r : Requester) (k : Fin 4)
  /-- DL_DONE (R558): SUP_CMD.DL_DONE hands a downloaded container or patch to the ROM or firmware. -/
  | dlDone (r : Requester)
  /-- IMAGE_STORE_DONE (R560): Storing an image or applying a patch into the inactive bank ends STORED or fails with ERR. -/
  | imageStoreDone (flashErr : Bool)
  /-- FW_ACTIVATE (R561): SUP_CMD.ACTIVATE stages the stored image and starts a hitless activation. -/
  | fwActivate (r : Requester)
  /-- FW_CONFIRM (R561): SUP_CMD.CONFIRM in TRIAL writes TRIAL 0 and returns to IDLE. -/
  | fwConfirm (r : Requester)
  /-- FW_REVERT (R566): SUP_CMD.REVERT in TRIAL reverts to the previous bank. -/
  | fwRevert (r : Requester)
  /-- TRIAL_TIMEOUT (R566): TRIAL_TMO expires without CONFIRM and a reversion begins. -/
  | trialTimeout
  /-- SUP_WATCHDOG (R549): The supervisor watchdog expires and resets the group SUPERVISOR, or reverts after WD_LIM expiries. -/
  | supWatchdog
  /-- BOOT_DONE (R551): The firmware reaches READY and writes BOOT_TIME. -/
  | bootDone (items : BitVec 16)
  /-- CASC_WR (R567): A cascade WR frame performs a forwarded write at the peer. -/
  | cascWr (f : CFrame) (crc : Word)
  /-- CASC_RD (R567): A cascade RD frame performs a forwarded read and returns an RSP. -/
  | cascRd (f : CFrame) (crc : Word)
  /-- CASC_RSP (R567): A cascade RSP frame completes a forwarded transaction with its status. -/
  | cascRsp (f : CFrame) (crc : Word)
  /-- CASC_LOAD (R564): A cascade LOAD frame writes code words into the slave's DL area. -/
  | cascLoad (f : CFrame) (crc : Word)
  /-- CASC_GO (R564): A cascade GO frame makes the slave accept and run the loaded container. -/
  | cascGo (f : CFrame) (crc : Word)
  /-- CASC_HELLO (R569): A cascade HELLO frame brings the link up and reports the peer's cold-boot count. -/
  | cascHello (f : CFrame) (crc : Word)
  /-- CASC_EVT (R570): A cascade EVT frame reports the slave's interrupt levels and raises PEER_INT on the master. -/
  | cascEvt (f : CFrame) (crc : Word)
  /-- CASC_TIME (R344): A cascade TIME frame carries steering of the slave's time counter. -/
  | cascTime (f : CFrame) (crc : Word)
  /-- CASC_WARM (R564): A cascade WARM frame requests a warm reset of the slave. -/
  | cascWarm (f : CFrame) (crc : Word)
  /-- CASC_RESEND_TIMEOUT (R568): 20 µs pass without an ACK, so unacknowledged frames are resent or the link goes down. -/
  | cascResendTimeout
  /-- CH_SIGN (R572): CH_CMD.SIGN starts a signed challenge answer, or ends NO_KEY. -/
  | chSign (r : Requester)
  /-- CH_SIGN_DONE (R572): The challenge signature is written to SIG_A and SIG_B and CH_DONE is raised. -/
  | chSignDone
  /-- CERT_LEN_WRITE (R571): A write of CERT_LEN in PROVISIONED locks the certificate. -/
  | certLenWrite (r : Requester) (v : BitVec 11)
  /-- LCS_TO_PROVISIONED (R573): LCS_CMD to PROVISIONED generates and fuses the device key. -/
  | lcsToProvisioned (r : Requester) (key : Byte)
  /-- LCS_TO_DEPLOYED (R573): LCS_CMD to DEPLOYED advances the state when a certificate is present. -/
  | lcsToDeployed (r : Requester) (key : Byte)
  /-- LCS_TO_RETURNED (R573): LCS_CMD to RETURNED advances the state if LCS_TOKEN holds a valid return signature. -/
  | lcsToReturned (r : Requester) (key : Byte)
  /-- LCS_TO_SCRAPPED (R573): LCS_CMD to SCRAPPED blows every key fuse. -/
  | lcsToScrapped (r : Requester) (key : Byte)
  /-- FUSE_WRITE_DONE (R575): A fuse write and its margin-read verify complete, succeeding or ending FUSE_FAIL. -/
  | fuseWriteDone (read1 read2 : Bool)
  /-- SECVER_ADVANCE (R575): SECVER_CMD advances the fused security version to a greater value. -/
  | secverAdvance (r : Requester) (v : BitVec 6)
  /-- BIST_ROM (R577): BT_CMD.GO with TEST 1 checks the boot ROM signature. -/
  | bistRom (r : Requester)
  /-- BIST_LOGIC (R577): BT_CMD.GO with TEST 2 runs logic BIST on a reset group. -/
  | bistLogic (r : Requester) (t : BitVec 6)
  /-- BIST_SRAM_MARCH (R577): BT_CMD.GO with TEST 3 runs a march test on an SRAM instance. -/
  | bistSramMarch (r : Requester) (t : BitVec 6)
  /-- BIST_DRAM_MARCH (R577): BT_CMD.GO with TEST 4 runs a march test on a DRAM channel. -/
  | bistDramMarch (r : Requester) (t : BitVec 6)
  /-- BIST_ANA_LOOP (R578): BT_CMD.GO with TEST 5 runs the analogue loopback of a line lane. -/
  | bistAnaLoop (r : Requester) (t : BitVec 6)
  /-- BIST_HOST_LOOP (R578): BT_CMD.GO with TEST 6 runs the loopback of a host lane. -/
  | bistHostLoop (r : Requester) (t : BitVec 6)
  /-- BIST_REF (R577): BT_CMD.GO with TEST 7 runs the reference test with CALREF present. -/
  | bistRef (r : Requester)
  /-- BIST_ABORT (R587): BT_CMD.ABORT ends a running test ABORTED. -/
  | bistAbort (r : Requester)
  /-- BIST_TEST_DONE (R577): A self-test completes and reports PASS or FAIL. -/
  | bistTestDone (sig : BitVec 64) (rows : List Nat) (rx tx : List (Nat × Int)) (refOk : Bool)
  /-- FUSE_REPAIR (R576): FRPR_CMD.GO fuses the repair of a row that has a soft repair installed. -/
  | fuseRepair (r : Requester)
  /-- PC_CELL_BAD (R285): A complete partner-channel cell arrives whose CRC fails; it increments CNT_CELL.BAD, raises CELL_ERR and
  is discarded whole. -/
  | pcCellBad (n : Fin 8)
  /-- HOST_PLL_LOCKED (R461): A host lane's transmit or receive PLL completes its lock, up to 200 µs after starting, so the lane can
  leave OFF for SQUELCH or start. -/
  | hostPllLocked (m : Fin 16) (rx : Bool)
  /-- VREF_IN_RANGE (R507): The VREF ball returns to between 0.9 V and 1.9 V and the external reference's REF_OK sets again. -/
  | vrefInRange
  /-- WARM_RESET_DONE (R500): A warm reset of the supervisor, trace and cluster groups completes and WARM_DONE is raised. -/
  | warmResetDone
  /-- CASC_EVT_INTERVAL (R570): On a cascade slave, every 1 ms while INT_A_N or INT_B_N is asserted, an EVT frame is sent to the
  master. -/
  | cascEvtInterval
  /-- DRAM_BW_WINDOW (R386): A DRAM bandwidth window of 2^(10 + WIN) memory-clock cycles ends, and BW_RD and BW_WR latch the code
  words read and written in it. -/
  | dramBwWindow
  /-- HK_CONVERSION_SLOT (R504): A 100 ns housekeeping slot begins, in which a sequence, urgent or calibration conversion starts on
  a free sub-converter. -/
  | hkConversionSlot (k : Fin 4)
  /-- PRBS_CHK_LOCK (R222): A host lane's PRBS checker gains or loses pattern lock on its receive decisions, and RX_STAT.CHK_LOCK
  changes. -/
  | prbsChkLock (m : Fin 16) (lock : Bool) (errs : Nat)
deriving DecidableEq, Repr

end Sys2Proof
end

