-- ==== Sys2Proof/WellFormed.lean ====
section
/-! DEFINITION. Which commands are well formed: the conditions on operands that their types do not express. An ill-formed command names nothing that
exists (an engine 16 of a cluster, a page that R414 does not list, cell 288 of a code word). -/

namespace Sys2Proof.Machine

/-- A requester exists (R418): engines 0 to 15 and DMA channels 0 to 3 of clusters 0 to 15. -/
def requesterWf : Requester → Bool
  | .engine c e => decide (c < 16) && decide (e < 16)
  | .clusterDma c ch => decide (c < 16) && decide (ch < 4)
  | _ => true

/-- An address has 32 bits (R412). -/
def addrWf (a : Nat) : Bool := decide (a < 2 ^ 32)

/-- A family of R414 has the page instance. -/
def pageWf (fam : Fin 32) (i : Fin 16) : Bool := pages.any fun p => p.fam == fam.val && decide (i.val < p.count)

/-- Cells of a code word: at most 288 (R353). -/
def bitsWf (l : List Nat) : Bool := l.all fun b => decide (b < 288)

/-- A cascade frame's fields fit their places (R567). -/
def frameWf (f : CFrame) : Bool :=
  decide (f.seq < 256) && decide (f.ack < 256) && decide (f.credit < 16) && decide (f.status < 16) && decide (f.tag < 256)
    && decide (f.master < 256) && decide (f.payload.length ≤ 256)

/-- A decoder's verdict on an outer code word (R173, R177): at most 15 symbols, none named twice, no pattern of zeros. -/
def verdictWf (v : Option (List (Fin 544 × Fin 1024))) : Bool :=
  match v with
  | none => true
  | some l => decide (l.length ≤ 15) && decide (l.map (·.1)).Nodup && l.all (fun e => e.2.val != 0)

/-- A tap snapshot has 4,096 samples (R255). -/
def samplesWf (l : List (BitVec 16)) : Bool := l.length == 4096

end Sys2Proof.Machine

namespace Sys2Proof

open Machine in
/-- Well-formed commands. -/
def Instr.wf : Instr → Bool
  | .registerWrite r a _ => requesterWf r && addrWf a
  | .pageSnap r fam i => requesterWf r && pageWf fam i
  | .idleLatchTimeout _ _ => true
  | .pageEnable r fam i => requesterWf r && pageWf fam i
  | .pageDisable r fam i _ => requesterWf r && pageWf fam i
  | .pageDrainDone fam i => pageWf fam i
  | .pageLock r fam i => requesterWf r && pageWf fam i
  | .evtClear r fam i _ => requesterWf r && pageWf fam i
  | .portEnable r _ => requesterWf r
  | .portDisable r _ => requesterWf r
  | .portReset r _ => requesterWf r
  | .idleCommitApply _ => true
  | .lrxCommit r _ _ => requesterWf r
  | .lineRxCommitPoint _ _ _ _ => true
  | .losAssert _ _ => true
  | .losClear _ _ => true
  | .acqAdvance r _ => requesterWf r
  | .acqRestart r _ => requesterWf r
  | .timingLockSet _ => true
  | .trRange _ => true
  | .cycleSlip _ => true
  | .snrWindowEnd _ => true
  | .acqTimeout _ => true
  | .adcMonWindow _ _ => true
  | .ltxCommit r _ _ => requesterWf r
  | .txPllLocked _ => true
  | .sqHoldExpiry _ => true
  | .txFrameTimerBoundary _ => true
  | .lineTxFrameBoundary _ _ => true
  | .txBeaconSet r _ => requesterWf r
  | .txBeaconClear r _ => requesterWf r
  | .skewFineStep _ => true
  | .remQuery _ _ => true
  | .remPreset _ _ => true
  | .remTapInc _ _ => true
  | .remTapDec _ _ => true
  | .remSwingInc _ _ => true
  | .remSwingDec _ _ => true
  | .remInvalidRequest _ _ => true
  | .calStepStart _ => true
  | .calPhaseEnd _ => true
  | .calShadowEnd _ _ _ _ => true
  | .calPassDone _ _ _ _ => true
  | .calSubmit r _ => requesterWf r
  | .calResultTimeout _ => true
  | .calRetire r _ _ => requesterWf r
  | .calHold r _ => requesterWf r
  | .calResume r _ => requesterWf r
  | .calStepNow r _ => requesterWf r
  | .monWindowEnd _ _ => true
  | .txBiasFlag _ _ _ => true
  | .pcQreqReceive _ _ => true
  | .pcQgrantReceive _ _ => true
  | .quietWindowClose _ => true
  | .quietMissed _ => true
  | .calrefChange _ _ => true
  | .calRefMeasure r => requesterWf r
  | .calRefMeasureDone _ _ => true
  | .marlHeaderReceive _ _ _ _ => true
  | .fawMatch _ _ => true
  | .frameQualExpiry _ _ _ _ => true
  | .portFrameBoundary _ _ _ => true
  | .outerCodewordRx _ errs => verdictWf errs
  | .outerCodewordTx _ _ errs => verdictWf errs
  | .degIntervalEnd _ => true
  | .hostLosAssert _ _ => true
  | .hostLosClear _ _ => true
  | .cdrLockSet _ _ => true
  | .cdrLost _ _ => true
  | .hostSnrWindowEnd _ _ _ => true
  | .hostAdvance r _ => requesterWf r
  | .hostRestart r _ => requesterWf r
  | .amLock _ _ => true
  | .amLockLoss _ => true
  | .hsFault _ _ => true
  | .hostRxCommitPoint _ _ _ _ _ _ => true
  | .hostTxCommitPoint _ _ _ => true
  | .hslCommit r _ _ => requesterWf r
  | .hslTxPresetLoad r _ _ => requesterWf r
  | .compSlip _ _ => true
  | .hostStamp _ _ => true
  | .add _ _ _ _ => true
  | .sub _ _ _ _ => true
  | .adds _ _ _ _ => true
  | .subs _ _ _ _ => true
  | .mullo _ _ _ _ => true
  | .mulhiS _ _ _ _ => true
  | .mulhiU _ _ _ _ => true
  | .and _ _ _ _ => true
  | .or _ _ _ _ => true
  | .xor _ _ _ _ => true
  | .andn _ _ _ _ => true
  | .shl _ _ _ _ => true
  | .shr _ _ _ _ => true
  | .sra _ _ _ _ => true
  | .ror _ _ _ _ => true
  | .clz _ _ _ => true
  | .min _ _ _ _ => true
  | .max _ _ _ _ => true
  | .minu _ _ _ _ => true
  | .maxu _ _ _ _ => true
  | .klo _ _ _ => true
  | .khi _ _ _ => true
  | .cmpEq _ _ _ _ => true
  | .cmpLt _ _ _ _ => true
  | .cmpLtu _ _ _ _ => true
  | .cmpLe _ _ _ _ => true
  | .cmpLeu _ _ _ _ => true
  | .cmpBit _ _ _ _ => true
  | .plogAnd _ _ _ _ => true
  | .plogOr _ _ _ _ => true
  | .plogXor _ _ _ _ => true
  | .plogAndn _ _ _ _ => true
  | .setp _ _ _ => true
  | .lb _ _ _ _ bits => bitsWf bits
  | .lh _ _ _ _ bits => bitsWf bits
  | .lw _ _ _ _ bits => bitsWf bits
  | .ld _ _ _ _ bits => bitsWf bits
  | .lbu _ _ _ _ bits => bitsWf bits
  | .lhu _ _ _ _ bits => bitsWf bits
  | .sb _ _ _ _ bits => bitsWf bits
  | .sh _ _ _ _ bits => bitsWf bits
  | .sw _ _ _ _ bits => bitsWf bits
  | .sd _ _ _ _ => true
  | .brT _ _ _ => true
  | .brF _ _ _ => true
  | .jmp _ _ => true
  | .call _ _ => true
  | .jmpr _ _ _ => true
  | .callr _ _ _ => true
  | .vadd _ _ _ _ => true
  | .vsub _ _ _ _ => true
  | .vadds _ _ _ _ => true
  | .vsubs _ _ _ _ => true
  | .vmul _ _ _ _ => true
  | .vmin _ _ _ _ => true
  | .vmax _ _ _ _ => true
  | .vabs _ _ _ _ => true
  | .vneg _ _ _ _ => true
  | .vshl _ _ _ _ => true
  | .vsra _ _ _ _ => true
  | .vcmplt _ _ _ _ => true
  | .vsel _ _ _ _ => true
  | .vld _ _ _ _ _ _ flips => flips.all bitsWf
  | .vst _ _ _ _ => true
  | .vclr _ => true
  | .vmac _ _ _ => true
  | .vmsc _ _ _ => true
  | .vmacx _ _ _ => true
  | .vrd _ _ _ => true
  | .vext _ _ _ _ => true
  | .vins _ _ _ _ => true
  | .xchgD _ _ _ _ bits => bitsWf bits
  | .xaddD _ _ _ _ bits => bitsWf bits
  | .rdcr _ _ _ => true
  | .wrcr _ _ _ _ => true
  | .mdcr _ _ _ _ _ => true
  | .callk _ _ => true
  | .rte _ => true
  | .wait _ _ => true
  | .sync _ => true
  | .dbg _ => true
  | .nop _ => true
  | .illegalInstruction _ _ => true
  | .interruptEntry _ => true
  | .timerMatch _ => true
  | .engineWatchdog _ => true
  | .engineHold r _ => requesterWf r
  | .engineRelease r _ => requesterWf r
  | .engineDrainDone _ => true
  | .engineRetire r _ => requesterWf r
  | .cpOwnWrite r _ _ _ => requesterWf r
  | .serveHoldExpiry _ _ => true
  | .clusterWindowWrite r _ _ _ => requesterWf r
  | .mbSend _ _ _ => true
  | .mbW1Send r _ _ _ => requesterWf r
  | .mbRxPop _ => true
  | .mbStatRead _ => true
  | .supMbPop r _ => requesterWf r
  | .dmaStart _ _ _ => true
  | .dmaDescriptorDone _ _ _ => true
  | .dmaCancel _ _ => true
  | .dmaStatRead r _ _ => requesterWf r
  | .tapGo _ => true
  | .tapSnapshotDone _ samples => samplesWf samples
  | .tapStatRead _ => true
  | .cpCommit _ _ _ => true
  | .cpCommitStatRead _ _ => true
  | .perfOverflow _ _ => true
  | .perfSample _ _ _ => true
  | .perfBwWindow _ => true
  | .pfStatClear r _ _ => requesterWf r
  | .pcCellSlot _ => true
  | .pcCellMissing _ => true
  | .pcIdleReceive _ _ => true
  | .pcIdentReceive _ _ => true
  | .pcTxrspReceive _ _ => true
  | .pcTtAReceive _ _ => true
  | .pcTtBReceive _ _ => true
  | .pcRreqReceive _ _ => true
  | .pcRrspReceive _ _ => true
  | .pcRlbreqStart _ _ => true
  | .pcRlbreqStop _ _ => true
  | .pcRlbrspReceive _ _ => true
  | .pcFwReceive _ _ _ => true
  | .pcReservedReceive _ _ _ => true
  | .remoteReadDone _ => true
  | .partTxreq r _ _ => requesterWf r
  | .txrspTimeout _ => true
  | .rrGo r _ _ _ => requesterWf r
  | .requestResendTimeout _ _ => true
  | .rlbStartCmd r _ => requesterWf r
  | .rlbStopCmd r _ => requesterWf r
  | .rlbTimeout _ => true
  | .rlbAllowClear r _ => requesterWf r
  | .fwTxQueue r _ _ => requesterWf r
  | .fwRxPop r _ => requesterWf r
  | .farClr r _ => requesterWf r
  | .dawnSend r _ => requesterWf r
  | .dawnResend r _ => requesterWf r
  | .dawnAbort r _ => requesterWf r
  | .dawnRxPop r _ => requesterWf r
  | .dawnCntClr r _ => requesterWf r
  | .dawnTxDone _ => true
  | .dawnTxBlocked _ => true
  | .helloDue _ => true
  | .dawnDetection _ _ _ => true
  | .dawnSyncFound _ _ => true
  | .dawnSyncTimeout _ => true
  | .dawnHeaderReceive _ _ _ _ _ _ => true
  | .dawnPacketEnd _ _ _ => true
  | .dawnCandidateLapse _ => true
  | .dawnNoiseMeasure _ _ _ => true
  | .dawnRxEnable r _ => requesterWf r
  | .dawnRxDisable r _ => requesterWf r
  | .timeWrap => true
  | .incrApply r _ => requesterWf r
  | .timeSet r => requesterWf r
  | .timeStep r => requesterWf r
  | .timeSynced r => requesterWf r
  | .qualityWrite r _ => requesterWf r
  | .holdoverTimeout => true
  | .timeSourceWrite r _ => requesterWf r
  | .ppsArm r _ => requesterWf r
  | .ppsOutEdge => true
  | .ppsOutPulseEnd => true
  | .ppsInEdge => true
  | .ppsInLost => true
  | .ppsInHiRead r => requesterWf r
  | .todTxWrite r _ => requesterWf r
  | .todTxDelayExpiry => true
  | .todRxByte _ => true
  | .todRxPop r => requesterWf r
  | .ttRequestTimer _ => true
  | .ttTimeout _ => true
  | .ttInfoRead r _ => requesterWf r
  | .timeWakeAddition => true
  | .memoryRead r a bits => requesterWf r && addrWf a && bitsWf bits
  | .memoryWrite r a _ => requesterWf r && addrWf a
  | .gatherTimeout r => requesterWf r
  | .bucketLeak _ => true
  | .dramScrubVisit bits => bitsWf bits
  | .sramScrubVisit _ bits => bitsWf bits
  | .suspectRevisit _ bits => bitsWf bits
  | .rowRepairComplete ups => ups.all fun x => bitsWf x.2
  | .fillGo r => requesterWf r
  | .fillCancel r _ => requesterWf r
  | .fillGranuleComplete => true
  | .fillDone => true
  | .initSet r _ => requesterWf r
  | .initClr r _ => requesterWf r
  | .rprInstall r _ => requesterWf r
  | .testWriteRaw r => requesterWf r
  | .testReadRaw r bits => requesterWf r && bitsWf bits
  | .captureRoll r => requesterWf r
  | .captureArm r => requesterWf r
  | .captureSwTrigger r => requesterWf r
  | .captureStop r => requesterWf r
  | .captureRelease r => requesterWf r
  | .trigInPulse => true
  | .capturePostComplete => true
  | .captureDrainDone => true
  | .replayGo r => requesterWf r
  | .replayAbort r => requesterWf r
  | .replayFrame => true
  | .replayHoldRelease => true
  | .replayStalled => true
  | .exportGo r => requesterWf r
  | .exportCancel r => requesterWf r
  | .exportPacket => true
  | .traceBitSlip r _ => requesterWf r
  | .traceWordSlip r _ => requesterWf r
  | .traceLaneLock _ _ => true
  | .traceLaneUnlock _ _ _ => true
  | .spiWrite _ _ _ => true
  | .spiRead _ _ _ flips => flips.all bitsWf
  | .spiStatus => true
  | .spiReservedOp => true
  | .spiFrameEnd => true
  | .mdioAddressFrame _ _ => true
  | .mdioWriteFrame _ _ => true
  | .mdioReadFrame _ => true
  | .mdioPostReadIncFrame _ => true
  | .mdioTransactionDone bits => bitsWf bits
  | .busTimeout r _ _ => requesterWf r
  | .logRecordWrite => true
  | .logEnable r => requesterWf r
  | .logDisable r => requesterWf r
  | .propSubmit r => requesterWf r
  | .propWithdraw r => requesterWf r
  | .ratify r _ => requesterWf r
  | .propExpiry => true
  | .pwrModeRequest r _ => requesterWf r
  | .entryDrainDone _ _ => true
  | .entryStopDone => true
  | .entryComplete _ => true
  | .wakeSource _ => true
  | .wakeTimerExpiry => true
  | .wakeComplete => true
  | .padRelease r => requesterWf r
  | .boWarn => true
  | .boClear => true
  | .boResume => true
  | .railLoss _ => true
  | .powerOn => true
  | .resetPin => true
  | .coldResetRelease _ _ _ => true
  | .rstCmdCold r _ => requesterWf r
  | .rstCmdWarm r _ => requesterWf r
  | .groupReset r _ => requesterWf r
  | .groupResetDone => true
  | .refclkLost => true
  | .refclkBack => true
  | .corePllUnlock => true
  | .lanePllUnlock _ _ => true
  | .lanePllRelock _ _ => true
  | .timePllUnlock => true
  | .tracePllUnlock => true
  | .clusterClockGate _ => true
  | .clockRestart _ => true
  | .pulseCrossingDelivery _ _ => true
  | .sensorSample _ => true
  | .sensorReadmit r _ => requesterWf r
  | .hkSeqEnable r => requesterWf r
  | .hkSeqDisable r => requesterWf r
  | .hkTrigger r => requesterWf r
  | .hkRqFlush r => requesterWf r
  | .hkCntClr r => requesterWf r
  | .hkTimerFire _ => true
  | .hkDelayEnd => true
  | .hkConversionDone _ _ vref => decide (0 < vref)
  | .hkGapEnd => true
  | .hkUrgentRequest r _ _ _ => requesterWf r
  | .hkRqPop r => requesterWf r
  | .hkSubconvCalibrate _ _ _ => true
  | .hkRefSettled _ => true
  | .hkVrefFault => true
  | .cdEnable r _ => requesterWf r
  | .cdDisable r _ => requesterWf r
  | .cdSpanWrite r _ _ => requesterWf r
  | .cdQueueWrite r _ _ => requesterWf r
  | .cdUpdateTick _ => true
  | .cdSlewTick _ => true
  | .cdSwitchEnd _ => true
  | .cdShort _ _ => true
  | .cdShortHiz _ => true
  | .pwmDutyWrite r _ _ => requesterWf r
  | .pwmPeriodBoundary _ => true
  | .pwmTriggerEdge _ => true
  | .pwmEnable r _ => requesterWf r
  | .pwmDisable r _ => requesterWf r
  | .dlDone r => requesterWf r
  | .imageStoreDone _ => true
  | .fwActivate r => requesterWf r
  | .fwConfirm r => requesterWf r
  | .fwRevert r => requesterWf r
  | .trialTimeout => true
  | .supWatchdog => true
  | .bootDone _ => true
  | .cascWr f _ => frameWf f
  | .cascRd f _ => frameWf f
  | .cascRsp f _ => frameWf f
  | .cascLoad f _ => frameWf f
  | .cascGo f _ => frameWf f
  | .cascHello f _ => frameWf f
  | .cascEvt f _ => frameWf f
  | .cascTime f _ => frameWf f
  | .cascWarm f _ => frameWf f
  | .cascResendTimeout => true
  | .chSign r => requesterWf r
  | .chSignDone => true
  | .certLenWrite r _ => requesterWf r
  | .lcsToProvisioned r _ => requesterWf r
  | .lcsToDeployed r _ => requesterWf r
  | .lcsToReturned r _ => requesterWf r
  | .lcsToScrapped r _ => requesterWf r
  | .fuseWriteDone _ _ => true
  | .secverAdvance r _ => requesterWf r
  | .bistRom r => requesterWf r
  | .bistLogic r _ => requesterWf r
  | .bistSramMarch r _ => requesterWf r
  | .bistDramMarch r _ => requesterWf r
  | .bistAnaLoop r _ => requesterWf r
  | .bistHostLoop r _ => requesterWf r
  | .bistRef r => requesterWf r
  | .bistAbort r => requesterWf r
  | .bistTestDone _ _ rx tx _ => decide (rx.length ≤ 17) && decide (tx.length ≤ 17)
  | .fuseRepair r => requesterWf r
  | .pcCellBad _ => true
  | .hostPllLocked _ _ => true
  | .vrefInRange => true
  | .warmResetDone => true
  | .cascEvtInterval => true
  | .dramBwWindow => true
  | .hkConversionSlot _ => true
  | .prbsChkLock _ _ _ => true

end Sys2Proof
end

