-- ==== Sys2Proof/Config.lean ====
section
/-! DEFINITION. What the spec leaves open as a VALUE, and what one die is fused with. Every constant here is opaque:
nothing in Lean can evaluate it or prove a value of it, so a claim holds whatever it is. -/

namespace Sys2Proof.Config

/-- The free values: the value the spec leaves open at the `n`-th place a run meets one.
State.free counts the places. DESIGN CHOICE (log entry 1). -/
opaque freeNat : Nat → Nat

/-- What a register that a host error leaves free holds (R447: any state that the registers can express), by place and address.
DESIGN CHOICE (log entry 90). -/
opaque freeReg : Nat → Nat → BitVec 32

/-- What a register outside the register pages takes from a write whose reserved bits or code are not legal, by offset or number and by the
value written. DESIGN CHOICE (log entry 90). -/
opaque reservedWrite : Nat → BitVec 32 → BitVec 32

/-- What the control registers without a stated content read, by core and number (R237, R548). -/
opaque crRead : Nat → Nat → BitVec 32

/-- A lane of a vector operation on operands for which R241 states no result, by operation and operands (R242: equal operands give equal
results). -/
opaque vecOp : (op a b : Nat) → BitVec 16

/-- What the rest of a register takes from a store narrower than it, by address and bytes stored (R247 states none). -/
opaque narrowStore : (addr bytes : Nat) → Nat

/-- Whether the function field of an encoding is one that its class lists (R240: the functions have names and no numbers). -/
opaque fnListed : BitVec 32 → Bool

/-- The fused 64-bit device identity (R583: DEV_ID is fused; no value is stated). -/
opaque devId : BitVec 64

/-- The check bits that the encoder of a memory instance computes for a code word at a word index (R353, R354:
the spec gives the codes' powers and no generator). -/
opaque checkBits : (inst idx data : Nat) → Nat

/-- The syndrome the decoder of a memory instance reports for a raw code word (R379, no formula stated). -/
opaque syndrome : (inst idx data check : Nat) → Word

/-- The source number of the supervisor's event interrupt (R428 names the interrupt, no rule its number). -/
opaque supEventSource : Nat

/-- What a lane of a VCMPLT mask holds where the comparison is true, before the model keeps it from 0 (R241 states no value). -/
opaque maskSeed : BitVec 16

/-- The contents of the boot ROM by 32-bit word (R412 gives its place, no rule its contents). -/
opaque romWord : Nat → BitVec 32

/-- Aedfel's public keys (R555, R573), by number: 0 production, 1 manufacturing, 2 return. They lie in the ROM; no rule gives them. -/
opaque aedfelKey : Nat → Nat × Nat

/-- The fused signature of the boot ROM (R577; no rule gives it). -/
opaque romSig : BitVec 64

/-- BG_TRIM's TRIM as fused (R150; no value is stated). -/
opaque fusedBgTrim : BitVec 12

/-- The fused CD_TRIM word of a control-DAC channel (R551; no value is stated). -/
opaque fusedCdTrim : Nat → BitVec 32

/-- The trim that the supervisor computes from the means of bandgap and CALREF (R150; no formula is stated). -/
opaque fieldTrim : (bg calref : BitVec 16) → BitVec 12

/-! The data path (chapters 2, 3 and 5): what the spec names without giving its numbers. DESIGN CHOICE (log entries 93 to 96). -/

/-- Whether a value shown with a coarser step than it has rounds up (no rule states the rounding inside the datapath). -/
opaque roundUp : Rat → Bool

/-- Tap `t` of the 5-tap skew filter for a correction other than 0 (R83 gives the unit, no rule the taps). -/
opaque skewTap : (code : Int) → (t : Nat) → Rat

/-- Tap `t` of the 3-tap bandwidth filter for a correction other than 0. -/
opaque bwTap : (code : Int) → (t : Nat) → Rat

/-- The ROM's resampler table (R54), by phase and tap. -/
opaque romTable : (p t : Nat) → Rat

/-- Whether the slicer decides for the upper level on a threshold (R58). -/
opaque slicerTie : Bool

/-- The decision delay of the detector in symbols (R57: traceback is structural and fixed). -/
opaque mlseDepth : Nat

/-- The timing-error detector (R53, R79): code of TED, PH_OFS, the latest resampler outputs and the two latest decided symbols (equalised sample
and level), latest first. -/
opaque ted : (code : Nat) → (ofs : Int) → List Rat → List (Rat × Nat) → Rat

/-- Proportional and integral gain of the timing loop for a code of BW (R53: second order, damping 0.707). -/
opaque loopGain : Nat → Rat × Rat

/-- The two 5-bit log-likelihood ratios of a symbol, from its equalised sample and its decision (R160). -/
opaque llr : Rat → Nat → BitVec 10

/-- Hard decisions of a Marl code word after an iteration (R160): the iteration, the soft bits of the frame's units and the word's place. -/
opaque marlBelief : (iter : Nat) → (soft : List (BitVec 80)) → (word : Nat) → List (BitVec 16)

/-- The IEEE 802.3dj inner decoder over one frame (R164), from level and soft bits of each symbol: the decoded level of each symbol that
carries code-word bits, the information bits, the words not decodable, and the capture words of R390. -/
opaque ieeeDecode : List (Nat × BitVec 10) → List (Option Nat) × List Bool × Nat × List (BitVec 32)

/-- The standard's alignment indication for a frame of symbols (R165). -/
opaque ieeeAligned : List Nat → Bool

/-- The levels that the IEEE 802.3dj inner encoder sends in a frame (R164), from the frame's number and bits. -/
opaque ieeeEncode : Nat → List Bool → List Nat

/-- A code word marked as IEEE 802.3 error marking does and re-encoded (R174). -/
opaque marked : List (BitVec 10) → List (BitVec 10)

/-- The Local Fault stream of R171 toward the host: the RS symbols of a code word, by port size and number of the code word. -/
opaque faultHost : (k cw : Nat) → List (BitVec 10)

/-- The Local Fault stream of R172 toward the line: the information bits of a lane's frame, by port size, lane within the port and frame. -/
opaque faultLine : (k lane frame : Nat) → List Bool

/-- The level of symbol `n` of the test patterns PRBS13Q, PRBS31Q and SSPRQ (codes 1 to 3 of PAT, R104). -/
opaque pattern : (pat n : Nat) → Nat

/-- The line lane, within a port of `k` lanes, that carries RS symbol `j` (R167: IEEE 802.3dj). -/
opaque pmaLane : (k j : Nat) → Nat

/-- The host lane, among the `k` of a port, that carries RS symbol `j` of a code word toward the host (R199: IEEE 802.3). -/
opaque hostLane : (k j : Nat) → Nat

end Sys2Proof.Config
end

