-- ==== Sys2Proof/Machine/Tbl.lean ====
section
/-! DEFINITION. Sparse tables: a list of key and value pairs in one canonical form, keys strictly rising and no
entry equal to what an unlisted key reads as. Registers, memory and every group of like parts of the device are
held in such tables, so that equal contents are equal data. -/

namespace Sys2Proof.Machine

/-- A sparse table. -/
abbrev Tbl (α : Type) := List (Nat × α)

/-- The listed value of a key. -/
def Tbl.find {α : Type} (t : Tbl α) (a : Nat) : Option α := (t.find? fun e => e.1 == a).map Prod.snd

/-- The table without the key. -/
def Tbl.erase {α : Type} (t : Tbl α) (a : Nat) : Tbl α := t.filter fun e => e.1 != a

/-- The table with the key listed at a value: between the keys below it and those above. -/
def Tbl.insert {α : Type} (t : Tbl α) (a : Nat) (x : α) : Tbl α :=
  t.filter (fun e => decide (e.1 < a)) ++ (a, x) :: t.filter (fun e => decide (a < e.1))

/-- Read a key of a table whose unlisted keys read as `d`. -/
def Tbl.get {α : Type} (d : α) (t : Tbl α) (a : Nat) : α :=
  (Tbl.find t a).getD d

/-- Write a key; writing the value `d` that the key reads as when unlisted removes the entry. -/
def Tbl.put {α : Type} [DecidableEq α] (d : Option α) (t : Tbl α) (a : Nat) (x : α) : Tbl α :=
  if d = some x then Tbl.erase t a else Tbl.insert t a x

/-- Remove every key that `p` holds of. -/
def Tbl.drop {α : Type} (p : Nat → Bool) (t : Tbl α) : Tbl α :=
  t.filter (fun e => !p e.1)

/-- Keys strictly rising. -/
def Tbl.sorted {α : Type} (t : Tbl α) : Bool := decide ((t.map Prod.fst).Pairwise (· < ·))

/-- The canonical form: keys strictly rising, and no entry equal to what its key reads as when unlisted. -/
def Tbl.wf {α : Type} [DecidableEq α] (d : Nat → Option α) (t : Tbl α) : Bool :=
  Tbl.sorted t && t.all (fun e => decide (d e.1 ≠ some e.2))

end Sys2Proof.Machine
end

