-- ==== Sys2Proof/Machine/State.lean ====
section
/-! DEFINITION. The state of the Z832, as plain data, and the state after reset. Registers live in ONE sparse table keyed
by device address (R412); what the registers do not show (positions of hidden state machines, queues, live counters)
stands in plain structures, one per kind of unit. -/

namespace Sys2Proof.Machine

/-- Why the device stops: for no reason. The spec gives every command an outcome, a bus error to its requester or the free result of a host
error (R447) among them, so no command raises a fault and the type has no constructor. SAFE: there is no stop to lean on. -/
inductive Fault
deriving DecidableEq, Repr

/-- Why a command has no meaning in this model. -/
inductive Refusal where
  /-- Raised by an arm of exec whose command has no meaning yet. SAFE. -/
  | notModelled (mnemonic : String)
deriving DecidableEq, Repr

/-! ## The event log (R430 to R435, R626) -/

/-- An occurrence on its way to the log (R431, R433): the tick of the 625 MHz clock at its source, the counter it is
stamped with, its event number, KIND, master code, the count suppressed before it (R434) and detail words 4 to 7. -/
structure Occ where
  tick : Nat
  ns : Word
  wraps : Nat
  noclk : Bool
  event : Nat
  kind : Nat
  master : Nat
  suppressed : Nat
  detail : Option (List Word)
deriving DecidableEq, Repr

/-- What the logger remembers of a source: the tick of its previous record and the occurrences suppressed since (R434). -/
structure SrcLog where
  last : Option Nat
  suppressed : Nat
deriving DecidableEq, Repr

/-- The event log beside its registers: occurrences held 4 µs (R433), the staging queue (R435), what is remembered of
each source, records lost since the last LOG_LOST record, the LOG_BASE taken at the last enable, and whether LOG_WR has
returned to record 0 since, so that a write there overwrites (R430). -/
structure LogSt where
  hold : List Occ
  staging : List (List Word)
  src : Tbl SrcLog
  lostSince : Nat
  base : Word
  around : Bool
deriving DecidableEq, Repr

/-! ## Bus masters -/

/-- Writes gathered toward one code word (R420): the address of the first, the index of the first in its frame,
and the bytes so far. -/
structure Gather where
  base : Nat
  first : Nat
  bytes : List Byte
deriving DecidableEq, Repr

/-- The SPI interface (R421 to R425): whether a frame is open, the index of its next word, its first error, the first
error of the previous frame, the bytes sent to the host in the present or last frame, the TAGs of the frame's transactions forwarded to
the cascade peer (R570), and the reads of the frame that wait for such a read: their addresses, and the cells that each finds flipped. -/
structure SpiSt where
  inFrame : Bool
  word : Nat
  err : Option Nat
  prevErr : Option Nat
  miso : List Byte
  tags : List Nat
  todo : List (Nat × List Nat)
deriving DecidableEq, Repr

/-- The MDIO window of MMD 30 (R426). `pend` is the transaction issued and not yet complete: its address and, for a write,
its data. `out` is the data of the last read frame. -/
structure MdioSt where
  regAddr : Nat
  addr : Word
  dataLo : BitVec 16
  dataHi : BitVec 16
  wrLo : BitVec 16
  inc : Bool
  busy : Bool
  err : Option Nat
  pend : Option (Word × Option Word)
  out : BitVec 16
deriving DecidableEq, Repr

/-! ## Memory (R352 to R381) -/

/-- A bulk-filled range of DRAM: start address, bytes and the 64-bit pattern (R364). A byte of the range that a later write
replaced is listed in the memory. -/
structure Fill where
  base : Nat
  len : Nat
  pat : BitVec 64
deriving DecidableEq, Repr

/-- An entry of the suspect table (R372): the word, its REPEAT count, the position last corrected, and the order of entry. -/
structure Suspect where
  word : Nat
  rep : Nat
  pos : Nat
  age : Nat
deriving DecidableEq, Repr

/-- A row repair whose copy runs (R373): instance, row key, spare, and the word and position that called for it. -/
structure Repair where
  inst : Nat
  row : Nat
  spare : Nat
  word : Nat
  pos : Nat
deriving DecidableEq, Repr

/-- The memory system beside its registers. A word key is instance · 2^26 + word index. `flips` holds the bits of a code word
(data, then check bits from bit 256 for DRAM and bit 64 for SRAM) whose cells differ from the code word last written
there (R379). Poison and suspect entries are keyed by
their slot; `spares` gives the row that a used spare replaces, keyed by 512 · channel + 32 · bank + spare for DRAM (R386)
and by 2^20 + 4 · instance + spare for SRAM. `repairs` lists the copies running. The fill in progress began at `fillBase`, writes
`fillPat`, has reached `fillNext` and ends at `fillEnd`. `bwRd` and `bwWr` count the code words of
the present bandwidth window (R386). -/
structure MemSt where
  fills : List Fill
  flips : Tbl Nat
  poison : Tbl Nat
  suspects : Tbl Suspect
  suspAge : Nat
  spares : Tbl Nat
  repairs : List Repair
  fillBase : Nat
  fillPat : BitVec 64
  fillNext : Nat
  fillEnd : Nat
  bwRd : Nat
  bwWr : Nat
deriving DecidableEq, Repr

/-! ## Cores: the 256 engines and the supervisor (R237, R548) -/

/-- One core. Engine CLc.Ee is core 16c + e, the supervisor is core 256. General registers g0 to g15, vector lanes
(8 · register + lane) and accumulator lanes are tables whose unlisted keys read 0. `ipend` holds the latched interrupt
sources of R244; `mbox` the receive mailbox; `mbDrop` the sender's sticky DROP and `mbDropped` the messages dropped at this
mailbox (R250); `faultTicks` the ticks of the faults that FAULT_WIN still holds (R263); `dirty` the coefficient-port groups
written without a commit request (R262), coded page base + group; `stalled` a store stalled under R260, or an access of the supervisor that waits for the
cascade peer; `dbg` a
stop at the debugger (R241); `restart` a fault since the last start (R264); `migrFrom` the retired engines whose targets it took over since (R265), and `moved` that
this retired engine's duty has gone to another;
`dmaIrq` the channels (4 · cluster + channel) whose completion it has not read, and `cpIrq` the pages of owned targets with a
commit applied or discarded and not read (R244). -/
structure Core where
  g : Tbl Word
  v : Tbl (BitVec 16)
  acc : Tbl (BitVec 48)
  pc : Word
  sr : Word
  tsr : Word
  tpc : Word
  tcode : Word
  taddr : Word
  tbase : Word
  imask : Word
  ipend : Word
  taskPerm : Word
  winBase : Word
  winLimit : Word
  timer : Word
  mbox : List (BitVec 64)
  mbDrop : Bool
  mbDropped : Nat
  faultTicks : List Nat
  dirty : List Nat
  stalled : Bool
  dbg : Bool
  restart : Bool
  migrFrom : List Nat
  moved : Bool
  dmaIrq : List Nat
  cpIrq : List Nat
deriving DecidableEq, Repr

/-- A core in the state in which it leaves OFF (R236), its mailbox empty. The control registers that R236 does not name hold 0
(DESIGN CHOICE, log entry 2). -/
def Core.init : Core :=
  { g := [], v := [], acc := [], pc := 0, sr := 1, tsr := 0, tpc := 0, tcode := 0, taddr := 0, tbase := 0x200, imask := 0,
    ipend := 0, taskPerm := 0, winBase := 0, winLimit := 0, timer := 0, mbox := [], mbDrop := false, mbDropped := 0,
    faultTicks := [], dirty := [], stalled := false, dbg := false, restart := false, migrFrom := [], moved := false, dmaIrq := [],
    cpIrq := [] }

/-- A sample that a performance counter owes (R272): counter, PC of the causing instruction, engine, level, event code
and data address. -/
structure Sample where
  k : Nat
  pc : Word
  engine : Nat
  level : Nat
  code : Nat
  addr : Word
deriving DecidableEq, Repr

/-- A DMA channel at work (R251 to R254): the core that started it, whether at task level, the descriptor's offset,
whether a cancel is pending, and whether a reset of its cluster has cut it off (R267). -/
structure DmaCh where
  core : Nat
  task : Bool
  desc : Nat
  cancel : Bool
  cut : Bool
deriving DecidableEq, Repr

/-- The snapshot that a tap port makes (R255 to R257): TAP_CTRL as TAP_GO found it, the lane's commit-point count at the reference instant once that
has come, samples of the frame in progress that lie before it, and the point's samples from it on. -/
structure TapRun where
  ctrl : Nat
  ref : Option Nat
  skip : Nat
  words : List (BitVec 32)
deriving DecidableEq, Repr

/-- A cluster beside its registers: the tap port's registers (R256, R257), requester and snapshot, the supervisor mailbox (R249),
the DMA channels at work, the targets whose SERVE_HOLD runs (R233), the targets whose loss of a retired owner set SUSP (R266), the targets whose borrowed owner ceased to count here (`lapsed`, R232),
the cluster window's MB_W0 words, the samples owed and the events counted toward each counter's next sample (R272),
and the 8-byte units that crossed each port in the present bandwidth window (R274). -/
structure Clu where
  tapCtrl : Word
  tapDst : Word
  tapStat : Word
  tapCore : Nat
  tapRun : TapRun
  supMb : List (BitVec 64)
  dma : Tbl DmaCh
  holdRun : List Nat
  susp : List Nat
  lapsed : List Nat
  mbW0 : Tbl Word
  due : List Sample
  tally : Tbl Nat
  bw : Tbl Nat
deriving DecidableEq, Repr

/-- A cluster at reset. -/
def Clu.init : Clu :=
  { tapCtrl := 0, tapDst := 0, tapStat := 0, tapCore := 0, tapRun := ⟨0, none, 0, []⟩, supMb := [], dma := [], holdRun := [], susp := [], lapsed := [], mbW0 := [],
    due := [], tally := [], bw := [] }

/-! ## Lanes (R45 to R229) -/

/-- A symbol as the detector leaves it: resampler output and equalised sample in EU, and the decided level index (R55 to R58). -/
structure RxSym where
  x : Rat
  y : Rat
  d : Nat
deriving DecidableEq, Repr

/-- What the detector decided over one window at one level (R66, R178): how many decisions, the sum and the sum of squares of the detector's input
in EU, and the sum of the squared slicer errors. -/
structure LvlAcc where
  n : Nat
  sum : Rat
  sq : Rat
  err : Rat
deriving DecidableEq, Repr

/-- The receive stages 3 to 8 of R16, between samples. `taken` counts the samples since lane start, so that after a commit point it is the index H of R125; `gained` holds the samples that
the skew filter still needs, with their slices, and `skewed` those that the bandwidth filter needs, latest first. Of the DC stage: the estimate, and the
sum, count and phase of the datapath cycle in progress. `buf` holds the samples that the resampler has not left, `nco` its position beyond the first of
them in 2^-30 samples, and `xs` its latest 41 outputs, latest first. Of the timing loop: its frequency in units of 0.001 ppm, whether it has run into ±300 ppm,
the samples of the 16 µs window in progress and the frequency at the ends of the last five windows, latest first (R53). Of the detector: the
slicer's previous decision, metric and survivor (latest first) of each of the 16 states, the symbols that wait for their decision (`d` the
slicer's) and the two decided last. `lvl` and `lvlN` are the SNR window in progress and `lvlDone` the windows that ended; `adcSq`, `adcClip`, `adcN` and
`adcDone` are those of ADC_MON (R76). -/
structure RxPipe where
  taken : Nat
  gained : List (Nat × Rat)
  skewed : List (Nat × Rat)
  dc : Rat
  dcSum : Rat
  dcN : Nat
  dcPh : Nat
  buf : List Rat
  nco : Nat
  xs : List Rat
  freq : Rat
  limit : Bool
  trN : Nat
  trWin : List Rat
  prev : Nat
  paths : List (Rat × List Nat)
  wait : List RxSym
  last : List RxSym
  lvl : List LvlAcc
  lvlN : Nat
  lvlDone : List (List LvlAcc)
  adcSq : Nat
  adcClip : Nat
  adcN : Nat
  adcDone : List (Nat × Nat)
deriving DecidableEq, Repr

/-- The receive stages as a lane starts (R52, R53). -/
def RxPipe.init : RxPipe :=
  { taken := 0, gained := [], skewed := [], dc := 0, dcSum := 0, dcN := 0, dcPh := 0, buf := [], nco := 0, xs := [], freq := 0, limit := false,
    trN := 0, trWin := [], prev := 0, paths := List.replicate 16 (0, []), wait := [], last := [], lvl := List.replicate 4 ⟨0, 0, 0, 0⟩, lvlN := 0,
    lvlDone := [], adcSq := 0, adcClip := 0, adcN := 0, adcDone := [] }

/-- The inner decoder of a lane between frames (R158 to R160): the unit number, modulo 12, of the next unit received; the last 2,912 units received with
their soft bits; the information blocks of the word decoded last; whether the stream of decoded bits has begun at a frame of the link partner;
and the decoded bits that no outer code word has taken yet (R166). -/
structure InnerDec where
  unit : Nat
  units : List (BitVec 16 × BitVec 80)
  word : List (BitVec 16)
  begun : Bool
  bits : List Bool
deriving DecidableEq, Repr

/-- An inner decoder without history. -/
def InnerDec.init : InnerDec := { unit := 0, units := [], word := [], begun := false, bits := [] }

/-- A line receive lane beside its page: consecutive SNR windows below SNR_LOSS (R66), the polarity taken at lane start (R72), the
working resampler table (R54; empty while it is the ROM default) and, as a bit mask, the words of the staging copy written since
cold reset; its stages and its inner decoder. -/
structure LrxSt where
  low : Nat
  pol : Bool
  table : Tbl Word
  written : Nat
  pipe : RxPipe
  dec : InnerDec
deriving DecidableEq, Repr

/-- A receive lane that has not started. -/
def LrxSt.init : LrxSt := { low := 0, pol := false, table := [], written := 0, pipe := RxPipe.init, dec := InnerDec.init }

/-- A remote transmit request that was accepted (R107 to R111): its cell's TAG, LTX.FRAME_CNT at its receipt, the code, the
argument in the layout of REM_STAT.LAST_ARG, and, once its commit point has come, whether it was applied and that point's
frame count. -/
structure RemReq where
  tag : Nat
  frame : Nat
  code : Nat
  arg : Nat
  result : Option (Bool × Nat)
deriving DecidableEq, Repr

/-- The inner encoder and the shaping of a transmit lane between frames (R87 to R89, R158, R159, R166): the bits that the outer code delivered and
no frame has taken, the information blocks of the last Marl word, the last 2,904 units that entered the interleaver, the frames sent since lane start, the
level indices of the last four symbols, latest first, RDI of the frame being sent, and what the DAC converted in the frame last sent: slice and code of each symbol. -/
structure TxEnc where
  bits : List Bool
  word : List (BitVec 16)
  units : List (BitVec 16)
  frames : Nat
  levels : List Nat
  rdi : Bool
  out : List (Nat × Int)
deriving DecidableEq, Repr

/-- An encoder at lane start. -/
def TxEnc.init : TxEnc := { bits := [], word := [], units := [], frames := 0, levels := [], rdi := true, out := [] }

/-- A line transmit lane beside its page: the stop waiting for the next frame boundary (R99), SQ_HOLD elapsed (R99), what was taken at
lane start (polarity, PAT, SKEW_C: R87, R104, R96), the position of the fine-skew interpolator (R97) and the remote request
accepted and not yet answered (R111). -/
structure LtxSt where
  stop : Bool
  sq : Bool
  pol : Bool
  pat : Nat
  skewC : Nat
  skew : Nat
  rem : Option RemReq
  enc : TxEnc
deriving DecidableEq, Repr

/-- A transmit lane that has not started. -/
def LtxSt.init : LtxSt :=
  { stop := false, sq := false, pol := false, pat := 0, skewC := 0, skew := 0, rem := none, enc := TxEnc.init }

/-- Frame lock of a receive lane (R162, R163): FAW misses in a row, FAWs matched in CONFIRM, and whether a header has passed its
CRC since frame lock. -/
structure IfecSt where
  miss : Nat
  hits : Nat
  hdr : Bool
deriving DecidableEq, Repr

/-- A port beside its registers: whether it runs, ITER and the loopback taken at enable (R160, R221, R291), its frame count, the frames
since HOST_UP changed (R172), the clean frames toward clearing SKEW_ERR and MISMATCH (R169), the corrected symbols of the
present degrade interval (R176), clean alignment-marker periods toward clearing HSKEW_ERR (R217), and a loopback change the
partner asked for that waits for the frame boundary; the code words of the degrade interval so far and its parameters in force (DEG_INT,
DEG_ACT, DEG_DEACT: R176, R192), and the RS symbols of the code word last sent toward the host (R171, R173). -/
structure PortSt where
  run : Bool
  iter : Nat
  lb : Nat
  frames : Nat
  hostAge : Nat
  skewOk : Nat
  misOk : Nat
  degSym : Nat
  hskewOk : Nat
  lbPend : Option Nat
  degCw : Nat
  degCfg : Nat × Nat × Nat
  toHost : List (BitVec 10)
deriving DecidableEq, Repr

/-- A port that has not started. -/
def PortSt.init : PortSt :=
  { run := false, iter := 4, lb := 0, frames := 0, hostAge := 0, skewOk := 0, misOk := 0, degSym := 0, hskewOk := 0, lbPend := none, degCw := 0,
    degCfg := (16, 5000, 2500), toHost := [] }

/-- A host lane beside its page: SNR windows below SNR_LOSS in a row (R211), what was taken at lane start (NEAR, the patterns and the
polarities: R221, R222, R203), and a transmit stop waiting for the next transmit commit point (R209). Of the transmitter: the symbols sent since lane
start, the level indices of the last four, and what the FIR made of the code word last sent (R206). -/
structure HslSt where
  low : Nat
  near : Bool
  txPat : Nat
  chkPat : Nat
  rxPol : Bool
  txPol : Bool
  stop : Bool
  syms : Nat
  past : List Nat
  out : List Rat
deriving DecidableEq, Repr

/-- A host lane at reset. -/
def HslSt.init : HslSt :=
  { low := 0, near := false, txPat := 0, chkPat := 0, rxPol := false, txPol := false, stop := false, syms := 0, past := [], out := [] }

/-! ## Calibration (R121 to R155) -/

/-- A calibration unit beside its registers. `last` gives, by slice, the order of its last accepted calibration (R122);
`suspect` and `revisit` are masks of slices; `dis` counts each slice's disagreeing visits in a row (R134). Of the visit in progress:
its sequence number, whether it is a spare visit, the parameters measured now (bits 0 offset, 1 gain, 2 skew, 3 bandwidth) and those
accepted with their values, those that disagreed, the passes done, which parameters missed the reference-check limits in pass A
and in pass B of the present pair, and whether both passes of a pair did (R133). `wait` is what waits for a commit point: 1 the
hand-over, 2 RETURN, 3 the end of an abandoned visit, 4 a RETURN just applied. `quiet` is 1 while a quiet-window request is to
be sent, 2 while its grant is awaited and 3 once granted (R144). `retireCmd` are the slices that commands retire once they have
left service (R136), in order. `ref` is the gain trim that the unit's reference block follows and `rot` the slices visited in the present rotation (R149). `mean` and `rms` count flagged windows by position (R137). -/
structure CalSt where
  last : Tbl Nat
  order : Nat
  suspect : Nat
  revisit : Nat
  dis : Tbl Nat
  seq : Nat
  spareVisit : Bool
  todo : Nat
  acc : Tbl Nat
  bad : Nat
  passes : Nat
  failA : Nat
  failB : Nat
  dead : Bool
  wait : Nat
  held : Bool
  retireCmd : List Nat
  ref : Int
  rot : Nat
  mean : Tbl Nat
  rms : Tbl Nat
  quiet : Nat
deriving DecidableEq, Repr

/-- A calibration unit at reset. -/
def CalSt.init : CalSt :=
  { last := [], order := 0, suspect := 0, revisit := 0, dis := [], seq := 0, spareVisit := false, todo := 0, acc := [], bad := 0,
    passes := 0, failA := 0, failB := 0, dead := false, wait := 0, held := false, retireCmd := [], ref := 0, rot := 0,
    mean := [], rms := [], quiet := 0 }

/-! ## Commit requests (R30 to R33, R59, R60) -/

/-- A commit request accepted and not yet applied: the lane direction's page, the groups named, the values that the groups'
boundary-applied registers held at acceptance, the engine that wrote COMMIT through its coefficient port, and its origin: 1 a
remote transmit request (R111), 2 a calibration RETURN (R124), 0 any other. -/
structure CommitReq where
  page : Nat
  groups : Nat
  vals : Tbl Word
  core : Option Nat
  src : Nat
deriving DecidableEq, Repr

/-! ## Partner channel and dawn channel (R283 to R323) -/

/-- A response to a remote transmit request whose code is known (R109, R111): TAG, response code, request code, argument in the layout of
REM_STAT.LAST_ARG, FRAME, and whether REM_STAT shows it already (R120). -/
structure Rsp where
  tag : Nat
  code : Nat
  req : Nat
  arg : Nat
  frame : Nat
  shown : Bool
deriving DecidableEq, Repr

/-- A request of this device that awaits its response (R290, R291): TAG, payload, the resends made, and whether its cell is still to be
sent. -/
structure Ask where
  tag : Nat
  payload : Nat
  tries : Nat
  due : Bool
deriving DecidableEq, Repr

/-- An RRSP or RLBRSP to be sent: TYPE, TAG, payload, and the loopback mode that the port takes once it has left (R295, R297). -/
structure Reply where
  type : Nat
  tag : Nat
  payload : Nat
  act : Option Nat
deriving DecidableEq, Repr

/-- The assembly of a received cell (R283, R285): the place in its cell of the next header, if known; 0 while no cell is assembled, 1 while every header
of it has passed its CRC, 2 once one has failed; the bits so far and the time counter as its first frame arrived (R334); and the cell that ended last
and has not been looked at: missing, or its 128 bits, with that arrival. -/
structure Assembly where
  pos : Option Nat
  st : Nat
  bits : Nat
  began : Nat
  done : Option (Option Nat)
  doneAt : Nat
deriving DecidableEq, Repr

/-- Before the first cell start. -/
def Assembly.init : Assembly := { pos := none, st := 0, bits := 0, began := 0, done := none, doneAt := 0 }

/-- A partner channel beside its page. `txSeq` is the next SEQ to send; `rxSeq` the last accepted, `first` while none has been since
alignment (R286); `reqTag` the TAG last chosen for a request; `identAge` the cells since the last IDENT. `rsp` and `replies` wait to be sent;
`qreq` is a quiet-window request to be granted, with its frames, and `window` a window granted: the frame count at which it opens
and its frames (R288). `rr`, `rlb` and `tx` are the requests awaiting a response; `fwTx` and `fwRx` the firmware queues (TYPE, TAG, payload);
`serve` the read being made for the partner (TAG, address, COUNT2, SNAP) and `order` its place among the lanes' reads (R294). `last` is the request last answered: its TYPE and TAG, and the
response sent (R290). `leaving` is the loopback mode that takes effect once the cell now being sent has left; `sent` the cell sent in the
present slot, which began at the frame count `slot`; `pend` the identity that PEND counts (R298); `asm` the cell being received. -/
structure PartSt where
  txSeq : Nat
  rxSeq : Nat
  first : Bool
  reqTag : Nat
  identAge : Option Nat
  rsp : List Rsp
  qreq : Option Nat
  window : Option (Nat × Nat)
  replies : List Reply
  rr : Option Ask
  rlb : Option Ask
  tx : Option Ask
  fwTx : List (Nat × Nat × Nat)
  fwRx : List (Nat × Nat × Nat)
  serve : Option (Nat × Word × Bool × Bool)
  order : Nat
  last : Option (Nat × Nat × Reply)
  leaving : Option Nat
  sent : BitVec 128
  slot : Option Nat
  pend : Nat
  asm : Assembly
deriving DecidableEq, Repr

/-- A partner channel at reset. -/
def PartSt.init : PartSt :=
  { txSeq := 0, rxSeq := 0, first := true, reqTag := 0, identAge := none, rsp := [], qreq := none, window := none, replies := [],
    rr := none, rlb := none, tx := none, fwTx := [], fwRx := [], serve := none, order := 0, last := none, leaving := none, sent := 0, slot := none,
    pend := 0, asm := Assembly.init }

/-- A dawn packet received (R310). -/
structure DawnPkt where
  type : Nat
  len : Nat
  seq : Nat
  src : BitVec 64
  rate : Nat
  metric : Nat
  ns : Word
  payload : List Byte
deriving DecidableEq, Repr

/-- A candidate (R308, R309): rate code, metric in units of 0.25 dB, and the gain at which the AGC would freeze. -/
structure DawnCand where
  rate : Nat
  metric : Nat
  gain : Nat
deriving DecidableEq, Repr

/-- A dawn packet to be sent (R301, R303): TYPE, LEN, rate, payload, whether it repeats the previous SEQ, and whether it is being sent
or waits. -/
structure DawnTx where
  type : Nat
  len : Nat
  rate : Nat
  payload : List Byte
  again : Bool
  sending : Bool
deriving DecidableEq, Repr

/-- A dawn channel beside its page: the header of the reception in progress with its metric and the time at the end of its sync
word; the candidate (R309) with its metric and the shadow AGC's value; the receive queue; of the two most recent sources, latest first, the SEQ and tick last delivered (R304); the packet to
send; the next SEQ; a HELLO due; and the bytes of the packet last put on the fibre, its preamble first. -/
structure DawnSt where
  rx : DawnPkt
  cand : Option DawnCand
  queue : List DawnPkt
  srcs : List (BitVec 64 × Nat × Nat)
  tx : Option DawnTx
  seq : Nat
  hello : Bool
  sent : List Byte
deriving DecidableEq, Repr

/-- A dawn channel at reset. -/
def DawnSt.init : DawnSt :=
  { rx := ⟨0, 0, 0, 0, 0, 0, 0, []⟩, cand := none, queue := [], srcs := [], tx := none, seq := 0, hello := false, sent := [] }

/-! ## Capture, replay, trace port (R390 to R411) -/

/-- The index record of the frame in progress (R391): its number, the record's words 1 and 2 and the data offset. -/
structure CapRec where
  frame : Nat
  ns : Word
  w2 : Nat
  ofs : Nat
deriving DecidableEq, Repr

/-- A checkpoint taken (R395): its slot and frame, the stepping it names, and the lane's state: the registers in force, polarity, working resampler
table, the slice of each position, whether the DC estimate was frozen, ITER, frame lock, the stages and the inner decoder. -/
structure Ckpt where
  slot : Nat
  frame : Nat
  step : Nat
  inForce : Tbl Word
  pol : Bool
  table : Tbl Word
  map : List Nat
  frozen : Bool
  iter : Nat
  locked : Bool
  pipe : RxPipe
  dec : InnerDec
deriving DecidableEq, Repr

/-- Capture beside its page. `start` waits for the commit point at which a new recording begins; `cfg` is the configuration that the recording
took, by register offset; `cur` the record of the frame in progress, `frames` the records written, `dofs` and `logs` the next data offset
and the log entries written, `gap` frames missing since the last record, `gapAt` the last record with GAP, `post` the frames written from T,
`trig` the causes detected for the next commit point, `uncorr` the uncorrectable code words of the frame in progress, `ckpts` the
checkpoints by slot, `snr` the previous SNR window of each lane. -/
structure CapSt where
  start : Bool
  cfg : Tbl Word
  cur : Option CapRec
  frames : Nat
  dofs : Nat
  logs : Nat
  gap : Bool
  gapAt : Option Nat
  post : Nat
  trig : Nat
  uncorr : Nat
  ckpts : List Ckpt
  snr : Tbl Nat
deriving DecidableEq, Repr

/-- The replay datapath beside its page (R397, R399): the next frame, the replica's coefficient registers (shadow bank and in force, by page
offset), its waiting commit groups, an abort that waits for the next frame (R441), the checkpoint that it started from with its stages as they have
run on, and alignment words missed and matched in a row (R162). -/
structure RplSt where
  frame : Nat
  shadow : Tbl Word
  inForce : Tbl Word
  groups : Nat
  stop : Bool
  lane : Option Ckpt
  miss : Nat
  hits : Nat
deriving DecidableEq, Repr

/-- The trace port beside its page: bytes exported, the next SEQ of each stream, a cancel that waits for the packet in progress, the last packet
sent, each lane's bit and word slips (R404), and of the four data lanes the running disparity, the slots since a marker was last due, and the code groups of
that packet (R402); `rx` the word slots received on each lane (R404). -/
structure TrcSt where
  ofs : Nat
  seq : Tbl Nat
  cancel : Bool
  sent : List Byte
  slips : Tbl Nat
  wslips : Tbl Nat
  rd : List Bool
  slots : Nat
  line : List (List (BitVec 10))
  rx : Tbl Nat
deriving DecidableEq, Repr

/-! ## Time (R324 to R346) -/

/-- A steering action that takes effect at the next tick (R325, R326). -/
inductive TickOp where
  | set (wraps ns : Nat)
  | step (d : Int)
  | incr (v : Nat)
deriving DecidableEq, Repr

/-- The exchange of one lane (R335, R336): the cells since a TT_A slot was last asked for, whether one is asked for, the TAG of the latest TT_A, its T1 (as a
counter value), whether an answer is awaited, the TT_A waiting to be answered (its TAG and T2), and the node and quality that the partner's
latest TT_A carried. -/
structure TtSt where
  cells : Nat
  want : Bool
  tag : Nat
  t1 : Nat
  awaiting : Bool
  answer : Option (Nat × Nat)
  peer : Option (Nat × Nat)
deriving DecidableEq, Repr

/-- A lane that has exchanged nothing. -/
def TtSt.init : TtSt := { cells := 0, want := false, tag := 0, t1 := 0, awaiting := false, answer := none, peer := none }

/-- The time island beside its registers. `now` is the 80-bit counter WRAPS : NOW_NS : NOW_FRAC (R324); `fracW` the last
INCR_FRAC written (R325); `sleep` the 48-bit sleep counter and `ring` whether any part of the interval was counted on the
ring oscillator (R345, R346); `asleep` a clock-stop interval in progress; `ppsEnd` the tick at which the PPS_OUT pulse ends (R341) and `holdAt` that at which the
holdover timer last started (R330); `todArm` a PPS_OUT edge after which the time-of-day UART has not sent yet and `todSent` the bytes it last
sent (R343); `tt` the exchange of each lane; `tell` a steering operation applied whose TIME frame the master of a cascade has not sent (R344). -/
structure TimeSt where
  now : Nat
  running : Bool
  asleep : Bool
  ops : List TickOp
  fracW : Word
  sleep : Nat
  ring : Bool
  ppsOut : Bool
  ppsEnd : Nat
  holdAt : Nat
  todArm : Bool
  todTx : List Byte
  todRx : List Byte
  todSent : List Byte
  tt : Tbl TtSt
  tell : Bool
deriving DecidableEq, Repr

/-! ## Power, resets and start-up (R457 to R503, R547 to R588) -/

/-- Power and resets beside their registers. `hold` is a cold reset in progress (R468). `phase` is the phase of the entry in progress
(R473; 0 none) and `night` its target; `latch` the wake latch with its first source (R474, R480);
`late` a source latched between AP3 and the state's being reached (R475); `pads` the held pads: for CD0 to CD15 the span and code driven (2^14 · span + code), for keys 16 to 19 the level of PWM0 to PWM3 (R478);
`groups` the groups being reset (R470) and `warm` a warm reset in progress (R468). -/
structure PwrSt where
  hold : Bool
  phase : Nat
  night : Bool
  latch : Nat
  first : Option Nat
  late : Bool
  pads : Tbl Nat
  groups : List Nat
  warm : Bool
deriving DecidableEq, Repr

/-- A fuse write in progress (R575): a life-cycle target, a security version, or a row repair (instance and row key). -/
inductive FuseOp where
  | lcs (target : Nat)
  | secver (v : Nat)
  | repair (inst row spare : Nat)
deriving DecidableEq, Repr

/-- The flash (R554, R557): the boot record in force (ACTIVE, TRIAL, PREV, SEQ), the cold-boot count, the format version of the
settings store, the row repairs of the health record (instance and a word of the row, R375), and the containers that banks A and B hold, from byte 0 (empty where a bank holds none). -/
structure FlashSt where
  active : Nat
  trial : Bool
  prev : Nat
  seq : Nat
  coldBoots : Nat
  setVer : Nat
  bgTrim : Option Word
  repairs : Tbl Nat
  bankA : List Byte
  bankB : List Byte
deriving DecidableEq, Repr

/-- Start-up, firmware and life cycle beside their registers. BOOT_SEL and PRTAD as strapped (R550, R426); the flash; the working area that
the hand-off block names (R552; none while the block does not pass its CRC); the running image's SETTINGS_VER, kept from a cold start until
the settings store is read (R557); the rows repaired by fuse (R576; the
keys of MemSt.spares); watchdog expiries in a row (R549); the device's private key as fused (R571; 0 none); the supervisor's MPU regions (R548; key 4 · region, plus 0 base,
1 limit, 2 attributes); the fuse write and the self-test in progress (TEST, TARGET). -/
structure BootSt where
  bootSel : Bool
  prtad : Nat
  flash : FlashSt
  work : Option Nat
  settings : Option Nat
  fused : Tbl Nat
  wdRun : Nat
  key : Nat
  mpu : Tbl Word
  fuse : Option FuseOp
  bist : Option (Nat × Nat)
deriving DecidableEq, Repr

/-- What a load fills (R241): a general register, sign-extended or not, a register pair, or a vector register. -/
inductive LoadDst where
  | one (g : Nat) (signed : Bool)
  | pair (g : Nat)
  | vec (v : Nat)
deriving DecidableEq, Repr

/-- A load or store of the supervisor on the cascade peer, which takes one forwarded transaction after another (R548, R570): what a load fills
and from which byte addresses, the words still to be read or written, and the words read. -/
structure SupAcc where
  dst : Option (LoadDst × List Nat)
  todo : List (Nat × Option Word)
  got : List (Nat × Nat)
deriving DecidableEq, Repr

/-- A forwarded transaction that awaits its RSP (R570): TAG, who issued it, its address, whether it reads, and the load or store of the
supervisor that it belongs to. -/
structure Fwd where
  tag : Nat
  req : Requester
  addr : Word
  read : Bool
  acc : Option SupAcc
deriving DecidableEq, Repr

/-- The cascade link beside its page (R567 to R570): the next SEQ to send and the next expected, frames not acknowledged (oldest first) and
waiting for credit, resends since progress, the peer's CREDIT, HELLO sent and received, forwarded transactions outstanding, the next
TAG, the bytes that LOAD frames have written, the peer's cold-boot count as its last HELLO gave it and as it was at the last load, the TAG of a load that waits for the slave's READY
(on a slave: of the GO that it has to answer), the interrupt levels last sent in an EVT frame, the frames sent since the last
idle step, and the increment and QUALITY that the last TIME frame told. -/
structure CascSt where
  txSeq : Nat
  rxSeq : Nat
  unacked : List CFrame
  waiting : List CFrame
  resends : Nat
  credit : Nat
  helloTx : Bool
  helloRx : Bool
  fwds : List Fwd
  tag : Nat
  loaded : Nat
  peerBoots : Option Nat
  lastLoad : Option Nat
  loading : Option Nat
  shown : Nat
  sent : List CFrame
  told : Nat × Nat
deriving DecidableEq, Repr

/-! ## Housekeeping (R504 to R546) -/

/-- A result being formed (R508, R517): codes summed, conversions started and done, limited, the time tag and flags of the first conversion. -/
structure HkRes where
  sum : Nat
  started : Nat
  done : Nat
  clip : Bool
  ns : Word
  noclk : Bool
  bo : Bool
  refNs : Bool
  pre : Bool
  late : Bool
deriving DecidableEq, Repr

/-- Housekeeping beside its pages. `busy` gives, by sub-converter, what it converts: 0 to 31 a sequence entry, 32 the urgent request, 33 a
calibration, 34 a reference (R520); `res` the results being formed, by the same numbers; `urg` the urgent request held; `late` the sequence in progress was
held (R512); `gap1` the first slot of the gap is still to come (R518); `queue` the results (R516) and `full` a drop since the queue
was last not full; `staged` the corrections that wait for the gap, `trims` CD_TRIM and BG_TRIM in force, by address (R518, R519);
`stop` the sequence ends with the conversions started (R510). -/
structure HkSt where
  busy : Tbl Nat
  res : Tbl HkRes
  urg : Option Word
  late : Bool
  gap1 : Bool
  queue : List (Word × Word)
  full : Bool
  staged : Tbl Word
  trims : Tbl Word
  stop : Bool
deriving DecidableEq, Repr

/-- A control DAC channel beside its registers (R521 to R526): queued codes, the target, and whether it ends (EN cleared, or its page
disabled), playing the queue out first if `play`. -/
structure CdSt where
  queue : List Nat
  target : Nat
  ending : Bool
  play : Bool
deriving DecidableEq, Repr

/-- A PWM output beside its registers (R528 to R532): PER and DUTY in force and the pair that waits for the period boundary, DMAX, DEAD,
TRIG_CNT, polarity and pairing in force, and a stop that waits for the boundary (R533). -/
structure PwSt where
  per : Nat
  duty : Nat
  next : Option (Nat × Nat)
  dmax : Nat
  dead : Nat
  trig : Nat
  pol : Bool
  pair : Bool
  stop : Bool
deriving DecidableEq, Repr

/-! ## The state -/

/-- The state of one Z832. -/
structure State where
  /-- The commands waiting, first in first out. -/
  pending : List Instr
  /-- The fused variant (R2): 0 Z832, 1 Z816, 2 Z432, 3 Z416. -/
  variant : Nat
  /-- CASC_ROLE strapped low: this device is a cascade slave (R550). -/
  slave : Bool
  /-- Registers by device address; one that is unlisted holds its reset value. -/
  regs : Tbl Word
  /-- The values in force of boundary-applied registers (R31). -/
  inForce : Tbl Word
  /-- Copies latched by SNAP, by register address (R417). -/
  latched : Tbl Word
  /-- Live counters wider than a register, or latched ones, by the address of their lowest register. -/
  live : Tbl Nat
  /-- Memory: device addresses and bytes, strictly rising, none equal to what an unlisted address reads as. -/
  mem : List Host.Cell
  ms : MemSt
  cores : Tbl Core
  clus : Tbl Clu
  supState : Nat
  lrx : Tbl LrxSt
  ltx : Tbl LtxSt
  ifec : Tbl IfecSt
  port : Tbl PortSt
  hsl : Tbl HslSt
  cal : Tbl CalSt
  part : Tbl PartSt
  dawn : Tbl DawnSt
  cap : CapSt
  rpl : RplSt
  trc : TrcSt
  pwr : PwrSt
  boot : BootSt
  casc : CascSt
  hk : HkSt
  cd : Tbl CdSt
  pw : Tbl PwSt
  /-- Lane PLLs that have lost lock: bit n for LRX[n], bit 8 + n for LTX[n] (R461). -/
  unlocked : Nat
  commits : List CommitReq
  marks : Tbl Nat
  log : LogSt
  gathers : Tbl Gather
  /-- A supervisor gather issued at the 10 ms limit, its trap held to the next system-bus access (R628): its address. -/
  supHeld : Option Nat
  spi : SpiSt
  mdio : MdioSt
  /-- The status of the RSP that a forwarding master's frame gets, by master code; a failure at the 10 ms limit waits here for the next
  frame (R628). -/
  cascStatus : Tbl Nat
  resp : Tbl Nat
  /-- True-order ticks of the 625 MHz clock since cold reset (R433). -/
  tick : Nat
  /-- The tick at which each running interval began, by timer (R330 to R620). -/
  clock : Tbl Nat
  time : TimeSt
  /-- The tick at which the latest proposal was submitted, and its family and mask as they stood then (R444; DEDUCED, log
  entry 10). -/
  propTick : Nat
  propFam : Nat
  propMask : Word
  /-- The highest boot stage reached since cold reset, which decides the islands out of reset (R551). -/
  upStage : Nat
  /-- The model's own: how many free values a run has met (log entry 1). -/
  free : Nat
deriving DecidableEq, Repr

/-- The state right after a cold reset of a Z832 with CASC_ROLE strapped high. -/
def State.reset : State :=
  { pending := [], variant := 0, slave := false, regs := [], inForce := [], latched := [], live := [], mem := [],
    ms := ⟨[], [], [], [], 0, [], [], 0, 0, 0, 0, 0, 0⟩, cores := [], clus := [], supState := 1, lrx := [], ltx := [], ifec := [], port := [], hsl := [], cal := [], part := [], dawn := [],
    cap := ⟨false, [], none, 0, 0, 0, false, none, 0, 0, 0, [], []⟩, rpl := ⟨0, [], [], 0, false, none, 0, 0⟩, trc := ⟨0, [], false, [], [], [], [false, false, false, false], 0, [], []⟩, unlocked := 0,
    pwr := ⟨false, 0, false, 0, none, false, [], [], false⟩, boot := ⟨false, 0, ⟨0, false, 0, 0, 0, 0, none, [], [], []⟩, none, none, [], 0, 0, [], none, none⟩,
    casc := ⟨0, 0, [], [], 0, 0, false, false, [], 0, 0, none, none, none, 0, [], (0, 0)⟩, hk := ⟨[], [], none, false, false, [], false, [], [], false⟩, cd := [], pw := [], commits := [], marks := [],
    log := ⟨[], [], [], 0, 0, false⟩, gathers := [], supHeld := none, spi := ⟨false, 0, none, none, [], [], []⟩,
    mdio := ⟨0, 0, 0, 0, 0, false, false, none, none, 0⟩, cascStatus := [], resp := [], tick := 0, clock := [],
    time := ⟨0, false, false, [], 0x9999999A, 0, false, false, 0, 0, false, [], [], [], [], false⟩, propTick := 0, propFam := 0, propMask := 0, upStage := 0, free := 0 }

end Sys2Proof.Machine
end

