-- ==== Sys2Proof/Machine/Ops.lean ====
section
/-! DEFINITION. The named operations over the state: registers and their fields, free values, who a requester is, which
parts of the die a variant has, raising events and handing occurrences to the log. -/

namespace Sys2Proof.Machine

/-! ## Registers -/

/-- The value a register holds. -/
def State.rd (s : State) (a : Nat) : Word := Tbl.get (regReset a) s.regs a

/-- The state with a register set. -/
def State.wr (s : State) (a : Nat) (w : Word) : State := { s with regs := Tbl.put (some (regReset a)) s.regs a w }

/-- The state with a register back at its reset value. -/
def State.clr (s : State) (a : Nat) : State := { s with regs := Tbl.erase s.regs a }

/-- Bits `lo` to `lo + width − 1` of a word. -/
def getBits (w : Word) (lo width : Nat) : Nat := (w.toNat >>> lo) % 2 ^ width

/-- A word with bits `lo` to `lo + width − 1` set to `v`. -/
def putBits (w : Word) (lo width v : Nat) : Word :=
  let m : Word := BitVec.ofNat 32 ((2 ^ width - 1) * 2 ^ lo)
  (w &&& ~~~m) ||| (BitVec.ofNat 32 ((v % 2 ^ width) * 2 ^ lo))

/-- A signed field: the two's complement value of the low `width` bits of `n`. -/
def sx (width n : Nat) : Int :=
  if n % 2 ^ width < 2 ^ (width - 1) then (n % 2 ^ width : Nat) else ((n % 2 ^ width : Nat) : Int) - (2 ^ width : Nat)

/-- The code of a signed number in a field of `width` bits. -/
def unsx (width : Nat) (i : Int) : Nat := (i % (2 ^ width : Nat)).toNat

/-- Read a field of the page at base `b`. -/
def State.fld (s : State) (b : Nat) (f : Fld) : Nat := getBits (s.rd (b + f.off)) f.lo f.width

/-- Whether a field of the page at base `b` is not 0. -/
def State.bit (s : State) (b : Nat) (f : Fld) : Bool := s.fld b f != 0

/-- Set a field of the page at base `b`. -/
def State.setFld (s : State) (b : Nat) (f : Fld) (v : Nat) : State :=
  s.wr (b + f.off) (putBits (s.rd (b + f.off)) f.lo f.width v)

/-- Add to a field that saturates. -/
def State.addSat (s : State) (b : Nat) (f : Fld) (n : Nat) : State :=
  s.setFld b f (min (s.fld b f + n) (2 ^ f.width - 1))

/-- Add to a field that wraps. -/
def State.addWrap (s : State) (b : Nat) (f : Fld) (n : Nat) : State := s.setFld b f (s.fld b f + n)

/-- A whole register as a field. -/
def whole (off : Nat) : Fld := ⟨off, 0, 32⟩

/-- Bit `i` of a register as a field. -/
def bitAt (off i : Nat) : Fld := ⟨off, i, 1⟩

/-- A live counter or live value, keyed by the address of its (lowest) register. -/
def State.lv (s : State) (a : Nat) : Nat := Tbl.get 0 s.live a

/-- Set a live counter. -/
def State.setLv (s : State) (a : Nat) (n : Nat) : State := { s with live := Tbl.put (some 0) s.live a n }

/-- The next free value, and the state that has consumed it (log entry 1). -/
def State.fresh (s : State) : Nat × State := (Config.freeNat s.free, { s with free := s.free + 1 })

/-- The data delivered to a requester by its last read, keyed by master code; an engine's by 0x100 + its number. -/
def State.deliver (s : State) (k : Nat) (v : Nat) : State := { s with resp := Tbl.put (some 0) s.resp k v }

/-! ## The variants (R2, R3) -/

/-- Line lanes of the variant: 0 Z832, 1 Z816, 2 Z432, 3 Z416. -/
def State.lines (s : State) : Nat := if s.variant ≤ 1 then 8 else 4

/-- Host lanes of the variant. -/
def State.hosts (s : State) : Nat := match s.variant with | 0 => 16 | 1 => 8 | 2 => 8 | _ => 4

/-- Whether the variant runs M400. -/
def State.hasM400 (s : State) : Bool := s.variant == 0 || s.variant == 2

/-- Whether a cluster is present. -/
def State.hasCluster (s : State) (c : Nat) : Bool :=
  if s.variant ≤ 1 then decide (c < 16) else decide (c < 4) || (decide (8 ≤ c) && decide (c < 16))

/-- Bytes of DRAM. -/
def State.dramSize (s : State) : Nat := if s.variant = 0 ∨ s.variant = 2 then 0x80000000 else 0x40000000

/-- DRAM granules of 1 MiB (R362). -/
def State.granules (s : State) : Nat := s.dramSize / 0x100000

/-! ## Cores -/

/-- The supervisor's number among the cores. -/
abbrev supId : Nat := 256

/-- A core as it leaves OFF: an engine at kernel level (R236), the supervisor at privileged level (R548). -/
def coreReset (k : Nat) : Core := if k = supId then { Core.init with sr := 2 } else Core.init

/-- Core `k`. -/
def State.core (s : State) (k : Nat) : Core := Tbl.get (coreReset k) s.cores k

/-- The state with core `k` set. -/
def State.setCore (s : State) (k : Nat) (c : Core) : State := { s with cores := Tbl.put (some (coreReset k)) s.cores k c }

/-- Change core `k`. -/
def State.modCore (s : State) (k : Nat) (f : Core → Core) : State := s.setCore k (f (s.core k))

/-- Cluster `c` beside its registers. -/
def State.clu (s : State) (c : Nat) : Clu := Tbl.get Clu.init s.clus c

/-- Change cluster `c`. -/
def State.modClu (s : State) (c : Nat) (f : Clu → Clu) : State :=
  { s with clus := Tbl.put (some Clu.init) s.clus c (f (s.clu c)) }

/-- E_CTRL of engine `k`. -/
def eCtrl (k : Nat) (f : Fld) : Fld := fldAt f (4 * (k % 16))

/-- The cluster an engine counts in: its own, or HOME for an engine of CL14 or CL15 with HOME_EN 1 (R234). -/
def State.homeOf (s : State) (k : Nat) : Nat :=
  let c := k / 16
  if 14 ≤ c ∧ s.bit (pCLU c) (eCtrl k CLU.E_CTRL.HOME_EN) then s.fld (pCLU c) (eCtrl k CLU.E_CTRL.HOME) else c

/-- The state code of R235 of a core; the supervisor's is 1 RUN or 2 WAIT. -/
def State.coreState (s : State) (k : Nat) : Nat :=
  if k = supId then s.supState else s.fld (pCLU (k / 16)) (eCtrl k CLU.E_STAT.STATE)

/-! ## Intervals

Each timer of the spec is a number: kind and index. Its entry in State.clock is the tick at which its interval began. 625 ticks are 1 µs. -/

/-- The timer of a kind and an index. -/
def timer (kind i : Nat) : Nat := 512 * kind + i

/-- Since the last PPS_IN edge, or since PPS_IN_EN was set (R330). -/
abbrev clkPpsIn : Nat := timer 0 0
/-- Since the PPS_OUT edge that the time-of-day UART follows (R343). -/
abbrev clkTod : Nat := timer 1 0
/-- Since lane `n` sent its TT_A (R336). -/
abbrev clkTt (n : Nat) : Nat := timer 2 n
/-- Since the last leak of an instance's bucket (R367). -/
abbrev clkLeak (i : Nat) : Nat := timer 3 i
/-- The instant of the next scrubber visit of an instance, in ticks divided by its words (R368, R369). -/
abbrev clkVisit (i : Nat) : Nat := timer 4 i
/-- Since the pass of an instance's scrubber began (R368). -/
abbrev clkPass (i : Nat) : Nat := timer 5 i
/-- Since the last visit of a suspect entry (R372). -/
abbrev clkSuspect (k : Nat) : Nat := timer 6 k
/-- Since a master's last gathered write (R420). -/
abbrev clkGather (m : Nat) : Nat := timer 7 m
/-- The present bandwidth window of the DRAM page (R386) and of cluster `c` (R274). -/
abbrev clkDramBw : Nat := timer 8 0
abbrev clkPerfBw (c : Nat) : Nat := timer 9 c
/-- Since the replay entered its hold, the brown-out warning left out (R399). -/
abbrev clkHold : Nat := timer 10 0
/-- Since the oldest unacknowledged cascade frame was sent, and since the last EVT frame (R568, R570). -/
abbrev clkResend : Nat := timer 11 0
abbrev clkEvt : Nat := timer 12 0
/-- Since DUSK or NIGHT was reached (R480), and since RECOVER (R482). -/
abbrev clkWake : Nat := timer 13 0
abbrev clkRecover : Nat := timer 14 0
/-- The housekeeping timer, the delay after a trigger, the gap and the settling of a reference (R507 to R520). -/
abbrev clkHkTimer (t : Nat) : Nat := timer 15 t
abbrev clkHkDelay : Nat := timer 16 0
abbrev clkHkGap : Nat := timer 17 0
abbrev clkHkRef (k : Nat) : Nat := timer 18 k
/-- The update clock, slew clock, span switch and short-circuit interval of a control DAC channel (R522 to R527). -/
abbrev clkCdUpd (n : Nat) : Nat := timer 19 n
abbrev clkCdSlew (n : Nat) : Nat := timer 20 n
abbrev clkCdSwitch (n : Nat) : Nat := timer 21 n
abbrev clkCdShort (n : Nat) : Nat := timer 22 n
/-- The present period of a PWM counter, and the latest write of its DUTY (R528, R529). -/
abbrev clkPwm (n : Nat) : Nat := timer 23 n
abbrev clkDuty (n : Nat) : Nat := timer 24 n
/-- Since the supervisor last wrote WDOG (R549), since a trial began (R560), and since the cold reset ended (R551). -/
abbrev clkWdog : Nat := timer 25 0
abbrev clkTrial : Nat := timer 26 0
abbrev clkBoot : Nat := timer 27 0
/-- Since the time clock stopped (R345). -/
abbrev clkSleep : Nat := timer 28 0
/-- Since the core brown-out warning began (R400). -/
abbrev clkBo : Nat := timer 29 0

/-- The tick at which a timer's interval began. -/
def State.clockOf (s : State) (k : Nat) : Nat := Tbl.get 0 s.clock k

/-- Begin a timer's interval at a tick. -/
def State.setClock (s : State) (k t : Nat) : State := { s with clock := Tbl.put (some 0) s.clock k t }

/-- Begin a timer's interval now. -/
def State.startClock (s : State) (k : Nat) : State := s.setClock k s.tick

/-- `d` ticks of a timer's interval have passed. -/
def State.due (s : State) (k d : Nat) : Bool := decide (s.clockOf k + d ≤ s.tick)

/-! ## Requesters (R418) -/

/-- The master code of a requester. -/
def State.master (s : State) : Requester → Nat
  | .spi => 0x00 | .mdio => 0x01 | .sup => 0x02 | .supDma => 0x03 | .part => 0x04 | .cascHost => 0x05 | .cascSup => 0x06
  | .engine c e => 0x10 + s.homeOf (16 * c + e)
  | .clusterDma c _ => 0x10 + c

/-- The protection class bit of a master code; none for masters without a class. -/
def classOf : Nat → Option Nat
  | 0x00 => some 0 | 0x01 => some 1 | 0x02 => some 2 | 0x03 => some 3 | 0x04 => some 9 | 0x05 => some 10 | 0x06 => some 11
  | n =>
    if 0x10 ≤ n ∧ n ≤ 0x17 then some 4 else if n = 0x18 ∨ n = 0x19 then some 5 else if n = 0x1A ∨ n = 0x1B then some 6
    else if n = 0x1C ∨ n = 0x1D then some 7 else if n = 0x1E ∨ n = 0x1F then some 8 else none

/-- Where a requester's read data goes in `resp`. -/
def State.respKey (s : State) : Requester → Nat
  | .engine c e => 0x100 + 16 * c + e
  | r => s.master r

/-! ## The cascade link -/

/-- The cascade link is up (R568, R569). -/
def State.linkUp (s : State) : Bool := s.bit pCASC CASC.CC_STAT.LINK_UP

/-- TRC_CTRL.MODE is cascade, so the cascade peer's supervisor ratifies (R445). -/
def State.peerRatifies (s : State) : Bool := s.fld pTRC TRC.TRC_CTRL.MODE == 2

/-! ## Events (R427 to R434) -/

/-- Base of instance `i` of a page family (R414). -/
def pageAt (fam i : Nat) : Nat :=
  match pages.find? (fun p => p.fam == fam) with
  | some p => p.base + 0x1000 * i
  | none => 0

/-- The event number of an event on instance `i` (R414). -/
def evNum (e : Ev) (i : Nat) : Nat :=
  match pages.find? (fun p => p.fam == e.fam) with
  | some p => p.evBase + p.width * i + e.bit
  | none => 0

/-- LOG_SEL of an event number (R432). -/
def State.logSel (s : State) (n : Nat) : Bool := (s.rd (pEVT + EVT.LOG_SEL + 4 * (n / 32))).getLsbD (n % 32)

/-- The occurrence of an event number now, stamped with the time counter (R431, R433). -/
def State.occ (s : State) (n kind m : Nat) (detail : Option (List Word)) : Occ :=
  { tick := s.tick, ns := BitVec.ofNat 32 (s.time.now / 2 ^ 32), wraps := s.time.now / 2 ^ 64, noclk := !s.time.running,
    event := n, kind := kind, master := m, suppressed := 0, detail := detail }

/-- Hand an occurrence to the log: a required record always, another unless its source's previous record lies within HOLDOFF,
when it is counted instead (R432, R434). 625 ticks are 1 µs. -/
def State.logOcc (s : State) (o : Occ) (required : Bool) : State :=
  let src := Tbl.get ⟨none, 0⟩ s.log.src o.event
  let hold := 625 * s.fld pEVT EVT.EV_CTRL.HOLDOFF
  let near : Bool := match src.last with | some t => decide (s.tick < t + hold) | none => false
  if required || (s.logSel o.event && !near) then
    { s with log := { s.log with hold := s.log.hold ++ [{ o with suppressed := src.suppressed }],
                                 src := Tbl.put (some ⟨none, 0⟩) s.log.src o.event ⟨some s.tick, 0⟩ } }
  else if s.logSel o.event then
    { s with log := { s.log with src := Tbl.put (some ⟨none, 0⟩) s.log.src o.event
                                          ⟨src.last, min (src.suppressed + 1) 0xFFFF⟩ } }
  else s

/-- Set an event's EVT_RAW bit. -/
def State.setRaw (s : State) (e : Ev) (i : Nat) : State := s.setFld (pageAt e.fam i) (bitAt HDR.EVT_RAW e.bit) 1

/-- Raise an event that concerns a transaction of a master (R427, R431). -/
def State.raiseBy (s : State) (e : Ev) (i m : Nat) : State :=
  (s.setRaw e i).logOcc (s.occ (evNum e i) 0 m none) false

/-- Raise an event. -/
def State.raise (s : State) (e : Ev) (i : Nat) : State := s.raiseBy e i 0

/-- Raise an event whose record another chapter requires, with its detail words (R432). -/
def State.raiseRec (s : State) (e : Ev) (i m : Nat) (detail : List Word) : State :=
  (s.setRaw e i).logOcc (s.occ (evNum e i) 0 m (some detail)) true

/-- Raise an event whose record another chapter requires and for which it states no detail (R431, R432). -/
def State.raiseReq (s : State) (e : Ev) (i : Nat) : State := (s.setRaw e i).logOcc (s.occ (evNum e i) 0 0 none) true

/-- Write a required ACTION (1) or CONTROL (2) record, which sets no EVT_RAW bit (R431). -/
def State.record (s : State) (kind n m : Nat) (detail : List Word) : State := s.logOcc (s.occ n kind m (some detail)) true

/-- Raise an event whose record is a recovery ACTION (R431, R437, R627): one record, of KIND 1. -/
def State.raiseAct (s : State) (e : Ev) (i : Nat) (detail : List Word) : State :=
  (s.setRaw e i).record 1 (evNum e i) 0 detail

/-- EVT_PEND of a page: EVT_RAW AND NOT EVT_MASK (R415). -/
def State.evtPend (s : State) (b : Nat) : Word := s.rd (b + HDR.EVT_RAW) &&& ~~~(s.rd (b + HDR.EVT_MASK))

/-- Whether event number `n` is pending (R427). -/
def State.pendingEv (s : State) (n : Nat) : Bool :=
  match eventOf n with
  | some (p, i, b) => (s.evtPend (p.base + 0x1000 * i)).getLsbD b
  | none => false

/-- EVT.SRC_PEND[g] (R427). -/
def State.srcPend (s : State) (g : Nat) : Word :=
  (List.range 32).foldl (fun w j => if s.pendingEv (32 * g + j) then w + BitVec.ofNat 32 (2 ^ j) else w) 0

/-- The groups that contribute to a pin or to the supervisor's event interrupt, by its routing registers (R428). -/
def State.grpSum (s : State) (route : Nat) : Word :=
  (List.range 32).foldl (fun w g =>
    if s.srcPend g &&& s.rd (pEVT + route + 4 * g) ≠ 0 then w + BitVec.ofNat 32 (2 ^ g) else w) 0

/-- INT_A_N asserted. -/
def State.intA (s : State) : Bool := s.grpSum EVT.ROUTE_A != 0
/-- INT_B_N asserted. -/
def State.intB (s : State) : Bool := s.grpSum EVT.ROUTE_B != 0
/-- The supervisor's event interrupt asserted. -/
def State.intS (s : State) : Bool := s.grpSum EVT.ROUTE_S != 0

/-! ## Page functions (R438) -/

/-- FSTATE of a page: 0 DISABLED, 1 ENABLED, 2 DRAINING. -/
def State.fstate (s : State) (b : Nat) : Nat := s.fld b HDR.FSTATE

/-- Whether a page's function is enabled. -/
def State.enabled (s : State) (b : Nat) : Bool := s.fstate b == 1

/-- Fold a step over a list of numbers. -/
def State.each (s : State) (l : List Nat) (f : State → Nat → State) : State := l.foldl f s

/-- Apply a change if a condition holds. -/
def State.when (s : State) (c : Bool) (f : State → State) : State := if c then f s else s

/-! ## Hidden state of the units -/

/-- Line receive lane `n` beside its page. -/
def State.lrxSt (s : State) (n : Nat) : LrxSt := Tbl.get LrxSt.init s.lrx n
/-- Change line receive lane `n`. -/
def State.modLrx (s : State) (n : Nat) (f : LrxSt → LrxSt) : State :=
  { s with lrx := Tbl.put (some LrxSt.init) s.lrx n (f (s.lrxSt n)) }

/-- Line transmit lane `n` beside its page. -/
def State.ltxSt (s : State) (n : Nat) : LtxSt := Tbl.get LtxSt.init s.ltx n
/-- Change line transmit lane `n`. -/
def State.modLtx (s : State) (n : Nat) (f : LtxSt → LtxSt) : State :=
  { s with ltx := Tbl.put (some LtxSt.init) s.ltx n (f (s.ltxSt n)) }

/-- Frame lock of lane `n`. -/
def State.ifecSt (s : State) (n : Nat) : IfecSt := Tbl.get ⟨0, 0, false⟩ s.ifec n
/-- Change the frame lock of lane `n`. -/
def State.modIfec (s : State) (n : Nat) (f : IfecSt → IfecSt) : State :=
  { s with ifec := Tbl.put (some ⟨0, 0, false⟩) s.ifec n (f (s.ifecSt n)) }

/-- Port `p` beside its registers. -/
def State.portSt (s : State) (p : Nat) : PortSt := Tbl.get PortSt.init s.port p
/-- Change port `p`. -/
def State.modPort (s : State) (p : Nat) (f : PortSt → PortSt) : State :=
  { s with port := Tbl.put (some PortSt.init) s.port p (f (s.portSt p)) }

/-- Host lane `m` beside its page. -/
def State.hslSt (s : State) (m : Nat) : HslSt := Tbl.get HslSt.init s.hsl m
/-- Change host lane `m`. -/
def State.modHsl (s : State) (m : Nat) (f : HslSt → HslSt) : State :=
  { s with hsl := Tbl.put (some HslSt.init) s.hsl m (f (s.hslSt m)) }

/-- Calibration unit `u` beside its registers. -/
def State.calSt (s : State) (u : Nat) : CalSt := Tbl.get CalSt.init s.cal u
/-- Change calibration unit `u`. -/
def State.modCal (s : State) (u : Nat) (f : CalSt → CalSt) : State :=
  { s with cal := Tbl.put (some CalSt.init) s.cal u (f (s.calSt u)) }

/-- Partner channel `n` beside its page. -/
def State.partSt (s : State) (n : Nat) : PartSt := Tbl.get PartSt.init s.part n
/-- Change partner channel `n`. -/
def State.modPart (s : State) (n : Nat) (f : PartSt → PartSt) : State :=
  { s with part := Tbl.put (some PartSt.init) s.part n (f (s.partSt n)) }

/-- Dawn channel `n` beside its page. -/
def State.dawnSt (s : State) (n : Nat) : DawnSt := Tbl.get DawnSt.init s.dawn n
/-- Change dawn channel `n`. -/
def State.modDawn (s : State) (n : Nat) (f : DawnSt → DawnSt) : State :=
  { s with dawn := Tbl.put (some DawnSt.init) s.dawn n (f (s.dawnSt n)) }

/-! ## Conditions of the whole device -/

/-- Whether the core brown-out warning, or the recovery from it, is in progress (R625, R60). -/
def State.brownOut (s : State) : Bool := s.fld pPWR PWR.BO_STAT.STATE != 0

/-- The device is in NOON; the phases of an entry before the ports stop count as NOON (R473). -/
def State.noon (s : State) : Bool :=
  s.fld pPWR PWR.PWR_STAT.STATE == 0 || (s.fld pPWR PWR.PWR_STAT.STATE == 1 && decide (s.pwr.phase < 4))

/-- The wake latch is open: from phase 1 of an entry until the next NOON (R473 to R475). -/
def State.latchOpen (s : State) : Bool := s.pwr.phase != 0 || decide (2 ≤ s.fld pPWR PWR.PWR_STAT.STATE)

/-- A wake source occurs (R474, R475, R480): an enabled one is latched, and begins wake in DUSK or NIGHT. -/
def State.wake (s : State) (n : Nat) : State :=
  if !s.latchOpen || !(n == 7 || (s.rd (pPWR + PWR.WAKE_EN)).getLsbD n) then s
  else
    let first := match s.pwr.first with | some f => some f | none => some n
    let s := { s with pwr := { s.pwr with latch := s.pwr.latch ||| 2 ^ n, first := first } }
    let st := s.fld pPWR PWR.PWR_STAT.STATE
    s.when (st == 2 || st == 3) fun s => s.setFld pPWR PWR.PWR_STAT.STATE 4

/-- REFCLK is present (R460). -/
def State.refOk (s : State) : Bool := s.bit pCLK CLK.CLK_STAT.REFCLK_OK

/-- Lanes can run: NOON and REFCLK present. -/
def State.canRun (s : State) : Bool := s.noon && s.refOk

end Sys2Proof.Machine
end

