-- ==== Sys2Proof/Machine/CapState.lean ====
section
/-! DEFINITION. Which lane is recorded (R392) and which engines reach the replay's replica instead of their lane (R399). -/

namespace Sys2Proof.Machine

/-- CP_STAT.STATE (R392): 0 IDLE, 1 ROLL, 2 ARMED, 3 POST, 4 HELD, 5 DRAINING. -/
def State.capState (s : State) : Nat := s.fld pCAP CAP.CP_STAT.STATE

/-- Capture is recording, or about to. -/
def State.capRuns (s : State) : Bool := decide (1 ≤ s.capState) && decide (s.capState ≤ 3)

/-- A word of the configuration that the recording took. -/
def State.capCfg (s : State) (off : Nat) : Nat := (Tbl.get 0 s.cap.cfg off).toNat

/-- The recorded lane: that of the recording, or CP_CTRL.LANE while there is none in progress. -/
def State.capLane (s : State) : Nat :=
  if s.capRuns then s.capCfg CAP.CP_CTRL % 8 else s.fld pCAP CAP.CP_CTRL.LANE

/-- RP_STAT.STATE: 0 IDLE, 1 RUN, 2 HOLD, 3 DONE. -/
def State.rpState (s : State) : Nat := s.fld pRPL RPL.RP_STAT.STATE

/-- The engines of ENG_MASK (R399). -/
def State.rpEngines (s : State) : List Nat :=
  let m := s.fld pRPL RPL.RP_CTRL.ENG_MASK
  ((List.range 16).filter (fun e => m.testBit e)).map (· + 16 * s.capLane)

/-- Target 0 of a masked engine's coefficient port is the replica while an ADAPT replay runs (R399). -/
def State.replica (s : State) (k : Nat) : Bool :=
  s.bit pRPL RPL.RP_CTRL.MODE && (s.rpState == 1 || s.rpState == 2) && s.rpEngines.contains k

/-- The engine that RP_CTRL.OWNER names as the owner of the replica (R399). -/
def State.replicaOwner (s : State) (k : Nat) : Bool := k == 16 * s.capLane + s.fld pRPL RPL.RP_CTRL.OWNER

end Sys2Proof.Machine
end

