-- ==== Sys2Proof/Machine/PortMap.lean ====
section
/-! DEFINITION. Which lanes a port has (R25 to R28), which coefficient-port targets are served (R230 to R233), when a port is UP or
FROZEN (R170), and the events that a change of either raises (R198). -/

namespace Sys2Proof.Machine

/-- The line mode is M400 (R25). -/
def State.m400 (s : State) : Bool := s.bit pPORT PORT.MODE.LINE

/-- Host lanes run at 53.125 GBd (R28). -/
def State.halfRate (s : State) : Bool := s.bit pPORT PORT.MODE.HRATE

/-- Line lanes of port `p` (R26). -/
def State.portK (s : State) (p : Nat) : Nat := 2 ^ s.fld pPORT (fldAt PORT.PCFG.SIZE (4 * p))

/-- PCFG[p].DEFINED. -/
def State.portDefined (s : State) (p : Nat) : Bool := s.bit pPORT (fldAt PORT.PCFG.DEFINED (4 * p))

/-- PORT_EN bit p. -/
def State.portBit (s : State) (p : Nat) : Bool := (s.rd (pPORT + PORT.PORT_EN)).getLsbD p

/-- A port is enabled while DEFINED and its PORT_EN bit are both 1 (R170). -/
def State.portOn (s : State) (p : Nat) : Bool := s.portDefined p && s.portBit p

/-- The line lanes of a port (R27). -/
def State.portLanes (s : State) (p : Nat) : List Nat := (List.range (s.portK p)).map (· + p)

/-- The logical host lanes of a port (R28). -/
def State.portHosts (s : State) (p : Nat) : List Nat :=
  if s.m400 || s.halfRate then (List.range (2 * s.portK p)).map (· + 2 * p) else (List.range (s.portK p)).map (· + p)

/-- Whether physical host lane `m` carries, in either direction, a logical host lane of port `p` (R202). -/
def State.portHasHost (s : State) (p m : Nat) : Bool :=
  (s.portHosts p).contains (s.fld (pHSL m) HSL.LANE_CFG.RX_LOG) || (s.portHosts p).contains (s.fld (pHSL m) HSL.LANE_CFG.TX_LOG)

/-- The enabled port that contains line lane `n`. -/
def State.portOfLine (s : State) (n : Nat) : Option Nat :=
  (List.range 8).find? (fun p => s.portOn p && (s.portLanes p).contains n)

/-- The enabled port whose logical host lanes include `l`. -/
def State.portOfHost (s : State) (l : Nat) : Option Nat :=
  (List.range 8).find? (fun p => s.portOn p && (s.portHosts p).contains l)

/-- The physical lane that carries logical host lane `l` in the receive direction (R202). -/
def State.physRx (s : State) (l : Nat) : Option Nat :=
  (List.range 16).find? (fun m => s.fld (pHSL m) HSL.LANE_CFG.RX_LOG == l)

/-- The physical lane that carries logical host lane `l` in the transmit direction (R202). -/
def State.physTx (s : State) (l : Nat) : Option Nat :=
  (List.range 16).find? (fun m => s.fld (pHSL m) HSL.LANE_CFG.TX_LOG == l)

/-! ## Service (R230 to R234) -/

/-- The page that target `t` of cluster `c`'s coefficient port addresses (R230). -/
def targetPage (c t : Nat) : Option Nat :=
  if c < 8 then (match t with | 0 => some (pLRX c) | 1 => some (pLTX c) | _ => none)
  else if c = 8 ∧ t < 8 then some (pHSL t)
  else if c = 9 ∧ t < 8 then some (pHSL (8 + t))
  else none

/-- The pages of a port's line lanes and of its outer code, which a host error about the port may leave free (R447). -/
def State.portPages (s : State) (p : Nat) : List Nat :=
  (if p < s.lines then [pOFEC p] else [])
    ++ ((s.portLanes p).filter (· < s.lines)).flatMap fun n => [pLRX n, pLTX n, pIFEC n]

/-- The cluster and target of a lane direction's page (R230). -/
def targetOf (page : Nat) : Option (Nat × Nat) :=
  if pLRX 0 ≤ page ∧ page < pLRX 8 then some ((page - pLRX 0) / 0x1000, 0)
  else if pLTX 0 ≤ page ∧ page < pLTX 8 then some ((page - pLTX 0) / 0x1000, 1)
  else if pHSL 0 ≤ page ∧ page < pHSL 16 then
    let m := (page - pHSL 0) / 0x1000
    some (8 + m / 8, m % 8)
  else none

/-- The engine that CP_OWN[t] of cluster `c` names, while it is valid (R231, R232). -/
def State.cpOwner (s : State) (c t : Nat) : Option Nat :=
  if s.bit (pCLU c) (fldAt CLU.CP_OWN.VALID (4 * t)) then
    some (16 * s.fld (pCLU c) (fldAt CLU.CP_OWN.CLUSTER (4 * t)) + s.fld (pCLU c) (fldAt CLU.CP_OWN.ENGINE (4 * t)))
  else none

/-- Target `t` of cluster `c` is served (R233): its owner has not ceased to count as an engine of the cluster (R232) and is in
RUN or WAIT, or its SERVE_HOLD still runs. -/
def State.served (s : State) (c t : Nat) : Bool :=
  match s.cpOwner c t with
  | some k => !(s.clu c).lapsed.contains t && (s.coreState k == 1 || s.coreState k == 2 || (s.clu c).holdRun.contains t)
  | none => false

/-- Whether the target of a page is served. -/
def State.servedPage (s : State) (page : Nat) : Bool :=
  match targetOf page with
  | some (c, t) => s.served c t
  | none => false

/-- PSTAT[p].FROZEN (R170). -/
def State.frozen (s : State) (p : Nat) : Bool :=
  s.portOn p &&
    ((s.portLanes p).any (fun n => !s.servedPage (pLRX n) || !s.servedPage (pLTX n))
      || (List.range s.hosts).any (fun m => s.portHasHost p m && !s.servedPage (pHSL m)))

/-! ## Port state (R170) -/

/-- LNn is LOCKED (R64). -/
def State.locked (s : State) (n : Nat) : Bool := s.fld (pLRX n) LRX.LN_STAT.STATE == 6

/-- Every line lane of the port is LOCKED. -/
def State.allLocked (s : State) (p : Nat) : Bool := (s.portLanes p).all s.locked

/-- A host lane of the port is in FAULT, which holds its port DOWN (R214). -/
def State.hostFault (s : State) (p : Nat) : Bool :=
  (List.range s.hosts).any (fun m => s.portHasHost p m && s.fld (pHSL m) HSL.RX_STAT.STATE == 6)

/-- PSTAT[p].STATE: 0 DISABLED, 1 DOWN, 2 UP (R170). -/
def State.portState (s : State) (p : Nat) : Nat :=
  if s.portOn p then
    if s.allLocked p && s.bit pPORT (fldAt PORT.PSTAT.DESKEWED (4 * p)) && s.bit (pOFEC p) OFEC.OF_STAT.RX_CW_LOCK
        && !s.hostFault p then 2
    else 1
  else 0

/-- PSTAT[p].LANES_LOCKED (R197). -/
def State.lanesLocked (s : State) (p : Nat) : Nat :=
  if s.portDefined p then
    ((s.portLanes p).filter s.locked).foldl (fun w n => w + 2 ^ n) 0
  else 0

end Sys2Proof.Machine
end

