-- ==== Sys2Proof/Machine/Perf.lean ====
section
/-! DEFINITION. The performance counters of a cluster (R268 to R274): counting an event through the filters, overflow, and the
samples owed. Time itself is outside the model (log entry 5), so the codes that count cycles are never counted here. -/

namespace Sys2Proof.Machine

/-- The live counter of counter `k` of cluster `c` (R268). -/
abbrev perfCnt (c k : Nat) : Nat := pPERF c + PERF.CNT_LO + 32 * k

/-- The cores whose PERF interrupt a counter of cluster `c` raises: its own engines and those borrowed by HOME. -/
def State.enginesOf (s : State) (c : Nat) : List Nat :=
  (List.range 16).map (16 * c + ·) ++ ((List.range 32).map (224 + ·)).filter (fun k => k / 16 != c && s.homeOf k == c)

/-- Raise PERF at every engine of the cluster (R244, R271); those that enable it are interrupted. -/
def State.perfIrq (s : State) (c : Nat) : State :=
  s.each (s.enginesOf c) fun s k => s.modCore k (fun x => { x with ipend := x.ipend ||| 0x20 })

/-- Counter `k` passes 2^48 − 1 (R271). -/
def State.perfWrap (s : State) (c k : Nat) : State :=
  let s := s.setFld (pPERF c) (bitAt PERF.PF_STAT k) 1
  let s := s.raise (evAt PERF.evCNT_OVF k) c
  if s.bit (pPERF c) (fldAt PERF.EVSEL.OVF_IRQ (32 * k)) then s.perfIrq c else s

/-- An event offered to the counters: its code (R270), the level of the instruction that caused it (none for other events),
the bit of the master filter it passes (R269), its engine address if it is a memory event, the causing PC and engine, and
how many units it counts. -/
structure PerfEv where
  code : Nat
  level : Option Nat
  mbit : Nat
  addr : Option Nat
  pc : Word
  engine : Nat
  n : Nat
deriving DecidableEq, Repr

/-- Whether an event passes the filters of counter `k` (R269). -/
def State.perfPass (s : State) (c k : Nat) (e : PerfEv) : Bool :=
  let b := pPERF c
  s.bit b (fldAt PERF.EVSEL.EN (32 * k)) && s.fld b (fldAt PERF.EVSEL.EVENT (32 * k)) == e.code
    && (match e.level with
        | some l =>
          let f := s.fld b (fldAt PERF.EVSEL.LEVEL (32 * k))
          f == 0 || (f == 1 && l == 0) || (f == 2 && l != 0)
        | none => true)
    && (s.rd (b + PERF.MASTER + 32 * k)).getLsbD e.mbit
    && (if s.bit b (fldAt PERF.EVSEL.WIN_EN (32 * k)) then
          match e.addr with
          | some a => decide ((s.rd (b + PERF.WIN_BASE + 32 * k)).toNat ≤ a)
              && decide (a ≤ (s.rd (b + PERF.WIN_LIMIT + 32 * k)).toNat)
          | none => false
        else true)

/-- Samples are taken (R272, R273): EN is 1, and the buffer has not filled in STOP mode since EN was last 0 (DESIGN CHOICE, log
entry 12). -/
def State.sampling (s : State) (c : Nat) : Bool := s.bit (pPERF c) PERF.SMP_CTRL.EN && s.lv (pPERF c + PERF.SMP_CTRL) == 0

/-- Counter `k` counts an event that passes: it advances, wraps at 2^48 (R271), and owes a sample at every SMPL_PERIOD
events (R272). -/
def State.perfBump (s : State) (c k : Nat) (e : PerfEv) : State :=
  let v := s.lv (perfCnt c k) + e.n
  let s := s.setLv (perfCnt c k) (v % 2 ^ 48)
  let s := s.when (decide (2 ^ 48 ≤ v)) (fun s => s.perfWrap c k)
  if s.bit (pPERF c) (fldAt PERF.EVSEL.SAMPLE (32 * k)) && s.sampling c then
    let per := max 1 (s.rd (pPERF c + PERF.SMPL_PERIOD + 32 * k)).toNat
    let t := Tbl.get 0 (s.clu c).tally k + e.n
    s.modClu c fun u => { u with
      tally := Tbl.put (some 0) u.tally k (t % per)
      due := u.due ++ List.replicate (t / per)
        ⟨k, e.pc, e.engine, e.level.getD 1, e.code, BitVec.ofNat 32 (e.addr.getD 0)⟩ }
  else s

/-- Offer an event to the eight counters of cluster `c`; nothing counts while the page is disabled, PF_CTRL.EN is 0 or
FREEZE is 1 (R268, R280, R441). -/
def State.perf (s : State) (c : Nat) (e : PerfEv) : State :=
  if s.bit (pPERF c) PERF.PF_CTRL.EN && !s.bit (pPERF c) PERF.PF_CTRL.FREEZE && s.enabled (pPERF c) then
    s.each (List.range 8) fun s k => if s.perfPass c k e then s.perfBump c k e else s
  else s

/-- Count bandwidth units at port `p` of cluster `c` (R274). -/
def State.perfBw (s : State) (c p n : Nat) : State :=
  s.modClu c fun u => { u with bw := Tbl.put (some 0) u.bw p (Tbl.get 0 u.bw p + n) }

/-- The master-filter bit of engine `k` (R269): a borrowed engine counts in its HOME cluster, under bit 19 (DEDUCED, log entry 6). -/
def State.engBit (s : State) (k : Nat) : Nat := if s.homeOf k = k / 16 then k % 16 else 19

/-- An event caused by an instruction of engine `k` (R269). The supervisor has no counters. -/
def State.perfInstr (s : State) (k code : Nat) (addr : Option Nat) (n : Nat) : State :=
  if k < 256 then
    let x := s.core k
    s.perf (s.homeOf k) ⟨code, some (getBits x.sr 0 2), s.engBit k, addr, x.pc, k % 16, n⟩
  else s

/-- Memory events of an instruction of engine `k`, one for each of the `n` units of 8 bytes from an address up (R269). -/
def State.perfUnits (s : State) (k code a n : Nat) : State :=
  s.each (List.range n) fun s i => s.perfInstr k code (some (a + 8 * i)) 1

/-- A tap snapshot that an instruction of engine `k` starts (R270): the tap port requests it, and its samples name no PC (R272). -/
def State.perfTap (s : State) (k : Nat) : State :=
  if k < 256 then
    s.perf (s.homeOf k) ⟨0x63, some (getBits (s.core k).sr 0 2), 17, none, 0xFFFFFFFF, k % 16, 1⟩
  else s

end Sys2Proof.Machine
end

