-- ==== Sys2Proof/Machine/Commit.lean ====
section
/-! DEFINITION. Boundary-applied registers: commit groups (R59, R105, R226), requests, application at a commit point and discarding
(R30 to R36, R60, R625). The register table holds the shadow bank; `inForce` holds the values in force. -/

namespace Sys2Proof.Machine

/-- The commit group of the register at an offset of an LRX (9), LTX (10) or HSL (15) page, by COMMIT bit; none for a
register that is not boundary-applied (R59, R105, R226). -/
def groupOf (fam off : Nat) : Option Nat :=
  if off % 4 ≠ 0 then none
  else if fam = 9 then
    if off = LRX.AFE_CTRL then some 0
    else if LRX.MC_A ≤ off ∧ off < LRX.MC_A + 8 * 17 then some 1
    else if off = LRX.DCB_CTRL then some 2
    else if off = LRX.TR_CFG then some 3
    else if LRX.FFE ≤ off ∧ off < LRX.FFE + 4 * 41 then some 4
    else if LRX.VOL ≤ off ∧ off < LRX.VOL + 4 * 12 then some 5
    else if off = LRX.DET_CTRL ∨ off = LRX.SLC_THR ∨ off = LRX.SLC_LVL0 ∨ off = LRX.SLC_LVL1 ∨ off = LRX.DFE_TAP
        ∨ (LRX.MLSE_REF ≤ off ∧ off < LRX.MLSE_REF + 4 * 32) then some 6
    else none
  else if fam = 10 then
    if LTX.FIR ≤ off ∧ off < LTX.FIR + 4 * 7 then some 0
    else if LTX.NLP ≤ off ∧ off < LTX.NLP + 4 * 16 then some 1
    else if LTX.MC_A ≤ off ∧ off < LTX.MC_A + 8 * 17 then some 2
    else if off = LTX.SKEW_F then some 3
    else if off = LTX.AMP_CTRL then some 4
    else none
  else if fam = 15 then
    if (HSL.TX_FIR ≤ off ∧ off < HSL.TX_FIR + 4 * 5) ∨ off = HSL.TX_AMP then some 0
    else if off = HSL.RX_AFE then some 1
    else if (HSL.RX_FFE ≤ off ∧ off < HSL.RX_FFE + 4 * 24) ∨ off = HSL.RX_DFE then some 2
    else if off = HSL.CDR_CFG then some 3
    else none
  else none

/-- The family of a page base. -/
def famOf (page : Nat) : Nat := match findPage page with | some (p, _, _) => p.fam | none => 99

/-- The instance of a page base. -/
def instOf (page : Nat) : Nat := match findPage page with | some (_, i, _) => i | none => 0

/-- The addresses of the registers of a commit group of a page. -/
def groupAddrs (page g : Nat) : List Nat :=
  ((List.range 0x100).map (fun j => 4 * j)).filterMap
    (fun off => if groupOf (famOf page) off = some g then some (page + off) else none)

/-- The groups that a mask names. -/
def groupsIn (mask : Nat) : List Nat := (List.range 7).filter (fun g => mask.testBit g)

/-- The value in force of a boundary-applied register (R31). -/
def State.inf (s : State) (a : Nat) : Word := Tbl.get (regReset a) s.inForce a

/-- Set a value in force. -/
def State.setInf (s : State) (a : Nat) (w : Word) : State :=
  { s with inForce := Tbl.put (some (regReset a)) s.inForce a w }

/-- ACT_DATA (R60): the value in force of the register that ACT_SEL names, 0 for one that is not boundary-applied. -/
def State.actData (s : State) (page sel : Nat) : Word :=
  if (groupOf (famOf page) sel).isSome then s.inf (page + sel) else 0

/-- COMMIT_STAT of a lane direction's page. -/
def commitStatOff (page : Nat) : Nat :=
  match famOf page with | 9 => LRX.COMMIT_STAT | 10 => LTX.COMMIT_STAT | _ => HSL.COMMIT_STAT

/-- COMMIT_DISCARDED of a lane direction's page. -/
def commitDiscardedEv (page : Nat) : Ev :=
  match famOf page with | 9 => LRX.evCOMMIT_DISCARDED | 10 => LTX.evCOMMIT_DISCARDED | _ => HSL.evCOMMIT_DISCARDED

/-- Who wrote a group's shadow without its being applied or discarded since (R60): bit 0 the host or supervisor, bit 1
the owner engine. -/
def State.mark (s : State) (page g : Nat) : Nat := Tbl.get 0 s.marks (page + g)

/-- Set a group's mark. -/
def State.setMark (s : State) (page g m : Nat) : State := { s with marks := Tbl.put (some 0) s.marks (page + g) m }

/-- The groups of a page requested and not yet applied. -/
def State.pendingGroups (s : State) (page : Nat) : Nat :=
  (s.commits.filter (fun r => r.page == page)).foldl (fun m r => m ||| r.groups) 0

/-- Rewrite COMMIT_STAT.PENDING from the requests. -/
def State.showPending (s : State) (page : Nat) : State :=
  s.setFld page ⟨commitStatOff page, 0, if famOf page = 9 then 7 else if famOf page = 10 then 5 else 4⟩ (s.pendingGroups page)

/-- The shadow bank of a group returns to the values in force (R60, R262). -/
def State.revertGroup (s : State) (page g : Nat) : State :=
  ((groupAddrs page g).foldl (fun s a => s.wr a (s.inf a)) s).setMark page g 0

/-- The owner of a page's target takes the COMMIT interrupt (R244). -/
def State.commitIrq (s : State) (page : Nat) : State :=
  match targetOf page with
  | some (c, t) =>
    match s.cpOwner c t with
    | some k => s.modCore k (fun x => { x with cpIrq := if x.cpIrq.contains page then x.cpIrq else x.cpIrq ++ [page] })
    | none => s
  | none => s

/-- Count a commit event of a request (R270): an engine's store that makes one is its instruction's event; the calibration sequencer's requests pass under
its master bit and those of the register page under bit 18 (R269; DESIGN CHOICE, log entry 98), in the cluster of the page's target. -/
def State.perfCommit (s : State) (page code : Nat) (core : Option Nat) (src : Nat) : State :=
  match core with
  | some k =>
    if code = 0x60 then s.perfInstr k code none 1
    else s.perf (s.homeOf k) ⟨code, none, s.engBit k, none, 0xFFFFFFFF, k % 16, 1⟩
  | none =>
    match targetOf page with
    | some (c, _) => s.perf c ⟨code, none, if src = 2 then 17 else 18, none, 0xFFFFFFFF, 0, 1⟩
    | none => s

/-- Count a commit event of each of some requests. -/
def State.perfCommits (s : State) (code : Nat) (l : List CommitReq) : State :=
  l.foldl (fun s r => s.perfCommit r.page code r.core r.src) s

/-- The waiting requests of a page without the groups `mask`. -/
def dropGroups (page mask : Nat) (l : List CommitReq) : List CommitReq :=
  (l.map (fun (r : CommitReq) => if r.page = page then { r with groups := r.groups - (r.groups &&& mask) } else r)).filter
    (fun (r : CommitReq) => r.groups != 0)

/-- A remote transmit request's commit has come to its end: applied at a frame count, or discarded (R111, R36). -/
def State.remEnd (s : State) (page : Nat) (ok : Bool) (frame : Nat) : State :=
  s.modLtx (instOf page) fun t => { t with rem := t.rem.map fun q => { q with result := some (ok, frame) } }

/-- The calibration unit of a line lane direction's page. -/
def unitOf (page : Nat) : Nat := if famOf page = 9 then instOf page else 8 + instOf page

/-- A RETURN commit has come to its end: applied, or discarded, so that the visit ends as an abandoned one (R124, R143). -/
def State.calEnd (s : State) (page : Nat) (ok : Bool) : State :=
  s.modCal (unitOf page) fun x => if x.wait = 2 then { x with wait := if ok then 4 else 3 } else x

/-- A request of an origin is among those of a page that name a group of `mask`. -/
def hasSrc (l : List CommitReq) (page mask src : Nat) : Bool :=
  l.any (fun r => r.page == page && r.src == src && (r.groups &&& mask) != 0)

/-- Requests naming any of the groups `mask` end discarded: the shadows of the groups they name return to the values in
force, LAST_DISCARDED sets and COMMIT_DISCARDED is raised (R36, R60, R440). -/
def State.discard (s : State) (page mask : Nat) : State :=
  let named := s.pendingGroups page &&& mask
  if named = 0 then s else
    let rem := hasSrc s.commits page mask 1
    let cal := hasSrc s.commits page mask 2
    let gone := s.commits.filter fun r => r.page == page && (r.groups &&& mask) != 0
    let s := (groupsIn named).foldl (fun s g => s.revertGroup page g) s
    let s := { s with commits := dropGroups page mask s.commits }
    let s := s.when rem (fun s => s.remEnd page false 0)
    let s := s.when cal (fun s => s.calEnd page false)
    let s := (s.showPending page).setFld page ⟨commitStatOff page, 7, 1⟩ 1
    ((s.raise (commitDiscardedEv page) (instOf page)).commitIrq page).perfCommits 0x62 gone

/-- A commit request for the groups `mask` reaches the lane (R59). During the brown-out warning it is discarded at once (R60).
Otherwise it takes the values that the groups' shadows hold at acceptance (R33; DEDUCED, log entry 7). -/
def State.commitRequest (s : State) (page mask : Nat) (core : Option Nat) (src : Nat) : State :=
  if mask = 0 then s else
    let vals := (groupsIn mask).foldl (fun t g =>
      (groupAddrs page g).foldl (fun t a => Tbl.insert t a (s.rd a)) t) ([] : Tbl Word)
    let s := { s with commits := s.commits ++ [CommitReq.mk page mask vals core src] }
    let s := match core with
      | some k =>
        let named := (groupsIn mask).map (page + ·)
        s.modCore k (fun x => { x with dirty := x.dirty.filter (fun d => !named.contains d) })
      | none => s
    let s := (s.showPending page).perfCommit page 0x60 core src
    if s.brownOut then s.discard page mask else s

/-- Apply one request's groups within `dir`: its values come into force, whole (R33). -/
def State.applyReq (s : State) (dir : Nat) (r : CommitReq) : State :=
  let gs := groupsIn (r.groups &&& dir)
  let s := gs.foldl (fun s g => (groupAddrs r.page g).foldl (fun s a => s.setInf a ((Tbl.find r.vals a).getD (s.inf a))) s) s
  gs.foldl (fun s g => if (groupAddrs r.page g).all (fun a => s.rd a == s.inf a) then s.setMark r.page g 0 else s) s

/-- Part the waiting requests: the first `n` that name a group of the direction `dir` of a page, and what remains waiting. -/
def takeDue (page dir : Nat) : Nat → List CommitReq → List CommitReq × List CommitReq
  | _, [] => ([], [])
  | n, r :: t =>
    if r.page = page ∧ (r.groups &&& dir) ≠ 0 ∧ 0 < n then
      let (d, e) := takeDue page dir (n - 1) t
      let left := r.groups - (r.groups &&& dir)
      (r :: d, if left = 0 then e else { r with groups := left } :: e)
    else
      let (d, e) := takeDue page dir n t
      (d, r :: e)

/-- A commit point of a lane direction (R30 to R33): every request naming a group of the direction `dir` takes effect in the
order accepted, except the newest `late`, which came within 8 cycles of the point (R32). FRAME records the point's count
and the owner is interrupted. -/
def State.applyCommits (s : State) (page dir late frame : Nat) : State :=
  let mine := s.commits.filter (fun r => r.page == page && (r.groups &&& dir) != 0)
  let (due, rest) := takeDue page dir (mine.length - late) s.commits
  if due = [] then s else
    let s := due.foldl (fun s r => s.applyReq dir r) s
    let s := { s with commits := rest }
    let s := s.when (hasSrc due page dir 1) (fun s => s.remEnd page true frame)
    let s := s.when (hasSrc due page dir 2) (fun s => s.calEnd page true)
    let s := (s.showPending page).setFld page ⟨commitStatOff page, 7, 1⟩ 0
    let s := s.setFld page ⟨commitStatOff page, 16, 16⟩ frame
    (s.commitIrq page).perfCommits 0x61 due

end Sys2Proof.Machine
end

