-- ==== Sys2Proof/Machine/CalBase.lean ====
section
/-! DEFINITION. The calibration units' slice maps, pauses and the end of a step (R77, R121, R140, R142), and what every change of
lanes, ports or service may set off (`watch`: R142, R198). -/

namespace Sys2Proof.Machine

/-! ## Units and their slice maps (R49, R77, R92, R121) -/

/-- The page whose slices unit `u` serves. -/
def unitPage (u : Nat) : Nat := if u < 8 then pLRX u else pLTX (u - 8)

/-- Address of the SLICE_MAP of a unit; POS_MAP0 to POS_MAP2 follow it. -/
def mapBase (u : Nat) : Nat := unitPage u + (if u < 8 then LRX.SLICE_MAP else LTX.SLICE_MAP)

/-- SLICE_MAP.SPARE, SLICE_MAP.CAL and the RETIRED bit of a slice, from the base of a unit's map. -/
def smSpare : Fld := ⟨0, 0, 5⟩
def smCal : Fld := ⟨0, 5, 5⟩
def smRet (sl : Nat) : Fld := ⟨0, 15 + sl, 1⟩
/-- The POS field of a position. -/
def smPos (p : Nat) : Fld := ⟨4 + 4 * (p / 6), 5 * (p % 6), 5⟩

/-- The spare slice, 31 when none. -/
def State.spare (s : State) (u : Nat) : Nat := s.fld (mapBase u) smSpare
/-- The slice out for calibration, 31 when none. -/
def State.calOut (s : State) (u : Nat) : Nat := s.fld (mapBase u) smCal
/-- A slice is retired. -/
def State.sliceRetired (s : State) (u sl : Nat) : Bool := s.bit (mapBase u) (smRet sl)
/-- The slice that serves a position. -/
def State.posSlice (s : State) (u p : Nat) : Nat := s.fld (mapBase u) (smPos p)
/-- The position that a slice serves. -/
def State.posOf (s : State) (u sl : Nat) : Option Nat := (List.range 16).find? (fun p => s.posSlice u p == sl)
/-- The serving slices, by position. -/
def State.serving (s : State) (u : Nat) : List Nat := (List.range 16).map (s.posSlice u)

/-- A field of a register of unit `u`. -/
def uf (u : Nat) (f : Fld) : Fld := fldAt f (4 * u)

/-- The phase of a unit's step (R124), 0 between steps. -/
def State.phase (s : State) (u : Nat) : Nat := s.fld pCAL (uf u CAL.U_STAT.PHASE)

/-- The slice under visit, 31 when none. -/
def State.visited (s : State) (u : Nat) : Nat := s.fld pCAL (uf u CAL.U_STAT.SLICE)

/-- The variant has the unit (R121). -/
def State.unitHere (s : State) (u : Nat) : Bool := decide (u < 16) && decide (u % 8 < s.lines)

/-- A quiet window granted on the unit's lane is open (R145). -/
def State.quietOpen (s : State) (u : Nat) : Bool := s.bit pCAL (uf u CAL.U_STAT.QUIET_OPEN)

/-! ## Pauses (R142) -/

/-- The unit's lane runs: a receive lane above DOWN, a transmit lane in ACTIVE (DEDUCED, log entry 15). -/
def State.unitRuns (s : State) (u : Nat) : Bool :=
  if u < 8 then s.fld (pLRX u) LRX.LN_STAT.STATE != 0 else s.fld (pLTX (u - 8)) LTX.TX_STAT.STATE == 3

/-- Condition 1 of R142 does not hold: the lane runs, a receive lane at EQ or above. -/
def State.unitTracks (s : State) (u : Nat) : Bool :=
  s.unitRuns u && (decide (8 ≤ u) || decide (4 ≤ s.fld (pLRX u) LRX.LN_STAT.STATE))

/-- CAL_CTRL.EN is 1 and the page's function enabled. -/
def State.calOn (s : State) : Bool := s.bit pCAL CAL.CAL_CTRL.EN && s.enabled pCAL

/-- A pause that interrupts a step holds: conditions 1, 2 and 3, or the sequencer stopped. -/
def State.calStops (s : State) (u : Nat) : Bool :=
  !s.unitTracks u || !s.servedPage (unitPage u) || s.brownOut || !s.calOn

/-- U_STAT.CAUSE (R142): the lowest code that holds. -/
def State.calCause (s : State) (u : Nat) : Nat :=
  if !s.unitTracks u then 1
  else if !s.servedPage (unitPage u) then 2
  else if s.brownOut then 3
  else if s.fld pTHERM THERM.TH_STAT.LEVEL != 0 then 4
  else if s.phase u == 1 && ((s.calSt u).quiet == 1 || (s.calSt u).quiet == 2) then 5
  else if !s.calOn || (s.phase u == 0 && (s.calSt u).held) then 6
  else 0

/-! ## The end of a step -/

/-- Set the masks of SUSPECT and revisit slices; U_STAT.SUSPECT shows whether any slice is SUSPECT. -/
def State.setMarks (s : State) (u suspect revisit : Nat) : State :=
  (s.modCal u fun x => { x with suspect := suspect, revisit := revisit }).setFld pCAL (uf u CAL.U_STAT.SUSPECT)
    (if suspect = 0 then 0 else 1)

/-- Mark a slice for revisit. -/
def State.toRevisit (s : State) (u sl : Nat) : State := s.setMarks u (s.calSt u).suspect ((s.calSt u).revisit ||| 2 ^ sl)

/-- Unmark a slice. -/
def State.unmark (s : State) (u sl : Nat) : State :=
  s.setMarks u ((s.calSt u).suspect - ((s.calSt u).suspect &&& 2 ^ sl)) ((s.calSt u).revisit - ((s.calSt u).revisit &&& 2 ^ sl))

/-- Put a slice in the spare role, 31 for none. -/
def State.setSpareSlice (s : State) (u sl : Nat) : State := s.setFld (mapBase u) smSpare sl
/-- Put a slice out for calibration, 31 for none. -/
def State.setCalOut (s : State) (u sl : Nat) : State := s.setFld (mapBase u) smCal sl
/-- Let a slice serve a position. -/
def State.setPos (s : State) (u p sl : Nat) : State := s.setFld (mapBase u) (smPos p) sl
/-- Set the phase of a unit. -/
def State.setPhase (s : State) (u ph : Nat) : State := s.setFld pCAL (uf u CAL.U_STAT.PHASE) ph

/-- The lane goes on with a flagged slice and no spare (R141). -/
def State.degrade (s : State) (u : Nat) : State :=
  (s.setFld pCAL (uf u CAL.U_STAT.DEGRADED) 1).raise CAL.evSLICE_DEGRADED 0

/-- No slice is left beside the sixteen that serve (R140); a SUSPECT slice then makes the lane DEGRADED. -/
def State.exhaustCheck (s : State) (u : Nat) : State :=
  if s.spare u = 31 ∧ s.calOut u = 31 ∧ s.phase u = 0 ∧ !s.bit pCAL (uf u CAL.U_STAT.EXHAUSTED) then
    let s := (s.setFld pCAL (uf u CAL.U_STAT.EXHAUSTED) 1).raise CAL.evSPARE_EXHAUSTED 0
    s.when ((s.serving u).any (fun sl => (s.calSt u).suspect.testBit sl)) (fun s => s.degrade u)
  else s

/-- FRAME_CNT of the unit's lane. -/
def State.unitFrame (s : State) (u : Nat) : Word :=
  s.rd (if u < 8 then pLRX u + LRX.FRAME_CNT else pLTX (u - 8) + LTX.FRAME_CNT)

/-- Retire a slice that serves no position (R135). Causes in the record: 1 reference check, 2 disagreement, 3 command (DESIGN
CHOICE, log entry 16). -/
def State.retireSlice (s : State) (u sl cause : Nat) : State :=
  if s.sliceRetired u sl then s
  else
    let s := (s.setFld (mapBase u) (smRet sl) 1).unmark u sl
    let s := s.when (s.spare u == sl) (fun s => s.setSpareSlice u 31)
    let s := s.when (s.calOut u == sl) (fun s => s.setCalOut u 31)
    let s := s.raiseAct CAL.evSLICE_RETIRED 0
      [BitVec.ofNat 32 u, BitVec.ofNat 32 sl, BitVec.ofNat 32 cause, s.unitFrame u]
    s.exhaustCheck u

/-- Slice `sl` is retired if a command named it (R136). -/
def State.retireNamed (s : State) (u sl : Nat) : State :=
  s.when ((s.calSt u).retireCmd.contains sl) fun s =>
    (s.modCal u fun x => { x with retireCmd := x.retireCmd.filter (· != sl) }).retireSlice u sl 3

/-- The unit's step ends: no slice is under visit. -/
def State.endStep (s : State) (u : Nat) : State :=
  let s := s.modCal u fun x => { x with spareVisit := false, todo := 0, acc := [], bad := 0, passes := 0, failA := 0, failB := 0,
                                        dead := false, wait := 0, quiet := 0 }
  let s := s.setFld pCAL (uf u CAL.U_STAT.PHASE) 0
  let s := s.setFld pCAL (uf u CAL.U_STAT.SLICE) 31
  let s := (s.setFld pCAL (uf u CAL.U_STAT.POS) 0).setFld pCAL (uf u CAL.U_STAT.RETRY) 0
  s.exhaustCheck u

/-- A RETURN not yet applied is withdrawn: MC[C] keeps its previous corrections (R142). -/
def State.dropReturn (s : State) (u : Nat) : State :=
  let page := unitPage u
  let c := s.visited u
  let a := page + (if u < 8 then LRX.MC_A else LTX.MC_A) + 8 * c
  let s := { s with commits := s.commits.filter (fun r => !(r.page == page && r.src == 2)) }
  ((s.wr a (s.inf a)).wr (a + 4) (s.inf (a + 4))).showPending page

/-- A step is abandoned (R131, R142): in PHASE or SHADOW no position changes; after the hand-over the results are discarded
and C becomes the spare at the next commit point, marked for revisit. -/
def State.abandon (s : State) (u : Nat) : State :=
  let ph := s.phase u
  if ph = 1 ∨ ph = 2 then s.endStep u
  else if ph = 0 then s
  else
    let c := s.visited u
    let s := s.when (ph == 5) (fun s => s.dropReturn u)
    let s := s.toRevisit u c
    if (s.calSt u).spareVisit then
      let t := s.endStep u
      if s.unitRuns u then t else t.retireNamed u c
    else
      let s := s.endStep u
      s.modCal u fun x => { x with wait := 3 }

/-! ## Self-test (R577, R578) -/

/-- A self-test ends with a result (R577, R588): 0 PASS, 1 FAIL, 2 REFUSED, 3 ABORTED, 4 NOT_ALLOWED. -/
def State.bistEnd (s : State) (res : Nat) : State :=
  let s := { s with boot := { s.boot with bist := none } }.wr (pBIST + BIST.BT_STAT) (BitVec.ofNat 32 (2 ^ 31 + res * 2 ^ 24))
  if res = 0 then s.raise BIST.evBIST_DONE 0 else s.raise BIST.evBIST_FAIL 0

/-- The lane under a loopback test has been started (R578). -/
def State.loopStarted (s : State) : Bool :=
  match s.boot.bist with
  | some (t, n) =>
    if t = 5 then s.fld (pLRX n) LRX.LN_STAT.STATE != 0 else t == 6 && s.fld (pHSL n) HSL.RX_STAT.STATE != 0
  | none => false

/-! ## What a change sets off -/

/-- Raise PORT_UP, PORT_DOWN and FROZEN_CHANGE for every port whose state differs from what it was in `s0` (R198), abandon
the steps of units that a pause interrupts (R142), and abort a loopback test whose lane has been started (R578). -/
def watch (s0 s : State) : State :=
  let s := s.when s.loopStarted fun s => s.bistEnd 3
  let s := s.each (List.range 8) fun s p =>
    let u0 := s0.portState p == 2
    let u1 := s.portState p == 2
    let s := s.when (u1 && !u0) (fun s => s.raise (evAt PORT.evPORT_UP p) 0)
    let s := s.when (u0 && !u1) (fun s => s.raise (evAt PORT.evPORT_DOWN p) 0)
    s.when (s0.frozen p != s.frozen p) (fun s => s.raise (evAt PORT.evFROZEN_CHANGE p) 0)
  s.each (List.range 16) fun s u => s.when (s.phase u != 0 && s.calStops u) (fun s => s.abandon u)

end Sys2Proof.Machine
end

