-- ==== Sys2Proof/Machine/Cores.lean ====
section
/-! DEFINITION. Cores as wholes: traps and interrupts (R239, R243, R244), faults and retirement (R245, R263), and the end of an
engine's work in flight (R262). -/

namespace Sys2Proof.Machine

/-- SR.TBUSY. -/
def Core.tbusy (c : Core) : Bool := c.sr.getLsbD 3
/-- SR.IE. -/
def Core.ie (c : Core) : Bool := c.sr.getLsbD 2
/-- SR.LEVEL. -/
def Core.level (c : Core) : Nat := getBits c.sr 0 2

/-- IPEND (R244): the latched sources TAP, TIMER and PERF; MBOX while the mailbox is not empty, DMA and COMMIT while a
completion has not been read. -/
def Core.pend (c : Core) : Word :=
  c.ipend ||| (if c.mbox.isEmpty then 0 else 1) ||| (if c.dmaIrq.isEmpty then 0 else 2) ||| (if c.cpIrq.isEmpty then 0 else 8)

/-- IPEND of a core. The supervisor's event interrupt (R428) has a source number that the spec does not state: it is free
(log entry 8). -/
def State.pend (s : State) (k : Nat) : Word :=
  if k = supId then
    let m : Word := BitVec.ofNat 32 (2 ^ (Config.supEventSource % 32))
    if s.intS then (s.core k).pend ||| m else (s.core k).pend &&& ~~~m
  else (s.core k).pend

/-- The level a core enters at a trap or interrupt: kernel on an engine, privileged on the supervisor (R239, R548). -/
def entryLevel (k : Nat) : Word := if k = supId then 2 else 1

/-- The entry of R239: SR into TSR, the level raised, IE 0, TBUSY 1, the predicates kept, TPC and TCODE written. -/
def Core.enter (c : Core) (level tpc code : Word) : Core :=
  { c with tsr := c.sr, sr := (c.sr &&& 0xF0) ||| 0x8 ||| level, tpc := tpc, tcode := code }

/-- Change the state code of an engine (R235). -/
def State.setEng (s : State) (k st : Nat) : State :=
  if k = supId then { s with supState := st } else s.setFld (pCLU (k / 16)) (eCtrl k CLU.E_STAT.STATE) st

/-- The targets that name engine `k` as owner: cluster and target. -/
def State.ownedBy (s : State) (k : Nat) : List (Nat × Nat) :=
  ((List.range 10).flatMap fun c => (List.range 8).map fun t => (c, t)).filter (fun p => s.cpOwner p.1 p.2 == some k)

/-- An engine leaves RUN or WAIT: SERVE_HOLD begins to run for its targets, from the first leaving (R233, R267). -/
def State.leaveRun (s : State) (k : Nat) : State :=
  (s.ownedBy k).foldl (fun s p =>
    if (s.clu p.1).holdRun.contains p.2 then s
    else s.modClu p.1 fun u => { u with holdRun := u.holdRun ++ [p.2] }) s

/-- An engine enters RUN: its targets are served again by it. -/
def State.enterRun (s : State) (k : Nat) : State :=
  (s.ownedBy k).foldl (fun s p => s.modClu p.1 fun u => { u with holdRun := u.holdRun.filter (· != p.2) }) s

/-- The engine's work in flight ends (R262): shadows written without a request return to the values in force, and each DMA
channel it started ends as a cancel. Accepted commit requests and a tap snapshot go on. -/
def State.endWork (s : State) (k : Nat) : State :=
  let s := (s.core k).dirty.foldl (fun s d => s.revertGroup (d / 4096 * 4096) (d % 4096)) s
  let s := s.modCore k (fun x => { x with dirty := [], stalled := false })
  s.each (List.range 16) fun s c =>
    s.modClu c fun u => { u with dma := u.dma.map (fun e => if e.2.core = k then (e.1, { e.2 with cancel := true }) else e) }

/-- Word 4 of an engine's ACTION record (R627). -/
def actWord (k action : Nat) : Word := BitVec.ofNat 32 (action + 256 * (k % 16) + 4096 * (k / 16))

/-- The faults of an engine within the last FAULT_WIN seconds (R263), 7 at most. -/
def State.faultCount (s : State) (k : Nat) : Nat :=
  let win := 625000000 * s.fld (pCLU (k / 16)) CLU.FAULT_CFG.FAULT_WIN
  min ((s.core k).faultTicks.filter (fun t => decide (s.tick ≤ t + win))).length 7

/-- Retire an engine (R263): RETIRED in any state, its work ended, ENG_RETIRED raised and the ACTION record of R627 written. -/
def State.retire (s : State) (k : Nat) (byCtrl : Bool) : State :=
  if s.coreState k = 4 then s else
    let s0 := s
    let st := s.coreState k
    let s := s.when (st == 1 || st == 2) (fun s => s.leaveRun k)
    let s := s.when (st == 1 || st == 2 || st == 5) (fun s => s.endWork k)
    let s := s.setEng k 4
    watch s0 (s.raiseAct CLU.evENG_RETIRED (k / 16) [actWord k 3, BitVec.ofNat 32 (s.faultCount k), if byCtrl then 1 else 0, 0])

/-- An engine faults (R245): FAULT, CAUSE and E_FAULT recorded, its work ended (R262), the fault counted within FAULT_WIN and
the engine retired at FAULT_LIM under AUTO_RETIRE (R263). -/
def State.engFault (s : State) (k cause : Nat) : State :=
  let s0 := s
  let b := pCLU (k / 16)
  let s := (s.leaveRun k).endWork k
  let s := (s.setEng k 3).setFld b (eCtrl k CLU.E_STAT.CAUSE) cause
  let s := s.wr (b + CLU.E_FAULT + 4 * (k % 16)) (s.core k).pc
  let win := 625000000 * s.fld b CLU.FAULT_CFG.FAULT_WIN
  let s := s.modCore k fun x => { x with faultTicks := x.faultTicks.filter (fun t => decide (s.tick ≤ t + win)) ++ [s.tick] }
  let n := (s.core k).faultTicks.length
  let s := s.setFld b (eCtrl k CLU.E_STAT.FAULTS) (min n 7)
  let s := s.raiseAct CLU.evENG_FAULT (k / 16) [actWord k 1, (s.core k).pc, BitVec.ofNat 32 cause, 0]
  let s := watch s0 s
  if s.bit b CLU.CL_CTRL.AUTO_RETIRE && decide (max 1 (s.fld b CLU.FAULT_CFG.FAULT_LIM) ≤ n) then s.retire k false else s

/-- A trap (R239, R243): TPC is the trapping instruction, TADDR the address, encoding or code. On an engine whose SR.TBUSY is 1
it is a DOUBLE_TRAP fault instead (R245). -/
def State.trap (s : State) (k code : Nat) (addr : Word) : State :=
  if k ≠ supId ∧ (s.core k).tbusy then s.engFault k 1
  else
    let s := s.perfInstr k 0x05 none 1
    s.modCore k fun x => { x.enter (entryLevel k) x.pc (BitVec.ofNat 32 code) with taddr := addr, pc := x.tbase, stalled := false }

/-- A mailbox send (R249, R250): a message to a full mailbox is dropped and counted at the receiver; answers whether it was. -/
def State.mbSend (s : State) (k : Nat) (m : BitVec 64) : State × Bool :=
  if 8 ≤ (s.core k).mbox.length then
    (s.modCore k (fun x => { x with mbDropped := min (x.mbDropped + 1) 0xFFFF }), true)
  else (s.modCore k (fun x => { x with mbox := x.mbox ++ [m] }), false)

end Sys2Proof.Machine
end

