-- ==== Sys2Proof/Machine/Unsettle.lean ====
section
/-! DEFINITION. What a host error of R447 leaves: its result is unpredictable, and the block goes on in any state that its registers can
express, confined to the pages named. Every register of such a page holds a free value (DESIGN CHOICE, log entry 90). -/

namespace Sys2Proof.Machine

/-- The page families of the control plane: the protection map, the event log and the ability to answer are kept (R447). -/
def controlPlane (fam : Nat) : Bool := decide (fam ≤ 7) || fam == 27

/-- A register that a host error on its page leaves free. On the control plane the registers that show what the device is in, the
protection map and the log keep their values. -/
def unsettled (fam : Nat) (row : RegRow) (off : Nat) : Bool :=
  decide (0x040 ≤ off) && row.acc != .wo && (!controlPlane fam || row.acc == .rw || row.acc == .rws || row.acc == .rwl || row.acc == .w1c)
    && !(fam == 6 && decide (PROT.MAP ≤ off)) && !(fam == 5 && !(decide (EVT.ROUTE_A ≤ off) && decide (off < EVT.ROUTE_S + 0x80)))

/-- The registers of a page that a host error leaves free: offset and the bits that the field map defines. -/
def unsettledRegs (fam : Nat) : List (Nat × Word) :=
  (pageRows fam).flatMap fun row =>
    ((List.range (if row.stride = 0 then 1 else row.count)).map fun j => (row.off + row.stride * j, row.mask)).filter
      fun e => unsettled fam row e.1

/-- The registers of a page take free values, a boundary-applied one in its shadow and in force. -/
def State.unsettlePage (s : State) (page : Nat) : State :=
  let fam := famOf page
  let s := (unsettledRegs fam).foldl (fun s e =>
    let s := s.wr (page + e.1) (Config.freeReg s.free (page + e.1) &&& e.2)
    if (groupOf fam e.1).isSome then s.setInf (page + e.1) (Config.freeReg (s.free + 1) (page + e.1) &&& e.2) else s) s
  { s with free := s.free + 2 }

/-- The result of a host error confined to some pages (R447). -/
def State.unsettle (s : State) (l : List Nat) : State := l.foldl State.unsettlePage s

end Sys2Proof.Machine
end

