-- ==== Sys2Proof/Machine/Txn.lean ====
section
/-! DEFINITION. Transactions: where an address leads (R412, R413), which writes are taken (R11, R13, R438, R442, R447, R454, R629),
how an error reaches its requester (R419, R424, R426, R628), and how a command that is a register write runs. -/

namespace Sys2Proof.Machine

/-- The outcome of an exec. -/
abbrev R := Host.Outcome State Fault Refusal

/-- The outcome of a write at its block: taken (a host error of R447 is taken, with its free result), or refused with a cause of R419 (the
state holds what the refusal itself raises). -/
inductive Out where
  | ok (s : State)
  | err (cause : Nat) (s : State)

/-- A host error confined to some pages: the write is taken, and their registers hold what they may (R447). -/
def hostError (pages : List Nat) (s : State) : Out := .ok (s.unsettle pages)

/-! ## Where an address leads -/

/-- What stands at a device address. -/
inductive Region where
  | rom
  | mem (inst idx : Nat)
  | page (fam i off : Nat)
  | peer
  | none
deriving DecidableEq, Repr

/-- The boot stage that needs a page's island; before it the page is unpopulated (R551, R413; DEDUCED, log entry 9). The pages of the minimum management
set (families 0 to 5) answer throughout (R40, R41). -/
def stageOf (fam : Nat) (slave : Bool) : Nat :=
  if fam = 14 ∨ fam = 15 ∨ fam = 20 then 4
  else if fam = 26 ∨ fam = 27 then (if slave then 1 else 4)
  else if 9 ≤ fam ∧ fam ≤ 13 ∨ 16 ≤ fam ∧ fam ≤ 19 then 3
  else if 6 ≤ fam then 1
  else 0

/-- Whether NIGHT power-gates a page's island (R412, R413): the lanes, the clusters and the switched housekeeping domain. -/
def nightGated (fam : Nat) : Bool := (decide (9 ≤ fam) && decide (fam ≤ 19)) || (decide (28 ≤ fam) && decide (fam ≤ 30))

/-- PWR_STAT.STATE reads NIGHT. -/
def State.inNight (s : State) : Bool := s.fld pPWR PWR.PWR_STAT.STATE == 3

/-- Whether a variant has instance `i` of a page (R3). -/
def State.present (s : State) (fam i : Nat) : Bool :=
  if fam = 9 ∨ fam = 10 ∨ fam = 12 ∨ fam = 13 ∨ fam = 18 ∨ fam = 19 then decide (i < s.lines)
  else if fam = 15 then decide (i < s.hosts)
  else if fam = 16 ∨ fam = 17 then s.hasCluster i
  else true

/-- The reset group whose island a page belongs to (R458, R469). -/
def groupOfPage (fam i : Nat) : Option Nat :=
  if fam = 9 ∨ fam = 10 ∨ fam = 12 ∨ fam = 13 ∨ fam = 18 ∨ fam = 19 then some i
  else if fam = 15 then some (8 + i)
  else if fam = 16 ∨ fam = 17 then some (24 + i)
  else if fam = 0 then some 40
  else if fam = 20 then some 41
  else if fam = 26 ∨ fam = 27 then some 42
  else none

/-- A page whose group is being reset is unpopulated (R470). -/
def State.resetting (s : State) (fam i : Nat) : Bool :=
  match groupOfPage fam i with
  | some g => s.pwr.groups.contains g || (s.pwr.warm && ((decide (24 ≤ g) && decide (g ≤ 40)) || g == 42))
  | none => false

/-- Whether a register page is populated now (R413). -/
def State.pageUp (s : State) (fam i : Nat) : Bool :=
  s.present fam i && !(s.inNight && nightGated fam) && decide (stageOf fam s.slave ≤ s.upStage) && !s.resetting fam i

/-- Whether a cluster's window is populated now. -/
def State.windowUp (s : State) (c : Nat) : Bool := s.pageUp 16 c

/-- Whether a requester may use the cascade-peer range (R412, R413, R570). -/
def State.peerOpen (s : State) (r : Requester) : Bool :=
  s.linkUp && (match r with | .sup => true | .spi => !s.slave | .mdio => !s.slave | _ => false)

/-- The memory word at an offset of a cluster window (R248, R352). -/
def windowMem (c o : Nat) : Region :=
  if o < 0x40000 then .mem (8 + 3 * c) (o / 8)
  else if 0x100000 ≤ o ∧ o < 0x200000 then
    let e := (o - 0x100000) / 0x10000
    let q := o % 0x10000
    if q < 0x4000 then .mem (9 + 3 * c) (2048 * e + q / 8)
    else if 0x8000 ≤ q ∧ q < 0xC000 then .mem (10 + 3 * c) (2048 * e + (q - 0x8000) / 8)
    else .none
  else .none

/-- An engine reaches register pages alone over the system bus (R246); of the memories it names here only its own IRAM, as an
instruction fetch. -/
def ownRange (r : Requester) (a : Nat) : Bool :=
  match r with
  | .engine c e =>
    let b := 0x20100000 + 0x1000000 * c + 0x10000 * e
    decide (b ≤ a) && decide (a < b + 0x4000)
  | _ => true

/-- Where an address leads for a requester (R412, R413). -/
def State.region (s : State) (r : Requester) (a : Nat) : Region :=
  if s.pwr.hold then .none
  else if a < 0x20000 then .rom
  else if 0x08000000 ≤ a ∧ a < 0x08080000 && ownRange r a then .mem (1 + (a - 0x08000000) / 0x20000) (a % 0x20000 / 8)
  else if 0x10000000 ≤ a ∧ a < 0x11000000 then
    match findPage a with
    | some (p, i, off) => if s.pageUp p.fam i then .page p.fam i off else .none
    | none => .none
  else if 0x18000000 ≤ a ∧ a < 0x19000000 then (if s.peerOpen r then .peer else .none)
  else if 0x20000000 ≤ a ∧ a < 0x30000000 then
    let c := (a - 0x20000000) / 0x1000000
    if s.windowUp c && ownRange r a then windowMem c (a % 0x1000000) else .none
  else if 0x40000000 ≤ a ∧ a < 0x40000000 + s.dramSize && ownRange r a then .mem 0 ((a - 0x40000000) / 32)
  else .none

/-- The family whose map entry judges a write to a memory instance (R414, R442). -/
def memFam (inst : Nat) : Nat := if inst = 0 then 34 else if inst ≤ 4 then 32 else 33

/-- The device address of a word of a memory instance. -/
def devAddr (inst idx : Nat) : Nat :=
  if inst = 0 then 0x40000000 + 32 * idx
  else if inst ≤ 4 then 0x08000000 + 0x20000 * (inst - 1) + 8 * idx
  else
    let c := (inst - 8) / 3
    let w := 0x20000000 + 0x1000000 * c
    match (inst - 8) % 3 with
    | 0 => w + 8 * idx
    | 1 => w + 0x100000 + 0x10000 * (idx / 2048) + 8 * (idx % 2048)
    | _ => w + 0x100000 + 0x10000 * (idx / 2048) + 0x8000 + 8 * (idx % 2048)

/-! ## Errors and their requesters -/

/-- Record a memory bus error (R366, R384): device address for DRAM, word index for SRAM. -/
def State.memErr (s : State) (cause inst idx m pos : Nat) : State :=
  let s := s.wr (pMEM + MEM.ERR_ADDR) (BitVec.ofNat 32 (if inst = 0 then devAddr 0 idx else idx))
  let s := s.wr (pMEM + MEM.ERR_INFO) (BitVec.ofNat 32 (cause * 2 ^ 28 + inst * 2 ^ 22 + m * 2 ^ 12 + pos))
  s.addSat pMEM (whole MEM.ERR_CNT) 1

/-- The failure of a host frame (R424, R451, R452): HERR_ADDR, HERR_INFO, HERR_CNT and HOST_BERR. -/
def State.hostErr (s : State) (iface cause addr word : Nat) : State :=
  let s := s.wr (pEVT + EVT.HERR_ADDR) (BitVec.ofNat 32 addr)
  let s := s.wr (pEVT + EVT.HERR_INFO) (BitVec.ofNat 32 (cause * 2 ^ 28 + iface * 2 ^ 24 + word))
  let s := s.addSat pEVT (whole EVT.HERR_CNT) 1
  s.raiseBy EVT.evHOST_BERR 0 (if iface = 2 then 5 else iface)

/-- The first failing transaction of the open SPI frame (R424); later ones change nothing. -/
def State.spiFail (s : State) (cause addr word : Nat) : State :=
  match s.spi.err with
  | some _ => s
  | none => ({ s with spi := { s.spi with err := some cause } }).hostErr 0 cause addr word

/-- A failing transaction of the MDIO window (R426): STAT.ERR with the cause of the first failure since STAT was read. -/
def State.mdioFail (s : State) (cause addr : Nat) : State :=
  let s := { s with mdio := { s.mdio with err := match s.mdio.err with | some c => some c | none => some cause } }
  s.hostErr 1 cause addr 0

/-- An error reaches its requester's status (R419, R436): the SPI or MDIO status, a BUS trap, or the RSP of a forwarded
transaction. A write that one command issues by itself over SPI is a frame of its own. -/
def State.reportErr (s : State) (r : Requester) (cause addr : Nat) : State :=
  match r with
  | .spi =>
    if s.spi.inFrame then s.spiFail cause addr s.spi.word
    else ({ s with spi := { s.spi with prevErr := some cause } }).hostErr 0 cause addr 0
  | .mdio => s.mdioFail cause addr
  | .cascHost => ({ s with cascStatus := Tbl.put (some 0) s.cascStatus 5 cause }).hostErr 2 cause addr 0
  | .cascSup => { s with cascStatus := Tbl.put (some 0) s.cascStatus 6 cause }
  | .sup => s.trap supId 5 (BitVec.ofNat 32 addr)
  | .engine c e => s.trap (16 * c + e) 5 (BitVec.ofNat 32 addr)
  | .supDma => s
  | .part => s
  | .clusterDma _ _ => s

/-- A requester's transaction succeeds: a one-write SPI frame of its own leaves no error for the next leading status. -/
def State.reportOk (s : State) (r : Requester) : State :=
  match r with
  | .spi => if s.spi.inFrame then s else { s with spi := { s.spi with prevErr := none } }
  | _ => s

/-! ## Gathered writes issued early (R420, R628) -/

/-- Forget what a requester has gathered. -/
def State.dropGather (s : State) (m : Nat) : State := { s with gathers := Tbl.erase s.gathers m }

/-- Issue what a requester has gathered as a narrow write: nothing is written, ERR_ADDR and ERR_INFO record it, NARROW_REJ is
raised, and its requester is told (R628). Answers whether the supervisor's causing instruction is trapped by it. -/
def State.issueNarrow (s : State) (r : Requester) : State × Bool :=
  let m := s.master r
  match (if r = .sup then s.supHeld else none), Tbl.find s.gathers m with
  | some a, _ => (({ s with supHeld := none }).trap supId 5 (BitVec.ofNat 32 a), true)
  | none, none => (s, false)
  | none, some g =>
    let s := s.dropGather m
    let s := match s.region r g.base with
      | .mem inst idx => s.memErr 3 inst idx m 127
      | _ => s
    let s := s.raiseBy MEM.evNARROW_REJ 0 m
    match r with
    | .spi => if s.spi.inFrame then (s.spiFail 3 g.base g.first, false) else (s.reportErr .spi 3 g.base, false)
    | .sup => (s.trap supId 5 (BitVec.ofNat 32 g.base), true)
    | r => (s.reportErr r 3 g.base, false)

/-! ## Which register writes are taken -/

/-- The PROT page's own rules (R454, R445): which class may write which offset. RATIFY belongs to the ratifier, the cascade
peer's supervisor while TRC_CTRL.MODE is cascade, else the local supervisor. -/
def State.protAllows (s : State) (m off : Nat) : Bool :=
  let cls := (classOf m).getD 99
  if off < 0x040 then cls == 0 || cls == 1 || cls == 2 || cls == 10
  else if off = PROT.PROP_FAM ∨ off = PROT.PROP_MASK ∨ off = PROT.PROP_CMD then cls == 0 || cls == 1 || cls == 10
  else if off = PROT.RATIFY then cls == (if s.peerRatifies then 11 else 2)
  else false

/-- Whether the protection map admits a write of a master to a family (R442). -/
def State.mapAllows (s : State) (m fam : Nat) : Bool :=
  match classOf m with
  | none => true
  | some b => (s.rd (pPROT + PROT.MAP + 4 * fam)).getLsbD b

/-- Whether a master may write an offset of a page (R442, R454). PART writes only SNAP registers (R443; refused with PROT: DESIGN CHOICE, log
entry 104). -/
def State.mayWrite (s : State) (m fam off : Nat) : Bool :=
  if fam = 6 then s.protAllows m off else s.mapAllows m fam && (m != 4 || off == HDR.SNAP)

/-- The command writes that act while their page drains: bits that end, cancel or withdraw work, or take out or clear results,
and no other bit (R438). -/
def drainExempt (fam off : Nat) (v : Word) : Bool :=
  let only (m : Word) : Bool := v != 0 && v &&& ~~~m == 0
  if fam = 22 ∧ off = DRAM.FILL_CMD then only 0x2
  else if fam = 26 ∧ off = TRC.EXP_CMD then only (BitVec.ofNat 32 (2 ^ TRC.EXP_CMD.CANCEL.lo))
  else if fam = 25 ∧ off = RPL.RP_CMD then only (BitVec.ofNat 32 (2 ^ RPL.RP_CMD.ABORT.lo))
  else if fam = 24 ∧ off = CAP.CP_CMD then only (BitVec.ofNat 32 (2 ^ CAP.CP_CMD.STOP.lo))
  else if fam = 19 ∧ off = DAWN.DW_CMD then
    only (BitVec.ofNat 32 (2 ^ DAWN.DW_CMD.ABORT.lo + 2 ^ DAWN.DW_CMD.RX_POP.lo + 2 ^ DAWN.DW_CMD.CNT_CLR.lo))
  else if fam = 11 ∧ CAL.U_CMD ≤ off ∧ off < CAL.U_CMD + 4 * 16 then only (BitVec.ofNat 32 (2 ^ CAL.U_CMD.HOLD.lo))
  else if fam = 28 ∧ off = HKADC.HK_CMD then
    only (BitVec.ofNat 32 (2 ^ HKADC.HK_CMD.RQ_FLUSH.lo + 2 ^ HKADC.HK_CMD.CNT_CLR.lo))
  else false

/-- A write of a register, up to its own effect: refused by the PROT rules or the map (R442, R454), as a command to a
draining page (R438) or by LOCK (R11); ignored where the offset is unlisted (R13) or read-only (R11); a host error confined to the page
where a reserved field is not 0 (R13, R447). -/
def State.gate (s : State) (m fam i off : Nat) (v : Word) (eff : State → Out) : Out :=
  let b := pageAt fam i
  if !s.mayWrite m fam off then .err 6 (s.raiseBy PROT.evPROT_DENIED 0 m)
  else match findRow fam off with
    | none => .ok s
    | some row =>
      if row.acc = .wo ∧ off ≠ HDR.SNAP ∧ s.fstate b = 2 ∧ !drainExempt fam off v then .err 8 s
      else if row.acc = .ro then .ok s
      else if row.acc = .rwl ∧ s.bit b HDR.LOCK then .err 7 s
      else if v &&& ~~~row.mask ≠ 0 then hostError [b] s
      else eff s

/-- A transaction that writes one register: the address checked (R629, R413), then the gate, then the effect. -/
def State.wrGate (s : State) (r : Requester) (a : Nat) (v : Word) (eff : State → Out) : Out :=
  if a % 4 ≠ 0 then .err 10 s
  else match s.region r a with
    | .page fam i off => s.gate (s.master r) fam i off v eff
    | _ => .err 5 s

/-- The end of a transaction: what an outcome leaves once its requester has been told. -/
def State.settle (r : Requester) (a : Nat) : Out → State
  | .ok s => s.reportOk r
  | .err c s => s.reportErr r c a

/-- The end of a transaction as the outcome of its command. -/
def finish (r : Requester) (a : Nat) (o : Out) : R := .next (State.settle r a o)

/-- A command that is one register write by a requester (R418, R436): what the requester had gathered issues first (R420); when
that traps the supervisor, the write has no effect (R628). -/
def txn (r : Requester) (a : Nat) (v : Word) (eff : State → Out) (s : State) : R :=
  let (s, trapped) := s.issueNarrow r
  if trapped then .next s else finish r a (s.wrGate r a v eff)

/-- A command that is one register read by a requester: what it had gathered issues first (R420); an address that holds no
register answers an error (R413, R629). `f` answers the word read and the state after the read's own effect. -/
def readTxn (r : Requester) (a : Nat) (f : State → Word × State) (s : State) : R :=
  let (s, trapped) := s.issueNarrow r
  if trapped then .next s
  else if a % 4 ≠ 0 then .next ((s.deliver (s.respKey r) 0).reportErr r 10 a)
  else match s.region r a with
    | .page _ _ _ => let (w, s) := f s; .next ((s.deliver (s.respKey r) w.toNat).reportOk r)
    | _ => .next ((s.deliver (s.respKey r) 0).reportErr r 5 a)

/-! ## Plain effects -/

/-- A plain RW, RWS or RWL write. -/
def effStore (a : Nat) (v : Word) (s : State) : Out := .ok (s.wr a v)

/-- A W1C write: 1 clears the bit (R11). -/
def effW1c (a : Nat) (v : Word) (s : State) : Out := .ok (s.wr a (s.rd a &&& ~~~v))

end Sys2Proof.Machine
end

