-- ==== Sys2Proof/Machine/Memory.lean ====
section
/-! DEFINITION. The memories and their codes (R352 to R379): bytes and code words, the decoder's verdict, corrections, buckets,
the suspect table, poison, row repair and the bulk fill. -/

namespace Sys2Proof.Machine

/-! ## Bytes -/

/-- What an unlisted address reads as: SRAM is zeroed (R361); a DRAM byte holds the newest bulk fill over it (R364), and
one that no fill covers was never written. -/
def unlisted (fills : List Fill) (a : Nat) : Option Byte :=
  if a < 0x40000000 then some 0
  else match fills.find? (fun f => decide (f.base ≤ a) && decide (a < f.base + f.len)) with
    | some f => some (f.pat.extractLsb' (8 * ((a - f.base) % 8)) 8)
    | none => none

/-- A byte of memory, none where DRAM was never written. -/
def State.byte (s : State) (a : Nat) : Option Byte :=
  match Tbl.find s.mem a with
  | some b => some b
  | none => unlisted s.ms.fills a

/-- The canonical form of memory: addresses strictly rising, and no entry equal to what its address reads as unlisted. -/
def Memory.wf (s : State) : Bool := Tbl.wf (unlisted s.ms.fills) s.mem

/-- Write a byte. -/
def State.putByte (s : State) (a : Nat) (b : Byte) : State := { s with mem := Tbl.put (unlisted s.ms.fills a) s.mem a b }

/-- Write bytes from an address up. -/
def State.putBytes (s : State) (a : Nat) : List Byte → State
  | [] => s
  | b :: t => (s.putByte a b).putBytes (a + 1) t

/-- The low `n` bytes of a number, least significant first (R9). -/
def toBytes : Nat → Nat → List Byte
  | 0, _ => []
  | n + 1, v => BitVec.ofNat 8 v :: toBytes n (v / 256)

/-- Bytes, least significant first, as a number. -/
def ofBytes : List Byte → Nat
  | [] => 0
  | b :: t => b.toNat + 256 * ofBytes t

/-- The number that `n` bytes from an address hold; none if one was never written. -/
def State.number (s : State) (a : Nat) : Nat → Option Nat
  | 0 => some 0
  | n + 1 =>
    match s.byte a, s.number (a + 1) n with
    | some b, some v => some (b.toNat + 256 * v)
    | _, _ => none

/-- Bytes of a code word: 32 for DRAM, 8 for SRAM (R352). -/
def wordLen (inst : Nat) : Nat := if inst = 0 then 32 else 8

/-- Whether an instance exists on this device (R352). -/
def State.hasInst (s : State) (inst : Nat) : Bool :=
  decide (inst ≤ 4) || (decide (8 ≤ inst) && decide (inst ≤ 55) && s.hasCluster ((inst - 8) / 3))

/-- Code words of an instance. -/
def State.instWords (s : State) (inst : Nat) : Nat :=
  if inst = 0 then s.dramSize / 32 else if inst ≤ 4 then 16384 else 32768

/-- Key of a code word. -/
def wordKey (inst idx : Nat) : Nat := inst * 2 ^ 26 + idx

/-- INIT bit of the granule of a DRAM word (R362). -/
def State.initBit (s : State) (g : Nat) : Bool := (s.rd (pDRAM + DRAM.INIT_MAP + 4 * (g / 32))).getLsbD (g % 32)

/-- Set or clear a granule's INIT bit. -/
def State.setInit (s : State) (g v : Nat) : State := s.setFld pDRAM (bitAt (DRAM.INIT_MAP + 4 * (g / 32)) (g % 32)) v

/-- A read of the word is UNINIT: DRAM whose granule's INIT bit is 0 (R363). -/
def State.uninit (s : State) (inst idx : Nat) : Bool := inst == 0 && !s.initBit (idx / 32768)

/-! ## The decoder (R353, R354) -/

/-- The decoder's verdict on a code word: the data it delivers, the position it corrected. -/
inductive Verdict where
  | clean (data : Nat)
  | corr (pos data : Nat)
  | uncorr (pos : Nat)
deriving DecidableEq, Repr

/-- The symbols (DRAM) or bits (SRAM) in which the cells differ from the code word last written. -/
def badPos (inst flip : Nat) : List Nat :=
  if inst = 0 then (List.range 36).filter (fun i => (flip >>> (8 * i)) % 256 != 0)
  else (List.range 72).filter (fun i => flip.testBit i)

/-- A verdict that the spec leaves open: more wrong symbols than R353 or R354 speak of, or a word never written (R363). -/
def State.freeVerdict (s : State) (inst : Nat) : Verdict × State :=
  let (n, s) := s.fresh
  let d := n / 4096 % 2 ^ (8 * wordLen inst)
  (match n % 3 with
   | 0 => .clean d
   | 1 => .corr (n / 8 % (if inst = 0 then 36 else 72)) d
   | _ => .uncorr 127, s)

/-- Decode a word as its cells stand (R353, R354). -/
def State.verdict (s : State) (inst idx : Nat) : Verdict × State :=
  match s.number (devAddr inst idx) (wordLen inst) with
  | none => s.freeVerdict inst
  | some d =>
    match badPos inst (Tbl.get 0 s.ms.flips (wordKey inst idx)) with
    | [] => (.clean d, s)
    | [p] => (.corr p d, s)
    | [_, _] => (.uncorr 127, s)
    | [_, _, _] => if inst = 0 then (.uncorr 127, s) else s.freeVerdict inst
    | _ => s.freeVerdict inst

/-- The cells of a word that flipped since it was last accessed: bit positions of the code word. -/
def State.upset (s : State) (inst idx : Nat) (bits : List Nat) : State :=
  let w := if inst = 0 then 288 else 72
  let f := (bits.filter (· < w)).foldl (fun f b => f ^^^ 2 ^ b) (Tbl.get 0 s.ms.flips (wordKey inst idx))
  { s with ms := { s.ms with flips := Tbl.put (some 0) s.ms.flips (wordKey inst idx) f } }

/-- The write-back of a word: its cells hold `data` under a valid code (R365). -/
def State.writeBack (s : State) (inst idx data : Nat) : State :=
  let s := s.putBytes (devAddr inst idx) (toBytes (wordLen inst) data)
  { s with ms := { s.ms with flips := Tbl.erase s.ms.flips (wordKey inst idx) } }

/-! ## Counts and buckets (R365, R367) -/

/-- BKT_CFG of an instance. -/
def bktCfg (inst : Nat) : Nat := if inst = 0 then MEM.BKT_CFG_D else MEM.BKT_CFG_S

/-- A corrected code word: CE_CNT, LAST_CE and the leaky bucket (R365, R367). -/
def State.corrected (s : State) (inst pos : Nat) : State :=
  let s := s.addSat pMEM (whole (MEM.CE_CNT + 4 * inst)) 1
  let s := s.wr (pMEM + MEM.LAST_CE) (BitVec.ofNat 32 (inst * 2 ^ 26 + pos))
  let lvl : Fld := ⟨MEM.BKT + 4 * inst, 0, 16⟩
  let cap := s.fld pMEM ⟨bktCfg inst, 0, 16⟩
  if cap < s.fld pMEM lvl + 1 then
    let s := (s.setFld pMEM lvl 0).addSat pMEM ⟨MEM.BKT + 4 * inst, 16, 16⟩ 1
    s.raiseRec MEM.evCE_OVERFLOW 0 0 [BitVec.ofNat 32 inst, s.rd (pMEM + MEM.CE_CNT + 4 * inst), 0, 0]
  else s.setFld pMEM lvl (s.fld pMEM lvl + 1)

/-! ## Poison (R376 to R378) -/

/-- Whether a word is in the poison map. -/
def State.poisoned (s : State) (inst idx : Nat) : Bool := s.ms.poison.any (fun e => e.2 == wordKey inst idx)

/-- Enter a word in the poison map: the lowest free entry, or POISON_FULL (R378). -/
def State.poison (s : State) (inst idx : Nat) : State :=
  if s.poisoned inst idx then s
  else match (List.range 1024).find? (fun i => (Tbl.find s.ms.poison i).isNone) with
    | some i => { s with ms := { s.ms with poison := Tbl.insert s.ms.poison i (wordKey inst idx) } }
    | none =>
      if s.bit pMEM MEM.MEM_STAT.POISON_FULL then s
      else (s.setFld pMEM MEM.MEM_STAT.POISON_FULL 1).raise MEM.evPOISON_FULL 0

/-- Remove the poison entries that `p` holds of; a freed entry ends POISON_FULL (R377, R378). -/
def State.unpoison (s : State) (p : Nat → Bool) : State :=
  if s.ms.poison.any (fun e => p e.2) then
    ({ s with ms := { s.ms with poison := s.ms.poison.filter (fun e => !p e.2) } }).setFld pMEM MEM.MEM_STAT.POISON_FULL 0
  else s

/-! ## The suspect table (R372) and row repair (R373 to R375) -/

/-- The slot of a word in the suspect table. -/
def State.suspSlot (s : State) (key : Nat) : Option Nat := (s.ms.suspects.find? (fun e => e.2.word == key)).map (·.1)

/-- Remove the suspect entries that `p` holds of. -/
def State.unsuspect (s : State) (p : Nat → Bool) : State :=
  { s with ms := { s.ms with suspects := s.ms.suspects.filter (fun e => !p e.2.word) } }

/-- The oldest entry with the lowest REPEAT. -/
def victim (l : Tbl Suspect) : Option Nat :=
  (l.foldl (fun (b : Option (Nat × Suspect)) e =>
    match b with
    | none => some e
    | some v => if e.2.rep < v.2.rep ∨ (e.2.rep = v.2.rep ∧ e.2.age < v.2.age) then some e else some v) none).map (·.1)

/-- Enter a word with REPEAT 0, evicting if the table is full (R372). -/
def State.suspect (s : State) (key pos : Nat) : State :=
  let s := if s.ms.suspects.length < 64 then s
    else match victim s.ms.suspects with
      | some v => ({ s with ms := { s.ms with suspects := Tbl.erase s.ms.suspects v } }).raise MEM.evSUSP_EVICT 0
      | none => s
  match (List.range 64).find? (fun i => (Tbl.find s.ms.suspects i).isNone) with
  | some i => { s with ms := { s.ms with suspects := Tbl.insert s.ms.suspects i ⟨key, 0, pos, s.ms.suspAge⟩,
                                         suspAge := s.ms.suspAge + 1 } }.startClock (clkSuspect i)
  | none => s

/-- Channel, bank and row of a DRAM word (R355). -/
def dramRow (idx : Nat) : Nat × Nat × Nat := (idx % 8, idx / 512 % 16, idx / 8192)

/-- Row number of a word in its channel and bank, or SRAM instance. -/
def rowOf (inst idx : Nat) : Nat := if inst = 0 then idx / 8192 else idx / 8

/-- First key and number of the spares of a word's row (R373, R386). -/
def sparesOf (inst idx : Nat) : Nat × Nat :=
  if inst = 0 then (512 * (idx % 8) + 32 * (idx / 512 % 16), 32) else (2 ^ 20 + 4 * inst, 4)

/-- A free spare for a word's row. -/
def State.freeSpare (s : State) (inst idx : Nat) : Option Nat :=
  let (b, n) := sparesOf inst idx
  ((List.range n).map (b + ·)).find? (fun k => (Tbl.find s.ms.spares k).isNone && !s.ms.repairs.any (fun r => r.spare == k))

/-- Whether a word's row already has a spare. -/
def State.rowSpared (s : State) (inst idx : Nat) : Bool :=
  let (b, n) := sparesOf inst idx
  s.ms.spares.any (fun e => decide (b ≤ e.1) && decide (e.1 < b + n) && e.2 == rowOf inst idx)

/-- A hard-faulted word: its row's copy starts, or REPAIR_EXHAUSTED with its record (R373, R374). -/
def State.hardFault (s : State) (inst idx pos : Nat) : State :=
  match s.freeSpare inst idx with
  | some sp => { s with ms := { s.ms with repairs := s.ms.repairs ++ [⟨inst, rowOf inst idx, sp, idx, pos⟩] } }
  | none => s.raiseRec MEM.evREPAIR_EXHAUSTED 0 0 [BitVec.ofNat 32 (wordKey inst idx), BitVec.ofNat 32 pos, 0, 0]

/-- REPEAT_LIM, where 0 acts as 1 (R388). -/
def State.repeatLim (s : State) : Nat := max 1 (s.fld pSCRB SCRB.REPEAT_LIM.LIM)

/-- A word of the suspect table is corrected again: REPEAT rises to its limit, at which the word is a hard fault (R372). -/
def State.revisitHit (s : State) (slot pos : Nat) : State :=
  match Tbl.find s.ms.suspects slot with
  | none => s
  | some e =>
    let rep := min (e.rep + 1) (max s.repeatLim e.rep)
    let s' := { s with ms := { s.ms with suspects := Tbl.insert s.ms.suspects slot { e with rep := rep, pos := pos } } }
    if e.rep < s.repeatLim ∧ s.repeatLim ≤ rep then s'.hardFault (e.word / 2 ^ 26) (e.word % 2 ^ 26) pos else s'

/-! ## Accesses -/

/-- The answer of a read. -/
inductive RdOut where
  | data (v : Nat)
  | err (cause : Nat)
deriving DecidableEq, Repr

/-- Count a DRAM code word read or written in the bandwidth window (R386). -/
def State.bwCount (s : State) (inst : Nat) (wr : Bool) : State :=
  if inst ≠ 0 then s
  else if wr then { s with ms := { s.ms with bwWr := s.ms.bwWr + 1 } }
  else { s with ms := { s.ms with bwRd := s.ms.bwRd + 1 } }

/-- A demand read of one code word (R363, R365, R366). `bits` are the cells found flipped. -/
def State.readWord (s : State) (m inst idx : Nat) (bits : List Nat) : State × RdOut :=
  let s := (s.upset inst idx bits).bwCount inst false
  if s.uninit inst idx then ((s.memErr 4 inst idx m 127).raiseBy MEM.evUNINIT_READ 0 m, .err 4)
  else if s.poisoned inst idx then (s.memErr 2 inst idx m 127, .err 2)
  else match s.verdict inst idx with
    | (.clean d, s) => (s, .data d)
    | (.corr p d, s) =>
      let s := (s.writeBack inst idx d).corrected inst p
      (match s.suspSlot (wordKey inst idx) with
       | some k => s.revisitHit k p
       | none => s, .data d)
    | (.uncorr p, s) =>
      let s := (s.addSat pMEM ⟨MEM.UE_CNT + 4 * inst, 0, 16⟩ 1).poison inst idx
      let s := s.memErr 1 inst idx m p
      (s.raiseRec MEM.evUE_DEMAND 0 m
        [BitVec.ofNat 32 (devAddr inst idx), BitVec.ofNat 32 inst, BitVec.ofNat 32 m, 0], .err 1)

/-- Whether a demand read of a word, its cells as found, corrects it. -/
def State.ceHere (s : State) (inst idx : Nat) (bits : List Nat) : Bool :=
  !s.uninit inst idx && !s.poisoned inst idx
    && (match ((s.upset inst idx bits).verdict inst idx).1 with | .corr _ _ => true | _ => false)

/-- The performance events of an access to a cluster's memories that no instruction makes (R269, R270, R274): `n` words read or written, and a correction.
Those of its own DMA pass no window, and an access through the window
restarts a gated clock (R467); an engine's fetch is counted where it is made. -/
def State.sramPerf (s : State) (r : Requester) (inst idx n : Nat) (wr ce : Bool) : State :=
  let own : Bool := match r with | .clusterDma c _ => c == (inst - 8) / 3 | _ => false
  let fetch : Bool := match r with | .engine _ _ => (inst - 8) % 3 != 0 | _ => false
  if 8 ≤ inst ∧ !fetch then
    let c := (inst - 8) / 3
    let ram := (inst - 8) % 3
    let a (i : Nat) := if ram = 0 then 0x20000 + 8 * (idx + i) else (if ram = 2 then 0x10000 else 0) + 8 * ((idx + i) % 2048)
    let ev (code i : Nat) := PerfEv.mk code none (if own then 16 else 18) (some (a i)) 0xFFFFFFFF (if ram = 0 then 0 else idx / 2048 % 16) 1
    let s := s.when (!own) fun s => s.setFld pCLK (bitAt CLK.CG_STAT c) 0
    let s := s.when (ram != 1) fun s =>
      s.each (List.range n) fun s i => s.perf c (ev (if ram = 2 then 0x44 else if wr then 0x41 else 0x40) i)
    let s := s.when (ram == 0) fun s => s.perfBw c (if wr then 1 else 0) n
    let s := s.when (!own) fun s => s.perfBw c 3 n
    s.when ce fun s => s.perf c (ev 0x43 0)
  else s

/-- What a read without a requester found. -/
inductive Found where
  | clean
  | corrected (pos : Nat)
  | uncorr
deriving DecidableEq, Repr

/-- A read without a requester: a scrubber visit, a revisit or a repair copy (R370, R376). -/
def State.visit (s : State) (inst idx : Nat) (bits : List Nat) : State × Found :=
  let s := (s.upset inst idx bits).bwCount inst false
  match s.verdict inst idx with
  | (.clean _, s) => (s, .clean)
  | (.corr p d, s) => ((s.writeBack inst idx d).corrected inst p, .corrected p)
  | (.uncorr _, s) =>
    let s := (s.addSat pMEM ⟨MEM.UE_CNT + 4 * inst, 0, 16⟩ 1).poison inst idx
    let s := s.raise MEM.evPOISONED 0
    (s.record 1 (evNum MEM.evPOISONED 0) 0
      [BitVec.ofNat 32 inst, BitVec.ofNat 32 idx, BitVec.ofNat 32 (devAddr inst idx), 0], .uncorr)

/-- A write of one whole code word: data under a valid code, the word's poison and suspect entries removed (R359, R360,
R372, R377). -/
def State.writeWord (s : State) (inst idx data : Nat) : State :=
  let k := wordKey inst idx
  (((s.writeBack inst idx data).unpoison (· == k)).unsuspect (· == k)).bwCount inst true

/-- A narrow write: nothing written, NARROW recorded and NARROW_REJ raised (R359, R360). -/
def State.narrow (s : State) (m inst idx : Nat) : State :=
  (s.memErr 3 inst idx m 127).raiseBy MEM.evNARROW_REJ 0 m

/-! ## The bulk fill (R364) -/

/-- The keys of the DRAM words of an address range. -/
def inRange (a b key : Nat) : Bool :=
  decide (key < 2 ^ 26) && decide (a ≤ 0x40000000 + 32 * key) && decide (0x40000000 + 32 * key < b)

/-- Replace what stands in the DRAM range `a` to `b − 1` by a fill that began at `start` (R364): cells, flips, poison and suspect
entries of the range go. -/
def State.fillRange (s : State) (start a b : Nat) (pat : BitVec 64) : State :=
  let fills := match s.ms.fills with
    | f :: t => if f.base = start ∧ f.len = a - start ∧ f.pat = pat ∧ start < a then ⟨start, b - start, pat⟩ :: t
                else ⟨a, b - a, pat⟩ :: f :: t
    | [] => [⟨a, b - a, pat⟩]
  let s := { s with mem := Tbl.drop (fun x => decide (a ≤ x) && decide (x < b)) s.mem,
                    ms := { s.ms with fills := fills, flips := Tbl.drop (inRange a b) s.ms.flips } }
  (s.unpoison (inRange a b)).unsuspect (inRange a b)

/-- The fill in progress reaches address `x`: its bytes are written, and each granule it completes gets INIT (R362, R364). -/
def State.fillTo (s : State) (x : Nat) : State :=
  let start := s.ms.fillBase
  let a := s.ms.fillNext
  let b := min x s.ms.fillEnd
  if b ≤ a then s else
    let s := s.fillRange start a b s.ms.fillPat
    let g0 := (max start a - 0x40000000) / 0x100000
    let g1 := (b - 0x40000000) / 0x100000
    let s := (List.range (g1 - g0)).foldl (fun s i =>
      if start ≤ 0x40000000 + 0x100000 * (g0 + i) then s.setInit (g0 + i) 1 else s) s
    { s with ms := { s.ms with fillNext := b } }

/-- The fill ends with a result (R364, R386). -/
def State.fillEndWith (s : State) (res : Nat) : State :=
  let s := s.wr (pDRAM + DRAM.FILL_STAT) (BitVec.ofNat 32 (2 ^ 31 + res * 2 ^ 28))
  let s := s.setFld pDRAM DRAM.DR_STAT.FILL_BUSY 0
  if res = 0 then s.raise DRAM.evFILL_DONE 0 else s.raise DRAM.evFILL_FAIL 0

/-- A fill is in progress. -/
def State.filling (s : State) : Bool := s.bit pDRAM DRAM.DR_STAT.FILL_BUSY

/-- The fill in progress is cancelled after `n` more code words: CANCELLED with the bytes written (R364). -/
def State.fillCancel (s : State) (n : Nat) : State :=
  if s.filling then
    let s := s.fillTo (s.ms.fillNext + 32 * n)
    let s := s.wr (pDRAM + DRAM.FILL_DONE_BYTES) (BitVec.ofNat 32 (s.ms.fillNext - s.ms.fillBase))
    s.fillEndWith 2
  else s

/-! ## Writes that reach the memories (R248, R359, R360, R420) -/

/-- A cluster window takes writes of IRAM and data RAM only while their engine is OFF (R248). -/
def State.windowTakes (s : State) (inst idx : Nat) : Bool :=
  decide (inst < 8) || (inst - 8) % 3 == 0 || s.coreState (16 * ((inst - 8) / 3) + idx / 2048) == 0

/-- A write of DRAM overlaps the regions of a recording while capture is not IDLE (R393). -/
def State.capOwns (s : State) (a len : Nat) : Bool :=
  let r (o : Nat) := (s.rd (pCAP + o)).toNat
  let l := [(r CAP.DBASE, r CAP.DLEN), (r CAP.IBASE, r CAP.ILEN),
    (r CAP.KBASE, (max 1 (r CAP.KCFG % 32) + 1) * 0x40000), (r CAP.LBASE, r CAP.LLEN)]
  s.fld pCAP CAP.CP_STAT.STATE != 0 && l.any (fun x => decide (x.1 < a + len) && decide (a < x.1 + x.2))

/-- Write whole code words from word `idx` of an instance. -/
def State.writeWords (s : State) (inst idx : Nat) (l : List Byte) : State :=
  (List.range (l.length / wordLen inst)).foldl (fun s i =>
    s.writeWord inst (idx + i) (ofBytes ((l.drop (wordLen inst * i)).take (wordLen inst)))) s

/-- A write of bytes that reaches a memory controller over the bus (R248, R359, R360, R442): whole code words are written;
anything else is NARROW. PART writes no memory (R443). A write into the regions of a recording lands, and is a host error confined to
the recording and its replays (R393, R447). -/
def State.memWrite (s : State) (r : Requester) (a : Nat) (l : List Byte) : Out :=
  let m := s.master r
  match s.region r a with
  | .mem inst idx =>
    let n := wordLen inst
    if m = 4 ∨ !s.mapAllows m (memFam inst) then .err 6 (s.raiseBy PROT.evPROT_DENIED 0 m)
    else if l = [] ∨ a % n ≠ 0 ∨ l.length % n ≠ 0 then .err 3 (s.narrow m inst idx)
    else if s.region r (a + l.length - n) ≠ .mem inst (idx + l.length / n - 1) then .err 5 s
    else if !s.windowTakes inst idx then .err 8 s
    else
      let own := s.capOwns a l.length
      let s := (s.writeWords inst idx l).sramPerf r inst idx (l.length / n) true false
      if own then hostError [pCAP, pRPL] s else .ok s
  | .rom => .err 8 s
  | _ => .err 5 s

/-- A store of the supervisor into its own SRAM, merged (R360): the word read, corrected and written whole. -/
def State.supMerge (s : State) (a : Nat) (l : List Byte) : Out :=
  match s.region .sup a with
  | .mem inst idx =>
    if a % 8 = 0 ∧ l.length = 8 then .ok (s.writeWord inst idx (ofBytes l))
    else match s.readWord 0x02 inst idx [] with
    | (s, .err c) => .err c s
    | (s, .data d) =>
      let o := a % 8
      let old := toBytes 8 d
      .ok (s.writeWord inst idx (ofBytes (old.take o ++ l ++ old.drop (o + l.length))))
  | _ => .err 5 s

/-- A 32-bit or 64-bit write toward a memory, gathered into a code word (R420). `first` is its index in its frame. -/
def State.gatherWrite (s : State) (r : Requester) (a : Nat) (l : List Byte) (first : Nat) : Out :=
  let m := s.master r
  match s.region r a with
  | .mem inst idx =>
    if !s.mapAllows m (memFam inst) then .err 6 (s.raiseBy PROT.evPROT_DENIED 0 m)
    else
      let n := wordLen inst
      match Tbl.find s.gathers m with
      | some g =>
        if a = g.base + g.bytes.length ∧ a / n = g.base / n then
          if g.bytes.length + l.length = n then (s.dropGather m).memWrite r g.base (g.bytes ++ l)
          else .ok ({ s with gathers := Tbl.insert s.gathers m { g with bytes := g.bytes ++ l } }.startClock (clkGather m))
        else .err 3 (s.narrow m inst idx)
      | none =>
        if a % n ≠ 0 then .err 3 (s.narrow m inst idx)
        else if l.length = n then s.memWrite r a l
        else .ok ({ s with gathers := Tbl.insert s.gathers m ⟨a, first, l⟩ }.startClock (clkGather m))
  | .rom => .err 8 s
  | _ => .err 5 s

/-- Whether a write is the next one in ascending order of what its master has gathered (R420). -/
def State.continues (s : State) (r : Requester) (a : Nat) : Bool :=
  match Tbl.find s.gathers (s.master r), s.region r a with
  | some g, .mem inst _ => a == g.base + g.bytes.length && a / wordLen inst == g.base / wordLen inst
  | _, _ => false

end Sys2Proof.Machine
end

