-- ==== Sys2Proof/Machine/Flags.lean ====
section
/-! DEFINITION. The engine's arithmetic (R241): saturation, rounding, shifts and comparisons, as functions of their operands.
No instruction sets flags; conditions live in the predicates alone. -/

namespace Sys2Proof.Machine

/-- An integer clamped to the signed range of `w` bits. -/
def clampTo (w : Nat) (x : Int) : Int := max (-(2 ^ (w - 1) : Nat)) (min ((2 ^ (w - 1) : Nat) - 1) x)

/-- Division by 2^n, to nearest, with ties away from zero (R241). -/
def roundShift (x : Int) (n : Nat) : Int :=
  if n = 0 then x else if 0 ≤ x then (x + 2 ^ (n - 1)) / 2 ^ n else -((-x + 2 ^ (n - 1)) / 2 ^ n)

/-- The saturated 32-bit result. -/
def sat32 (x : Int) : Word := BitVec.ofInt 32 (clampTo 32 x)

/-- The saturated 16-bit result. -/
def sat16 (x : Int) : BitVec 16 := BitVec.ofInt 16 (clampTo 16 x)

/-- Leading zeros of a word. -/
def clz (w : Word) : Nat := 32 - (if w = 0 then 0 else Nat.log2 w.toNat + 1)

/-- The shift amount: the low 5 bits of the operand (R241). -/
def amount (w : Word) : Nat := w.toNat % 32

/-- Rotate right. -/
def rotr (w : Word) (n : Nat) : Word := (w >>> n) ||| (w <<< (32 - n))

/-- Signed minimum and maximum. -/
def smin (a b : Word) : Word := if a.sle b then a else b
/-- Signed maximum. -/
def smax (a b : Word) : Word := if a.sle b then b else a
/-- Unsigned minimum. -/
def umin (a b : Word) : Word := if a.ule b then a else b
/-- Unsigned maximum. -/
def umax (a b : Word) : Word := if a.ule b then b else a

/-- High half of the signed product. -/
def mulhiS (a b : Word) : Word := BitVec.ofInt 32 (a.toInt * b.toInt / 2 ^ 32)
/-- High half of the unsigned product. -/
def mulhiU (a b : Word) : Word := BitVec.ofNat 32 (a.toNat * b.toNat / 2 ^ 32)

/-- The Q15 product of a lane, rounded and saturated (R241). -/
def q15 (a b : BitVec 16) : BitVec 16 := sat16 (roundShift (a.toInt * b.toInt) 15)

/-- An accumulator lane plus a product, saturated at 48 bits (R241). -/
def mac (acc : BitVec 48) (p : Int) : BitVec 48 := BitVec.ofInt 48 (clampTo 48 (acc.toInt + p))

/-- An accumulator lane shifted right, rounded and saturated to 16 bits (R241). -/
def accRead (acc : BitVec 48) (n : Nat) : BitVec 16 := sat16 (roundShift acc.toInt n)

end Sys2Proof.Machine
end

