-- ==== Sys2Proof/Machine/Operands.lean ====
section
/-! DEFINITION. The engine's operands (R237, R240): registers, predicates, vector and accumulator lanes, the second operand of
each class, and how an instruction completes. -/

namespace Sys2Proof.Machine

/-- A general register. None reads as a constant (R237). -/
def Core.gr (c : Core) (r : Nat) : Word := Tbl.get 0 c.g r

/-- Write a general register. -/
def Core.setG (c : Core) (r : Nat) (w : Word) : Core := { c with g := Tbl.put (some 0) c.g r w }

/-- Predicate pi, held in SR bit 4 + i (R237). -/
def Core.pred (c : Core) (i : Nat) : Bool := c.sr.getLsbD (4 + i)

/-- Write a predicate. -/
def Core.setPred (c : Core) (i : Nat) (b : Bool) : Core :=
  let m : Word := BitVec.ofNat 32 (2 ^ (4 + i))
  { c with sr := if b then c.sr ||| m else c.sr &&& ~~~m }

/-- Lane `j` of a vector register. -/
def Core.lane (c : Core) (r j : Nat) : BitVec 16 := Tbl.get 0 c.v (8 * r + j)

/-- Write the eight lanes of a vector register. -/
def Core.setV (c : Core) (r : Nat) (f : Nat → BitVec 16) : Core :=
  { c with v := (List.range 8).foldl (fun t j => Tbl.put (some 0) t (8 * r + j) (f j)) c.v }

/-- Lane `j` of the accumulator. -/
def Core.accLane (c : Core) (j : Nat) : BitVec 48 := Tbl.get 0 c.acc j

/-- Write the eight lanes of the accumulator. -/
def Core.setAcc (c : Core) (f : Nat → BitVec 48) : Core :=
  { c with acc := (List.range 8).foldl (fun t j => Tbl.put (some 0) t j (f j)) c.acc }

/-- The second operand of an arithmetic form, MIN or MAX: imm16 sign-extended (R241). -/
def Core.srcS (c : Core) : Src → Word
  | .reg g => c.gr g.val
  | .imm i => i.signExtend 32

/-- The second operand of a logic or shift form, MINU or MAXU: imm16 zero-extended (R241). -/
def Core.srcU (c : Core) : Src → Word
  | .reg g => c.gr g.val
  | .imm i => i.setWidth 32

/-- The second operand of a compare: the signed imm15 (R240). -/
def Core.cmpSrc (c : Core) : CmpSrc → Word
  | .reg g => c.gr g.val
  | .imm i => i.signExtend 32

/-- Lane `j` of the second operand of a vector instruction: gs2's low 16 bits broadcast (R241). -/
def Core.vsrc (c : Core) (x : VSrc) (j : Nat) : BitVec 16 :=
  match x with
  | .vec v => c.lane v.val j
  | .scalar g => (c.gr g.val).setWidth 16

/-- A core stopped in WAIT goes on when a source enabled in IMASK is pending (R244). -/
def State.wakes (s : State) (k : Nat) : Bool :=
  s.coreState k == 2 && (s.pend k &&& (s.core k).imask) != 0 && !(k == supId && s.fld pPWR PWR.PWR_STAT.STATE != 0)

/-- Whether a core is at an instruction: in RUN, or in WAIT with an enabled interrupt pending, not stopped at the debugger (R235, R244), and
its clock running: an engine's stops when the device leaves NOON, the supervisor's WAIT lasts as long (R473, R476). -/
def State.atInstr (s : State) (k : Nat) : Bool :=
  (s.coreState k == 1 || s.wakes k) && !(s.core k).dbg && (k == supId || s.noon)

/-- Whether a core executes a next instruction: not while a store of its own stalls (R260). -/
def State.runs (s : State) (k : Nat) : Bool := s.atInstr k && !(s.core k).stalled

/-- A core that goes on from WAIT is in RUN. -/
def State.awake (s : State) (k : Nat) : State := if s.coreState k = 2 then s.setEng k 1 else s

/-- An instruction retires (R270): counted, and the PC moves on. -/
def State.retired (s : State) (k : Nat) (vec : Bool) : State :=
  let s := s.perfInstr k 0x01 none 1
  s.when vec (fun s => s.perfInstr k 0x02 none 1)

/-- A core's PC moves past the instruction. -/
def Core.past (c : Core) : Core := { c with pc := c.pc + 4, stalled := false }

/-- An instruction that changes only its own core and completes; on a core that does not run it does not occur. -/
def coreOp (k : Nat) (vec : Bool) (s : State) (f : Core → Core) : State :=
  if s.runs k then ((s.awake k).retired k vec).modCore k (fun c => (f c).past) else s

/-- A taken branch or jump to a target (R241, R243): a misaligned target raises ALIGN, one outside IRAM raises ACCESS on an
engine. `link` writes PC + 4 into g15. -/
def jumpTo (k : Nat) (s : State) (target : Word) (link : Bool) : State :=
  if target.toNat % 4 ≠ 0 then s.trap k 2 target
  else if k ≠ supId ∧ 0x4000 ≤ target.toNat then s.trap k 4 target
  else
    let s := (s.retired k false).perfInstr k 0x04 none 1
    s.modCore k fun c =>
      let c := if link then c.setG 15 (c.pc + 4) else c
      { c with pc := target, stalled := false }

/-- What a load leaves (R241), from its bytes, least significant first. -/
def Core.fill (c : Core) (d : LoadDst) (l : List Byte) : Core :=
  let v := ofBytes l
  match d with
  | .one g signed =>
    c.setG g (if signed then BitVec.ofInt 32 (sx (8 * l.length) v) else BitVec.ofNat 32 v)
  | .pair g => (c.setG g (BitVec.ofNat 32 v)).setG (g + 1) (BitVec.ofNat 32 (v / 2 ^ 32))
  | .vec r => c.setV r (fun j => BitVec.ofNat 16 (v / 2 ^ (16 * j)))

/-- The byte at an address, out of units of `u` bytes that were read. -/
def byteOf (u : Nat) (t : List (Nat × Nat)) (a : Nat) : Byte :=
  match t.find? (fun e => e.1 == a / u) with
  | some e => BitVec.ofNat 8 (e.2 / 2 ^ (8 * (a % u)))
  | none => 0

end Sys2Proof.Machine
end

