-- ==== Sys2Proof/Machine/EngCtl.lean ====
section
/-! DEFINITION. Control of the cores: control registers (R237, R238), system instructions (R239, R241, R243), interrupts (R244), hold,
release and retirement (R235, R630, R263), and the ownership of coefficient-port targets (R232, R233, R266). -/

namespace Sys2Proof.Machine

/-! ## Control registers (R237) -/

/-- A CR number that R237 lists. -/
def crListed (n : Nat) : Bool := decide (n ≤ 0x0C) || n == 0x10 || (decide (0x100 ≤ n) && decide (n ≤ 0x111))

/-- The PERF-page offset that a performance CR shows: CYCLE_LO, CYCLE_HI, then CNT_LO and CNT_HI of each counter in turn
(DEDUCED, log entry 13). -/
def crPerfOff (n : Nat) : Nat :=
  if n = 0x100 then PERF.CYC_LO
  else if n = 0x101 then PERF.CYC_HI
  else (if n % 2 = 0 then PERF.CNT_LO else PERF.CNT_HI) + 32 * ((n - 0x102) / 2)

/-- What a CR reads. WDOG has no content, and the supervisor no cluster: free values of the core and the CR alone, since equal operands give equal
results (R242; log entry 1). -/
def State.crValue (s : State) (k n : Nat) : Word × State :=
  let c := s.core k
  if n = 0x00 then (c.sr, s) else if n = 0x01 then (c.tsr, s) else if n = 0x02 then (c.tpc, s)
  else if n = 0x03 then (c.tcode, s) else if n = 0x04 then (c.taddr, s) else if n = 0x05 then (c.tbase, s)
  else if n = 0x06 then (c.imask, s) else if n = 0x07 then (s.pend k, s) else if n = 0x08 then (c.taskPerm, s)
  else if n = 0x09 then (c.winBase, s) else if n = 0x0A then (c.winLimit, s) else if n = 0x0C then (c.timer, s)
  else if n = 0x0B ∨ k = supId then (Config.crRead k n, s)
  else if n = 0x10 then
    let b := pCLU (k / 16)
    (BitVec.ofNat 32 (k + 256 * s.fld b (eCtrl k CLU.E_CTRL.HOME) + 4096 * s.fld b (eCtrl k CLU.E_CTRL.HOME_EN)), s)
  else (s.rd (pPERF (s.homeOf k) + crPerfOff n), s)

/-- Task level may read SR and ENGINE_ID, and the performance CRs with TASK_PERM.PERF (R238). -/
def State.crReadable (s : State) (k n : Nat) : Bool :=
  (s.core k).level != 0 || n == 0x00 || n == 0x10 || (decide (0x100 ≤ n) && (s.core k).taskPerm.getLsbD 4)

/-- Control registers are written at kernel level on an engine (R238), at privileged level on the supervisor (R548). -/
def State.crWritable (s : State) (k : Nat) : Bool := if k = supId then (s.core k).level == 2 else (s.core k).level != 0

/-- An SR value without reserved bits or a reserved LEVEL (R237): code 2 is the supervisor's alone. -/
def srLegal (k : Nat) (v : Word) : Bool := decide (v.toNat < 256) && decide (getBits v 0 2 ≤ (if k = supId then 2 else 1))

/-- A counter's low word is preset (R280). -/
def State.presetLo (s : State) (c k : Nat) (v : Word) : State :=
  s.setLv (perfCnt c k) (s.lv (perfCnt c k) / 2 ^ 32 * 2 ^ 32 + v.toNat)

/-- A counter's high word is preset (R280). -/
def State.presetHi (s : State) (c k : Nat) (v : Word) : State :=
  s.setLv (perfCnt c k) (v.toNat % 2 ^ 16 * 2 ^ 32 + s.lv (perfCnt c k) % 2 ^ 32)

/-- A write of a counter's low word (R280). -/
def effCntLo (c k : Nat) (v : Word) (s : State) : Out := .ok (s.presetLo c k v)

/-- A write of a counter's high word (R280). -/
def effCntHi (c k : Nat) (v : Word) (s : State) : Out := .ok (s.presetHi c k v)

/-- What SR or TSR takes from a value that is not legal: its fields are free, LEVEL among the codes that the core has. R237 gives no value
(DESIGN CHOICE, log entry 90). -/
def srFree (k n : Nat) (v : Word) : Word :=
  let x := Config.reservedWrite n v
  putBits (x &&& 0xFF) 0 2 (getBits x 0 2 % (if k = supId then 3 else 2))

/-- A CR is written (R237, R244). A value with a reserved bit or code leaves its defined bits free. IPEND, ENGINE_ID and the cycle counter are
read-only; a write of WDOG restarts the watchdog (R549; an engine's is an event row, log entry 5); a write of TIMER clears its interrupt. -/
def State.crWrite (s : State) (k n : Nat) (v : Word) : State :=
  let set (f : Core → Core) : State := s.modCore k f
  let only (m : Word) : Word := if v &&& ~~~m = 0 then v else Config.reservedWrite n v &&& m
  let sr : Word := if srLegal k v then v else srFree k n v
  if n = 0x00 then set (fun c => { c with sr := sr })
  else if n = 0x01 then set (fun c => { c with tsr := sr })
  else if n = 0x02 then set (fun c => { c with tpc := v })
  else if n = 0x03 then set (fun c => { c with tcode := only 0xFF })
  else if n = 0x04 then set (fun c => { c with taddr := v })
  else if n = 0x05 then set (fun c => { c with tbase := v &&& ~~~0x1FF })
  else if n = 0x06 then set (fun c => { c with imask := v })
  else if n = 0x08 then set (fun c => { c with taskPerm := only 0x1F })
  else if n = 0x09 then set (fun c => { c with winBase := only 0x3FFC0 })
  else if n = 0x0A then set (fun c => { c with winLimit := only 0x3FFC0 })
  else if n = 0x0C then set (fun c => { c with timer := v, ipend := c.ipend &&& ~~~0x10 })
  else if n = 0x0B ∧ k = supId then s.startClock clkWdog
  else if 0x102 ≤ n ∧ k ≠ supId then
    let c := s.homeOf k
    let i := (n - 0x102) / 2
    if n % 2 = 0 then s.presetLo c i v else s.presetHi c i (only 0xFFFF)
  else s

/-- The encoding of a CONTROL instruction (R240). -/
def ctlEnc (gd gs op cr gt : Nat) : Word :=
  BitVec.ofNat 32 (0xD * 2 ^ 28 + gd * 2 ^ 24 + gs * 2 ^ 20 + op * 2 ^ 16 + gt * 2 ^ 12 + cr)

/-- RDCR (R241): a CR into gd. An unlisted CR is ILLEGAL (R240), one closed to the level PRIV (R238). -/
def execRdcr (k : Fin 257) (gd : Fin 16) (cr : BitVec 12) (s : State) : R :=
  let i := k.val
  if s.runs i then
    let s := s.awake i
    if !crListed cr.toNat then .next (s.trap i 0 (ctlEnc gd.val 0 0 cr.toNat 0))
    else if !s.crReadable i cr.toNat then .next (s.trap i 1 0)
    else
      let (v, s) := s.crValue i cr.toNat
      .next ((s.retired i false).modCore i (fun c => (c.setG gd.val v).past))
  else .next s

/-- WRCR and MDCR (R241): a CR written under a mask, its old value into gd. -/
def crOp (i gd cr : Nat) (enc : Word) (new : Core → Word → Word) (s : State) : R :=
  if s.runs i then
    let s := s.awake i
    if !crListed cr then .next (s.trap i 0 enc)
    else if !s.crWritable i then .next (s.trap i 1 0)
    else
      let (old, s) := s.crValue i cr
      let t := s.crWrite i cr (new (s.core i) old)
      .next ((t.retired i false).modCore i (fun c => (c.setG gd old).past))
  else .next s

/-- WRCR (R241): gs into a CR, its old value into gd. -/
def execWrcr (k : Fin 257) (gd gs : Fin 16) (cr : BitVec 12) (s : State) : R :=
  crOp k.val gd.val cr.toNat (ctlEnc gd.val gs.val 1 cr.toNat 0) (fun c _ => c.gr gs.val) s

/-- MDCR (R241): (old AND NOT gt) OR (gs AND gt) into a CR, its old value into gd. -/
def execMdcr (k : Fin 257) (gd gs gt : Fin 16) (cr : BitVec 12) (s : State) : R :=
  crOp k.val gd.val cr.toNat (ctlEnc gd.val gs.val 2 cr.toNat gt.val)
    (fun c old => (old &&& ~~~(c.gr gt.val)) ||| (c.gr gs.val &&& c.gr gt.val)) s

/-! ## System instructions -/

/-- CALLK (R243): the trap of that name with its code. -/
def execCallk (k : Fin 257) (code : BitVec 8) (s : State) : R :=
  if s.runs k.val then .next ((s.awake k.val).trap k.val 7 (code.setWidth 32)) else .next s

/-- RTE (R238, R239): TSR whole into SR, continuing at TPC, which obeys the rule of a jump target (R243). -/
def execRte (k : Fin 257) (s : State) : R :=
  let i := k.val
  if s.runs i then
    let s := s.awake i
    let c := s.core i
    if c.level = 0 then .next (s.trap i 1 0)
    else if c.tpc.toNat % 4 ≠ 0 then .next (s.trap i 2 c.tpc)
    else if i ≠ supId ∧ 0x4000 ≤ c.tpc.toNat then .next (s.trap i 4 c.tpc)
    else .next ((s.retired i false).modCore i (fun c => { c with sr := c.tsr, pc := c.tpc, stalled := false }))
  else .next s

/-- SYNC (R241, R420): every earlier store has completed in this model; the supervisor's gathered writes issue, and a failure of
theirs traps it (R628). -/
def execSync (k : Fin 257) (s : State) : R :=
  if s.runs k.val then
    let (s, trapped) := if k.val = supId then s.issueNarrow .sup else (s, false)
    if trapped then .next s else .next (coreOp k.val false s id)
  else .next s

/-- A cluster's debug enable (R243; DEDUCED from the life-cycle table of R575's section, log entry 14): on in MANUFACTURE and RETURNED. -/
def State.debugOn (s : State) : Bool := s.fld pLCS LCS.LCS_STAT.STATE == 0 || s.fld pLCS LCS.LCS_STAT.STATE == 3

/-- DBG (R241, R243): stops an engine at the debugger, or traps while debug is off. The supervisor has no cluster and traps. -/
def execDbg (k : Fin 257) (s : State) : R :=
  let i := k.val
  if s.runs i then
    let s := s.awake i
    if i ≠ supId ∧ s.debugOn then .next (s.modCore i (fun c => { c with dbg := true }))
    else .next (s.trap i 8 0)
  else .next s

/-- NOP (R241). -/
def execNop (k : Fin 257) (s : State) : R := .next (coreOp k.val false s id)

/-- Fields A, B and C of an encoding (R240). -/
def encA (e : Word) : Nat := getBits e 24 4
/-- Field B. -/
def encB (e : Word) : Nat := getBits e 20 4
/-- Field C. -/
def encC (e : Word) : Nat := getBits e 16 4
/-- Field D. -/
def encD (e : Word) : Nat := getBits e 0 16

/-- An encoding that R240 lists: its class, form, size and condition, reserved bits at 0, an even register of a pair, a listed CR. The function codes have no numbers in
the spec: whether a function field is listed is free (log entry 101). The offset of JMPR and CALLR is a multiple of 4 (DEDUCED, log entry 101). -/
def encListed (e : Word) : Bool :=
  let a := encA e
  let b := encB e
  let c := encC e
  let d := encD e
  match getBits e 28 4 with
  | 0x0 => decide (d < 256) && Config.fnListed e
  | 0x1 => Config.fnListed e
  | 0x2 => b == 0 || (b == 1 && c == 0)
  | 0x3 => decide (c < 8) && (decide (c < 4) || decide (c % 4 < 2)) && (c % 4 != 3 || a % 2 == 0)
  | 0x4 => decide (c < 4) && (c != 3 || a % 2 == 0)
  | 0x5 => decide (a < 4) && decide (c ≤ 5) && (e.getLsbD 15 || decide (d < 16))
  | 0x6 => decide (a < 8)
  | 0x7 => decide (a < 2) || (decide (a < 4) && c == 0 && d % 4 == 0)
  | 0x8 => decide (a < 8) && decide (b < 8) && decide (c < 8) && Config.fnListed e
  | 0x9 => decide (a < 8) && decide (b < 8) && Config.fnListed e
  | 0xA => decide (a < 8) && decide (c < 8)
  | 0xB => decide (b < 8) && decide (d < 2 ^ 13) && Config.fnListed e
  | 0xC => a % 2 == 0 && Config.fnListed e
  | 0xD =>
    if c = 3 then decide (d < 256)
    else if c = 4 then decide (d < 4)
    else if c = 2 then crListed (d % 2 ^ 12)
    else decide (c < 2) && decide (d < 2 ^ 12) && crListed d
  | 0xE => a == 0 && b == 0 && c == 0 && Config.fnListed e
  | _ => false

/-- ILLEGAL_INSTRUCTION (R240, R243): an encoding that R240 does not list. A listed one is carried out by its own row. -/
def execIllegalInstruction (k : Fin 257) (enc : Word) (s : State) : R :=
  if s.runs k.val ∧ !encListed enc then .next ((s.awake k.val).trap k.val 0 enc) else .next s

/-! ## Interrupts (R244) -/

/-- The lowest source in a set. -/
def lowest (w : Word) : Option Nat := (List.range 32).find? (fun i => w.getLsbD i)

/-- INTERRUPT_ENTRY (R239, R244): between instructions while SR.IE is 1, the lowest pending enabled source. TADDR receives a
value that the spec does not state: it is free (log entry 1). -/
def execInterruptEntry (k : Fin 257) (s : State) : R :=
  let i := k.val
  if s.runs i && (s.core i).ie then
    match lowest (s.pend i &&& (s.core i).imask) with
    | none => .next s
    | some n =>
      let (ta, s) := (s.awake i).fresh
      let s := s.perfInstr i 0x06 none 1
      .next (s.modCore i fun c =>
        { c.enter (entryLevel i) c.pc (BitVec.ofNat 32 (0x40 + n)) with
            taddr := BitVec.ofNat 32 ta, pc := c.tbase + 0x100 + BitVec.ofNat 32 (0x10 * n) })
  else .next s

/-- TIMER_MATCH (R244): CYCLE[31:0] equals TIMER on a core that is not held in reset. -/
def execTimerMatch (k : Fin 257) (s : State) : R :=
  if s.coreState k.val = 0 then .next s
  else .next (s.modCore k.val (fun c => { c with ipend := c.ipend ||| 0x10 }))

/-- ENGINE_WATCHDOG (R245): no write of WDOG within WD_CFG while the engine is in RUN or WAIT. -/
def execEngineWatchdog (k : Fin 256) (s : State) : R :=
  let st := s.coreState k.val
  if s.bit (pCLU (k.val / 16)) CLU.CL_CTRL.WD_EN && (st == 1 || st == 2) then .next (s.engFault k.val 2) else .next s

/-! ## Ownership of targets (R231 to R234, R266) -/

/-- A target of a cluster stops being served: SERVE_LOST (R278). -/
def State.serveWatch (s0 s : State) : State :=
  s.each (List.range 10) fun s c => s.each (List.range 8) fun s t =>
    if s0.served c t && !s.served c t then s.raise CLU.evSERVE_LOST c else s

/-- An engine of CL14 or CL15 has ceased to count in the cluster it counted in: its targets there are unserved until CP_OWN is
written again (R232). `s0` is the state before. -/
def State.lapse (s0 s : State) (k : Nat) : State :=
  let h := s0.homeOf k
  if s.homeOf k = h then s
  else s.each (List.range 8) fun s t =>
    if s.cpOwner h t = some k then s.modClu h (fun u => { u with lapsed := u.lapsed.filter (· != t) ++ [t] }) else s

/-- A write of CP_OWN[t] of cluster `c` (R232, R233, R266): refused while the named engine may still commit, and where it names no
engine that counts in this cluster. -/
def effCpOwn (c t : Nat) (v : Word) (s : State) : Out :=
  let s0 := s
  let valid := v.getLsbD 8
  let new := getBits v 0 8
  let old := s.cpOwner c t
  let oldState := old.map s.coreState
  if (targetPage c t).isNone then (if v = 0 then .ok s else hostError [pCLU c] s)
  else if oldState = some 1 ∨ oldState = some 2 ∨ oldState = some 5 then .err 8 s
  else if valid && !(new / 16 == c || (decide (14 ≤ new / 16) && s.homeOf new == c)) then .err 8 s
  else
    let s := s.wr (pCLU c + CLU.CP_OWN + 4 * t) v
    let hold : Bool := valid && s.coreState new != 1 && s.coreState new != 2
    let s := s.modClu c fun u => { u with
      holdRun := if hold then u.holdRun else u.holdRun.filter (· != t), lapsed := u.lapsed.filter (· != t),
      susp := if valid then u.susp.filter (· != t) else u.susp }
    let s :=
      if oldState = some 4 then
        let k := old.getD 0
        if valid then
          (if k = new then s else s.modCore new fun x => { x with
            migrFrom := if x.migrFrom.contains k then x.migrFrom else x.migrFrom ++ [k] })
        else (s.modClu c (fun u => { u with susp := u.susp ++ [t] })).raise CLU.evDUTY_SUSPENDED c
      else s
    let s := s.when (s0.served c t && !s.served c t) (fun s => s.raise CLU.evSERVE_LOST c)
    .ok (watch s0 s)

/-- CP_OWN_WRITE (R232): a write of CLU[c].CP_OWN[t]. -/
def execCpOwnWrite (r : Requester) (c : Fin 16) (t : Fin 8) (v : Word) (s : State) : R :=
  txn r (pCLU c.val + CLU.CP_OWN + 4 * t.val) v (effCpOwn c.val t.val v) s

/-- SERVE_HOLD_EXPIRY (R233): the target is no longer served, unless its owner runs again. -/
def execServeHoldExpiry (c : Fin 16) (t : Fin 8) (s : State) : R :=
  if (s.clu c.val).holdRun.contains t.val then
    let s0 := s
    let s := s.modClu c.val fun u => { u with holdRun := u.holdRun.filter (· != t.val) }
    let s := s.when (s0.served c.val t.val && !s.served c.val t.val) (fun s => s.raise CLU.evSERVE_LOST c.val)
    .next (watch s0 s)
  else .next s

/-! ## Hold, release and retirement (R235, R263, R264, R265, R630) -/

/-- The retired engines whose duty engine `k` takes over as it starts (R265): those whose targets it owns now, and those of its cluster that bear the label of
its duty, which is how a duty without targets shows (DESIGN CHOICE, log entry 98); each duty migrates once. -/
def State.takenOver (s : State) (k : Nat) : List Nat :=
  let label (i : Nat) := s.fld (pCLU (i / 16)) ⟨CLU.E_DUTY + 4 * (i % 16), 0, 16⟩
  (List.range 256).filter fun i => i != k && s.coreState i == 4 && !(s.core i).moved
    && ((s.core k).migrFrom.contains i || (label k != 0 && label i == label k && s.homeOf i == s.homeOf k))

/-- An engine leaves OFF for RUN in the state of R236. A restart after a fault writes its ACTION record, and an engine that has
taken over a retired engine's targets writes the migration record (R264, R265, R627). -/
def State.startEng (s : State) (k : Nat) : State :=
  let x := s.core k
  let from0 := s.takenOver k
  let s := s.setCore k { coreReset k with
    mbox := x.mbox, mbDrop := x.mbDrop, mbDropped := x.mbDropped, faultTicks := x.faultTicks }
  let s := (s.setEng k 1).enterRun k
  let s := s.when x.restart (fun s => s.record 1 (evNum CLU.evENG_FAULT (k / 16)) 0 [actWord k 2, 0, 0, 0])
  s.each from0 fun s old =>
    (s.modCore old fun y => { y with moved := true }).record 1 (evNum CLU.evENG_RETIRED (old / 16)) 0
      [actWord old 4, BitVec.ofNat 32 k, BitVec.ofNat 32 (s.fld (pCLU (k / 16)) ⟨CLU.E_DUTY + 4 * (k % 16), 0, 16⟩), 0]

/-- E_CTRL.HOLD of an engine. -/
def State.held (s : State) (k : Nat) : Bool := s.bit (pCLU (k / 16)) (eCtrl k CLU.E_CTRL.HOLD)

/-- An engine in RUN or WAIT enters DRAINING: its work in flight ends (R235, R262). -/
def State.drainEng (s : State) (k : Nat) : State :=
  if s.coreState k = 1 ∨ s.coreState k = 2 then ((s.leaveRun k).endWork k).setEng k 5 else s

/-- HOLD is written 1 (R235). -/
def State.holdEng (s : State) (k : Nat) : State :=
  if s.coreState k = 3 then (s.setEng k 0).modCore k (fun x => { x with restart := true }) else s.drainEng k

/-- An engine in OFF whose HOLD is 0 starts while its page is ENABLED (R630). -/
def State.releaseEng (s : State) (k : Nat) : State :=
  if s.coreState k = 0 ∧ !s.held k ∧ s.enabled (pCLU (k / 16)) then s.startEng k else s

/-- A write of E_CTRL (R234, R235, R263, R630): RETIRE at 0 is ignored. -/
def effECtrl (k : Nat) (v : Word) (s : State) : Out :=
  let s0 := s
  let a := pCLU (k / 16) + CLU.E_CTRL + 4 * (k % 16)
  let s := s.wr a (v ||| (s.rd a &&& 0x10))
  let s := s.when (v.getLsbD 4) (fun s => s.retire k true)
  let s := State.lapse s0 s k
  let s := if v.getLsbD 0 then s.holdEng k else s.releaseEng k
  .ok (watch s0 (State.serveWatch s0 s))

/-- A write of E_CTRL[e] by a requester. -/
def writeECtrl (r : Requester) (k : Nat) (v : Word) (s : State) : R :=
  txn r (pCLU (k / 16) + CLU.E_CTRL + 4 * (k % 16)) v (effECtrl k v) s

/-- E_CTRL as it stands, its RETIRE bit 0. -/
def State.eCtrlWord (s : State) (k : Nat) : Word := s.rd (pCLU (k / 16) + CLU.E_CTRL + 4 * (k % 16)) &&& ~~~0x10

/-- ENGINE_HOLD (R235): E_CTRL.HOLD written 1, the other fields as they stand. -/
def execEngineHold (r : Requester) (k : Fin 256) (s : State) : R := writeECtrl r k.val (s.eCtrlWord k.val ||| 0x1) s

/-- ENGINE_RELEASE (R630): E_CTRL.HOLD written 0, the other fields as they stand. -/
def execEngineRelease (r : Requester) (k : Fin 256) (s : State) : R := writeECtrl r k.val (s.eCtrlWord k.val &&& ~~~0x1) s

/-- ENGINE_RETIRE (R263): E_CTRL.RETIRE written 1, the other fields as they stand. -/
def execEngineRetire (r : Requester) (k : Fin 256) (s : State) : R := writeECtrl r k.val (s.eCtrlWord k.val ||| 0x10) s

/-- A draining engine's work in flight has ended: no accepted commit request of its own waits, and no DMA channel or tap
snapshot it started runs (R235, R262). -/
def State.drained (s : State) (k : Nat) : Bool :=
  !s.commits.any (fun q => q.core == some k)
    && (List.range 16).all (fun c => !(s.clu c).dma.any (fun e => e.2.core == k && !e.2.cut)
        && !((s.clu c).tapStat.getLsbD 30 && (s.clu c).tapCore == k))

/-- ENGINE_DRAIN_DONE (R235, R630): to OFF, or at once to RUN if HOLD is 0 and the page is enabled. -/
def execEngineDrainDone (k : Fin 256) (s : State) : R :=
  if s.coreState k.val = 5 && s.drained k.val then
    let s0 := s
    .next (watch s0 ((s.setEng k.val 0).releaseEng k.val))
  else .next s

end Sys2Proof.Machine
end

