-- ==== Sys2Proof/Machine/EngCluster.lean ====
section
/-! DEFINITION. What stands around the engines of a cluster: the cluster window (R248), mailboxes (R249, R250), the DMA's control
(R253, R254), the tap port (R255 to R257), commit requests through the coefficient port (R259, R261), and the performance
counters (R268 to R274). A row that is a store or read of the local control block is its arrival there; the PC is moved
by the load or store itself. -/

namespace Sys2Proof.Machine

/-! ## The cluster window (R248) -/

/-- CLUSTER_WINDOW_WRITE (R248): bytes at an offset of a cluster's window. -/
def execClusterWindowWrite (r : Requester) (c : Fin 16) (off : BitVec 24) (bytes : List Byte) (s : State) : R :=
  let a := 0x20000000 + 0x1000000 * c.val + off.toNat
  let (s, trapped) := s.issueNarrow r
  if trapped then .next s else finish r a (s.memWrite r a bytes)

/-! ## Mailboxes (R249, R250) -/

/-- A message to the supervisor mailbox of a cluster: sixteen are kept; answers whether it was dropped. -/
def State.supSend (s : State) (c : Nat) (m : BitVec 64) : State × Bool :=
  let l := (s.clu c).supMb
  if 16 ≤ l.length then ((s.addSat (pCLU c) CLU.SUP_MB_STAT.DROPS 1).raise CLU.evSUP_MB_DROP c, true)
  else ((s.modClu c (fun u => { u with supMb := u.supMb ++ [m] })).when l.isEmpty (fun s => s.raise CLU.evSUP_MB c), false)

/-- An engine's message to an engine, or to the supervisor, of the cluster whose shared SRAM it sees. -/
def State.engSend (s : State) (k : Nat) (dst : Option Nat) (m : BitVec 64) : State :=
  let s := s.perfInstr k 0x80 none 1
  let h := s.homeOf k
  let (s, dropped) := match dst with
    | some e => s.mbSend (16 * h + e) m
    | none => s.supSend h m
  if dropped then (s.modCore k (fun x => { x with mbDrop := true })).perfInstr k 0x82 none 1 else s

/-- MB_SEND (R249, R250): a double store to MB_SEND[e], or to MB_SUP where no engine is named. -/
def execMbSend (k : Fin 256) (dst : Option (Fin 16)) (m : BitVec 64) (s : State) : R :=
  .next (s.engSend k.val (dst.map (·.val)) m)

/-- A write of MB_W0[e] (R249): kept for the send. -/
def effMbW0 (c e : Nat) (v : Word) (s : State) : Out :=
  .ok (s.modClu c fun u => { u with mbW0 := Tbl.put (some 0) u.mbW0 e v })

/-- A write of MB_W1[e] (R249): sends the message, which counts as the window's (R269, R270). -/
def effMbW1 (c e : Nat) (v : Word) (s : State) : Out :=
  let count (s : State) (code : Nat) := s.perf c ⟨code, none, 18, none, 0xFFFFFFFF, 0, 1⟩
  let (s, dropped) := (count s 0x80).mbSend (16 * c + e) (v ++ (Tbl.get 0 (s.clu c).mbW0 e : Word))
  .ok (s.when dropped fun s => count s 0x82)

/-- MB_W1_SEND (R249). -/
def execMbW1Send (r : Requester) (c e : Fin 16) (v : Word) (s : State) : R :=
  txn r (pCLU c.val + CLU.MB_W1 + 8 * e.val) v (effMbW1 c.val e.val v) s

/-- The halves of the oldest message of a mailbox; 0 when it is empty. -/
def mbLo (l : List (BitVec 64)) : Word := match l with | m :: _ => m.setWidth 32 | [] => 0
/-- Bits [63:32]. -/
def mbHi (l : List (BitVec 64)) : Word := match l with | m :: _ => m.extractLsb' 32 32 | [] => 0

/-- A read of MB_RX_HI: the high half, and the message removed. -/
def State.mbRxHi (s : State) (k : Nat) : Word × State :=
  let l := (s.core k).mbox
  let s := s.when (!l.isEmpty) (fun s => s.perfInstr k 0x81 none 1)
  (mbHi l, s.modCore k (fun x => { x with mbox := x.mbox.tail }))

/-- MB_RX_POP (R249): the engine reads MB_RX_HI. -/
def execMbRxPop (k : Fin 256) (s : State) : R :=
  let (w, s) := s.mbRxHi k.val
  .next (s.deliver (0x100 + k.val) w.toNat)

/-- A read of MB_STAT (R250): the count, the sticky DROP, which it clears, and the messages dropped. -/
def State.mbStat (s : State) (k : Nat) : Word × State :=
  let x := s.core k
  (BitVec.ofNat 32 (x.mbox.length + (if x.mbDrop then 2 ^ 8 else 0) + 2 ^ 16 * x.mbDropped),
   s.modCore k (fun x => { x with mbDrop := false }))

/-- MB_STAT_READ (R250). -/
def execMbStatRead (k : Fin 256) (s : State) : R :=
  let (w, s) := s.mbStat k.val
  .next (s.deliver (0x100 + k.val) w.toNat)

/-- A read of SUP_MB_HI (R276): the high half, and the message removed. -/
def State.supMbHi (s : State) (c : Nat) : Word × State :=
  (mbHi (s.clu c).supMb, s.modClu c (fun u => { u with supMb := u.supMb.tail }))

/-- SUP_MB_POP (R276). -/
def execSupMbPop (r : Requester) (c : Fin 16) (s : State) : R :=
  readTxn r (pCLU c.val + CLU.SUP_MB_HI) (fun s => s.supMbHi c.val) s

/-! ## The DMA's control (R251 to R254) -/

/-- DMA_STAT[ch]. -/
def dmaFld (ch : Nat) (f : Fld) : Fld := fldAt f (4 * ch)

/-- A start of a channel by an engine (R253): on a busy channel it is ignored and sets REJECTED. -/
def State.dmaStart (s : State) (k ch desc : Nat) : State :=
  let h := s.homeOf k
  let b := pCLU h
  if (match Tbl.find (s.clu h).dma ch with | some x => !x.cut | none => false) then s.setFld b (dmaFld ch CLU.DMA_STAT.REJECTED) 1
  else
    let s := s.modClu h fun u => { u with dma := Tbl.insert u.dma ch ⟨k, (s.core k).level == 0, desc, false, false⟩ }
    let s := (s.setFld b (dmaFld ch CLU.DMA_STAT.BUSY) 1).setFld b (dmaFld ch CLU.DMA_STAT.ENGINE) (k % 16)
    s.setFld b (dmaFld ch CLU.DMA_STAT.DESC) (desc / 32)

/-- DMA_START (R251, R253): a descriptor offset, in units of 32 bytes, on a channel. -/
def execDmaStart (k : Fin 256) (ch : Fin 4) (desc : BitVec 13) (s : State) : R :=
  .next (s.dmaStart k.val ch.val (32 * desc.toNat))

/-- Cancel a channel of a cluster (R254). -/
def State.dmaCancel (s : State) (c ch : Nat) : State :=
  s.modClu c fun u => { u with dma := u.dma.map (fun e => if e.1 = ch then (e.1, { e.2 with cancel := true }) else e) }

/-- DMA_CANCEL (R254): any write of DMA_CANCEL[ch]. -/
def execDmaCancel (k : Fin 256) (ch : Fin 4) (s : State) : R := .next (s.dmaCancel (s.homeOf k.val) ch.val)

/-- A read of DMA_STAT[ch] (R244, R277): it clears REJECTED and the DMA interrupt for this channel. -/
def State.dmaStat (s : State) (c ch : Nat) : Word × State :=
  let w := s.rd (pCLU c + CLU.DMA_STAT + 4 * ch)
  let s := s.setFld (pCLU c) (dmaFld ch CLU.DMA_STAT.REJECTED) 0
  (w, { s with cores := s.cores.map (fun e => (e.1, { e.2 with dmaIrq := e.2.dmaIrq.filter (· != 4 * c + ch) })) })

/-- DMA_STAT_READ (R244): a read of CLU[c].DMA_STAT[ch]; an engine reads the same through its local control block. -/
def execDmaStatRead (r : Requester) (c : Fin 16) (ch : Fin 4) (s : State) : R :=
  readTxn r (pCLU c.val + CLU.DMA_STAT + 4 * ch.val) (fun s => s.dmaStat c.val ch.val) s

/-! ## The tap port (R255 to R257) -/

/-- The lane page a cluster's tap request names (R230, R256): LANE is 0 for line clusters. -/
def tapPage (c ctrl : Nat) : Option Nat :=
  let lane := ctrl / 16 % 8
  if c < 8 then some (pLRX c) else if c = 8 then some (pHSL lane) else if c = 9 then some (pHSL (8 + lane)) else none

/-- A lane's receive direction runs: LRX out of DOWN (R64), HSL out of DOWN and FAULT (R211). -/
def State.rxRuns (s : State) (page : Nat) : Bool :=
  if famOf page = 9 then s.fld page LRX.LN_STAT.STATE != 0
  else s.fld page HSL.RX_STAT.STATE != 0 && s.fld page HSL.RX_STAT.STATE != 6

/-- The snapshot of a cluster ends with a result: DONE, and TAP at its requester (R244, R257). -/
def State.tapEnd (s : State) (c res : Nat) : State :=
  let u := s.clu c
  let w := putBits (putBits u.tapStat 30 2 2) 28 2 res
  let s := s.modClu c fun u => { u with tapStat := w }
  s.modCore u.tapCore (fun x => { x with ipend := x.ipend ||| 0x04 })

/-- A lane stops: a snapshot of it ends CANCELLED (R257, R267). -/
def State.tapStop (s : State) (page : Nat) : State :=
  s.each (List.range 10) fun s c =>
    if (s.clu c).tapStat.getLsbD 30 && tapPage c (s.clu c).tapCtrl.toNat == some page then s.tapEnd c 1 else s

/-- The lane's commit-point count that a snapshot of a receive page records (R257). -/
def State.tapFrame (s : State) (page : Nat) : Nat :=
  if famOf page = 9 then (s.rd (page + LRX.FRAME_CNT)).toNat else s.fld page HSL.CP_CNT.RX

/-- A snapshot with IMMEDIATE 1 takes its reference now (R256): how far the frame in progress has come is free (log entry 97). -/
def State.tapNow (s : State) (c page : Nat) : State :=
  let (v, s) := s.fresh
  s.modClu c fun u => { u with tapRun := { u.tapRun with ref := some (s.tapFrame page), skip := v % 147456 } }

/-- A snapshot runs on a receive page, in the replay's replica (`rep`) or the live lane (R399). -/
def State.tapping (s : State) (c page : Nat) (rep : Bool) : Bool :=
  let u := s.clu c
  u.tapStat.getLsbD 30 && tapPage c u.tapRun.ctrl == some page && s.replica u.tapCore == rep

/-- The snapshots of a page take what the lane has brought since, by point (R255). -/
def State.tapFeed (s : State) (page : Nat) (rep : Bool) (stream : Nat → List (BitVec 32)) : State :=
  s.each (List.range 10) fun s c =>
    s.when (s.tapping c page rep && (s.clu c).tapRun.ref.isSome) fun s => s.modClu c fun u =>
      let l := stream (u.tapRun.ctrl % 8)
      { u with tapRun := { u.tapRun with skip := u.tapRun.skip - l.length, words := u.tapRun.words ++ l.drop u.tapRun.skip } }

/-- A commit point of a page is the reference of the snapshots that wait for one (R256). -/
def State.tapMark (s : State) (page : Nat) (rep : Bool) (frame : Nat) : State :=
  s.each (List.range 10) fun s c =>
    s.when (s.tapping c page rep && (s.clu c).tapRun.ref.isNone) fun s =>
      s.modClu c fun u => { u with tapRun := { u.tapRun with ref := some frame } }

/-- The half-words of a snapshot (R255, R256), once its last sample has come: every (DECIM + 1)th sample from OFFSET on, 4,096 of them or 2,048
pairs. -/
def TapRun.take (t : TapRun) : Option (List (BitVec 16)) :=
  let pair : Bool := t.ctrl % 8 == 5
  let n := if pair then 2048 else 4096
  let step := t.ctrl / 256 % 256 + 1
  let ofs := t.ctrl / 2 ^ 20
  if t.words.length ≤ ofs + (n - 1) * step then none
  else some ((List.range n).flatMap fun i =>
    let w := t.words.getD (ofs + i * step) 0
    if pair then [w.setWidth 16, w.extractLsb' 16 16] else [w.setWidth 16])

/-- A host lane's sample in the format of its point (R255). -/
def hostFormat (point i : Nat) (v : BitVec 16) : BitVec 16 :=
  if point = 0 ∨ (point = 5 ∧ i % 2 = 0) then (v.setWidth 7).signExtend 8 |>.setWidth 16
  else if point = 4 then v &&& 3 else v

/-- The half-words that a snapshot delivers. No rule gives a host lane's datapath from its samples on, so a host lane's come with the command, in their
formats (log entry 97). -/
def State.tapData (s : State) (c : Nat) (samples : List (BitVec 16)) : Option (List (BitVec 16)) :=
  let t := (s.clu c).tapRun
  if c < 8 then t.take
  else if t.ref.isNone then none
  else some ((List.range 4096).map fun i => hostFormat (t.ctrl % 8) i (samples.getD i 0))

/-- A TAP_GO by an engine (R257): ignored while a snapshot runs. POINT 6 and 7, and POINT 1 of a host lane, are INVALID; a lane
that does not run, or a cluster without one, is CANCELLED. -/
def State.tapGo (s : State) (k : Nat) : State :=
  let h := s.homeOf k
  let u := s.clu h
  if u.tapStat.getLsbD 30 then s.modClu h fun u => { u with tapStat := u.tapStat ||| 0x08000000 }
  else
    let off (s : State) (i : Nat) := s.modCore i (fun x => { x with ipend := x.ipend &&& ~~~0x04 })
    let s := off (off s u.tapCore) k
    let bo : Word := if s.brownOut then 0x04000000 else 0
    let s := s.modClu h fun u => { u with tapCore := k, tapStat := 0x40000000 ||| bo, tapRun := ⟨u.tapCtrl.toNat, none, 0, []⟩ }
    let s := s.perfTap k
    let point := u.tapCtrl.toNat % 8
    if 6 ≤ point ∨ (8 ≤ h ∧ point = 1) then s.tapEnd h 2
    else match tapPage h u.tapCtrl.toNat with
      | some p => if s.rxRuns p then s.when (u.tapCtrl.getLsbD 16) (fun s => s.tapNow h p) else s.tapEnd h 1
      | none => s.tapEnd h 1

/-- TAP_GO (R257). -/
def execTapGo (k : Fin 256) (s : State) : R := .next (s.tapGo k.val)

/-- The bytes of half-words. -/
def halves : List (BitVec 16) → List Byte
  | [] => []
  | x :: t => x.setWidth 8 :: x.extractLsb' 8 8 :: halves t

/-- TAP_SNAPSHOT_DONE (R255, R257): the last sample has come, and the samples are in shared SRAM at TAP_DST. -/
def execTapSnapshotDone (c : Fin 16) (samples : List (BitVec 16)) (s : State) : R :=
  let u := s.clu c.val
  match (if u.tapStat.getLsbD 30 then s.tapData c.val samples else none) with
  | none => .next s
  | some w =>
    let l := halves w
    let idx := u.tapDst.toNat % 2 ^ 18 / 8
    let n := min (l.length / 8) (32768 - idx)
    let s := s.writeWords (8 + 3 * c.val) idx (l.take (8 * n))
    let s := s.each (List.range n) fun s i => s.perf c.val ⟨0x41, none, 17, some (0x20000 + 8 * (idx + i)), 0xFFFFFFFF, u.tapCore % 16, 1⟩
    let s := (s.perfBw c.val 1 n).perfBw c.val 5 n
    let bo : Word := if s.brownOut then 0x04000000 else 0
    let s := s.modClu c.val fun u => { u with tapStat := putBits (u.tapStat ||| bo) 0 16 (u.tapRun.ref.getD 0) }
    .next (s.tapEnd c.val 0)

/-- A read of TAP_STAT (R244): it clears the TAP interrupt. -/
def State.tapStatRead (s : State) (k : Nat) : Word × State :=
  let u := s.clu (s.homeOf k)
  (u.tapStat, s.modCore u.tapCore (fun x => { x with ipend := x.ipend &&& ~~~0x04 }))

/-- TAP_STAT_READ (R244). -/
def execTapStatRead (k : Fin 256) (s : State) : R :=
  let (w, s) := s.tapStatRead k.val
  .next (s.deliver (0x100 + k.val) w.toNat)

/-! ## Commits through the coefficient port (R231, R259, R261) -/

/-- A host error on the replica, which has no page: its shadow bank and its waiting groups are free (R399, R447; DESIGN CHOICE, log entry
90). -/
def State.replicaFree (s : State) : State :=
  let shadow := ((List.range 0x400).map (4 * ·)).foldl (fun t o =>
    if (groupOf 9 o).isSome then Tbl.insert t o (Config.freeReg s.free o) else t) s.rpl.shadow
  { s with rpl := { s.rpl with shadow := shadow, groups := Config.freeNat s.free % 128 }, free := s.free + 1 }

/-- COMMIT of a target's page. -/
def commitOff (page : Nat) : Nat := match famOf page with | 9 => LRX.COMMIT | 10 => LTX.COMMIT | _ => HSL.COMMIT

/-- The group bits that COMMIT of a page defines (R59, R105, R226). -/
def commitMask (page : Nat) : Nat := match famOf page with | 9 => 0x7F | 10 => 0x1F | _ => 0xF

/-- The engine address of an offset in target `t`'s window (R246). -/
def cpAddr (t off : Nat) : Word := BitVec.ofNat 32 (0x90000 + 0x1000 * t + off)

/-- CP_COMMIT (R231, R259): a COMMIT store of an engine reaches its target as a commit request; a store by an engine that is not
the owner traps CP_OWN, one to a target the cluster lacks ACCESS. -/
def execCpCommit (k : Fin 256) (t : Fin 8) (v : Word) (s : State) : R :=
  let h := s.homeOf k.val
  match targetPage h t.val with
  | none => .next (s.trap k.val 4 (cpAddr t.val 0))
  | some page =>
    let s := s.perfBw h 4 1
    if t.val = 0 ∧ s.replica k.val then
      if !s.replicaOwner k.val then .next (s.trap k.val 6 (cpAddr 0 (commitOff page)))
      else if commitMask page < v.toNat then .next s.replicaFree
      else .next { s with rpl := { s.rpl with groups := s.rpl.groups ||| v.toNat } }
    else if s.cpOwner h t.val ≠ some k.val then .next (s.trap k.val 6 (cpAddr t.val (commitOff page)))
    else if commitMask page < v.toNat then .next (s.unsettle [page])
    else .next (s.commitRequest page v.toNat (some k.val) 0)

/-- A read of COMMIT_STAT through the port (R244): it clears the COMMIT interrupt for the target. -/
def State.cpCommitStat (s : State) (k page : Nat) : Word × State :=
  (s.rd (page + commitStatOff page), s.modCore k (fun x => { x with cpIrq := x.cpIrq.filter (· != page) }))

/-- CP_COMMIT_STAT_READ (R244). -/
def execCpCommitStatRead (k : Fin 256) (t : Fin 8) (s : State) : R :=
  match targetPage (s.homeOf k.val) t.val with
  | none => .next (s.trap k.val 4 (cpAddr t.val 0))
  | some page =>
    let (w, s) := (s.perfBw (s.homeOf k.val) 4 1).cpCommitStat k.val page
    .next (s.deliver (0x100 + k.val) w.toNat)

/-! ## Performance counters -/

/-- Programmable counter `k` of a cluster counts (R268). -/
def State.counting (s : State) (c k : Nat) : Bool :=
  s.bit (pPERF c) PERF.PF_CTRL.EN && !s.bit (pPERF c) PERF.PF_CTRL.FREEZE && s.enabled (pPERF c)
    && s.bit (pPERF c) (fldAt PERF.EVSEL.EN (32 * k))

/-- PERF_OVERFLOW (R271): a counter passes 2^48 − 1. -/
def execPerfOverflow (c : Fin 16) (k : Fin 8) (s : State) : R :=
  if s.counting c.val k.val then .next ((s.setLv (perfCnt c.val k.val) 0).perfWrap c.val k.val) else .next s

/-- The two 64-bit words of a sample record (R272), `cyc` the cycle counter. -/
def sampleWords (p : Sample) (latency : BitVec 16) (cyc : Nat) : List Byte :=
  toBytes 16 (p.pc.toNat
    + 2 ^ 32 * (p.engine % 16 * 2 ^ 28 + p.level % 2 * 2 ^ 27 + p.k % 8 * 2 ^ 24 + p.code % 256 * 2 ^ 16 + latency.toNat)
    + 2 ^ 64 * p.addr.toNat + 2 ^ 96 * (cyc % 2 ^ 32))

/-- A record reaches the sample buffer (R272, R273). The cycle counter is time: its word is free (log entry 5). -/
def State.sampleWrite (s : State) (c : Nat) (p : Sample) (latency : BitVec 16) : State :=
  let b := pPERF c
  let i := s.fld b PERF.SMP_STAT.NEXT
  let idx := s.fld b PERF.SMP_CTRL.BASE * 8 + 2 * i
  let (cyc, s) := s.fresh
  let s := (List.range 2).foldl (fun s j =>
    if idx + j < 32768 then (s.perfBw c 1 1).writeWords (8 + 3 * c) (idx + j) (((sampleWords p latency cyc).drop (8 * j)).take 8) else s) s
  let s := s.setFld b PERF.SMP_STAT.NEXT (i + 1)
  if i + 1 < 1024 then s
  else if s.bit b PERF.SMP_CTRL.WRAP then s.addWrap b PERF.SMP_STAT.WRAPS 1
  else (((s.setFld b PERF.PF_STAT.SMP_FULL 1).setLv (b + PERF.SMP_CTRL) 1).raise PERF.evSMP_FULL c).perfIrq c

/-- PERF_SAMPLE (R272, R273): the oldest sample owed is written, or lost to a busy writer; none is taken once sampling ended. -/
def execPerfSample (c : Fin 16) (latency : BitVec 16) (lost : Bool) (s : State) : R :=
  match (s.clu c.val).due with
  | [] => .next s
  | p :: _ =>
    let s := s.modClu c.val fun u => { u with due := u.due.tail }
    if !s.sampling c.val then .next s
    else if lost then .next (s.addSat (pPERF c.val) PERF.SMP_STAT.LOST 1)
    else .next (s.sampleWrite c.val p latency)

/-- A write of SMP_CTRL: sampling that ended in STOP mode can start again once EN is 0 (log entry 12). -/
def effSmpCtrl (c : Nat) (v : Word) (s : State) : Out :=
  let s := s.wr (pPERF c + PERF.SMP_CTRL) v
  .ok (s.when (!v.getLsbD 0) (fun s => s.setLv (pPERF c + PERF.SMP_CTRL) 0))

/-- PERF_BW_WINDOW (R274): BW[p] latches the units of the window that ends. -/
def execPerfBwWindow (c : Fin 16) (s : State) : R :=
  let s := s.each (List.range 6) fun s p =>
    s.wr (pPERF c.val + PERF.BW + 4 * p) (BitVec.ofNat 32 (Tbl.get 0 (s.clu c.val).bw p))
  .next (s.modClu c.val fun u => { u with bw := [] })

/-- A write of PF_STAT (R244): W1C, and the PERF interrupt of the cluster's engines cleared. -/
def effPfStat (c : Nat) (v : Word) (s : State) : Out :=
  let a := pPERF c + PERF.PF_STAT
  let s := s.wr a (s.rd a &&& ~~~v)
  .ok (s.each (s.enginesOf c) fun s k => s.modCore k (fun x => { x with ipend := x.ipend &&& ~~~0x20 }))

/-- PF_STAT_CLEAR (R244). -/
def execPfStatClear (r : Requester) (c : Fin 16) (v : BitVec 9) (s : State) : R :=
  txn r (pPERF c.val + PERF.PF_STAT) (v.setWidth 32) (effPfStat c.val (v.setWidth 32)) s

end Sys2Proof.Machine
end

