-- ==== Sys2Proof/Machine/Cal.lean ====
section
/-! DEFINITION. Background calibration and slice sparing (R121 to R155): the steps of the rotation, hand-overs, measurement and
agreement, retirement, the health monitor, quiet windows on the requesting side, and the CALREF measurement. -/

namespace Sys2Proof.Machine

/-! ## Roles of slices -/

/-- Positions 0 to 15 go to the non-retired slices in increasing number, and the next one is the spare (R136). -/
def State.rebuild (s : State) (u : Nat) : State :=
  let l := (List.range 17).filter (fun sl => !s.sliceRetired u sl)
  let s := (List.range 16).foldl (fun s p => s.setPos u p (l.getD p 31)) s
  (s.setSpareSlice u (l.getD 16 31)).exhaustCheck u

/-! ## Emergency hand-over (R138, R139) -/

/-- The conditions of R139 hold, or a granted quiet window is open (R145): no emergency hand-over. -/
def State.noEmergency (s : State) (u : Nat) : Bool :=
  (if u < 8 then decide (s.fld (pLRX u) LRX.LN_STAT.STATE < 2) else decide (s.fld (pLTX (u - 8)) LTX.TX_STAT.STATE < 2))
    || !s.servedPage (unitPage u) || s.brownOut || s.quietOpen u

/-- The spare can take a position: it exists, is not SUSPECT, and is not itself under visit (R138, R143). -/
def State.spareReady (s : State) (u : Nat) : Bool :=
  s.spare u != 31 && !(s.calSt u).suspect.testBit (s.spare u) && !((s.calSt u).spareVisit && s.phase u != 0)

/-- The lowest serving SUSPECT slice, while the monitor is enabled. -/
def State.suspectSlice (s : State) (u : Nat) : Option Nat :=
  if s.bit pCAL CAL.CAL_CTRL.MON_EN && s.enabled pCAL then
    (List.range 17).find? (fun sl => (s.calSt u).suspect.testBit sl && (s.serving u).contains sl)
  else none

/-- The serving slice that an emergency hand-over would release now: one a command retires, else the lowest SUSPECT one. -/
def State.emergencySlice (s : State) (u : Nat) : Option Nat :=
  if s.noEmergency u || !s.spareReady u then none
  else match (s.calSt u).retireCmd.find? (fun c => (s.serving u).contains c) with
    | some c => some c
    | none => s.suspectSlice u

/-- An emergency hand-over at a commit point (R138): the spare takes the position; the slice released is the new spare, marked
for revisit, or is retired if a command named it (R136). A step still in PHASE or SHADOW ends. -/
def State.emergency (s : State) (u : Nat) : State :=
  match s.emergencySlice u with
  | none => s
  | some c =>
    let s := s.when (s.phase u != 0) (fun s => s.endStep u)
    let s := (s.setPos u ((s.posOf u c).getD 0) (s.spare u)).setSpareSlice u c
    let s := (s.addSat pCAL (uf u CAL.U_STAT.EMERG) 1).raiseAct CAL.evEMERGENCY 0 [0, 0, 0, 0]
    if (s.calSt u).retireCmd.contains c then s.retireNamed u c else s.toRevisit u c

/-! ## Steps (R122 to R130) -/

/-- The parameters of a unit: offset, gain, skew and, on receive units, bandwidth (R129). -/
def allPars (u : Nat) : Nat := if u < 8 then 15 else 7

/-- Measurement of the parameters `todo` begins with pass A. -/
def State.measure (s : State) (u todo ph : Nat) : State :=
  (s.modCal u fun x => { x with todo := todo, passes := 0, failA := 0, failB := 0 }).setPhase u ph

/-- A visit to slice `c` begins: its sequence number counts on (R132). -/
def State.visit0 (s : State) (u c p : Nat) (spareVisit : Bool) : State :=
  let s := s.modCal u fun x => { x with seq := (x.seq + 1) % 2 ^ 16, spareVisit := spareVisit }
  (s.setFld pCAL (uf u CAL.U_STAT.SLICE) c).setFld pCAL (uf u CAL.U_STAT.POS) p

/-- The serving slice that a hand-over step takes (R122 rules 2 and 3). Of several SUSPECT slices it is the one with the lowest number (DESIGN CHOICE, log entry 100). -/
def State.candidate (s : State) (u : Nat) : Nat :=
  let l := (List.range 17).filter (fun sl => (s.serving u).contains sl)
  let x := s.calSt u
  match l.find? (fun sl => x.suspect.testBit sl) with
  | some c => c
  | none => l.foldl (fun b sl => if b = 31 ∨ Tbl.get 0 x.last sl < Tbl.get 0 x.last b then sl else b) 31

/-- The unit may start a step: no pause, no step, nothing waiting for a commit point, a slice to spare, and no quiet window open on its
lane (R140, R142, R145). -/
def State.canStep (s : State) (u : Nat) : Bool :=
  s.unitHere u && s.phase u == 0 && (s.calSt u).wait == 0 && s.calCause u == 0
    && !s.bit pCAL (uf u CAL.U_STAT.EXHAUSTED) && !s.quietOpen u

/-- A step starts (R122, R124, R144): a spare visit to a marked spare, else a hand-over step, if the spare may serve. -/
def State.startStep (s : State) (u : Nat) : State :=
  if s.canStep u then
    let sp := s.spare u
    let x := s.calSt u
    if sp = 31 then s
    else if x.revisit.testBit sp then (s.visit0 u sp 0 true).measure u (allPars u) 3
    else if x.suspect.testBit sp then s
    else
      let c := s.candidate u
      let s := (s.visit0 u c ((s.posOf u c).getD 0) false).setPhase u 1
      if u < 8 ∧ s.m400 ∧ s.bit pCAL CAL.CAL_CTRL.QUIET_EN then s.modCal u fun x => { x with quiet := 1 } else s
  else s

/-- CAL_STEP_START (R123). -/
def execCalStepStart (u : Fin 16) (s : State) : R := .next (s.startStep u.val)

/-- CAL_PHASE_END (R124, R144): PHASE has lasted 1.0 µs and no grant is awaited. -/
def execCalPhaseEnd (u : Fin 16) (s : State) : R :=
  let q := (s.calSt u.val).quiet
  if s.phase u.val = 1 ∧ (q = 0 ∨ q = 3) then .next (s.setPhase u.val 2) else .next s

/-- The shadow check (R127): differences in thousandths of an LSB, thousandths of a per cent, and attoseconds. -/
def shadowOk (off gain skew : Int) : Bool :=
  decide (off.natAbs ≤ 800) && decide (gain.natAbs ≤ 300) && decide (skew.natAbs ≤ 24000)

/-- CAL_SHADOW_END (R124, R127): the hand-over waits for the next commit point, or is refused. -/
def execCalShadowEnd (u : Fin 16) (off gain skew : Int) (s : State) : R :=
  let u := u.val
  if s.phase u = 2 ∧ (s.calSt u).wait = 0 then
    if shadowOk off gain skew then .next (s.modCal u fun x => { x with wait := 1 })
    else
      let s := (s.addSat pCAL (uf u CAL.U_CNT.SHADOW_REF) 1).toRevisit u (s.spare u)
      .next ((s.raise CAL.evSHADOW_REFUSED 0).endStep u)
  else .next s

/-- The 64 bytes of a measurement record (R132) from its words 1 to 6, the temperature, and whether the pass met every limit. -/
def recordBytes (x : CalSt) (sl : Nat) (words : List Word) (temp : BitVec 16) (ok : Bool) : List Byte :=
  let w0 := x.seq * 2 ^ 16 + x.passes * 2 ^ 12 + x.todo * 2 ^ 8 + sl
  let ws := (List.range 6).map (fun i => (words.getD i 0).toNat)
  let w7 := temp.toNat + (if ok then 2 ^ 16 else 0)
  (([w0] ++ ws ++ [w7]).flatMap (toBytes 4)) ++ List.replicate 32 0

/-- The parameters whose raw value misses a limit of the reference check (R133): noise counts under offset and monotonicity under gain (DESIGN CHOICE, log
entry 16). -/
def refCheck (u : Nat) (p : RawPass) : Nat :=
  let b (c : Bool) (i : Nat) := if c then 0 else 2 ^ i
  let rises := (p.steps.zip (p.steps.drop 1)).all fun e => decide (e.1 ≤ e.2)
  b (decide (p.offset.natAbs ≤ 24000) && decide (p.noise ≤ 1500)) 0 + b (decide (p.gain.natAbs ≤ 15000) && rises) 1
    + b (decide (p.skew.natAbs ≤ 3000000)) 2 + (if u < 8 then b (decide (p.bw.natAbs ≤ 10000)) 3 else 0)

/-- CAL_PASS_DONE (R129, R131 to R133): pass A or B of the visit ends. Its record goes to the shared SRAM of the lane's cluster, pass A at
U_REC, pass B 64 bytes on (DESIGN CHOICE, log entry 16). `raw` are the raw values that the check of R133 judges. -/
def execCalPassDone (u : Fin 16) (words : List Word) (temp : BitVec 16) (raw : RawPass) (s : State) : R :=
  let u := u.val
  let x := s.calSt u
  if (s.phase u = 3 ∨ s.phase u = 4) ∧ x.wait = 0 ∧ x.passes < 2 then
    let f := refCheck u raw &&& x.todo
    let idx := (s.fld pCAL (uf u CAL.U_REC.OFS) * 8 + 8 * x.passes) % 32768
    let s := s.writeWords (8 + 3 * (u % 8)) idx (recordBytes x (s.visited u) words temp (f == 0))
    let s := s.modCal u fun x => if x.passes = 0 then { x with passes := 1, failA := f }
      else { x with passes := 2, failB := f, dead := x.dead || (x.failA != 0 && f != 0) }
    .next (s.when (x.passes == 1) (fun s => s.setPhase u 4))
  else .next s

/-- A parameter's result register, the width of its results, its tolerance (R129), and where its correction stands in MC[s]:
offset of the word, lowest bit and width (R83, R119). -/
structure ParRow where
  reg : Nat
  width : Nat
  tol : Nat
  word : Nat
  lo : Nat
deriving DecidableEq, Repr

/-- The parameters of R129. -/
def parRow : Nat → ParRow
  | 0 => ⟨CAL.RES_OFS, 10, 6, 0, 0⟩
  | 1 => ⟨CAL.RES_GAIN, 12, 15, 0, 16⟩
  | 2 => ⟨CAL.RES_SKEW, 11, 3, 4, 0⟩
  | _ => ⟨CAL.RES_BW, 8, 5, 4, 16⟩

/-- The results A and B of a parameter, as the engine wrote them. -/
def State.results (s : State) (u i : Nat) : Int × Int :=
  let p := parRow i
  let w := s.rd (pCAL + p.reg + 16 * u)
  (sx p.width (getBits w 0 p.width), sx p.width (getBits w 16 p.width))

/-- (A + B) / 2, ties away from zero (R129). -/
def meanAway (a b : Int) : Int :=
  let t := a + b
  if 0 ≤ t then (t + 1) / 2 else -((-t + 1) / 2)

/-- Two results agree within the tolerance (R129). -/
def agree (i : Nat) (r : Int × Int) : Bool := decide ((r.1 - r.2).natAbs ≤ (parRow i).tol)

/-- RETURN (R124): the accepted corrections are written to the shadow of MC[C] and the MC group is committed. -/
def State.returnStep (s : State) (u : Nat) : State :=
  let page := unitPage u
  let a := page + (if u < 8 then LRX.MC_A else LTX.MC_A) + 8 * s.visited u
  let s := (s.calSt u).acc.foldl (fun s e =>
    let p := parRow e.1
    s.wr (a + p.word) (putBits (s.rd (a + p.word)) p.lo p.width e.2)) s
  let s := (s.setPhase u 5).modCal u fun x => { x with wait := 2 }
  s.commitRequest page (if u < 8 then 2 else 4) none 2

/-- The visit's last pair has been judged: every parameter that disagreed is recorded with its last A and B (R130), and RETURN
begins. The record's first word is unit + 256 · slice (DESIGN CHOICE, log entry 100). -/
def State.judged (s : State) (u bad : Nat) : State :=
  let c := s.visited u
  let s := ((List.range 4).filter bad.testBit).foldl (fun s i =>
    let r := s.results u i
    s.raiseRec CAL.evDISAGREE 0 0 [BitVec.ofNat 32 (u + 256 * c), BitVec.ofNat 32 i, BitVec.ofInt 32 r.1, BitVec.ofInt 32 r.2]) s
  let s := s.when (bad != 0) (fun s => s.addSat pCAL (uf u CAL.U_CNT.DISAGREE) 1)
  (s.modCal u fun x => { x with bad := bad }).returnStep u

/-- SUBMIT (R130, R131, R133): the parameters of the pass pair are checked. Those that disagree are measured again while
retries remain; those that missed a reference-check limit count as disagreeing. PHASE stays 4 during the passes of a retry (R124; DESIGN CHOICE, log entry 100). -/
def State.submitCal (s : State) (u : Nat) : State :=
  let x := s.calSt u
  if s.phase u = 4 ∧ x.passes = 2 ∧ x.wait = 0 then
    let todo := (List.range 4).filter x.todo.testBit
    let ref := x.failA ||| x.failB
    let good := todo.filter (fun i => agree i (s.results u i) && !ref.testBit i)
    let again := (todo.filter (fun i => !agree i (s.results u i) && !ref.testBit i)).foldl (fun m i => m + 2 ^ i) 0
    let bad := x.bad ||| ref
    let acc := good.foldl (fun t i =>
      let r := s.results u i
      Tbl.insert t i (unsx (parRow i).width (meanAway r.1 r.2))) x.acc
    let s := s.modCal u fun x => { x with acc := acc, bad := bad }
    if again ≠ 0 ∧ s.fld pCAL (uf u CAL.U_STAT.RETRY) < s.fld pCAL CAL.RETRY_CFG.RETRIES then
      (s.addWrap pCAL (uf u CAL.U_STAT.RETRY) 1).measure u again 4
    else s.judged u (bad ||| again)
  else s

/-- CAL_RESULT_TIMEOUT (R131): the engine has not submitted within RES_TMO. -/
def execCalResultTimeout (u : Fin 16) (s : State) : R :=
  if s.phase u.val = 4 ∧ (s.calSt u.val).passes = 2 ∧ (s.calSt u.val).wait = 0 then
    .next ((s.raise CAL.evRESULT_TIMEOUT 0).abandon u.val)
  else .next s

/-- A visit to slice `c` belongs to the rotation; one that completes it moves the unit's reference block towards BG_TRIM in force, by at most
0.05 % (R149). -/
def State.rotated (s : State) (u c : Nat) : State :=
  let rot := (s.calSt u).rot ||| 2 ^ c
  let full := (List.range 17).all fun sl => s.sliceRetired u sl || rot.testBit sl
  let want := sx 12 (Tbl.get 0 s.hk.trims (pCAL + CAL.BG_TRIM)).toNat
  s.modCal u fun x =>
    if full then { x with rot := 0, ref := max (x.ref - 50) (min (x.ref + 50) want) } else { x with rot := rot }

/-- The visit ends at the commit point at which its corrections came into force (R124, R133, R134, R136, R138). A visit of which some
parameter was accepted is the slice's last accepted calibration (R122; DESIGN CHOICE, log entry 100). -/
def State.endVisit (s : State) (u : Nat) : State :=
  let x := s.calSt u
  let c := s.visited u
  let s := s.when (!x.spareVisit) (fun s => (s.setCalOut u 31).setSpareSlice u c)
  let s := s.addWrap pCAL (uf u CAL.U_CNT.STEPS) 1
  let s := s.modCal u fun x => if x.acc = [] then x else { x with order := x.order + 1, last := Tbl.insert x.last c (x.order + 1) }
  let n := Tbl.get 0 x.dis c + 1
  let s := if x.bad ≠ 0 then (s.toRevisit u c).modCal u fun x => { x with dis := Tbl.put (some 0) x.dis c n }
    else (s.unmark u c).modCal u fun x => { x with dis := Tbl.erase x.dis c }
  let s := (s.rotated u c).endStep u
  let drop (s : State) := s.modCal u fun x => { x with retireCmd := x.retireCmd.filter (· != c) }
  if x.dead then (drop s).retireSlice u c 1
  else if x.bad ≠ 0 ∧ max 1 (s.fld pCAL CAL.RETRY_CFG.DIS_LIM) ≤ n then (drop s).retireSlice u c 2
  else s.retireNamed u c

/-- An abandoned visit ends: C becomes the spare with its previous corrections, marked for revisit (R142, R143). -/
def State.giveBack (s : State) (u : Nat) : State :=
  let c := if s.calOut u = 31 then s.spare u else s.calOut u
  let s := ((s.setCalOut u 31).setSpareSlice u c).toRevisit u c
  (s.endStep u).retireNamed u c

/-- The hand-over of a step (R124 to R126): the spare takes the candidate's position, and the candidate is measured. -/
def State.handOver (s : State) (u : Nat) : State :=
  let c := s.visited u
  let s := s.setPos u ((s.posOf u c).getD 0) (s.spare u)
  let s := (s.setSpareSlice u 31).setCalOut u c
  (s.modCal u fun x => { x with wait := 0, quiet := 0 }).measure u (allPars u) 3

/-- The spare is retired at a commit point if a command named it (R49, R136); a step that it was preparing ends. Commands that no spare is left for are
ignored. -/
def State.retireSpare (s : State) (u : Nat) : State :=
  let sp := s.spare u
  let s := s.when ((s.calSt u).retireCmd.contains sp && !((s.calSt u).spareVisit && s.phase u != 0)) fun s =>
    (s.when (s.phase u != 0) fun s => s.endStep u).retireNamed u sp
  s.when (s.spare u == 31 && s.calOut u == 31) fun s => s.modCal u fun x => { x with retireCmd := [] }

/-- What the slices of a unit's lane do at a commit point (R124, R126, R136, R138): an emergency hand-over, a spare's retirement, then the change that
waits. -/
def State.calPoint (s : State) (u : Nat) : State :=
  let s := (s.emergency u).retireSpare u
  match (s.calSt u).wait with
  | 1 => if s.quietOpen u then s else s.handOver u
  | 3 => s.giveBack u
  | 4 => s.endVisit u
  | _ => s

/-! ## Commands (R136, R154) -/

/-- RETIRE (R136). On a running lane the maps change at a commit point only (R49). -/
def State.retireCommand (s : State) (u sl : Nat) : State :=
  if 16 < sl ∨ s.sliceRetired u sl then s
  else
  let waits := s.modCal u fun x => { x with retireCmd := x.retireCmd.filter (· != sl) ++ [sl] }
  if s.visited u = sl ∧ s.phase u ≠ 0 ∨ s.calOut u = sl then waits
  else if s.spare u = sl then
    if s.unitRuns u then waits
    else (s.when (s.phase u == 1 || s.phase u == 2) (fun s => s.endStep u)).retireSlice u sl 3
  else if s.spare u = 31 then s
  else if s.unitRuns u then waits
  else
    let s := (s.setFld (mapBase u) (smRet sl) 1).unmark u sl
    let s := s.raiseAct CAL.evSLICE_RETIRED 0 [BitVec.ofNat 32 u, BitVec.ofNat 32 sl, 3, s.unitFrame u]
    s.rebuild u

/-- A write of U_CMD[u]. Units that the variant lacks ignore it (R121). -/
def effUCmd (u : Nat) (v : Word) (s : State) : Out :=
  if !s.unitHere u then .ok s
  else
    let s := s.when (v.getLsbD 2) (fun s => s.modCal u fun x => { x with held := true })
    let s := s.when (v.getLsbD 3) (fun s => s.modCal u fun x => { x with held := false })
    let s := s.when (v.getLsbD 4) (fun s => s.retireCommand u (getBits v 8 5))
    let s := s.when (v.getLsbD 1) (fun s => s.submitCal u)
    .ok (s.when (v.getLsbD 0) (fun s => s.startStep u))

/-- A write of a unit's command register. -/
def uCmd (r : Requester) (u : Nat) (v : Word) (s : State) : R := txn r (pCAL + CAL.U_CMD + 4 * u) v (effUCmd u v) s

/-- CAL_SUBMIT (R131). -/
def execCalSubmit (r : Requester) (u : Fin 16) (s : State) : R := uCmd r u.val 0x2 s
/-- CAL_RETIRE (R136). -/
def execCalRetire (r : Requester) (u : Fin 16) (sl : BitVec 5) (s : State) : R :=
  uCmd r u.val (BitVec.ofNat 32 (0x10 + 256 * sl.toNat)) s
/-- CAL_HOLD (R154). -/
def execCalHold (r : Requester) (u : Fin 16) (s : State) : R := uCmd r u.val 0x4 s
/-- CAL_RESUME (R154). -/
def execCalResume (r : Requester) (u : Fin 16) (s : State) : R := uCmd r u.val 0x8 s
/-- CAL_STEP_NOW (R154). -/
def execCalStepNow (r : Requester) (u : Fin 16) (s : State) : R := uCmd r u.val 0x1 s

/-- A write of CAL_CTRL (R142, R150, R153): REF_MODE 3 is reserved; 2 is ignored outside MANUFACTURE and RETURNED. -/
def effCalCtrl (v : Word) (s : State) : Out :=
  let m := getBits v 4 2
  if m = 3 then hostError [pCAL] s
  else
    let v := if m = 2 ∧ !s.debugOn then putBits v 4 2 (s.fld pCAL CAL.CAL_CTRL.REF_MODE) else v
    .ok (watch s (s.wr (pCAL + CAL.CAL_CTRL) v))

/-- A write of a per-unit RW register: ignored on a unit that the variant lacks (R121). -/
def effUnitReg (u a : Nat) (v : Word) (s : State) : Out := .ok (if s.unitHere u then s.wr a v else s)

/-! ## The health monitor (R137) -/

/-- A serving slice is flagged: it is SUSPECT, and on a unit without a slice to spare the lane is DEGRADED (R137, R138, R141, R143). -/
def State.flag (s : State) (u sl : Nat) : State :=
  if (s.calSt u).suspect.testBit sl ∨ !(s.serving u).contains sl then s
  else
    let s := s.setMarks u ((s.calSt u).suspect ||| 2 ^ sl) (s.calSt u).revisit
    s.when (s.bit pCAL (uf u CAL.U_STAT.EXHAUSTED)) (fun s => s.degrade u)

/-- The monitor runs on a unit. -/
def State.monitors (s : State) (u : Nat) : Bool :=
  s.unitHere u && s.bit pCAL CAL.CAL_CTRL.MON_EN && s.enabled pCAL && s.unitRuns u

/-- MON_WINDOW_END (R137): each position's deviation from the lane's mean, in thousandths of an ADC LSB, and from the lane's RMS, in
thousandths of a per cent. A slice at a position that deviates for MON_N windows running is flagged. -/
def execMonWindowEnd (n : Fin 8) (devs : List (Nat × Nat)) (s : State) : R :=
  let u := n.val
  if s.monitors u then
    let lim := max 1 (s.fld pCAL CAL.MON_CFG.MON_N)
    .next (s.each (List.range 16) fun s p =>
      let d := devs.getD p (0, 0)
      let x := s.calSt u
      let a := if 250 * s.fld pCAL CAL.MON_CFG.MON_OFS < d.1 then min 7 (Tbl.get 0 x.mean p + 1) else 0
      let b := if 100 * s.fld pCAL CAL.MON_CFG.MON_GAIN < d.2 then min 7 (Tbl.get 0 x.rms p + 1) else 0
      let s := s.modCal u fun x => { x with mean := Tbl.put (some 0) x.mean p a, rms := Tbl.put (some 0) x.rms p b }
      s.when (decide (lim ≤ a) || decide (lim ≤ b)) (fun s => s.flag u (s.posSlice u p)))
  else .next s

/-- Put a number in its place in a rising list. -/
def rising (x : Int) : List Int → List Int
  | [] => [x]
  | y :: t => if x ≤ y then x :: y :: t else y :: rising x t

/-- Twice the median: the middle value twice, or the sum of the two middle values (R137, R486). -/
def median2 (l : List Int) : Int :=
  let t := l.foldl (fun t x => rising x t) []
  t.getD ((t.length - 1) / 2) 0 + t.getD (t.length / 2) 0

/-- TX_BIAS_FLAG (R137): below half the median of the other serving slices, that is four times below twice the median. -/
def execTxBiasFlag (n : Fin 8) (sl : Fin 17) (bias : List Nat) (s : State) : R :=
  let u := 8 + n.val
  let others := ((List.range 17).filter fun k => k != sl.val && (s.serving u).contains k).map fun k => (bias.getD k 0 : Int)
  if s.monitors u ∧ 4 * (bias.getD sl.val 0 : Int) < median2 others then .next (s.flag u sl.val) else .next s

/-- QUIET_MISSED (R146): no grant within QUIET_TMO; the step goes on without a window. -/
def execQuietMissed (n : Fin 8) (s : State) : R :=
  let q := (s.calSt n.val).quiet
  if s.phase n.val = 1 ∧ (q = 1 ∨ q = 2) then
    .next ((s.modCal n.val fun x => { x with quiet := 0 }).raise CAL.evQUIET_MISSED 0)
  else .next s

/-! ## CALREF (R147, R150) -/

/-- The state of the CALREF pin (R147) at a voltage in µV that has stood for so many µs: 0 ABSENT, 1 PRESENT, 2 OUT_OF_RANGE. -/
def calrefClass (uv us : Nat) : Nat :=
  if uv < 100000 then 0 else if 980000 ≤ uv ∧ uv ≤ 1020000 ∧ 1000 ≤ us then 1 else 2

/-- CALREF_CHANGE (R147): 0 ABSENT, 1 PRESENT, 2 OUT_OF_RANGE. -/
def execCalrefChange (uv us : Nat) (s : State) : R :=
  let c := calrefClass uv us
  if s.fld pCAL CAL.CAL_STAT.CALREF = c then .next s
  else .next ((s.setFld pCAL CAL.CAL_STAT.CALREF c).raise CAL.evCALREF_CHANGE 0)

/-- A write of CAL_CMD (R150): REF_MEASURE starts a measurement, not in REF_MODE 0, and not during the brown-out warning. -/
def effCalCmd (v : Word) (s : State) : Out :=
  if v.getLsbD 0 && s.fld pCAL CAL.CAL_CTRL.REF_MODE != 0 && !s.brownOut && s.enabled pCAL then
    .ok (s.setFld pCAL CAL.CAL_STAT.REF_BUSY 1)
  else .ok s

/-- CAL_REF_MEASURE (R150). -/
def execCalRefMeasure (r : Requester) (s : State) : R := txn r (pCAL + CAL.CAL_CMD) 0x1 (effCalCmd 0x1) s

/-- Step 4 of a field measurement (R150): a trim within 0.3 % of BG_TRIM is written with FIELD 1 and stored in the settings store; any other is rejected.
No rule gives the trim of a measurement: it is free (log entry 78). -/
def State.fieldTrim (s : State) (bg calref : BitVec 16) : State :=
  let t : Word := (Config.fieldTrim bg calref).setWidth 32 ||| 0x80000000
  let cur := sx 12 (s.fld pCAL CAL.BG_TRIM.TRIM)
  if (sx 12 t.toNat - cur).natAbs ≤ 300 then
    { s.wr (pCAL + CAL.BG_TRIM) t with boot := { s.boot with flash := { s.boot.flash with bgTrim := some t } } }
  else s.raise CAL.evCALREF_REJECT 0

/-- CAL_REF_MEASURE_DONE (R150): the means of the 1,024 conversions, LSB 20 µV. -/
def execCalRefMeasureDone (bg calref : BitVec 16) (s : State) : R :=
  if s.bit pCAL CAL.CAL_STAT.REF_BUSY then
    let s := (s.wr (pCAL + CAL.REF_MEAS) (BitVec.ofNat 32 (bg.toNat * 2 ^ 16 + calref.toNat))).setFld pCAL CAL.CAL_STAT.REF_BUSY 0
    .next (s.when (s.fld pCAL CAL.CAL_CTRL.REF_MODE == 1) fun s => s.fieldTrim bg calref)
  else .next s

end Sys2Proof.Machine
end

