-- ==== Sys2Proof/Machine/Time.lean ====
section
/-! DEFINITION. The time island (R324 to R351): the counter and its steering, quality, stamps, PPS, the time-of-day UART, and
the wake addition. A step on an empty queue is one tick of the 625 MHz clock. -/

namespace Sys2Proof.Machine

/-! ## The counter (R324 to R326) -/

/-- The increment in force, Q8.32 ns (R325). -/
def State.incr (s : State) : Nat := s.fld pTIME TIME.INCR_INT.INT * 2 ^ 32 + (s.rd (pTIME + TIME.INCR_FRAC)).toNat

/-- Show an increment as the one in force (R325). -/
def State.setIncr (s : State) (v : Nat) : State :=
  (s.setFld pTIME TIME.INCR_INT.INT (v / 2 ^ 32)).wr (pTIME + TIME.INCR_FRAC) (BitVec.ofNat 32 v)

/-- 1.5992 ns and 1.6008 ns as Q8.32 codes, rounded into the band (R325). -/
def incrLo : Nat := 6868511700
def incrHi : Nat := 6875383647

/-- Set the counter to a value reached from `v0` by addition: carries and borrows out of NOW_NS raise WRAP, out of WRAPS
WRAPS_OVF (R324, R326). -/
def State.moveTo (s : State) (v0 : Nat) (v : Int) : State :=
  let s := { s with time := { s.time with now := (v % (2 ^ 80 : Nat)).toNat } }
  let s := s.when (v / (2 ^ 64 : Nat) != ((v0 / 2 ^ 64 : Nat) : Int)) (fun s => s.raise TIME.evWRAP 0)
  s.when (v / (2 ^ 80 : Nat) != 0) (fun s => s.raise TIME.evWRAPS_OVF 0)

/-- The value PPS_NEXT names (R341). -/
def State.ppsNext (s : State) : Nat :=
  s.fld pTIME TIME.PPS_NEXT_WRAPS.V * 2 ^ 64 + (s.rd (pTIME + TIME.PPS_NEXT_NS)).toNat * 2 ^ 32

/-- The PPS_OUT edge `t` ticks from now (R341): the output goes high for PPS_WIDTH µs (0 acts as 1, R349) and PPS_NEXT advances by PPS_PERIOD. The
time-of-day UART may send after it (R343). -/
def State.ppsEdge (s : State) (t : Nat) : State :=
  let n := (s.rd (pTIME + TIME.PPS_NEXT_NS)).toNat + (s.rd (pTIME + TIME.PPS_PERIOD)).toNat
  let s := s.wr (pTIME + TIME.PPS_NEXT_NS) (BitVec.ofNat 32 n)
  let s := (s.addWrap pTIME TIME.PPS_NEXT_WRAPS.V (n / 2 ^ 32)).setClock clkTod (s.tick + t)
  { s with time := { s.time with ppsOut := true, ppsEnd := s.tick + t + 625 * max 1 (s.fld pTIME TIME.PPS_WIDTH.US), todArm := true } }

/-- The PPS_OUT pulse ends once its width has passed. -/
def State.ppsFall (s : State) : State := { s with time := { s.time with ppsOut := s.time.ppsOut && decide (s.tick < s.time.ppsEnd) } }

/-- PPS_OUT is enabled and armed. -/
def State.ppsReady (s : State) : Bool :=
  s.bit pTIME TIME.TM_CTRL.PPS_OUT_EN && s.bit pTIME TIME.TM_STAT.PPS_ARMED && s.time.running

/-- The steering actions of a tick, in the order written, on the value after the tick's addition (R326): a SET stands in place of
the addition and of what came before it. Answers the base from which carries count, and the value. -/
def steer : List TickOp → Nat → Int → Nat × Int
  | [], b, v => (b, v)
  | .set w n :: t, _, _ => steer t (w * 2 ^ 64 + n * 2 ^ 32) (w * 2 ^ 64 + n * 2 ^ 32 : Nat)
  | .step d :: t, b, v => steer t b (v + d)
  | .incr _ :: t, b, v => steer t b v

/-- The increment that a tick's actions bring into force (R325). -/
def newIncr : List TickOp → Nat → Nat
  | [], i => i
  | .incr x :: t, _ => newIncr t x
  | _ :: t, i => newIncr t i

/-- One tick of the time counter (R324 to R326, R341). -/
def State.countTick (s : State) : State :=
  if s.time.running then
    let i := newIncr s.time.ops s.incr
    let (b, v) := steer s.time.ops s.time.now (s.time.now + i : Nat)
    let s := { s with time := { s.time with ops := [], tell := s.time.tell || !s.time.ops.isEmpty } }
    let s := s.when (i != s.incr) (fun s => s.setIncr i)
    let cross := s.ppsReady && decide (b < s.ppsNext) && decide ((s.ppsNext : Int) ≤ v)
    let s := s.moveTo b v
    s.when cross (fun s => s.ppsEdge 1)
  else s

/-- One tick of the device: the true-order tick and the time counter. -/
def State.oneTick (s : State) : State := ({ s.countTick with tick := s.tick + 1 }).ppsFall

/-- The PPS_OUT edges among `k` ticks from a counter value on, of which `t` have passed (R341). PPS_NEXT is reached by the counter modulo 2^80; the first
argument bounds the edges. -/
def ppsEdges (v0 i k : Nat) : Nat → Nat → State → State
  | 0, _, s => s
  | f + 1, t, s =>
    let c := v0 + t * i
    let reach := c + 1 + (s.ppsNext + 2 ^ 80 - (c + 1) % 2 ^ 80) % 2 ^ 80
    let e := (reach - v0 + i - 1) / i
    if s.ppsReady && decide (e ≤ k) then ppsEdges v0 i k f e (s.ppsEdge e) else s

/-- `k` ticks without steering. -/
def State.runTicks (s : State) (k : Nat) : State :=
  let s := if s.time.running then
      let v := s.time.now
      let i := s.incr
      (ppsEdges v i k k 0 s).moveTo v (v + k * i : Nat)
    else s
  ({ s with tick := s.tick + k }).ppsFall

/-- `k` ticks, of which the first applies pending steering. -/
def State.runOn (s : State) (k : Nat) : State := if k = 0 then s else s.oneTick.runTicks (k - 1)

/-- Time runs to the tick at which `d` ticks of a timer's interval have passed; not at all where they have (log entry 103). -/
def State.elapse (s : State) (k d : Nat) : State := s.runOn (s.clockOf k + d - s.tick)

/-- Time runs to the end of an interval of `d` ticks of a timer that repeats, and its next interval begins there. -/
def State.period (s : State) (k d : Nat) : State := (s.elapse k d).setClock k (s.clockOf k + d)

/-- Ticks until a counter that advances by `i` has gained `d`. -/
def ticksFor (d i : Nat) : Nat := (d + i - 1) / i

/-- TIME_WRAP (R324): time runs to the tick at which NOW_NS carries out. The tick that applies pending steering comes first. -/
def execTimeWrap (s : State) : R :=
  if s.time.running then
    let w0 := s.time.now / 2 ^ 64
    let s := s.oneTick
    if s.time.now / 2 ^ 64 ≠ w0 then .next s
    else .next (s.runTicks (ticksFor (2 ^ 64 - s.time.now % 2 ^ 64) s.incr))
  else .next s

/-- The slave's counter is steered over the cascade link (R344). -/
def State.cascTimed (s : State) : Bool := s.slave

/-- A write of INCR_FRAC (R325): it waits for INCR_INT; the register shows the fraction in force. -/
def effIncrFrac (v : Word) (s : State) : Out := .ok { s with time := { s.time with fracW := v } }

/-- A write of INCR_INT (R325): clamped to 1.6 ns ± 500 ppm, applied at the next tick. Refused on a slave (R344). -/
def effIncrInt (v : Word) (s : State) : Out :=
  if s.cascTimed then .err 8 s
  else
    let x := v.toNat % 256 * 2 ^ 32 + s.time.fracW.toNat
    let y := max incrLo (min x incrHi)
    let s := s.when (x != y) (fun s => (s.setFld pTIME TIME.TM_FLAGS.CLAMP 1).raise TIME.evCLAMP 0)
    .ok { s with time := { s.time with ops := s.time.ops ++ [.incr y] } }

/-- INCR_APPLY (R325): a write of INCR_INT. -/
def execIncrApply (r : Requester) (v : BitVec 8) (s : State) : R :=
  txn r (pTIME + TIME.INCR_INT) (v.setWidth 32) (effIncrInt (v.setWidth 32)) s

/-! ## Quality (R329, R330) -/

/-- TM_STAT.QUALITY. -/
def State.quality (s : State) : Nat := s.fld pTIME TIME.TM_STAT.QUALITY

/-- Set QUALITY; HOLDOVER is 1 exactly while it is 4 (R329). -/
def State.setQuality (s : State) (q : Nat) : State :=
  (s.setFld pTIME TIME.TM_STAT.QUALITY q).setFld pTIME TIME.TM_STAT.HOLDOVER (if q = 4 then 1 else 0)

/-- While LOCKED, enter HOLDOVER and raise HOLDOVER_ON (R330). -/
def State.toHoldover (s : State) : State :=
  if s.quality = 3 then (s.setQuality 4).raise TIME.evHOLDOVER_ON 0 else s

/-- TM_CMD (R326, R329, R330, R344, R350): SET, then STEP, then SYNCED, then the quality write. -/
def effTmCmd (v : Word) (s : State) : Out :=
  let q := getBits v 4 3
  if v.getLsbD 7 && decide (6 ≤ q) then hostError [pTIME] s
  else if s.cascTimed && (v.getLsbD 0 || v.getLsbD 1 || v.getLsbD 7) then .err 8 s
  else
    let s := s.when (v.getLsbD 0) fun s =>
      let op := TickOp.set (s.fld pTIME TIME.SET_WRAPS.V) (s.rd (pTIME + TIME.SET_NS)).toNat
      let s := { s with time := { s.time with ops := s.time.ops ++ [op] } }
      let s := s.when (s.quality == 0) (fun s => s.setQuality 1)
      s.setFld pTIME TIME.TM_STAT.PPS_ARMED 0
    let s := s.when (v.getLsbD 1) fun s =>
      let d := (s.rd (pTIME + TIME.STEP_NS)).toInt * 2 ^ 32 + (s.rd (pTIME + TIME.STEP_FRAC)).toNat
      let s := { s with time := { s.time with ops := s.time.ops ++ [TickOp.step d] } }
      s.setFld pTIME TIME.TM_STAT.PPS_ARMED 0
    let s := s.when (v.getLsbD 2) fun s =>
      let h := s.quality == 4
      let s := { s with time := { s.time with holdAt := s.tick } }
      (s.setQuality 3).when h (fun s => s.raise TIME.evHOLDOVER_OFF 0)
    .ok (s.when (v.getLsbD 7) (fun s => s.setQuality q))

/-- TIME_SET (R326): a write of TM_CMD.SET. -/
def execTimeSet (r : Requester) (s : State) : R := txn r (pTIME + TIME.TM_CMD) 0x1 (effTmCmd 0x1) s
/-- TIME_STEP (R326): a write of TM_CMD.STEP. -/
def execTimeStep (r : Requester) (s : State) : R := txn r (pTIME + TIME.TM_CMD) 0x2 (effTmCmd 0x2) s
/-- TIME_SYNCED (R330): a write of TM_CMD.SYNCED. -/
def execTimeSynced (r : Requester) (s : State) : R := txn r (pTIME + TIME.TM_CMD) 0x4 (effTmCmd 0x4) s
/-- QUALITY_WRITE (R329): a write of TM_CMD with QUAL_WR. -/
def execQualityWrite (r : Requester) (q : Fin 8) (s : State) : R :=
  let v : Word := BitVec.ofNat 32 (0x80 + 16 * q.val)
  txn r (pTIME + TIME.TM_CMD) v (effTmCmd v) s

/-- HOLDOVER_TIMEOUT (R330): time runs to the tick at which HOLD_TMO ms (0 acts as 1, R349) have passed since the last SYNCED. -/
def execHoldoverTimeout (s : State) : R :=
  if s.quality = 3 then
    .next (s.runOn (s.time.holdAt + 625000 * max 1 (s.fld pTIME TIME.HOLD_TMO.MS) - s.tick)).toHoldover
  else .next s

/-- A write of TM_CTRL (R330, R344): it writes SOURCE and SRC_LANE, so that LOCKED becomes HOLDOVER, whatever the values. The watch for a lost PPS_IN
begins as PPS_IN_EN becomes 1. -/
def effTmCtrl (v : Word) (s : State) : Out :=
  let off := !s.bit pTIME TIME.TM_CTRL.PPS_IN_EN
  let s := s.wr (pTIME + TIME.TM_CTRL) v
  .ok (s.when (off && s.bit pTIME TIME.TM_CTRL.PPS_IN_EN) (fun s => s.startClock clkPpsIn)).toHoldover

/-- TIME_SOURCE_WRITE (R330): a write of TM_CTRL. -/
def execTimeSourceWrite (r : Requester) (v : Word) (s : State) : R := txn r (pTIME + TIME.TM_CTRL) v (effTmCtrl v) s

/-- The source of TM_CTRL.SOURCE is lost (R330). -/
def State.sourceLost (s : State) (source : Nat) : State :=
  s.when (s.fld pTIME TIME.TM_CTRL.SOURCE == source || (source == 3 && s.cascTimed)) State.toHoldover

/-! ## Stamps (R332 to R334) -/

/-- The counter plus a correction in units of 2^-32 ns: the instant a stamp names. -/
def State.stamp (s : State) (c : Int) : Nat := (((s.time.now : Int) + c) % (2 ^ 80 : Nat)).toNat

/-- Tenths of a nanosecond in units of 2^-32 ns. -/
def tenths (t : Int) : Int := t * 2 ^ 32 / 10

/-- The ns field of a stamp. -/
def stampNs (t : Nat) : Word := BitVec.ofNat 32 (t / 2 ^ 32)
/-- The 8-bit fraction of a stamp. -/
def stampFrac (t : Nat) : Nat := t / 2 ^ 24 % 256
/-- The WRAPS of a stamp. -/
def stampWraps (t : Nat) : Nat := t / 2 ^ 64 % 2 ^ 16
/-- A stamp's HI word: bit 31 set, fraction, WRAPS (R349). -/
def stampHi (t : Nat) : Word := BitVec.ofNat 32 (2 ^ 31 + stampFrac t * 2 ^ 16 + stampWraps t)

/-! ## PPS (R341, R342) -/

/-- A write of PPS_NEXT_WRAPS arms PPS_OUT (R341). -/
def effPpsArm (v : Word) (s : State) : Out :=
  .ok ((s.wr (pTIME + TIME.PPS_NEXT_WRAPS) v).setFld pTIME TIME.TM_STAT.PPS_ARMED 1)

/-- PPS_ARM (R341). -/
def execPpsArm (r : Requester) (v : BitVec 16) (s : State) : R :=
  txn r (pTIME + TIME.PPS_NEXT_WRAPS) (v.setWidth 32) (effPpsArm (v.setWidth 32)) s

/-- PPS_OUT_EDGE (R341): time runs to the tick at which the counter reaches PPS_NEXT. The tick that applies pending steering comes first. -/
def execPpsOutEdge (s : State) : R :=
  let to1 (s : State) : State :=
    let c := s.time.now + 1
    s.runTicks (ticksFor (1 + (s.ppsNext + 2 ^ 80 - c % 2 ^ 80) % 2 ^ 80) s.incr)
  if s.ppsReady then
    if s.time.ops = [] then .next (to1 s)
    else
      let t := s.oneTick
      .next (if t.time.ppsEnd = s.time.ppsEnd then to1 t else t)
  else .next s

/-- PPS_OUT_PULSE_END (R341): time runs to the tick at which PPS_WIDTH µs have passed since the edge. -/
def execPpsOutPulseEnd (s : State) : R := if s.time.ppsOut then .next (s.runOn (s.time.ppsEnd - s.tick)).ppsFall else .next s

/-- PPS_IN_EDGE (R342): a rising edge is stamped while PPS_IN_EN is 1 and the counter runs; it
is wake source 4 (R480). -/
def execPpsInEdge (s : State) : R :=
  let s := (s.wake 4).startClock clkPpsIn
  if s.bit pTIME TIME.TM_CTRL.PPS_IN_EN && s.time.running then
    let t := s.stamp 0
    let s := s.wr (pTIME + TIME.PPS_IN_NS) (stampNs t)
    let s := s.wr (pTIME + TIME.PPS_IN_HI) (stampHi t)
    .next (s.raise TIME.evPPS_IN 0)
  else .next s

/-- PPS_IN_LOST (R330, R351): time runs to 1.5 s without an edge while PPS_IN_EN is 1; the next 1.5 s begin there (log entry 103). -/
def execPpsInLost (s : State) : R :=
  if s.bit pTIME TIME.TM_CTRL.PPS_IN_EN then
    .next (((s.period clkPpsIn 937500000).sourceLost 2).raise TIME.evPPS_IN_LOST 0)
  else .next s

/-- A read of PPS_IN_HI (R349): it clears NEW. -/
def State.ppsInHi (s : State) : Word × State :=
  let w := s.rd (pTIME + TIME.PPS_IN_HI)
  (w, s.wr (pTIME + TIME.PPS_IN_HI) (w &&& 0x7FFFFFFF))

/-- PPS_IN_HI_READ (R349). -/
def execPpsInHiRead (r : Requester) (s : State) : R := readTxn r (pTIME + TIME.PPS_IN_HI) State.ppsInHi s

/-! ## The time-of-day UART (R343) -/

/-- A byte dropped at a full FIFO (R343). -/
def State.todOvr (s : State) : State := s.setFld pTIME TIME.TM_FLAGS.TOD_OVR 1

/-- A write of TOD_TX (R343). -/
def effTodTx (v : Word) (s : State) : Out :=
  if s.time.todTx.length < 64 then
    .ok { s with time := { s.time with todTx := s.time.todTx ++ [v.setWidth 8] } }
  else .ok s.todOvr

/-- TOD_TX_WRITE (R343). -/
def execTodTxWrite (r : Requester) (b : Byte) (s : State) : R :=
  txn r (pTIME + TIME.TOD_TX) (b.setWidth 32) (effTodTx (b.setWidth 32)) s

/-- TOD_TX_DELAY_EXPIRY (R343): time runs to TOD_CFG.TX_DELAY ms after the latest PPS_OUT edge, and the UART empties its transmit FIFO. -/
def execTodTxDelayExpiry (s : State) : R :=
  if s.time.todArm then
    let s := s.elapse clkTod (625000 * s.fld pTIME TIME.TOD_CFG.TX_DELAY)
    .next { s with time := { s.time with todSent := s.time.todTx, todTx := [], todArm := false } }
  else .next s

/-- TOD_RX_BYTE (R343): a byte enters the receive FIFO, or is dropped. -/
def execTodRxByte (b : Byte) (s : State) : R :=
  if s.time.todRx.length < 64 then
    let e := s.time.todRx.isEmpty
    let s := { s with time := { s.time with todRx := s.time.todRx ++ [b] } }
    .next (s.when e (fun s => s.raise TIME.evTOD_RX 0))
  else .next s.todOvr

/-- What a read of TOD_RX returns (R349). -/
def State.todRxWord (s : State) : Word :=
  match s.time.todRx with
  | b :: _ => 0x100 ||| b.setWidth 32
  | [] => 0

/-- A read of TOD_RX (R349): the oldest byte, removed. -/
def State.todRxPop (s : State) : Word × State := (s.todRxWord, { s with time := { s.time with todRx := s.time.todRx.tail } })

/-- TOD_RX_POP (R349). -/
def execTodRxPop (r : Requester) (s : State) : R := readTxn r (pTIME + TIME.TOD_RX) State.todRxPop s

/-! ## The exchange between link partners (R335, R336) -/

/-- The exchange of lane `n`. -/
def State.tt (s : State) (n : Nat) : TtSt := Tbl.get TtSt.init s.time.tt n

/-- Change the exchange of lane `n`. -/
def State.modTt (s : State) (n : Nat) (f : TtSt → TtSt) : State :=
  { s with time := { s.time with tt := Tbl.put (some TtSt.init) s.time.tt n (f (s.tt n)) } }

/-- A correction register of R349 (LSB 0.1 ns), in units of 2^-32 ns. -/
def State.corr (s : State) (off : Nat) : Int := tenths (sx 20 (s.rd (pTIME + off)).toNat)

/-- The transmit skew of a lane, (SKEW_C + SKEW_F / 64) symbol periods as they stand (R96, R97, R333), in units of 2^-32 ns. -/
def State.skewNs (s : State) (n : Nat) : Int :=
  let sixtyFourths := 64 * (s.ltxSt n).skewC + (s.ltxSt n).skew
  ((sixtyFourths * (if s.m400 then 1000 else 2000) * 2 ^ 32) / (64 * 226875) : Nat)

/-- TT_CTRL.LANE_EN of lane `n`. -/
def State.ttOn (s : State) (n : Nat) : Bool := (s.rd (pTIME + TIME.TT_CTRL)).getLsbD n && s.m400

/-- A cell has been sent on lane `n`: the cells of an enabled lane count toward its next request (R335). -/
def State.ttCount (s : State) (n : Nat) : State := s.modTt n fun t => { t with cells := if s.ttOn n then t.cells + 1 else 0 }

/-- TT_REQUEST_TIMER (R335): a TT_A slot is asked for on an enabled lane once 16 × 2^TT_INT cells have passed. -/
def execTtRequestTimer (n : Fin 8) (s : State) : R :=
  if s.ttOn n.val ∧ 16 * 2 ^ getBits (s.rd (pTIME + TIME.TT_CTRL)) 16 4 ≤ (s.tt n.val).cells then
    .next (s.modTt n.val fun t => { t with want := true, cells := 0 })
  else .next s

/-- The exchange of a lane that awaits its TT_B ends TT_TIMEOUT (R336). -/
def State.ttEnd (s : State) (n : Nat) : State :=
  if (s.tt n).awaiting then (s.modTt n fun t => { t with awaiting := false }).raise TIME.evTT_TIMEOUT 0 else s

/-- TT_TIMEOUT (R336): time runs to PART[n].PC_CTRL.RSP_TMO × 100 µs (0 acts as 1) since the TT_A was sent, without a TT_B. -/
def execTtTimeout (n : Fin 8) (s : State) : R :=
  if (s.tt n.val).awaiting then
    .next ((s.elapse (clkTt n.val) (62500 * max 1 (s.fld (pPART n.val) PART.PC_CTRL.RSP_TMO))).ttEnd n.val)
  else .next s

/-- A read of TT_INFO[n] (R349): it clears NEW. -/
def State.ttInfo (s : State) (n : Nat) : Word × State :=
  let a := pTIME + TIME.TT_INFO + 32 * n
  let w := s.rd a
  (w, s.wr a (w &&& 0x7FFFFFFF))

/-- TT_INFO_READ (R349). -/
def execTtInfoRead (r : Requester) (n : Fin 8) (s : State) : R :=
  readTxn r (pTIME + TIME.TT_INFO + 32 * n.val) (fun s => s.ttInfo n.val) s

/-! ## Clock-stop intervals (R345, R346) -/

/-- The time clock stops, or REFCLK goes while it stands (R345, R347): a clock-stop interval begins, unless the clock has not run yet; it is
counted on the ring oscillator while REFCLK is absent, and exchanges in progress time out. -/
def State.stopTime (s : State) : State :=
  if s.time.running then
    let s := s.each (List.range 8) State.ttEnd
    { s with time := { s.time with running := false, asleep := true, sleep := 0, ring := !s.refOk, ppsOut := false } }.startClock clkSleep
  else { s with time := { s.time with ring := s.time.ring || (s.time.asleep && !s.refOk) } }

/-- The count of the sleep counter: REFCLK cycles of four ticks, within 500 ppm where any part was counted on the ring oscillator (R345, R346). -/
def State.sleepCount (s : State) : Nat × State :=
  let n := (s.tick - s.clockOf clkSleep) / 4
  if s.time.ring then
    let (f, s) := s.fresh
    (n - n / 2000 + f % (2 * (n / 2000) + 1), s)
  else (n, s)

/-- TIME_WAKE_ADDITION (R345, R346): the first tick after a clock-stop interval, outside DUSK and NIGHT with REFCLK present. -/
def execTimeWakeAddition (s : State) : R :=
  if s.time.asleep && s.refOk && !(s.fld pPWR PWR.PWR_STAT.STATE == 2 || s.fld pPWR PWR.PWR_STAT.STATE == 3) then
    let cap := 2 ^ 48 - 1
    let (n, s) := s.sleepCount
    let ring := s.time.ring
    let k := min n cap
    let v := s.time.now + 4 * k * s.incr
    let s := { s with time := { s.time with running := true, asleep := false, sleep := k } }
    let s := s.setFld pTIME TIME.TM_STAT.PPS_ARMED 0
    let s := s.moveTo s.time.now v
    let s := s.setFld pTIME TIME.TM_STAT.SLEEP_WRAPS (v / 2 ^ 80)
    let s := if ring then s.setQuality 5 else s.when (s.quality == 3) (fun s => s.setQuality 4)
    let s := s.when (decide (cap ≤ n)) (fun s => (s.setFld pTIME TIME.TM_FLAGS.SLEEP_SAT 1).setQuality 0)
    .next ((s.setFld pTIME TIME.TM_FLAGS.SLEPT 1).raise TIME.evSLEPT 0)
  else .next s

/-- The latch of the TIME page (R327, R332): the counter, the sleep count, and the stamps with their marker counts. -/
def State.latchTime (s : State) : State :=
  let s := s.wr (pTIME + TIME.NOW_NS) (stampNs s.time.now)
  let s := s.setFld pTIME TIME.WRAPS.V (stampWraps s.time.now)
  let s := s.wr (pTIME + TIME.NOW_FRAC) (BitVec.ofNat 32 s.time.now)
  let s := s.wr (pTIME + TIME.SLEEP_LO) (BitVec.ofNat 32 s.time.sleep)
  let s := s.setFld pTIME TIME.SLEEP_HI.V (s.time.sleep / 2 ^ 32)
  ((List.range 32).map (fun i => pTIME + TIME.TS_TX_NS + 4 * i) ++ (List.range 16).map (fun i => pTIME + TIME.AMC_TX + 4 * i)).foldl
    (fun s a => { s with latched := Tbl.insert s.latched a (s.rd a) }) s

end Sys2Proof.Machine
end

