-- ==== Sys2Proof/Machine/FecBase.lean ====
section
/-! DEFINITION. The statistics of the IFEC and OFEC pages: live counters, wrap flags, latches and clearing (R177, R180 to R182). -/

namespace Sys2Proof.Machine

/-- Add to a live counter of a width; a wrap sets `flag` among the live wrap bits kept at `flags` (R182). -/
def State.bump (s : State) (a width n flags flag : Nat) : State :=
  let v := s.lv a + n
  let s := s.setLv a (v % 2 ^ width)
  s.when (decide (2 ^ width ≤ v)) (fun s => s.setLv flags (s.lv flags ||| flag))

/-- Add to a live 32-bit counter that saturates. -/
def State.bumpSat (s : State) (a n : Nat) : State := s.setLv a (min (s.lv a + n) (2 ^ 32 - 1))

/-- Copy a live 32-bit value to its register. -/
def State.show32 (s : State) (a : Nat) : State := s.wr a (BitVec.ofNat 32 (s.lv a))

/-- Copy a live value wider than 32 bits to its LO and HI registers. -/
def State.show64 (s : State) (a : Nat) : State :=
  (s.wr a (BitVec.ofNat 32 (s.lv a))).wr (a + 4) (BitVec.ofNat 32 (s.lv a / 2 ^ 32))

/-- The latch's last part: SNAP_FRAME, the wrap flags with WRAPPED where one sets, SNAP_PEND, and the restart of the live counters
with CLR_ON_SNAP at 1 (R180 to R182). -/
def State.latchEnd (s : State) (b snapFrame statFlags frame : Nat) (pend clr : Fld) (wrapped : Ev) (inst : Nat)
    (live : List Nat) : State :=
  let s := s.wr (b + snapFrame) (BitVec.ofNat 32 frame)
  let w := s.lv (b + statFlags)
  let s := s.when (w != 0) fun s =>
    ((s.wr (b + statFlags) (s.rd (b + statFlags) ||| BitVec.ofNat 32 w)).setLv (b + statFlags) 0).raise wrapped inst
  let s := (s.setFld b pend 0).setFld b HDR.SNAP_PEND 0
  s.when (s.bit b clr) (fun s => live.foldl (fun s o => s.setLv (b + o) 0) s)

/-! ## IFEC -/

/-- The 48- and 64-bit statistics of an IFEC page. -/
def ifecWide : List Nat := [IFEC.BITS_LO, IFEC.CORR_LO, IFEC.CW_LO, IFEC.NCONV_LO, IFEC.RS_SYM_LO]
/-- The 32-bit counters of an IFEC page. -/
def ifecNarrow : List Nat :=
  [IFEC.HDR_ERR, IFEC.FLOCK_LOSS] ++ (List.range 16).map (fun i => IFEC.SYMPOS + 4 * i) ++ (List.range 7).map (fun i => IFEC.CONV + 4 * i)
/-- The level statistics of an IFEC page. -/
def ifecLvl : List Nat := (List.range 4).map (fun i => IFEC.LVL + 4 * i)

/-- The latch of IFEC[n] (R180). -/
def State.latchIfec (s : State) (n : Nat) : State :=
  let b := pIFEC n
  let s := ifecWide.foldl (fun s o => s.show64 (b + o)) s
  let s := (ifecNarrow ++ ifecLvl).foldl (fun s o => s.show32 (b + o)) s
  s.latchEnd b IFEC.SNAP_FRAME IFEC.STAT_FLAGS (s.rd (pLRX n + LRX.FRAME_CNT)).toNat IFEC.IF_STAT.SNAP_PEND IFEC.IF_CTRL.CLR_ON_SNAP
    IFEC.evWRAPPED n (ifecWide ++ ifecNarrow)

/-- All statistics of IFEC[n], live and latched, clear (R181). -/
def State.clearIfec (s : State) (n : Nat) : State :=
  (List.range 41).foldl (fun s i => (s.wr (pIFEC n + IFEC.SNAP_FRAME + 4 * i) 0).setLv (pIFEC n + IFEC.SNAP_FRAME + 4 * i) 0) s

/-- A write of IFEC[n].SNAP (R180): latched at the lane's next commit point, or within 1 µs where the lane does not run. -/
def State.snapIfec (s : State) (n : Nat) : State :=
  (s.setFld (pIFEC n) IFEC.IF_STAT.SNAP_PEND 1).setFld (pIFEC n) HDR.SNAP_PEND 1

/-! ## OFEC -/

/-- The 48-bit counters of an OFEC page. -/
def ofecWide : List Nat :=
  [OFEC.CW_TOTAL_LO, OFEC.SYM_CORR_LO, OFEC.BIT_CORR_LO, OFEC.UNCORR_LO, OFEC.TX_SYM_LO] ++ (List.range 16).map (fun i => OFEC.HIST_LO + 8 * i)
/-- The time stamps of an OFEC page (R179): TS_FIRST and TS_LAST, nanoseconds and, in the upper half, the HI word. -/
def ofecStamps : List Nat := [OFEC.TSF_NS, OFEC.TSL_NS]

/-- The latch of OFEC[p] (R180). -/
def State.latchOfec (s : State) (p : Nat) : State :=
  let b := pOFEC p
  let s := (ofecWide ++ ofecStamps).foldl (fun s o => s.show64 (b + o)) s
  let s := s.show32 (b + OFEC.TX_UNCORR)
  s.latchEnd b OFEC.SNAP_FRAME OFEC.STAT_FLAGS (s.portSt p).frames OFEC.OF_STAT.SNAP_PEND OFEC.OF_CTRL.CLR_ON_SNAP
    OFEC.evWRAPPED p (ofecWide ++ [OFEC.TX_UNCORR, OFEC.TSF_NS])

/-- All statistics of OFEC[p], live and latched, clear (R181). -/
def State.clearOfec (s : State) (p : Nat) : State :=
  ((List.range 46).map (fun i => OFEC.SNAP_FRAME + 4 * i) ++ [OFEC.TX_UNCORR, OFEC.TX_SYM_LO, OFEC.TX_SYM_HI]).foldl
    (fun s o => (s.wr (pOFEC p + o) 0).setLv (pOFEC p + o) 0) s

/-- A write of OFEC[p].SNAP (R180). -/
def State.snapOfec (s : State) (p : Nat) : State :=
  (s.setFld (pOFEC p) OFEC.OF_STAT.SNAP_PEND 1).setFld (pOFEC p) HDR.SNAP_PEND 1

/-- A write of an IFEC or OFEC page's STAT_FLAGS: 1 clears (R182). -/
def effStatFlags (a : Nat) (v : Word) (s : State) : Out := effW1c a v s

/-- RX_CW_LOCK or TX_CW_LOCK takes a value; a clearing on an enabled port raises CW_LOCK_LOSS (R175, R194). -/
def State.cwLock (s : State) (p : Nat) (f : Fld) (on : Bool) : State :=
  let lost := s.bit (pOFEC p) f && !on && s.portOn p
  (s.setFld (pOFEC p) f (if on then 1 else 0)).when lost (fun s => s.raise OFEC.evCW_LOCK_LOSS p)

end Sys2Proof.Machine
end

