-- ==== Sys2Proof/Machine/LinkBase.lean ====
section
/-! DEFINITION. What the line lanes set off in their partner and dawn channels: check values (R624), the start and stop of cells (R283, R315),
and the dawn transmitter (R301 to R303, R313). -/

namespace Sys2Proof.Machine

/-! ## Check values (R624) -/

/-- The check computation of R624 over the low `n` bits of `v`, most significant first: width, polynomial, register. -/
def crcBits (w poly : Nat) : Nat → Nat → Nat → Nat
  | 0, _, r => r
  | n + 1, v, r =>
    let top := r / 2 ^ (w - 1) % 2 ^^^ v / 2 ^ n % 2
    crcBits w poly n v ((r * 2 % 2 ^ w) ^^^ (if top = 1 then poly else 0))

/-- CRC-16 with polynomial x^16 + x^12 + x^5 + 1 and initial value 0xFFFF (R161). -/
def crc16 (n v : Nat) : Nat := crcBits 16 0x1021 n v 0xFFFF

/-- CRC-8 with polynomial x^8 + x^2 + x + 1 and initial value 0xFF (R302). -/
def crc8 (n v : Nat) : Nat := crcBits 8 0x07 n v 0xFF

/-- Bytes as one number, the first most significant. -/
def beNat (l : List Byte) : Nat := l.foldl (fun v b => v * 256 + b.toNat) 0

/-- A number as `n` bytes, most significant first. -/
def beBytes (n v : Nat) : List Byte := ((List.range n).map (fun i => BitVec.ofNat 8 (v / 256 ^ i))).reverse

/-- How many bits of a number's low `n` are 1. -/
def ones : Nat → Nat → Nat
  | 0, _ => 0
  | n + 1, v => v % 2 + ones n (v / 2)

/-! ## Start and stop of a lane's cells (R283, R286, R315) -/

/-- Cells are assembled from lane `n` (R285): PC_STAT.RX_ALIGNED. -/
def State.aligned (s : State) (n : Nat) : Bool := s.m400 && s.fld (pIFEC n) IFEC.IF_STAT.FSTATE == 3

/-- Cells are being sent on lane `n`, as part of the encoder's output: PC_STAT.TX_ON (R104, R165). -/
def State.cellsOn (s : State) (n : Nat) : Bool := s.m400 && s.fld (pLTX n) LTX.TX_STAT.STATE == 3 && (s.ltxSt n).pat == 0

/-- The next header of a lane in frame lock reaches the assembly at a value of the time counter: its FRAME and PCH bits, or none where its CRC failed
(R163, R283, R285). -/
def Assembly.header (a : Assembly) (now : Nat) (h : Option (Nat × Nat)) : Assembly :=
  let pos := match h with | some (f, _) => some (f % 32) | none => a.pos
  match pos with
  | none => a
  | some p =>
    let st := if p = 0 then (if h.isSome then 1 else 2) else if a.st = 0 then 0 else if h.isSome && a.pos == pos then a.st else 2
    let bits := (if p = 0 then 0 else a.bits) * 16 + (match h with | some (_, v) => v | none => 0)
    let began := if p = 0 then now else a.began
    if p < 31 then { a with pos := some (p + 1), st := st, bits := bits, began := began }
    else { pos := some 0, st := 0, bits := 0, began := 0, done := if st = 0 then none else if st = 1 then some (some bits) else some none,
           doneAt := began }

/-- Lane `n` enters ACTIVE: SEQ starts at 0 (R286). -/
def State.partStart (s : State) (n : Nat) : State :=
  s.modPart n fun x => { x with txSeq := 0, identAge := none, qreq := none, window := none, replies := [], leaving := none, slot := none }

/-- Lane `n` leaves ACTIVE (R315): what waits to be answered cannot be, and a quiet window granted on it ends. -/
def State.partStop (s : State) (n : Nat) : State :=
  let s := s.modPart n fun x => { x with rsp := [], qreq := none, window := none, replies := [], leaving := none }
  (s.modLtx n fun t => { t with rem := none }).setFld pCAL (uf (8 + n) CAL.U_STAT.QUIET_OPEN) 0

/-! ## The dawn transmitter -/

/-- The line lane is in BEACON or ACTIVE, and the other conditions of R301 hold. -/
def State.dawnMay (s : State) (n : Nat) : Bool :=
  s.bit (pDAWN n) DAWN.DW_CTRL.TX_EN && s.fstate (pDAWN n) != 0 && decide (2 ≤ s.fld (pLTX n) LTX.TX_STAT.STATE)
    && getBits (s.inf (pLTX n + LTX.AMP_CTRL)) 8 5 != 0
    && (s.m400 || (s.portOfLine n).isNone || s.bit (pDAWN n) DAWN.DW_CTRL.M200_EN)

/-- The bytes of a dawn packet from TYPE to its CRC (R302, R303). -/
def dawnBytes (type len seq : Nat) (payload : List Byte) : List Byte :=
  let head := [BitVec.ofNat 8 type, BitVec.ofNat 8 len, BitVec.ofNat 8 seq] ++ beBytes 8 Config.devId.toNat
  let body := head ++ [BitVec.ofNat 8 (crc8 88 (beNat head))] ++ payload
  body ++ beBytes 2 (crc16 (8 * body.length) (beNat body))

/-- The preamble and the sync word that go before TYPE (R302). -/
def dawnLead : List Byte := List.replicate 4 0xFF ++ beBytes 4 0x6D3A0E5B

/-- A packet begins to be sent: it takes the next SEQ, or the previous packet's again (R303; DEDUCED, log entry 21). -/
def State.dawnBegin (s : State) (n : Nat) (p : DawnTx) : State :=
  let b := pDAWN n
  let seq := if p.again then getBits (s.rd (b + DAWN.TX_STAT)) 8 8 else (s.dawnSt n).seq
  let s := s.modDawn n fun x => { x with tx := some { p with sending := true }, seq := if p.again then x.seq else (x.seq + 1) % 256,
                                         sent := dawnLead ++ dawnBytes p.type p.len seq p.payload }
  let s := (s.setFld b ⟨DAWN.TX_STAT, 8, 8⟩ seq).setFld b ⟨DAWN.TX_STAT, 30, 2⟩ 1
  (s.setFld b DAWN.DW_STAT.TX_BUSY 1).setFld b DAWN.DW_STAT.TX_BLOCKED 0

/-- A packet ends, sent or not (R322, R323). -/
def State.dawnEnd (s : State) (n result : Nat) : State :=
  let b := pDAWN n
  let s := (s.modDawn n fun x => { x with tx := none }).setFld b DAWN.TX_STAT.RESULT result
  let s := (s.setFld b ⟨DAWN.TX_STAT, 30, 2⟩ 2).setFld b DAWN.DW_STAT.TX_BUSY 0
  let s := s.setFld b DAWN.DW_STAT.TX_BLOCKED 0
  if result = 0 then (s.addSat b DAWN.CNT_F.TX 1).raise DAWN.evTX_DONE n else s.raise DAWN.evTX_FAIL n

/-- The HELLO payload (R313). -/
def State.helloPayload (s : State) (n : Nat) : List Byte :=
  let b := pDAWN n
  let b2 := s.variant % 4 + (if s.slave then 0 else 4) + (if s.hasM400 then 8 else 0)
  let b3 := s.fld b DAWN.HELLO_ADV.WANT_M400 + 2 * s.fld b DAWN.HELLO_ADV.SIZE + (if (s.portOfLine n).isSome then 8 else 0)
    + (if s.fld (pLRX n) LRX.LN_STAT.STATE = 6 then 16 else 0)
  [1, BitVec.ofNat 8 n, BitVec.ofNat 8 b2, BitVec.ofNat 8 b3]
    ++ (List.range 16).map (fun i => BitVec.ofNat 8 ((s.rd (b + DAWN.HELLO_LABEL + 4 * (i / 4))).toNat / 256 ^ (i % 4)))

/-- What the conditions of R301 now ask of a lane's dawn transmitter: a packet being sent is aborted, a waiting one begins, and a HELLO
that is due follows when no packet is in hand (R301, R313). -/
def State.dawnSettle (s : State) (n : Nat) : State :=
  let b := pDAWN n
  let s := match (s.dawnSt n).tx with
    | some p =>
      if p.sending && !s.dawnMay n then s.dawnEnd n 1
      else if !p.sending && s.dawnMay n then s.dawnBegin n p
      else s
    | none => s
  if (s.dawnSt n).hello && (s.dawnSt n).tx.isNone then
    let s := s.modDawn n fun x => { x with hello := false }
    if s.dawnMay n && s.enabled b && s.bit b DAWN.DW_CTRL.AUTO_HELLO && s.fld b DAWN.DW_CTRL.HELLO_RATE != 3 then
      s.dawnBegin n ⟨1, 20, s.fld b DAWN.DW_CTRL.HELLO_RATE, s.helloPayload n, false, false⟩
    else s
  else s

/-- The pilot modulates the output of LTX[n]: TX_STAT.PILOT_ON (R94). -/
def State.pilotOn (s : State) (n : Nat) : Bool :=
  match (s.dawnSt n).tx with
  | some p => p.sending
  | none => false

end Sys2Proof.Machine
end

