-- ==== Sys2Proof/Machine/CapBase.lean ====
section
/-! DEFINITION. Capture as the lanes see it: the state of the recording, its end, and trigger conditions (R392, R394, R405). -/

namespace Sys2Proof.Machine

/-- CP_STAT.PAUSE (R405, R489): 1 brown-out warning, 2 thermal level 3 or above. -/
def State.capPause (s : State) : Nat :=
  if s.brownOut then 1 else if 3 ≤ s.fld pTHERM THERM.TH_STAT.LEVEL then 2 else 0

/-- A trigger condition counts as missed (R394). -/
def State.capMissed (s : State) : State := s.addSat pCAP CAP.CNT.TRIG_MISSED 1

/-- The conditions detected for a commit point that will not take them count as missed (R394, R405). -/
def State.capForget (s : State) : State :=
  if s.cap.trig = 0 then s else { s with cap := { s.cap with trig := 0 } }.capMissed

/-- A trigger condition of cause `c` on lane `n` (R394). -/
def State.capTrig (s : State) (n c : Nat) : State :=
  if s.capLane = n ∧ (s.fld pCAP CAP.CP_CTRL.TRIG_EN).testBit c then
    if s.capState = 2 ∧ s.capPause = 0 then { s with cap := { s.cap with trig := s.cap.trig ||| 2 ^ c } } else s.capMissed
  else s

/-- The recording becomes HELD, truncated if it was in POST and not complete (R392). -/
def State.capHold (s : State) (trunc : Bool) : State :=
  let s := s.capForget.setFld pCAP CAP.CP_STAT.STATE 4
  let s := s.when trunc fun s => s.setFld pCAP CAP.CP_STAT.TRUNC 1
  { s with cap := { s.cap with start := false, cur := none } }.raise CAP.evHELD 0

/-- Lane `n` stops (R392). -/
def State.capLaneStop (s : State) (n : Nat) : State :=
  if s.capRuns ∧ s.capLane = n then s.capHold (s.capState == 3) else s

/-- An SNR window of lane `n` ends (R394). -/
def State.capSnr (s : State) (n snr : Nat) : State :=
  let prev := Tbl.find s.cap.snr n
  let drop := s.fld pCAP ⟨CAP.SNR_TRIG, 16, 10⟩
  let fell : Bool := match prev with | some p => decide (drop < p - snr) | none => false
  let s := s.when (decide (snr < s.fld pCAP ⟨CAP.SNR_TRIG, 0, 10⟩) || fell) fun s => s.capTrig n 1
  { s with cap := { s.cap with snr := Tbl.insert s.cap.snr n snr } }

end Sys2Proof.Machine
end

