-- ==== Sys2Proof/Machine/RxPath.lean ====
section
/-! DEFINITION. The receive stages 3 to 8 of R16 as arithmetic: mismatch correction (R50, R83), DC-blocking stage (R51), resampler and
timing loop (R52 to R54), FFE, Volterra bank and detector (R55 to R58), with the windows that they feed (R53, R66, R76, R178). Sums and products are
exact: no rule states a rounding inside the datapath (log entry 93). -/

namespace Sys2Proof.Machine

/-- What the stages take from the lane: line mode, registers in force by page offset, the slice of each position, polarity, the
resampler table by phase and tap, whether the DC estimate is frozen, and whether the timing loop holds. -/
structure RxCfg where
  m400 : Bool
  inf : Nat → Word
  slice : Nat → Nat
  pol : Bool
  table : Nat → Nat → Rat
  frozen : Bool
  hold : Bool

/-- A signed field of a register in force. -/
def RxCfg.int (c : RxCfg) (off lo width : Nat) : Int := sx width (getBits (c.inf off) lo width)

/-- An unsigned field of a register in force. -/
def RxCfg.nat (c : RxCfg) (off lo width : Nat) : Nat := getBits (c.inf off) lo width

/-- A whole number for a value shown in whole steps: itself where it is whole, one of its neighbours otherwise. -/
def toStep (q : Rat) : Int := if q.den = 1 then q.num else q.floor + (if Config.roundUp q then 1 else 0)

/-- A number kept within limits. -/
def within (lo hi : Int) (i : Int) : Int := max lo (min hi i)

/-- Sum of a list. -/
def total (l : List Rat) : Rat := l.foldl (· + ·) 0

/-- The sum of products of a filter: coefficient `k` with element `k`. -/
def dot (coef : Nat → Rat) (l : List Rat) : Rat := total (l.zipIdx.map fun e => coef e.2 * e.1)

/-! ## Mismatch correction (R50, R83) -/

/-- Offset and gain correction of an ADC code of a slice; POL_INV inverts (R72). -/
def RxCfg.gainStage (c : RxCfg) (sl : Nat) (code : BitVec 8) : Rat :=
  let a := LRX.MC_A + 8 * sl
  let v : Rat := ((code.toInt : Rat) - (c.int a 0 10 : Rat) / 16) * (1 + (c.int a 16 12 : Rat) / 10000)
  if c.pol then -v else v

/-- Tap `t` of the skew filter of a slice: none of its neighbours at a correction of 0. -/
def RxCfg.skewTap (c : RxCfg) (sl t : Nat) : Rat :=
  let code := c.int (LRX.MC_A + 8 * sl + 4) 0 11
  if code = 0 then (if t = 2 then 1 else 0) else Config.skewTap code t

/-- Tap `t` of the bandwidth filter of a slice. -/
def RxCfg.bwTap (c : RxCfg) (sl t : Nat) : Rat :=
  let code := c.int (LRX.MC_A + 8 * sl + 4) 16 8
  if code = 0 then (if t = 1 then 1 else 0) else Config.bwTap code t

/-- A filter across neighbouring samples, latest first, with the taps of the slice of the middle one: the middle sample, filtered. -/
def acrossSlices (width : Nat) (tap : Nat → Nat → Rat) (l : List (Nat × Rat)) : Option (Nat × Rat) :=
  if l.length < width then none else (l[width / 2]?).map fun m => (m.1, dot (tap m.1) (l.map (·.2)))

/-! ## DC-blocking stage (R51, R78) -/

/-- One sample of the DC stage. At the end of each datapath cycle (1,200 / 7 samples on average in M400, R46) the estimate moves towards the mean of the cycle's samples by 2^−SHIFT
of the difference, unless frozen. -/
def RxCfg.dcStage (c : RxCfg) (p : RxPipe) (u : Rat) : RxPipe × Rat :=
  let out := u - p.dc
  let p := { p with dcSum := p.dcSum + u, dcN := p.dcN + 1, dcPh := p.dcPh + 7 }
  let cycle := if c.m400 then 1200 else 600
  if p.dcPh < cycle then (p, out)
  else
    let mean := p.dcSum / (p.dcN : Rat)
    let d := if c.frozen then p.dc else p.dc + (mean - p.dc) / ((2 ^ c.nat LRX.DCB_CTRL 4 5 : Nat) : Rat)
    ({ p with dc := d, dcSum := 0, dcN := 0, dcPh := p.dcPh - cycle }, out)

/-! ## Detector (R57, R58, R81, R84) -/

/-- The nominal PAM4 levels in EU. -/
def nominalEU (a : Nat) : Rat := 128 * (a : Rat) - 192

/-- The level targets of SLC_LVL0 and SLC_LVL1. -/
def RxCfg.target (c : RxCfg) (a : Nat) : Rat := (c.int (LRX.SLC_LVL0 + 4 * (a / 2)) (16 * (a % 2)) 10 : Rat)

/-- The slicer: how many thresholds the value passes. -/
def RxCfg.slice4 (c : RxCfg) (z : Rat) : Nat :=
  let above (k : Nat) : Bool :=
    let t : Rat := (c.int LRX.SLC_THR (10 * k) 10 : Rat)
    decide (t < z) || (decide (z = t) && Config.slicerTie)
  if above 2 then 3 else if above 1 then 2 else if above 0 then 1 else 0

/-- The slicer's decision on an equalised sample after the one-tap DFE. -/
def RxCfg.dfe (c : RxCfg) (prev : Nat) (y : Rat) : Nat :=
  c.slice4 (y - (c.int LRX.DFE_TAP 0 12 : Rat) / 2048 * nominalEU prev)

/-- The reference of a branch in EU (R57, R84). -/
def RxCfg.ref (c : RxCfg) (r : Nat) : Rat := (c.int (LRX.MLSE_REF + 4 * (r / 2)) (16 * (r % 2)) 10 : Rat)

/-- The smaller metric of two paths; the first where they are equal. -/
def better (a b : Rat × List Nat) : Rat × List Nat := if b.1 < a.1 then b else a

/-- One step of the 16-state Viterbi detector. State 4·a(n−1) + a(n−2) keeps the metric and the levels of its best path, latest first; the
metrics are kept above the smallest. -/
def RxCfg.mlse (c : RxCfg) (paths : List (Rat × List Nat)) (y : Rat) : List (Rat × List Nat) :=
  let scale : Rat := ((2 ^ c.nat LRX.DET_CTRL 4 5 : Nat) : Rat)
  let branch (a a1 a2 : Nat) : Rat × List Nat :=
    let (m, l) := paths.getD (4 * a1 + a2) (0, [])
    let e := y - c.ref (16 * a + 4 * a1 + a2)
    (m + e * e / scale, (a :: l).take (Config.mlseDepth + 1))
  let new := (List.range 16).map fun st =>
    let a := st / 4
    let a1 := st % 4
    better (better (branch a a1 0) (branch a a1 1)) (better (branch a a1 2) (branch a a1 3))
  let least := new.foldl (fun m x => if x.1 < m then x.1 else m) ((new.headD (0, [])).1)
  new.map fun x => (x.1 - least, x.2)

/-- The level that the best path holds at the decision delay. -/
def oldest (paths : List (Rat × List Nat)) : Nat :=
  ((paths.foldl better (paths.headD (0, []))).2.getLast?).getD 0

/-! ## Windows -/

/-- Add a decided symbol to its level's account (R178). -/
def RxCfg.account (c : RxCfg) (l : List LvlAcc) (m : RxSym) : List LvlAcc :=
  let e := m.y - c.target m.d
  l.zipIdx.map fun a => if a.2 = m.d then ⟨a.1.n + 1, a.1.sum + m.y, a.1.sq + m.y * m.y, a.1.err + e * e⟩ else a.1

/-- One more resampler output: the SNR window ends after 2^20 (R66). -/
def snrCount (p : RxPipe) : RxPipe :=
  if p.lvlN + 1 < 2 ^ 20 then { p with lvlN := p.lvlN + 1 }
  else { p with lvlN := 0, lvl := List.replicate 4 ⟨0, 0, 0, 0⟩, lvlDone := p.lvlDone ++ [p.lvl] }

/-- One more ADC sample: the RMS and clip window ends after 2^20 samples (R76), the 16 µs window of the timing loop after 3,840,000 in M400 (R53). -/
def RxCfg.adcCount (c : RxCfg) (p : RxPipe) (code : BitVec 8) : RxPipe :=
  let i := code.toInt.natAbs
  let clip := if code.toInt = 127 ∨ code.toInt = -128 then 1 else 0
  let p := { p with taken := p.taken + 1, adcSq := p.adcSq + i * i, adcClip := p.adcClip + clip, adcN := p.adcN + 1, trN := p.trN + 1 }
  let p := if p.adcN < 2 ^ 20 then p
    else { p with adcSq := 0, adcClip := 0, adcN := 0, adcDone := p.adcDone ++ [(p.adcSq, min p.adcClip 4095)] }
  if p.trN < (if c.m400 then 3840000 else 1920000) then p else { p with trN := 0, trWin := (p.freq :: p.trWin).take 5 }

/-! ## Timing loop (R52, R53, R79) -/

/-- TR_STEP of a frequency offset in units of 0.001 ppm (R52): (128/121) / (1 + δ) in Q2.30, to the nearest. -/
def trStep (freq : Int) : Nat :=
  let d := 121 * (1000000000 + freq)
  ((2 * 128 * 2 ^ 30 * 1000000000 + d) / (2 * d)).toNat

/-- The loop's frequency, as TR_FREQ shows it. -/
def RxPipe.shown (p : RxPipe) : Int := within (-300000) 300000 (toStep p.freq)

/-- One update of the second-order loop: the error moves frequency (unless FHOLD holds it) and phase, and the frequency stops at ±300 ppm. -/
def RxCfg.track (c : RxCfg) (p : RxPipe) : RxPipe :=
  if c.hold then p
  else
    let e := Config.ted (c.nat LRX.TR_CFG 0 1) (c.int LRX.TR_CFG 8 6) (p.xs.take 3) (p.last.map fun m => (m.y, m.d))
    let (kp, ki) := Config.loopGain (c.nat LRX.TR_CFG 1 3)
    let f := if (c.inf LRX.TR_CFG).getLsbD 4 then p.freq else p.freq + ki * e
    let out : Bool := decide (300000 ≤ f) || decide (f ≤ -300000)
    { p with freq := max (-300000) (min 300000 f), limit := p.limit || (out && decide (p.freq ≠ max (-300000) (min 300000 f))),
             nco := ((p.nco : Int) + toStep (kp * e)).toNat }

/-! ## From samples to decisions -/

/-- The Volterra bank's sum (R56) on the resampler outputs, latest first: the cursor is element 20. -/
def RxCfg.volterra (c : RxCfg) (xs : List Rat) : Rat :=
  let x (lag : Int) : Rat := xs.getD (20 - lag).toNat 0
  total ((List.range 12).map fun j =>
    let o := LRX.VOL + 4 * j
    if (c.inf o).getLsbD 8 then (c.int o 16 14 : Rat) / 2048 * x (c.int o 0 4) * x (c.int o 4 4) / 512 else 0)

/-- The equalised sample (R55, R56), within −512 to +511 EU. -/
def RxCfg.equalise (c : RxCfg) (xs : List Rat) : Rat :=
  max (-512) (min 511 (dot (fun k => (c.int (LRX.FFE + 4 * k) 0 14 : Rat) / 2048) xs + c.volterra xs))

/-- A symbol enters the detector; the one whose decision is due leaves it. -/
def RxCfg.detect (c : RxCfg) (p : RxPipe) (x y : Rat) : RxPipe × Option RxSym :=
  let d := c.dfe p.prev y
  let p := { p with prev := d, paths := c.mlse p.paths y, wait := p.wait ++ [RxSym.mk x y d] }
  match p.wait with
  | m :: rest =>
    if p.wait.length ≤ Config.mlseDepth then (p, none)
    else
      let m := { m with d := if (c.inf LRX.DET_CTRL).getLsbD 0 then m.d else oldest p.paths }
      let p := c.track { p with wait := rest, last := (m :: p.last).take 2 }
      ({ p with lvl := c.account p.lvl m }, some m)
  | [] => (p, none)

/-- A resampler output in EU: ADC full scale is 512 EU (R55). -/
def RxCfg.symbol (c : RxCfg) (p : RxPipe) (x : Rat) : RxPipe × Option RxSym :=
  let p := snrCount { p with xs := (x :: p.xs).take 41 }
  if p.xs.length < 41 then (p, none) else c.detect p (p.xs.getD 20 0) (c.equalise p.xs)

/-- The resampler (R52, R54): an output where 16 samples lie from the NCO's integer position on. -/
def RxCfg.resample (c : RxCfg) (p : RxPipe) : RxPipe × Option RxSym :=
  if p.buf.length < 16 then (p, none)
  else
    let phase := p.nco % 2 ^ 30 / 2 ^ 24
    let x := 4 * dot (c.table phase) (p.buf.take 16)
    let nco := p.nco + trStep p.shown
    let n := min (nco / 2 ^ 30) p.buf.length
    c.symbol { p with buf := p.buf.drop n, nco := nco - n * 2 ^ 30 } x

/-- One ADC sample through the stages. -/
def RxCfg.sample (c : RxCfg) (p : RxPipe) (code : BitVec 8) : RxPipe × Option RxSym :=
  let sl := c.slice (p.taken % 16)
  let p := c.adcCount p code
  let p := { p with gained := ((sl, c.gainStage sl code) :: p.gained).take 5 }
  match acrossSlices 5 c.skewTap p.gained with
  | none => (p, none)
  | some u =>
    let p := { p with skewed := (u :: p.skewed).take 3 }
    match acrossSlices 3 c.bwTap p.skewed with
    | none => (p, none)
    | some v =>
      let (p, w) := c.dcStage p v.2
      c.resample { p with buf := p.buf ++ [w] }

/-- The samples of a frame, and the symbols decided in it, in order. -/
def RxCfg.run (c : RxCfg) (p : RxPipe) (raw : List (BitVec 8)) : RxPipe × List RxSym :=
  raw.foldl (fun a code => let (p, m) := c.sample a.1 code; (p, a.2 ++ m.toList)) (p, [])

/-- c(p, t) of a resampler table as RS_TAB lays it out (R80), by word. -/
def tableCoef (word : Nat → Word) (p t : Nat) : Rat := (sx 12 (getBits (word (8 * p + t / 2)) (12 * (t % 2)) 12) : Rat) / 1024

/-- The stages of a lane from its state: the ROM's table where none was loaded. -/
def rxTable (t : Tbl Word) : Nat → Nat → Rat := if t = [] then Config.romTable else tableCoef (Tbl.get 0 t)

/-! ## What the windows show -/

/-- The largest n ≤ 1,023 with 10^(n/100) ≤ r: 10·log10 r in units of 0.1 dB, 0 where r is below 1. -/
def tenthsDb (r : Rat) : Nat :=
  (List.range 1024).foldl (fun m n => if 10 ^ n * r.den ^ 100 ≤ r.num.toNat ^ 100 then n else m) 0

/-- An SNR of R66 and R178: 10 log10(5·64² / v), with the greatest code where v is 0. -/
def snrOf (v : Rat) : Nat := if v = 0 then 1023 else tenthsDb (20480 / v)

/-- SNR_EST of a window: the slicer-error SNR over all decisions; 0 where there were none. -/
def windowSnr (w : List LvlAcc) : Nat :=
  let n : Nat := w.foldl (fun n a => n + a.n) 0
  if n = 0 then 0 else snrOf (total (w.map (·.err)) / (n : Rat))

/-- LVL[l] of a window (R178, R189): mean and SNR; 0 and 0 without decisions. -/
def lvlWord (a : LvlAcc) : Nat :=
  if a.n = 0 then 0
  else
    let mean := a.sum / (a.n : Rat)
    unsx 10 (within (-512) 511 (toStep mean)) * 2 ^ 16 + snrOf (a.sq / (a.n : Rat) - mean * mean)

/-- ADC_MON.RMS of a window of 2^20 samples: LSB 1/16 code. -/
def rmsOf (sq : Nat) : Nat := min (Nat.sqrt (256 * sq / 2 ^ 20)) 4095

end Sys2Proof.Machine
end

