-- ==== Sys2Proof/Machine/Marl.lean ====
section
/-! DEFINITION. The inner code of a lane (R156 to R167): Gray code, the Marl code word and its chain, the convolutional interleaver, the Marl header, and
decoding with the statistics of R177. The IEEE inner code of M200 (R164) is a free function of the frame's symbols (log entry 95). -/

namespace Sys2Proof.Machine

/-! ## Bits, symbols and units (R157, R159) -/

/-- The level index of two bits, the first the more significant (R157). -/
def gray (first second : Bool) : Nat :=
  match first, second with
  | false, false => 0
  | false, true => 1
  | true, true => 2
  | true, false => 3

/-- The two bits of a level index, in transmission order. -/
def ungray (d : Nat) : List Bool := [decide (2 ≤ d), d == 1 || d == 2]

/-- Bits to symbols. -/
def symbolsOf : List Bool → List Nat
  | a :: b :: t => gray a b :: symbolsOf t
  | _ => []

/-- Sixteen bits as a block: the first sent is bit 0 (R158). -/
def blockOf (l : List Bool) : BitVec 16 := BitVec.ofNat 16 (l.foldr (fun b n => 2 * n + b.toNat) 0)

/-- The bits of a block in transmission order. -/
def blockBits (u : BitVec 16) : List Bool := (List.range 16).map u.getLsbD

/-- The first `k` pieces of length `n` of a list. -/
def chunksOf {α : Type} (n k : Nat) (l : List α) : List (List α) := (List.range k).map fun i => (l.drop (n * i)).take n

/-- A list lengthened at its front to length `n`. -/
def padFront {α : Type} (n : Nat) (a : α) (l : List α) : List α := List.replicate (n - l.length) a ++ l

/-- The last `n` elements of a list. -/
def lastN {α : Type} (n : Nat) (l : List α) : List α := l.drop (l.length - n)

/-! ## The Marl code word (R158) -/

/-- The parity block of a code word from the information blocks of the word before it and its own. -/
def marlParity (prev cur : List (BitVec 16)) : BitVec 16 :=
  (List.range 15).foldl (fun p b => p ^^^ (cur.getD b 0).rotateLeft (5 * b % 16) ^^^ (prev.getD b 0).rotateLeft ((7 * b + 3) % 16)) 0

/-- The units of a frame's 1,088 code words, and the information blocks of the last. -/
def marlEncode (prev : List (BitVec 16)) (bits : List Bool) : List (BitVec 16) × List (BitVec 16) :=
  (chunksOf 240 1088 bits).foldl (fun a w =>
    let u := (chunksOf 16 15 w).map blockOf
    (u, a.2 ++ u ++ [marlParity a.1 u])) (prev, [])

/-! ## The interleaver (R159) -/

/-- A frame's units through the interleaver: unit `e` comes from branch (phase + e) mod 12, which delays by 264 units per branch number; the delay
lines hold zeros at lane start. `past` are the 2,904 units before. -/
def interleave (phase : Nat) (past new : List (BitVec 16)) : List (BitVec 16) :=
  let l := padFront 2904 0 past ++ new
  (List.range new.length).map fun e => l.getD (2904 + e - 264 * ((phase + e) % 12)) 0

/-- Place, among the last 2,912 received units and a frame's, of unit `q` of the words that the frame completes: branch b delays by 264 × (11 − b). The
words begin 8 units before the frame, since 2,904 units are 181 words and a half. -/
def deinterleave (phase q : Nat) : Nat := 2904 + q - 264 * (11 - (phase + q + 4) % 12)

/-! ## The Marl header (R161, R624) -/

/-- The `n` low bits of a number, most significant first. -/
def msbBits (n v : Nat) : List Bool := ((List.range n).map v.testBit).reverse

/-- PRBS9 (x^9 + x^5 + 1) from all ones: `n` bits of the register's recurrence. -/
def prbs9 : Nat → BitVec 9 → List Bool
  | 0, _ => []
  | n + 1, r => r.getLsbD 8 :: prbs9 n ((r <<< 1) ||| (if r.getLsbD 8 != r.getLsbD 4 then 1 else 0))

/-- The frame alignment word of R161. -/
def faw0 : Nat := 0x6B2DC91E4F07A358

/-- The header bits of a frame: FAW, FRAME, LANE, SIZE, RDI, PCH, CRC and FILL. -/
def marlHeader (frame lane size : Nat) (rdi : Bool) (pch : Nat) : List Bool :=
  let f := (((frame % 2 ^ 16 * 8 + lane % 8) * 4 + size % 4) * 2 + rdi.toNat) * 2 ^ 10 + pch % 16 * 2 ^ 4
  msbBits 64 faw0 ++ msbBits 32 f ++ msbBits 16 (crc16 32 f) ++ prbs9 144 0x1FF

/-! ## Decoding a frame (R158 to R160, R163, R164, R177) -/

/-- What the inner decoder counted over one inner frame (R177): code words, pre-FEC bit errors, words not converged, symbol errors by
position and, in M400, words by the iteration at which they converged. -/
structure FrameStats where
  words : Nat
  corr : Nat
  nconv : Nat
  sympos : List Nat
  conv : List Nat

/-- A decoded frame: the decoder after it, its information bits, its counts, and the words of R390's content SYN. -/
structure FrameDec where
  dec : InnerDec
  info : List Bool
  stats : FrameStats
  syn : List (BitVec 32)

/-- Add `n` to element `i` of a list of counts. -/
def addAt (l : List Nat) (i n : Nat) : List Nat := l.zipIdx.map fun e => if e.2 = i then e.1 + n else e.1

/-- How many bits of two blocks differ. -/
def differ (a b : BitVec 16) : Nat := ones 16 (a ^^^ b).toNat

/-- The symbols of a unit whose level differs, by position: symbol s of unit r of a frame has position (8r + s) mod 16. -/
def countUnit (l : List Nat) (r : Nat) (a b : BitVec 16) : List Nat :=
  (List.range 8).foldl (fun l i =>
    if a.getLsbD (2 * i) != b.getLsbD (2 * i) || a.getLsbD (2 * i + 1) != b.getLsbD (2 * i + 1) then addAt l ((8 * r + i) % 16) 1 else l) l

/-- Hard decisions of a word: those of the first iteration whose word satisfies its parity check, with the iteration's number, otherwise those of
the last. -/
def marlWord (prev : List (BitVec 16)) (belief : Nat → List (BitVec 16)) (iter : Nat) : List (BitVec 16) × Option Nat :=
  match ((List.range iter).map (· + 1)).find? (fun i => marlParity prev ((belief i).take 15) == (belief i).getD 15 0) with
  | some i => (belief i, some i)
  | none => (belief iter, none)

/-- Count a decoded word: `got` are its units as received, with their places. -/
def FrameStats.word (st : FrameStats) (got : List (Nat × BitVec 16)) (out : List (BitVec 16)) (conv : Option Nat) : FrameStats :=
  let pairs := got.zip out
  { words := st.words + 1, corr := st.corr + (pairs.map fun e => differ e.1.2 e.2).sum,
    nconv := st.nconv + (if conv.isNone then 1 else 0), sympos := pairs.foldl (fun l e => countUnit l e.1.1 e.1.2 e.2) st.sympos,
    conv := match conv with | some i => addAt st.conv (i - 1) 1 | none => st.conv }

/-- No counts. -/
def FrameStats.zero : FrameStats := { words := 0, corr := 0, nconv := 0, sympos := List.replicate 16 0, conv := List.replicate 6 0 }

/-- The Marl decoder over one frame (M400). `syms` are the frame's decisions with their soft bits, the 128 header symbols first. Without history, the first 182
words are lost (R159); the bits toward the outer code begin at a frame of the link partner (R166). -/
def marlDecode (iter : Nat) (d : InnerDec) (syms : List (Nat × BitVec 10)) : FrameDec :=
  let new := (chunksOf 8 17408 (syms.drop 128)).map fun l =>
    (blockOf (l.flatMap fun m => ungray m.1), BitVec.ofNat 80 (l.foldr (fun m n => 2 ^ 10 * n + m.2.toNat) 0))
  let l := padFront 2912 (0, 0) d.units ++ new
  let soft := l.map (·.2)
  let skip := if d.units = [] then 182 else 0
  let r := ((List.range 1088).drop skip).foldl (fun (a : InnerDec × List Bool × FrameStats × List (BitVec 32)) w =>
    let got := (List.range 16).map fun i => let j := deinterleave d.unit (16 * w + i); (j, (l.getD j (0, 0)).1)
    let (out, conv) := marlWord a.1.word (fun i => Config.marlBelief i soft w) iter
    let u := out.take 15
    let syn := (marlParity a.1.word u ^^^ out.getD 15 0).toNat + conv.getD 0 * 2 ^ 16
    ({ a.1 with word := u }, a.2.1 ++ (u.flatMap blockBits).take 240, a.2.2.1.word got out conv, a.2.2.2 ++ [BitVec.ofNat 32 syn]))
    (d, [], FrameStats.zero, [])
  let info := r.2.1
  let fresh := if d.begun then info else info.drop (240 * (182 - skip))
  { dec := { r.1 with unit := (d.unit + 17408) % 12, units := lastN 2912 l, begun := true, bits := d.bits ++ fresh },
    info := info, stats := r.2.2.1, syn := r.2.2.2 }

/-- The IEEE inner decoder over one frame (M200): 1,088 words. -/
def ieeeFrame (d : InnerDec) (syms : List (Nat × BitVec 10)) : FrameDec :=
  let (levels, info, bad, syn) := Config.ieeeDecode syms
  let pairs := (syms.map (·.1)).zip levels
  let corr := (pairs.map fun e => match e.2 with | some v => ((ungray e.1).zip (ungray v)).countP (fun b => b.1 != b.2) | none => 0).sum
  let sympos := pairs.zipIdx.foldl (fun l e =>
    match e.1.2 with
    | some v => if e.1.1 = v then l else addAt l (e.2 % 16) 1
    | none => l) (List.replicate 16 0)
  { dec := { d with bits := d.bits ++ info.take 130560 }, info := info.take 130560,
    stats := { words := 1088, corr := corr, nconv := bad, sympos := sympos, conv := [] }, syn := syn.take 1088 }

/-- The inner decoder over one frame. -/
def innerDecode (m400 : Bool) (iter : Nat) (d : InnerDec) (syms : List (Nat × BitVec 10)) : FrameDec :=
  if m400 then marlDecode iter d syms else ieeeFrame d syms

/-- Detector outputs as the decoder takes them (R160). -/
def softSyms (l : List RxSym) : List (Nat × BitVec 10) := l.map fun m => (m.d, Config.llr m.y m.d)

/-! ## Check values over bits and bytes -/

/-- One bit into the reflected CRC-32 of IEEE 802.3. -/
def crc32Bit (c : Nat) (b : Bool) : Nat := if (c % 2 = 1) != b then c / 2 ^^^ 0xEDB88320 else c / 2

/-- CRC-32 (IEEE 802.3) over bits in their order. -/
def crc32Bits (l : List Bool) : Nat := l.foldl crc32Bit 0xFFFFFFFF ^^^ 0xFFFFFFFF

/-- CRC-32 over bytes, least significant bit first. -/
def crc32 (l : List Byte) : Nat := crc32Bits (l.flatMap fun b => (List.range 8).map b.getLsbD)

end Sys2Proof.Machine
end

