-- ==== Sys2Proof/Machine/TxPath.lean ====
section
/-! DEFINITION. What a transmit lane sends in a frame (R19, stages 3 to 8): the bits of the outer code (R166, R172), the inner encoder and the Marl header (R158 to
R161), the patterns of R104, FIR, predistortion and saturation (R87 to R89), and the slice that converts each symbol (R91). -/

namespace Sys2Proof.Machine

/-! ## Levels (R87, R101, R104, R161, R164) -/

/-- Symbols of an inner frame (R156). -/
def State.frameLen (s : State) : Nat := if s.m400 then 139392 else 69696

/-- Information bits of an inner frame of a lane (R156). -/
def State.frameBits (s : State) : Nat := if s.m400 then 261120 else 130560

/-- The information bits of the frame that lane `n` sends, and those left over: the fill of R172 while LF_LINE is 1, otherwise the host's, with
fill in place of what has not come. -/
def State.txBits (s : State) (n : Nat) : List Bool × List Bool :=
  let e := (s.ltxSt n).enc
  let (k, i, fill) : Nat × Nat × Bool := match s.portOfLine n with
    | some p => (s.portK p, n - p, s.bit pPORT (fldAt PORT.PSTAT.LF_LINE (4 * p)))
    | none => (1, 0, true)
  let lf := Config.faultLine k i e.frames
  if fill then (lf.take s.frameBits, []) else ((e.bits ++ lf.drop e.bits.length).take s.frameBits, e.bits.drop s.frameBits)

/-- The header of the frame that lane `n` sends (R161). Its PCH bits are those of the cell in the slot that the frame belongs to (R283). -/
def State.txHeader (s : State) (n : Nat) : List Bool :=
  let f := (s.rd (pLTX n + LTX.FRAME_CNT)).toNat
  let size := match s.portOfLine n with | some p => s.fld pPORT (fldAt PORT.PCFG.SIZE (4 * p)) | none => 0
  marlHeader f n size (s.ltxSt n).enc.rdi ((s.partSt n).sent.toNat / 2 ^ (124 - 4 * (f % 32)))

/-- The encoder's output for the frame that lane `n` sends, and the encoder after it. -/
def State.txEncode (s : State) (n : Nat) : List Nat × TxEnc :=
  let e := (s.ltxSt n).enc
  let (bits, left) := s.txBits n
  if s.m400 then
    let (word, units) := marlEncode e.word bits
    let phase := e.frames * 17408 % 12
    let out := interleave phase e.units units
    (symbolsOf (s.txHeader n ++ out.flatMap blockBits),
      { e with bits := left, word := word, units := lastN 2904 (e.units ++ units) })
  else (Config.ieeeEncode e.frames bits, { e with bits := left })

/-- Symbol `i` of a pattern of R104. -/
def patLevel (pat i : Nat) : Nat := if pat = 4 then (if i % 16 < 8 then 3 else 0) else Config.pattern pat i % 4

/-- The level indices of the frame that lane `n` sends: PRBS13Q in BEACON (R99), what PAT chose in ACTIVE. -/
def State.txLevels (s : State) (n : Nat) : List Nat × TxEnc :=
  let x := s.ltxSt n
  let active : Bool := s.fld (pLTX n) LTX.TX_STAT.STATE == 3
  let pat := if active then x.pat else 1
  if pat = 0 then s.txEncode n else ((List.range s.frameLen).map fun i => patLevel pat (s.frameLen * x.enc.frames + i), x.enc)

/-- The first two levels of the frame after: the FAW begins with levels 1 and 3 in M400. -/
def State.txAhead (s : State) (n : Nat) : List Nat :=
  let x := s.ltxSt n
  let active : Bool := s.fld (pLTX n) LTX.TX_STAT.STATE == 3
  let pat := if active then x.pat else 1
  if pat ≠ 0 then [patLevel pat (s.frameLen * (x.enc.frames + 1)), patLevel pat (s.frameLen * (x.enc.frames + 1) + 1)]
  else if s.m400 then symbolsOf (msbBits 4 (faw0 / 2 ^ 60))
  else (Config.ieeeEncode (x.enc.frames + 1) ((s.txBits n).2.take s.frameBits)).take 2

/-! ## FIR and predistortion (R87 to R89) -/

/-- s(n) of a level index, negated if POL_INV was 1 at lane start (R87); code 0 before the first symbol (R99). -/
def dacLevel (pol : Bool) (a : Option Nat) : Int :=
  match a with
  | some a => let v := 32 * (2 * (a : Int) - 3); if pol then -v else v
  | none => 0

/-- To the nearest whole code, ties away from zero. -/
def nearest (q : Rat) : Int := if 0 ≤ q then (q + 1 / 2).floor else -((1 / 2 - q).floor)

/-- The FIR's output (R88): `w` holds the levels of symbols n − 4 to n + 2. -/
def firSum (fir : Nat → Int) (pol : Bool) (w : List (Option Nat)) : Rat :=
  (((List.range 7).map fun k => fir k * dacLevel pol (w.getD (6 - k) none)).sum : Int) / 256

/-- The index of the predistortion table (R89), from the levels before any inversion; before the first symbol the level is free. -/
def nlpIndex (w : List (Option Nat)) : Nat :=
  let a (i : Nat) := ((w.getD i none).getD (Config.pattern 0 0)) % 4
  16 * a 3 + 4 * a 4 + a 5

/-- The code that the DAC converts, and whether it was saturated (R89). -/
def dacCode (fir : Nat → Int) (nlp : Nat → Int) (pol : Bool) (w : List (Option Nat)) : Int × Bool :=
  let v := nearest (firSum fir pol w + (nlp (nlpIndex w) : Rat) / 4)
  (max (-128) (min 127 v), decide (v < -128) || decide (127 < v))

/-- A function over every window of seven elements. -/
def windows7 {α β : Type} (f : List α → β) : List α → List β
  | [] => []
  | a :: t => if t.length < 6 then [] else f (a :: t.take 6) :: windows7 f t

/-- The codes of a frame of levels of lane `n`, in force as at its end. -/
def State.txShape (s : State) (n : Nat) (levels : List Nat) : List (Int × Bool) :=
  let b := pLTX n
  let x := s.ltxSt n
  let past := padFront 4 none (x.enc.levels.reverse.map some)
  let fir (k : Nat) : Int := sx 10 (getBits (s.inf (b + LTX.FIR + 4 * k)) 0 10)
  let nlp (i : Nat) : Int := sx 8 (getBits (s.inf (b + LTX.NLP + 4 * (i / 4))) (8 * (i % 4)) 8)
  windows7 (dacCode fir nlp x.pol) (past ++ (levels ++ s.txAhead n).map some)

/-- Lane `n` has sent a frame: what its DAC converted, slice by slice, and the saturated symbols counted in CLIP_CNT (R89, R91). -/
def State.txSend (s : State) (n : Nat) : State :=
  let (levels, e) := s.txLevels n
  let codes := s.txShape n levels
  let out := codes.zipIdx.map fun c => (s.posSlice (8 + n) (c.2 % 16), c.1.1)
  let rdi := s.fld (pLRX n) LRX.LN_STAT.STATE != 6
  let clips := codes.countP (·.2)
  let s := s.modLtx n fun x => { x with enc := { e with frames := e.frames + 1, levels := (lastN 4 levels).reverse, rdi := rdi, out := out } }
  s.when (clips != 0) fun s => (s.addSat (pLTX n) (whole LTX.CLIP_CNT) clips).raise LTX.evCLIP n

/-! ## Distribution (R166, R167) -/

/-- The line lane that carries RS symbol `j` of a code word of port `p` (R166); in M200 as the PMA of IEEE 802.3dj does (R167). -/
def State.rsLane (s : State) (p j : Nat) : Nat :=
  let k := s.portK p
  p + (if s.m400 then j % k else Config.pmaLane k j % k)

/-- The bits of an RS symbol in transmission order: least significant first (PRESUMED, log entry 96). -/
def rsBits (v : BitVec 10) : List Bool := (List.range 10).map v.getLsbD

/-- A code word toward the line joins the streams of the port's lanes (R166). -/
def State.toLine (s : State) (p : Nat) (word : List (BitVec 10)) : State :=
  s.each (s.portLanes p) fun s n =>
    let share := (word.zipIdx.filter fun e => s.rsLane p e.2 == n).flatMap fun e => rsBits e.1
    s.modLtx n fun x => { x with enc := { x.enc with bits := x.enc.bits ++ share } }

/-- The bits that lane `n` contributes to a code word of port `p`. -/
def State.rsShare (s : State) (p n : Nat) : Nat := 10 * ((List.range 544).filter fun j => s.rsLane p j == n).length

/-- Symbol `i` of a lane's share. -/
def shareSym (bits : List Bool) (i : Nat) : BitVec 10 :=
  BitVec.ofNat 10 (((bits.drop (10 * i)).take 10).foldr (fun b n => 2 * n + b.toNat) 0)

/-- The next received code word of port `p`, assembled from its lanes' decoded bits, and the state without them; none until each lane has its share. -/
def State.fromLanes (s : State) (p : Nat) : Option (List (BitVec 10) × State) :=
  let bits (n : Nat) := (s.lrxSt n).dec.bits
  if (s.portLanes p).all (fun n => decide (s.rsShare p n ≤ (bits n).length)) then
    let place (j : Nat) := ((List.range j).filter fun i => s.rsLane p i == s.rsLane p j).length
    let word := (List.range 544).map fun j => shareSym (bits (s.rsLane p j)) (place j)
    some (word, s.each (s.portLanes p) fun s n => s.modLrx n fun x => { x with dec := { x.dec with bits := x.dec.bits.drop (s.rsShare p n) } })
  else none

/-! ## Outer code words (R173, R174) -/

/-- What the outer decoder finds in a code word: the symbols in error with their error patterns, at most 15, or none where it cannot correct. A verdict
names no symbol twice and no pattern of zeros (R177). -/
def verdictOk (v : Option (List (Fin 544 × Fin 1024))) : Bool :=
  match v with
  | none => true
  | some l => decide (l.length ≤ 15) && (l.map (·.1)).Nodup && l.all (fun e => e.2.val != 0)

/-- The code word that goes on (R173, R174): forwarded as it is in PASS; corrected, or marked where it cannot be, in TERMINATE. -/
def rsForward (pass : Bool) (word : List (BitVec 10)) (v : Option (List (Fin 544 × Fin 1024))) : List (BitVec 10) :=
  if pass then word
  else match v with
    | none => Config.marked word
    | some l => word.zipIdx.map fun e => match l.find? (fun x => x.1.val == e.2) with
        | some x => e.1 ^^^ BitVec.ofNat 10 x.2.val
        | none => e.1

end Sys2Proof.Machine
end

