-- ==== Sys2Proof/Machine/Lanes.lean ====
section
/-! DEFINITION. Line lanes: boundary-applied writes (R59, R60, R112), the receive lane's lock states, losses and commit points (R48 to
R69), and the transmit lane's output states and frame boundaries (R96 to R105). -/

namespace Sys2Proof.Machine

/-! ## Writes of boundary-applied registers (R59, R60) -/

/-- A reserved code in a boundary-applied register (R75, R78, R118, R225): a host error (R447). -/
def baReserved (fam off : Nat) (v : Word) : Bool :=
  if fam = 9 ∧ off = LRX.AFE_CTRL ∨ fam = 15 ∧ off = HSL.RX_AFE then decide (36 < getBits v 4 6)
  else if fam = 9 ∧ off = LRX.DCB_CTRL then decide (getBits v 4 5 < 12) || decide (24 < getBits v 4 5)
  else if fam = 10 ∧ off = LTX.AMP_CTRL then getBits v 8 5 == 1 || decide (16 < getBits v 8 5)
  else false

/-- A write of LTX[n] that R112 ignores in part: what is stored instead, and whether LOCAL_IGNORED sets. Remote requests are
served in M400 alone (R106), and so the writes are ignored in M400 alone (DEDUCED, log entry 17). -/
def State.remoteHeld (s : State) (n off : Nat) (v : Word) : Option Word × Bool :=
  let b := pLTX n
  if !s.m400 then (some v, false)
  else if LTX.FIR ≤ off ∧ off < LTX.FIR + 28 ∧ s.bit b LTX.REM_CTRL.ALLOW then (none, true)
  else if off = LTX.AMP_CTRL ∧ s.bit b LTX.REM_CTRL.SWING_ALLOW then
    let sw := s.fld b LTX.AMP_CTRL.SWING
    (some (putBits v 0 6 sw), getBits v 0 6 != sw)
  else (some v, false)

/-- A write of a boundary-applied register of a lane's page changes the shadow bank (R59). `who` is the writer's mark: 1 the host or
supervisor, 2 the owner engine through its coefficient port. It answers whether a value was stored (R112). None: a host error, for a reserved code or for a group in which
the other writer's values stand (R60). -/
def State.baStore (s : State) (page off : Nat) (v : Word) (who : Nat) : Option (State × Bool) :=
  let fam := famOf page
  match groupOf fam off with
  | none => some (s, false)
  | some g =>
    if baReserved fam off v then none
    else
      let (w, ign) := if fam = 10 then s.remoteHeld (instOf page) off v else (some v, false)
      let s := s.when ign (fun s => s.setFld page LTX.REM_STAT.LOCAL_IGNORED 1)
      match w with
      | none => some (s, false)
      | some w =>
        if s.mark page g &&& (3 - who) ≠ 0 then none
        else some ((s.wr (page + off) w).setMark page g (s.mark page g ||| who), true)

/-- A bus write of a boundary-applied register. -/
def effBa (page off : Nat) (v : Word) (s : State) : Out :=
  match s.baStore page off v 1 with
  | some (s, _) => .ok s
  | none => hostError [page] s

/-- A bus write of COMMIT (R59, R60): a group in which the owner's values stand is a host error. -/
def effCommit (page : Nat) (v : Word) (s : State) : Out :=
  if (groupsIn v.toNat).any (fun g => s.mark page g &&& 2 != 0) then hostError [page] s
  else .ok (s.commitRequest page v.toNat none 0)

/-- LRX_COMMIT (R59). -/
def execLrxCommit (r : Requester) (n : Fin 8) (groups : BitVec 7) (s : State) : R :=
  txn r (pLRX n.val + LRX.COMMIT) (groups.setWidth 32) (effCommit (pLRX n.val) (groups.setWidth 32)) s

/-- LTX_COMMIT (R105). -/
def execLtxCommit (r : Requester) (n : Fin 8) (groups : BitVec 5) (s : State) : R :=
  txn r (pLTX n.val + LTX.COMMIT) (groups.setWidth 32) (effCommit (pLTX n.val) (groups.setWidth 32)) s

/-! ## Receive lanes: state, losses (R64 to R68) -/

/-- STATE of LRX[n]. -/
def State.lnState (s : State) (n : Nat) : Nat := s.fld (pLRX n) LRX.LN_STAT.STATE

/-- Frame lock of lane `n` ends (R162): FLOCK_LOSS and FRAME_LOSS; a time source on the lane is lost with its partner channel (R330). FSTATE goes to `fs`. -/
def State.frameLoss (s : State) (n fs : Nat) : State :=
  let b := pIFEC n
  if s.fld b IFEC.IF_STAT.FSTATE = 3 then
    let s := (s.setFld b IFEC.IF_STAT.FSTATE fs).setFld b IFEC.IF_STAT.FRAME_LOCK 0
    let s := (s.setFld (pLRX n) LRX.LN_STAT.FRAME_LOCK 0).modIfec n fun x => { x with miss := 0, hits := 0, hdr := false }
    let s := s.modPart n fun x => { x with asm := Assembly.init }
    let s := (s.bumpSat (b + IFEC.FLOCK_LOSS) 1).raise IFEC.evFRAME_LOSS n
    s.when (s.m400 && s.fld pTIME TIME.TM_CTRL.SRC_LANE == n) (fun s => s.sourceLost 1)
  else (s.setFld b IFEC.IF_STAT.FSTATE fs).modIfec n fun x => { x with miss := 0, hits := 0 }

/-- A line lane of a port has left LOCKED: the port is neither deskewed nor, with it, aligned to the code words (R169, R175). -/
def State.undeskew (s : State) (n : Nat) : State :=
  match s.portOfLine n with
  | some p => (s.setFld pPORT (fldAt PORT.PSTAT.DESKEWED (4 * p)) 0).cwLock p OFEC.OF_STAT.RX_CW_LOCK false
  | none => s

/-- LRX[n] takes a state (R64). Below FRAME the search for frames ends, at FRAME it begins (R162). -/
def State.setLn (s : State) (n st : Nat) : State :=
  let old := s.lnState n
  let s := s.setFld (pLRX n) LRX.LN_STAT.STATE st
  let s := s.when (decide (st < 5) && decide (5 ≤ old)) (fun s => s.frameLoss n 0)
  let s := s.when (st == 5 && decide (old < 5)) (fun s => s.frameLoss n 1)
  let s := s.when (old == 6 && st != 6) (fun s => s.undeskew n)
  s.when (st == 6 && old != 6) (fun s => s.raise LRX.evLOCKED n)

/-- A loss of R66: cause, new state, and from LOCKED the count and LOCK_LOST. -/
def State.laneLoss (s : State) (n cause st : Nat) : State :=
  let was := s.lnState n == 6
  let s := (s.setFld (pLRX n) LRX.LN_STAT.LOSS_CAUSE cause).modLrx n fun x => { x with low := 0 }
  let s := s.when was (fun s => s.addSat (pLRX n) (whole LRX.CNT_LOCK_LOSS) 1)
  (s.setLn n st).when was (fun s => (s.raise LRX.evLOCK_LOST n).capTrig n 2)

/-- LOS_ASSERT (R48, R53, R66). The envelope amplitude is in mVppd. TR_LOCK clears as well, and the loss is declared as one of signal alone, without TIMING_LOST: the
spec does not say whether both are (R66, R85; DESIGN CHOICE, log entry 100). -/
def execLosAssert (n : Fin 8) (ampl : BitVec 10) (s : State) : R :=
  let b := pLRX n.val
  if s.lnState n.val ≠ 0 ∧ !s.bit b LRX.LN_STAT.LOS ∧ ampl.toNat < 4 * s.fld b LRX.LOS_CFG.LOS_ON then
    let s0 := s
    let s := (s.setFld b LRX.AFE_STAT.AMPL ampl.toNat).setFld b LRX.LN_STAT.LOS 1
    let s := (s.setFld b LRX.LN_STAT.TR_LOCK 0).setFld b LRX.SNR_EST.SNR 0
    .next (watch s0 ((s.laneLoss n.val 1 1).raise LRX.evLOS_ASSERT n.val))
  else .next s

/-- LOS_CLEAR (R48, R64). -/
def execLosClear (n : Fin 8) (ampl : BitVec 10) (s : State) : R :=
  let b := pLRX n.val
  if s.lnState n.val = 1 ∧ s.bit b LRX.LN_STAT.LOS ∧ 4 * s.fld b LRX.LOS_CFG.LOS_OFF < ampl.toNat then
    let s := (s.setFld b LRX.AFE_STAT.AMPL ampl.toNat).setFld b LRX.LN_STAT.LOS 0
    .next ((s.setLn n.val 2).raise LRX.evLOS_CLEAR n.val)
  else .next s

/-- A write of LOS_CFG of a receiver whose LOS stands in a field (R48): LOS_OFF not above LOS_ON is a host error confined to the lane's LOS,
which is then free (R447). -/
def effLosCfg (page off : Nat) (los : Fld) (v : Word) (s : State) : Out :=
  let s := s.wr (page + off) v
  .ok (s.when (decide (getBits v 8 8 ≤ getBits v 0 8)) fun s => let (x, s) := s.fresh; s.setFld page los (x % 2))

/-- SNR_OK (R73). -/
def State.snrOk (s : State) (n : Nat) : Bool :=
  decide (s.fld (pLRX n) LRX.SNR_CFG.SNR_ACQ ≤ s.fld (pLRX n) LRX.SNR_EST.SNR)

/-- The requester is an engine that counts in cluster `c` (R20, R65, R234). -/
def State.engineOf (s : State) (r : Requester) (c : Nat) : Bool :=
  match r with
  | .engine k e => s.homeOf (16 * k + e) == c
  | _ => false

/-- A write of ACQ_CMD (R64, R65): RESTART wins over ADVANCE, which only the serving cluster's engines may write. -/
def effAcqCmd (r : Requester) (n : Nat) (v : Word) (s : State) : Out :=
  let st := s.lnState n
  let b := pLRX n
  if v.getLsbD 1 then
    if 2 ≤ st then
      let s0 := s
      let s := (s.setFld b LRX.LN_STAT.LOSS_CAUSE 5).modLrx n fun x => { x with low := 0 }
      .ok (watch s0 ((s.setLn n 2).when (st == 6) (fun s => (s.raise LRX.evLOCK_LOST n).capTrig n 2)))
    else .ok s
  else if v.getLsbD 0 && s.engineOf r n then
    if st = 2 then .ok (s.setLn n 3)
    else if st = 3 ∧ s.bit b LRX.LN_STAT.TR_LOCK then .ok (s.setLn n 4)
    else if st = 4 ∧ s.snrOk n then .ok (s.setLn n 5)
    else .ok s
  else .ok s

/-- ACQ_ADVANCE (R65). -/
def execAcqAdvance (r : Requester) (n : Fin 8) (s : State) : R := txn r (pLRX n.val + LRX.ACQ_CMD) 0x1 (effAcqCmd r n.val 0x1) s
/-- ACQ_RESTART (R65). -/
def execAcqRestart (r : Requester) (n : Fin 8) (s : State) : R := txn r (pLRX n.val + LRX.ACQ_CMD) 0x2 (effAcqCmd r n.val 0x2) s


/-- The timing loop's frequency as TR_FREQ and TR_STEP report it (R52). -/
def State.setFreq (s : State) (n : Nat) (freq : Int) : State :=
  (s.setFld (pLRX n) LRX.TR_FREQ.DELTA (unsx 24 freq)).wr (pLRX n + LRX.TR_STEP) (BitVec.ofNat 32 (trStep freq))

/-- The timing loop of lane `n` updates: the lane runs and LOS is not asserted (R53). -/
def State.trRuns (s : State) (n : Nat) : Bool := s.lnState n != 0 && !s.bit (pLRX n) LRX.LN_STAT.LOS

/-- TR_LOCK clears; a lane at EQ or above falls to TIMING (R64, R66). -/
def State.trLost (s : State) (n : Nat) : State :=
  if s.bit (pLRX n) LRX.LN_STAT.TR_LOCK then
    let s := s.setFld (pLRX n) LRX.LN_STAT.TR_LOCK 0
    if 4 ≤ s.lnState n then (s.laneLoss n 2 3).raise LRX.evTIMING_LOST n else s
  else s

/-- The frequency changed by less than 0.5 ppm across each of four 16 µs windows in a row (R53): five values, each near the next. -/
def steady : List Rat → Bool
  | [a, b, c, d, e] => [(a, b), (b, c), (c, d), (d, e)].all fun x => decide (-500 < x.1 - x.2) && decide (x.1 - x.2 < 500)
  | _ => false

/-- TR_FREQ and TR_STEP show where the loop of lane `n` stands. -/
def State.showFreq (s : State) (n : Nat) : State := s.setFreq n (s.lrxSt n).pipe.shown

/-- Change the receive stages of lane `n`. -/
def State.modPipe (s : State) (n : Nat) (f : RxPipe → RxPipe) : State := s.modLrx n fun x => { x with pipe := f x.pipe }

/-- TIMING_LOCK_SET (R53). -/
def execTimingLockSet (n : Fin 8) (s : State) : R :=
  if s.trRuns n.val ∧ steady (s.lrxSt n.val).pipe.trWin then
    .next (((s.modPipe n.val fun p => { p with trWin := [] }).showFreq n.val).setFld (pLRX n.val) LRX.LN_STAT.TR_LOCK 1)
  else .next s

/-- TR_RANGE (R53): the loop has run into +300 or −300 ppm, where the NCO holds. -/
def execTrRange (n : Fin 8) (s : State) : R :=
  if s.trRuns n.val ∧ (s.lrxSt n.val).pipe.limit then
    let s' := (s.modPipe n.val fun p => { p with limit := false, trWin := [] }).showFreq n.val
    .next (watch s ((s'.raise LRX.evTR_RANGE n.val).trLost n.val))
  else .next s

/-- CYCLE_SLIP (R53). -/
def execCycleSlip (n : Fin 8) (s : State) : R := if s.trRuns n.val then .next (watch s ((s.modPipe n.val fun p => { p with trWin := [] }).trLost n.val)) else .next s

/-- A window of lane `n` is evaluated (R66, R177, R178): its SNR and each level's mean and SNR. A lane in FRAME or LOCKED whose 64th window
running is below SNR_LOSS falls to EQ. -/
def State.snrWindow (s : State) (n : Nat) (w : List LvlAcc) : State :=
  let snr := windowSnr w
  let s := (s.setFld (pLRX n) LRX.SNR_EST.SNR snr).capSnr n snr
  let s := (List.range 4).foldl (fun s l => s.setLv (pIFEC n + IFEC.LVL + 4 * l) (lvlWord (w.getD l ⟨0, 0, 0, 0⟩))) s
  let st := s.lnState n
  if (st = 5 ∨ st = 6) ∧ snr < s.fld (pLRX n) LRX.SNR_CFG.SNR_LOSS then
    if 63 ≤ (s.lrxSt n).low then (s.laneLoss n 3 4).raise LRX.evSNR_LOSS n
    else s.modLrx n fun x => { x with low := x.low + 1 }
  else s.modLrx n fun x => { x with low := 0 }

/-- SNR_WINDOW_END (R66): the oldest window that has ended is evaluated, unless LOS is asserted. -/
def execSnrWindowEnd (n : Fin 8) (s : State) : R :=
  let n := n.val
  match (s.lrxSt n).pipe.lvlDone with
  | [] => .next s
  | w :: rest =>
    let t := s.modPipe n fun p => { p with lvlDone := rest }
    .next (if s.trRuns n then watch s (t.snrWindow n w) else t)

/-- ACQ_TIMEOUT (R67). -/
def execAcqTimeout (n : Fin 8) (s : State) : R :=
  let st := s.lnState n.val
  if 2 ≤ st ∧ st ≤ 5 ∧ s.fld (pLRX n.val) ⟨LRX.ACQ_TMO, 0, 16⟩ ≠ 0 then
    let s' := s.addSat (pLRX n.val) (whole LRX.CNT_ACQ_FAIL) 1
    .next (watch s ((s'.setLn n.val 2).raise LRX.evACQ_TIMEOUT n.val))
  else .next s

/-- ADC_MON_WINDOW (R76): the oldest window that has ended, and the envelope amplitude. -/
def execAdcMonWindow (n : Fin 8) (ampl : BitVec 10) (s : State) : R :=
  let b := pLRX n.val
  match (s.lrxSt n.val).pipe.adcDone with
  | [] => .next s
  | (sq, clip) :: rest =>
    let s := s.modPipe n.val fun p => { p with adcDone := rest }
    let s := (s.setFld b LRX.ADC_MON.RMS (rmsOf sq)).setFld b LRX.ADC_MON.CLIP clip
    .next (s.setFld b LRX.AFE_STAT.AMPL ampl.toNat)

/-! ## Start, stop and commit points of a receive lane (R54, R61) -/

/-- The DC estimate of lane `n` is frozen by a condition of R51. -/
def State.dcFrozen (s : State) (n : Nat) : Bool :=
  (s.inf (pLRX n + LRX.DCB_CTRL)).getLsbD 0 || s.bit (pLRX n) LRX.LN_STAT.LOS || s.brownOut || !s.servedPage (pLRX n)

/-- A commit point of receive lane `n` (R30, R61, R180): FRAME_CNT counts on, requests apply, slices change, the automatic conditions of
R51 are sampled and a requested latch is taken. -/
def State.rxPoint (s : State) (n late : Nat) : State :=
  let b := pLRX n
  let s := s.addWrap b (whole LRX.FRAME_CNT) 1
  let s := (s.applyCommits b 0x7F late ((s.rd (b + LRX.FRAME_CNT)).toNat % 2 ^ 16)).calPoint n
  let s := s.setFld b LRX.LN_STAT.DCB_FROZEN (if s.dcFrozen n then 1 else 0)
  let s := s.tapMark b false (s.rd (b + LRX.FRAME_CNT)).toNat
  s.when (s.bit (pIFEC n) IFEC.IF_STAT.SNAP_PEND) (fun s => s.latchIfec n)

/-- A word of the staging copy of the resampler table (R80). -/
def State.rsWord (s : State) (n i : Nat) : Word := s.rd (pLRX n + LRX.RS_TAB + 4 * i)

/-- Coefficient c(p, t) of the staging copy. -/
def State.rsCoef (s : State) (n p t : Nat) : Nat := getBits (s.rsWord n (8 * p + t / 2)) (12 * (t % 2)) 12

/-- The table that lane `n` would load meets R54: the ROM default, or a staging copy written whole and symmetric. -/
def State.rsTableOk (s : State) (n : Nat) : Bool :=
  s.bit (pLRX n) LRX.RS_CTRL.TAB_DEFAULT
    || ((s.lrxSt n).written == 2 ^ 512 - 1
      && (List.range 63).all (fun i => (List.range 16).all (fun t => s.rsCoef n (i + 1) t == s.rsCoef n (63 - i) (15 - t)))
      && (List.range 15).all (fun t => s.rsCoef n 0 t == s.rsCoef n 0 (14 - t)) && s.rsCoef n 0 15 == 0)

/-- A write of a word of RS_TAB: into the staging copy (R54). -/
def effRsTab (n i : Nat) (v : Word) (s : State) : Out :=
  let s := (s.wr (pLRX n + LRX.RS_TAB + 4 * i) v).setFld (pLRX n) LRX.RS_STAT.TAB_PENDING 1
  .ok (s.modLrx n fun x => { x with written := x.written ||| 2 ^ i })

/-- Receive lane `n` starts (R48, R51, R53, R54, R64): its stages afresh, the DC estimate frozen while LOS is asserted. A staging copy that breaks R54 is loaded as it stands: a host error confined to the lane
(R447), also where the lane starts by itself (DESIGN CHOICE, log entry 100). -/
def State.startRx (s : State) (n : Nat) : State :=
  let b := pLRX n
  let bad := !s.rsTableOk n
  let dflt := s.bit b LRX.RS_CTRL.TAB_DEFAULT
  let tab := if dflt then ([] : Tbl Word) else (List.range 512).map (fun i => (i, s.rsWord n i))
  let s := s.modLrx n fun x =>
    { x with low := 0, pol := s.bit b LRX.LN_CTRL.POL_INV, table := tab, pipe := RxPipe.init, dec := InnerDec.init }
  let s := (s.setFld b LRX.LN_STAT.LOS 1).setFld b LRX.LN_STAT.TR_LOCK 0
  let s := (s.setFld b LRX.LN_STAT.DCB_FROZEN 1).wr (b + LRX.DCB_EST) 0
  let s := ((s.setFreq n 0).setFld b LRX.SNR_EST.SNR 0).wr (b + LRX.FRAME_CNT) 0
  let s := (s.setFld b LRX.RS_STAT.RUN 1).setFld b LRX.RS_STAT.TAB_PENDING 0
  let s := (s.setFld b LRX.RS_STAT.DEFAULT_ACTIVE (if dflt then 1 else 0)).setFld pCLK (bitAt CLK.LOCK0 n) 1
  let s := (s.wr (pPART n + PART.CNT_CELL) 0).wr (pPART n + PART.CNT_SEQ) 0
  (s.setLn n 1).when bad fun s => s.unsettle [b]

/-- Receive lane `n` stops (R36, R73): DOWN, its pending commits discarded and a snapshot of it cancelled. -/
def State.stopRx (s : State) (n : Nat) : State :=
  let b := pLRX n
  let s := s.when (s.lnState n != 0) (fun s => s.setFld b LRX.LN_STAT.LOSS_CAUSE 6)
  let s := ((s.setLn n 0).setFld b LRX.LN_STAT.LOS 1).setFld b LRX.LN_STAT.DCB_FROZEN 0
  let s := (s.setFld b LRX.LN_STAT.TR_LOCK 0).setFld b LRX.SNR_EST.SNR 0
  let s := (s.setFld b LRX.RS_STAT.RUN 0).modLrx n fun x => { x with low := 0 }
  let s := s.when (s.bit (pIFEC n) IFEC.IF_STAT.SNAP_PEND) (fun s => s.latchIfec n)
  ((s.discard b 0x7F).tapStop b).capLaneStop n

/-- What the inner decoder counted over a frame (R177). -/
def State.countFrame (s : State) (n : Nat) (x : FrameStats) : State :=
  let b := pIFEC n
  let fl := b + IFEC.STAT_FLAGS
  let s := s.setLv (b + IFEC.BITS_LO) ((s.lv (b + IFEC.BITS_LO) + x.words * (if s.m400 then 256 else 128)) % 2 ^ 64)
  let s := (s.bump (b + IFEC.CORR_LO) 48 x.corr fl 2).bump (b + IFEC.CW_LO) 48 x.words fl 4
  let s := s.bump (b + IFEC.NCONV_LO) 48 x.nconv fl 8
  let s := (List.range 16).foldl (fun s i => s.bump (b + IFEC.SYMPOS + 4 * i) 32 (x.sympos.getD i 0) fl 32) s
  let s := s.when s.m400 fun s =>
    (List.range 7).foldl (fun s i => s.bump (b + IFEC.CONV + 4 * i) 32 (if i = 6 then x.nconv else x.conv.getD i 0) fl 32) s
  s.when (x.nconv != 0) (fun s => s.raise IFEC.evNCONV n)

/-! ## The samples of a frame (R16, stages 2 to 9) -/

/-- The stages of lane `n` as they stand: values in force, slices of the positions, polarity, table, the DC freeze sampled at the last commit
point (R51), and the loop's hold while LOS is asserted (R53). -/
def State.rxCfg (s : State) (n : Nat) : RxCfg :=
  { m400 := s.m400, inf := fun o => s.inf (pLRX n + o), slice := s.posSlice n, pol := (s.lrxSt n).pol, table := rxTable (s.lrxSt n).table,
    frozen := s.bit (pLRX n) LRX.LN_STAT.DCB_FROZEN, hold := s.bit (pLRX n) LRX.LN_STAT.LOS }

/-- What a frame brought: its samples with the slices of their positions, its symbols with their slicer errors, and its decoding where the
lane has frame lock. -/
structure RxFrame where
  raw : List (Nat × BitVec 8)
  syms : List (RxSym × Rat)
  dec : Option FrameDec

/-- ITER of the port that lane `n` serves (R160). -/
def State.laneIter (s : State) (n : Nat) : Nat := match s.portOfLine n with | some p => (s.portSt p).iter | none => 4

/-- The samples of a frame pass the stages, and in frame lock the inner decoder (R16, R160). -/
def rxFrame (c : RxCfg) (p : RxPipe) (d : InnerDec) (locked : Bool) (iter : Nat) (raw : List (BitVec 8)) : RxPipe × InnerDec × RxFrame :=
  let (p', l) := c.run p raw
  let dec := if locked then some (innerDecode c.m400 iter d (softSyms l)) else none
  (p', (dec.map (·.dec)).getD d,
    { raw := raw.zipIdx.map fun e => (c.slice ((p.taken + e.2) % 16), e.1), syms := l.map fun m => (m, m.y - c.target m.d), dec := dec })

/-- A sample of a point of R255, as a tap delivers it: signed with LSB 1/16 EU. -/
def tapEU (q : Rat) : BitVec 16 := BitVec.ofInt 16 (within (-32768) 32767 (toStep (16 * q)))

/-- What a frame brings to a tap at a point (R255). -/
def RxFrame.tap (f : RxFrame) (point : Nat) : List (BitVec 32) :=
  match point with
  | 0 => f.raw.map fun e => BitVec.ofNat 32 (e.1 * 2 ^ 11 + e.2.toNat)
  | 1 => f.syms.map fun e => (tapEU e.1.x).setWidth 32
  | 2 => f.syms.map fun e => (tapEU e.1.y).setWidth 32
  | 3 => f.syms.map fun e => (tapEU e.2).setWidth 32
  | 4 => f.syms.map fun e => BitVec.ofNat 32 e.1.d
  | _ => f.syms.map fun e => (tapEU e.1.x).setWidth 32 ||| ((tapEU e.2).setWidth 32 <<< 16)

/-- A signed value in a field of a capture byte (R390). -/
def capField (width : Nat) (q : Rat) : Nat := unsx width (within (-(2 ^ (width - 1))) (2 ^ (width - 1) - 1) (toStep q))

/-- Every second element. -/
def everySecond {α : Type} : List α → List α
  | [] => []
  | [a] => [a]
  | a :: _ :: t => a :: everySecond t

/-- The stream of a frame in a recorded content (R390). -/
def RxFrame.stream (f : RxFrame) (content : Nat) (decim : Bool) : List Byte :=
  let syms := if decim then everySecond f.syms else f.syms
  match content with
  | 0 => f.raw.map (·.2)
  | 1 => syms.flatMap fun e => [BitVec.ofNat 8 (capField 8 (e.1.x / 4)), BitVec.ofNat 8 (capField 8 (e.1.y / 4))]
  | 2 => f.syms.map fun e => BitVec.ofNat 8 (capField 6 (e.2 / 2) * 4 + e.1.d)
  | _ => ((f.dec.map (·.syn)).getD []).flatMap fun w => toBytes 4 w.toNat

/-- The digest of a frame (R391). -/
def RxFrame.digest (f : RxFrame) : Word := BitVec.ofNat 32 (match f.dec with | some d => crc32Bits d.info | none => 0)

/-- Words of a frame not converged. -/
def RxFrame.nconv (f : RxFrame) : Nat := match f.dec with | some d => d.stats.nconv | none => 0

/-- The samples of lane `n` since its last commit point pass its stages; its decoder's counts, the DC estimate and the loop's frequency follow, and its
taps take them. -/
def State.rxSamples (s : State) (n : Nat) (raw : List (BitVec 8)) : State × RxFrame :=
  let b := pLRX n
  let x := s.lrxSt n
  let (p, d, f) := rxFrame (s.rxCfg n) x.pipe x.dec (s.fld (pIFEC n) IFEC.IF_STAT.FSTATE == 3) (s.laneIter n) raw
  let s := s.modLrx n fun x => { x with pipe := p, dec := d }
  let s := match f.dec with | some r => s.countFrame n r.stats | none => s
  let s := (s.showFreq n).wr (b + LRX.DCB_EST) (BitVec.ofInt 32 (toStep (256 * p.dc)))
  (s.tapFeed b false f.tap, f)

/-! ## Transmit lanes (R96 to R105) -/

/-- STATE of LTX[n]. -/
def State.txState (s : State) (n : Nat) : Nat := s.fld (pLTX n) LTX.TX_STAT.STATE

/-- LTX[n] takes a state (R99). Its PLL is locked outside OFF; outside BEACON and ACTIVE the interpolator jumps to SKEW_F in force (R97). -/
def State.setTx (s : State) (n st : Nat) : State :=
  let old := s.txState n
  let s := (s.setFld (pLTX n) LTX.TX_STAT.STATE st).setFld pCLK (bitAt CLK.LOCK0 (8 + n)) (if st = 0 then 0 else 1)
  let s := s.when (old == 3 && st != 3) (fun s => ((s.modLtx n fun t => { t with stop := false }).partStop n).raise LTX.evTX_INACTIVE n)
  let s := s.when (st == 3 && old != 3) (fun s => (s.partStart n).raise LTX.evTX_ACTIVE n)
  let s := s.when (st == 2 && old != 2) fun s =>
    s.modLtx n fun t => { t with enc := TxEnc.init, skew := getBits (s.inf (pLTX n + LTX.SKEW_F)) 0 6 }
  s.dawnSettle n

/-- The state in which a transmit lane cannot stay goes over to the one that R99 names. -/
def State.settleTx (s : State) (n : Nat) : State :=
  let st := s.txState n
  let on := (s.portOfLine n).isSome
  let beacon := s.bit (pLTX n) LTX.TX_CTRL.BEACON
  if st ≠ 0 ∧ (!s.refOk ∨ s.inNight) then s.setTx n 0
  else if st = 2 ∧ (on ∨ !beacon ∨ !s.noon) then s.setTx n 1
  else if st = 1 ∧ !on ∧ beacon ∧ s.noon then s.setTx n 2
  else s

/-- TX_PLL_LOCKED (R99): a lane in OFF whose port is enabled, or whose BEACON is 1, enters SQUELCH. -/
def execTxPllLocked (n : Fin 8) (s : State) : R :=
  let n := n.val
  if n < s.lines ∧ s.txState n = 0 ∧ s.canRun ∧ ((s.portOfLine n).isSome ∨ s.bit (pLTX n) LTX.TX_CTRL.BEACON) then
    .next ((s.setTx n 1).settleTx n)
  else .next s

/-- SQ_HOLD_EXPIRY (R99). -/
def execSqHoldExpiry (n : Fin 8) (s : State) : R :=
  if (s.portOfLine n.val).isSome then .next (s.modLtx n.val fun t => { t with sq := true }) else .next s

/-- Transmit lane `n` enters ACTIVE at its port's start boundary (R97, R101, R104): frame 0, with what lane start takes. FRAME_CNT keeps
its value once the lane has left ACTIVE, until the next start (DESIGN CHOICE, log entry 100). -/
def State.startTx (s : State) (n : Nat) : State :=
  let b := pLTX n
  let s := s.modLtx n fun t => { t with stop := false, pol := s.bit b LTX.TX_CTRL.POL_INV, pat := s.fld b LTX.TX_CTRL.PAT,
                                        enc := { TxEnc.init with rdi := s.lnState n != 6 },
                                        skewC := s.fld b LTX.SKEW_C.SYM, skew := getBits (s.inf (b + LTX.SKEW_F)) 0 6 }
  let s := ((s.wr (b + LTX.FRAME_CNT) 0).wr (b + LTX.CLIP_CNT) 0).wr (b + LTX.REM_CNT) 0
  let s := (s.setFld b LTX.REM_STAT.LOCAL_IGNORED 0).setFld pCAL (uf (8 + n) CAL.U_STAT.QUIET_BROKEN) 0
  s.setTx n 3

/-- A commit point of transmit lane `n` (R101, R102, R145): a host or engine commit inside a granted quiet window breaks it. -/
def State.txPoint (s : State) (n late : Nat) : State :=
  let b := pLTX n
  let s' := s.applyCommits b 0x1F late ((s.rd (b + LTX.FRAME_CNT)).toNat % 2 ^ 16)
  let others (s : State) := s.commits.filter fun r => r.page == b && r.src == 0
  let s' := s'.when (s.quietOpen (8 + n) && decide (others s' ≠ others s)) (fun t => t.setFld pCAL (uf (8 + n) CAL.U_STAT.QUIET_BROKEN) 1)
  (s'.calPoint (8 + n)).dawnSettle n

/-- A port's start boundary is reached (R102): it runs in NOON, and every line lane is in SQUELCH with SQ_HOLD elapsed. -/
def State.txReady (s : State) (p : Nat) : Bool :=
  s.portOn p && (s.portSt p).run && s.canRun && (s.portLanes p).all (fun n => s.txState n == 1 && (s.ltxSt n).sq)

/-- TX_FRAME_TIMER_BOUNDARY (R102): a commit point of every lane not ACTIVE (`late` requests of each came too late for it), where a beacon has sent
a frame, and the start boundary of the ports that are ready, which is their lanes' frame 0. -/
def execTxFrameTimerBoundary (late : List Nat) (s : State) : R :=
  if s.refOk then
    let s0 := s
    let start := (List.range 8).filter s.txReady
    let s := s.each (start.flatMap s.portLanes) fun s n => s.wr (pLTX n + LTX.FRAME_CNT) 0
    let s := s.each (List.range s.lines) fun s n =>
      s.when (s.txState n != 3) fun s => (s.when (s.txState n == 2) fun s => s.txSend n).txPoint n (late.getD n 0)
    let s := s.each start fun s p => s.each (s.portLanes p) State.startTx
    .next (watch s0 s)
  else .next s

/-- A write of TX_CTRL (R99, R104): PAT codes 5 to 7 are reserved. -/
def effTxCtrl (n : Nat) (v : Word) (s : State) : Out :=
  if 4 < getBits v 4 3 then hostError [pLTX n] s else .ok ((s.wr (pLTX n + LTX.TX_CTRL) v).settleTx n)

/-- TX_BEACON_SET (R99). -/
def execTxBeaconSet (r : Requester) (n : Fin 8) (s : State) : R :=
  let v := s.rd (pLTX n.val + LTX.TX_CTRL) ||| 0x1
  txn r (pLTX n.val + LTX.TX_CTRL) v (effTxCtrl n.val v) s

/-- TX_BEACON_CLEAR (R99, R114). -/
def execTxBeaconClear (r : Requester) (n : Fin 8) (s : State) : R :=
  let v := s.rd (pLTX n.val + LTX.TX_CTRL) &&& ~~~0x1
  txn r (pLTX n.val + LTX.TX_CTRL) v (effTxCtrl n.val v) s

/-- SKEW_FINE_STEP (R97): in BEACON and ACTIVE the interpolator moves one step towards SKEW_F in force. -/
def execSkewFineStep (n : Fin 8) (s : State) : R :=
  let n := n.val
  if 2 ≤ s.txState n then
    let want := getBits (s.inf (pLTX n + LTX.SKEW_F)) 0 6
    .next (s.modLtx n fun t => { t with skew := if t.skew < want then t.skew + 1 else if want < t.skew then t.skew - 1 else t.skew })
  else .next s

/-- TX_STAT.SKEW_MOVING (R97). -/
def State.skewMoving (s : State) (n : Nat) : Bool :=
  decide (2 ≤ s.txState n) && (s.ltxSt n).skew != getBits (s.inf (pLTX n + LTX.SKEW_F)) 0 6

end Sys2Proof.Machine
end

