-- ==== Sys2Proof/Machine/Capture.lean ====
section
/-! DEFINITION. Capture (R390 to R396): what a commit point of the recorded lane writes to the rings, checkpoints and commit log, and the
commands. -/

namespace Sys2Proof.Machine

/-! ## The configuration (R390, R393) -/

/-- Bytes of a frame in the content and mode (R390). -/
def State.bytesPerFrame (s : State) (content : Nat) : Nat :=
  match content with
  | 0 => if s.m400 then 147456 else 73728
  | 1 => 139392
  | 2 => if s.m400 then 139392 else 69696
  | _ => 4352

/-- KSLOTS, where 0 acts as 1. -/
def kslots (kcfg : Nat) : Nat := max 1 (kcfg % 32)

/-- The regions that the registers name: base and length. -/
def State.capRegions (s : State) : List (Nat × Nat) :=
  let r (o : Nat) := (s.rd (pCAP + o)).toNat
  [(r CAP.DBASE, r CAP.DLEN), (r CAP.IBASE, r CAP.ILEN), (r CAP.KBASE, (kslots (r CAP.KCFG) + 1) * 0x40000), (r CAP.LBASE, r CAP.LLEN)]

/-- A region lies in populated DRAM. -/
def State.inDram (s : State) (a len : Nat) : Bool := decide (0x40000000 ≤ a) && decide (a + len ≤ 0x40000000 + s.dramSize)

/-- The first check of R393 that fails, 0 if none does. -/
def State.capError (s : State) : Nat :=
  let l := s.capRegions
  let c := s.fld pCAP CAP.CP_CTRL.CONTENT
  let n := s.fld pCAP CAP.CP_CTRL.LANE
  let apart (x y : Nat × Nat) : Bool := decide (x.1 + x.2 ≤ y.1) || decide (y.1 + y.2 ≤ x.1)
  if !(l.all fun x => x.1 % 0x4000 == 0 && x.2 % 0x4000 == 0 && s.inDram x.1 x.2) then 1
  else if !((List.range 4).all fun i => (List.range i).all fun j => apart (l.getD i (0, 0)) (l.getD j (0, 0))) then 2
  else if !(l.all fun x => x.2 == 0 || (List.range (s.granules)).all fun g =>
      decide (0x40000000 + 0x100000 * (g + 1) ≤ x.1) || decide (x.1 + x.2 ≤ 0x40000000 + 0x100000 * g) || s.initBit g) then 3
  else if c = 1 ∧ s.bit pCAP CAP.CP_CTRL.DECIM ≠ s.m400 then 4
  else if s.lines ≤ n ∨ s.lnState n = 0 then 5
  else if (s.rd (pCAP + CAP.ILEN)).toNat / 32 < (s.rd (pCAP + CAP.DLEN)).toNat / s.bytesPerFrame c then 6
  else if s.fld pRPL RPL.RP_STAT.STATE = 1 ∨ s.fld pRPL RPL.RP_STAT.STATE = 2 then 7
  else 0

/-! ## Writing the regions -/

/-- Whole code words from a DRAM address up, wrapping at a ring's end. -/
def State.ringPut (s : State) (base len ofs : Nat) (l : List Byte) : State :=
  if len = 0 then s else
    (List.range (l.length / 32)).foldl (fun s i =>
      s.writeWord 0 ((base + (ofs + 32 * i) % len - 0x40000000) / 32) (ofBytes ((l.drop (32 * i)).take 32))) s

/-- Frames that the data ring holds at most. -/
def State.capRoom (s : State) : Nat := s.capCfg CAP.DLEN / max 1 (s.capCfg 0x1000)

/-- Address of index record `k`. -/
def State.recAddr (s : State) (k : Nat) : Nat := s.capCfg CAP.IBASE + 32 * (k % max 1 (s.capCfg CAP.ILEN / 32))

/-- A word of index record `k` of the recording. -/
def State.recWord (s : State) (k w : Nat) : Nat := (s.number (s.recAddr k + 4 * w) 4).getD 0

/-- The first index record that the data ring holds. -/
def State.firstRec (s : State) : Nat := s.cap.frames - min s.cap.frames s.capRoom

/-- The bytes of an index record (R391). -/
def recBytes (frame : Nat) (ns : Word) (w2 : Nat) (digest : Word) (w4 w5 : Nat) : List Byte :=
  toBytes 4 frame ++ toBytes 4 ns.toNat ++ toBytes 4 w2 ++ toBytes 4 digest.toNat ++ toBytes 4 w4 ++ toBytes 4 w5 ++ List.replicate 8 0

/-- The frame in progress ends: its data and its index record are written (R390, R391). -/
def State.capClose (s : State) (r : CapRec) (f : RxFrame) : State :=
  let bytes := s.capCfg 0x1000
  let n := s.capLane
  let ctrl := s.capCfg CAP.CP_CTRL
  let data := f.stream (ctrl / 16 % 4) (ctrl.testBit 8)
  let s := s.ringPut (s.capCfg CAP.DBASE) (s.capCfg CAP.DLEN) r.ofs ((data ++ List.replicate bytes 0).take bytes)
  let valid := r.w2.testBit 20 && s.fld (pIFEC n) IFEC.IF_STAT.FSTATE == 3
  let w2 := r.w2 + (if valid then 2 ^ 21 else 0)
  let w5 := min f.nconv 0xFFFF + min s.cap.uncorr 0xFFFF * 2 ^ 16
  let k := s.cap.frames
  let s := s.ringPut (s.recAddr k) 32 0 (recBytes r.frame r.ns w2 (if valid then f.digest else 0) r.ofs w5)
  let s := { s with cap := { s.cap with cur := none, frames := k + 1, uncorr := 0, post := s.cap.post + 1,
                                        dofs := (r.ofs + bytes) % max 1 (s.capCfg CAP.DLEN) } }
  let s := s.wr (pCAP + CAP.NEWEST_FRAME) (BitVec.ofNat 32 r.frame)
  let s := s.wr (pCAP + CAP.OLDEST_FRAME) (BitVec.ofNat 32 (s.recWord s.firstRec 0))
  let held : Bool := match s.cap.gapAt with | some g => decide (s.firstRec ≤ g) | none => false
  s.setFld pCAP CAP.CP_STAT.GAP (if held then 1 else 0)

/-- A checkpoint goes to a slot (R395): the lane's state, the rest of the slot 0. The bytes within each item of R395 are not laid out
by the spec and come with the frame. -/
def State.capCkpt (s : State) (slot frame : Nat) (cf : CapFrame) : State :=
  let size := 203952 + (if (s.capCfg CAP.CP_CTRL).testBit 24 then 16384 else 0)
  let l := (cf.state ++ List.replicate size 0).take size ++ List.replicate (0x40000 - size) 0
  let s := s.ringPut (s.capCfg CAP.KBASE + 0x40000 * slot) 0x40000 0 l
  let page := pLRX s.capLane
  let regs := (s.inForce.filter (fun e => decide (page ≤ e.1) && decide (e.1 < page + 0x1000))).map (fun e => (e.1 - page, e.2))
  let n := s.capLane
  let x := s.lrxSt n
  let c : Ckpt :=
    { slot := slot, frame := frame, step := (s.rd (pID + ID.STEP)).toNat % 2 ^ 16, inForce := regs, pol := x.pol, table := x.table,
      map := (List.range 16).map (s.posSlice n), frozen := s.bit page LRX.LN_STAT.DCB_FROZEN, iter := s.laneIter n,
      locked := s.fld (pIFEC n) IFEC.IF_STAT.FSTATE == 3, pipe := x.pipe, dec := x.dec }
  { s with cap := { s.cap with ckpts := c :: s.cap.ckpts.filter (fun x => x.slot != slot) } }

/-- The data ring still holds a frame (R617: frame counts modulo 2^32). -/
def State.ringHolds (s : State) (frame : Nat) : Bool :=
  let o := (s.rd (pCAP + CAP.OLDEST_FRAME)).toNat
  decide (0 < s.cap.frames) &&
    decide ((frame + 2 ^ 32 - o) % 2 ^ 32 ≤ ((s.rd (pCAP + CAP.NEWEST_FRAME)).toNat + 2 ^ 32 - o) % 2 ^ 32)

/-- LOG_LOST sets (R396). -/
def State.logGone (s : State) : State :=
  if s.bit pCAP CAP.CP_STAT.LOG_LOST then s else (s.setFld pCAP CAP.CP_STAT.LOG_LOST 1).raise CAP.evLOG_LOST 0

/-- One entry of the commit log (R396), in its half of a code word. -/
def State.capLog (s : State) (frame kind ofs : Nat) (v : Word) : State :=
  let room := s.capCfg CAP.LLEN / 16
  if room = 0 then s.logGone else
    let a := s.capCfg CAP.LBASE + 16 * (s.cap.logs % room)
    let lost := decide (room ≤ s.cap.logs) && s.ringHolds ((s.number a 4).getD 0)
    let s := s.when lost State.logGone
    let b := a / 32 * 32
    let e := ofBytes (toBytes 4 frame ++ toBytes 4 (kind * 2 ^ 12 + ofs) ++ toBytes 4 v.toNat ++ toBytes 4 0)
    let other := (s.number (b + 16 - (a - b)) 16).getD 0
    let w := if a = b then e + other * 2 ^ 128 else other + e * 2 ^ 128
    let s := s.writeWord 0 ((b - 0x40000000) / 32) w
    { s with cap := { s.cap with logs := s.cap.logs + 1 } }

/-- The entries that a commit point adds (R396): registers in force, slice maps and the DC-freeze state that differ from before it. -/
def capChanges (s0 s : State) (n : Nat) : List (Nat × Nat × Word) :=
  let page := pLRX n
  let ba := ((groupsIn 0x7F).flatMap (groupAddrs page)).filterMap
    (fun a => if s0.inf a = s.inf a then none else some (0, a - page, s.inf a))
  let map := if s0.rd (mapBase n) = s.rd (mapBase n) then [] else [(1, 0, s.rd (mapBase n))]
  let pos := (List.range 3).filterMap
    (fun m => let a := mapBase n + 4 + 4 * m; if s0.rd a = s.rd a then none else some (2, m, s.rd a))
  let f (s : State) := s.fld page LRX.LN_STAT.DCB_FROZEN
  ba ++ map ++ pos ++ (if f s0 = f s then [] else [(3, 0, BitVec.ofNat 32 (f s))])

/-- The trigger at frame T (R394). -/
def State.capFire (s : State) (frame causes : Nat) : State :=
  let s := (s.setFld pCAP CAP.CP_STAT.STATE 3).wr (pCAP + CAP.TRIG_INFO) (BitVec.ofNat 32 causes)
  let s := (s.wr (pCAP + CAP.TRIG_FRAME) (BitVec.ofNat 32 frame)).wr (pCAP + CAP.TRIG_NS) (stampNs s.time.now)
  let s := s.wr (pCAP + CAP.TRIG_WRAPS) (BitVec.ofNat 32 (stampWraps s.time.now))
  { s with cap := { s.cap with post := 0 } }.raise CAP.evTRIGGERED 0

/-- A commit point of lane `n` as capture sees it (R391 to R396, R405): `s0` is the state before it, `f` the frame that ends. -/
def State.capPoint (s : State) (s0 : State) (n : Nat) (cf : CapFrame) (f : RxFrame) : State :=
  if !s.capRuns ∨ s.capLane ≠ n then s
  else if s.capPause ≠ 0 then
    let s := s.capForget
    { s with cap := { s.cap with cur := none, gap := s.cap.gap || !s.cap.start } }
  else
    let fresh := s.cap.start
    let s := if fresh then
        { s with cap := { s.cap with start := false, cur := none, frames := 0, dofs := 0, logs := 0, gap := false, gapAt := none, post := 0,
                                     uncorr := 0, ckpts := [] } }
      else match s.cap.cur with
        | some r => s.capClose r f
        | none => s
    if s.capState = 3 ∧ s.fld pCAP CAP.POST.FRAMES ≤ s.cap.post then s
    else
      let frame := (s.rd (pLRX n + LRX.FRAME_CNT)).toNat
      let causes := s.cap.trig - (s.cap.trig &&& cf.late.toNat)
      let fires := s.capState == 2 && causes != 0
      let s := s.when fires fun s => { s with cap := { s.cap with trig := s.cap.trig &&& cf.late.toNat } }.capFire frame causes
      let k := s.capCfg CAP.KCFG
      let kint := k / 2 ^ 16 % 16
      let due := fresh || frame % 2 ^ kint == 0
      let s := s.when due fun s => s.capCkpt (frame / 2 ^ kint % kslots k) frame cf
      let s := s.when fires fun s => s.capCkpt (kslots k) frame cf
      let ch := if fresh then [] else capChanges s0 s n
      let s := ch.foldl (fun s e => s.capLog frame e.1 e.2.1 e.2.2) s
      let gap := s.cap.gap
      let s := s.when gap fun s => (s.addSat pCAP CAP.CNT.GAPS 1).raise CAP.evCAP_GAP 0
      let b (c : Bool) (i : Nat) := if c then 2 ^ i else 0
      let w2 := stampWraps s.time.now + b gap 16 + b (!ch.isEmpty) 17 + b fires 18 + b (due || fires) 19
        + b (s.fld (pIFEC n) IFEC.IF_STAT.FSTATE == 3) 20
      { s with cap := { s.cap with cur := some ⟨frame, stampNs s.time.now, w2, s.cap.dofs⟩, gap := false,
                                   gapAt := if gap then some s.cap.frames else s.cap.gapAt } }

/-! ## Commands (R392 to R394) -/

/-- ROLL (1) or ARM (2) (R392, R393). -/
def State.capGo (s : State) (st : Nat) : State :=
  let now := s.capState
  if now = 3 ∨ now = 5 ∨ !s.enabled pCAP then s
  else
    let e := s.capError
    if e ≠ 0 then s.setFld pCAP CAP.CP_STAT.CFG_ERR e
    else if now = 1 ∨ now = 2 then
      let s := s.when (st == 1) State.capForget
      (s.setFld pCAP CAP.CP_STAT.STATE st).setFld pCAP CAP.CP_STAT.CFG_ERR 0
    else
      let offs := [CAP.CP_CTRL, CAP.DBASE, CAP.DLEN, CAP.IBASE, CAP.ILEN, CAP.KBASE, CAP.KCFG, CAP.LBASE, CAP.LLEN]
      let bytes := s.bytesPerFrame (s.fld pCAP CAP.CP_CTRL.CONTENT)
      let cfg : Tbl Word := offs.map (fun o => (o, s.rd (pCAP + o))) ++ [(0x1000, BitVec.ofNat 32 bytes)]
      let s := { s with cap := { s.cap with start := true, cfg := cfg, cur := none, trig := 0 } }
      (s.wr (pCAP + CAP.CP_STAT) (BitVec.ofNat 32 st)).wr (pCAP + CAP.CNT) 0

/-- STOP (R392). -/
def State.capStop (s : State) : State := if s.capRuns then s.capHold (s.capState == 3) else s

/-- A write of CP_CMD: its bits act in their order (log entry 27). -/
def effCpCmd (v : Word) (s : State) : Out :=
  let s := s.when (v.getLsbD 0) fun s => s.capGo 1
  let s := s.when (v.getLsbD 1) fun s => s.capGo 2
  let s := s.when (v.getLsbD 2) fun s => s.capTrig s.capLane 3
  let s := s.when (v.getLsbD 3) State.capStop
  .ok (s.when (v.getLsbD 4 && s.capState == 4) fun s => s.setFld pCAP CAP.CP_STAT.STATE 0)

/-- A write of KCFG (R407): KINT codes other than 6 to 14 are reserved. -/
def effKcfg (v : Word) (s : State) : Out :=
  if getBits v 16 4 < 6 ∨ 14 < getBits v 16 4 then hostError [pCAP] s else .ok (s.wr (pCAP + CAP.KCFG) v)

/-- CAPTURE_ROLL (R392, R393). -/
def execCaptureRoll (r : Requester) (s : State) : R := txn r (pCAP + CAP.CP_CMD) 0x01 (effCpCmd 0x01) s
/-- CAPTURE_ARM (R392, R393). -/
def execCaptureArm (r : Requester) (s : State) : R := txn r (pCAP + CAP.CP_CMD) 0x02 (effCpCmd 0x02) s
/-- CAPTURE_SW_TRIGGER (R394). -/
def execCaptureSwTrigger (r : Requester) (s : State) : R := txn r (pCAP + CAP.CP_CMD) 0x04 (effCpCmd 0x04) s
/-- CAPTURE_STOP (R392). -/
def execCaptureStop (r : Requester) (s : State) : R := txn r (pCAP + CAP.CP_CMD) 0x08 (effCpCmd 0x08) s
/-- CAPTURE_RELEASE (R392). -/
def execCaptureRelease (r : Requester) (s : State) : R := txn r (pCAP + CAP.CP_CMD) 0x10 (effCpCmd 0x10) s

/-- TRIG_IN_PULSE (R394). -/
def execTrigInPulse (s : State) : R := .next (s.capTrig s.capLane 4)

/-- CAPTURE_POST_COMPLETE (R392). -/
def execCapturePostComplete (s : State) : R :=
  if s.capState = 3 ∧ s.fld pCAP CAP.POST.FRAMES ≤ s.cap.post then .next (s.capHold false) else .next s

/-- Capture leaves the draining that its page's disable began (R392, R438). -/
def execCaptureDrainDone (s : State) : R :=
  if s.capState = 5 then
    let s := s.setFld pCAP CAP.CP_STAT.STATE 0
    .next (s.setFld pCAP HDR.FSTATE (if s.bit pCAP HDR.ENABLE then 1 else 0))
  else .next s

end Sys2Proof.Machine
end

