-- ==== Sys2Proof/Machine/HostPath.lean ====
section
/-! DEFINITION. What a host transmitter sends of a code word toward the host (R171, R203, R206, R208, R222): its share of the word as PAM4 levels, or the
test pattern in its place, through the 5-tap FIR. The share is IEEE 802.3's and free; levels are Gray-coded as on the line (log entry 96). -/

namespace Sys2Proof.Machine

/-- The tap k of a host lane's FIR in force, in units of 1/128. -/
def State.hostTap (s : State) (m k : Nat) : Int := sx 9 (getBits (s.inf (pHSL m + HSL.TX_FIR + 4 * k)) 0 9)

/-- s(n) of a level index (R206), inverted as the lane's polarity asks (R203); 0 before the first symbol. -/
def hostLevel (inv : Bool) (a : Option Nat) : Int :=
  match a with
  | some a => let v := 2 * (a : Int) - 3; if inv then -v else v
  | none => 0

/-- The FIR's output over the levels of symbols n − 2 to n + 2 (R206), saturated at the full scale of levels ±3 (R208). -/
def hostFir (tap : Nat → Int) (inv : Bool) (w : List (Option Nat)) : Rat :=
  let v : Rat := (((List.range 5).map fun k => tap k * hostLevel inv (w.getD (4 - k) none)).sum : Int) / 128
  max (-3) (min 3 v)

/-- A function over every window of five elements. -/
def windows5 {α β : Type} (f : List α → β) : List α → List β
  | [] => []
  | a :: t => if t.length < 4 then [] else f (a :: t.take 4) :: windows5 f t

/-- The level indices that host lane `m`, the `i`-th of `k`, sends of a code word. -/
def State.hostShare (s : State) (m i k : Nat) (word : List (BitVec 10)) : List Nat :=
  let x := s.hslSt m
  let share := symbolsOf ((word.zipIdx.filter fun e => Config.hostLane k e.2 % k == i).flatMap fun e => rsBits e.1)
  if x.txPat = 0 then share else (List.range share.length).map fun j => patLevel x.txPat (x.syms + j)

/-- Host lane `m` sends its share of a code word. -/
def State.hostSend (s : State) (m i k : Nat) (word : List (BitVec 10)) : State :=
  let x := s.hslSt m
  let levels := s.hostShare m i k word
  let all := x.past ++ levels
  let out := windows5 (hostFir (s.hostTap m) x.txPol) (padFront (levels.length + 4) none (all.map some))
  s.modHsl m fun x => { x with syms := x.syms + levels.length, past := lastN 4 all, out := out }

/-- A code word goes out on the host transmitters of port `p` that are ACTIVE. -/
def State.sendHost (s : State) (p : Nat) (word : List (BitVec 10)) : State :=
  let s := s.modPort p fun x => { x with toHost := word }
  let l := s.portHosts p
  s.each (List.range s.hosts) fun s m =>
    match l.idxOf? (s.fld (pHSL m) HSL.LANE_CFG.TX_LOG) with
    | some i => s.when (s.fld (pHSL m) HSL.TX_STAT.STATE == 2) fun s => s.hostSend m i l.length word
    | none => s

end Sys2Proof.Machine
end

