-- ==== Sys2Proof/Machine/Fec.lean ====
section
/-! DEFINITION. Frame lock and received headers (R161 to R165, R624), the commit points of receive lanes, outer code words (R173 to
R179) and port frame boundaries (R169 to R172). -/

namespace Sys2Proof.Machine

/-- A received alignment word matches (R162). -/
def State.fawOk (s : State) (n : Nat) (faw : BitVec 64) : Bool :=
  decide (ones 64 (faw.toNat ^^^ faw0) ≤ s.fld (pIFEC n) IFEC.IF_CTRL.FAW_ERR)

/-- Frame state of lane `n` (R162). -/
def State.ifState (s : State) (n : Nat) : Nat := s.fld (pIFEC n) IFEC.IF_STAT.FSTATE

/-- One alignment indication of lane `n` (R162, R165): a miss in CONFIRM returns to HUNT, LOSS_N misses in LOCK are the frame loss of
R66. -/
def State.alignment (s : State) (n : Nat) (hit : Bool) : State :=
  match s.ifState n with
  | 2 =>
    if hit then s.modIfec n fun x => { x with hits := x.hits + 1 }
    else (s.setFld (pIFEC n) IFEC.IF_STAT.FSTATE 1).modIfec n fun x => { x with hits := 0 }
  | 3 =>
    if hit then s.modIfec n fun x => { x with miss := 0 }
    else if (s.ifecSt n).miss + 1 < max 1 (s.fld (pIFEC n) IFEC.IF_CTRL.LOSS_N) then
      s.modIfec n fun x => { x with miss := x.miss + 1 }
    else if s.lnState n = 6 then s.laneLoss n 4 4
    else s.frameLoss n 1
  | _ => s

/-- A header that passed its CRC (R163, R190): its fields, and RDI's changes. -/
def State.goodHeader (s : State) (n : Nat) (f : BitVec 32) : State :=
  let b := pIFEC n
  let rdi := f.getLsbD 10
  let was := s.bit b IFEC.IF_STAT.FAR_RDI
  let s := (s.setFld b IFEC.IF_STAT.RX_FRAME (f.toNat / 2 ^ 16)).setFld b IFEC.IF_STAT.FAR_LANE (f.toNat / 2 ^ 13)
  let s := (s.setFld b IFEC.IF_STAT.FAR_SIZE (f.toNat / 2 ^ 11)).setFld b IFEC.IF_STAT.FAR_RDI (if rdi then 1 else 0)
  let s := s.modIfec n fun x => { x with hdr := true }
  let s := s.when (rdi && !was) (fun s => s.raise IFEC.evFAR_RDI_ON n)
  s.when (was && !rdi) (fun s => s.raise IFEC.evFAR_RDI_OFF n)

/-- MARL_HEADER_RECEIVE (R161 to R163): the alignment word at the expected place, bits 64 to 95 of the header and the CRC. The
partner-channel bits join the cell being assembled; those of a header whose CRC fails are missing (R285). -/
def execMarlHeaderReceive (n : Fin 8) (faw : BitVec 64) (fields : BitVec 32) (crc : BitVec 16) (s : State) : R :=
  let n := n.val
  if s.m400 ∧ 2 ≤ s.ifState n then
    let s0 := s
    let s := s.alignment n (s.fawOk n faw)
    if s.ifState n = 3 then
      let good : Bool := crc16 32 fields.toNat == crc.toNat
      let h := if good then some (fields.toNat / 2 ^ 16, fields.toNat / 2 ^ 4 % 16) else none
      let s := s.modPart n fun x => { x with asm := x.asm.header s.time.now h }
      if good then .next (watch s0 (s.goodHeader n fields))
      else .next (watch s0 ((s.bumpSat (pIFEC n + IFEC.HDR_ERR) 1).raise IFEC.evHDR_CRC n))
    else .next (watch s0 s)
  else .next s

/-- FAW_MATCH (R162, R165): a candidate is found in HUNT; in M200 by the standard's procedure, whatever the word. -/
def execFawMatch (n : Fin 8) (faw : BitVec 64) (s : State) : R :=
  if s.ifState n.val = 1 ∧ (s.fawOk n.val faw ∨ !s.m400) then
    .next ((s.setFld (pIFEC n.val) IFEC.IF_STAT.FSTATE 2).modIfec n.val fun x => { x with hits := 0, miss := 0 })
  else .next s

/-- FRAME_QUAL_EXPIRY (R61, R64, R162): frame lock; the lane enters LOCKED, and the realignment instant is a commit point. `raw` are the samples since
the last one. The inner decoder begins without history; where its next unit stands among the 12 branches is free (log entry 94). -/
def execFrameQualExpiry (n : Fin 8) (late : Nat) (raw : List (BitVec 8)) (cf : CapFrame) (s : State) : R :=
  let n := n.val
  if s.ifState n = 2 ∧ 3 ≤ (s.ifecSt n).hits ∧ s.lnState n = 5 then
    let s0 := s
    let (s, f) := s.rxSamples n raw
    let (v, s) := s.fresh
    let s := s.modLrx n fun x => { x with dec := { InnerDec.init with unit := 4 * (v % 3) } }
    let s := (s.setFld (pIFEC n) IFEC.IF_STAT.FSTATE 3).setFld (pIFEC n) IFEC.IF_STAT.FRAME_LOCK 1
    let s := (s.setFld (pLRX n) LRX.LN_STAT.FRAME_LOCK 1).modIfec n fun x => { x with miss := 0, hdr := false }
    let s := s.modPart n fun x => { x with first := true, asm := Assembly.init }
    let s := (s.raise IFEC.evFRAME_LOCK n).setLn n 6
    .next (watch s0 ((s.rxPoint n late).capPoint s n cf f))
  else .next s

/-- LINE_RX_COMMIT_POINT (R61): an inner-frame boundary of a running receive lane. `raw` are the ADC codes of the frame that ends, from the sample index H of
the last commit point (R125) to that of this one; in M200 they give the standard's alignment indication too (R165). `late` requests came too late for this
point (R32). -/
def execLineRxCommitPoint (n : Fin 8) (late : Nat) (raw : List (BitVec 8)) (cf : CapFrame) (s : State) : R :=
  let n := n.val
  if s.lnState n ≠ 0 then
    let s0 := s
    let (s, f) := s.rxSamples n raw
    let s := s.when (!s.m400) (fun s => s.alignment n (Config.ieeeAligned (f.syms.map fun e => e.1.d)))
    .next (watch s0 ((s.rxPoint n late).capPoint s n cf f))
  else .next s

/-! ## Outer code words (R173 to R179) -/

/-- A received code word with the given symbols in error, at most 15 (R173, R177). -/
def State.correctable (s : State) (p : Nat) (errs : List (Fin 544 × Fin 1024)) : State :=
  let b := pOFEC p
  let fl := b + OFEC.STAT_FLAGS
  let i := errs.length
  let s := s.bump (b + OFEC.HIST_LO + 8 * i) 48 1 fl (2 ^ i)
  let s := s.bump (b + OFEC.SYM_CORR_LO) 48 i fl 0x20000
  let s := s.bump (b + OFEC.BIT_CORR_LO) 48 ((errs.map (fun e => ones 10 e.2.val)).foldl (· + ·) 0) fl 0x40000
  let s := s.modPort p fun x => { x with degSym := x.degSym + i }
  let s := s.when (!s.bit b OFEC.OF_STAT.DEG_SER && decide ((s.portSt p).degCfg.2.1 < (s.portSt p).degSym)) fun s =>
    (s.setFld b OFEC.OF_STAT.DEG_SER 1).raise OFEC.evDEG_SER_ON p
  errs.foldl (fun s e =>
    let n := s.rsLane p e.1.val
    s.bump (pIFEC n + IFEC.RS_SYM_LO) 48 1 (pIFEC n + IFEC.STAT_FLAGS) 16) s

/-- A received code word that the decoder cannot correct (R174, R179): counted and time-stamped. -/
def State.uncorrectable (s : State) (p : Nat) : State :=
  let b := pOFEC p
  let s := s.bump (b + OFEC.UNCORR_LO) 48 1 (b + OFEC.STAT_FLAGS) 0x80000
  let t := s.time.now / 2 ^ 32 % 2 ^ 48 + 2 ^ 63
  let s := s.when (s.lv (b + OFEC.TSF_NS) == 0) (fun s => s.setLv (b + OFEC.TSF_NS) t)
  let s := (s.setLv (b + OFEC.TSL_NS) t).raise OFEC.evUNCORR p
  s.when (s.portOfLine s.capLane == some p) fun s => { s with cap := { s.cap with uncorr := s.cap.uncorr + 1 } }.capTrig s.capLane 0

/-- PSTAT[p]'s field. -/
def psf (p : Nat) (f : Fld) : Fld := fldAt f (4 * p)

/-- The receive decoder of port `p` takes code words: aligned to them, or in the frame in which the port goes DOWN (R175, R186). -/
def State.takesWords (s : State) (p : Nat) : Bool :=
  s.portOn p && (s.bit (pOFEC p) OFEC.OF_STAT.RX_CW_LOCK || ((s.portSt p).run && !s.bit pPORT (psf p PORT.PSTAT.LF_HOST)))

/-- A received code word with the decoder's verdict (R173 to R177): counted, and sent on toward the host where line data is (R171). -/
def State.rxWord (s : State) (p : Nat) (word : List (BitVec 10)) (errs : Option (List (Fin 544 × Fin 1024))) : State :=
  let s := s.bump (pOFEC p + OFEC.CW_TOTAL_LO) 48 1 (pOFEC p + OFEC.STAT_FLAGS) 0x10000
  let s := s.modPort p fun x => { x with degCw := x.degCw + 1 }
  let s := match errs with | some l => s.correctable p l | none => s.uncorrectable p
  let out := rsForward (s.bit (pOFEC p) OFEC.OF_STAT.RX_MODE_ACT) word errs
  s.when (!s.bit pPORT (psf p PORT.PSTAT.LF_HOST)) fun s => s.sendHost p out

/-- OUTER_CODEWORD_RX (R166, R173, R174, R177): the next code word of the port's lanes, with the symbols in error and their error patterns; none where the
decoder cannot correct. -/
def execOuterCodewordRx (p : Fin 8) (errs : Option (List (Fin 544 × Fin 1024))) (s : State) : R :=
  if s.takesWords p.val ∧ verdictOk errs then
    match s.fromLanes p.val with
    | some (word, s) => .next (s.rxWord p.val word errs)
    | none => .next s
  else .next s

/-- OUTER_CODEWORD_TX (R166, R172 to R174, R177): a code word from the host side, with the decoder's verdict. -/
def execOuterCodewordTx (p : Fin 8) (word : List (BitVec 10)) (errs : Option (List (Fin 544 × Fin 1024))) (s : State) : R :=
  let p := p.val
  let b := pOFEC p
  if s.portOn p ∧ s.bit b OFEC.OF_STAT.TX_CW_LOCK ∧ verdictOk errs ∧ word.length = 544 then
    let s := match errs with
      | some l => s.bump (b + OFEC.TX_SYM_LO) 48 l.length (b + OFEC.STAT_FLAGS) 0x100000
      | none => (s.bumpSat (b + OFEC.TX_UNCORR) 1).raise OFEC.evTX_UNCORR p
    let out := rsForward (s.bit b OFEC.OF_STAT.TX_MODE_ACT) word errs
    .next (s.when (!s.bit pPORT (psf p PORT.PSTAT.LF_LINE)) fun s => s.toLine p out)
  else .next s

/-- The parameters that a degrade interval begins with (R176, R192); DEG_INT 0 acts as 1. -/
def State.degLoad (s : State) (p : Nat) : State :=
  let r (o : Nat) := (s.rd (pOFEC p + o)).toNat
  s.modPort p fun x => { x with degSym := 0, degCw := 0, degCfg := (max 1 (r OFEC.DEG_INT % 2 ^ 16), r OFEC.DEG_ACT, r OFEC.DEG_DEACT) }

/-- DEG_INTERVAL_END (R176): the interval's code words have been received. -/
def execDegIntervalEnd (p : Fin 8) (s : State) : R :=
  let p := p.val
  let x := s.portSt p
  if x.run ∧ 8192 * x.degCfg.1 ≤ x.degCw then
    let clears := s.bit (pOFEC p) OFEC.OF_STAT.DEG_SER && decide (x.degSym ≤ x.degCfg.2.2)
    .next ((s.degLoad p).when clears fun s => (s.setFld (pOFEC p) OFEC.OF_STAT.DEG_SER 0).raise OFEC.evDEG_SER_OFF p)
  else .next s

/-! ## Port frame boundaries (R169 to R172) -/

/-- A header of a LOCKED lane of port `p` does not fit (R169): SIZE differs, or the LANE numbers are not consecutive from a multiple of
k in the order of the local lanes. -/
def State.mismatch (s : State) (p : Nat) : Bool :=
  let k := s.portK p
  let seen := (s.portLanes p).filter (fun n => s.locked n && (s.ifecSt n).hdr)
  let lane (n : Nat) := s.fld (pIFEC n) IFEC.IF_STAT.FAR_LANE
  s.m400 && (seen.any (fun n => s.fld (pIFEC n) IFEC.IF_STAT.FAR_SIZE != s.fld pPORT (fldAt PORT.PCFG.SIZE (4 * p)))
    || seen.any (fun n => lane n % k != n - p)
    || seen.any (fun n => seen.any (fun m => lane n / k != lane m / k)))

/-- SKEW_ERR or MISMATCH sets, with SKEW_FAULT (R169, R198). -/
def State.portFlag (s : State) (p : Nat) (f : Fld) : State :=
  if s.bit pPORT (psf p f) then s else (s.setFld pPORT (psf p f) 1).raise (evAt PORT.evSKEW_FAULT p) 0

/-- The lanes of port `p` stand at equal FRAME fields (R169). In M200 the alignment markers are the standard's. -/
def State.framesEqual (s : State) (p : Nat) : Bool :=
  !s.m400 || (s.portLanes p).all fun n => (s.ifecSt n).hdr && s.fld (pIFEC n) IFEC.IF_STAT.RX_FRAME == s.fld (pIFEC p) IFEC.IF_STAT.RX_FRAME

/-- Port `p` is deskewed: from here on its lanes' decoded streams begin at one frame (R166, R169, R175). -/
def State.aligns (s : State) (p : Nat) : State :=
  if s.bit pPORT (psf p PORT.PSTAT.DESKEWED) then s.cwLock p OFEC.OF_STAT.RX_CW_LOCK true
  else
    let s := s.each (s.portLanes p) fun s n => s.modLrx n fun x => { x with dec := { x.dec with bits := [], begun := false } }
    (s.setFld pPORT (psf p PORT.PSTAT.DESKEWED) 1).cwLock p OFEC.OF_STAT.RX_CW_LOCK true

/-- The deskew of port `p` at a frame boundary (R169, R175): `skew` in tenths of a nanosecond, `lane` the latest lane. -/
def State.deskew (s : State) (p skew lane : Nat) : State :=
  let all := s.allLocked p
  let s := s.when all fun s => (s.setFld pPORT (fldAt PORT.PSKEW.SKEW (4 * p)) (min skew 0xFFFF)).setFld pPORT (fldAt PORT.PSKEW.LATE (4 * p)) lane
  let s := if all then
      if 1600 < skew then (s.portFlag p PORT.PSTAT.SKEW_ERR).modPort p fun x => { x with skewOk := 0 }
      else if 15 ≤ (s.portSt p).skewOk then s.setFld pPORT (psf p PORT.PSTAT.SKEW_ERR) 0
      else s.modPort p fun x => { x with skewOk := x.skewOk + 1 }
    else s
  let s := if s.mismatch p then (s.portFlag p PORT.PSTAT.MISMATCH).modPort p fun x => { x with misOk := 0 }
    else if !all then s
    else if 15 ≤ (s.portSt p).misOk then s.setFld pPORT (psf p PORT.PSTAT.MISMATCH) 0
    else s.modPort p fun x => { x with misOk := x.misOk + 1 }
  let bad := s.bit pPORT (psf p PORT.PSTAT.SKEW_ERR) || s.bit pPORT (psf p PORT.PSTAT.MISMATCH)
  let ready := all && !bad && (s.bit pPORT (psf p PORT.PSTAT.DESKEWED) || s.framesEqual p)
  if bad then (s.setFld pPORT (psf p PORT.PSTAT.DESKEWED) 0).cwLock p OFEC.OF_STAT.RX_CW_LOCK false
  else s.when ready fun s => s.aligns p

/-- The host gets Local Fault (R171). -/
def State.faultToHost (s : State) (p : Nat) : State := s.sendHost p (Config.faultHost (s.portK p) (48 * s.portK p * (s.portSt p).frames))

/-- The fills that change at a port frame boundary (R171, R172): LF_HOST while the port is not UP, when the host gets Local Fault; LF_LINE until the
second boundary after HOST_UP has set. -/
def State.portFills (s : State) (p : Nat) : State :=
  let s := s.setFld pPORT (psf p PORT.PSTAT.LF_HOST) (if s.portState p = 2 then 0 else 1)
  let up := s.bit pPORT (psf p PORT.PSTAT.HOST_UP)
  let age := if up then min 2 ((s.portSt p).hostAge + 1) else 0
  let s := s.setFld pPORT (psf p PORT.PSTAT.LF_LINE) (if age = 2 then 0 else 1)
  let s := s.modPort p fun x => { x with hostAge := age }
  s.when (s.portState p != 2) fun s => s.faultToHost p

end Sys2Proof.Machine
end

