-- ==== Sys2Proof/Machine/Hsl.lean ====
section
/-! DEFINITION. Host lanes (R199 to R229): transmit and receive states, losses, commit points, the port's deskew, compensation, test
patterns and host-side stamps (R332, R333). -/

namespace Sys2Proof.Machine

/-! ## Which port a lane serves (R202, R205) -/

/-- STATE of RX_STAT. -/
def State.hrx (s : State) (m : Nat) : Nat := s.fld (pHSL m) HSL.RX_STAT.STATE
/-- STATE of TX_STAT. -/
def State.htx (s : State) (m : Nat) : Nat := s.fld (pHSL m) HSL.TX_STAT.STATE

/-- The enabled port that physical lane `m` receives for. -/
def State.rxPort (s : State) (m : Nat) : Option Nat := s.portOfHost (s.fld (pHSL m) HSL.LANE_CFG.RX_LOG)
/-- The enabled port that physical lane `m` transmits for. -/
def State.txPort (s : State) (m : Nat) : Option Nat := s.portOfHost (s.fld (pHSL m) HSL.LANE_CFG.TX_LOG)

/-- The port runs. -/
def State.portRuns (s : State) (p : Option Nat) : Bool := match p with | some p => (s.portSt p).run | none => false

/-- A logical host lane belongs to a defined port. -/
def State.hostDefined (s : State) (l : Nat) : Bool := (List.range 8).any (fun p => s.portDefined p && (s.portHosts p).contains l)

/-- The first logical host lane of a port, and its HSL page, where the registers of R205 stand. -/
def State.firstHost (s : State) (p : Nat) : Nat := if s.m400 || s.halfRate then 2 * p else p

/-! ## Transmit (R206 to R209) -/

/-- The FIR in force sums to more than 1.0, so the DAC saturates (R208). -/
def State.hostClips (s : State) (m : Nat) : Bool :=
  decide (128 < ((List.range 5).map (fun k => (sx 9 (s.inf (pHSL m + HSL.TX_FIR + 4 * k)).toNat).natAbs)).foldl (· + ·) 0)

/-- TX_STAT.CLIP sets while the sum is too large (R208). -/
def State.showClip (s : State) (m : Nat) : State := s.when (s.hostClips m) (fun s => s.setFld (pHSL m) HSL.TX_STAT.CLIP 1)

/-- A host transmitter starts (R209, R216, R221, R222). -/
def State.startHostTx (s : State) (m : Nat) : State :=
  let b := pHSL m
  let s := s.modHsl m fun x => { x with stop := false, txPat := s.fld b HSL.TEST_CTRL.TX_PAT, txPol := s.bit b HSL.LANE_CFG.TX_POL_INV,
                                        syms := 0, past := [], out := [],
                                        near := s.bit b HSL.TEST_CTRL.NEAR }
  ((s.setFld b HSL.CP_CNT.TX 0).setFld b HSL.TX_STAT.CLIP 0 |>.setFld b HSL.TX_STAT.STATE 2).showClip m

/-- Set a host lane's lock bit: transmit or receive (R461, R227). -/
def State.hostLock (s : State) (m : Nat) (rx on : Bool) : State :=
  let v := if on then 1 else 0
  if rx then s.setFld pCLK (bitAt CLK.LOCK1 (16 + m)) v
  else (s.setFld pCLK (bitAt CLK.LOCK1 m) v).setFld (pHSL m) HSL.TX_STAT.PLL_LOCK v

/-- A host transmitter goes to OFF: its pending TXEQ commits are discarded (R209, R625). -/
def State.hostTxOff (s : State) (m : Nat) : State :=
  let s := s.when (s.htx m == 2) (fun s => s.discard (pHSL m) 0x1)
  ((s.setFld (pHSL m) HSL.TX_STAT.STATE 0).modHsl m fun x => { x with stop := false }).hostLock m false false

/-- The state in which a host transmitter cannot stay goes over to the one that R209 names. -/
def State.settleHostTx (s : State) (m : Nat) : State :=
  let on := s.hostDefined (s.fld (pHSL m) HSL.LANE_CFG.TX_LOG)
  if s.htx m ≠ 0 ∧ (!on ∨ !s.refOk ∨ s.inNight) then s.hostTxOff m
  else if s.htx m = 1 ∧ s.portRuns (s.txPort m) ∧ s.canRun then s.startHostTx m
  else s

/-- A host receiver whose logical lane belongs to no defined port is powered down (R28): its PLL unlocked. -/
def State.settleHostRx (s : State) (m : Nat) : State :=
  s.when (!s.hostDefined (s.fld (pHSL m) HSL.LANE_CFG.RX_LOG) && s.bit pCLK (bitAt CLK.LOCK1 (16 + m))) fun s => s.hostLock m true false

/-! ## Receive (R210 to R214) -/

/-- HOST_UP of the port of lane `m` clears, and with it the alignment of the host-to-line direction (R175, R217). -/
def State.hostDown (s : State) (m : Nat) : State :=
  match s.rxPort m with
  | some p =>
    ((s.setFld pPORT (psf p PORT.PSTAT.HOST_UP) 0).modPort p fun x => { x with hostAge := 0 }).cwLock p OFEC.OF_STAT.TX_CW_LOCK false
  | none => s

/-- RX_STAT.STATE takes a value; leaving UP ends AM lock, with RX_DOWN (R211, R229). -/
def State.setHrx (s : State) (m st : Nat) : State :=
  let was := s.hrx m == 5
  let s := s.setFld (pHSL m) HSL.RX_STAT.STATE st
  s.when (was && st != 5) fun s => ((s.setFld (pHSL m) HSL.RX_STAT.AM_LOCK 0).hostDown m).raise HSL.evRX_DOWN m

/-- A loss of R211: cause, the count from EQ or above, and the new state (R212). -/
def State.hostLoss (s : State) (m cause st : Nat) : State :=
  let old := s.hrx m
  let s := (s.setFld (pHSL m) HSL.RX_STAT.LOSS_CAUSE cause).modHsl m fun x => { x with low := 0 }
  (s.when (decide (3 ≤ old) && decide (old ≤ 5)) (fun s => s.addSat (pHSL m) (whole HSL.CNT_LOSS) 1)).setHrx m st

/-- A host receiver starts (R211, R216, R222): its receive PLL is locked. -/
def State.startHostRx (s : State) (m : Nat) : State :=
  let b := pHSL m
  if s.hrx m = 0 ∧ s.bit pCLK (bitAt CLK.LOCK1 (16 + m)) then
    let s := s.modHsl m fun x => { x with low := 0, chkPat := s.fld b HSL.TEST_CTRL.CHK_PAT, rxPol := s.bit b HSL.LANE_CFG.RX_POL_INV,
                                          near := s.bit b HSL.TEST_CTRL.NEAR }
    let s := (s.setFld b HSL.RX_STAT.LOS 1).setFld b HSL.RX_STAT.CDR_LOCK 0
    let s := (s.setFld b HSL.RX_SNR.SNR 0).setFld b HSL.CP_CNT.RX 0
    let s := (s.wr (b + HSL.PRBS_ERR) 0).setFld b HSL.RX_STAT.CHK_LOCK 0
    s.setFld b HSL.RX_STAT.STATE 1
  else s

/-- What a receiver that stops leaves behind: LOS 1, no lock, no SNR, its receive commits discarded and a snapshot cancelled (R48, R36). -/
def State.hostRxEnd (s : State) (m : Nat) : State :=
  let b := pHSL m
  let s := (s.setFld b HSL.RX_STAT.LOS 1).setFld b HSL.RX_STAT.CDR_LOCK 0
  let s := (s.setFld b HSL.RX_SNR.SNR 0).setFld b HSL.RX_STAT.CHK_LOCK 0
  ((s.modHsl m fun x => { x with low := 0 }).discard b 0xE).tapStop b

/-- A host receiver stops: DOWN (R211, R227). -/
def State.stopHostRx (s : State) (m : Nat) : State :=
  if s.hrx m = 0 then s.discard (pHSL m) 0xE
  else ((s.setFld (pHSL m) HSL.RX_STAT.LOSS_CAUSE 6).setHrx m 0).hostRxEnd m

/-- HOST_PLL_LOCKED (R209, R461): a transmit PLL that locks lets its lane leave OFF, in DUSK too; a receive PLL that locks lets the lane of a
running port start. -/
def execHostPllLocked (m : Fin 16) (rx : Bool) (s : State) : R :=
  let m := m.val
  if m < s.hosts ∧ s.refOk ∧ !s.inNight then
    if rx then
      if s.hostDefined (s.fld (pHSL m) HSL.LANE_CFG.RX_LOG) then
        let s := s.hostLock m true true
        .next (s.when (s.portRuns (s.rxPort m)) (fun s => s.startHostRx m))
      else .next s
    else if s.htx m = 0 ∧ s.hostDefined (s.fld (pHSL m) HSL.LANE_CFG.TX_LOG) then
      .next (((s.hostLock m false true).setFld (pHSL m) HSL.TX_STAT.STATE 1).settleHostTx m)
    else .next s
  else .next s

/-- CDR_LOCK clears; in EQ or above CDR_LOST is raised (R211, R229). -/
def State.cdrDrop (s : State) (m : Nat) : State :=
  let lost := s.bit (pHSL m) HSL.RX_STAT.CDR_LOCK && decide (3 ≤ s.hrx m)
  (s.setFld (pHSL m) HSL.RX_STAT.CDR_LOCK 0).when lost (fun s => s.raise HSL.evCDR_LOST m)

/-- A receiver is at work: above DOWN and not in FAULT. -/
def State.hrxLive (s : State) (m : Nat) : Bool := decide (1 ≤ s.hrx m) && decide (s.hrx m ≤ 5)

/-- HOST_LOS_ASSERT (R211, R48). -/
def execHostLosAssert (m : Fin 16) (ampl : BitVec 10) (s : State) : R :=
  let m := m.val
  let b := pHSL m
  if s.hrxLive m ∧ !s.bit b HSL.RX_STAT.LOS ∧ ampl.toNat < 4 * s.fld b ⟨HSL.LOS_CFG, 0, 8⟩ then
    let s0 := s
    let s := (s.setFld b HSL.RX_STAT.LOS 1).setFld b HSL.RX_SNR.SNR 0
    .next (watch s0 (((s.cdrDrop m).hostLoss m 1 1).raise HSL.evLOS_ASSERT m))
  else .next s

/-- HOST_LOS_CLEAR (R211). -/
def execHostLosClear (m : Fin 16) (ampl : BitVec 10) (s : State) : R :=
  let b := pHSL m.val
  if s.hrx m.val = 1 ∧ s.bit b HSL.RX_STAT.LOS ∧ 4 * s.fld b ⟨HSL.LOS_CFG, 8, 8⟩ < ampl.toNat then
    .next (((s.setFld b HSL.RX_STAT.LOS 0).setFld b HSL.RX_STAT.STATE 2).raise HSL.evLOS_CLEAR m.val)
  else .next s

/-- CDR_CFG.FHOLD in force: the CDR's frequency holds, its phase still tracks (R228). -/
def State.cdrHeld (s : State) (m : Nat) : Bool := getBits (s.inf (pHSL m + HSL.CDR_CFG)) 4 1 == 1

/-- The CDR tracks at an offset, in units of 0.001 ppm and within ±300 ppm: CDR_FREQ follows unless the frequency is held. -/
def State.cdrFreq (s : State) (m : Nat) (freq : Int) : State :=
  s.when (!s.cdrHeld m) fun s => s.setFld (pHSL m) HSL.CDR_FREQ.DELTA (unsx 24 (max (-300000) (min 300000 freq)))

/-- The condition of CDR_LOCK on the offsets at five successive window ends (R211): four changes of less than 1 ppm, away from the limit. -/
def cdrSteady (l : List Int) : Bool :=
  l.length == 5 && l.all (fun f => decide (f.natAbs < 300000)) && (l.zip l.tail).all fun p => decide ((p.2 - p.1).natAbs < 1000)

/-- CDR_LOCK_SET (R211): the offset against REFCLK at the ends of five successive 8 µs windows, in units of 0.001 ppm. -/
def execCdrLockSet (m : Fin 16) (freqs : List Int) (s : State) : R :=
  let b := pHSL m.val
  if s.hrx m.val = 2 ∧ (s.cdrHeld m.val ∨ cdrSteady freqs) then
    .next (((s.cdrFreq m.val (freqs.getLastD 0)).setFld b HSL.RX_STAT.CDR_LOCK 1).setFld b HSL.RX_STAT.STATE 3)
  else .next s

/-- CDR_LOST (R211): a cycle slip, or the limit of ±300 ppm (true: negative), which a held frequency does not reach. -/
def execCdrLost (m : Fin 16) (limit : Option Bool) (s : State) : R :=
  let m := m.val
  let b := pHSL m
  if s.hrxLive m ∧ s.bit b HSL.RX_STAT.CDR_LOCK ∧ !(limit.isSome && s.cdrHeld m) then
    let s0 := s
    let s := match limit with
      | some neg => s.cdrFreq m (if neg then -300000 else 300000)
      | none => s
    let s := s.cdrDrop m
    .next (if 3 ≤ s.hrx m then watch s0 (s.hostLoss m 2 2) else s)
  else .next s

/-- Mismatched bits that the checker counts (R222). -/
def State.prbsErrs (s : State) (m n : Nat) : State :=
  if (s.hslSt m).chkPat ≠ 0 ∧ s.bit (pHSL m) HSL.RX_STAT.CHK_LOCK ∧ n ≠ 0 then
    (s.addSat (pHSL m) (whole HSL.PRBS_ERR) n).raise HSL.evPRBS_ERR m
  else s

/-- HOST_SNR_WINDOW_END (R211): the window's SNR, and the bits the checker found wrong in it. -/
def execHostSnrWindowEnd (m : Fin 16) (snr : BitVec 10) (errs : Nat) (s : State) : R :=
  let m := m.val
  let b := pHSL m
  if s.hrxLive m ∧ !s.bit b HSL.RX_STAT.LOS then
    let s0 := s
    let s := (s.setFld b HSL.RX_SNR.SNR snr.toNat).prbsErrs m errs
    if 4 ≤ s.hrx m ∧ snr.toNat < s.fld b ⟨HSL.SNR_CFG, 16, 10⟩ then
      if 63 ≤ (s.hslSt m).low then .next (watch s0 (s.hostLoss m 3 3))
      else .next (s.modHsl m fun x => { x with low := x.low + 1 })
    else .next (s.modHsl m fun x => { x with low := 0 })
  else .next s

/-- RX_STAT.SNR_OK (R211). -/
def State.hostSnrOk (s : State) (m : Nat) : Bool := decide (s.fld (pHSL m) ⟨HSL.SNR_CFG, 0, 10⟩ ≤ s.fld (pHSL m) HSL.RX_SNR.SNR)

/-- A write of RX_CMD (R65, R212). -/
def effRxCmd (r : Requester) (m : Nat) (v : Word) (s : State) : Out :=
  if v.getLsbD 1 then
    if 2 ≤ s.hrx m ∧ s.hrx m ≤ 5 then
      let s' := (s.setFld (pHSL m) HSL.RX_STAT.LOSS_CAUSE 5).modHsl m fun x => { x with low := 0 }
      .ok (watch s (s'.setHrx m 2))
    else .ok s
  else if v.getLsbD 0 && s.engineOf r (8 + m / 8) && s.hrx m == 3 && s.hostSnrOk m then .ok (s.setHrx m 4)
  else .ok s

/-- HOST_ADVANCE (R212). -/
def execHostAdvance (r : Requester) (m : Fin 16) (s : State) : R := txn r (pHSL m.val + HSL.RX_CMD) 0x1 (effRxCmd r m.val 0x1) s
/-- HOST_RESTART (R212). -/
def execHostRestart (r : Requester) (m : Fin 16) (s : State) : R := txn r (pHSL m.val + HSL.RX_CMD) 0x2 (effRxCmd r m.val 0x2) s

/-! ## Commit points (R215, R216, R226) -/

/-- Requests of one direction apply at a commit point whose count is `frame`; LAST_DIR tells the direction of the last that did. -/
def State.hostApply (s : State) (m dir late : Nat) (tx : Bool) (frame : Nat) : State :=
  let s' := s.applyCommits (pHSL m) dir late frame
  s'.when (decide (s'.commits ≠ s.commits)) (fun t => t.setFld (pHSL m) HSL.COMMIT_STAT.LAST_DIR (if tx then 1 else 0))

/-- A receive commit point of host lane `m`, which is the reference of a snapshot that waits for one (R256). -/
def State.hostRxPoint (s : State) (m late : Nat) : State :=
  let s := s.addWrap (pHSL m) HSL.CP_CNT.RX 1
  let frame := s.fld (pHSL m) HSL.CP_CNT.RX
  (s.hostApply m 0xE late false frame).tapMark (pHSL m) false frame

/-- AM_LOCK (R211, R216): the lane enters UP; the realignment instant is a commit point. -/
def execAmLock (m : Fin 16) (late : Nat) (s : State) : R :=
  if s.hrx m.val = 4 then
    let s := (s.setFld (pHSL m.val) HSL.RX_STAT.AM_LOCK 1).setFld (pHSL m.val) HSL.RX_STAT.STATE 5
    .next ((s.raise HSL.evRX_UP m.val).hostRxPoint m.val late)
  else .next s

/-- AM_LOCK_LOSS (R211). -/
def execAmLockLoss (m : Fin 16) (s : State) : R :=
  if s.hrx m.val = 5 then .next (watch s (s.hostLoss m.val 4 4)) else .next s

/-- HS_FAULT (R214, R461): the receive (true) or transmit (false) PLL, which was locked, has lost lock, or (none) the reference check at lane start failed. A
transmitter whose PLL lost lock is OFF, the one state of R209 without a locked PLL (DEDUCED, log entry 19). -/
def execHsFault (m : Fin 16) (pll : Option Bool) (s : State) : R :=
  let m := m.val
  let could : Bool := match pll with
    | some rx => s.bit pCLK (bitAt CLK.LOCK1 (if rx then 16 + m else m))
    | none => s.hrxLive m
  if m < s.hosts ∧ could then
    let s0 := s
    let s := match pll with
      | some rx => (s.hostLock m rx false).raise CLK.evPLL_UNLOCK 0
      | none => s
    let s := s.when (pll == some false) (fun s => s.hostTxOff m)
    .next (watch s0 (((s.hostLoss m 7 6).hostRxEnd m).raise HSL.evHS_FAULT m))
  else .next s

/-- The lanes that receive for port `p` are all UP (R217). -/
def State.hostsUp (s : State) (p : Nat) : Bool :=
  (s.portHosts p).all (fun l => match s.physRx l with | some m => s.hrx m == 5 | none => false)

/-- The deskew of a port's host lanes, judged once per alignment-marker period (R217): `skew` in tenths of a nanosecond, `lane` the
logical number of the latest lane. -/
def State.hostDeskew (s : State) (p skew lane : Nat) : State :=
  let b := pHSL (s.firstHost p)
  if s.hostsUp p then
    let s := (s.setFld b HSL.HSKEW.SKEW (min skew 0xFFFF)).setFld b HSL.HSKEW.LATE lane
    if 640 < skew then
      let was := s.bit b HSL.HSKEW.HSKEW_ERR
      let s := (s.setFld b HSL.HSKEW.HSKEW_ERR 1).modPort p fun x => { x with hskewOk := 0 }
      let s := (s.setFld pPORT (psf p PORT.PSTAT.HOST_UP) 0).cwLock p OFEC.OF_STAT.TX_CW_LOCK false
      s.when (!was) (fun s => s.raise HSL.evHSKEW_FAULT (s.firstHost p))
    else
      let s := if 15 ≤ (s.portSt p).hskewOk then s.setFld b HSL.HSKEW.HSKEW_ERR 0
        else s.modPort p fun x => { x with hskewOk := x.hskewOk + 1 }
      if s.bit b HSL.HSKEW.HSKEW_ERR then s
      else (s.setFld pPORT (psf p PORT.PSTAT.HOST_UP) 1).cwLock p OFEC.OF_STAT.TX_CW_LOCK true
  else s

/-- Blocks deleted less blocks inserted in a direction whose outer code is TERMINATE (R218). -/
def State.comp (s : State) (p off : Nat) (mode : Fld) (n : Int) : State :=
  if s.bit (pOFEC p) mode then s
  else
    let a := pHSL (s.firstHost p) + off
    s.wr a (s.rd a + BitVec.ofInt 32 n)

/-- HOST_RX_COMMIT_POINT (R215 to R218): on the port's reference lane the port's skew and the blocks compensated since the last
point are judged and counted too. `freq` is the offset that the CDR tracks. -/
def execHostRxCommitPoint (m : Fin 16) (late skew : Nat) (lane : Fin 16) (comp freq : Int) (s : State) : R :=
  let m := m.val
  if s.hrxLive m then
    let s0 := s
    let s := (s.hostRxPoint m late).when (decide (2 ≤ s.hrx m) && !s.bit (pHSL m) HSL.RX_STAT.LOS) fun s => s.cdrFreq m freq
    match s.rxPort m with
    | some p =>
      if s.fld (pHSL m) HSL.LANE_CFG.RX_LOG = s.firstHost p ∧ s.hrx m = 5 then
        .next (watch s0 ((s.hostDeskew p skew lane.val).comp p HSL.COMP_H2L OFEC.OF_STAT.TX_MODE_ACT comp))
      else .next s
    | none => .next s
  else .next s

/-- HOST_TX_COMMIT_POINT (R208, R209, R215, R218): a stop that waits takes effect. -/
def execHostTxCommitPoint (m : Fin 16) (late : Nat) (comp : Int) (s : State) : R :=
  let m := m.val
  let b := pHSL m
  if s.htx m = 2 then
    let s := s.addWrap b HSL.CP_CNT.TX 1
    let s := (s.hostApply m 0x1 late true (s.fld b HSL.CP_CNT.TX)).showClip m
    let s := match s.txPort m with
      | some p => s.when (s.fld b HSL.LANE_CFG.TX_LOG == s.firstHost p) (fun s => s.comp p HSL.COMP_L2H OFEC.OF_STAT.RX_MODE_ACT comp)
      | none => s
    if (s.hslSt m).stop then
      .next (((s.setFld b HSL.TX_STAT.STATE 1).modHsl m fun x => { x with stop := false }).settleHostTx m)
    else .next s
  else .next s

/-- HSL_COMMIT (R226). -/
def execHslCommit (r : Requester) (m : Fin 16) (groups : BitVec 4) (s : State) : R :=
  txn r (pHSL m.val + HSL.COMMIT) (groups.setWidth 32) (effCommit (pHSL m.val) (groups.setWidth 32)) s

/-- The ROM presets of R207. -/
def hostPreset : Nat → List Int
  | 0 => [0, 0, 128, 0, 0]
  | 1 => [0, -8, 120, 0, 0]
  | 2 => [0, -16, 112, 0, 0]
  | 3 => [4, -20, 104, 0, 0]
  | 4 => [0, -16, 104, -8, 0]
  | _ => [8, -24, 96, 0, 0]

/-- A write of TX_CMD (R207): LOAD copies the preset into the TXEQ shadow, as a write of `who` (R60). Presets 6 and 7 do not exist (R447). -/
def txPreset (who m : Nat) (v : Word) (s : State) : Out :=
  let p := getBits v 0 3
  if 6 ≤ p then hostError [pHSL m] s
  else if v.getLsbD 3 then
    if s.mark (pHSL m) 0 &&& (3 - who) ≠ 0 then hostError [pHSL m] s
    else
      let s := (List.range 5).foldl (fun s k =>
        s.wr (pHSL m + HSL.TX_FIR + 4 * k) (BitVec.ofNat 32 (unsx 9 ((hostPreset p).getD k 0)))) s
      .ok (s.setMark (pHSL m) 0 (s.mark (pHSL m) 0 ||| who))
  else .ok s

/-- A bus write of TX_CMD. -/
def effTxCmd (m : Nat) (v : Word) (s : State) : Out := txPreset 1 m v s

/-- HSL_TX_PRESET_LOAD (R207). -/
def execHslTxPresetLoad (r : Requester) (m : Fin 16) (preset : Fin 8) (s : State) : R :=
  let v : Word := BitVec.ofNat 32 (8 + preset.val)
  txn r (pHSL m.val + HSL.TX_CMD) v (effTxCmd m.val v) s

/-- COMP_SLIP (R219): a slip of port `p`, line to host if `l2h`. -/
def execCompSlip (p : Fin 8) (l2h : Bool) (s : State) : R :=
  let p := p.val
  if s.portRuns (some p) then
    let i := s.firstHost p
    .next ((s.addSat (pHSL i) (if l2h then HSL.PORT_COMP.L2H else HSL.PORT_COMP.H2L) 1).raise HSL.evCOMP_SLIP i)
  else .next s

/-- PRBS_CHK_LOCK (R222): the checker of a running lane gains or loses pattern lock; `errs` bits were counted before. -/
def execPrbsChkLock (m : Fin 16) (lock : Bool) (errs : Nat) (s : State) : R :=
  let m := m.val
  if s.hrxLive m ∧ (s.hslSt m).chkPat ≠ 0 then
    .next ((s.prbsErrs m errs).setFld (pHSL m) HSL.RX_STAT.CHK_LOCK (if lock then 1 else 0))
  else .next s

/-- A write of TEST_CTRL (R228): reserved pattern codes. It applies at lane start (R221, R222). -/
def effTestCtrl (m : Nat) (v : Word) (s : State) : Out :=
  if 2 < getBits v 4 3 ∨ 3 < getBits v 0 3 then hostError [pHSL m] s else .ok (s.wr (pHSL m + HSL.TEST_CTRL) v)

/-- A port that uses a logical lane of either direction is enabled. -/
def State.logBusy (s : State) (l : Nat) : Bool := (s.portOfHost l).isSome

/-- The pages to which a host error in the assignment of host lanes is confined (R204, R447): HSL and the ports concerned. -/
def State.hslErrorPages (s : State) (logical : List Nat) : List Nat :=
  (List.range s.hosts).map pHSL ++ (logical.filterMap s.portOfHost).flatMap s.portPages

/-- A write of LANE_CFG (R202, R204): only while the ports of the old and the new logical lanes are disabled, within the octet, and
with each number once in octet and direction. Crossing two lanes takes two writes, so the numbers are judged when a port that uses the
octet is enabled (DEDUCED, log entry 20). Anything else is a host error (R447). -/
def effLaneCfg (m : Nat) (v : Word) (s : State) : Out :=
  let b := pHSL m
  let l := [s.fld b HSL.LANE_CFG.RX_LOG, s.fld b HSL.LANE_CFG.TX_LOG, getBits v 0 4, getBits v 8 4]
  let bad := l.any s.logBusy || getBits v 0 4 / 8 != m / 8 || getBits v 8 4 / 8 != m / 8
  let s := s.wr (b + HSL.LANE_CFG) v
  if bad then hostError (s.hslErrorPages l) s else .ok (s.settleHostTx m)

/-- A write of PORT_LB (R205, R221): MODE 3 is reserved. -/
def effPortLb (m : Nat) (v : Word) (s : State) : Out :=
  if getBits v 0 2 = 3 then hostError [pHSL m] s else .ok (s.wr (pHSL m + HSL.PORT_LB) v)

/-! ## Host-side stamps (R220, R332, R333) -/

/-- The correction that refers a host-side stamp of port `p` to the optical MDI (R333), in units of 2^-32 ns. -/
def State.hostCorr (s : State) (p : Nat) (tx : Bool) : Int :=
  let m := if s.m400 then 4 else 0
  if tx then
    s.corr (TIME.CORR_TX + m) + (if s.bit (pOFEC p) OFEC.OF_STAT.TX_MODE_ACT then tenths (-106) else 0) + s.skewNs p
  else
    s.corr (TIME.CORR_RX + m) + (if s.bit (pOFEC p) OFEC.OF_STAT.RX_MODE_ACT then tenths 150 else 0)
      + (if s.m400 then tenths (-140 * ((s.portSt p).iter - 4 : Int)) else 0)

/-- Alignment markers pass the reference lane of port `p` (R220): they arrive at a receiver that is UP, and leave a transmitter that is ACTIVE. -/
def State.markers (s : State) (p : Nat) (tx : Bool) : Bool :=
  match if tx then s.physRx (s.firstHost p) else s.physTx (s.firstHost p) with
  | some m => if tx then s.hrx m == 5 else s.htx m == 2
  | none => false

/-- HOST_STAMP (R220, R332): a marker at the reference lane of an enabled port, in the transmit or the receive direction. -/
def execHostStamp (p : Fin 8) (tx : Bool) (s : State) : R :=
  let p := p.val
  if s.portOn p ∧ s.markers p tx ∧ s.time.running then
    let t := s.stamp (s.hostCorr p tx)
    let a := pTIME + (if tx then TIME.TS_TX_NS else TIME.TS_RX_NS) + 16 * p
    let c := pTIME + (if tx then TIME.AMC_TX else TIME.AMC_RX) + 8 * p
    let s := (s.wr a (stampNs t)).wr (a + 4) (stampHi t)
    .next (s.wr c (s.rd c + 1))
  else .next s

end Sys2Proof.Machine
end

