-- ==== Sys2Proof/Machine/Ports.lean ====
section
/-! DEFINITION. Ports: definitions and modes (R25 to R29), enable, disable, reset and restart (R35, R36, R170, R196), and commits of a
direction that does not run (R625). -/

namespace Sys2Proof.Machine

/-! ## What a definition must meet (R2, R25 to R29, R202) -/

/-- A defined port lies where R27 and the variant allow, and shares no line lane with another defined port. -/
def State.portFits (s : State) (p : Nat) : Bool :=
  let k := s.portK p
  p % k == 0 && decide (p + k ≤ s.lines)
    && (List.range 8).all (fun q => q == p || !s.portDefined q || decide (q + s.portK q ≤ p) || decide (p + k ≤ q))

/-- Each logical number of the octets that a port's host lanes lie in occurs once in each direction (R202). -/
def State.swapOk (s : State) (p : Nat) : Bool :=
  ((List.range s.hosts).filter fun l => (s.portHosts p).any fun h => h / 8 == l / 8).all fun l =>
    ((List.range s.hosts).filter (fun m => s.fld (pHSL m) HSL.LANE_CFG.RX_LOG == l)).length == 1
      && ((List.range s.hosts).filter (fun m => s.fld (pHSL m) HSL.LANE_CFG.TX_LOG == l)).length == 1

/-- A port may start: its definition fits and its host lanes exist and are assigned as R202 asks. -/
def State.portValid (s : State) (p : Nat) : Bool :=
  s.portFits p && (s.portHosts p).all (fun l => decide (l < s.hosts)) && s.swapOk p

/-- The ports that share a line lane with port `p` as it is defined, `p` among them. -/
def State.overlapping (s : State) (p : Nat) : List Nat :=
  (List.range 8).filter fun q => q == p || (s.portDefined q && decide (q < p + s.portK p) && decide (p < q + s.portK q))

/-- What a host error about ports may leave free (R29, R204, R447): PORT, and every lane of every port that the write defines or overlaps. -/
def State.portErrorPages (s : State) (l : List Nat) : List Nat := pPORT :: (l.flatMap s.overlapping).flatMap s.portPages

/-! ## Start and stop -/

/-- What every port enable clears and reads (R160, R169, R173, R181, R217, R218, R219, R332): statistics, flags, counts, ITER, the
outer-code modes and the loopback. -/
def State.portClear (s : State) (p : Nat) : State :=
  let h := pHSL (s.firstHost p)
  let s := s.modPort p fun _ =>
    { PortSt.init with iter := s.fld pPORT (fldAt PORT.PCFG.ITER (4 * p)), lb := s.fld h HSL.PORT_LB.MODE }
  let s := s.degLoad p
  let s := s.wr (pPORT + PORT.PSKEW + 4 * p) 0
  let s := s.wr (pPORT + PORT.PSTAT + 4 * p) 0
  let s := (s.setFld pPORT (psf p PORT.PSTAT.LF_HOST) 1).setFld pPORT (psf p PORT.PSTAT.LF_LINE) 1
  let b := pOFEC p
  let s := s.setFld b OFEC.OF_STAT.RX_MODE_ACT (s.fld b OFEC.OF_CTRL.RX_MODE)
  let s := s.setFld b OFEC.OF_STAT.TX_MODE_ACT (s.fld b OFEC.OF_CTRL.TX_MODE)
  let s := (s.portLanes p).foldl State.clearIfec (s.clearOfec p)
  let s := (((s.wr (h + HSL.COMP_H2L) 0).wr (h + HSL.COMP_L2H) 0).wr (h + HSL.PORT_COMP) 0).wr (h + HSL.HSKEW) 0
  (s.wr (pTIME + TIME.AMC_TX + 8 * p) 0).wr (pTIME + TIME.AMC_RX + 8 * p) 0

/-- A PLL of one of the port's line lanes has lost lock and not regained it (R461). -/
def State.portUnlocked (s : State) (p : Nat) : Bool :=
  (s.portLanes p).any (fun n => s.unlocked.testBit n || s.unlocked.testBit (8 + n))

/-- The lanes of an enabled port start, once the device can run them (R64, R99, R209, R211, R460, R461). A PORT_EN bit written while REFCLK is absent stands, and its
port starts with the others when REFCLK is back (R42 says only that no port may be enabled; DESIGN CHOICE, log entry 100). -/
def State.portRun (s : State) (p : Nat) : State :=
  if s.portOn p && s.canRun && !s.portUnlocked p then
    let s := s.modPort p fun x => { x with run := true }
    let s := (s.portLanes p).foldl State.startRx s
    let s := (s.portLanes p).foldl (fun s n => (s.modLtx n fun t => { t with sq := false }).settleTx n) s
    let ms := (List.range s.hosts).filter (s.portHasHost p)
    ms.foldl (fun s m => (s.when (s.rxPort m == some p) (fun s => s.startHostRx m)).settleHostTx m) s
  else s

/-- A port start: the enable of R170. -/
def State.portStart (s : State) (p : Nat) : State :=
  let s := (s.portClear p).portRun p
  (s.portLanes p).foldl State.settleTx s

/-- The line side of a port stops (R35, R36, R73, R99, R186): pending commits are discarded, receive lanes go to DOWN, transmit lanes leave ACTIVE at
their next frame boundary, the host gets Local Fault while the port is enabled (R171), and a pending latch is taken. -/
def State.portHalt (s : State) (p : Nat) : State :=
  let s := (s.portLanes p).foldl State.stopRx s
  let s := (s.portLanes p).foldl (fun s n =>
    (s.discard (pLTX n) 0x1F).modLtx n fun t => { t with sq := false, stop := t.stop || s.txState n == 3 }) s
  let s := (s.modPort p fun x => { x with run := false, lb := 0, lbPend := none }).when (s.portOn p) fun s => s.faultToHost p
  let s := s.when (s.bit (pPART p) PART.PC_STAT.RLB_ACTIVE) fun s =>
    ((s.setFld (pPART p) PART.PC_STAT.RLB_ACTIVE 0).setFld (pHSL (s.firstHost p)) HSL.PORT_LB.MODE 0).raise PART.evRLB_CHANGE p
  let on := if s.portOn p then 1 else 0
  let s := (s.setFld pPORT (psf p PORT.PSTAT.LF_HOST) on).setFld pPORT (psf p PORT.PSTAT.LF_LINE) on
  let s := (s.setFld pPORT (psf p PORT.PSTAT.DESKEWED) 0).cwLock p OFEC.OF_STAT.RX_CW_LOCK false
  s.when (s.bit (pOFEC p) OFEC.OF_STAT.SNAP_PEND) (fun s => s.latchOfec p)

/-- The lanes of a port stop (R36, R209, R211): its line side, its host receivers, and its host transmitters at their next commit point. -/
def State.portStop (s : State) (p : Nat) : State :=
  let ms := (List.range s.hosts).filter (fun m => (s.portHosts p).contains (s.fld (pHSL m) HSL.LANE_CFG.RX_LOG))
  let mt := (List.range s.hosts).filter (fun m => (s.portHosts p).contains (s.fld (pHSL m) HSL.LANE_CFG.TX_LOG))
  let s := ms.foldl State.stopHostRx (s.portHalt p)
  let s := mt.foldl (fun s m => (s.discard (pHSL m) 0x1).modHsl m fun x => { x with stop := x.stop || s.htx m == 2 }) s
  (s.setFld pPORT (psf p PORT.PSTAT.HOST_UP) 0).cwLock p OFEC.OF_STAT.TX_CW_LOCK false

/-- Every lane goes over to the state that its conditions now name. -/
def State.settleLanes (s : State) : State :=
  let s := (List.range s.lines).foldl (fun s n => (s.settleTx n).dawnSettle n) s
  (List.range s.hosts).foldl (fun s m => (s.settleHostTx m).settleHostRx m) s

/-- A restart as a port reset (R35, R196, R460, R461). A resampler table that R54 does not admit is loaded as it stands: the host error of R54 is that of an
enable by a write, and no write restarts a port after a clock event (DESIGN CHOICE, log entry 100). -/
def State.portRestart (s : State) (p : Nat) : State := if s.portOn p then (s.portStop p).portStart p else s

/-- Every enabled port stops. -/
def State.stopPorts (s : State) : State :=
  (s.each ((List.range 8).filter s.portOn) State.portStop).settleLanes

/-- Every enabled port restarts. -/
def State.restartPorts (s : State) : State :=
  (s.each ((List.range 8).filter s.portOn) State.portRestart).settleLanes

/-! ## Port frame boundaries -/

/-- The loopback that the partner has asked for takes effect at a port frame boundary as a port reset (R295, R297): entering the
loop sets RLB_ACTIVE, and the stop within the reset leaves it. -/
def State.loopChange (s : State) (p : Nat) : State :=
  match (s.portSt p).lbPend with
  | none => s
  | some m =>
    let active := s.bit (pPART p) PART.PC_STAT.RLB_ACTIVE
    if (m = 2) = active then s.modPort p fun x => { x with lbPend := none }
    else
      let s := (s.portStop p).setFld (pHSL (s.firstHost p)) HSL.PORT_LB.MODE m
      let s := s.portStart p
      s.when (m == 2) fun s => (s.setFld (pPART p) PART.PC_STAT.RLB_ACTIVE 1).raise PART.evRLB_CHANGE p

/-- PORT_FRAME_BOUNDARY (R169, R171, R172, R180, R295, R297). -/
def execPortFrameBoundary (p : Fin 8) (skew : Nat) (lane : Fin 8) (s : State) : R :=
  let p := p.val
  if s.portOn p ∧ (s.portSt p).run then
    let s0 := s
    let s := (s.modPort p fun x => { x with frames := x.frames + 1 }).deskew p skew lane.val
    let s := s.portFills p
    let s := s.when (s.bit (pOFEC p) OFEC.OF_STAT.SNAP_PEND) (fun s => s.latchOfec p)
    .next (watch s0 (s.loopChange p).settleLanes)
  else .next s

/-! ## Writes of the PORT page -/

/-- Ports that a write has enabled or disabled start or stop; one that cannot start is a host error about it (R29, R170, R447). -/
def portChange (s0 s : State) : Out :=
  let on := (List.range 8).filter (fun p => s.portOn p && !s0.portOn p)
  let off := (List.range 8).filter (fun p => s0.portOn p && !s.portOn p)
  let bad := on.filter fun p => !s.portValid p
  let t := watch s0 (((on.filter s.portValid).foldl State.portStart (off.foldl State.portStop s)).settleLanes)
  if bad = [] then .ok t else hostError (s.portErrorPages bad) t

/-- A write of PORT_EN (R170). -/
def effPortEn (v : Word) (s : State) : Out := portChange s (s.wr (pPORT + PORT.PORT_EN) v)

/-- A write of PORT_CMD (R196): each bit resets its port if that is enabled. -/
def effPortCmd (v : Word) (s : State) : Out :=
  let l := (List.range 8).filter (fun p => v.getLsbD p && s.portOn p)
  let bad := l.filter fun p => !s.portValid p
  let t := watch s (((l.filter s.portValid).foldl State.portRestart s).settleLanes)
  if bad = [] then .ok t else hostError (s.portErrorPages bad) t

/-- A write of PCFG[p] (R29, R160, R186, R191: without a port, OFEC[p] holds no statistics): SIZE and DEFINED hold on an enabled port; ITER waits for the next enable. -/
def effPcfg (p : Nat) (v : Word) (s : State) : Out :=
  let iter := getBits v 12 3
  let keep := getBits v 0 12 == getBits (s.rd (pPORT + PORT.PCFG + 4 * p)) 0 12
  let s' := s.wr (pPORT + PORT.PCFG + 4 * p) v
  if iter < 3 ∨ 6 < iter then hostError [pPORT] s
  else if !v.getLsbD 0 ∧ !s.portOn p then portChange s (s'.clearOfec p)
  else if s.portOn p then (if keep then .ok s' else hostError (s'.portErrorPages [p] ++ s.portPages p) s')
  else if v.getLsbD 0 ∧ !s'.portFits p then hostError (s'.portErrorPages [p]) s'
  else portChange s s'

/-- In M200 no frame has an Aedfel header, and what IFEC[n] shows of one reads 0 (R165). -/
def State.dropHeader (s : State) (n : Nat) : State :=
  let b := pIFEC n
  let s := (s.setFld b IFEC.IF_STAT.FAR_RDI 0).setFld b IFEC.IF_STAT.FAR_LANE 0
  let s := (s.setFld b IFEC.IF_STAT.FAR_SIZE 0).setFld b IFEC.IF_STAT.RX_FRAME 0
  (IFEC.HDR_ERR :: (List.range 7).map fun i => IFEC.CONV + 4 * i).foldl (fun s o => (s.wr (b + o) 0).setLv (b + o) 0) s

/-- A write of MODE (R25, R29, R165). -/
def effMode (v : Word) (s : State) : Out :=
  let s' := s.wr (pPORT + PORT.MODE) v
  let on := (List.range 8).filter s.portOn
  if (s'.m400 ∧ !s.hasM400) ∨ ((s'.m400 ≠ s.m400 ∨ s'.halfRate ≠ s.halfRate) ∧ on ≠ []) then hostError (s'.portErrorPages on) s'
  else .ok (((List.range 8).foldl (fun s n => s.when (!s.m400) fun s => s.dropHeader n) s').settleLanes)

/-- PORT_EN with a port's bit set or clear. -/
def State.portEnWord (s : State) (p : Nat) (on : Bool) : Word :=
  putBits (s.rd (pPORT + PORT.PORT_EN)) p 1 (if on then 1 else 0)

/-- PORT_ENABLE (R170): a write of PORT_EN that sets bit p. -/
def execPortEnable (r : Requester) (p : Fin 8) (s : State) : R :=
  let v := s.portEnWord p.val true
  txn r (pPORT + PORT.PORT_EN) v (effPortEn v) s

/-- PORT_DISABLE (R36, R170): a write of PORT_EN that clears bit p. -/
def execPortDisable (r : Requester) (p : Fin 8) (s : State) : R :=
  let v := s.portEnWord p.val false
  txn r (pPORT + PORT.PORT_EN) v (effPortEn v) s

/-- PORT_RESET (R196). -/
def execPortReset (r : Requester) (p : Fin 8) (s : State) : R :=
  let v : Word := BitVec.ofNat 32 (2 ^ p.val)
  txn r (pPORT + PORT.PORT_CMD) v (effPortCmd v) s

/-! ## Commits of a direction without commit points (R625) -/

/-- IDLE_COMMIT_APPLY (R625): what a direction that does not run has accepted takes effect; FRAME records its count as it stands. -/
def execIdleCommitApply (d : LaneDir) (s : State) : R :=
  match d with
  | .lineRx n =>
    let b := pLRX n.val
    if s.lnState n.val = 0 then .next (s.applyCommits b 0x7F 0 ((s.rd (b + LRX.FRAME_CNT)).toNat % 2 ^ 16)) else .next s
  | .lineTx n =>
    let b := pLTX n.val
    if s.refOk then .next s else .next (s.applyCommits b 0x1F 0 ((s.rd (b + LTX.FRAME_CNT)).toNat % 2 ^ 16))
  | .hostRx m =>
    if s.hrx m.val = 0 ∨ s.hrx m.val = 6 then .next (s.hostApply m.val 0xE 0 false (s.fld (pHSL m.val) HSL.CP_CNT.RX)) else .next s
  | .hostTx m => if s.htx m.val ≤ 1 then .next (s.hostApply m.val 0x1 0 true (s.fld (pHSL m.val) HSL.CP_CNT.TX)) else .next s

end Sys2Proof.Machine
end

