-- ==== Sys2Proof/Machine/Partner.lean ====
section
/-! DEFINITION. The partner channel (R283 to R299): the cells received, remote transmit requests (R107 to R113), quiet windows (R144, R145,
R288), two-way transfer (R335, R336), far-end identity, this device's own requests, and the cell slots of a transmit lane. Remote
reads stand in Remote.lean. -/

namespace Sys2Proof.Machine

/-! ## Cells received (R284 to R287) -/

/-- Payload bits `i` to `i + w − 1` (R284). -/
def pfield (c : Cell) (i w : Nat) : Nat := c.payload.toNat / 2 ^ (80 - i - w) % 2 ^ w

/-- Bits 0 to 111 of a cell. -/
def cellBits (type seq tag payload : Nat) : Nat := ((type * 2 ^ 16 + seq) * 2 ^ 8 + tag) * 2 ^ 80 + payload

/-- Bits 0 to 111 of a cell of a type. -/
def cellHead (c : Cell) (type : Nat) : Nat := cellBits type c.seq.toNat c.tag.toNat c.payload.toNat

/-- All 128 bits of a cell of a type (R284). -/
def cellWhole (c : Cell) (type : Nat) : Nat := cellHead c type * 2 ^ 16 + c.crc.toNat

/-- The assembled cell has been looked at. -/
def State.cellTaken (s : State) (n : Nat) : State := s.modPart n fun x => { x with asm := { x.asm with done := none } }

/-- The cell that has been assembled from lane `n` is of a type (R285, R286): the state after its checks, and whether it is accepted. Any other than the one
assembled is no event. -/
def State.cellCheck (s : State) (n type : Nat) (c : Cell) : State × Bool :=
  let b := pPART n
  let x := s.partSt n
  let d := (c.seq.toNat + 2 ^ 16 - x.rxSeq) % 2 ^ 16
  if !s.aligned n ∨ x.asm.done ≠ some (some (cellWhole c type)) then (s, false)
  else
  let s := s.cellTaken n
  if crc16 112 (cellHead c type) ≠ c.crc.toNat then ((s.addSat b PART.CNT_CELL.BAD 1).raise PART.evCELL_ERR n, false)
  else if !x.first ∧ (d = 0 ∨ 2 ^ 15 ≤ d) then (s.addSat b PART.CNT_SEQ.STALE 1, false)
  else
    let s := s.when (!x.first && decide (1 < d)) fun s => (s.addSat b PART.CNT_SEQ.LOST (d - 1)).raise PART.evCELL_ERR n
    (s.modPart n fun x => { x with rxSeq := c.seq.toNat, first := false }, true)

/-- What an accepted cell does. -/
def onCell (n type : Nat) (c : Cell) (f : State → State) (s : State) : R :=
  let (s, ok) := s.cellCheck n type c
  .next (if ok then f (s.addWrap (pPART n) (whole PART.CNT_RXOK) 1) else s)

/-- PC_CELL_MISSING (R285): a header of the cell that ended failed its CRC. -/
def execPcCellMissing (n : Fin 8) (s : State) : R :=
  if (s.partSt n.val).asm.done = some none then
    .next (((s.cellTaken n.val).addSat (pPART n.val) PART.CNT_CELL.MISS 1).raise PART.evCELL_ERR n.val)
  else .next s

/-- PC_CELL_BAD (R285): the cell that ended fails its CRC. -/
def execPcCellBad (n : Fin 8) (s : State) : R :=
  match (s.partSt n.val).asm.done with
  | some (some w) =>
    if s.aligned n.val ∧ crc16 112 (w / 2 ^ 16) ≠ w % 2 ^ 16 then
      .next (((s.cellTaken n.val).addSat (pPART n.val) PART.CNT_CELL.BAD 1).raise PART.evCELL_ERR n.val)
    else .next s
  | _ => .next s

/-- PC_IDLE_RECEIVE (R286). -/
def execPcIdleReceive (n : Fin 8) (c : Cell) (s : State) : R := onCell n.val 0 c id s

/-- A reserved cell type (R287). -/
def reservedType (t : Nat) : Bool := (decide (0x0C ≤ t) && decide (t ≤ 0x3F)) || decide (0x80 ≤ t)

/-- PC_RESERVED_RECEIVE (R287). -/
def execPcReservedReceive (n : Fin 8) (type : BitVec 8) (c : Cell) (s : State) : R :=
  if reservedType type.toNat then
    let (s, ok) := s.cellCheck n.val type.toNat c
    .next (s.when ok fun s => s.addSat (pPART n.val) PART.CNT_UNK.UNKNOWN 1)
  else .next s

/-! ## The far end (R298, R299) -/

/-- The identity held in FAR_ID. -/
def State.farId (s : State) (n : Nat) : Nat :=
  (s.rd (pPART n + PART.FAR_ID_HI)).toNat * 2 ^ 32 + (s.rd (pPART n + PART.FAR_ID_LO)).toNat

/-- The far end is confirmed as `id`, on lane `lane` of it (R298). -/
def State.farTake (s : State) (n id lane source : Nat) : State :=
  let b := pPART n
  let old := s.farId n
  let was := s.bit b PART.FAR_INFO.VALID
  let s := (s.wr (b + PART.FAR_ID_LO) (BitVec.ofNat 32 id)).wr (b + PART.FAR_ID_HI) (BitVec.ofNat 32 (id / 2 ^ 32))
  let s := (s.setFld b PART.FAR_INFO.VALID 1).setFld b PART.FAR_INFO.SOURCE source
  let s := (s.setFld b PART.FAR_INFO.FAR_LANE lane).setFld b PART.FAR_INFO.PEND 0
  if was then s.raiseRec PART.evPARTNER_CHANGED n 0
      [BitVec.ofNat 32 old, BitVec.ofNat 32 (old / 2 ^ 32), BitVec.ofNat 32 id, BitVec.ofNat 32 (id / 2 ^ 32)]
  else s.raise PART.evPARTNER_NEW n

/-- An identity observation on lane `n` (R298): source 0 partner channel, 1 dawn. -/
def State.observe (s : State) (n id lane source : Nat) : State :=
  let b := pPART n
  if id = Config.devId.toNat then (s.setFld b PART.FAR_INFO.SELF 1).raise PART.evSELF_LOOP n
  else if s.bit b PART.FAR_INFO.VALID ∧ s.farId n = id then
    let again := s.bit b PART.FAR_INFO.PEND
    let s := s.setFld b PART.FAR_INFO.PEND 0
    s.when again fun s => (s.setFld b PART.FAR_INFO.MULTI 1).raise PART.evMULTI_SOURCE n
  else
    let k := if (s.partSt n).pend = id then s.fld b PART.FAR_INFO.PEND + 1 else 1
    let s := s.modPart n fun x => { x with pend := id }
    if max 1 (s.fld b PART.PC_CTRL.ID_CONFIRM) ≤ k then s.farTake n id lane source else s.setFld b PART.FAR_INFO.PEND k

/-- PC_IDENT_RECEIVE (R298). -/
def execPcIdentReceive (n : Fin 8) (c : Cell) (s : State) : R :=
  onCell n.val 1 c (fun s => s.observe n.val (pfield c 0 64) (pfield c 64 3) 0) s

/-- A write of ID_CMD (R299). -/
def effIdCmd (n : Nat) (v : Word) (s : State) : Out :=
  if v.getLsbD 0 then
    let s := ((s.wr (pPART n + PART.FAR_ID_LO) 0).wr (pPART n + PART.FAR_ID_HI) 0).wr (pPART n + PART.FAR_INFO) 0
    .ok (s.modPart n fun x => { x with pend := 0 })
  else .ok s

/-- FAR_CLR (R299). -/
def execFarClr (r : Requester) (n : Fin 8) (s : State) : R := txn r (pPART n.val + PART.ID_CMD) 0x1 (effIdCmd n.val 0x1) s

/-! ## Remote transmit requests (R107 to R113, R120) -/

/-- FIR[k] of LTX[n] in a bank, as a signed number. -/
def firOf (bank : Nat → Word) (n k : Nat) : Int := sx 10 (bank (pLTX n + LTX.FIR + 4 * k)).toNat

/-- The presets of R90: FIR[0] to FIR[6]. -/
def firPreset : Nat → List Int
  | 0 => [0, 0, 256, 0, 0, 0, 0]
  | 1 => [0, 0, 224, -32, 0, 0, 0]
  | 2 => [0, -16, 208, -32, 0, 0, 0]
  | _ => [0, -32, 192, -32, 0, 0, 0]

/-- A FIR meets R110. -/
def State.firAllowed (s : State) (n : Nat) (l : List Int) : Bool :=
  (List.range 7).all (fun k => k == 2 || decide ((l.getD k 0).natAbs ≤ s.fld (pLTX n) LTX.REM_CTRL.TAP_MAX))
    && decide (128 ≤ l.getD 2 0)
    && l.all (fun x => decide (-512 ≤ x) && decide (x ≤ 511))
    && decide ((l.map Int.natAbs).foldl (· + ·) 0 ≤ s.fld (pLTX n) LTX.REM_CTRL.SUM_MAX)

/-- REM_STAT, REM_CNT and the event of a response whose code is final (R118, R120). -/
def State.remShow (s : State) (n code req arg : Nat) : State :=
  let b := pLTX n
  let s := ((s.setFld b LTX.REM_STAT.LAST_REQ req).setFld b LTX.REM_STAT.LAST_RESP code).setFld b LTX.REM_STAT.LAST_ARG arg
  if code = 0 then (s.addSat b LTX.REM_CNT.ACCEPTED 1).raise LTX.evREM_ANSWERED n
  else (s.addSat b LTX.REM_CNT.REFUSED 1).raise LTX.evREM_REFUSED n

/-- A remote request whose commit has ended becomes a response to send, once a slot later than its commit point may carry it
(R111, R289). -/
def State.remReady (s : State) (n : Nat) (atSlot : Bool) : State :=
  match (s.ltxSt n).rem with
  | some q =>
    match q.result with
    | some (ok, f) =>
      if atSlot && ok && f == (s.rd (pLTX n + LTX.FRAME_CNT)).toNat % 2 ^ 16 then s
      else
        let x : Rsp := ⟨q.tag, if ok then 0 else 4, q.code, q.arg, if ok then f else q.frame, false⟩
        (s.modLtx n fun t => { t with rem := none }).modPart n fun p => { p with rsp := p.rsp ++ [x] }
    | none => s
  | none => s

/-- An accepted request: its values enter the shadow bank, and a commit of the group is requested (R111). -/
def State.remAccept (s : State) (n g : Nat) (vals : List (Nat × Word)) (q : RemReq) : State :=
  let s := vals.foldl (fun s e => s.wr e.1 e.2) s
  (s.modLtx n fun t => { t with rem := some q }).commitRequest (pLTX n) (2 ^ g) none 1

/-- The FIR that a request of codes 1 to 3 would leave. A TAP request starts from the shadow bank as it stands, committed or not (R113 names the committed values;
DESIGN CHOICE, log entry 100). -/
def State.remFir (s : State) (n code tap step preset : Nat) : List Int :=
  if code = 1 then firPreset preset
  else (List.range 7).map (fun k =>
    let x := firOf s.rd n k
    if k = tap then (if code = 2 then x + (step : Int) else x - (step : Int)) else x)

/-- A transmit request is received and is no repeat (R107 to R111). LAST_ARG of a code without an argument is 0 (R118; DESIGN CHOICE, log entry 100). -/
def State.remNew (s : State) (n tag code tap step preset : Nat) : State :=
  let b := pLTX n
  let s := s.remReady n false
  let frame := (s.rd (b + LTX.FRAME_CNT)).toNat % 2 ^ 16
  let arg := if code = 1 then preset else if code = 2 ∨ code = 3 then tap * 16 + step else 0
  let refuse (s : State) (k : Nat) : State :=
    (s.remShow n k code arg).modPart n fun p => { p with rsp := p.rsp ++ [Rsp.mk tag k code arg frame true] }
  let swing := code = 4 ∨ code = 5
  if s.brownOut then refuse s 4
  else if 6 ≤ code ∨ ((code = 2 ∨ code = 3) ∧ (tap = 7 ∨ step = 0 ∨ 8 < step)) then refuse s 5
  else if code ≠ 0 ∧ (!s.bit b LTX.REM_CTRL.ALLOW ∨ (swing ∧ !s.bit b LTX.REM_CTRL.SWING_ALLOW)) then refuse s 2
  else if (s.ltxSt n).rem.isSome ∨ s.quietOpen (8 + n) then refuse s 3
  else if code = 0 then s.modPart n fun p => { p with rsp := p.rsp ++ [Rsp.mk tag 0 0 0 frame false] }
  else if swing then
    let a := b + LTX.AMP_CTRL
    let v : Int := (getBits (s.rd a) 0 6 : Int) + (if code = 4 then 1 else -1)
    if v < 0 ∨ 63 < v then refuse s 1
    else s.remAccept n 4 [(a, putBits (s.rd a) 0 6 v.toNat)] ⟨tag, frame, code, arg, none⟩
  else
    let l := s.remFir n code tap step preset
    if s.firAllowed n l then
      s.remAccept n 0 ((List.range 7).map (fun k => (b + LTX.FIR + 4 * k, BitVec.ofNat 32 (unsx 10 (l.getD k 0))))) ⟨tag, frame, code, arg, none⟩
    else refuse s 1

/-- A request of a type and TAG that the lane answered last is answered again as before, without acting (R290). -/
def State.repeated (s : State) (n type tag : Nat) (new : State → State) : State :=
  match (s.partSt n).last with
  | some (t, g, y) => if t = type ∧ g = tag then s.modPart n fun p => { p with replies := p.replies ++ [{ y with act := none }] } else new s
  | none => new s

/-- A TXREQ cell whose request code is among a row's. -/
def txreqCell (n : Nat) (c : Cell) (mine : Bool) (s : State) : R :=
  if mine then
    onCell n 2 c (fun s => s.repeated n 2 c.tag.toNat fun s =>
      s.remNew n c.tag.toNat (pfield c 0 3) (pfield c 3 3) (pfield c 6 4) (pfield c 10 2)) s
  else .next s

/-- REM_QUERY (R107). The cell carries the code of its row; on another cell the row stands for no event. -/
def execRemQuery (n : Fin 8) (c : Cell) (s : State) : R := txreqCell n.val c (pfield c 0 3 == 0) s
/-- REM_PRESET (R107). -/
def execRemPreset (n : Fin 8) (c : Cell) (s : State) : R := txreqCell n.val c (pfield c 0 3 == 1) s
/-- REM_TAP_INC (R107). -/
def execRemTapInc (n : Fin 8) (c : Cell) (s : State) : R := txreqCell n.val c (pfield c 0 3 == 2) s
/-- REM_TAP_DEC (R107). -/
def execRemTapDec (n : Fin 8) (c : Cell) (s : State) : R := txreqCell n.val c (pfield c 0 3 == 3) s
/-- REM_SWING_INC (R107). -/
def execRemSwingInc (n : Fin 8) (c : Cell) (s : State) : R := txreqCell n.val c (pfield c 0 3 == 4) s
/-- REM_SWING_DEC (R107). -/
def execRemSwingDec (n : Fin 8) (c : Cell) (s : State) : R := txreqCell n.val c (pfield c 0 3 == 5) s
/-- REM_INVALID_REQUEST (R109): code 6 or 7, tap 7, or a step of 0 or above 8. -/
def execRemInvalidRequest (n : Fin 8) (c : Cell) (s : State) : R :=
  let code := pfield c 0 3
  let tapped := code == 2 || code == 3
  txreqCell n.val c (decide (6 ≤ code) || (tapped && (pfield c 3 3 == 7 || pfield c 6 4 == 0 || decide (8 < pfield c 6 4)))) s

/-! ## Quiet windows (R144, R145, R288) -/

/-- PC_QREQ_RECEIVE (R144). -/
def execPcQreqReceive (n : Fin 8) (c : Cell) (s : State) : R :=
  onCell n.val 4 c (fun s => s.when (s.bit pCAL CAL.QUIET_CFG.QUIET_GRANT_EN) fun s =>
    s.modPart n.val fun x => { x with qreq := some (pfield c 0 8) }) s

/-- PC_QGRANT_RECEIVE (R144, R288). -/
def execPcQgrantReceive (n : Fin 8) (c : Cell) (s : State) : R :=
  onCell n.val 5 c (fun s => s.when ((s.calSt n.val).quiet == 2) fun s => s.modCal n.val fun x => { x with quiet := 3 }) s

/-- QUIET_WINDOW_CLOSE (R288): the frames granted have passed. -/
def execQuietWindowClose (n : Fin 8) (s : State) : R :=
  match (s.partSt n.val).window with
  | some (f, k) =>
    if s.quietOpen (8 + n.val) ∧ k ≤ ((s.rd (pLTX n.val + LTX.FRAME_CNT)).toNat + 2 ^ 32 - f) % 2 ^ 32 then
      .next ((s.modPart n.val fun x => { x with window := none }).setFld pCAL (uf (8 + n.val) CAL.U_STAT.QUIET_OPEN) 0)
    else .next s
  | none => .next s

/-- LINE_TX_FRAME_BOUNDARY (R99, R101, R103, R145): the frame that ends here has been sent; the frame count, the commit point, a granted
window that opens, and a stop. -/
def execLineTxFrameBoundary (n : Fin 8) (late : Nat) (s : State) : R :=
  let n := n.val
  let b := pLTX n
  if s.txState n = 3 then
    let s0 := s
    let s := (s.txSend n).addWrap b (whole LTX.FRAME_CNT) 1
    let s := s.txPoint n late
    let opens : Bool := match (s.partSt n).window with
      | some (f, _) => f == (s.rd (b + LTX.FRAME_CNT)).toNat
      | none => false
    let s := s.when opens fun s => s.setFld pCAL (uf (8 + n) CAL.U_STAT.QUIET_OPEN) 1
    .next (watch s0 (s.when (s.ltxSt n).stop fun s => (s.setTx n 1).settleTx n))
  else .next s

/-! ## Responses received (R290, R291, R294, R296) -/

/-- PC_TXRSP_RECEIVE (R291): the response to the TXREQ that waits. A QUERY answered ACCEPTED carries the QUERY layout (R287). -/
def execPcTxrspReceive (n : Fin 8) (c : Cell) (s : State) : R :=
  let n := n.val
  let b := pPART n
  onCell n 3 c (fun s =>
    match (s.partSt n).tx with
    | some q =>
      if q.tag = c.tag.toNat then
        let code := pfield c 0 3
        let query := q.payload / 2 ^ 77 == 0 && code == 0
        let s := (s.modPart n fun x => { x with tx := none }).wr (b + PART.TXRSP)
          (BitVec.ofNat 32 (2 ^ 31 + code * 2 ^ 16 + (if query then 0 else pfield c 3 16)))
        let f (k : Nat) := pfield c (3 + 10 * k) 10
        let s := s.when query fun s =>
          ((s.wr (b + PART.TXRSP_Q0) (BitVec.ofNat 32 (f 0 + f 1 * 2 ^ 10 + f 2 * 2 ^ 20))).wr (b + PART.TXRSP_Q1)
            (BitVec.ofNat 32 (f 3 + f 4 * 2 ^ 10 + f 5 * 2 ^ 20))).wr (b + PART.TXRSP_Q2) (BitVec.ofNat 32 (f 6 + pfield c 73 6 * 2 ^ 16))
        s.raise PART.evTXRSP n
      else s
    | none => s) s

/-- TXRSP_TIMEOUT (R291). -/
def execTxrspTimeout (n : Fin 8) (s : State) : R :=
  if (s.partSt n.val).tx.isSome then
    .next ((s.modPart n.val fun x => { x with tx := none }).setFld (pPART n.val) PART.TXRSP.TIMEOUT 1)
  else .next s

/-- The remote read of lane `n` ends (R294). -/
def State.rrEnd (s : State) (n status w0 w1 : Nat) : State :=
  let b := pPART n
  let s := (s.modPart n fun x => { x with rr := none }).wr (b + PART.RR_STAT) (BitVec.ofNat 32 (2 ^ 31 + status))
  let s := s.when (status == 0) fun s => (s.wr (b + PART.RR_DATA0) (BitVec.ofNat 32 w0)).wr (b + PART.RR_DATA1) (BitVec.ofNat 32 w1)
  s.raise PART.evRR_DONE n

/-- PC_RRSP_RECEIVE (R294). -/
def execPcRrspReceive (n : Fin 8) (c : Cell) (s : State) : R :=
  onCell n.val 9 c (fun s =>
    match (s.partSt n.val).rr with
    | some q => if q.tag = c.tag.toNat then s.rrEnd n.val (pfield c 0 3) (pfield c 8 32) (pfield c 40 32) else s
    | none => s) s

/-- The loopback request of lane `n` ends with a code (R296). -/
def State.rlbEnd (s : State) (n code : Nat) (q : Ask) : State :=
  let b := pPART n
  let was := s.bit b PART.RLB_STAT.REMOTE_ACTIVE
  let on : Bool := if code = 0 then q.payload != 0 else was
  let s := (s.modPart n fun x => { x with rlb := none }).wr (b + PART.RLB_STAT)
    (BitVec.ofNat 32 (2 ^ 31 + (if on then 2 ^ 9 else 0) + code))
  s.when (on != was) fun s => s.raise PART.evRLB_CHANGE n

/-- PC_RLBRSP_RECEIVE (R296). -/
def execPcRlbrspReceive (n : Fin 8) (c : Cell) (s : State) : R :=
  onCell n.val 11 c (fun s =>
    match (s.partSt n.val).rlb with
    | some q => if q.tag = c.tag.toNat then s.rlbEnd n.val (pfield c 0 3) q else s
    | none => s) s

/-- REQUEST_RESEND_TIMEOUT (R290): the RREQ of a lane, or its RLBREQ if `rlb`, is sent again, and after two resends ends TIMEOUT. -/
def execRequestResendTimeout (n : Fin 8) (rlb : Bool) (s : State) : R :=
  let x := s.partSt n.val
  match (if rlb then x.rlb else x.rr) with
  | some q =>
    if q.tries < 2 then
      let q' : Ask := { q with tries := q.tries + 1, due := true }
      .next (s.modPart n.val fun x => if rlb then { x with rlb := some q' } else { x with rr := some q' })
    else .next (if rlb then s.rlbEnd n.val 3 q else s.rrEnd n.val 4 0 0)
  | none => .next s

/-! ## Requests of this device (R290, R291, R294, R295) -/

/-- The TAG of the next request: 1 to 255 in turn (DESIGN CHOICE, log entry 22). -/
def State.nextTag (s : State) (n : Nat) : Nat := (s.partSt n).reqTag % 255 + 1

/-- A request with the next TAG. -/
def State.ask (s : State) (n payload : Nat) : Ask := ⟨s.nextTag n, payload, 0, true⟩

/-- A write of TXREQ (R291, R317, R318). -/
def effTxreq (n : Nat) (v : Word) (s : State) : Out :=
  let b := pPART n
  if (s.partSt n).tx.isSome then .ok (s.setFld b PART.PC_STAT.TXREQ_REJ 1)
  else
    let s := (s.setFld b PART.PC_STAT.TXREQ_REJ 0).setFld b ⟨PART.TXRSP, 30, 2⟩ 0
    let p := getBits v 0 3 * 2 ^ 77 + getBits v 4 3 * 2 ^ 74 + getBits v 8 4 * 2 ^ 70 + getBits v 12 2 * 2 ^ 68
    .ok (s.modPart n fun x => { x with tx := some (s.ask n p), reqTag := s.nextTag n })

/-- PART_TXREQ (R291). -/
def execPartTxreq (r : Requester) (n : Fin 8) (v : Word) (s : State) : R := txn r (pPART n.val + PART.TXREQ) v (effTxreq n.val v) s

/-- A write of RR_CMD (R294, R317). -/
def effRrCmd (n : Nat) (v : Word) (s : State) : Out :=
  let b := pPART n
  if v.getLsbD 0 && !s.bit b PART.RR_STAT.BUSY then
    let p := (s.rd (b + PART.RR_ADDR)).toNat * 2 ^ 48 + getBits v 1 1 * 2 ^ 47 + getBits v 2 1 * 2 ^ 46
    let q := s.ask n p
    .ok ((s.modPart n fun x => { x with rr := some q, reqTag := q.tag }).wr (b + PART.RR_STAT) 0x40000000)
  else .ok s

/-- RR_GO (R294). -/
def execRrGo (r : Requester) (n : Fin 8) (count2 snap : Bool) (s : State) : R :=
  let v : Word := 1 + (if count2 then 2 else 0) + (if snap then 4 else 0)
  txn r (pPART n.val + PART.RR_CMD) v (effRrCmd n.val v) s

/-- A write of RLB_CMD (R295): an RLBREQ in place of one still waiting. Where both bits are 1 the spec does not say which is sent (log
entry 23). -/
def effRlbCmd (n : Nat) (v : Word) (s : State) : Out :=
  if getBits v 0 2 = 0 then .ok s
  else
    let (k, s) := if getBits v 0 2 = 3 then (let (x, s) := s.fresh; (x % 2, s)) else (getBits v 0 1, s)
    let q := s.ask n (k * 2 ^ 79)
    .ok ((s.modPart n fun x => { x with rlb := some q, reqTag := q.tag }).setFld (pPART n) PART.RLB_STAT.DONE 0)

/-- RLB_START_CMD (R295). -/
def execRlbStartCmd (r : Requester) (n : Fin 8) (s : State) : R := txn r (pPART n.val + PART.RLB_CMD) 0x1 (effRlbCmd n.val 0x1) s
/-- RLB_STOP_CMD (R297). -/
def execRlbStopCmd (r : Requester) (n : Fin 8) (s : State) : R := txn r (pPART n.val + PART.RLB_CMD) 0x2 (effRlbCmd n.val 0x2) s

/-! ## Loopback for the partner (R295 to R297) -/

/-- The port that contains LNn, by its first lane; the lane's own number where none does. -/
def State.loopPort (s : State) (n : Nat) : Nat := (s.portOfLine n).getD n

/-- The port loops for the partner. -/
def State.looped (s : State) (p : Nat) : Bool := s.bit (pPART p) PART.PC_STAT.RLB_ACTIVE

/-- Queue an RLBRSP. -/
def State.rlbReply (s : State) (n tag code : Nat) (act : Option Nat) : State :=
  s.modPart n fun x => { x with replies := x.replies ++ [Reply.mk 11 tag (code * 2 ^ 77) act] }

/-- An RLBREQ START (R295, R296). PC_CTRL.EN at 0 disables loopback (R318) and is answered as RLB_ALLOW at 0 is (DEDUCED, log entry 24). -/
def State.rlbStart (s : State) (n tag : Nat) : State :=
  let f := s.loopPort n
  if !s.bit (pPART f) PART.PC_CTRL.RLB_ALLOW ∨ !s.bit (pPART n) PART.PC_CTRL.EN ∨ !s.enabled (pPART n) then s.rlbReply n tag 1 none
  else if s.looped f then s.rlbReply n tag 0 none
  else if s.portState f = 2 ∧ s.fld (pHSL (s.firstHost f)) HSL.PORT_LB.MODE = 0 ∧ !s.brownOut then s.rlbReply n tag 0 (some 2)
  else s.rlbReply n tag 2 none

/-- PC_RLBREQ_START (R295). -/
def execPcRlbreqStart (n : Fin 8) (c : Cell) (s : State) : R :=
  if pfield c 0 1 = 1 then onCell n.val 10 c (fun s => s.repeated n.val 10 c.tag.toNat fun s => s.rlbStart n.val c.tag.toNat) s else .next s

/-- PC_RLBREQ_STOP (R297). -/
def execPcRlbreqStop (n : Fin 8) (c : Cell) (s : State) : R :=
  if pfield c 0 1 = 0 then
    onCell n.val 10 c (fun s => s.repeated n.val 10 c.tag.toNat fun s =>
      s.rlbReply n.val c.tag.toNat 0 (if s.looped (s.loopPort n.val) then some 0 else none)) s
  else .next s

/-- A looped port is to leave the loop at its next frame boundary; a loop not yet begun does not begin (R297). -/
def State.endLoop (s : State) (p : Nat) : State :=
  s.modPort p fun x => { x with lbPend := if s.looped p then some 0 else none }

/-- RLB_TIMEOUT (R297). -/
def execRlbTimeout (p : Fin 8) (s : State) : R :=
  if s.looped p.val ∧ s.fld (pPART p.val) PART.RLB_TMO.S ≠ 0 then .next (s.endLoop p.val) else .next s

/-- A write of PC_CTRL (R297, R318): RLB_ALLOW at 0 ends a loop. -/
def effPcCtrl (n : Nat) (v : Word) (s : State) : Out :=
  .ok ((s.wr (pPART n + PART.PC_CTRL) v).when (!v.getLsbD 2) fun s => s.endLoop n)

/-- RLB_ALLOW_CLEAR (R297). -/
def execRlbAllowClear (r : Requester) (n : Fin 8) (s : State) : R :=
  let v := s.rd (pPART n.val + PART.PC_CTRL) &&& ~~~0x4
  txn r (pPART n.val + PART.PC_CTRL) v (effPcCtrl n.val v) s

/-! ## Firmware cells (R317, R318) -/

/-- FW_TX_FULL, FW_RX_CNT and the head entry FW_RX0 to FW_RX3 show the queues. -/
def State.fwShow (s : State) (n : Nat) : State :=
  let b := pPART n
  let x := s.partSt n
  let s := (s.setFld b PART.PC_STAT.FW_TX_FULL (if x.fwTx.length = 4 then 1 else 0)).setFld b PART.PC_STAT.FW_RX_CNT x.fwRx.length
  let (t, g, p) := x.fwRx.headD (0, 0, 0)
  let s := (s.wr (b + PART.FW_RX) (BitVec.ofNat 32 (t + g * 256))).wr (b + PART.FW_RX + 4) (BitVec.ofNat 32 (p / 2 ^ 48))
  (s.wr (b + PART.FW_RX + 8) (BitVec.ofNat 32 (p / 2 ^ 16))).wr (b + PART.FW_RX + 12) (BitVec.ofNat 32 (p % 2 ^ 16))

/-- PC_FW_RECEIVE (R317, R318). -/
def execPcFwReceive (n : Fin 8) (type : BitVec 8) (c : Cell) (s : State) : R :=
  let n := n.val
  let b := pPART n
  if 0x40 ≤ type.toNat ∧ type.toNat ≤ 0x7F then
    onCell n type.toNat c (fun s =>
      if !s.bit b PART.PC_CTRL.EN ∨ !s.enabled b then s
      else if (s.partSt n).fwRx.length < 8 then
        let first := (s.partSt n).fwRx.isEmpty
        let s := s.modPart n fun x => { x with fwRx := x.fwRx ++ [(type.toNat, c.tag.toNat, c.payload.toNat)] }
        (s.fwShow n).when first fun s => s.raise PART.evFW_RX n
      else (s.addSat b PART.CNT_UNK.FW_DROP 1).raise PART.evFW_DROP n) s
  else .next s

/-- A write of FW_TX3 (R317): it queues the cell, or is dropped. -/
def effFwTx3 (n : Nat) (v : Word) (s : State) : Out :=
  let b := pPART n
  let s := s.wr (b + PART.FW_TX3) v
  let h := (s.rd (b + PART.FW_TX0)).toNat
  let p := ((s.rd (b + PART.FW_TX1)).toNat * 2 ^ 32 + (s.rd (b + PART.FW_TX2)).toNat) * 2 ^ 16 + v.toNat % 2 ^ 16
  if (s.partSt n).fwTx.length < 4 then
    .ok ((s.modPart n fun x => { x with fwTx := x.fwTx ++ [(h % 256, h / 256 % 256, p)] }).fwShow n)
  else .ok s

/-- FW_TX_QUEUE (R317). -/
def execFwTxQueue (r : Requester) (n : Fin 8) (v : BitVec 16) (s : State) : R :=
  txn r (pPART n.val + PART.FW_TX3) (v.setWidth 32) (effFwTx3 n.val (v.setWidth 32)) s

/-- A read of FW_RX3 (R317): the head entry's last word, and the entry is removed. -/
def State.popFw (s : State) (n : Nat) : Word × State :=
  (s.rd (pPART n + PART.FW_RX + 12), (s.modPart n fun x => { x with fwRx := x.fwRx.tail }).fwShow n)

/-- FW_RX_POP (R317). -/
def execFwRxPop (r : Requester) (n : Fin 8) (s : State) : R := readTxn r (pPART n.val + PART.FW_RX + 12) (fun s => s.popFw n.val) s

/-! ## Two-way transfer (R335, R336) -/

/-- The arrival stamp of the cell looked at last (R334): the counter as symbol 0 of its first frame arrived, corrected. -/
def State.arrival (s : State) (n : Nat) : Nat := ((((s.partSt n).asm.doneAt : Int) + s.corr TIME.LCORR_RX) % (2 ^ 80 : Nat)).toNat

/-- PC_TT_A_RECEIVE (R334, R336). -/
def execPcTtAReceive (n : Fin 8) (c : Cell) (s : State) : R :=
  onCell n.val 6 c (fun s =>
    let t2 := s.arrival n.val
    let en := s.bit (pPART n.val) PART.PC_CTRL.EN
    s.modTt n.val fun t => { t with peer := some (pfield c 56 14, pfield c 70 3), answer := if en then some (c.tag.toNat, t2) else t.answer }) s

/-- PC_TT_B_RECEIVE (R334, R336): T1 to T4 complete the lane's block. TT_PEER takes the node and quality of the partner's latest TT_A, the
one cell that carries them; where none has come it is a free value (log entry 25). -/
def execPcTtBReceive (n : Fin 8) (c : Cell) (s : State) : R :=
  let n := n.val
  onCell n 7 c (fun s =>
    let t := s.tt n
    if t.tag = c.tag.toNat ∧ t.tag ≠ 0 then
      let t4 := s.arrival n
      let (node, q, s) : Nat × Nat × State := match t.peer with
        | some (a, b) => (a, b, s)
        | none => let (x, s) := s.fresh; (x % 2 ^ 14, x / 2 ^ 14 % 8, s)
      let a := pTIME + 32 * n
      let s := (s.wr (a + TIME.TT_T1) (stampNs t.t1)).wr (a + TIME.TT_T2) (BitVec.ofNat 32 (pfield c 0 32))
      let s := (s.wr (a + TIME.TT_T3) (BitVec.ofNat 32 (pfield c 32 32))).wr (a + TIME.TT_T4) (stampNs t4)
      let s := s.wr (a + TIME.TT_FRAC) (BitVec.ofNat 32
        (stampFrac t.t1 + pfield c 64 8 * 2 ^ 8 + pfield c 72 8 * 2 ^ 16 + stampFrac t4 * 2 ^ 24))
      let s := s.wr (a + TIME.TT_INFO) (BitVec.ofNat 32 (2 ^ 31 + t.tag * 2 ^ 16 + stampWraps t.t1))
      let s := s.wr (a + TIME.TT_PEER) (BitVec.ofNat 32 (q * 2 ^ 16 + node))
      (s.modTt n fun t => { t with awaiting := false }).raise TIME.evTT_DONE 0
    else s) s

/-! ## Cell slots (R283, R286, R289) -/

/-- A cell to send: its TYPE, TAG and payload, and the state once it is chosen. -/
abbrev Chosen := Nat × Nat × Nat × State

/-- The payload of a TXRSP (R287). -/
def State.rspPayload (s : State) (n : Nat) (x : Rsp) : Nat :=
  if x.code = 0 ∧ x.req = 0 then
    let f := (List.range 7).foldl (fun v k => v * 2 ^ 10 + unsx 10 (firOf s.inf n k)) 0
    f * 2 ^ 7 + getBits (s.inf (pLTX n + LTX.AMP_CTRL)) 0 6 * 2
  else x.code * 2 ^ 77 + x.frame * 2 ^ 61

/-- Rank 1 (R289): a TXRSP; its code becomes final now unless it was at receipt (R120). -/
def State.slotRsp (s : State) (n : Nat) : Option Chosen :=
  let x := s.partSt n
  match x.rsp with
  | r :: t =>
    let p := s.rspPayload n r
    let s := s.modPart n fun x => { x with rsp := t, last := some (2, r.tag, Reply.mk 3 r.tag p none) }
    some (3, r.tag, p, s.when (!r.shown) fun s => s.remShow n r.code r.req r.arg)
  | [] =>
    match x.replies.find? (fun (y : Reply) => y.type == 3) with
    | some y => some (3, y.tag, y.payload, s.modPart n fun x => { x with replies := x.replies.erase y })
    | none => none

/-- Rank 2: a QGRANT, then a QREQ (R144, R288). -/
def State.slotQuiet (s : State) (n : Nat) : Option Chosen :=
  let ph := s.phase (8 + n)
  match (if ph = 1 ∨ ph = 2 then none else (s.partSt n).qreq) with
  | some k =>
    let f := ((s.rd (pLTX n + LTX.FRAME_CNT)).toNat + 32) % 2 ^ 32
    some (5, 0, k * 2 ^ 72 + f % 2 ^ 16 * 2 ^ 56, s.modPart n fun x => { x with qreq := none, window := some (f, k) })
  | none =>
    if (s.calSt n).quiet = 1 then
      some (4, 0, max 1 (s.fld pCAL CAL.QUIET_CFG.QUIET_LEN) * 2 ^ 72, s.modCal n fun x => { x with quiet := 2 })
    else none

/-- Rank 3: a TT_B, then a TT_A; the slot is the instant of departure (R334 to R336). -/
def State.slotTt (s : State) (n : Nat) : Option Chosen :=
  let t := s.tt n
  let now := s.stamp (s.corr TIME.LCORR_TX + s.skewNs n)
  match t.answer with
  | some (g, t2) =>
    some (7, g, (stampNs t2).toNat * 2 ^ 48 + (stampNs now).toNat * 2 ^ 16 + stampFrac t2 * 2 ^ 8 + stampFrac now,
      s.modTt n fun t => { t with answer := none })
  | none =>
    if t.want then
      let g := t.tag % 255 + 1
      some (6, g, (stampNs now).toNat * 2 ^ 48 + stampFrac now * 2 ^ 40 + stampWraps now * 2 ^ 24
          + s.fld pTIME TIME.NODE.NODE_ID * 2 ^ 10 + s.quality * 2 ^ 7,
        (s.modTt n fun t => { t with want := false, tag := g, t1 := now, awaiting := true }).startClock (clkTt n))
    else none

/-- Rank 4: an RRSP or RLBRSP. -/
def State.slotReply (s : State) (n : Nat) : Option Chosen :=
  match (s.partSt n).replies with
  | y :: t =>
    some (y.type, y.tag, y.payload, s.modPart n fun x =>
      { x with replies := t, leaving := y.act, last := some (y.type - 1, y.tag, { y with act := none }) })
  | [] => none

/-- The channel's enabled functions run (R318, R441). -/
def State.partOn (s : State) (n : Nat) : Bool := s.bit (pPART n) PART.PC_CTRL.EN && s.enabled (pPART n)

/-- Rank 5: an RREQ or RLBREQ, and a TXREQ, which R289 does not rank and which is taken here with the other requests (DEDUCED, log
entry 26). -/
def State.slotAsk (s : State) (n : Nat) : Option Chosen :=
  let x := s.partSt n
  let due (o : Option Ask) (c : Bool) : Option Ask := if c then o.filter (fun (q : Ask) => q.due) else none
  match due x.tx true, due x.rr (s.partOn n), due x.rlb (s.partOn n) with
  | some q, _, _ => some (2, q.tag, q.payload, s.modPart n fun x => { x with tx := some { q with due := false } })
  | none, some q, _ => some (8, q.tag, q.payload, s.modPart n fun x => { x with rr := some { q with due := false } })
  | none, none, some q => some (10, q.tag, q.payload, s.modPart n fun x => { x with rlb := some { q with due := false } })
  | none, none, none => none

/-- Ranks 6 and 8: an IDENT that is due by its interval, or because the last 1,024 cells held none. -/
def State.slotIdent (s : State) (n : Nat) (idle : Bool) : Option Chosen :=
  let k := s.fld (pPART n) PART.PC_CTRL.IDENT_INT
  let due : Bool := match (s.partSt n).identAge with
    | some a => if idle then decide (1024 < a) else k != 0 && decide (1024 * k ≤ a)
    | none => idle
  if due && s.partOn n then
    some (1, 0, Config.devId.toNat * 2 ^ 16 + n * 2 ^ 13 + (if s.slave then 0 else 2 ^ 12) + s.variant % 4 * 2 ^ 10,
      s.modPart n fun x => { x with identAge := some 0 })
  else none

/-- Rank 7: a firmware cell; those queued when the page drains are sent under COMPLETE (R441). -/
def State.slotFw (s : State) (n : Nat) : Option Chosen :=
  match (s.partSt n).fwTx with
  | (t, g, p) :: l =>
    if s.bit (pPART n) PART.PC_CTRL.EN ∧ s.fstate (pPART n) ≠ 0 then
      some (t, g, p, (s.modPart n fun x => { x with fwTx := l }).fwShow n)
    else none
  | [] => none

/-- The cell that a slot carries (R289). -/
def State.chooseCell (s : State) (n : Nat) : Chosen :=
  match s.slotRsp n with
  | some c => c
  | none => match s.slotQuiet n with
    | some c => c
    | none => match s.slotTt n with
      | some c => c
      | none => match s.slotReply n with
        | some c => c
        | none => match s.slotAsk n with
          | some c => c
          | none => match s.slotIdent n false with
            | some c => c
            | none => match s.slotFw n with
              | some c => c
              | none => match s.slotIdent n true with
                | some c => c
                | none => (0, 0, 0, s)

/-- PC_CELL_SLOT (R283, R286, R289): the cell before has left, and the first that is ready is sent. -/
def execPcCellSlot (n : Fin 8) (s : State) : R :=
  let n := n.val
  let frame := (s.rd (pLTX n + LTX.FRAME_CNT)).toNat
  if s.cellsOn n ∧ frame % 32 = 0 ∧ (s.partSt n).slot ≠ some frame then
    let p := s.loopPort n
    let s := match (s.partSt n).leaving with
      | some m => if m = 2 ∧ !s.bit (pPART p) PART.PC_CTRL.RLB_ALLOW then s else s.modPort p fun x => { x with lbPend := some m }
      | none => s
    let s := s.modPart n fun x => { x with leaving := none, slot := some frame, identAge := x.identAge.map (· + 1) }
    let (t, g, y, s) := (s.remReady n true).chooseCell n
    let v := cellBits t (s.partSt n).txSeq g y
    let s := s.ttCount n
    .next (s.modPart n fun x => { x with txSeq := (x.txSeq + 1) % 2 ^ 16, sent := BitVec.ofNat 128 (v * 2 ^ 16 + crc16 112 v) })
  else .next s

end Sys2Proof.Machine
end

