-- ==== Sys2Proof/Machine/Dawn.lean ====
section
/-! DEFINITION. The dawn channel (R300 to R313): commands and the transmitter's ends, the receiver's detections and states, packets delivered,
and the noise floor. -/

namespace Sys2Proof.Machine

/-! ## The receive queue and the registers that show it (R310, R321) -/

/-- RX_COUNT and the head entry's registers. -/
def State.dawnShow (s : State) (n : Nat) : State :=
  let b := pDAWN n
  let q := (s.dawnSt n).queue
  let s := s.setFld b DAWN.DW_STAT.RX_COUNT q.length
  let p : DawnPkt := q.headD ⟨0, 0, 0, 0, 0, 0, 0, []⟩
  let hdr := (if q.isEmpty then 0 else 2 ^ 31) + p.rate * 2 ^ 24 + p.seq * 2 ^ 16 + p.len * 2 ^ 8 + p.type
  let s := (s.wr (b + DAWN.RX_HDR) (BitVec.ofNat 32 hdr)).wr (b + DAWN.RX_SRC_LO) (p.src.setWidth 32)
  let s := (s.wr (b + DAWN.RX_SRC_HI) (BitVec.ofNat 32 (p.src.toNat / 2 ^ 32))).wr (b + DAWN.RX_METRIC) (BitVec.ofNat 32 p.metric)
  let s := s.wr (b + DAWN.RX_TIME) p.ns
  (List.range 16).foldl (fun s i =>
    let w := (List.range 4).foldl (fun w j => w + (p.payload.getD (4 * i + j) 0).toNat * 256 ^ j) 0
    s.wr (b + DAWN.RX_BUF + 4 * i) (BitVec.ofNat 32 w)) s

/-! ## Commands and the transmitter (R301, R303, R313, R322) -/

/-- SEND or RESEND (R303, R322). -/
def State.dawnSend (s : State) (n : Nat) (again : Bool) : State :=
  let b := pDAWN n
  let h := s.rd (b + DAWN.TX_HDR)
  let type := getBits h 0 8
  let len := getBits h 8 8
  let rate := getBits h 16 2
  if (s.dawnSt n).tx.isSome then s
  else if type = 0 ∨ 64 < len ∨ rate = 3 then s.dawnEnd n 3
  else
    let buf := (List.range len).map (fun i => BitVec.ofNat 8 ((s.rd (b + DAWN.TX_BUF + 4 * (i / 4))).toNat / 256 ^ (i % 4)))
    let s := s.modDawn n fun x => { x with tx := some ⟨type, len, rate, buf, again, false⟩ }
    let s := s.setFld b ⟨DAWN.TX_STAT, 30, 2⟩ 1
    let s := (s.setFld b DAWN.DW_STAT.TX_BUSY 1).setFld b DAWN.DW_STAT.TX_BLOCKED 1
    s.dawnSettle n

/-- ABORT (R322): the packet in hand ends CANCELLED. -/
def State.dawnAbort (s : State) (n : Nat) : State := if (s.dawnSt n).tx.isSome then (s.dawnEnd n 4).dawnSettle n else s

/-- RX_POP (R310). -/
def State.dawnPop (s : State) (n : Nat) : State := (s.modDawn n fun x => { x with queue := x.queue.tail }).dawnShow n

/-- CNT_CLR (R321). -/
def State.dawnClr (s : State) (n : Nat) : State := (List.range 6).foldl (fun s i => s.wr (pDAWN n + DAWN.CNT_A + 4 * i) 0) s

/-- A write of DW_CMD: its bits act in their order (log entry 27). -/
def effDwCmd (n : Nat) (v : Word) (s : State) : Out :=
  let s := s.when (v.getLsbD 0) fun s => s.dawnSend n false
  let s := s.when (v.getLsbD 1) fun s => s.dawnSend n true
  let s := s.when (v.getLsbD 2) fun s => s.dawnAbort n
  let s := s.when (v.getLsbD 3) fun s => s.dawnPop n
  .ok (s.when (v.getLsbD 4) fun s => s.dawnClr n)

/-- DAWN_SEND (R301, R303). -/
def execDawnSend (r : Requester) (n : Fin 8) (s : State) : R := txn r (pDAWN n.val + DAWN.DW_CMD) 0x01 (effDwCmd n.val 0x01) s
/-- DAWN_RESEND (R303). -/
def execDawnResend (r : Requester) (n : Fin 8) (s : State) : R := txn r (pDAWN n.val + DAWN.DW_CMD) 0x02 (effDwCmd n.val 0x02) s
/-- DAWN_ABORT (R322). -/
def execDawnAbort (r : Requester) (n : Fin 8) (s : State) : R := txn r (pDAWN n.val + DAWN.DW_CMD) 0x04 (effDwCmd n.val 0x04) s
/-- DAWN_RX_POP (R310). -/
def execDawnRxPop (r : Requester) (n : Fin 8) (s : State) : R := txn r (pDAWN n.val + DAWN.DW_CMD) 0x08 (effDwCmd n.val 0x08) s
/-- DAWN_CNT_CLR (R321). -/
def execDawnCntClr (r : Requester) (n : Fin 8) (s : State) : R := txn r (pDAWN n.val + DAWN.DW_CMD) 0x10 (effDwCmd n.val 0x10) s

/-- DAWN_TX_DONE (R302, R322): the last bit of the packet has been sent. -/
def execDawnTxDone (n : Fin 8) (s : State) : R :=
  if s.pilotOn n.val then .next ((s.dawnEnd n.val 0).dawnSettle n.val) else .next s

/-- DAWN_TX_BLOCKED (R301): a waiting packet reaches TX_TMO. -/
def execDawnTxBlocked (n : Fin 8) (s : State) : R :=
  match (s.dawnSt n.val).tx with
  | some p => if p.sending then .next s else .next ((s.dawnEnd n.val 2).dawnSettle n.val)
  | none => .next s

/-- HELLO_DUE (R313). -/
def execHelloDue (n : Fin 8) (s : State) : R :=
  if s.bit (pDAWN n.val) DAWN.DW_CTRL.AUTO_HELLO then .next ((s.modDawn n.val fun x => { x with hello := true }).dawnSettle n.val) else .next s

/-! ## The receiver's states (R306, R307, R309) -/

/-- RX_STATE. -/
def State.dawnState (s : State) (n : Nat) : Nat := s.fld (pDAWN n) DAWN.DW_STAT.RX_STATE

/-- The receiver enters SYNC on a detection, its AGC frozen at `gain`, or held while the brown-out warning stands (R306, R307, R311). -/
def State.dawnSync (s : State) (n rate metric gain : Nat) : State :=
  let b := pDAWN n
  let s := s.modDawn n fun x => { x with rx := ⟨0, 0, 0, 0, rate, metric, 0, []⟩ }
  let s := (s.setFld b DAWN.DW_STAT.RX_STATE 2).setFld b DAWN.DW_STAT.RX_RATE rate
  (s.setFld b DAWN.DW_STAT.AGC_FROZEN 1).when (!s.brownOut) fun s => s.setFld b DAWN.AGC.GAIN gain

/-- A reception ends or is abandoned (R307, R309): the candidate, if any, is taken at its recorded value, else the search goes on. -/
def State.dawnRelease (s : State) (n : Nat) : State :=
  let b := pDAWN n
  match (s.dawnSt n).cand with
  | some d =>
    ((s.modDawn n fun x => { x with cand := none }).setFld b DAWN.DW_STAT.CAND 0).dawnSync n d.rate d.metric d.gain
  | none =>
    let s := (s.setFld b DAWN.DW_STAT.RX_STATE 1).setFld b DAWN.DW_STAT.RX_RATE 0
    (s.setFld b DAWN.DW_STAT.AGC_FROZEN 0).when (!s.brownOut) fun s => s.setFld b DAWN.AGC.GAIN (s.fld b DAWN.AGC.SHADOW)

/-- The receiver runs (R306, R441, R551): RX_EN in NOON, the page enabled and its island out of reset. -/
def State.dawnRxMay (s : State) (n : Nat) : Bool :=
  s.bit (pDAWN n) DAWN.DW_CTRL.RX_EN && s.noon && s.enabled (pDAWN n) && decide (3 ≤ s.upStage) && decide (n < s.lines)

/-- The receiver goes to OFF, or from OFF to SEARCH, as its conditions ask (R306). -/
def State.dawnRxSettle (s : State) (n : Nat) : State :=
  let b := pDAWN n
  if s.dawnRxMay n then
    if s.dawnState n = 0 then s.setFld b DAWN.DW_STAT.RX_STATE 1 else s
  else if s.dawnState n = 0 then s
  else
    let s := (s.modDawn n fun x => { x with cand := none, rx := DawnSt.init.rx }).setFld b DAWN.DW_STAT.CAND 0
    let s := (s.setFld b DAWN.DW_STAT.RX_STATE 0).setFld b DAWN.DW_STAT.RX_RATE 0
    s.setFld b DAWN.DW_STAT.AGC_FROZEN 0

/-- A write of DW_CTRL (R301, R306, R312, R322): NOISE_VALID counts from RX_EN's setting; HELLO_RATE code 3 is reserved. -/
def effDwCtrl (n : Nat) (v : Word) (s : State) : Out :=
  if getBits v 8 2 = 3 then hostError [pDAWN n] s
  else
    let s := ((s.wr (pDAWN n + DAWN.DW_CTRL) v).dawnRxSettle n).dawnSettle n
    .ok (s.when (!s.bit (pDAWN n) DAWN.DW_CTRL.RX_EN) fun s => s.setFld (pDAWN n) DAWN.DW_STAT.NOISE_VALID 0)

/-- DAWN_RX_ENABLE (R306). -/
def execDawnRxEnable (r : Requester) (n : Fin 8) (s : State) : R :=
  let v := s.rd (pDAWN n.val + DAWN.DW_CTRL) ||| 0x1
  txn r (pDAWN n.val + DAWN.DW_CTRL) v (effDwCtrl n.val v) s

/-- DAWN_RX_DISABLE (R306). -/
def execDawnRxDisable (r : Requester) (n : Fin 8) (s : State) : R :=
  let v := s.rd (pDAWN n.val + DAWN.DW_CTRL) &&& ~~~0x1
  txn r (pDAWN n.val + DAWN.DW_CTRL) v (effDwCtrl n.val v) s

/-! ## Detections (R305, R308, R309) -/

/-- The threshold of a rate in DET_THR. -/
def State.dawnThr (s : State) (n rate : Nat) : Nat := s.fld (pDAWN n) ⟨DAWN.DET_THR, 8 * rate, 8⟩

/-- 80·log10 of a depth of `d` millionths, rounded down: 20·log10 in units of 0.25 dB, from −480. -/
def depthDb (d : Nat) : Int := ((List.range 481).foldl (fun m k => if 10 ^ k ≤ d ^ 80 then k else m) 0 : Nat) - 480

/-- The metric of a detection in units of 0.25 dB (R305): the pilot depth over the noise floor, within what the field holds. -/
def State.dawnMetric (s : State) (n : Nat) (d : Detection) : Nat :=
  (max 0 (min 255 (depthDb d.depth.toNat - sx 10 (s.fld (pDAWN n) DAWN.NOISE.FLOOR)))).toNat

/-- A detection that does not pre-empt becomes the candidate if it is better than the one held (R308). -/
def State.dawnHold (s : State) (n : Nat) (d : DawnCand) : State :=
  let better : Bool := match (s.dawnSt n).cand with
    | some c => decide (c.metric < d.metric)
    | none => true
  s.when better fun s => (s.modDawn n fun x => { x with cand := some d }).setFld (pDAWN n) DAWN.DW_STAT.CAND 1

/-- One detection (R305, R307, R308, R311): metrics in units of 0.25 dB. -/
def State.dawnDetect (s : State) (n : Nat) (d : Detection) : State :=
  let b := pDAWN n
  let st := s.dawnState n
  let cur := (s.dawnSt n).rx.metric
  let m := s.dawnMetric n d
  let shadow := if s.brownOut then s.fld b DAWN.AGC.SHADOW else d.shadow.toNat
  if st = 0 ∨ !(s.fld b DAWN.DW_CTRL.RX_RATES).testBit d.rate.val ∨ m < s.dawnThr n d.rate.val then s
  else if 2 ≤ st ∧ d.own ∧ s.fld b DAWN.DW_STAT.RX_RATE = d.rate.val then s
  else
    let s := (s.addSat b DAWN.CNT_A.DET 1).setFld b DAWN.AGC.SHADOW shadow
    let s := (s.setFld b DAWN.LAST_METRIC.METRIC m).setFld b DAWN.LAST_METRIC.RATE d.rate.val
    if st = 1 then s.dawnSync n d.rate.val m d.gain.toNat
    else if st = 4 then
      if cur + 24 ≤ m then ((s.addSat b DAWN.CNT_D.PRE_LATE 1).raise DAWN.evPREEMPT n).dawnSync n d.rate.val m shadow
      else (s.addSat b DAWN.CNT_D.KEPT 1).dawnHold n ⟨d.rate.val, m, shadow⟩
    else if cur + 1 ≤ m then ((s.addSat b DAWN.CNT_C.PRE_EARLY 1).raise DAWN.evPREEMPT n).dawnSync n d.rate.val m shadow
    else s.dawnHold n ⟨d.rate.val, m, shadow⟩

/-- One detection stands before another of the same instant: the higher metric, and on equal metrics the lower rate (R309). -/
def detectFirst (a b : Nat × Detection) : Bool :=
  decide (b.1 < a.1) || (a.1 == b.1 && decide (a.2.rate.val ≤ b.2.rate.val))

/-- Put a detection in its place. -/
def detectInsert (d : Nat × Detection) : List (Nat × Detection) → List (Nat × Detection)
  | [] => [d]
  | c :: t => if detectFirst d c then d :: c :: t else c :: detectInsert d t

/-- DAWN_DETECTION (R305, R308, R309): the detections of one instant. -/
def execDawnDetection (n : Fin 8) (d : Detection) (more : List Detection) (s : State) : R :=
  let l := (d :: more).map fun d => (s.dawnMetric n.val d, d)
  .next ((l.foldr detectInsert []).foldl (fun s d => s.dawnDetect n.val d.2) s)

/-- DAWN_CANDIDATE_LAPSE (R309). -/
def execDawnCandidateLapse (n : Fin 8) (s : State) : R :=
  .next ((s.modDawn n.val fun x => { x with cand := none }).setFld (pDAWN n.val) DAWN.DW_STAT.CAND 0)

/-! ## Sync, header, packet (R302, R304, R306, R310) -/

/-- DAWN_SYNC_FOUND (R302, R306): 32 bits received that differ from the sync word in at most 3; the time counter's nanosecond field is taken at their end (R310). -/
def execDawnSyncFound (n : Fin 8) (word : Word) (s : State) : R :=
  if s.dawnState n.val = 2 ∧ ones 32 (word.toNat ^^^ 0x6D3A0E5B) ≤ 3 then
    let ns : Word := BitVec.ofNat 32 (s.time.now / 2 ^ 32)
    .next ((s.modDawn n.val fun x => { x with rx := { x.rx with ns := ns } }).setFld (pDAWN n.val) DAWN.DW_STAT.RX_STATE 3)
  else .next s

/-- DAWN_SYNC_TIMEOUT (R306). -/
def execDawnSyncTimeout (n : Fin 8) (s : State) : R :=
  if s.dawnState n.val = 2 then
    .next (((s.addSat (pDAWN n.val) DAWN.CNT_B.SYNC_TMO 1).raise DAWN.evHDR_FAIL n.val).dawnRelease n.val)
  else .next s

/-- The bits from TYPE to SRC of a header as a number. -/
def dawnHead (type len seq : Byte) (src : BitVec 64) : Nat := ((type.toNat * 2 ^ 8 + len.toNat) * 2 ^ 8 + seq.toNat) * 2 ^ 64 + src.toNat

/-- DAWN_HEADER_RECEIVE (R298, R306). -/
def execDawnHeaderReceive (n : Fin 8) (type len seq : Byte) (src : BitVec 64) (hcs : Byte) (s : State) : R :=
  let n := n.val
  let b := pDAWN n
  if s.dawnState n = 3 then
    if crc8 88 (dawnHead type len seq src) = hcs.toNat ∧ len.toNat ≤ 64 ∧ type ≠ 0 then
      if src = Config.devId then
        let s := ((s.addSat b DAWN.CNT_E.ECHO 1).raise DAWN.evECHO n).observe n src.toNat 0 1
        .next (s.dawnRelease n)
      else
        .next ((s.modDawn n fun x => { x with rx := { x.rx with type := type.toNat, len := len.toNat, seq := seq.toNat, src := src } }).setFld b
          DAWN.DW_STAT.RX_STATE 4)
    else .next (((s.addSat b DAWN.CNT_B.HDR_FAIL 1).raise DAWN.evHDR_FAIL n).dawnRelease n)
  else .next s

/-- A packet is a copy of one delivered (R304): 100 ms are 62,500,000 ticks of 1.6 ns. -/
def State.dawnDup (s : State) (n : Nat) (p : DawnPkt) : Bool :=
  match (s.dawnSt n).srcs.find? (fun e => e.1 == p.src) with
  | some (_, q, t) =>
    let d := (p.seq + 256 - q) % 256
    (d == 0 || decide (128 ≤ d)) && decide (s.tick < t + 62500000)
  | none => false

/-- A packet is delivered (R298, R304, R310). The lane that the far end announces is that of a HELLO's byte 1; for another type the spec
states none, and it is a free value (log entry 28). -/
def State.dawnDeliver (s : State) (n : Nat) (p : DawnPkt) : State :=
  let s := s.modDawn n fun x => { x with queue := x.queue ++ [p],
                                         srcs := ((p.src, p.seq, s.tick) :: x.srcs.filter (fun e => e.1 != p.src)).take 2 }
  let s := ((s.addSat (pDAWN n) DAWN.CNT_A.OK 1).dawnShow n).raise DAWN.evRX_PKT n
  let (lane, s) : Nat × State := if p.type = 1 ∧ 2 ≤ p.len then ((p.payload.getD 1 0).toNat % 8, s) else (let (x, s) := s.fresh; (x % 8, s))
  s.observe n p.src.toNat lane 1

/-- DAWN_PACKET_END (R304, R310). -/
def execDawnPacketEnd (n : Fin 8) (payload : List Byte) (crc : BitVec 16) (s : State) : R :=
  let n := n.val
  let b := pDAWN n
  if s.dawnState n = 4 then
    let x := (s.dawnSt n).rx
    let body := (List.range x.len).map (fun i => payload.getD i 0)
    let h := (x.type * 2 ^ 8 + x.len) * 2 ^ 8 + x.seq
    let v := ((h * 2 ^ 64 + x.src.toNat) * 2 ^ 8 + crc8 88 (h * 2 ^ 64 + x.src.toNat)) * 256 ^ x.len + beNat body
    let p : DawnPkt := { x with payload := body }
    let s :=
      if crc16 (96 + 8 * x.len) v ≠ crc.toNat then (s.addSat b DAWN.CNT_C.CRC 1).raise DAWN.evCRC_ERR n
      else if s.dawnDup n p then s.addSat b DAWN.CNT_E.DUP 1
      else if 4 ≤ (s.dawnSt n).queue.length then (s.addSat b DAWN.CNT_F.RX_DROP 1).raise DAWN.evRX_DROP n
      else s.dawnDeliver n p
    .next (s.dawnRelease n)
  else .next s

/-! ## The noise floor (R311, R312) -/

/-- DAWN_NOISE_MEASURE (R311, R312): the mean over the last 16 ms in SEARCH, LSB 0.25 dB, and whether 16 ms have been gathered since RX_EN was
set. -/
def execDawnNoiseMeasure (n : Fin 8) (floor : BitVec 10) (full : Bool) (s : State) : R :=
  if s.dawnState n.val = 1 ∧ !s.brownOut then
    let s := s.setFld (pDAWN n.val) DAWN.NOISE.FLOOR floor.toNat
    .next (s.when full fun s => s.setFld (pDAWN n.val) DAWN.DW_STAT.NOISE_VALID 1)
  else .next s

end Sys2Proof.Machine
end

