-- ==== Sys2Proof/Machine/Log.lean ====
section
/-! DEFINITION. The event log's records and ring (R430 to R435, R626) and the protection map's two-party sequence (R444, R445). -/

namespace Sys2Proof.Machine

/-! ## The event log -/

/-- EV_CTRL.LOG_EN. -/
def State.logEn (s : State) : Bool := s.bit pEVT EVT.EV_CTRL.LOG_EN

/-- Records can go to the ring: LOG_EN is 1 and DRAM is available, its clock running in NOON (R435, R471). -/
def State.ringOpen (s : State) : Bool := s.logEn && s.noon

/-- The eight words of a record (R431). -/
def recordWords (seq : Word) (o : Occ) : List Word :=
  [seq, o.ns,
   BitVec.ofNat 32 (o.wraps % 2 ^ 16 + (if o.noclk then 2 ^ 16 else 0) + (if o.detail.isSome then 2 ^ 17 else 0)
     + o.event % 1024 * 2 ^ 20 + o.kind % 4 * 2 ^ 30),
   BitVec.ofNat 32 (min o.suppressed 0xFFFF + o.master % 256 * 2 ^ 16)]
  ++ (((o.detail.getD []) ++ [0, 0, 0, 0]).take 4)

/-- Words as one little-endian number. -/
def ofWords : List Word → Nat
  | [] => 0
  | w :: t => w.toNat + 2 ^ 32 * ofWords t

/-- Write a record at LOG_WR, as one whole code word; overwriting record 0 counts a wrap (R430). -/
def State.toRing (s : State) (r : List Word) : State :=
  let i := s.fld pEVT EVT.LOG_WR.INDEX
  let s := s.writeWord 0 ((s.log.base.toNat - 0x40000000) / 32 + i) (ofWords r)
  let rewrap := i == 0 && s.log.around
  let s := s.setFld pEVT EVT.LOG_WR.INDEX (i + 1)
  let s := s.when (i + 1 == 2 ^ 21) (fun s => { s with log := { s.log with around := true } })
  s.when rewrap fun s => (s.addWrap pEVT (whole EVT.LOG_WRAPS) 1).raise EVT.evLOG_WRAP 0

/-- Whether one occurrence comes before another in true order (R433): by tick, then kind, then event number. -/
def before (a b : Occ) : Bool :=
  decide (a.tick < b.tick) || (a.tick == b.tick && (decide (a.kind < b.kind) || (a.kind == b.kind && decide (a.event < b.event))))

/-- The first occurrence in true order, and the others. -/
def firstOcc : List Occ → Option (Occ × List Occ)
  | [] => none
  | o :: t =>
    match firstOcc t with
    | none => some (o, [])
    | some (m, l) => if before m o then some (m, o :: l) else some (o, t)

/-- One LOG_LOST record once the queue has room (R435): word 3 holds the records lost since the previous one. -/
def State.lostRecord (s : State) : State :=
  if s.log.lostSince ≠ 0 ∧ (s.ringOpen ∨ s.log.staging.length < 128) then
    let o := { s.occ (evNum EVT.evLOG_LOST 0) 0 0 none with suppressed := min s.log.lostSince 0xFFFF }
    { s with log := { s.log with hold := s.log.hold ++ [o], lostSince := 0 } }
  else s

/-- Time runs to 4 µs after the first occurrence that is held (R433). -/
def State.logWait (s : State) : State :=
  match firstOcc s.log.hold with
  | some (o, _) => s.runOn (o.tick + 2500 - s.tick)
  | none => s

/-- LOG_RECORD_WRITE (R433, R435): one record moves. While the ring is open, the oldest staged record goes to it first.
Otherwise, once it has been held 4 µs, the first held occurrence in true order receives its SEQ, and goes to the ring, to staging, or is lost. -/
def execLogRecordWrite (s : State) : R :=
  match s.ringOpen, s.log.staging with
  | true, r :: t => .next (({ s with log := { s.log with staging := t } }.toRing r).lostRecord)
  | _, _ =>
    let s := s.logWait
    match firstOcc s.log.hold with
    | none => .next s.lostRecord
    | some (o, rest) =>
      let seq := s.rd (pEVT + EVT.LOG_SEQ)
      let s := { s with log := { s.log with hold := rest } }.wr (pEVT + EVT.LOG_SEQ) (seq + 1)
      if s.ringOpen then .next ((s.toRing (recordWords seq o)).lostRecord)
      else if s.log.staging.length < 128 then
        .next ({ s with log := { s.log with staging := s.log.staging ++ [recordWords seq o] } }.lostRecord)
      else
        let s := s.addSat pEVT (whole EVT.LOG_LOST) 1
        let s := { s with log := { s.log with lostSince := s.log.lostSince + 1 } }
        .next (s.setRaw EVT.evLOG_LOST 0)

/-- The conditions of R430 for an enable: LOG_BASE a multiple of 64 MiB, the ring in populated DRAM, its granules initialised. -/
def State.logBaseOk (s : State) : Bool :=
  let b := (s.rd (pEVT + EVT.LOG_BASE)).toNat
  b % 0x4000000 == 0 && decide (0x40000000 ≤ b) && decide (b + 0x4000000 ≤ 0x40000000 + s.dramSize)
    && (List.range 64).all (fun i => s.initBit ((b - 0x40000000) / 0x100000 + i))

/-- The CONTROL record of a change of LOG_EN (R626). -/
def State.logRecord (s : State) (en : Nat) (base : Word) : State :=
  s.record 2 990 0 [BitVec.ofNat 32 en, base, s.rd (pEVT + EVT.LOG_WR), 0]

/-- A write of EV_CTRL (R430, R434, R626). -/
def effEvCtrl (v : Word) (s : State) : Out :=
  let was := s.logEn
  let s := s.setFld pEVT EVT.EV_CTRL.HOLDOFF (getBits v 16 16)
  if v.getLsbD 0 == was then .ok s
  else if was then .ok ((s.setFld pEVT EVT.EV_CTRL.LOG_EN 0).logRecord 0 0)
  else if s.logBaseOk then
    let b := s.rd (pEVT + EVT.LOG_BASE)
    let s := (s.setFld pEVT EVT.EV_CTRL.LOG_EN 1).setFld pEVT EVT.EV_STAT.CFG_ERR 0
    .ok ({ s with log := { s.log with base := b } }.logRecord 1 b)
  else .ok (s.setFld pEVT EVT.EV_STAT.CFG_ERR 1)

/-- LOG_ENABLE (R430): a write of EV_CTRL with LOG_EN 1, HOLDOFF as it stands. -/
def execLogEnable (r : Requester) (s : State) : R :=
  let v := s.rd (pEVT + EVT.EV_CTRL) ||| 0x1
  txn r (pEVT + EVT.EV_CTRL) v (effEvCtrl v) s

/-- LOG_DISABLE (R626): a write of EV_CTRL with LOG_EN 0, HOLDOFF as it stands. -/
def execLogDisable (r : Requester) (s : State) : R :=
  let v := s.rd (pEVT + EVT.EV_CTRL) &&& ~~~0x1
  txn r (pEVT + EVT.EV_CTRL) v (effEvCtrl v) s

/-! ## The protection map (R444 to R448) -/

/-- PROP_STAT.STATE. -/
def State.propState (s : State) : Nat := s.fld pPROT PROT.PROP_STAT.STATE

/-- A proposal leaves PENDING, or is INVALID: PROP_DONE and the CONTROL record of family, PROP_OLD, PROP_MASK and outcome
(R444, R456). -/
def State.propEnd (s : State) (outcome : Nat) : State :=
  let s := (s.setFld pPROT PROT.PROP_STAT.STATE outcome).raise PROT.evPROP_DONE 0
  s.record 2 (evNum PROT.evPROP_DONE 0) 0
    [BitVec.ofNat 32 s.propFam, s.rd (pPROT + PROT.PROP_OLD), s.propMask, BitVec.ofNat 32 outcome]

/-- A pending proposal whose 10 ms have passed is EXPIRED (R444). -/
def State.propNow (s : State) : State := if s.propState = 1 ∧ s.propTick + 6250000 < s.tick then s.propEnd 4 else s

/-- PROP_CMD.SUBMIT (R444). -/
def State.submit (s : State) : Out :=
  if s.bit pPROT HDR.LOCK then .err 7 s
  else if s.propState = 1 then .err 8 s
  else
    let f := s.fld pPROT PROT.PROP_FAM.FAM
    let m := s.rd (pPROT + PROT.PROP_MASK)
    let s := { s with propTick := s.tick, propFam := f, propMask := m }
    let s := s.addWrap pPROT PROT.PROP_STAT.PROP_ID 1
    if f = 6 ∨ 34 < f ∨ ¬ m.getLsbD 2 ∨ getBits m 12 4 ≠ 0 then .ok (s.propEnd 5)
    else
      let s := s.wr (pPROT + PROT.PROP_OLD) (s.rd (pPROT + PROT.MAP + 4 * f))
      .ok ((s.setFld pPROT PROT.PROP_STAT.STATE 1).raise PROT.evPROP_PENDING 0)

/-- PROP_CMD (R444, R454): both bits are refused. -/
def effPropCmd (v : Word) (s : State) : Out :=
  let s := s.propNow
  if v = 0x3 then .err 8 s
  else if v = 0x1 then s.submit
  else if v = 0x2 ∧ s.propState = 1 then .ok (s.propEnd 6)
  else .ok s

/-- PROP_SUBMIT (R444): a write of PROP_CMD.SUBMIT. -/
def execPropSubmit (r : Requester) (s : State) : R := txn r (pPROT + PROT.PROP_CMD) 0x1 (effPropCmd 0x1) s
/-- PROP_WITHDRAW (R444): a write of PROP_CMD.WITHDRAW. -/
def execPropWithdraw (r : Requester) (s : State) : R := txn r (pPROT + PROT.PROP_CMD) 0x2 (effPropCmd 0x2) s

/-- RATIFY (R444, R445, R454): refused unless it names the pending proposal, within its 10 ms, with a decision; ACCEPT writes the entry. -/
def effRatify (v : Word) (s : State) : Out :=
  let s := s.propNow
  if s.propState ≠ 1 ∨ getBits v 16 16 ≠ s.fld pPROT PROT.PROP_STAT.PROP_ID then .err 8 s
  else if v.getLsbD 0 == v.getLsbD 1 then .err 8 s
  else if v.getLsbD 0 then .ok ((s.wr (pPROT + PROT.MAP + 4 * s.propFam) s.propMask).propEnd 2)
  else .ok (s.propEnd 3)

/-- RATIFY (R445): a write of RATIFY by a requester; the PROT rules admit only the ratifier. -/
def execRatify (r : Requester) (v : Word) (s : State) : R := txn r (pPROT + PROT.RATIFY) v (effRatify v) s

/-- PROP_EXPIRY (R444): time runs to 10 ms after SUBMIT. -/
def execPropExpiry (s : State) : R :=
  if s.propState = 1 then .next ((s.runOn (s.propTick + 6250000 - s.tick)).propEnd 4) else .next s

/-- PROP_LEFT (R454): µs left before expiry. -/
def State.propLeft (s : State) : Nat := if s.propState = 1 then 10000 - (s.tick - s.propTick) / 625 else 0

end Sys2Proof.Machine
end

