-- ==== Sys2Proof/Machine/CodeGroup.lean ====
section
/-! DEFINITION. The code groups of the trace port (R401, R402): 8b/10b as published, with running disparity, bit a first. The tables are PRESUMED
(log entry 99). A group is a number whose bit 9 is bit a. -/

namespace Sys2Proof.Machine

/-- How many of the low `n` bits of a number are 1. -/
def weight (n v : Nat) : Nat := ((List.range n).filter v.testBit).length

/-- The 6-bit blocks of the 32 values of bits 4 to 0, at negative running disparity. -/
def sixTable : List Nat :=
  [0b100111, 0b011101, 0b101101, 0b110001, 0b110101, 0b101001, 0b011001, 0b111000] ++
  [0b111001, 0b100101, 0b010101, 0b110100, 0b001101, 0b101100, 0b011100, 0b010111] ++
  [0b011011, 0b100011, 0b010011, 0b110010, 0b001011, 0b101010, 0b011010, 0b111010] ++
  [0b110011, 0b100110, 0b010110, 0b110110, 0b001110, 0b101110, 0b011110, 0b101011]

/-- The 4-bit blocks of the 8 values of bits 7 to 5, at negative running disparity. -/
def fourTable : List Nat := [0b1011, 0b1001, 0b0101, 0b1100, 0b1101, 0b1010, 0b0110, 0b1110]

/-- A block of `n` bits at a running disparity (true: positive): the block of the negative table, or its complement where that is unbalanced or named by
`twin`; and the disparity after it. -/
def codeBlock (n : Nat) (pos twin : Bool) (neg : Nat) : Nat × Bool :=
  let flat := weight n neg * 2 == n
  (if pos && (!flat || twin) then 2 ^ n - 1 - neg else neg, if flat then pos else !pos)

/-- The code group of a data byte at a running disparity, and the disparity after it. -/
def dataGroup (pos : Bool) (b : Nat) : BitVec 10 × Bool :=
  let x := b % 32
  let y := b / 32 % 8
  let (six, mid) := codeBlock 6 pos (x == 7) (sixTable.getD x 0)
  let alt : Bool := y == 7 && (if mid then [11, 13, 14].contains x else [17, 18, 20].contains x)
  let (four, out) := codeBlock 4 mid (y == 3) (if alt then 0b0111 else fourTable.getD y 0)
  (BitVec.ofNat 10 (16 * six + four), out)

/-- The special code groups of R402. -/
inductive KCode where
  | idle
  | marker
  | sop
  | eop
deriving DecidableEq, Repr

/-- K28.5, K28.1, K27.7 and K29.7 at negative running disparity. -/
def KCode.neg : KCode → Nat
  | .idle => 0b0011111010
  | .marker => 0b0011111001
  | .sop => 0b1101101000
  | .eop => 0b1011101000

/-- A special code group at a running disparity, and the disparity after it. -/
def specialGroup (pos : Bool) (k : KCode) : BitVec 10 × Bool :=
  let (g, out) := codeBlock 10 pos true k.neg
  (BitVec.ofNat 10 g, out)

/-- The slots of a packet on one lane (R402), from a disparity on: its groups in order, and the disparity after them. -/
def laneGroups (pos : Bool) : List (KCode ⊕ Byte) → List (BitVec 10) × Bool
  | [] => ([], pos)
  | x :: t =>
    let (g, mid) := match x with | .inl k => specialGroup pos k | .inr b => dataGroup pos b.toNat
    let (rest, out) := laneGroups mid t
    (g :: rest, out)

/-- What lane `l` sends of a packet's bytes: SOP, byte j of the packet in data slot j div 4 where j mod 4 is l, EOP, and the idle slot that follows. Bytes that fill
the last slot are 0 (log entry 99). -/
def laneSlots (bytes : List Byte) (l : Nat) (last : KCode) : List (KCode ⊕ Byte) :=
  let n := (bytes.length + 3) / 4
  Sum.inl .sop :: (List.range n).map (fun i => Sum.inr (bytes.getD (4 * i + l) 0)) ++ [Sum.inl .eop, Sum.inl last]

/-- Idle slots between packets are time (log entry 5): how many there were is free, and with it each lane's disparity and the place of the next marker, which is the
first idle slot after every 1,024 slots. -/
def State.idleSlots (s : State) : State :=
  let (v, s) := s.fresh
  { s with trc := { s.trc with rd := s.trc.rd.map (· != decide (v % 2 = 1)), slots := (s.trc.slots + v) % 1024 } }

/-- A packet goes out on the four data lanes (R402). -/
def State.sendSlots (s : State) (bytes : List Byte) : State :=
  let s := s.idleSlots
  let slots := s.trc.slots + (bytes.length + 3) / 4 + 3
  let last : KCode := if 1024 < slots then .marker else .idle
  let lanes := (List.range 4).map fun l => laneGroups (s.trc.rd.getD l false) (laneSlots bytes l last)
  { s with trc := { s.trc with rd := lanes.map (·.2), slots := slots % 1024, line := lanes.map (·.1) } }

/-- A word is a code group: a special one of R402 or that of a byte, at either disparity. -/
def isGroup (w : BitVec 10) : Bool :=
  [KCode.idle, .marker, .sop, .eop].any (fun k => (specialGroup false k).1 == w || (specialGroup true k).1 == w)
    || (List.range 256).any (fun b => (dataGroup false b).1 == w || (dataGroup true b).1 == w)

end Sys2Proof.Machine
end

