-- ==== Sys2Proof/Machine/CascBase.lean ====
section
/-! DEFINITION. Frames sent on the cascade link (R567, R568), the end of transactions issued through the MDIO window or forwarded over the cascade link (R426, R570), and the loss of
that link (R568). -/

namespace Sys2Proof.Machine

/-- A transaction issued through the MDIO window completes (R426): BUSY clears; a read leaves its word in DATA_LO and DATA_HI, 0 where
it failed; the failure is recorded in STAT. -/
def State.mdioEnd (s : State) (read : Bool) (cause : Nat) (v : Word) (addr : Word) : State :=
  let w : Word := if cause = 0 then v else 0
  let m := { s.mdio with busy := false, pend := none }
  let m := if read then { m with dataLo := w.setWidth 16, dataHi := w.extractLsb' 16 16 } else m
  let s := { s with mdio := m }
  if cause = 0 then s else s.mdioFail cause addr.toNat

/-- A status byte of SPI (R422): ERR, CAUSE and the interrupt levels. -/
def State.spiByte (s : State) (err : Option Nat) : Byte :=
  BitVec.ofNat 8 ((match err with | some c => 64 + 4 * (c % 16) | none => 0) + (if s.intB then 2 else 0) + (if s.intA then 1 else 0))

/-- A word of a READ frame goes to the host: its status byte, then the data, most significant byte first (R423). The wait bytes
before it are timing and are left out (log entry 42). -/
def State.spiSend (s : State) (err : Option Nat) (v : Word) : State :=
  { s with spi := { s.spi with word := s.spi.word + 1, miso := s.spi.miso ++ s.spiByte err :: (toBytes 4 v.toNat).reverse } }

/-- The words of a READ frame that are left once a transaction has failed: ERR, the cause and data 0 (R424). -/
def State.spiRest (s : State) (cause : Nat) : State :=
  let s := s.each (List.range s.spi.todo.length) fun s _ => s.spiSend (some cause) 0
  { s with spi := { s.spi with todo := [] } }

/-- A transaction that SPI forwarded ends (R424, R425, R570): its frame fails, or the word that was read goes to the host. One whose frame
has ended leaves its failure in HERR alone. -/
def State.spiFwdEnd (s : State) (f : Fwd) (cause : Nat) (v : Word) : State :=
  if s.spi.tags.contains f.tag then
    let s := { s with spi := { s.spi with tags := s.spi.tags.filter (· != f.tag) } }
    let s := if cause = 0 then s else s.spiFail cause f.addr.toNat s.spi.word
    let s := s.when f.read fun s => s.spiSend (if cause = 0 then none else some cause) (if cause = 0 then v else 0)
    if cause = 0 then s else s.spiRest cause
  else if cause = 0 then s
  else if s.spi.inFrame then s.hostErr 0 cause f.addr.toNat 0
  else s.reportErr .spi cause f.addr.toNat

/-! ## Frames (R567, R568) -/

/-- The cascade link may carry frames: cascade mode, the port and the link enabled. -/
def State.cascOn (s : State) : Bool :=
  s.fld pTRC TRC.TRC_CTRL.MODE == 2 && s.bit pTRC TRC.TRC_CTRL.EN && s.bit pCASC CASC.CC_CTRL.EN

/-- The bytes of a frame that its CRC covers (R567). -/
def frameBytes (f : CFrame) : List Byte :=
  [BitVec.ofNat 8 f.type, BitVec.ofNat 8 f.seq, BitVec.ofNat 8 f.ack, BitVec.ofNat 8 (f.credit % 16 * 16 + f.status % 16)]
    ++ toBytes 4 f.addr.toNat ++ toBytes 2 f.payload.length ++ [BitVec.ofNat 8 f.tag, BitVec.ofNat 8 f.master] ++ toBytes 4 0 ++ f.payload

/-- Frames go out on the data lanes, in the code groups and slots of R402 (R567). -/
def State.framesOut (s : State) (l : List CFrame) : State :=
  l.foldl (fun s f =>
    let b := frameBytes f
    ({ s with casc := { s.casc with sent := s.casc.sent ++ [f] } }).sendSlots (b ++ toBytes 4 (crc32 b))) s

/-- Put a frame on the link: it takes the next SEQ and acknowledges the last SEQ received in order; every receive buffer is free, since a
frame is dealt with as it arrives. -/
def State.frameOut (s : State) (f : CFrame) : State :=
  let g := { f with seq := s.casc.txSeq, ack := (s.casc.rxSeq + 255) % 256, credit := 8 }
  let s := s.when s.casc.unacked.isEmpty fun s => s.startClock clkResend
  { s with casc := { s.casc with txSeq := (s.casc.txSeq + 1) % 256, unacked := s.casc.unacked ++ [g] } }.framesOut [g]

/-- Send what waits, while at most 8 frames are unacknowledged and the peer's CREDIT is above 0 (R568). -/
def State.cascPump (s : State) : State :=
  s.each (List.range 8) fun s _ =>
    match s.casc.waiting with
    | f :: t =>
      if s.casc.unacked.length < 8 ∧ s.casc.credit ≠ 0 then
        ({ s with casc := { s.casc with waiting := t, credit := s.casc.credit - 1 } }).frameOut f
      else s
    | [] => s

/-- Send a frame, or let it wait its turn. -/
def State.cascSend (s : State) (type : Nat) (addr : Word) (tag master status : Nat) (payload : List Byte) : State :=
  ({ s with casc := { s.casc with waiting := s.casc.waiting ++ [CFrame.mk type 0 0 0 status addr tag master payload] } }).cascPump

/-- The next TAG. -/
def State.cascTag (s : State) : Nat × State := (s.casc.tag, { s with casc := { s.casc with tag := (s.casc.tag + 1) % 256 } })

/-- A transaction to the cascade peer: a WR or RD frame under its TAG (R567, R570). -/
def State.forward (s : State) (r : Requester) (a : Nat) (data : Option (List Byte)) (acc : Option SupAcc) : State :=
  let (t, s) := s.cascTag
  let s := { s with casc := { s.casc with fwds := s.casc.fwds ++ [Fwd.mk t r (BitVec.ofNat 32 a) data.isNone acc] } }
  let s := if r = .spi ∧ s.spi.inFrame then { s with spi := { s.spi with tags := s.spi.tags ++ [t] } } else s
  let m := if r = .sup then 6 else 5
  match data with
  | some l => s.cascSend 1 (BitVec.ofNat 32 (a - 0x08000000)) t m 0 l
  | none => s.cascSend 2 (BitVec.ofNat 32 (a - 0x08000000)) t m 0 []

/-- A load or store of the supervisor on the cascade peer goes on with its next word, or ends (R548, R570). -/
def State.supNext (s : State) (x : SupAcc) : State :=
  match x.todo with
  | (a, v) :: t => s.forward .sup a (v.map fun w => toBytes 4 w.toNat) (some { x with todo := t })
  | [] =>
    match x.dst with
    | some (d, l) => s.modCore supId fun c => (c.fill d (l.map (byteOf 4 x.got))).past
    | none => s.modCore supId Core.past

/-- One of its transactions has ended: a failure is the BUS trap (R243). -/
def State.supEnd (s : State) (x : SupAcc) (cause : Nat) (v addr : Word) : State :=
  if cause = 0 then s.supNext { x with got := x.got ++ [(addr.toNat / 4, v.toNat)] } else s.trap supId 5 addr

/-- A forwarded transaction ends with a status (R567, R570): 0 or a cause of R419. -/
def State.fwdEnd (s : State) (f : Fwd) (cause : Nat) (v : Word) : State :=
  let s := s.when f.read fun s => s.deliver (s.respKey f.req) (if cause = 0 then v.toNat else 0)
  match f.req, f.acc with
  | .mdio, _ => s.mdioEnd f.read cause v f.addr
  | .spi, _ => s.spiFwdEnd f cause v
  | .sup, some x => s.supEnd x cause v f.addr
  | r, _ => if cause = 0 then s.reportOk r else s.reportErr r cause f.addr.toNat

/-- The bytes of a HELLO (R567): identity, role (1 a slave) and cold-boot count (DESIGN CHOICE, log entry 36). -/
def State.helloBytes (s : State) : List Byte :=
  toBytes 8 Config.devId.toNat ++ [if s.slave then 1 else 0] ++ toBytes 4 s.boot.flash.coldBoots

/-- HELLO is sent once the receive lanes are aligned (R404, R569); no CREDIT is known yet. -/
def State.sendHello (s : State) : State :=
  if s.cascOn && s.bit pTRC TRC.TRC_STAT.DESKEWED && !s.casc.helloTx then
    ({ s with casc := { s.casc with helloTx := true } }).frameOut ⟨6, 0, 0, 0, 0, 0, 0, 0, s.helloBytes⟩
  else s

/-- The cascade link goes down (R330, R344, R568, R570, R579): forwarded transactions outstanding end TIMEOUT, a load in progress fails and
is retried at the next CASC_UP, and a slave's time enters HOLDOVER. -/
def State.linkDown (s : State) : State :=
  let up := s.linkUp
  let fs := s.casc.fwds
  let failed := s.casc.loading.isSome && !s.slave
  let s := { s with casc := { s.casc with
    txSeq := 0, rxSeq := 0, unacked := [], waiting := [], resends := 0, credit := 0, helloTx := false, helloRx := false, fwds := [],
    loading := none, shown := 0, told := (0, 0), lastLoad := if failed then none else s.casc.lastLoad } }
  let s := s.setFld pCASC CASC.CC_STAT.LINK_UP 0
  let s := s.when up fun s => (s.raise CASC.evCASC_DOWN 0).sourceLost 3
  let s := s.when failed fun s => s.raise CASC.evLOAD_FAIL 0
  fs.foldl (fun s f => s.fwdEnd f 9 0) s

/-- A receive lane of the trace port loses lock while it carries the cascade link (R568). -/
def State.cascLaneLost (s : State) : State := if s.peerRatifies then s.linkDown else s

end Sys2Proof.Machine
end

