-- ==== Sys2Proof/Machine/Replay.lean ====
section
/-! DEFINITION. Replay (R397 to R400), the trace port's export (R401 to R403) and its alignment (R404). -/

namespace Sys2Proof.Machine

/-! ## Replay -/

/-- A replay ends with a result (R409). -/
def State.rpEnd (s : State) (result : Nat) : State :=
  ((s.setFld pRPL RPL.RP_STAT.STATE 3).setFld pRPL RPL.RP_STAT.RESULT result).raise RPL.evRP_DONE 0

/-- The index record of the recording that names a frame, among those that the data ring holds. -/
def State.recOf (s : State) (frame : Nat) : Option Nat :=
  ((List.range (min s.cap.frames s.capRoom)).map (· + s.firstRec)).find? (fun k => s.recWord k 0 == frame)

/-- A frame lies in the span of the replay (R617). -/
def State.rpInSpan (s : State) (frame : Nat) : Bool :=
  let a := (s.rd (pRPL + RPL.START_FRAME)).toNat
  decide ((frame + 2 ^ 32 - a) % 2 ^ 32 < ((s.rd (pRPL + RPL.END_FRAME)).toNat + 2 ^ 32 - a) % 2 ^ 32)

/-- ADAPT's conditions on its engines (R399): E_DUTY 0, and no live target owned. -/
def State.rpEnginesFree (s : State) : Bool :=
  s.rpEngines.all fun k =>
    s.rd (pCLU (k / 16) + CLU.E_DUTY + 4 * (k % 16)) == 0
      && (List.range 16).all (fun c => (List.range 8).all (fun t => s.cpOwner c t != some k))

/-- GO (R397 to R399, R409); a replay of adaptation is not available while the lane is frozen (R43). -/
def State.rpGo (s : State) : State :=
  if s.rpState = 1 ∨ s.rpState = 2 ∨ !s.enabled pRPL then s
  else
    let f0 := (s.rd (pRPL + RPL.START_FRAME)).toNat
    let s := ((s.wr (pRPL + RPL.DONE_FRAMES) 0).wr (pRPL + RPL.MATCH) 0).wr (pRPL + RPL.MISMATCH) 0
    let s := s.wr (pRPL + RPL.FIRST_MISMATCH) 0xFFFFFFFF
    if s.capState ≠ 4 ∨ s.capCfg CAP.CP_CTRL / 16 % 4 ≠ 0 then s.rpEnd 7
    else if s.bit pRPL RPL.RP_CTRL.MODE ∧ (!s.rpEnginesFree ∨ s.rpEngines = [] ∨ !s.servedPage (pLRX s.capLane)) then s.rpEnd 7
    else match s.cap.ckpts.find? (fun c => c.frame == f0) with
      | none => s.rpEnd 4
      | some c =>
        if (s.recOf f0).isNone then s.rpEnd 4
        else if c.step ≠ (s.rd (pID + ID.STEP)).toNat % 2 ^ 16 then s.rpEnd 5
        else
          let s := { s with rpl := ⟨f0, c.inForce, c.inForce, 0, false, some c, 0, 0⟩ }
          let s := (s.setFld pRPL RPL.RP_STAT.STATE 1).setFld pRPL RPL.RP_STAT.RESULT 0
          if !s.bit pRPL RPL.RP_CTRL.MODE ∧ s.bit pCAP CAP.CP_STAT.LOG_LOST then s.rpEnd 2
          else if s.rpInSpan f0 then s else s.rpEnd 0

/-- A write of RP_CMD: its bits act in their order (log entry 27). -/
def effRpCmd (v : Word) (s : State) : Out :=
  let s := s.when (v.getLsbD 0) State.rpGo
  .ok (s.when (v.getLsbD 1 && (s.rpState == 1 || s.rpState == 2)) fun s => s.rpEnd 6)

/-- REPLAY_GO (R397). -/
def execReplayGo (r : Requester) (s : State) : R := txn r (pRPL + RPL.RP_CMD) 0x1 (effRpCmd 0x1) s
/-- REPLAY_ABORT (R409). -/
def execReplayAbort (r : Requester) (s : State) : R := txn r (pRPL + RPL.RP_CMD) 0x2 (effRpCmd 0x2) s

/-- A read of the recording's data of a frame ends in a bus error (R366, R405). -/
def State.rpReadFails (s : State) (k : Nat) : Bool :=
  let ofs := s.recWord k 4
  let len := max 1 (s.capCfg CAP.DLEN)
  (List.range (s.capCfg 0x1000 / 32)).any fun i =>
    let idx := (s.capCfg CAP.DBASE + (ofs + 32 * i) % len - 0x40000000) / 32
    s.uninit 0 idx || s.poisoned 0 idx

/-- The ADC codes of record `k` of the recording. -/
def State.rpSamples (s : State) (k : Nat) : List (BitVec 8) :=
  let ofs := s.recWord k 4
  let len := max 1 (s.capCfg CAP.DLEN)
  (List.range (s.capCfg 0x1000)).map fun i => BitVec.ofNat 8 ((s.number (s.capCfg CAP.DBASE + (ofs + i) % len) 1).getD 0)

/-- The replica's stages in ADAPT mode (R399): the registers that its engines brought into force, all else as the checkpoint has it. -/
def Ckpt.rxCfg (c : Ckpt) (m400 : Bool) (inForce : Tbl Word) : RxCfg :=
  { m400 := m400, inf := fun o => Tbl.get (regReset (pLRX 0 + o)) inForce o, slice := fun p => c.map.getD p p, pol := c.pol,
    table := rxTable c.table, frozen := c.frozen, hold := false }

/-- Whether the header of a frame of symbols carries the alignment word (R162); in M200 the standard's indication (R165). -/
def State.rpAligned (s : State) (l : List Nat) : Bool :=
  if s.m400 then
    let faw := ((l.take 32).flatMap ungray).foldl (fun n b => 2 * n + b.toNat) 0
    s.fawOk s.capLane (BitVec.ofNat 64 faw)
  else Config.ieeeAligned l

/-- Frame lock of the replica after a frame (R162): LOSS_N misses in a row lose it; words matched over QUAL_T, at least three, regain it. A frame lasts
614.4 ns, and QUAL_T counts 0.1 ms. -/
def State.rpLock (s : State) (c : Ckpt) (hit : Bool) : State :=
  let b := pIFEC s.capLane
  let miss := if hit then 0 else s.rpl.miss + 1
  let hits := if hit then s.rpl.hits + 1 else 0
  let qual := max 3 ((max 1 (s.fld b IFEC.IF_CTRL.QUAL_T) * 1000000 + 6143) / 6144)
  let locked := if c.locked then decide (miss < max 1 (s.fld b IFEC.IF_CTRL.LOSS_N)) else decide (qual ≤ hits)
  { s with rpl := { s.rpl with miss := miss, hits := hits, lane := some { c with locked := locked } } }

/-- What the replay datapath finds in a frame (R391): frame lock, whether its digest is valid, the digest and the words not converged. -/
structure ReplayOut where
  locked : Bool
  dvalid : Bool
  digest : Word
  nconv : Nat

/-- A frame of the recording through the replica (R399). -/
def State.rpRun (s : State) (c : Ckpt) (k : Nat) : State × ReplayOut :=
  let was := c.locked
  let (p, d, f) := rxFrame (c.rxCfg s.m400 s.rpl.inForce) c.pipe c.dec was c.iter (s.rpSamples k)
  let s := s.rpLock { c with pipe := p, dec := d } (s.rpAligned (f.syms.map fun e => e.1.d))
  let now : Bool := match s.rpl.lane with | some c => c.locked | none => false
  (s.tapFeed (pLRX s.capLane) true f.tap, ⟨was, was && now, f.digest, f.nconv⟩)

/-- One frame of the replay, record `k` of the recording (R397, R398): in FIXED mode the replica's output is the live lane's. -/
def State.rpFrame (s : State) (k : Nat) (out : ReplayOut) : State :=
  let b := pRPL
  let adapt := s.bit b RPL.RP_CTRL.MODE
  let frame := s.rpl.frame
  let w2 := s.recWord k 2
  let w2' := if adapt then w2 % 2 ^ 20 + (if out.locked then 2 ^ 20 else 0) + (if out.dvalid then 2 ^ 21 else 0) else w2
  let dig := BitVec.ofNat 32 (s.recWord k 3)
  let dig' := if adapt then out.digest else dig
  let w5 := if adapt then s.recWord k 5 / 2 ^ 16 * 2 ^ 16 + min out.nconv 0xFFFF else s.recWord k 5
  let olen := (s.rd (b + RPL.OLEN)).toNat
  let n := (s.rd (b + RPL.DONE_FRAMES)).toNat
  let a := (s.rd (b + RPL.OBASE)).toNat + 32 * n % max 1 olen
  let s := if 0 < olen ∧ s.inDram a 32 then
      s.ringPut a 32 0 (recBytes frame (BitVec.ofNat 32 (s.recWord k 1)) w2' dig' 0 w5)
    else s
  let s := s.addWrap b (whole RPL.DONE_FRAMES) 1
  let s := if w2.testBit 21 ∧ w2'.testBit 21 then
      if dig = dig' then s.addWrap b (whole RPL.MATCH) 1
      else
        let first := s.rd (b + RPL.MISMATCH) == 0
        let s := s.addWrap b (whole RPL.MISMATCH) 1
        s.when first fun s => (s.wr (b + RPL.FIRST_MISMATCH) (BitVec.ofNat 32 frame)).raise RPL.evRP_MISMATCH 0
    else s
  let next := (frame + 1) % 2 ^ 32
  let s := { s with rpl := { s.rpl with frame := next } }
  if s.rpl.stop then s.rpEnd 6
  else if !s.rpInSpan next then s.rpEnd 0
  else s.when adapt fun s => (s.setFld b RPL.RP_STAT.STATE 2).startClock clkHold

/-- REPLAY_FRAME (R397, R398, R400, R405). The replay holds at its next commit point during the brown-out warning and from thermal
level 3 on. -/
def execReplayFrame (s : State) : R :=
  if s.rpState = 1 ∧ s.capPause = 0 then
    match s.recOf s.rpl.frame with
    | none => .next (s.rpEnd 1)
    | some k =>
      let first := s.rpl.frame == (s.rd (pRPL + RPL.START_FRAME)).toNat
      if ((s.recWord k 2).testBit 16 ∧ !first) ∨ s.rpReadFails k then .next (s.rpEnd 1) 
      else if s.bit pRPL RPL.RP_CTRL.MODE then
        match s.rpl.lane with
        | some c => let (s, out) := s.rpRun c k; .next (s.rpFrame k out)
        | none => .next (s.rpEnd 7)
      else .next (s.rpFrame k ⟨true, true, 0, 0⟩)
  else .next s

/-- A masked engine lets the replay's commit point pass (R399): WAIT with no enabled interrupt pending, OFF or FAULT. -/
def State.rpQuiet (s : State) (k : Nat) : Bool :=
  let st := s.coreState k
  st == 0 || st == 3 || (st == 2 && s.pend k &&& (s.core k).imask == 0)

/-- REPLAY_HOLD_RELEASE (R399): the commits accepted in the hold apply at this commit point. -/
def execReplayHoldRelease (s : State) : R :=
  if s.rpState = 2 ∧ s.capPause = 0 ∧ s.rpEngines.all s.rpQuiet then
    let page := pLRX s.capLane
    let addrs := (groupsIn s.rpl.groups).flatMap (groupAddrs page)
    let inf := addrs.foldl (fun t a => Tbl.insert t (a - page) (Tbl.get (regReset a) s.rpl.shadow (a - page))) s.rpl.inForce
    let s := { s with rpl := { s.rpl with inForce := inf, groups := 0 } }.setFld pRPL RPL.RP_STAT.STATE 1
    .next (s.tapMark page true s.rpl.frame)
  else .next s

/-- REPLAY_STALLED (R399, R400): time runs to RP_TMO ms (0 acts as 1) of a hold, a brown-out warning not counted. -/
def execReplayStalled (s : State) : R :=
  if s.rpState = 2 ∧ !s.brownOut then
    .next ((s.elapse clkHold (625000 * max 1 (s.fld pRPL RPL.RP_TMO.MS))).rpEnd 3)
  else .next s

/-! ## Export over the trace port (R402, R403) -/

/-- The export under way. -/
def State.exporting (s : State) : Bool := s.bit pTRC TRC.EXP_STAT.BUSY

/-- SEQ of the selected stream, and its counting on. -/
def State.takeSeq (s : State) : Nat × State :=
  let n := s.fld pTRC TRC.EXP_STREAM.STREAM
  let q := Tbl.get 0 s.trc.seq n
  (q, { s with trc := { s.trc with seq := Tbl.put (some 0) s.trc.seq n ((q + 1) % 2 ^ 16) } })

/-- Send a packet (R402): TYPE, OFFSET, RESULT and payload. Fields of several bytes are sent least significant byte first (R9; DEDUCED, log
entry 29). -/
def State.sendPacket (s : State) (type ofs result : Nat) (payload : List Byte) : State :=
  let stream := s.fld pTRC TRC.EXP_STREAM.STREAM
  let (q, s) := s.takeSeq
  let head := [BitVec.ofNat 8 type, BitVec.ofNat 8 stream] ++ toBytes 2 q ++ toBytes 4 ofs ++ toBytes 2 payload.length
    ++ [BitVec.ofNat 8 result] ++ List.replicate 5 0
  let body := head ++ payload ++ List.replicate (256 - payload.length) 0
  let bytes := body ++ toBytes 4 (crc32 body)
  { s with trc := { s.trc with sent := bytes } }.sendSlots bytes

/-- The END packet closes the export (R403). -/
def State.exportEnd (s : State) (result : Nat) : State :=
  let s := (s.sendPacket 2 s.trc.ofs result []).wr (pTRC + TRC.EXP_STAT) (BitVec.ofNat 32 (2 ^ 31 + result))
  s.raise TRC.evEXP_DONE 0

/-- GO (R403, R410). -/
def State.exportGo (s : State) : State :=
  if s.exporting ∨ !s.enabled pTRC then s
  else
    let s := { s with trc := { s.trc with ofs := 0, cancel := false } }.wr (pTRC + TRC.EXP_BYTES) 0
    if (s.rd (pTRC + TRC.EXP_SRC)).toNat % 32 ≠ 0 ∨ (s.rd (pTRC + TRC.EXP_LEN)).toNat % 32 ≠ 0 then s.exportEnd 3
    else s.wr (pTRC + TRC.EXP_STAT) 0x40000000

/-- A write of EXP_CMD: its bits act in their order (log entry 27). -/
def effExpCmd (v : Word) (s : State) : Out :=
  let s := s.when (v.getLsbD 0) State.exportGo
  .ok (s.when (v.getLsbD 1 && s.exporting) fun s => { s with trc := { s.trc with cancel := true } })

/-- EXPORT_GO (R403). -/
def execExportGo (r : Requester) (s : State) : R := txn r (pTRC + TRC.EXP_CMD) 0x1 (effExpCmd 0x1) s
/-- EXPORT_CANCEL (R403). -/
def execExportCancel (r : Requester) (s : State) : R := txn r (pTRC + TRC.EXP_CMD) 0x2 (effExpCmd 0x2) s

/-- The code words of a packet's payload from a device address, read as master 0x07; none where a read ends in a bus error. -/
def State.exportRead (s : State) (a : Nat) : Nat → State × Option (List Byte)
  | 0 => (s, some [])
  | n + 1 =>
    if s.inDram a 32 then
      match s.readWord 7 0 ((a - 0x40000000) / 32) [] with
      | (s, .data d) =>
        match s.exportRead (a + 32) n with
        | (s, some l) => (s, some (toBytes 32 d ++ l))
        | (s, none) => (s, none)
      | (s, .err _) => (s, none)
    else (s, none)

/-- EXPORT_PACKET (R402, R403): the next DATA packet, or the END packet. -/
def execExportPacket (s : State) : R :=
  if s.exporting ∧ s.fld pTRC TRC.TRC_CTRL.MODE = 1 ∧ s.bit pTRC TRC.TRC_CTRL.EN then
    let left := (s.rd (pTRC + TRC.EXP_LEN)).toNat - s.trc.ofs
    if s.trc.cancel then .next (s.exportEnd 2)
    else if left = 0 then .next (s.exportEnd 0)
    else
      match s.exportRead ((s.rd (pTRC + TRC.EXP_SRC)).toNat + s.trc.ofs) (min left 256 / 32) with
      | (s, none) => .next (s.exportEnd 1)
      | (s, some l) =>
        let s := s.sendPacket 1 s.trc.ofs 0 l
        let s := { s with trc := { s.trc with ofs := s.trc.ofs + l.length } }
        .next (s.wr (pTRC + TRC.EXP_BYTES) (BitVec.ofNat 32 s.trc.ofs))
  else .next s

/-! ## Alignment (R404) -/

/-- DESKEWED follows the lanes: all locked, with equal MARK_OFS. The boot ROM sends HELLO over aligned lanes (R569). -/
def State.trcDeskew (s : State) : State :=
  let ofs (l : Nat) := s.fld pTRC (fldAt TRC.MARK_OFS.OFS (4 * l))
  let ok := s.fld pTRC TRC.TRC_STAT.LANE_LOCK == 15 && (List.range 4).all (fun l => ofs l == ofs 0)
  (s.setFld pTRC TRC.TRC_STAT.DESKEWED (if ok then 1 else 0)).sendHello

/-- The trace port receives: cascade mode, enabled. -/
def State.trcRx (s : State) : Bool := s.fld pTRC TRC.TRC_CTRL.MODE == 2 && s.bit pTRC TRC.TRC_CTRL.EN

/-- A write of ALIGN (R404): SLIP slips a lane by one bit, WSLIP by one word, of which it absorbs 7. -/
def effAlign (v : Word) (s : State) : Out :=
  let s := s.each (List.range 4) fun s l =>
    let s := s.when (v.getLsbD l) fun s => { s with trc := { s.trc with slips := Tbl.put (some 0) s.trc.slips l ((Tbl.get 0 s.trc.slips l + 1) % 10) } }
    let w := Tbl.get 0 s.trc.wslips l
    s.when (v.getLsbD (4 + l) && decide (w < 7)) fun s =>
      { s with trc := { s.trc with wslips := Tbl.put (some 0) s.trc.wslips l (w + 1) } }.addWrap pTRC (fldAt TRC.MARK_OFS.OFS (4 * l)) 1
  .ok s.trcDeskew

/-- A write of TRC_CTRL (R410): EN clears LERR; MODE code 3 is not assigned. The receive lanes lose lock where the port no longer
receives. -/
def effTrcCtrl (v : Word) (s : State) : Out :=
  if getBits v 0 2 = 3 then hostError [pTRC] s
  else
    let s := s.wr (pTRC + TRC.TRC_CTRL) v
    let s := s.when (v.getLsbD 4) fun s => s.each (List.range 4) fun s l => s.wr (pTRC + TRC.LERR + 4 * l) 0
    .ok (s.when (!s.trcRx) fun s => (s.setFld pTRC TRC.TRC_STAT.LANE_LOCK 0).trcDeskew.linkDown)

/-- TRACE_BIT_SLIP (R404). -/
def execTraceBitSlip (r : Requester) (lanes : BitVec 4) (s : State) : R :=
  txn r (pTRC + TRC.ALIGN) (lanes.setWidth 32) (effAlign (lanes.setWidth 32)) s

/-- TRACE_WORD_SLIP (R404). -/
def execTraceWordSlip (r : Requester) (lanes : BitVec 4) (s : State) : R :=
  let v : Word := lanes.setWidth 32 <<< 4
  txn r (pTRC + TRC.ALIGN) v (effAlign v) s

/-- The position of the last K28.1 in a run of words. -/
def lastMarker (run : List (BitVec 10)) : Option Nat :=
  ((List.range run.length).filter fun i =>
    run.getD i 0 == (specialGroup false .marker).1 || run.getD i 0 == (specialGroup true .marker).1).getLast?

/-- A run of words arrives on a lane (R404, R410): RX_WORD shows the last, MARK_OFS the slot of the last K28.1, counted over the words received and
the word slips. -/
def State.trcWords (s : State) (l : Nat) (run : List (BitVec 10)) : State :=
  let at0 := Tbl.get 0 s.trc.rx l
  let s := { s with trc := { s.trc with rx := Tbl.put (some 0) s.trc.rx l (at0 + run.length) } }
  let s := match run.getLast? with
    | some w => s.setFld pTRC (fldAt TRC.RX_WORD.GROUP (4 * l)) w.toNat
    | none => s
  match lastMarker run with
  | some i => s.setFld pTRC (fldAt TRC.MARK_OFS.OFS (4 * l)) ((at0 + i + Tbl.get 0 s.trc.wslips l) % 16)
  | none => s

/-- TRACE_LANE_LOCK (R404): a run of words that ends with 64 valid code groups locks its lane. The TRACE PLL is locked (R461). -/
def execTraceLaneLock (l : Fin 4) (run : List (BitVec 10)) (s : State) : R :=
  if s.trcRx then
    let s := s.trcWords l.val run
    if 64 ≤ run.length ∧ (run.drop (run.length - 64)).all isGroup then
      .next ((s.setFld pCLK CLK.LOCK0.TRACE 1).setFld pTRC (bitAt TRC.TRC_STAT l.val) 1).trcDeskew
    else .next s
  else .next s

/-- TRACE_LANE_UNLOCK (R404, R411): the code-group and disparity errors found within 256 words; 4 of them unlock the lane. -/
def execTraceLaneUnlock (l : Fin 4) (code disp : Nat) (s : State) : R :=
  if s.trcRx then
    let s := (s.addSat pTRC (fldAt TRC.LERR.CODE (4 * l.val)) code).addSat pTRC (fldAt TRC.LERR.DISP (4 * l.val)) disp
    if code + disp < 4 then .next s
    else
      let on := s.bit pTRC (bitAt TRC.TRC_STAT l.val)
      let s := (s.setFld pTRC (bitAt TRC.TRC_STAT l.val) 0).setFld pTRC TRC.TRC_STAT.DESKEWED 0
      .next (s.when on fun s => (s.raise TRC.evLANE_UNLOCK 0).cascLaneLost)
  else .next s

end Sys2Proof.Machine
end

