-- ==== Sys2Proof/Machine/Reset.lean ====
section
/-! DEFINITION. What each reset and each loss of power returns to its reset value (R10, R361, R380, R468 to R470, R477): pages and the
state beside them, by reset group. -/

namespace Sys2Proof.Machine

/-! ## Pages -/

/-- An address lies in one of the pages at `bs`. -/
def inPages (bs : List Nat) (a : Nat) : Bool := bs.any (fun b => decide (b ≤ a) && decide (a < b + 0x1000))

/-- The bits of a register that a warm reset and a group reset keep (R11): RWS fields. CP_OWN is RWS whole, and of E_CTRL the bit RETIRE. -/
def rwsMask (a : Nat) : Word :=
  match findPage a with
  | some (p, _, off) =>
    if p.fam = 16 ∧ CLU.E_CTRL ≤ off ∧ off < CLU.E_CTRL + 64 then 0x10
    else match findRow p.fam off with
      | some r => if r.acc = .rws then 0xFFFFFFFF else 0
      | none => 0
  | none => 0

/-- The bits of a register that NIGHT keeps (R299, R477): the fields of the access codes RW, RWS and RWL, the slice and position maps, and
the far identities. -/
def retained (a : Nat) : Word :=
  match findPage a with
  | some (p, _, off) =>
    let far := (decide (p.fam = 18) && decide (PART.FAR_ID_LO ≤ off) && decide (off < PART.FAR_INFO + 4))
    let lrxMap := decide (p.fam = 9) && decide (LRX.SLICE_MAP ≤ off) && decide (off < LRX.SLICE_MAP + 16)
    let ltxMap := decide (p.fam = 10) && decide (LTX.SLICE_MAP ≤ off) && decide (off < LTX.SLICE_MAP + 16)
    if far || lrxMap || ltxMap then 0xFFFFFFFF
    else match findRow p.fam off with
      | some r => if r.acc = .rw ∨ r.acc = .rws ∨ r.acc = .rwl then 0xFFFFFFFF else 0
      | none => 0
  | none => 0

/-- A register's entry after the bits outside `keep` have returned to their reset values. -/
def keepBits (keep : Word) (e : Nat × Word) : Option (Nat × Word) :=
  let d := regReset e.1
  let w := (e.2 &&& keep) ||| (d &&& ~~~keep)
  if w = d then none else some (e.1, w)

/-- The registers of the pages at `bs` return to their reset values but for the bits that `keep` names. -/
def State.clearRegs (s : State) (bs : List Nat) (keep : Nat → Word) : State :=
  { s with regs := s.regs.filterMap (fun e => if inPages bs e.1 then keepBits (keep e.1) e else some e),
           latched := Tbl.drop (inPages bs) s.latched, live := Tbl.drop (inPages bs) s.live }

/-- The registers of the pages at `bs` return to reset, in force as well, and what waits to be committed there is gone. -/
def State.clearPages (s : State) (bs : List Nat) : State :=
  let s := s.clearRegs bs rwsMask
  { s with inForce := Tbl.drop (inPages bs) s.inForce, marks := Tbl.drop (inPages bs) s.marks,
           commits := s.commits.filter (fun r => !inPages bs r.page) }

/-! ## Groups (R469, R470) -/

/-- The pages of line lane `n`. -/
def linePages (n : Nat) : List Nat := [pLRX n, pLTX n, pIFEC n, pOFEC n, pPART n, pDAWN n]

/-- The structures beside the pages of line lane `n` return to reset; the parts of its clock that show in CLK do too. -/
def State.clearLineSt (s : State) (n : Nat) : State :=
  let s := { s with lrx := Tbl.erase s.lrx n, ltx := Tbl.erase s.ltx n, ifec := Tbl.erase s.ifec n, part := Tbl.erase s.part n,
                    dawn := Tbl.erase s.dawn n }
  (s.setFld pCLK (bitAt CLK.LOCK0 n) 0).setFld pCLK (bitAt CLK.LOCK0 (8 + n)) 0

/-- Group LINEn: a recording and a snapshot of the lane end as the lane stops. The identities of R299 lie in the always-on island. -/
def State.resetLine (s : State) (n : Nat) : State :=
  let s := ((s.tapStop (pLRX n)).capLaneStop n).setFld pCAL (uf (8 + n) CAL.U_STAT.QUIET_OPEN) 0
  let far := (List.range 3).map (fun i => pPART n + PART.FAR_ID_LO + 4 * i)
  let far := far ++ (List.range 4).flatMap fun i => [mapBase n + 4 * i, mapBase (8 + n) + 4 * i]
  let keep := far.map s.rd
  let s := (s.clearPages (linePages n)).clearLineSt n
  (far.zip keep).foldl (fun s e => s.wr e.1 e.2) s

/-- Group HOSTn. -/
def State.resetHost (s : State) (m : Nat) : State :=
  let s := (s.tapStop (pHSL m)).clearPages [pHSL m]
  ({ s with hsl := Tbl.erase s.hsl m }.hostLock m true false).setFld pCLK (bitAt CLK.LOCK1 m) 0

/-- The engines of a cluster go to OFF as at a warm reset (R267): their work in flight ends, but for channels of the cluster's own DMA, which
stop where they are, and an engine that is RETIRED stays so (R263). -/
def State.resetEngine (s : State) (k : Nat) : State :=
  let st := s.coreState k
  let s := s.when (st == 1 || st == 2) fun s => s.leaveRun k
  let s := s.when (st == 1 || st == 2 || st == 5) fun s => s.endWork k
  let moved := (s.core k).moved
  let s := { s with cores := Tbl.erase s.cores k }
  s.when moved fun s => s.modCore k fun x => { x with moved := true }

/-- Group CLUSTERc (R267, R361, R470): memories keep their contents, CP_OWN and RETIRE hold, SERVE_HOLD runs, and a DMA channel at work is cut off after
its current code word. -/
def State.resetCluster (s : State) (c : Nat) : State :=
  let s0 := s
  let ks := (List.range 16).map (· + 16 * c)
  let retired := ks.filter (fun k => s.coreState k == 4)
  let s := s.each ks State.resetEngine
  let s := s.modClu c fun u => { Clu.init with dma := u.dma.map (fun e => (e.1, { e.2 with cut := true })), holdRun := u.holdRun, lapsed := u.lapsed, susp := u.susp }
  let s := s.clearRegs [pCLU c, pPERF c] rwsMask
  let s := s.each retired fun s k => s.setEng k 4
  let s := s.each ks fun s k => State.lapse s0 s k
  (State.serveWatch s0 s).setFld pCLK (bitAt CLK.CG_STAT c) 0

/-- What SUP_STAT keeps across a reset of the group SUPERVISOR (R549, R561: WD_CNT counts since cold reset; the bank, TRIAL and ACT_STATE
belong to the flash and to the activation in progress; DEDUCED, log entry 31). -/
def supKeep : Word := 0x00FF0370

/-- Group SUPERVISOR (R469, R549, R552): the core restarts in the ROM. -/
def State.resetSup (s : State) : State :=
  let s := s.clearRegs [pSUP] (fun a => if a = pSUP + SUP.SUP_STAT then supKeep else 0)
  let m := s.master .sup
  { s with cores := Tbl.erase s.cores supId, supState := 1, supHeld := none, gathers := Tbl.erase s.gathers m,
           boot := { s.boot with mpu := [] }, casc := { s.casc with fwds := s.casc.fwds.filter (fun f => f.req != .sup) } }

/-- Group TIME (R469). The clock of the island runs on. -/
def State.resetTime (s : State) : State :=
  let s := s.clearRegs [pTIME] rwsMask
  { s with time := { State.reset.time with running := s.time.running } }

/-- Group TRACE (R469): the cascade link goes down. -/
def State.resetTrace (s : State) : State :=
  let s := s.linkDown.clearRegs [pTRC, pCASC] rwsMask
  { s with trc := State.reset.trc, casc := { State.reset.casc with lastLoad := s.casc.lastLoad, peerBoots := s.casc.peerBoots } }

/-- The effect of a reset group by its code. -/
def State.resetGroup (s : State) (g : Nat) : State :=
  let s0 := s
  let s :=
    if g < 8 then s.resetLine g
    else if g < 24 then s.resetHost (g - 8)
    else if g < 40 then s.resetCluster (g - 24)
    else if g = 40 then s.resetSup
    else if g = 41 then s.resetTime
    else s.resetTrace
  watch s0 s

/-- The groups that lie in the variant. -/
def State.groupHere (s : State) (g : Nat) : Bool :=
  if g < 8 then decide (g < s.lines) else if g < 24 then decide (g - 8 < s.hosts) else if g < 40 then s.hasCluster (g - 24) else decide (g ≤ 42)

/-- R469: a line lane of an enabled port, and a host lane that one uses, are not reset. -/
def State.groupInUse (s : State) (g : Nat) : Bool :=
  if g < 8 then (s.portOfLine g).isSome
  else if g < 24 then (List.range 8).any (fun p => s.portOn p && s.portHasHost p (g - 8))
  else false

/-- A write of GRP_CMD (R469, R470, R491, R498): a GO while a group reset runs is ignored (DEDUCED, log entry 32). -/
def effGrpCmd (v : Word) (s : State) : Out :=
  let g := getBits v 0 6
  let refuse (res : Nat) : Out :=
    .ok (((s.setFld pRST RST.GRP_STAT.GROUP g).setFld pRST RST.GRP_STAT.RESULT res).raise RST.evGRP_REFUSED 0)
  if !v.getLsbD 8 ∨ s.bit pRST RST.GRP_STAT.BUSY then .ok s
  else if s.fld pPWR PWR.PWR_STAT.STATE ≠ 0 then refuse 3
  else if !s.groupHere g then refuse 2
  else if s.groupInUse g then refuse 1
  else
    let s := (s.setFld pRST RST.GRP_STAT.GROUP g).setFld pRST RST.GRP_STAT.RESULT 0
    let s := s.setFld pRST RST.GRP_STAT.BUSY 1
    .ok ({ s with pwr := { s.pwr with groups := [g] } }.resetGroup g)

/-- GROUP_RESET (R469): a write of GRP_CMD. -/
def execGroupReset (r : Requester) (v : Word) (s : State) : R := txn r (pRST + RST.GRP_CMD) v (effGrpCmd v) s

/-! ## Cold reset (R468) -/

/-- What a cold reset keeps of the registers: fuses, the certificate and RST_CAUSE's cell (R468, R571, R573). -/
def coldKeeps (a : Nat) : Bool :=
  a == pLCS + LCS.LCS_STAT || a == pLCS + LCS.SECVER_FUSE
    || (decide (pID + ID.PUBKEY ≤ a) && decide (a < pID + ID.PUBKEY + 64))
    || a == pID + ID.CERT_LEN || (decide (pID + 0x400 ≤ a) && decide (a < pID + 0x800))

/-- What the flash holds after a cold reset: one during storing leaves the inactive bank invalid (R579). -/
def State.flashCut (s : State) : FlashSt :=
  let f := s.boot.flash
  if s.fld pSUP SUP.SUP_STAT.ACT_STATE = 1 then (if f.active = 0 then { f with bankB := [] } else { f with bankA := [] }) else f

/-- Take a cold reset (R468, R380): every island returns to its reset state; what is fused, strapped or held in flash stays, the queue of commands
is the world's, and RST_CAUSE records the cause. One that begins while another runs changes nothing. -/
def State.coldReset (s : State) (cause rail : Nat) : State :=
  if s.pwr.hold then s
  else
    let t := { State.reset with pending := s.pending, variant := s.variant, slave := s.slave, free := s.free,
                                regs := s.regs.filter (fun e => coldKeeps e.1),
                                boot := { State.reset.boot with bootSel := s.boot.bootSel, prtad := s.boot.prtad, key := s.boot.key, flash := s.flashCut, fused := s.boot.fused },
                                pwr := { State.reset.pwr with hold := true } }
    let t := t.setFld pLCS ⟨LCS.LCS_STAT, 16, 3⟩ 0
    (t.setFld pRST RST.RST_CAUSE.COLD_CAUSE cause).setFld pRST RST.RST_CAUSE.RAIL rail

/-- POWER_ON (R468, R499). -/
def execPowerOn (s : State) : R := .next ({ s with pwr := { s.pwr with hold := false } }.coldReset 0 0)

/-- RESET_PIN (R468): RESET_N low for at least 1 µs. -/
def execResetPin (s : State) : R := .next (s.coldReset 1 0)

/-- RAIL_LOSS (R481): 0 VDD_CORE below 90 %, 1 VDD_ANA, 2 VDD_HV, 3 VDD_IO, 4 VDD_DRAM. -/
def execRailLoss (rail : Fin 5) (s : State) : R :=
  .next (match rail.val with
    | 0 => s.coldReset 2 0
    | 1 => s.coldReset 3 0
    | 2 => s.coldReset 3 1
    | 3 => ({ s with pwr := { s.pwr with hold := false } }).coldReset 0 0
    | _ => s.coldReset 3 2)

/-- CORE_PLL_UNLOCK (R461): the CORE or the MEM PLL. -/
def execCorePllUnlock (s : State) : R := .next (s.coldReset 5 0)

/-! ## Warm reset (R468) -/

/-- A warm reset begins: 1 by RST_CMD, 2 by the cascade master. A pending proposal ends WITHDRAWN (R448). -/
def State.warmReset (s : State) (cause : Nat) : State :=
  let s := (s.addSat pRST RST.RST_CAUSE.WARM_CNT 1).setFld pRST RST.RST_CAUSE.WARM_CAUSE cause
  let s := s.when (s.propState == 1) fun s => s.propEnd 6
  let s := ((List.range 16).filter s.hasCluster).foldl (fun s c => s.resetGroup (24 + c)) s
  let s := (s.resetGroup 40).resetGroup 42
  { s with pwr := { s.pwr with warm := true } }

/-- A write of RST_CMD (R491, R498): the wrong key or both bits are refused, and WARM outside NOON too. -/
def effRstCmd (v : Word) (s : State) : Out :=
  if getBits v 8 8 ≠ 0xA5 ∨ getBits v 0 2 = 3 then .err 8 s
  else if v.getLsbD 1 then .ok (s.coldReset 4 0)
  else if v.getLsbD 0 then (if s.fld pPWR PWR.PWR_STAT.STATE ≠ 0 then .err 8 s else .ok (s.warmReset 1))
  else .ok s

/-- RST_CMD_COLD (R468, R498): a write of RST_CMD with COLD and a key. -/
def execRstCmdCold (r : Requester) (key : Byte) (s : State) : R :=
  let v : Word := BitVec.ofNat 32 (256 * key.toNat + 2)
  txn r (pRST + RST.RST_CMD) v (effRstCmd v) s

/-- RST_CMD_WARM (R468, R498): a write of RST_CMD with WARM and a key. -/
def execRstCmdWarm (r : Requester) (key : Byte) (s : State) : R :=
  let v : Word := BitVec.ofNat 32 (256 * key.toNat + 1)
  txn r (pRST + RST.RST_CMD) v (effRstCmd v) s

end Sys2Proof.Machine
end

