-- ==== Sys2Proof/Machine/Power.lean ====
section
/-! DEFINITION. Power states (R471 to R480), the brown-out warning (R481 to R484), clocks (R460, R461, R466, R467) and pulse crossings
(R465). -/

namespace Sys2Proof.Machine

/-- PWR_STAT.STATE: 0 NOON, 1 ENTERING, 2 DUSK, 3 NIGHT, 4 WAKING. -/
def State.pst (s : State) : Nat := s.fld pPWR PWR.PWR_STAT.STATE

/-- Set PWR_STAT.STATE. -/
def State.setPst (s : State) (v : Nat) : State := s.setFld pPWR PWR.PWR_STAT.STATE v

/-- The entry reaches a phase. -/
def State.setPhase' (s : State) (p : Nat) : State := { s with pwr := { s.pwr with phase := p } }

/-! ## Requests (R479) -/

/-- A request is held, one deep (R479). -/
def State.holdMode (s : State) (t : Nat) : State :=
  let s := s.when (s.bit pPWR PWR.PWR_STAT.HELD_V) fun s => (s.setFld pPWR PWR.PWR_STAT.REPLACED 1).raise PWR.evREQ_REPLACED 0
  (s.setFld pPWR PWR.PWR_STAT.HELD t).setFld pPWR PWR.PWR_STAT.HELD_V 1

/-- A write of MODE (R479): TARGET 3 is reserved. -/
def effPwrMode (v : Word) (s : State) : Out :=
  let t := v.toNat % 4
  let s := s.wr (pPWR + PWR.MODE) v
  if t = 3 then hostError [pPWR] s
  else if s.pst = 0 then .ok (s.setFld pPWR PWR.PWR_STAT.ARMED t)
  else if (s.pst = 2 ∨ s.pst = 3) ∧ t = 0 then .ok (s.wake 7)
  else .ok (s.holdMode t)

/-- PWR_MODE_REQUEST (R479): a write of PWR.MODE. -/
def execPwrModeRequest (r : Requester) (t : Fin 4) (s : State) : R :=
  txn r (pPWR + PWR.MODE) (BitVec.ofNat 32 t.val) (effPwrMode (BitVec.ofNat 32 t.val)) s

/-- A write of WAKE_EN: bit 7 reads 1 (R493). -/
def effWakeEn (v : Word) (s : State) : Out := .ok (s.wr (pPWR + PWR.WAKE_EN) (v ||| 0x80))

/-- A transition ends with a request held (R479): in DUSK or NIGHT a held NOON wakes; at NOON a held DUSK or NIGHT becomes ARMED. -/
def State.takeHeld (s : State) : State :=
  let t := s.fld pPWR PWR.PWR_STAT.HELD
  if s.bit pPWR PWR.PWR_STAT.HELD_V ∧ (s.pst = 0 ∨ t = 0) then
    let s := (s.setFld pPWR PWR.PWR_STAT.HELD_V 0).setFld pPWR PWR.PWR_STAT.HELD 0
    if t = 0 then s.wake 7 else s.setFld pPWR PWR.PWR_STAT.ARMED t
  else s

/-! ## Entry (R472 to R475) -/

/-- The enabled level sources asserted now (R480): the WAKE_N ball low, and an event routed to the supervisor. -/
def State.levels (s : State) (wakeN : Bool) : Nat :=
  let en := s.rd (pPWR + PWR.WAKE_EN)
  (if wakeN && en.getLsbD 0 then 1 else 0) + (if s.intS && en.getLsbD 8 then 256 else 0)

/-- The end of a transition shows in PWR_STAT (R472, R474, R476, R494). -/
def State.pwrResult (s : State) (result ap cause : Nat) : State :=
  let s := (s.setFld pPWR PWR.PWR_STAT.ARMED 0).setFld pPWR PWR.PWR_STAT.LAST_RESULT result
  ((s.setFld pPWR PWR.PWR_STAT.LAST_AP ap).setFld pPWR PWR.PWR_STAT.REF_CAUSE cause).raise PWR.evPWR_DONE 0

/-- LAST_WAKE takes the sources (R494); with level sources alone, FIRST is the lowest. -/
def State.lastWake (s : State) (src : Nat) : State :=
  let first := match s.pwr.first with | some f => f | none => (lowest (BitVec.ofNat 32 src)).getD 0
  let s := (s.setFld pPWR PWR.LAST_WAKE.SOURCES src).setFld pPWR PWR.LAST_WAKE.FIRST first
  (s.setFld pPWR PWR.LAST_WAKE.LATE (if s.pwr.late then 1 else 0))

/-- The transition is over: NOON, the latch closed, and the supervisor continues after its WAIT. -/
def State.toNoon (s : State) : State :=
  { s.setPst 0 with supState := 1, pwr := { s.pwr with phase := 0, latch := 0, first := none, late := false } }

/-- An abort point (R474): the entry is abandoned if the latch is not empty or an enabled level source is asserted. -/
def State.abortPoint (s : State) (ap : Nat) (wakeN : Bool) : Option State :=
  let src := s.pwr.latch ||| s.levels wakeN
  if src = 0 then none
  else some ((((s.lastWake src).toNoon).pwrResult 2 ap 0).takeHeld)

/-- A fuse or flash write is in progress (R472): the flash is written in STORING and STAGING (DEDUCED, log entry 33). -/
def State.writing (s : State) : Bool :=
  s.boot.fuse.isSome || s.fld pSUP SUP.SUP_STAT.ACT_STATE == 1 || s.fld pSUP SUP.SUP_STAT.ACT_STATE == 3

/-- POWER_ENTRY_START (R472, R473): the supervisor's WAIT with ARMED set begins the entry, up to AP1, or completes at once REFUSED. -/
def State.entryStart (s : State) (wakeN : Bool) : State :=
  if s.brownOut then s.pwrResult 3 0 1
  else if s.writing then s.pwrResult 3 0 2
  else
    let night := s.fld pPWR PWR.PWR_STAT.ARMED == 2
    let s := { s.setPst 1 with supState := 2, pwr := { s.pwr with phase := 1, night := night, latch := 0, first := none, late := false } }
    match s.abortPoint 1 wakeN with
    | some s => s
    | none => s.setPhase' 2

/-- Phase 4 begins (R473): the device no longer counts as in NOON, and in NIGHT every engine drains as HOLD = 1. -/
def State.phase4 (s : State) : State :=
  let s0 := s
  let s := s.setPhase' 4
  let s := s.when s.pwr.night fun s =>
    ((List.range 256).filter (fun k => s.hasCluster (k / 16))).foldl (fun s k => (s.setFld (pCLU (k / 16)) (eCtrl k CLU.E_CTRL.HOLD) 1).holdEng k) s
  let s := (List.range s.lines).foldl State.dawnRxSettle s
  watch s0 (State.serveWatch s0 s.settleLanes)

/-- ENTRY_DRAIN_DONE (R473, R474): phase 2 ends at AP2; the sources of `during` occur in phase 3, which ends at AP3. -/
def execEntryDrainDone (wakeN : Bool) (during : List (Fin 9)) (s : State) : R :=
  if s.pst = 1 ∧ s.pwr.phase = 2 then
    match s.abortPoint 2 wakeN with
    | some s => .next s
    | none =>
      let s := during.foldl (fun s n => s.wake n.val) (s.setPhase' 3)
      match s.abortPoint 3 wakeN with
      | some s => .next s
      | none => .next s.phase4
  else .next s

/-- Every commit request that waits is discarded (R36, R60, R69, R223). -/
def State.discardAll (s : State) : State :=
  let s := s.each (List.range 8) fun s n => (s.discard (pLRX n) 0x7F).discard (pLTX n) 0x1F
  s.each (List.range 16) fun s m => s.discard (pHSL m) 0xF

/-- The transmitters that a stop has made to leave ACTIVE have left it (R99, R209). -/
def State.squelchAll (s : State) : State :=
  let s := s.each (List.range 8) fun s n => s.when (s.txState n == 3) fun s => s.setTx n 1
  (s.each (List.range 16) fun s m => s.when (s.htx m == 2) fun s =>
    (s.setFld (pHSL m) HSL.TX_STAT.STATE 1).modHsl m fun x => { x with stop := false }).settleLanes

/-- ENTRY_STOP_DONE (R473): every enabled port has stopped at its boundary; fill, capture, replay and export have ended their work. -/
def execEntryStopDone (s : State) : R :=
  if s.pst = 1 ∧ s.pwr.phase = 4 then
    let s0 := s
    let s := s.discardAll.stopPorts.squelchAll
    let s := s.fillCancel 0
    let s := s.when s.capRuns fun s => s.capHold (s.capState == 3)
    let s := s.when (s.rpState == 1 || s.rpState == 2) fun s => s.rpEnd 6
    let s := s.when s.exporting fun s => s.exportEnd 2
    .next (watch s0 (s.setPhase' 5))
  else .next s

/-! ## NIGHT (R477, R478) -/

/-- The pages whose values NIGHT keeps in retention cells. -/
def keptPages : List Nat :=
  (List.range 8).flatMap linePages ++ (List.range 16).map pHSL ++ (List.range 16).map pCLU ++ (List.range 16).map pPERF

/-- An output at reset: what its registers hold at reset (R544). -/
def pwInit : PwSt := ⟨625, 0, none, 0xFFFF, 0, 0xFFFF, false, false, false⟩

/-- Output `k` beside its registers. -/
def State.pwSt (s : State) (k : Nat) : PwSt := Tbl.get pwInit s.pw k

/-- The output is the odd one of a pair in force (R531). -/
def State.pwOdd (s : State) (k : Nat) : Bool := k % 2 == 1 && (s.pwSt (k - 1)).pair

/-- PW_STAT.RUN bit k. -/
def State.pwRuns (s : State) (k : Nat) : Bool := s.bit pPWM (bitAt PWM.PW_STAT k)

/-- The effective duty (R528). -/
def PwSt.eff (x : PwSt) : Nat := min x.duty (min x.dmax x.per)

/-- The counter of output `k` (R528): management cycles of four ticks since its period began, modulo PER. -/
def State.pwCount (s : State) (k : Nat) : Nat := (s.tick - s.clockOf (clkPwm k)) / 4 % max 1 (s.pwSt k).per

/-- The level before polarity (R528, R531, R532). -/
def State.pwHigh (s : State) (k : Nat) : Bool :=
  if s.pwOdd k then
    let e := s.pwSt (k - 1)
    s.pwRuns (k - 1) && decide (e.eff + e.dead ≤ s.pwCount (k - 1)) && decide (s.pwCount (k - 1) + e.dead < e.per)
  else s.pwRuns k && decide (s.pwCount k < (s.pwSt k).eff)

/-- The level at the ball of output `k` (R528). -/
def State.pwLevel (s : State) (k : Nat) : Bool := s.pwHigh k != (s.pwSt k).pol

/-- The pads at the latch (R478): the control DACs' codes and spans, and the PWM levels, low under PWM_LOW. -/
def State.latchPads (s : State) : State :=
  let low := s.bit pPWR PWR.PAD_CFG.PWM_LOW
  let cd := (List.range 16).map (fun c => (c, s.fld pCDAC (fldAt CDAC.CD_STAT.SPAN_ACT (16 * c)) * 2 ^ 14 + s.fld pCDAC (fldAt CDAC.CD_STAT.OUT (16 * c))))
  let pw := (List.range 4).map (fun k => (16 + k, if s.pwLevel k && !low then 1 else 0))
  ({ s with pwr := { s.pwr with pads := cd ++ pw } }).setFld pPWR PWR.PWR_STAT.PAD_HELD 1

/-- The islands are gated (R458, R477): what the retention cells do not keep returns to its reset value. The spec's reset state of an engine is
OFF; one that is RETIRED stays so. -/
def State.gateIslands (s : State) : State :=
  let fstates := keptPages.map (fun b => (b, s.fld b HDR.ENABLE))
  let retired := (List.range 256).filter (fun k => s.coreState k == 4)
  let s := s.clearRegs keptPages retained
  let s := { s with lrx := s.lrx.filterMap (fun (e : Nat × LrxSt) => if e.2.written = 0 then none else some (e.1, { LrxSt.init with written := e.2.written })), ltx := [], ifec := [], hsl := [],
                    part := [], dawn := [], clus := [], cores := s.cores.filter (fun e => e.1 == supId) }
  let s := fstates.foldl (fun s e => s.setFld e.1 HDR.FSTATE e.2) s
  let s := retired.foldl (fun s k => s.setEng k 4) s
  let s := (List.range 256).foldl (fun s k => s.setFld (pCLU (k / 16)) (eCtrl k CLU.E_CTRL.HOLD) 1) s
  let s := s.clearRegs [pHKADC, pCDAC, pPWM] (fun _ => 0)
  let s := { s with hk := State.reset.hk, cd := [], pw := [] }
  (s.wr (pCLK + CLK.LOCK0) 0).wr (pCLK + CLK.LOCK1) 0

/-- The cluster memories are zeroed as their power returns (R361, R380): their poison and suspect entries go, and their buckets and scrubber
positions restart. -/
def State.zeroClusters (s : State) : State :=
  let inWin (a : Nat) : Bool := decide (0x20000000 ≤ a) && decide (a < 0x30000000)
  let s := { s with mem := s.mem.filter (fun e => !inWin e.1), ms := { s.ms with flips := Tbl.drop (fun k => decide (8 ≤ k / 2 ^ 26)) s.ms.flips } }
  let s := (s.unpoison (fun k => decide (8 ≤ k / 2 ^ 26))).unsuspect (fun k => decide (8 ≤ k / 2 ^ 26))
  (List.range 48).foldl (fun s j =>
    let i := j + 8
    let s := (s.setFld pMEM (fldAt MEM.BKT.LEVEL (4 * i)) 0).wr (pMEM + MEM.CE_CNT + 4 * i) 0
    (s.setFld pMEM (fldAt MEM.UE_CNT.UE (4 * i)) 0).setFld pSCRB (fldAt SCRB.S_POS.POS (4 * i)) 0) s

/-- ENTRY_COMPLETE (R473, R475, R477 to R479): phase 5 ends. The time clock has stopped. With the latch not empty,
wake begins at once. The wake timer counts from here (R480). -/
def execEntryComplete (wakeN : Bool) (s : State) : R :=
  if s.pst = 1 ∧ s.pwr.phase = 5 then
    let s0 := s
    let s := s.stopTime.startClock clkWake
    let s := if s.pwr.night then (s.latchPads.setPst 3).settleLanes.gateIslands else s.setPst 2
    let lv := s.levels wakeN
    let s := ({ s with pwr := { s.pwr with phase := 0 } })
    let s := s.when (lv.testBit 0) fun s => s.wake 0
    let s := s.when (lv.testBit 8) fun s => s.wake 8
    let s := watch s0 s
    if s.pwr.latch = 0 then .next s.takeHeld else .next ({ s with pwr := { s.pwr with late := true } }.setPst 4)
  else .next s

/-! ## Wake (R474 to R476, R480) -/

/-- WAKE_SOURCE (R474, R480): a source occurs. The timer is a row of its own, and EVT is a level that must stand. -/
def execWakeSource (n : Fin 9) (s : State) : R :=
  if n.val = 3 ∨ (n.val = 8 ∧ !s.intS) then .next s else .next (s.wake n.val)

/-- WAKE_TIMER_EXPIRY (R480): time runs to WAKE_TMR × 10 µs after the state was reached. -/
def execWakeTimerExpiry (s : State) : R :=
  let t := (s.rd (pPWR + PWR.WAKE_TMR)).toNat
  if (s.pst = 2 ∨ s.pst = 3) ∧ t ≠ 0 then .next ((s.elapse clkWake (6250 * t)).wake 3) else .next s

/-- The shared PLLs relock (R461): TIME as long as REFCLK is present. -/
def State.lockPlls (s : State) : State :=
  let s := (s.setFld pCLK CLK.LOCK0.CORE 1).setFld pCLK CLK.LOCK0.MEM 1
  (s.setFld pCLK CLK.LOCK0.TRACE 1).setFld pCLK CLK.LOCK0.TIME (if s.refOk then 1 else 0)

/-- The time clock starts for the first time since cold reset (R345). -/
def State.firstTick (s : State) : State :=
  if s.noon && s.refOk && !s.time.running && !s.time.asleep then { s with time := { s.time with running := true } } else s

/-- WAKE_COMPLETE (R476): NOON. The cluster memories are zeroed after NIGHT, and every enabled port restarts as a port reset. -/
def execWakeComplete (s : State) : R :=
  if s.pst = 4 then
    let s0 := s
    let s := s.when s.pwr.night fun s => s.zeroClusters.lockPlls
    let s := ((s.lastWake s.pwr.latch).toNoon).pwrResult 1 0 0
    let s := (List.range s.lines).foldl State.dawnRxSettle s.restartPorts
    .next (watch s0 s.firstTick.takeHeld)
  else .next s

/-- A write of PAD_REL (R478): RELEASE acts in NOON. -/
def effPadRel (v : Word) (s : State) : Out :=
  if v.getLsbD 0 ∧ s.pst = 0 then .ok ({ s with pwr := { s.pwr with pads := [] } }.setFld pPWR PWR.PWR_STAT.PAD_HELD 0) else .ok s

/-- PAD_RELEASE (R478). -/
def execPadRelease (r : Requester) (s : State) : R := txn r (pPWR + PWR.PAD_REL) 0x1 (effPadRel 0x1) s

/-! ## Brown-out (R481 to R484) -/

/-- A flash write under way when the warning begins ends BROWNOUT (R484, R579): STORING ends IDLE with ERR 8, STAGING ends STORED. -/
def State.bootBrownOut (s : State) : State :=
  let a := s.fld pSUP SUP.SUP_STAT.ACT_STATE
  if a = 1 then ((s.setFld pSUP SUP.SUP_STAT.ACT_STATE 0).setFld pSUP SUP.SUP_STAT.ERR 8).raise SUP.evIMG_REJECT 0
  else if a = 3 then (s.setFld pSUP SUP.SUP_STAT.ACT_STATE 2).raise SUP.evACT_FAIL 0
  else s

/-- BO_WARN (R482, R483): VDD_CORE has been below the warning level for 20 ns. -/
def execBoWarn (s : State) : R :=
  let st := s.fld pPWR PWR.BO_STAT.STATE
  if st = 1 then .next s
  else
    let s0 := s
    let s := (s.setFld pPWR PWR.BO_STAT.STATE 1).setFld pPWR PWR.RAIL_STAT.VDD_CORE 0
    if st = 2 then .next s
    else
      let s := ((s.addSat pPWR PWR.BO_STAT.COUNT 1).raiseReq PWR.evBO_WARN 0).startClock clkBo
      let s := (s.discardAll.setFld pCAL CAL.CAL_STAT.REF_BUSY 0).bootBrownOut
      .next (watch s0 s)

/-- BO_CLEAR (R482): WARN to RECOVER. -/
def execBoClear (s : State) : R :=
  if s.fld pPWR PWR.BO_STAT.STATE = 1 then
    .next (((s.setFld pPWR PWR.BO_STAT.STATE 2).setFld pPWR PWR.RAIL_STAT.VDD_CORE 1).startClock clkRecover)
  else .next s

/-- BO_RESUME (R400, R482): time runs to 100 µs in RECOVER. A hold of the replay has not counted the warning. -/
def execBoResume (s : State) : R :=
  if s.fld pPWR PWR.BO_STAT.STATE = 2 then
    let s := s.elapse clkRecover 62500
    let s := s.setClock clkHold (s.clockOf clkHold + (s.tick - max (s.clockOf clkHold) (s.clockOf clkBo)))
    .next ((s.setFld pPWR PWR.BO_STAT.STATE 0).raise PWR.evBO_RESUME 0)
  else .next s

/-! ## Clocks (R460, R461) -/

/-- Mark the PLL of a line lane as having lost lock, or as locked. -/
def State.linePll (s : State) (n : Nat) (tx lock : Bool) : State :=
  let k := if tx then 8 + n else n
  let s := s.setFld pCLK (bitAt CLK.LOCK0 k) (if lock then 1 else 0)
  { s with unlocked := if lock then s.unlocked &&& (0xFFFF - 2 ^ k) else s.unlocked ||| 2 ^ k }

/-- REFCLK_LOST (R42, R345, R460, R625: pending commits of every lane end discarded): every port goes down, the time clock stops, and the receive PLLs of enabled ports have to relock. -/
def execRefclkLost (s : State) : R :=
  if s.refOk then
    let s0 := s
    let s := ((s.setFld pCLK CLK.CLK_STAT.REFCLK_OK 0).setFld pCLK CLK.CLK_STAT.ON_OSC 1).raise CLK.evREFCLK_LOST 0
    let s := s.stopPorts.stopTime.setFld pCLK CLK.LOCK0.TIME 0
    let s := (List.range 8).foldl (fun s n => (s.discard (pLRX n) 0x7F).discard (pLTX n) 0x1F) s
    let s := (List.range 16).foldl (fun s m => s.discard (pHSL m) 0xF) s
    let s := ((List.range 8).filter (fun n => (s.portOfLine n).isSome)).foldl (fun s n => s.linePll n false false) s
    .next (watch s0 ((List.range 16).foldl (fun s m => s.hostLock m true false) s))
  else .next s

/-- REFCLK_BACK (R460): REFCLK has stayed in range for 1 ms. -/
def execRefclkBack (s : State) : R :=
  if s.refOk then .next s
  else
    let s0 := s
    let s := ((s.setFld pCLK CLK.CLK_STAT.REFCLK_OK 1).setFld pCLK CLK.CLK_STAT.ON_OSC 0).raise CLK.evREFCLK_BACK 0
    let s := s.when (!s.inNight) fun s => s.setFld pCLK CLK.LOCK0.TIME 1
    .next (watch s0 (s.when s.noon fun s => s.firstTick.restartPorts))

/-- LANE_PLL_UNLOCK (R461): the port that holds the lane goes DOWN. It stays enabled, so its host lanes run on (R209, R211). -/
def execLanePllUnlock (n : Fin 8) (tx : Bool) (s : State) : R :=
  let k := if tx then 8 + n.val else n.val
  if s.bit pCLK (bitAt CLK.LOCK0 k) then
    let s0 := s
    let s := match s.portOfLine n.val with
      | some p => (s.portHalt p).settleLanes
      | none => s
    .next (watch s0 ((s.linePll n.val tx false).raise CLK.evPLL_UNLOCK 0))
  else .next s

/-- LANE_PLL_RELOCK (R461): the port restarts as a port reset once no PLL of its lanes is unlocked. -/
def execLanePllRelock (n : Fin 8) (tx : Bool) (s : State) : R :=
  let k := if tx then 8 + n.val else n.val
  if s.unlocked.testBit k && s.refOk then
    let s0 := s
    let s := s.linePll n.val tx true
    match s.portOfLine n.val with
    | some p => .next (watch s0 (s.when (!s.portUnlocked p) fun s => (s.portRestart p).settleLanes))
    | none => .next s
  else .next s

/-- TIME_PLL_UNLOCK (R345, R461). -/
def execTimePllUnlock (s : State) : R :=
  if s.bit pCLK CLK.LOCK0.TIME then .next ((s.stopTime.setFld pCLK CLK.LOCK0.TIME 0).raise CLK.evPLL_UNLOCK 0) else .next s

/-- TRACE_PLL_UNLOCK (R461, R568): every LANE_LOCK clears. -/
def execTracePllUnlock (s : State) : R :=
  if s.bit pCLK CLK.LOCK0.TRACE then
    let s := (s.setFld pCLK CLK.LOCK0.TRACE 0).raise CLK.evPLL_UNLOCK 0
    let s := s.when (s.fld pTRC TRC.TRC_STAT.LANE_LOCK != 0) fun s => (s.raise TRC.evLANE_UNLOCK 0).cascLaneLost
    .next (s.setFld pTRC TRC.TRC_STAT.LANE_LOCK 0).trcDeskew
  else .next s

/-! ## Gating (R465 to R467) -/

/-- The clock of a cluster may be gated (R467): its engines idle, no timer interrupt awaited, and no transfer. A calibration record comes from
the units of the cluster's line lane while they measure (R132). -/
def State.idleCluster (s : State) (c : Nat) : Bool :=
  let u := s.clu c
  (List.range 16).all (fun e =>
    let k := 16 * c + e
    let st := s.coreState k
    (st == 0 || st == 3 || st == 4 || st == 2) && !(st == 2 && (s.core k).imask.getLsbD 4))
    && u.dma.isEmpty && !u.tapStat.getLsbD 30
    && !(decide (c < 8) && [c, 8 + c].any (fun i => s.phase i == 3 || s.phase i == 4))

/-- The clocks that are gated (R467): those stopped and not restarted since, whose conditions still hold. -/
def State.gated (s : State) : Word :=
  BitVec.ofNat 32 (((List.range 16).filter fun c =>
    s.bit pCLK (bitAt CLK.CG_STAT c) && (s.rd (pCLK + CLK.CG_CTRL)).getLsbD c && s.idleCluster c).map (2 ^ ·)).sum

/-- CLUSTER_CLOCK_GATE (R467). -/
def execClusterClockGate (c : Fin 16) (s : State) : R :=
  if s.hasCluster c.val && (s.rd (pCLK + CLK.CG_CTRL)).getLsbD c.val && s.idleCluster c.val then
    .next (s.setFld pCLK (bitAt CLK.CG_STAT c.val) 1)
  else .next s

/-- CLOCK_RESTART (R466). -/
def execClockRestart (c : Fin 16) (s : State) : R := .next (s.setFld pCLK (bitAt CLK.CG_STAT c.val) 0)

/-- PULSE_CROSSING_DELIVERY (R465): a crossing of a class of XLOST delivers `n` pulses; beyond 255 they are lost. -/
def execPulseCrossingDelivery (cls : Fin 4) (n : Nat) (s : State) : R :=
  if 255 < n then .next ((s.setFld pCLK (bitAt CLK.XLOST cls.val) 1).raise CLK.evXLOST 0) else .next s

end Sys2Proof.Machine
end

