-- ==== Sys2Proof/Machine/Therm.lean ====
section
/-! DEFINITION. The temperature sensors, the alarms and the thermal policy (R485 to R490), and the DRAM refresh rate that follows the sensors (R358). -/

namespace Sys2Proof.Machine

/-- Sensor `k`'s register. -/
def tsf (k : Nat) (f : Fld) : Fld := fldAt f (4 * k)

/-- TSk is BROKEN. -/
def State.broken (s : State) (k : Nat) : Bool := s.bit pTHERM (bitAt THERM.TS_BROKEN k)

/-- The temperature of TSk, in 0.1 °C. -/
def State.temp (s : State) (k : Nat) : Int := sx 16 (s.fld pTHERM (tsf k THERM.TS.TEMP))

/-- Sensors whose row and column each differ by at most 1 (R486). -/
def neighbours (k : Nat) : List Nat :=
  (List.range 24).filter (fun j => j != k && decide (j / 6 ≤ k / 6 + 1) && decide (k / 6 ≤ j / 6 + 1) && decide (j % 6 ≤ k % 6 + 1)
    && decide (k % 6 ≤ j % 6 + 1))

/-- Mark a sensor BROKEN or not. -/
def State.setBroken (s : State) (k v : Nat) : State :=
  (s.setFld pTHERM (bitAt THERM.TS_BROKEN k) v).setFld pTHERM (tsf k THERM.TS.BROKEN) v

/-- The cross-check of a sample (R486): the neighbours are those not BROKEN before it (DEDUCED, log entry 34). -/
def State.crossCheck (s0 s : State) (k : Nat) : State :=
  let ns := (neighbours k).filter (fun j => !s0.broken j)
  if s0.broken k ∨ ns.length < 2 then s
  else
    let d := 2 * s0.temp k - median2 (ns.map s0.temp)
    if d.natAbs ≤ 100 then s.setFld pTHERM (tsf k THERM.TS.STRIKES) 0
    else
      let n := min (s.fld pTHERM (tsf k THERM.TS.STRIKES) + 1) 3
      let s := s.setFld pTHERM (tsf k THERM.TS.STRIKES) n
      if n < 3 then s else (s.setBroken k 1).raiseReq THERM.evSENSOR_BROKEN 0

/-- The hottest sensor that is not BROKEN; of equals, the lowest number (R487). -/
def State.hottest (s : State) : Option Nat :=
  (List.range 24).foldl (fun h k =>
    if s.broken k then h else match h with
      | some j => if s.temp j < s.temp k then some k else some j
      | none => some k) none

/-- An alarm (R490): it sets at `on` and clears below `off`, in 0.1 °C. -/
def State.alarm (s : State) (f : Fld) (e : Ev) (on off tj : Int) : State :=
  if s.bit pTHERM f then (if tj < off then (s.setFld pTHERM f 0).raise THERM.evALARM_CLEAR 0 else s)
  else if on ≤ tj then (s.setFld pTHERM f 1).raiseReq e 0
  else s

/-- The level that a temperature asks for, coming from a level (R489): entered at the threshold, left 3.0 °C below it. -/
def levelOf (old : Nat) (tj : Int) (t : Nat → Int) : Nat :=
  ((List.range 3).filter (fun i => decide (t i ≤ tj) || (decide (i + 1 ≤ old) && decide (t i - 30 < tj)))).foldl (fun m i => max m (i + 1)) 0

/-- The thermal policy (R487, R489): level 0 while POL_EN is 0, level 3 without a sensor. -/
def State.policy (s : State) : State :=
  let old := s.fld pTHERM THERM.TH_STAT.LEVEL
  let t (i : Nat) : Int := 10 * (s.fld pTHERM ⟨THERM.POL_T, 8 * i, 8⟩ : Nat)
  let new :=
    if !s.bit pTHERM THERM.TH_CTRL.POL_EN then 0
    else match s.hottest with
      | none => 3
      | some _ => if s.bit pTHERM THERM.TJ_MAX.VALID then levelOf old (sx 16 (s.fld pTHERM THERM.TJ_MAX.TEMP)) t else old
  if new = old then s else (s.setFld pTHERM THERM.TH_STAT.LEVEL new).raise THERM.evLEVEL 0

/-- TJ_MAX, the alarms and the policy after the samples or the broken marks have changed (R487, R489, R490). -/
def State.thermal (s : State) : State :=
  let cnt := ((List.range 24).filter (fun k => !s.broken k)).length
  let s := s.setFld pTHERM THERM.TH_STAT.VALID_CNT cnt
  match s.hottest with
  | none =>
    let had := s.bit pTHERM THERM.TJ_MAX.VALID
    ((s.setFld pTHERM THERM.TJ_MAX.VALID 0).when had fun s => s.raise THERM.evNO_SENSOR 0).policy
  | some k =>
    let s := (s.setFld pTHERM THERM.TJ_MAX.TEMP (unsx 16 (s.temp k))).setFld pTHERM THERM.TJ_MAX.VALID 1
    let s := s.setFld pTHERM THERM.TH_STAT.HOT k
    let hi := s.bit pTHERM THERM.TH_STAT.ALARM_HI
    let s := s.alarm THERM.TH_STAT.ALARM_HI THERM.evALARM_HI 1150 1120 (s.temp k)
    let s := s.alarm THERM.TH_STAT.ALARM_CRIT THERM.evALARM_CRIT 1250 1220 (s.temp k)
    (s.when (!hi && s.bit pTHERM THERM.TH_STAT.ALARM_HI) fun s => s.wake 5).policy

/-- The refresh rate (R358): 1, 2 or 4 times by the hottest valid sensor under the DRAM, with 3 °C of hysteresis on the way down. -/
def State.refresh (s : State) : State :=
  let under := [7, 8, 9, 10, 13, 14, 15, 16].filter (fun k => !s.broken k && s.bit pTHERM (tsf k THERM.TS.VALID))
  if !s.bit pDRAM DRAM.DR_CTRL.TEMP_REF ∨ under = [] then s
  else
    let t := (under.map s.temp).foldl max (s.temp (under.headD 0))
    let old := s.fld pDRAM DRAM.DR_STAT.REF_RATE
    let new := if 1050 < t ∨ (old = 2 ∧ 1020 < t) then 2 else if 850 < t ∨ (1 ≤ old ∧ 820 < t) then 1 else 0
    if new = old then s else (s.setFld pDRAM DRAM.DR_STAT.REF_RATE new).raise DRAM.evREF_RATE 0

/-- A write of DR_CTRL (R358, R386): the rate follows TEMP_REF. -/
def effDrCtrl (v : Word) (s : State) : Out := .ok (s.wr (pDRAM + DRAM.DR_CTRL) v).refresh

/-- SENSOR_SAMPLE (R485): the samples of TS0 to TS23, in 0.1 °C. -/
def execSensorSample (t : List (BitVec 16)) (s : State) : R :=
  let s0 := s
  let s := (List.range 24).foldl (fun s k =>
    (s.setFld pTHERM (tsf k THERM.TS.TEMP) (t.getD k 0).toNat).setFld pTHERM (tsf k THERM.TS.VALID) 1) s
  let x := s
  let s := s.when (s.bit pTHERM THERM.TH_CTRL.XCHK_EN) fun s => (List.range 24).foldl (fun s k => State.crossCheck x s k) s
  .next (watch s0 s.thermal.refresh)

/-- A write of TS_CMD (R486): READMIT clears BROKEN and the strikes. -/
def effTsCmd (v : Word) (s : State) : Out :=
  let k := getBits v 0 5
  if v.getLsbD 8 then
    if 24 ≤ k then hostError [pTHERM] s
    else .ok (watch s (((s.setBroken k 0).setFld pTHERM (tsf k THERM.TS.STRIKES) 0).when (s.bit pTHERM (tsf k THERM.TS.VALID)) fun s => s.thermal.refresh))
  else .ok s

/-- SENSOR_READMIT (R486). -/
def execSensorReadmit (r : Requester) (k : Fin 24) (s : State) : R :=
  let v : Word := BitVec.ofNat 32 (0x100 + k.val)
  txn r (pTHERM + THERM.TS_CMD) v (effTsCmd v) s

/-- A write of TH_CTRL (R489, R501): the policy follows POL_EN. -/
def effThCtrl (v : Word) (s : State) : Out := .ok (watch s (s.wr (pTHERM + THERM.TH_CTRL) v).policy)

/-- A write of POL_T (R489, R501): T1 ≤ T2 ≤ T3, each 60 to 125 °C. -/
def effPolT (v : Word) (s : State) : Out :=
  let t (i : Nat) := getBits v (8 * i) 8
  if 60 ≤ t 0 ∧ t 0 ≤ t 1 ∧ t 1 ≤ t 2 ∧ t 2 ≤ 125 then .ok (watch s (s.wr (pTHERM + THERM.POL_T) v).policy)
  else hostError [pTHERM] s

end Sys2Proof.Machine
end

