-- ==== Sys2Proof/Machine/Hk.lean ====
section
/-! DEFINITION. The housekeeping ADC (R504 to R520, R533, R534). -/

namespace Sys2Proof.Machine

/-- A field of the HKADC page. -/
def State.hkf (s : State) (f : Fld) : Nat := s.fld pHKADC f

/-- HK_STAT.STATE: 0 OFF, 1 WAIT, 2 DELAY, 3 RUN, 4 GAP, 5 DRAINING (R509). -/
def State.hkState (s : State) : Nat := s.hkf HKADC.HK_STAT.STATE

/-- The sequencer takes a state; a gap begins with its first slot to come (R518), and a sequence at entry 0. The gap and the delay count from here. -/
def State.setHk (s : State) (st : Nat) : State :=
  let s := s.setFld pHKADC HKADC.HK_STAT.STATE st
  if st = 4 then { s with hk := { s.hk with gap1 := true } }.startClock clkHkGap
  else if st = 2 then (s.setFld pHKADC HKADC.HK_STAT.ENTRY 0).startClock clkHkDelay
  else s

/-- No result being formed for an entry. -/
def hkRes0 : HkRes := ⟨0, 0, 0, false, 0, false, false, false, false, false⟩

/-- The result being formed for entry `i`; 32 is the urgent request. -/
def State.hkRes (s : State) (i : Nat) : HkRes := Tbl.get hkRes0 s.hk.res i

/-- Change the result being formed for `i`. -/
def State.modRes (s : State) (i : Nat) (f : HkRes → HkRes) : State :=
  { s with hk := { s.hk with res := Tbl.put (some hkRes0) s.hk.res i (f (s.hkRes i)) } }

/-- SEQ[e], or the urgent request for 32. -/
def State.hkEntry (s : State) (i : Nat) : Word := if i < 32 then s.rd (pHKADC + HKADC.SEQ + 4 * i) else s.hk.urg.getD 0

/-- Conversions of an entry: 2^AVG (R508). -/
def avgOf (w : Word) : Nat := 2 ^ getBits w 8 2

/-! ## The sequencer (R509 to R512) -/

/-- Nothing of the sequence is under way: no conversion of an entry runs. -/
def State.seqIdle (s : State) : Bool := s.hk.busy.all (fun e => decide (32 ≤ e.2)) && s.hk.res.all (fun e => decide (32 ≤ e.1))

/-- The sequence that has been stopped ends once what it started has completed (R509, R510). -/
def State.hkStopped (s : State) : State :=
  if s.hk.stop && s.hkState != 5 && s.seqIdle then
    let s := (s.setFld pHKADC HKADC.HK_STAT.TRIG_HELD 0).setFld pHKADC HKADC.HK_STAT.ENTRY 0
    { s.setHk 0 with hk := { s.hk with stop := false, late := false } }
  else s

/-- SEQ_EN is cleared (R509, R510). -/
def State.seqOff (s : State) : State :=
  if s.hkState = 0 ∨ s.hkState = 5 then s else ({ s with hk := { s.hk with stop := true } }).hkStopped

/-- SEQ_EN is set: OFF to GAP, while the page is ENABLED (R509, R533). -/
def State.seqOn (s : State) : State :=
  let s := { s with hk := { s.hk with stop := false } }
  if s.hkState = 0 ∧ s.enabled pHKADC then s.setHk 4 else s

/-- A trigger arrives (R511, R512): taken in WAIT, held in DELAY, RUN or GAP, discarded behind a held one, ignored else. -/
def State.hkTrigger (s : State) : State :=
  match s.hkState with
  | 1 => { s.setHk 2 with hk := { s.hk with late := false } }
  | 2 | 3 | 4 =>
    if s.bit pHKADC HKADC.HK_STAT.TRIG_HELD then (s.addSat pHKADC HKADC.HK_OVR.TRIG 1).raise HKADC.evOVERRUN 0
    else s.setFld pHKADC HKADC.HK_STAT.TRIG_HELD 1
  | _ => s

/-- A write of HK_CTRL (R506 to R510): a reference disabled loses REF_OK, and one enabled begins to settle. -/
def effHkCtrl (v : Word) (s : State) : Out :=
  let old := s.hkf HKADC.HK_CTRL.REF_EN
  let s := s.each (List.range 3) fun s i => s.when (v.getLsbD (8 + i) && !old.testBit i) fun s => s.startClock (clkHkRef i)
  let s := s.wr (pHKADC + HKADC.HK_CTRL) v
  let s := s.setFld pHKADC HKADC.HK_STAT.REF_OK (s.hkf HKADC.HK_STAT.REF_OK &&& getBits v 8 3)
  .ok (if v.getLsbD 0 then s.seqOn else s.seqOff)

/-- HK_SEQ_ENABLE (R509): HK_CTRL.SEQ_EN written 1, the other fields as they stand. -/
def execHkSeqEnable (r : Requester) (s : State) : R :=
  let v := s.rd (pHKADC + HKADC.HK_CTRL) ||| 0x1
  txn r (pHKADC + HKADC.HK_CTRL) v (effHkCtrl v) s

/-- HK_SEQ_DISABLE (R510). -/
def execHkSeqDisable (r : Requester) (s : State) : R :=
  let v := s.rd (pHKADC + HKADC.HK_CTRL) &&& ~~~0x1
  txn r (pHKADC + HKADC.HK_CTRL) v (effHkCtrl v) s

/-- A write of HK_TRIG: sources 10 to 15 are reserved (R511). -/
def effHkTrig (v : Word) (s : State) : Out := if 10 ≤ getBits v 0 4 then hostError [pHKADC] s else .ok (s.wr (pHKADC + HKADC.HK_TRIG) v)

/-- A write of SEQ[e]: reference 3 is reserved (R539). -/
def effHkSeq (e : Nat) (v : Word) (s : State) : Out :=
  if getBits v 5 2 = 3 then hostError [pHKADC] s else .ok (s.wr (pHKADC + HKADC.SEQ + 4 * e) v)

/-- The flush of the result queue (R538). -/
def State.hkFlush (s : State) : State := { s with hk := { s.hk with queue := [], full := false } }

/-- The overrun and lost counters clear (R538). -/
def State.hkCntClr (s : State) : State := (s.wr (pHKADC + HKADC.HK_OVR) 0).setFld pHKADC HKADC.RQ_STAT.LOST 0

/-- A write of HK_CMD (R511, R536, R538): a software trigger under every SRC but 9. -/
def effHkCmd (v : Word) (s : State) : Out :=
  let s := s.when (v.getLsbD 0 && s.hkf HKADC.HK_TRIG.SRC != 9) State.hkTrigger
  let s := s.when (v.getLsbD 1) State.hkFlush
  .ok (s.when (v.getLsbD 2) State.hkCntClr)

/-- HK_TRIGGER (R511). -/
def execHkTrigger (r : Requester) (s : State) : R := txn r (pHKADC + HKADC.HK_CMD) 0x1 (effHkCmd 0x1) s
/-- HK_RQ_FLUSH (R538). -/
def execHkRqFlush (r : Requester) (s : State) : R := txn r (pHKADC + HKADC.HK_CMD) 0x2 (effHkCmd 0x2) s
/-- HK_CNT_CLR (R538). -/
def execHkCntClr (r : Requester) (s : State) : R := txn r (pHKADC + HKADC.HK_CMD) 0x4 (effHkCmd 0x4) s

/-- A write of TMR_CTRL (R513): a timer counts from its enable. -/
def effTmrCtrl (v : Word) (s : State) : Out :=
  let old := s.rd (pHKADC + HKADC.TMR_CTRL)
  .ok ((s.wr (pHKADC + HKADC.TMR_CTRL) v).each (List.range 4) fun s t => s.when (v.getLsbD t && !old.getLsbD t) fun s => s.startClock (clkHkTimer t))

/-- HK_TIMER_FIRE (R511, R513): time runs to the timer's next firing, TMR_PER management cycles of four ticks on, at least 16. -/
def execHkTimerFire (t : Fin 4) (s : State) : R :=
  if (s.rd (pHKADC + HKADC.TMR_CTRL)).getLsbD t.val then
    let s := s.period (clkHkTimer t.val) (4 * max 16 (s.rd (pHKADC + HKADC.TMR_PER + 4 * t.val)).toNat)
    .next (s.when (s.hkf HKADC.HK_TRIG.SRC == 1 + t.val) State.hkTrigger)
  else .next s

/-- HK_DELAY_END (R509): time runs to DELAY × 10 ns after the trigger was taken. -/
def execHkDelayEnd (s : State) : R :=
  if s.hkState = 2 then .next ((s.elapse clkHkDelay ((25 * s.hkf HKADC.HK_TRIG.DELAY + 3) / 4)).setHk 3) else .next s

/-- The first slot of the gap (R518, R534): corrections written since the last one come into force, unless the brown-out warning is active.
CD_TRIM and BG_TRIM come into force as they stand. -/
def State.hkForce (s : State) : State :=
  if s.brownOut then s
  else
    let s := s.hk.staged.foldl (fun s e => s.wr e.1 e.2) s
    let as := (pCAL + CAL.BG_TRIM) :: (List.range 16).map (fun c => pCDAC + CDAC.CD_TRIM + 4 * c)
    { s with hk := { s.hk with staged := [], trims := as.foldl (fun t a => Tbl.put (some 0) t a (s.rd a)) s.hk.trims } }

/-- HK_GAP_END (R509, R511, R512, R536): time runs to the end of the gap of 1 µs. A held trigger is taken, and its sequence is LATE; under SRC 9 the end of the gap is a trigger. -/
def execHkGapEnd (s : State) : R :=
  if s.hkState = 4 then
    let s := s.elapse clkHkGap 625
    let s := s.when s.hk.gap1 fun s => { s.hkForce with hk := { s.hkForce.hk with gap1 := false } }
    if s.bit pHKADC HKADC.HK_STAT.TRIG_HELD then
      .next ({ (s.setFld pHKADC HKADC.HK_STAT.TRIG_HELD 0).setHk 2 with hk := { s.hk with late := true } })
    else if s.hkf HKADC.HK_TRIG.SRC = 9 then .next ({ s.setHk 2 with hk := { s.hk with late := false } })
    else .next (s.setHk 1)
  else .next s

/-! ## Conversions (R504, R505, R508, R514, R517, R519) -/

/-- Some reference is enabled (R514). -/
def State.hkRef (s : State) : Bool := s.hkf HKADC.HK_CTRL.REF_EN != 0

/-- A sub-converter may take a conversion: it is free and not excluded. -/
def State.subFree (s : State) (k : Nat) : Bool := (Tbl.find s.hk.busy k).isNone && s.bit pHKADC (bitAt HKADC.HK_STAT (24 + k))

/-- A conversion of entry `i` starts: the first one takes the time tag and flags (R507, R517). -/
def State.hkStart (s : State) (k i : Nat) : State :=
  let s := { s with hk := { s.hk with busy := Tbl.insert s.hk.busy k i } }
  if 33 ≤ i then s
  else
    let ref := getBits (s.hkEntry i) 5 2
    let ns : Word := BitVec.ofNat 32 (s.time.now / 2 ^ 32)
    let noclk := !s.time.running
    let refNs := !(s.hkf HKADC.HK_STAT.REF_OK).testBit ref
    let late := decide (i < 32) && s.hk.late
    s.modRes i fun x =>
      let y := if x.started = 0 then { x with ns := ns, noclk := noclk, late := late } else x
      { y with started := x.started + 1, bo := x.bo || s.brownOut, refNs := y.refNs || refNs }

/-- The urgent request has conversions left to start. -/
def State.urgDue (s : State) : Bool :=
  match s.hk.urg with
  | some w => decide ((s.hkRes 32).started < avgOf w) && s.hkRef && s.fstate pHKADC != 0 && (s.hkState != 5 || !s.bit pHKADC HDR.DRAIN || decide (0 < (s.hkRes 32).started))
  | none => false

/-- The sequence may start a conversion: in RUN, or draining it under COMPLETE; one that has been stopped goes on with an entry that has
started (R510, R533). -/
def State.seqDue (s : State) : Bool :=
  let e := s.hkf HKADC.HK_STAT.ENTRY
  let begun := decide (0 < (s.hkRes e).started)
  (s.hkState == 3 && (!s.hk.stop || begun)
    || (s.hkState == 5 && s.hk.stop && !s.bit pHKADC HDR.DRAIN)) && decide (e ≤ s.hkf HKADC.HK_CTRL.LAST)
    && decide ((s.hkRes e).started < avgOf (s.hkEntry e))

/-- An entry of the sequence starts a conversion; after its last the next entry follows. An interrupted one carries PRE. -/
def State.seqConvert (s : State) (k : Nat) : State :=
  let e := s.hkf HKADC.HK_STAT.ENTRY
  let s := s.hkStart k e
  if (s.hkRes e).started < avgOf (s.hkEntry e) ∨ e = s.hkf HKADC.HK_CTRL.LAST then s
  else s.setFld pHKADC HKADC.HK_STAT.ENTRY (e + 1)

/-- A free slot takes a reference conversion (R148, R150, R520): the field measurement of CALREF, and the references, bandgap and sense taps while HK_EN is 1. -/
def State.refDue (s : State) : Bool :=
  !s.brownOut && (s.bit pCAL CAL.CAL_STAT.REF_BUSY || s.bit pCAL CAL.CAL_CTRL.HK_EN) && s.hkRef && s.enabled pHKADC

/-- HK_CONVERSION_SLOT (R504, R514, R518 to R520): a 100 ns slot begins; sub-converter `k` is the free one that a conversion would take. -/
def execHkConversionSlot (k : Fin 4) (s : State) : R :=
  if s.hkState = 4 ∧ s.hk.gap1 then .next ({ s.hkForce with hk := { s.hkForce.hk with gap1 := false } })
  else
    let s := s.when (s.hkState == 0) State.hkForce
    if !s.subFree k.val then .next s
    else if s.urgDue then
      let s := s.when s.seqDue fun s =>
        let e := s.hkf HKADC.HK_STAT.ENTRY
        if (s.hkRes e).started = 0 then s else s.modRes e fun x => { x with pre := true }
      .next (s.hkStart k.val 32)
    else if s.seqDue then .next (s.seqConvert k.val)
    else if (s.hkState = 1 ∨ s.hkState = 4) ∧ s.bit pHKADC HKADC.HK_CTRL.CAL_EN ∧ !s.brownOut then .next (s.hkStart k.val 33)
    else if s.refDue then .next (s.hkStart k.val 34)
    else .next s

/-- A result word (R539): RQ_LO. -/
def State.resWord (s : State) (i : Nat) (x : HkRes) : Word :=
  let w := s.hkEntry i
  let n := avgOf w
  let b (p : Bool) (k : Nat) : Nat := if p then 2 ^ k else 0
  BitVec.ofNat 32 (2 ^ 31 + b x.pre 30 + b x.clip 29 + (if i < 32 then i * 2 ^ 24 else 0) + b x.late 23 + getBits w 5 2 * 2 ^ 21
    + b x.noclk 20 + b x.bo 19 + b x.refNs 18 + b (decide (i = 32)) 17 + getBits w 0 5 * 2 ^ 12 + (2 * x.sum + n) / (2 * n))

/-- A result reaches the queue (R516). -/
def State.rqPut (s : State) (lo hi : Word) : State :=
  let n := s.hk.queue.length
  if 256 ≤ n then
    let s := (s.addSat pHKADC HKADC.RQ_STAT.LOST 1).when (!s.hk.full) fun s => s.raise HKADC.evRQ_OVF 0
    { s with hk := { s.hk with full := true } }
  else
    let s := { s with hk := { s.hk with queue := s.hk.queue ++ [(lo, hi)] } }
    s.when (n + 1 == max 1 (s.hkf HKADC.RQ_WATER.LEVEL)) fun s => s.raise HKADC.evRQ_WATER 0

/-- The urgent result is complete (R514). -/
def State.urgResult (s : State) (lo ns : Word) : State :=
  let s := (s.wr (pHKADC + HKADC.URG_RES) lo).setFld pHKADC HKADC.HK_STAT.URG_PEND 0
  let s := { s with hk := { s.hk with urg := none } }
  (s.rqPut lo ns).raise HKADC.evURG_DONE 0

/-- The result of sequence entry `i` is complete (R508, R509): after entry LAST the gap begins. -/
def State.seqResult (s : State) (i : Nat) (lo ns : Word) : State :=
  let s := if getBits (s.hkEntry i) 16 1 = 0 then s.rqPut lo ns else s
  let last : Bool := i == s.hkf HKADC.HK_CTRL.LAST && s.hkState == 3 && !s.hk.stop
  let s := if i = s.hkf HKADC.HK_CTRL.LAST ∧ s.hkState = 5 then { s with hk := { s.hk with stop := false } } else s
  if last then (s.setHk 4).raise HKADC.evSEQ_DONE 0 else s

/-- The result of entry `i` is complete: HK_LAST, the queue, and what ends with it. -/
def State.hkResult (s : State) (i : Nat) : State :=
  let x := s.hkRes i
  let lo := s.resWord i x
  let s := s.wr (pHKADC + HKADC.HK_LAST + 4 * getBits (s.hkEntry i) 0 5) lo
  let t := { s with hk := { s.hk with res := Tbl.erase s.hk.res i } }
  if i = 32 then t.urgResult lo x.ns else t.seqResult i lo x.ns

/-- The nearest integer to 4,096 × V_in / V_ref (R505); ties up (DESIGN CHOICE, log entry 93). -/
def hkRaw (vin vref : Int) : Int := (2 * 4096 * vin + vref) / (2 * vref)

/-- The code of a conversion, limited to 0 to 4,095 (R505). -/
def hkCode (vin vref : Int) : Nat := (max 0 (min 4095 (hkRaw vin vref))).toNat

/-- The code of a conversion and whether it was clipped (R505). A reference of 0 V or less is none: the spec states no result, and both are free
(DESIGN CHOICE, log entry 93). -/
def State.hkConv (s : State) (vin vref : Int) : (Nat × Bool) × State :=
  if vref ≤ 0 then
    let (v, s) := s.fresh
    ((v % 4096, v / 4096 % 2 == 1), s)
  else ((hkCode vin vref, decide (hkRaw vin vref < 0) || decide (4095 < hkRaw vin vref)), s)

/-- HK_CONVERSION_DONE (R504, R505, R508): sub-converter `k` completes; input and reference voltages in one unit. -/
def execHkConversionDone (k : Fin 4) (vin vref : Int) (s : State) : R :=
  match Tbl.find s.hk.busy k.val with
  | none => .next s
  | some i =>
    let s := { s with hk := { s.hk with busy := Tbl.erase s.hk.busy k.val } }
    if 33 ≤ i then .next s.hkStopped
    else
      let bo := s.brownOut
      let ((code, clip), s) := s.hkConv vin vref
      let s := s.modRes i fun x => { x with sum := x.sum + code, done := x.done + 1, clip := x.clip || clip, bo := x.bo || bo }
      if (s.hkRes i).done < avgOf (s.hkEntry i) then .next s.hkStopped
      else .next (s.hkResult i).hkStopped

/-- A write of URG_REQ (R514, R515): reference 3 is reserved; a request behind a pending one is discarded. -/
def effUrgReq (v : Word) (s : State) : Out :=
  if getBits v 5 2 = 3 then hostError [pHKADC] s
  else if s.hk.urg.isSome then .ok ((s.addSat pHKADC HKADC.HK_OVR.URG 1).raise HKADC.evURG_OVR 0)
  else .ok (({ s with hk := { s.hk with urg := some v } }.setFld pHKADC HKADC.HK_STAT.URG_PEND 1).setFld pHKADC HKADC.URG_RES.VALID 0)

/-- HK_URGENT_REQUEST (R514): channel, reference and averaging count. -/
def execHkUrgentRequest (r : Requester) (ch : Fin 32) (ref : Fin 3) (avg : Fin 4) (s : State) : R :=
  let v : Word := BitVec.ofNat 32 (ch.val + 32 * ref.val + 256 * avg.val)
  txn r (pHKADC + HKADC.URG_REQ) v (effUrgReq v) s

/-- The head entry of the queue: RQ_LO and RQ_HI, 0 when it is empty (R516). -/
def State.rqHead (s : State) : Word × Word := s.hk.queue.headD (0, 0)

/-- A read of RQ_HI removes the head (R516). -/
def State.rqPop (s : State) : Word × State :=
  (s.rqHead.2, { s with hk := { s.hk with queue := s.hk.queue.tail, full := if s.hk.queue.isEmpty then s.hk.full else false } })

/-- HK_RQ_POP (R516). -/
def execHkRqPop (r : Requester) (s : State) : R := readTxn r (pHKADC + HKADC.RQ_HI) State.rqPop s

/-! ## Calibration and references (R507, R519) -/

/-- HK_SUBCONV_CALIBRATE (R519): offset in 1/16 LSB and gain in 0.01 %. Beyond ±32 LSB or ±2 % the sub-converter is excluded until cold reset. -/
def execHkSubconvCalibrate (k : Fin 4) (offset gain : BitVec 12) (s : State) : R :=
  let ok := s.bit pHKADC (bitAt HKADC.HK_STAT (24 + k.val))
  if s.bit pHKADC HKADC.HK_CTRL.CAL_EN ∧ !s.brownOut ∧ s.enabled pHKADC ∧ ok then
    if 512 < (sx 12 offset.toNat).natAbs ∨ 200 < (sx 12 gain.toNat).natAbs then
      .next ((s.setFld pHKADC (bitAt HKADC.HK_STAT (24 + k.val)) 0).raiseReq HKADC.evSLICE_FAULT 0)
    else
      let a := pHKADC + HKADC.SLC_CORR + 4 * k.val
      .next { s with hk := { s.hk with staged := Tbl.insert s.hk.staged a (BitVec.ofNat 32 (offset.toNat * 2 ^ 16 + gain.toNat)) } }
  else .next s

/-- The settling time of a reference in ticks (R506): 20 µs, 5 µs or 1 µs. -/
def settleTicks (ref : Nat) : Nat := match ref with | 0 => 12500 | 1 => 3125 | _ => 625

/-- HK_REF_SETTLED (R506, R507): time runs to the settling of a reference since it was enabled. -/
def execHkRefSettled (ref : Fin 3) (s : State) : R :=
  if (s.hkf HKADC.HK_CTRL.REF_EN).testBit ref.val then
    let s := s.elapse (clkHkRef ref.val) (settleTicks ref.val)
    .next (s.setFld pHKADC (bitAt HKADC.HK_STAT (20 + ref.val)) 1) else .next s

/-- HK_VREF_FAULT (R507): VREF leaves 0.9 V to 1.9 V. -/
def execHkVrefFault (s : State) : R :=
  if s.bit pHKADC (bitAt HKADC.HK_STAT 21) then .next ((s.setFld pHKADC (bitAt HKADC.HK_STAT 21) 0).raise HKADC.evREF_FAULT 0) else .next s

/-- VREF_IN_RANGE (R507): VREF returns, and the REF_OK of the external reference, enabled and settled, sets again. -/
def execVrefInRange (s : State) : R :=
  if (s.hkf HKADC.HK_CTRL.REF_EN).testBit 1 ∧ s.due (clkHkRef 1) (settleTicks 1) then .next (s.setFld pHKADC (bitAt HKADC.HK_STAT 21) 1) else .next s

/-! ## The page's function (R533) -/

/-- The page has work that a drain waits for (R533). -/
def State.hkBusy (s : State) : Bool := !s.hk.busy.isEmpty || s.hk.urg.isSome || (s.hkState == 5 && s.hk.stop)

/-- ENABLE is written 0 (R509, R514, R533): DRAINING. Under COMPLETE (DRAIN 0) a sequence in RUN goes on to entry LAST; under
CANCEL an urgent request that has not started is discarded, and nothing new starts. -/
def State.hkDrain (s : State) : State :=
  let cancel := s.bit pHKADC HDR.DRAIN
  let running := s.hkState == 3
  let s := (s.setFld pHKADC HKADC.HK_STAT.TRIG_HELD 0).setHk 5
  let s := { s with hk := { s.hk with stop := running && !cancel } }
  s.when (cancel && s.hk.urg.isSome && (s.hkRes 32).started == 0) fun s =>
    ({ s with hk := { s.hk with urg := none } }).setFld pHKADC HKADC.HK_STAT.URG_PEND 0

/-- The drain has ended: OFF (R509). -/
def State.hkDrained (s : State) : State :=
  { (s.setHk 0).setFld pHKADC HKADC.HK_STAT.ENTRY 0 with hk := { s.hk with stop := false, late := false, res := [] } }

end Sys2Proof.Machine
end

