-- ==== Sys2Proof/Machine/Cdac.lean ====
section
/-! DEFINITION. The control DACs (R521 to R527) and the PWM outputs (R528 to R532), with what ENABLE does to their pages (R533). -/

namespace Sys2Proof.Machine

/-! ## Control DACs -/

/-- Channel `c`'s field. -/
def cdf (c : Nat) (f : Fld) : Fld := fldAt f (16 * c)

/-- Channel `c` beside its registers. -/
def State.cdSt (s : State) (c : Nat) : CdSt := Tbl.get ⟨[], 0, false, false⟩ s.cd c

/-- Change channel `c`; QCOUNT follows its queue. -/
def State.modCd (s : State) (c : Nat) (f : CdSt → CdSt) : State :=
  let x := f (s.cdSt c)
  ({ s with cd := Tbl.put (some ⟨[], 0, false, false⟩) s.cd c x }).setFld pCDAC (cdf c CDAC.CD_STAT.QCOUNT) x.queue.length

/-- CD_STAT.STATE: 0 HIZ, 1 DRIVE, 2 RAMP, 3 SWITCH, 4 HOLD0 (R522). -/
def State.cdState (s : State) (c : Nat) : Nat := s.fld pCDAC (cdf c CDAC.CD_STAT.STATE)

/-- Set the state. -/
def State.setCd (s : State) (c st : Nat) : State := s.setFld pCDAC (cdf c CDAC.CD_STAT.STATE) st

/-- A code of the span in force as a number (R521). -/
def cdInt (span code : Nat) : Int := if 2 ≤ span then sx 14 code else (code % 2 ^ 14 : Nat)

/-- The span in force. -/
def State.cdSpan (s : State) (c : Nat) : Nat := s.fld pCDAC (cdf c CDAC.CD_STAT.SPAN_ACT)

/-- The code being driven. -/
def State.cdOut (s : State) (c : Nat) : Nat := s.fld pCDAC (cdf c CDAC.CD_STAT.OUT)

/-- The channel may drive (R522): EN is 1 and the page ENABLED, and no end is under way. -/
def State.cdOn (s : State) (c : Nat) : Bool := s.bit pCDAC (cdf c CDAC.CD_CTRL.EN) && s.enabled pCDAC

/-- The channel enters HIZ (R522, R526): its output is at code 0 and no longer limited. -/
def State.cdHiz (s : State) (c : Nat) : State :=
  let s := ((s.setCd c 0).setFld pCDAC (cdf c CDAC.CD_STAT.OUT) 0).setFld pCDAC (bitAt CDAC.CD_SC c) 0
  s.modCd c fun x => { x with target := 0, ending := false, play := false }

/-- The channel starts in DRIVE at code 0 (R522); the span takes effect, and its clocks run from here (R523, R524). -/
def State.cdStart (s : State) (c : Nat) : State :=
  let s := (((s.startClock (clkCdUpd c)).startClock (clkCdSlew c)).setCd c 1).setFld pCDAC (cdf c CDAC.CD_STAT.OUT) 0
  (s.setFld pCDAC (cdf c CDAC.CD_STAT.SPAN_ACT) (s.fld pCDAC (cdf c CDAC.CD_CTRL.SPAN))).modCd c fun x => { x with target := 0, ending := false, play := false }

/-- The driven code moves towards the target by at most `n` codes, or to it if `n` is 0 (R524). -/
def State.cdMove (s : State) (c n : Nat) : State :=
  let a := cdInt (s.cdSpan c) (s.cdOut c)
  let b := cdInt (s.cdSpan c) (s.cdSt c).target
  let y := if n = 0 then b else if a < b then min b (a + n) else max b (a - n)
  s.setFld pCDAC (cdf c CDAC.CD_STAT.OUT) (unsx 14 y)

/-- What follows from the present code (R522, R524): with STEP 0 the output is at its target at once, and RAMP ends at code 0. -/
def State.cdSettle (s : State) (c : Nat) : State :=
  let s := s.when ((s.cdState c == 1 || s.cdState c == 2) && s.fld pCDAC (cdf c CDAC.CD_SLEW.STEP) == 0) fun s => s.cdMove c 0
  if s.cdState c = 2 ∧ s.cdOut c = 0 then (if (s.cdSt c).ending then s.cdHiz c else (s.setCd c 3).startClock (clkCdSwitch c)) else s

/-- The ramp to code 0 begins (R522). -/
def State.cdRamp (s : State) (c : Nat) : State := ((s.setCd c 2).modCd c fun x => { x with target := 0, play := false }).cdSettle c

/-- The channel is to end in HIZ (R526, R536): at once from SWITCH and HOLD0. -/
def State.cdEnd (s : State) (c : Nat) : State :=
  if s.cdState c = 0 then s
  else
    let s := s.modCd c fun x => { x with queue := [], ending := true }
    if 3 ≤ s.cdState c then s.cdHiz c else s.cdRamp c

/-- A write of SPAN (R525): in HIZ it takes effect at once; else the queue goes, and the output ramps to code 0, or goes on doing so. FLUSHED
counts the codes of one range change (R525, R542; DEDUCED, log entry 35). -/
def State.cdNewSpan (s : State) (c : Nat) : State :=
  let st := s.cdState c
  if st = 0 then s.setFld pCDAC (cdf c CDAC.CD_STAT.SPAN_ACT) (s.fld pCDAC (cdf c CDAC.CD_CTRL.SPAN))
  else
    let before := if st = 2 ∨ st = 3 then s.fld pCDAC (cdf c CDAC.CD_STAT.FLUSHED) else 0
    let s := s.setFld pCDAC (cdf c CDAC.CD_STAT.FLUSHED) (min 15 (before + (s.cdSt c).queue.length))
    let s := s.modCd c fun x => { x with queue := [] }
    if st = 1 ∨ st = 4 then s.cdRamp c else s

/-- A write of CD_CTRL[c] (R522, R525, R526, R542): a SPAN that differs is a write of SPAN (DEDUCED, log entry 35). UPD_DIV above 1,000 is
reserved. -/
def effCdCtrl (c : Nat) (v : Word) (s : State) : Out :=
  let a := pCDAC + CDAC.CD_CTRL + 16 * c
  let old := s.rd a
  if 1000 < getBits v 16 10 then hostError [pCDAC] s
  else
    let s := s.wr a v
    let s := s.when (getBits old 4 2 != getBits v 4 2) fun s => s.cdNewSpan c
    if v.getLsbD 0 then
      if s.cdState c = 0 ∧ s.enabled pCDAC then .ok (s.cdStart c)
      else .ok (s.when (s.enabled pCDAC) fun s => s.modCd c fun x => { x with ending := false })
    else .ok (if old.getLsbD 0 then s.cdEnd c else s)

/-- A write of CD_CTRL by a command. -/
def writeCd (r : Requester) (c : Nat) (v : Word) (s : State) : R := txn r (pCDAC + CDAC.CD_CTRL + 16 * c) v (effCdCtrl c v) s

/-- CD_ENABLE (R522): EN written 1, the other fields as they stand. -/
def execCdEnable (r : Requester) (c : Fin 16) (s : State) : R :=
  writeCd r c.val (s.rd (pCDAC + CDAC.CD_CTRL + 16 * c.val) ||| 0x1) s

/-- CD_DISABLE (R526). -/
def execCdDisable (r : Requester) (c : Fin 16) (s : State) : R :=
  writeCd r c.val (s.rd (pCDAC + CDAC.CD_CTRL + 16 * c.val) &&& ~~~0x1) s

/-- CD_SPAN_WRITE (R525): SPAN written, the other fields as they stand. -/
def execCdSpanWrite (r : Requester) (c : Fin 16) (span : Fin 4) (s : State) : R :=
  writeCd r c.val (putBits (s.rd (pCDAC + CDAC.CD_CTRL + 16 * c.val)) 4 2 span.val) s

/-- A write of CD_Q[c] (R523): a code to a full queue is dropped. -/
def effCdQ (c : Nat) (v : Word) (s : State) : Out :=
  if 16 ≤ (s.cdSt c).queue.length then .ok ((s.setFld pCDAC (bitAt CDAC.CD_QERR c) 1).raise CDAC.evQERR 0)
  else .ok (s.modCd c fun x => { x with queue := x.queue ++ [v.toNat % 2 ^ 14] })

/-- CD_QUEUE_WRITE (R523). -/
def execCdQueueWrite (r : Requester) (c : Fin 16) (code : BitVec 14) (s : State) : R :=
  txn r (pCDAC + CDAC.CD_Q + 16 * c.val) (code.setWidth 32) (effCdQ c.val (code.setWidth 32)) s

/-- CD_UPDATE_TICK (R523): time runs to the channel's next update tick, UPD_DIV µs (0 acts as 1) after the last. The oldest code becomes the target. A channel that plays its queue out ramps once it is empty (R533). -/
def execCdUpdateTick (c : Fin 16) (s : State) : R :=
  let c := c.val
  let s := s.when (s.cdState c != 0) fun s => s.period (clkCdUpd c) (625 * max 1 (s.fld pCDAC (cdf c CDAC.CD_CTRL.UPD_DIV)))
  if s.cdState c = 1 ∨ s.cdState c = 4 then
    match (s.cdSt c).queue with
    | q :: t => .next (((s.setCd c 1).modCd c fun x => { x with queue := t, target := q }).cdSettle c)
    | [] =>
      if (s.cdSt c).play then .next (s.cdEnd c)
      else if s.bit pCDAC (cdf c CDAC.CD_CTRL.STREAM) then .next ((s.setFld pCDAC (bitAt CDAC.CD_QERR (16 + c)) 1).raise CDAC.evQERR 0)
      else .next s
  else .next s

/-- CD_SLEW_TICK (R524): time runs to the channel's next limiter tick, SLEW_DIV µs (0 acts as 1) after the last. -/
def execCdSlewTick (c : Fin 16) (s : State) : R :=
  let c := c.val
  let s := s.when (s.cdState c != 0) fun s => s.period (clkCdSlew c) (625 * max 1 (s.fld pCDAC (cdf c CDAC.CD_SLEW.SLEW_DIV)))
  if s.cdState c = 1 ∨ s.cdState c = 2 then .next ((s.cdMove c (s.fld pCDAC (cdf c CDAC.CD_SLEW.STEP))).cdSettle c) else .next s

/-- CD_SWITCH_END (R522): time runs to 10 µs at 0 V. -/
def execCdSwitchEnd (c : Fin 16) (s : State) : R :=
  let c := c.val
  if s.cdState c = 3 then
    let s := s.elapse (clkCdSwitch c) 6250
    .next ((s.setCd c 4).setFld pCDAC (cdf c CDAC.CD_STAT.SPAN_ACT) (s.fld pCDAC (cdf c CDAC.CD_CTRL.SPAN)))
  else .next s

/-- CD_SHORT (R527): the output begins to limit; `limiting` gives the outputs that limit at that instant. -/
def execCdShort (c : Fin 16) (limiting : BitVec 16) (s : State) : R :=
  if s.cdState c.val = 0 then .next s
  else
    let s := s.when (!s.bit pCDAC (bitAt CDAC.CD_SC c.val)) fun s => s.startClock (clkCdShort c.val)
    let s := s.setFld pCDAC CDAC.CD_SC.SC_NOW (limiting ||| BitVec.ofNat 16 (2 ^ c.val)).toNat
    .next ((s.setFld pCDAC (bitAt CDAC.CD_SCF c.val) 1).raise CDAC.evSHORT 0)

/-- CD_SHORT_HIZ (R527): time runs to 10 µs of limiting. -/
def execCdShortHiz (c : Fin 16) (s : State) : R :=
  let c := c.val
  if s.bit pCDAC (bitAt CDAC.CD_SC c) ∧ s.bit pCDAC (cdf c CDAC.CD_CTRL.SC_HIZ) then
    let s := s.elapse (clkCdShort c) 6250
    .next (((s.setFld pCDAC (cdf c CDAC.CD_CTRL.EN) 0).modCd c fun x => { x with queue := [] }).cdHiz c)
  else .next s

/-- ENABLE of the CDAC page is written 0 (R533): under COMPLETE the queue is played out first. -/
def State.cdDrain (s : State) : State :=
  s.each (List.range 16) fun s c =>
    if s.cdState c = 0 then s
    else if !s.bit pCDAC HDR.DRAIN ∧ (s.cdSt c).queue ≠ [] then s.modCd c fun x => { x with play := true }
    else s.cdEnd c

/-- Some channel is not in HIZ. -/
def State.cdBusy (s : State) : Bool := (List.range 16).any (fun c => s.cdState c != 0)

/-- ENABLE returns to 1 (R533): 0 V on the channels whose EN is 1. -/
def State.cdResume (s : State) : State :=
  s.each (List.range 16) fun s c => s.when (s.cdOn c && s.cdState c == 0) fun s => s.cdStart c

/-! ## PWM outputs -/

/-- Output `k`'s field. -/
def pwf (k : Nat) (f : Fld) : Fld := fldAt f (16 * k)

/-- Change output `k`. -/
def State.modPw (s : State) (k : Nat) (f : PwSt → PwSt) : State := { s with pw := Tbl.put (some pwInit) s.pw k (f (s.pwSt k)) }

/-- PW_CTRL's PAIR bit that covers output `k` (R531). -/
def State.pwPair (s : State) (k : Nat) : Bool := s.bit pPWM (bitAt PWM.PW_CTRL (4 + k / 2))

/-- RUN of an output; the odd one of a pair follows the even one's counter. -/
def State.setRun (s : State) (k v : Nat) : State :=
  let s := s.setFld pPWM (bitAt PWM.PW_STAT k) v
  s.when (k % 2 == 0 && (s.pwSt k).pair) fun s => s.setFld pPWM (bitAt PWM.PW_STAT (k + 1)) v

/-- DMAX, DEAD, TRIG_CNT, POL and PAIR come into force (R529, R536). -/
def State.pwLimits (s : State) (k : Nat) : State :=
  let pol := s.bit pPWM (bitAt PWM.PW_CTRL (8 + k))
  let pair := k % 2 == 0 && s.pwPair k
  s.modPw k fun x => { x with dmax := s.fld pPWM (pwf k PWM.PW_LIM.DMAX), dead := s.fld pPWM (pwf k PWM.PW_LIM.DEAD),
                              trig := s.fld pPWM (pwf k PWM.PW_TRIG.TRIG_CNT), pol := pol, pair := pair }

/-- DUTY above DMAX is clamped (R528). -/
def State.pwClamp (s : State) (k : Nat) : State :=
  let x := s.pwSt k
  if x.dmax < x.duty ∧ !s.bit pPWM (bitAt PWM.PW_FLAGS k) then (s.setFld pPWM (bitAt PWM.PW_FLAGS k) 1).raise PWM.evCLAMP 0 else s

/-- The output's counter starts at 0 (R532) with the last PER and DUTY written. -/
def State.pwStart (s : State) (k : Nat) : State :=
  let p := s.fld pPWM (pwf k PWM.PW_PER.V)
  let d := s.fld pPWM (pwf k PWM.PW_DUTY.V)
  let s := ((s.startClock (clkPwm k)).modPw k fun x => { x with per := p, duty := d, next := none, stop := false }).pwLimits k
  (s.setRun k 1).pwClamp k

/-- The output goes inactive (R532). -/
def State.pwStop (s : State) (k : Nat) : State := (s.modPw k fun x => { x with stop := false, next := none }).setRun k 0

/-- A write of PW_PER[k] (R528): below 2 is reserved; it waits for a DUTY. -/
def effPwPer (k : Nat) (v : Word) (s : State) : Out := if v.toNat < 2 then hostError [pPWM] s else .ok (s.wr (pPWM + PWM.PW_PER + 16 * k) v)

/-- A write of PW_DUTY[k] (R529): this DUTY and the last PER written wait for the period boundary. -/
def effPwDuty (k : Nat) (v : Word) (s : State) : Out :=
  let s := s.wr (pPWM + PWM.PW_DUTY + 16 * k) v
  let p := s.fld pPWM (pwf k PWM.PW_PER.V)
  .ok (s.when (s.pwRuns k) fun s => (s.modPw k fun x => { x with next := some (p, v.toNat % 2 ^ 16) }).startClock (clkDuty k))

/-- PWM_DUTY_WRITE (R529). -/
def execPwmDutyWrite (r : Requester) (k : Fin 4) (duty : BitVec 16) (s : State) : R :=
  txn r (pPWM + PWM.PW_DUTY + 16 * k.val) (duty.setWidth 32) (effPwDuty k.val (duty.setWidth 32)) s

/-- PWM_PERIOD_BOUNDARY (R528, R529, R533): time runs to the end of the period. A DUTY written less than 2 cycles before it waits for the next
boundary. -/
def execPwmPeriodBoundary (k : Fin 4) (s : State) : R :=
  let k := k.val
  if s.pwRuns k ∧ !s.pwOdd k then
    let s := s.period (clkPwm k) (4 * (s.pwSt k).per)
    let late := decide (s.clockOf (clkPwm k) < s.clockOf (clkDuty k) + 8)
    if (s.pwSt k).stop then .next (s.pwStop k)
    else
      let was := (s.pwSt k).pair
      let s := s.modPw k fun x => match x.next with
        | some (p, d) => if late then x else { x with per := p, duty := d, next := none }
        | none => x
      let s := s.pwLimits k
      let s := s.when (was != (s.pwSt k).pair) fun s =>
        if was then (if s.bit pPWM (bitAt PWM.PW_CTRL (k + 1)) then s.pwStart (k + 1) else s.setRun (k + 1) 0) else s.setRun k 1
      let s := s.when (k % 2 == 0 && (s.pwSt k).pair) fun s => s.modPw (k + 1) fun x => { x with trig := s.fld pPWM (pwf (k + 1) PWM.PW_TRIG.TRIG_CNT), pol := s.bit pPWM (bitAt PWM.PW_CTRL (8 + (k + 1))) }
      .next (s.pwClamp k)
  else .next s

/-- Time runs to the instant at which the counter of output `j` stands at `c` (R530). -/
def State.toCount (s : State) (j c : Nat) : State :=
  let p := 4 * (s.pwSt j).per
  s.runOn ((4 * c + p - (s.tick - s.clockOf (clkPwm j)) % p) % p)

/-- PWM_TRIGGER_EDGE (R511, R530, R531): time runs to the instant at which the counter reaches TRIG_CNT; the odd output of a pair has the even one's. -/
def execPwmTriggerEdge (k : Fin 4) (s : State) : R :=
  let k := k.val
  let j := if s.pwOdd k then k - 1 else k
  if s.pwRuns k ∧ s.bit pPWM (pwf k PWM.PW_TRIG.TRIG_EN) ∧ (s.pwSt k).trig < (s.pwSt j).per then
    let s := s.toCount j (s.pwSt k).trig
    .next (s.when (s.hkf HKADC.HK_TRIG.SRC == 5 + k) State.hkTrigger)
  else .next s

/-- A write of PW_CTRL (R531, R532): an output's counter starts or stops with its EN; POL and PAIR wait for the boundary of a running output. -/
def effPwCtrl (v : Word) (s : State) : Out :=
  let s := s.wr (pPWM + PWM.PW_CTRL) v
  let s := s.each [0, 2] fun s k => s.when (!s.pwRuns k) fun s => s.pwLimits k
  .ok (s.each (List.range 4) fun s k =>
    if s.pwOdd k then s
    else if v.getLsbD k then (if !s.pwRuns k ∧ s.enabled pPWM then s.pwStart k else s)
    else if s.pwRuns k then s.pwStop k
    else s.pwLimits k)

/-- PWM_ENABLE (R532). -/
def execPwmEnable (r : Requester) (k : Fin 4) (s : State) : R :=
  let v := s.rd (pPWM + PWM.PW_CTRL) ||| BitVec.ofNat 32 (2 ^ k.val)
  txn r (pPWM + PWM.PW_CTRL) v (effPwCtrl v) s

/-- PWM_DISABLE (R532). -/
def execPwmDisable (r : Requester) (k : Fin 4) (s : State) : R :=
  let v := s.rd (pPWM + PWM.PW_CTRL) &&& ~~~(BitVec.ofNat 32 (2 ^ k.val))
  txn r (pPWM + PWM.PW_CTRL) v (effPwCtrl v) s

/-- ENABLE of the PWM page is written 0 (R533): each output completes its period, or stops at once under CANCEL. -/
def State.pwDrain (s : State) : State :=
  s.each (List.range 4) fun s k =>
    if s.pwRuns k && !s.pwOdd k then (if s.bit pPWM HDR.DRAIN then s.pwStop k else s.modPw k fun x => { x with stop := true }) else s

/-- Some output runs. -/
def State.pwBusy (s : State) : Bool := s.fld pPWM PWM.PW_STAT.RUN != 0

/-- ENABLE returns to 1 (R533): the outputs whose EN is 1 restart. -/
def State.pwResume (s : State) : State :=
  s.each (List.range 4) fun s k => s.when (s.bit pPWM (bitAt PWM.PW_CTRL k) && !s.pwOdd k && !s.pwRuns k) fun s => s.pwStart k

end Sys2Proof.Machine
end

