-- ==== Sys2Proof/Machine/Digest.lean ====
section
/-! DEFINITION. The standards that R15 names for identity and signatures: SHA-256 (FIPS 180-4) and ECDSA on P-256 (FIPS 186, SEC 2). Their constants and steps are the
published ones (PRESUMED, log entry 102). The keys in the ROM stay open. -/

namespace Sys2Proof.Machine

/-! ## SHA-256 -/

/-- The primes below 312: the first 64. -/
def shaPrimes : List Nat := (List.range 312).filter fun p => decide (2 ≤ p) && (List.range 16).all fun d => decide (d + 2 = p) || decide (p % (d + 2) ≠ 0)

/-- The largest number below 2^36 whose `k`-th power is at most `n`. -/
def rootOf (k n : Nat) : Nat := (List.range 36).foldr (fun b r => if (r + 2 ^ b) ^ k ≤ n then r + 2 ^ b else r) 0

/-- The round constants: the first 32 bits of the fractions of the primes' cube roots. -/
def shaK : List Word := shaPrimes.map fun p => BitVec.ofNat 32 (rootOf 3 (p * 2 ^ 96))

/-- The initial hash value: the first 32 bits of the fractions of the square roots of the first eight primes. -/
def shaInit : List Word := (shaPrimes.take 8).map fun p => BitVec.ofNat 32 (rootOf 2 (p * 2 ^ 64))

/-- Bytes to words, the first byte most significant. -/
def beWords : List Byte → List Word
  | a :: b :: c :: d :: t => BitVec.ofNat 32 (beNat [a, b, c, d]) :: beWords t
  | _ => []

/-- The message, padded to whole blocks of 64 bytes. -/
def shaPad (l : List Byte) : List Byte := l ++ 0x80 :: List.replicate ((119 - l.length % 64) % 64) 0 ++ beBytes 8 (8 * l.length)

/-- The message schedule of a block: 64 words, the last first. -/
def shaSchedule (w : List Word) : List Word :=
  (List.range 48).foldl (fun l _ =>
    let x := l.getD 14 0
    let y := l.getD 1 0
    let s0 := x.rotateRight 7 ^^^ x.rotateRight 18 ^^^ x >>> 3
    let s1 := y.rotateRight 17 ^^^ y.rotateRight 19 ^^^ y >>> 10
    (l.getD 15 0 + s0 + l.getD 6 0 + s1) :: l) w.reverse

/-- One round on the working variables a to h. -/
def shaRound (v : List Word) (kw : Word) : List Word :=
  match v with
  | [a, b, c, d, e, f, g, h] =>
    let s1 := e.rotateRight 6 ^^^ e.rotateRight 11 ^^^ e.rotateRight 25
    let t1 := h + s1 + ((e &&& f) ^^^ (~~~e &&& g)) + kw
    let s0 := a.rotateRight 2 ^^^ a.rotateRight 13 ^^^ a.rotateRight 22
    let t2 := s0 + ((a &&& b) ^^^ (a &&& c) ^^^ (b &&& c))
    [t1 + t2, a, b, c, d + t1, e, f, g]
  | _ => v

/-- A block of 16 words joins the hash value. -/
def shaBlock (h w : List Word) : List Word :=
  List.zipWith (· + ·) h ((List.zipWith (· + ·) shaK (shaSchedule w).reverse).foldl shaRound h)

/-- The hash value after `n` blocks. -/
def shaBlocks : Nat → List Word → List Word → List Word
  | 0, _, h => h
  | n + 1, l, h => shaBlocks n (l.drop 16) (shaBlock h (l.take 16))

/-- SHA-256 of bytes. -/
def sha256 (l : List Byte) : List Byte :=
  let m := beWords (shaPad l)
  (shaBlocks (m.length / 16) m shaInit).flatMap fun w => beBytes 4 w.toNat

/-! ## P-256 -/

/-- The prime of the field. -/
def ecP : Nat := 2 ^ 256 - 2 ^ 224 + 2 ^ 192 + 2 ^ 96 - 1
/-- The order of the base point. -/
def ecN : Nat := 0xFFFFFFFF00000000FFFFFFFFFFFFFFFFBCE6FAADA7179E84F3B9CAC2FC632551
/-- The base point. -/
def ecG : Option (Nat × Nat) :=
  some (0x6B17D1F2E12C4247F8BCE6E563A440F277037D812DEB33A0F4A13945D898C296, 0x4FE342E2FE1A7F9B8EE7EB4A7C0F9E162BCE33576B315ECECBB6406837BF51F5)

/-- b^e modulo m, from the highest of `n` bits of e on. -/
def powMod (m b e : Nat) : Nat → Nat
  | 0 => 1 % m
  | n + 1 =>
    let r := powMod m b (e / 2) n
    if e % 2 = 1 then r * r % m * b % m else r * r % m

/-- The inverse modulo a prime. -/
def invMod (m a : Nat) : Nat := powMod m (a % m) (m - 2) 256

/-- The difference modulo m of numbers below it. -/
def subMod (m a b : Nat) : Nat := (a + m - b) % m

/-- The sum of two points of the curve y² = x³ − 3x + b; none is the point at infinity. -/
def ecAdd (u v : Option (Nat × Nat)) : Option (Nat × Nat) :=
  match u, v with
  | none, v => v
  | u, none => u
  | some (x1, y1), some (x2, y2) =>
    if x1 = x2 ∧ (y1 + y2) % ecP = 0 then none
    else
      let k := if x1 = x2 then subMod ecP (3 * x1 * x1 % ecP) 3 * invMod ecP (2 * y1) % ecP
        else subMod ecP y2 y1 * invMod ecP (subMod ecP x2 x1) % ecP
      let x := subMod ecP (subMod ecP (k * k % ecP) x1) x2
      some (x, subMod ecP (k * subMod ecP x1 x % ecP) y1)

/-- `e` times a point, from the highest of `n` bits of e on. -/
def ecMul (p : Option (Nat × Nat)) (e : Nat) : Nat → Option (Nat × Nat)
  | 0 => none
  | n + 1 =>
    let r := ecMul p (e / 2) n
    let d := ecAdd r r
    if e % 2 = 1 then ecAdd d p else d

/-- An ECDSA signature (r, s) of a hash is one of the key whose public point is `q`. -/
def ecVerify (q : Nat × Nat) (h r s : Nat) : Bool :=
  let w := invMod ecN s
  0 < r && decide (r < ecN) && decide (0 < s) && decide (s < ecN)
    && (match ecAdd (ecMul ecG (h * w % ecN) 256) (ecMul (some q) (r * w % ecN) 256) with
        | some (x, _) => x % ecN == r
        | none => false)

/-- The ECDSA signature of a hash by private key `d` with nonce `k`. -/
def ecSign (d k h : Nat) : Nat × Nat :=
  match ecMul ecG k 256 with
  | some (x, _) => (x % ecN, invMod ecN k * ((h + x % ecN * d) % ecN) % ecN)
  | none => (0, 0)

/-- A signature of bytes, r then s, 32 bytes each, by one of Aedfel's keys in the ROM is valid (R555, R559, R573). -/
def sigValid (key : Nat) (msg sig : List Byte) : Bool :=
  sig.length == 64 && ecVerify (Config.aedfelKey key) (beNat (sha256 msg)) (beNat (sig.take 32)) (beNat (sig.drop 32))

end Sys2Proof.Machine
end

