-- ==== Sys2Proof/Machine/BootBase.lean ====
section
/-! DEFINITION. Images (R555, R556, R559, R560): a container's fields, its acceptance, the application of a patch; the flash, the working
areas, and how firmware is started (R551, R552, R554). -/

namespace Sys2Proof.Machine

/-! ## Containers (R555, R556) -/

/-- The little-endian number in `n` bytes at an offset. -/
def leAt (l : List Byte) (o n : Nat) : Nat := ofBytes ((l.drop o).take n)

/-- A section-table entry (R556). -/
structure Section where
  type : Nat
  duty : Nat
  offset : Nat
  len : Nat
  load : Nat
deriving DecidableEq, Repr

/-- The sections that a container's table lists. -/
def sectionsOf (l : List Byte) : List Section :=
  (List.range (min 12 (leAt l 26 2))).map fun i =>
    let o := 64 + 16 * i
    ⟨leAt l o 1, leAt l (o + 2) 2, leAt l (o + 4) 4, leAt l (o + 8) 4, leAt l (o + 12) 4⟩

/-- The bytes of a section. -/
def Section.bytes (x : Section) (l : List Byte) : List Byte := (l.drop x.offset).take x.len

/-- LCS.STATE: 0 MANUFACTURE to 4 SCRAPPED. -/
def State.lcs (s : State) : Nat := s.fld pLCS LCS.LCS_STAT.STATE

/-- MANUFACTURE or RETURNED (R574). -/
def State.lcsOpen (s : State) : Bool := s.lcs == 0 || s.lcs == 3

/-- A key may sign images in the present life-cycle state (R574). -/
def State.keyOk (s : State) (key : Nat) : Bool := (key == 0 && decide (s.lcs < 4)) || (key == 1 && s.lcsOpen)

/-- IMAGE_LEN in range, the sections inside it, and the container whole (R555). -/
def lenOk (l : List Byte) : Bool :=
  let n := leAt l 8 4
  decide (n ≤ 0xF00000) && n % 32 == 0 && decide (n ≤ l.length) && (sectionsOf l).all (fun x => decide (x.offset + x.len ≤ n))

/-- The signature that closes a container or patch of `n` bytes is valid (R555, R559). -/
def signed (l : List Byte) (n key : Nat) : Bool := sigValid key (l.take (n - 64)) ((l.take n).drop (n - 64))

/-- The acceptance of R555: 0, or the ERR of the first check that fails, in the order of its table. -/
def State.accept (s : State) (l : List Byte) : Nat :=
  let entry := leAt l 28 4
  if l.take 4 ≠ [0x54, 0x50, 0x46, 0x57] ∨ leAt l 4 2 ≠ 1 ∨ leAt l 6 2 ≠ 256 then 1
  else if !lenOk l then 2
  else if leAt l 16 4 < s.fld pLCS LCS.SECVER_FUSE.V then 7
  else if !(leAt l 20 1).testBit s.variant then 4
  else if 1 < leAt l 21 1 then 5
  else if !(leAt l 22 1).testBit s.lcs ∨ !s.keyOk (leAt l 23 1) then 6
  else if leAt l 26 2 = 0 ∨ 12 < leAt l 26 2 then 2
  else if entry < 0x08020000 ∨ 0x08080000 ≤ entry then 2
  else if !signed l (leAt l 8 4) (leAt l 23 1) then 3
  else 0

/-! ## Patches (R559, R560) -/

/-- Apply the operations of a patch to the old image; none for an operation that R559 does not list, or one cut short. -/
def patchOps (old : List Byte) : Nat → List Byte → Option (List Byte)
  | 0, _ => none
  | n + 1, l =>
    if l.isEmpty then some []
    else
      let len := leAt l 4 4
      let arg := leAt l 8 4
      let lit := (l.drop 12).take len
      let op := leAt l 0 1
      let src := (old.drop arg).take len
      let out : Option (List Byte × Nat) :=
        if op = 1 then (if src.length = len then some (src, 12) else none)
        else if op = 2 then (if src.length = len ∧ lit.length = len then some (List.zipWith (· + ·) src lit, 12 + len) else none)
        else if op = 3 then (if lit.length = len then some (lit, 12 + len) else none)
        else none
      match out with
      | none => none
      | some (o, used) =>
        match patchOps old n (l.drop used) with
        | some rest => some (o ++ rest)
        | none => none

/-- What DL_DONE found (R560). -/
inductive Stored where
  | image (l : List Byte)
  | fail (err : Nat) (written : Bool)
deriving DecidableEq, Repr

/-- The work of R560 on what stands in DL, with the old image of the active bank. The patch is signed with the production key, or the
manufacturing key where that is permitted (DEDUCED, log entry 37). -/
def State.storeWork (s : State) (dl old : List Byte) : Stored :=
  if dl.take 4 = [0x54, 0x50, 0x44, 0x50] then
    let n := leAt dl 8 4
    if dl.length < n ∨ !(signed dl n 0 || (s.lcsOpen && signed dl n 1)) then .fail 3 false
    else if (dl.drop 16).take 32 ≠ sha256 (old.take (max 256 (leAt old 8 4))) then .fail 9 false
    else match patchOps old dl.length ((dl.take (n - 64)).drop 128) with
      | none => .fail 9 true
      | some out =>
        if (dl.drop 56).take 32 ≠ sha256 out then .fail 9 true
        else if s.accept out ≠ 0 then .fail (s.accept out) true
        else .image out
  else if s.accept dl ≠ 0 then .fail (s.accept dl) true
  else .image (dl.take (leAt dl 8 4))

/-! ## Memory and flash -/

/-- The bytes from a device address, up to the first that was never written. -/
def State.bytesAt (s : State) (a : Nat) : Nat → List Byte
  | 0 => []
  | n + 1 =>
    match s.byte a with
    | some b => b :: s.bytesAt (a + 1) n
    | none => []

/-- The container at a device address. -/
def State.containerAt (s : State) (a : Nat) : List Byte :=
  s.bytesAt a (max 256 (min 0xF00000 (leAt (s.bytesAt a 12) 8 4)))

/-- Write a container into DRAM, in whole code words (R359). -/
def State.putDram (s : State) (a : Nat) (l : List Byte) : State := s.writeWords 0 ((a - 0x40000000) / 32) l

/-- Copy code into supervisor SRAM banks 1 to 3, completing its last word from what stands there (R551, R360). -/
def State.putSram (s : State) (a : Nat) (l : List Byte) : State :=
  if 0x08020000 ≤ a ∧ a + l.length ≤ 0x08080000 ∧ a % 8 = 0 then
    let pad := (8 - l.length % 8) % 8
    let l := l ++ (List.range pad).map (fun i => (s.byte (a + l.length + i)).getD 0)
    s.writeWords (1 + (a - 0x08000000) / 0x20000) (a % 0x20000 / 8) l
  else s

/-- The container in a bank: 0 A, 1 B. -/
def FlashSt.bank (f : FlashSt) (b : Nat) : List Byte := if b = 0 then f.bankA else f.bankB

/-- A bank with a container. -/
def FlashSt.setBank (f : FlashSt) (b : Nat) (l : List Byte) : FlashSt := if b = 0 then { f with bankA := l } else { f with bankB := l }

/-- A new boot record, written over the other copy with SEQ + 1 (R554). -/
def State.bootRecord (s : State) (active prev : Nat) (trial : Bool) : State :=
  let f := s.boot.flash
  ({ s with boot := { s.boot with flash := { f with active := active, prev := prev, trial := trial, seq := (f.seq + 1) % 2 ^ 32 } } }).setFld
    pSUP SUP.SUP_STAT.TRIAL (if trial then 1 else 0)

/-- A container fails R555: ERR and IMG_REJECT. -/
def State.rejectImg (s : State) (err : Nat) : State := (s.setFld pSUP SUP.SUP_STAT.ERR err).raise SUP.evIMG_REJECT 0

/-- SUP_STAT.STAGE and ACT_STATE. -/
def State.stage (s : State) : Nat := s.fld pSUP SUP.SUP_STAT.STAGE
def State.setStage (s : State) (n : Nat) : State := s.setFld pSUP SUP.SUP_STAT.STAGE n
def State.act (s : State) : Nat := s.fld pSUP SUP.SUP_STAT.ACT_STATE
def State.setAct (s : State) (n : Nat) : State := s.setFld pSUP SUP.SUP_STAT.ACT_STATE n

/-- The working areas: WORK0 and WORK1 (R553), and the one not in use. -/
def work0 : Nat := 0x40000000
def State.spareWork (s : State) : Nat := if s.boot.work = some work0 then 0x41000000 else work0

/-! ## The cascade slave's load (R564, R569) -/

/-- Split bytes into LOAD payloads of at most 256 bytes with their offsets. -/
def loadChunks : Nat → Nat → List Byte → List (Nat × List Byte)
  | 0, _, _ => []
  | n + 1, o, l => if l.isEmpty then [] else (o, l.take 256) :: loadChunks n (o + 256) (l.drop 256)

/-- The TYPE 5 section of the working image. -/
def State.slaveImage (s : State) : Option (List Byte) :=
  match s.boot.work with
  | none => none
  | some b =>
    let l := s.containerAt b
    ((sectionsOf l).find? (fun x => x.type == 5)).map (fun x => x.bytes l)

/-- The master sends the slave its container (R564): a warm reset requested first where `warm`, LOAD frames of whole code words, then GO. -/
def State.cascLoad (s : State) (warm : Bool) : State :=
  match s.slaveImage with
  | some l =>
    if s.slave || !s.linkUp || !s.bit pCASC CASC.CC_CTRL.AUTO_LOAD then s
    else
      let s := s.when warm fun s => s.cascSend 9 0 0 0 0 []
      let s := (loadChunks (l.length / 256 + 1) 0 l).foldl (fun s c => s.cascSend 4 (BitVec.ofNat 32 (0x42000000 + c.1)) 0 0 0 c.2) s
      let (t, s) := s.cascTag
      let s := { s with casc := { s.casc with loading := some t, lastLoad := s.casc.peerBoots } }
      (s.setFld pCASC CASC.CC_STAT.PEER_LOADED 0).cascSend 5 0 t 0 0 []
  | none => s

/-! ## Starting firmware -/

/-- An accepted container, standing in a working area, is started (R551 stage 1, R552): the supervisor section into SRAM, the hand-off block, and
the core at ENTRY, its watchdog counting from here. Every island the variant has is then out of reset (R551; DEDUCED, log entry 9). -/
def State.startFw (s : State) (base : Nat) (l : List Byte) (warm : Bool) : State :=
  let s := ((sectionsOf l).filter (fun x => x.type == 1)).foldl (fun s x => s.putSram x.load (x.bytes l)) s
  let s := s.wr (pSUP + SUP.FW_VERSION) (BitVec.ofNat 32 (leAt l 12 4))
  let s := (s.setFld pSUP SUP.SUP_STAT.ERR 0).setFld pSUP SUP.SUP_STAT.HOST_LOAD 0
  let s := s.setStage (if warm then 3 else 2)
  let s := s.when (warm && s.act == 3) fun s => s.setAct 4
  let s := { s with upStage := max s.upStage 4, supState := 1,
                    boot := { s.boot with work := some base, settings := if warm then s.boot.settings else some (leAt l 24 2) } }
  let s := (s.setCore supId { coreReset supId with pc := BitVec.ofNat 32 (leAt l 28 4) }).startClock clkWdog
  ((List.range s.lines).foldl State.dawnRxSettle s).cascLoad warm

/-- No acceptable image (R551): HALTED, waiting for a host download (R558). -/
def State.halt (s : State) : State := (s.setStage 6).setFld pSUP SUP.SUP_STAT.HOST_LOAD 1

/-- Copy a bank into a working area and start it. -/
def State.startBank (s : State) (b base : Nat) (warm : Bool) : State :=
  let l := (s.boot.flash.bank b).take (leAt (s.boot.flash.bank b) 8 4)
  ((s.putDram base l).setFld pSUP SUP.SUP_STAT.BANK b).startFw base l warm

/-- The flash path (R554): the active bank, else the other with BANK_FALLBACK, else HALTED. -/
def State.flashBoot (s : State) : State :=
  let b := s.boot.flash.active
  let v := s.accept (s.boot.flash.bank b)
  if v = 0 then s.startBank b work0 false
  else
    let s := (s.rejectImg v).raise SUP.evBANK_FALLBACK 0
    let w := s.accept (s.boot.flash.bank (1 - b))
    if w = 0 then s.startBank (1 - b) work0 false else (s.rejectImg w).halt

/-- The path that the straps choose (R550). -/
def State.romPath (s : State) : State :=
  let s := s.setStage 1
  if s.slave then s
  else if s.boot.bootSel then s.setFld pSUP SUP.SUP_STAT.HOST_LOAD 1
  else s.flashBoot

/-- An activation or reversion ends other than as R561 or R566 state (R588). -/
def State.actFail (s : State) (st : Nat) : State := (s.setAct st).raise SUP.evACT_FAIL 0

/-- The warm path (R552): the working image that the hand-off block names, accepted again, else the path of R550. -/
def State.warmBoot (s : State) : State :=
  let fall (s : State) : State := (s.when (s.act == 3 || s.act == 4 || s.act == 6) fun s => s.actFail 0).romPath
  match s.boot.work with
  | some base =>
    let l := s.containerAt base
    let v := s.accept l
    if v = 0 then s.startFw base l true else fall (s.rejectImg v)
  | none => fall s

/-- Steps 2 and 3 of R561: bank `b`, accepted, is copied into the working area not in use, the boot record names it, the hand-off block
points at the copy, and the group SUPERVISOR is reset (its effects begin; GROUP_RESET_DONE ends it). -/
def State.stageBank (s : State) (b : Nat) (trial : Bool) : State :=
  let base := s.spareWork
  let l := (s.boot.flash.bank b).take (leAt (s.boot.flash.bank b) 8 4)
  let s := (s.putDram base l).bootRecord b s.boot.flash.active trial
  let s := { s with boot := { s.boot with work := some base } }
  let s := s.setFld pSUP SUP.SUP_STAT.BANK b
  ({ s with pwr := { s.pwr with groups := s.pwr.groups ++ [40] } }.setFld pRST RST.GRP_STAT.BUSY 1).resetGroup 40

/-- A reversion to a bank (R566). -/
def State.revertTo (s : State) (b : Nat) : State :=
  let s := (s.setAct 6).raise SUP.evBANK_FALLBACK 0
  let v := s.accept (s.boot.flash.bank b)
  if v = 0 then s.stageBank b false else (s.rejectImg v).actFail 0

end Sys2Proof.Machine
end

