-- ==== Sys2Proof/Machine/MemRows.lean ====
section
/-! DEFINITION. The memory commands (R356 to R389): accesses, buckets, scrubbing, revisits, row repair, the bulk fill, INIT_CMD,
RPR_CMD, ECC test mode and the bandwidth window. -/

namespace Sys2Proof.Machine

/-! ## Accesses -/

/-- The 32-bit word at an address of a code word's data. -/
def wordIn (d inst a : Nat) : Nat := d / 2 ^ (8 * (a % wordLen inst)) % 2 ^ 32

/-- A demand read of a 32-bit word by device address (R366, R413, R629): the state and what the requester gets. -/
def State.memRead (s : State) (r : Requester) (a : Nat) (bits : List Nat) : State × RdOut :=
  if a % 4 ≠ 0 then (s, .err 10)
  else match s.region r a with
    | .mem inst idx =>
      let ce := s.ceHere inst idx bits
      match s.readWord (s.master r) inst idx bits with
      | (s, .data d) => (s.sramPerf r inst idx 1 false ce, .data (wordIn d inst a))
      | (s, .err c) => (s, .err c)
    | .rom => (s, .data (Config.romWord (a / 4)).toNat)
    | _ => (s, .err 5)

/-- How a failed read reaches its requester: an engine's fetch from its own IRAM that returns uncorrectable data is the fault
IRAM_ECC (R245). -/
def State.readFail (s : State) (r : Requester) (cause a : Nat) : State :=
  match r with
  | .engine c e => if cause = 1 ∨ cause = 2 then s.engFault (16 * c + e) 3 else s.reportErr r cause a
  | r => s.reportErr r cause a

/-- MEMORY_READ (R365, R366): a 32-bit read by a requester; `bits` are the cells of the code word found flipped. An engine's
is an instruction fetch, whose correction is counted (R270). -/
def execMemoryRead (r : Requester) (a : Nat) (bits : List Nat) (s : State) : R :=
  let (s, trapped) := s.issueNarrow r
  if trapped then .next s else
    match s.memRead r a bits with
    | (s', .data v) =>
      let s' := match r, s.region r a with
        | .engine c e, .mem inst idx => s'.when (s.ceHere inst idx bits) (fun s => s.perfInstr (16 * c + e) 0x24 none 1)
        | _, _ => s'
      .next ((s'.deliver (s'.respKey r) v).reportOk r)
    | (s, .err c) => .next ((s.deliver (s.respKey r) 0).readFail r c a)

/-- MEMORY_WRITE (R359, R360): bytes that reach a memory controller in one write. -/
def execMemoryWrite (r : Requester) (a : Nat) (l : List Byte) (s : State) : R :=
  let (s, trapped) := s.issueNarrow r
  if trapped then .next s else finish r a (s.memWrite r a l)

/-- GATHER_TIMEOUT (R420, R628): time runs to 10 ms after the last gathered write, and the incomplete code word issues narrow. The supervisor's
trap is held to its next system-bus access. -/
def execGatherTimeout (r : Requester) (s : State) : R :=
  let s := s.when (Tbl.find s.gathers (s.master r)).isSome fun s => s.elapse (clkGather (s.master r)) 6250000
  match r, Tbl.find s.gathers (s.master r) with
  | .sup, some g =>
    let s := s.dropGather 0x02
    let s := match s.region .sup g.base with
      | .mem inst idx => s.narrow 0x02 inst idx
      | _ => s
    .next { s with supHeld := some g.base }
  | r, _ => .next (s.issueNarrow r).1

/-- LEAK of an instance in ticks (R367): seconds, where 0 acts as 1. -/
def State.leakTicks (s : State) (inst : Nat) : Nat := 625000000 * max 1 (s.fld pMEM ⟨if inst = 0 then MEM.BKT_CFG_D else MEM.BKT_CFG_S, 16, 16⟩)

/-- BUCKET_LEAK (R367): time runs to the end of an instance's interval of LEAK seconds. -/
def execBucketLeak (inst : Fin 64) (s : State) : R :=
  let lvl : Fld := ⟨MEM.BKT + 4 * inst.val, 0, 16⟩
  if s.hasInst inst.val then
    let s := s.period (clkLeak inst.val) (s.leakTicks inst.val)
    .next (s.setFld pMEM lvl (s.fld pMEM lvl - 1))
  else .next s

/-! ## Scrubbing (R368 to R372) -/

/-- A scrubber visit's finding goes to the suspect table (R372): a correction enters the word or counts as a revisit of it,
and a suspect word found correct leaves. -/
def State.judge (s : State) (inst idx : Nat) : Found → State
  | .corrected p =>
    match s.suspSlot (wordKey inst idx) with
    | some k => s.revisitHit k p
    | none => s.suspect (wordKey inst idx) p
  | .clean => s.unsuspect (· == wordKey inst idx)
  | .uncorr => s

/-- The scrubbers may make visits: the page enabled, no brown-out warning, and NOON (R371, R380, R441, R473). -/
def State.scrubbing (s : State) : Bool := s.enabled pSCRB && !s.brownOut && s.noon

/-- The length of a pass in ticks (R368, R369): D_PASS minutes or S_PASS seconds, where 0 acts as 1. -/
def State.passTicks (s : State) (inst : Nat) : Nat :=
  if inst = 0 then 37500000000 * max 1 (s.fld pSCRB SCRB.D_PASS.MIN) else 625000000 * max 1 (s.fld pSCRB SCRB.S_PASS.S)

/-- The instant of an instance's next visit, in ticks divided by its words; now, where the scrubber has not visited since it was started (DESIGN
CHOICE, log entry 105). -/
def State.visitDue (s : State) (inst : Nat) : Nat :=
  if s.clockOf (clkVisit inst) = 0 then s.tick * s.instWords inst else s.clockOf (clkVisit inst)

/-- Time runs to an instance's next visit (R368, R369): the visits of a pass are spaced evenly, and one that is late does not delay the schedule. -/
def State.toVisit (s : State) (inst idx : Nat) : State :=
  let d := s.visitDue inst
  let n := s.instWords inst
  let s := (s.runOn ((d + n - 1) / n - s.tick)).setClock (clkVisit inst) (d + s.passTicks inst)
  s.when (idx == 0) fun s => s.startClock (clkPass inst)

/-- How many words the scrubber of an instance is behind its schedule at a visit that was due at `d` (R356). -/
def State.lag (s : State) (inst d : Nat) : Nat := (s.tick * s.instWords inst - d) / s.passTicks inst

/-- The pass that ends has taken longer than 110 % of its length (R368). -/
def State.passLate (s : State) (inst : Nat) : Bool := decide (11 * s.passTicks inst < 10 * (s.tick - s.clockOf (clkPass inst)))

/-- BEHIND (R356): over 1,024 words behind, until the delay is made up. -/
def State.showLag (s : State) (l : Nat) : State :=
  if 1024 < l then s.setFld pSCRB SCRB.SC_STAT.BEHIND 1 else if l = 0 then s.setFld pSCRB SCRB.SC_STAT.BEHIND 0 else s

/-- DRAM_SCRUB_VISIT (R356, R368, R370): at its instant, the next code word is visited, or passed over if uninitialised or poisoned. -/
def execDramScrubVisit (bits : List Nat) (s : State) : R :=
  if s.scrubbing && s.bit pSCRB SCRB.SC_CTRL.D_EN then
    let idx := s.fld pSCRB SCRB.D_POS.POS
    let d := s.visitDue 0
    let s := s.toVisit 0 idx
    let s := s.showLag (s.lag 0 d)
    let s := if s.uninit 0 idx || s.poisoned 0 idx then s
      else let (s, f) := s.visit 0 idx bits; s.judge 0 idx f
    if idx + 1 < s.instWords 0 then .next (s.setFld pSCRB SCRB.D_POS.POS (idx + 1))
    else
      let s := (s.setFld pSCRB SCRB.D_POS.POS 0).addWrap pSCRB (whole SCRB.D_PASSES) 1
      let s := s.raise SCRB.evD_DONE 0
      .next (s.when (s.passLate 0) (fun s => s.raise SCRB.evPASS_LATE 0))
  else .next s

/-- SRAM_SCRUB_VISIT (R369, R370): at its instant, the next 64-bit word of an SRAM instance. -/
def execSramScrubVisit (inst : Fin 64) (bits : List Nat) (s : State) : R :=
  let i := inst.val
  if s.scrubbing && s.bit pSCRB SCRB.SC_CTRL.S_EN && s.hasInst i && i != 0 then
    let pos := fldAt SCRB.S_POS.POS (4 * i)
    let idx := s.fld pSCRB pos
    let s := s.toVisit i idx
    let s := if s.poisoned i idx then s else let (s, f) := s.visit i idx bits; s.judge i idx f
    if idx + 1 < s.instWords i then .next (s.setFld pSCRB pos (idx + 1))
    else
      let s := (s.setFld pSCRB pos 0).addWrap pSCRB (fldAt SCRB.S_POS.PASSES (4 * i)) 1
      let s := s.raise SCRB.evS_DONE 0
      .next (s.when (s.passLate i) (fun s => s.raise SCRB.evPASS_LATE 0))
  else .next s

/-- A write of SC_CTRL (R388): a scrubber that is stopped has no schedule; its position holds. -/
def effScCtrl (v : Word) (s : State) : Out :=
  let s := s.wr (pSCRB + SCRB.SC_CTRL) v
  let s := s.when (!s.bit pSCRB SCRB.SC_CTRL.D_EN) fun s => s.setClock (clkVisit 0) 0
  .ok (s.when (!s.bit pSCRB SCRB.SC_CTRL.S_EN) fun s => s.each (List.range 63) fun s i => s.setClock (clkVisit (i + 1)) 0)

/-- SUSPECT_REVISIT (R372): time runs to the end of an entry's interval of SUSP_INT ms (0 acts as 1). A poisoned word is passed over (R376). -/
def execSuspectRevisit (slot : Fin 64) (bits : List Nat) (s : State) : R :=
  match Tbl.find s.ms.suspects slot.val with
  | some e =>
    let i := e.word / 2 ^ 26
    let idx := e.word % 2 ^ 26
    let en := if i = 0 then s.bit pSCRB SCRB.SC_CTRL.D_EN else s.bit pSCRB SCRB.SC_CTRL.S_EN
    if s.scrubbing && en then
      let s := s.period (clkSuspect slot.val) (625000 * max 1 (s.fld pSCRB SCRB.SUSP_INT.MS))
      if s.poisoned i idx then .next s
      else
        let (s, f) := s.visit i idx bits
        .next (s.judge i idx f)
    else .next s
  | none => .next s

/-! ## Row repair (R373 to R375) -/

/-- The words of the row that holds word `idx` (R352, R355). -/
def rowWords (inst idx : Nat) : List Nat :=
  if inst = 0 then (List.range 64).map (fun k => idx / 512 * 512 + 8 * k + idx % 8) else (List.range 8).map (idx / 8 * 8 + ·)

/-- Install a spare for the row of a word. -/
def State.setSpare (s : State) (inst idx spare : Nat) : State :=
  let s := { s with ms := { s.ms with spares := Tbl.insert s.ms.spares spare (rowOf inst idx) } }
  s.when (inst == 0) (fun s => s.setFld pDRAM DRAM.RPR_STAT.FREE (s.fld pDRAM DRAM.RPR_STAT.FREE - 1))

/-- The supervisor records a repair in the health record of its settings store (R375, R557). -/
def State.healthNote (s : State) (inst idx : Nat) : State :=
  { s with boot := { s.boot with flash := { s.boot.flash with repairs := s.boot.flash.repairs ++ [(inst, idx)] } } }

/-- Reinstall a repair: nothing for a row that has a spare; REPAIR_EXHAUSTED where no spare is free (R375, R386). -/
def State.reinstall (s : State) (inst idx : Nat) : State :=
  if s.rowSpared inst idx then s
  else match s.freeSpare inst idx with
    | some sp => s.setSpare inst idx sp
    | none => s.raise MEM.evREPAIR_EXHAUSTED 0

/-- ROW_REPAIR_COMPLETE (R373): the oldest copy ends. `ups` gives, for words of the row, the cells that the copy finds flipped.
Each word is copied corrected, an uncorrectable one unchanged and poisoned; accesses are redirected. -/
def execRowRepairComplete (ups : List (Nat × List Nat)) (s : State) : R :=
  match s.ms.repairs with
  | [] => .next s
  | r :: t =>
    let s := { s with ms := { s.ms with repairs := t } }
    let s := (rowWords r.inst r.word).foldl (fun s w =>
      if s.uninit r.inst w || s.poisoned r.inst w then s
      else (s.visit r.inst w ((Tbl.find ups w).getD [])).1) s
    let s := (s.setSpare r.inst r.word r.spare).healthNote r.inst r.word |>.unsuspect (· == wordKey r.inst r.word)
    let s := s.addSat pMEM ⟨MEM.UE_CNT + 4 * r.inst, 16, 16⟩ 1
    let s := s.raise MEM.evROW_REPAIRED 0
    let (ch, bank, row) := dramRow r.word
    let place := if r.inst = 0 then ch * 2 ^ 28 + bank * 2 ^ 24 + row else r.row
    .next (s.record 1 (evNum MEM.evROW_REPAIRED 0) 0
      [BitVec.ofNat 32 (wordKey r.inst r.word), BitVec.ofNat 32 place, BitVec.ofNat 32 r.spare, BitVec.ofNat 32 r.pos])

/-- RPR_CMD (R375, R386): reinstall a repair. Bits outside its form are reserved (R13). -/
def effRprCmd (v : Word) (s : State) : Out :=
  let sram := v.getLsbD 30
  let bad := if sram then v &&& 0x3FC0F000 else v &&& 0x203FE000
  if bad ≠ 0 then hostError [pDRAM] s
  else if !v.getLsbD 31 then .ok s
  else if sram then
    let inst := getBits v 16 6
    let row := getBits v 0 12
    .ok (s.when (s.hasInst inst && inst != 0 && decide (8 * row < s.instWords inst)) fun s => s.reinstall inst (8 * row))
  else .ok (s.reinstall 0 (8192 * getBits v 0 13 + 512 * getBits v 22 4 + getBits v 26 3))

/-- RPR_INSTALL (R375): a write of RPR_CMD with GO. -/
def execRprInstall (r : Requester) (v : Word) (s : State) : R :=
  txn r (pDRAM + DRAM.RPR_CMD) (v ||| 0x80000000) (effRprCmd (v ||| 0x80000000)) s

/-! ## The bulk fill (R364) -/

/-- FILL_CMD.GO (R364): ignored while a fill runs or the page is not enabled; ALIGN, an empty fill, or a fill begun. -/
def State.fillGo (s : State) : State :=
  if s.filling || !s.enabled pDRAM then s
  else
    let base := (s.rd (pDRAM + DRAM.FILL_BASE)).toNat
    let len := (s.rd (pDRAM + DRAM.FILL_LEN)).toNat
    let s := s.clr (pDRAM + DRAM.FILL_DONE_BYTES)
    if base % 32 ≠ 0 ∨ len % 32 ≠ 0 ∨ base < 0x40000000 ∨ 0x40000000 + s.dramSize < base + len then s.fillEndWith 1
    else if len = 0 then s.fillEndWith 0
    else
      let s := { s with ms := { s.ms with
        fillBase := base, fillNext := base, fillEnd := base + len,
        fillPat := s.rd (pDRAM + DRAM.FILL_PAT_HI) ++ s.rd (pDRAM + DRAM.FILL_PAT_LO) } }
      (s.wr (pDRAM + DRAM.FILL_STAT) 0x40000000).setFld pDRAM DRAM.DR_STAT.FILL_BUSY 1

/-- FILL_CMD (R386). A fill into the regions of a recording is a host error confined to it and its replays (R393, R447). How far a fill had come when CANCEL reaches it is not stated: `n` code words. -/
def effFillCmd (n : Nat) (v : Word) (s : State) : Out :=
  if v = 0x3 then .err 8 s
  else if v = 0x1 then
    if !s.filling && s.enabled pDRAM
        && s.capOwns (s.rd (pDRAM + DRAM.FILL_BASE)).toNat (s.rd (pDRAM + DRAM.FILL_LEN)).toNat then hostError [pCAP, pRPL] s.fillGo
    else .ok s.fillGo
  else if v = 0x2 then .ok (s.fillCancel n)
  else .ok s

/-- FILL_GO (R364): a write of FILL_CMD.GO. -/
def execFillGo (r : Requester) (s : State) : R := txn r (pDRAM + DRAM.FILL_CMD) 0x1 (effFillCmd 0 0x1) s

/-- FILL_CANCEL (R364): a write of FILL_CMD.CANCEL, `n` code words after the last granule known complete. -/
def execFillCancel (r : Requester) (n : Nat) (s : State) : R := txn r (pDRAM + DRAM.FILL_CMD) 0x2 (effFillCmd n 0x2) s

/-- FILL_GRANULE_COMPLETE (R362, R364): the fill reaches the end of a granule before its own end. -/
def execFillGranuleComplete (s : State) : R :=
  let x := (s.ms.fillNext / 0x100000 + 1) * 0x100000
  if s.filling && decide (x < s.ms.fillEnd) then .next (s.fillTo x) else .next s

/-- FILL_DONE (R364): the fill writes its last code word and ends OK. -/
def execFillDone (s : State) : R :=
  if s.filling then
    let s := s.fillTo s.ms.fillEnd
    let s := s.wr (pDRAM + DRAM.FILL_DONE_BYTES) (BitVec.ofNat 32 (s.ms.fillEnd - s.ms.fillBase))
    .next (s.fillEndWith 0)
  else .next s

/-! ## INIT_CMD (R362, R386) -/

/-- INIT_CMD: both bits set are ignored; a granule beyond the populated DRAM is refused; CLR removes the granule's poison and
suspect entries (R372, R377). -/
def effInitCmd (v : Word) (s : State) : Out :=
  let g := getBits v 0 11
  if s.granules ≤ g then .err 8 s
  else match v.getLsbD 16, v.getLsbD 17 with
    | true, false => .ok (s.setInit g 1)
    | false, true =>
      let here := fun k => decide (k < 2 ^ 26) && k / 32768 == g
      .ok (((s.setInit g 0).unpoison here).unsuspect here)
    | _, _ => .ok s

/-- INIT_SET (R362): a write of INIT_CMD with SET for a granule. -/
def execInitSet (r : Requester) (g : Fin 2048) (s : State) : R :=
  let v : Word := BitVec.ofNat 32 (0x10000 + g.val)
  txn r (pDRAM + DRAM.INIT_CMD) v (effInitCmd v) s

/-- INIT_CLR (R362): a write of INIT_CMD with CLR for a granule. -/
def execInitClr (r : Requester) (g : Fin 2048) (s : State) : R :=
  let v : Word := BitVec.ofNat 32 (0x20000 + g.val)
  txn r (pDRAM + DRAM.INIT_CMD) v (effInitCmd v) s

/-! ## ECC test mode (R379, R383) -/

/-- TEST_STAT with DONE and a result. -/
def State.testEnd (s : State) (res : Nat) : State :=
  s.wr (pMEM + MEM.TEST_STAT) (BitVec.ofNat 32 (2 ^ 31 + res * 2 ^ 28))

/-- The word that TEST_CTRL and TEST_ADDR name; none for an absent instance, an address outside it, or EN 0 (R383). -/
def State.testWord (s : State) : Option (Nat × Nat) :=
  let inst := s.fld pMEM MEM.TEST_CTRL.INSTANCE
  let a := (s.rd (pMEM + MEM.TEST_ADDR)).toNat
  let idx := if inst = 0 then (a - 0x40000000) / 32 else a
  if s.bit pMEM MEM.TEST_CTRL.EN && s.hasInst inst && decide (idx < s.instWords inst) && (inst != 0 || decide (0x40000000 ≤ a))
  then some (inst, idx) else none

/-- TEST_DATA as one number. -/
def State.testData (s : State) (inst : Nat) : Nat :=
  ((List.range (wordLen inst / 4)).map (fun w => (s.rd (pMEM + MEM.TEST_DATA + 4 * w)).toNat * 2 ^ (32 * w))).sum

/-- TEST_CMD.WRITE_RAW (R379): TEST_DATA and TEST_CHECK exactly as given; poison and INIT unchanged. Cells that are a code word are that
word written; others are held as what they differ from the code word last written. -/
def State.writeRaw (s : State) (inst idx : Nat) : State :=
  let n := 8 * wordLen inst
  let chk := (s.rd (pMEM + MEM.TEST_CHECK)).toNat % (if inst = 0 then 2 ^ 32 else 2 ^ 8)
  let d := s.testData inst
  let fresh := s.putBytes (devAddr inst idx) (toBytes (wordLen inst) d)
  let (s, f) := match s.number (devAddr inst idx) (wordLen inst) with
    | some good =>
      if chk = Config.checkBits inst idx d then (fresh, 0)
      else (s, (d ^^^ good) + (chk ^^^ Config.checkBits inst idx good) * 2 ^ n)
    | none => (fresh, (chk ^^^ Config.checkBits inst idx d) * 2 ^ n)
  { s with ms := { s.ms with flips := Tbl.put (some 0) s.ms.flips (wordKey inst idx) f } }

/-- TEST_CMD.READ_RAW (R379): the cells as they stand, the syndrome and the verdict; no counter changes. -/
def State.readRaw (s : State) (inst idx : Nat) : State :=
  let n := 8 * wordLen inst
  let (cells, s) := match s.number (devAddr inst idx) (wordLen inst) with
    | some good => (Tbl.get 0 s.ms.flips (wordKey inst idx) ^^^ (good + Config.checkBits inst idx good * 2 ^ n), s)
    | none => s.fresh
  let (v, s) := s.verdict inst idx
  let s := (List.range (wordLen inst / 4)).foldl (fun s w =>
    s.wr (pMEM + MEM.TEST_DATA + 4 * w) (BitVec.ofNat 32 (cells / 2 ^ (32 * w)))) s
  let chk := cells / 2 ^ n % (if inst = 0 then 2 ^ 32 else 2 ^ 8)
  let s := s.wr (pMEM + MEM.TEST_CHECK) (BitVec.ofNat 32 chk)
  let s := s.wr (pMEM + MEM.TEST_SYN) (Config.syndrome inst idx (cells % 2 ^ n) chk)
  s.testEnd (match v with | .clean _ => 0 | .corr _ _ => 1 | .uncorr _ => 2)

/-- TEST_CMD (R379, R383): WRITE_RAW, then READ_RAW, where both bits are set. -/
def effTestCmd (v : Word) (s : State) : Out :=
  if v = 0 then .ok s
  else match s.testWord with
    | none => .ok (s.testEnd 3)
    | some (inst, idx) =>
      let s := s.when (v.getLsbD 0) (fun s => (s.writeRaw inst idx).testEnd 0)
      .ok (s.when (v.getLsbD 1) (fun s => s.readRaw inst idx))

/-- TEST_WRITE_RAW (R379): a write of TEST_CMD.WRITE_RAW. -/
def execTestWriteRaw (r : Requester) (s : State) : R := txn r (pMEM + MEM.TEST_CMD) 0x1 (effTestCmd 0x1) s

/-- TEST_READ_RAW (R379): a write of TEST_CMD.READ_RAW; `bits` are the cells found flipped. -/
def execTestReadRaw (r : Requester) (bits : List Nat) (s : State) : R :=
  txn r (pMEM + MEM.TEST_CMD) 0x2 (fun s => match s.testWord with
    | some (inst, idx) => effTestCmd 0x2 (s.upset inst idx bits)
    | none => effTestCmd 0x2 s) s

/-- DRAM_BW_WINDOW (R386): time runs to the end of the bandwidth window of 2^(10 + WIN) cycles of the 800 MHz memory clock (R457). -/
def execDramBwWindow (s : State) : R :=
  let s := s.period clkDramBw (800 * 2 ^ s.fld pDRAM DRAM.BW_CTRL.WIN)
  let s := s.wr (pDRAM + DRAM.BW_RD) (BitVec.ofNat 32 s.ms.bwRd)
  let s := s.wr (pDRAM + DRAM.BW_WR) (BitVec.ofNat 32 s.ms.bwWr)
  .next { s with ms := { s.ms with bwRd := 0, bwWr := 0 } }

end Sys2Proof.Machine
end

