-- ==== Sys2Proof/Machine/Boot.lean ====
section
/-! DEFINITION. Start-up and firmware (R468, R470, R500, R549 to R552, R558 to R566): the release of cold reset, the ends of group and warm
resets, downloads, storing, activation, trial, reversion and the supervisor watchdog. -/

namespace Sys2Proof.Machine

/-! ## The release of cold reset -/

/-- Fresh words in `n` registers from an address. -/
def State.freshWords (s : State) (a n : Nat) : State :=
  (List.range n).foldl (fun s i => let (v, s) := s.fresh; s.wr (a + 4 * i) (BitVec.ofNat 32 v)) s

/-- The fused row repairs occupy their spares (R576). -/
def State.fusedRepairs (s : State) : State :=
  let dram := (s.boot.fused.filter (fun e => decide (e.1 < 2 ^ 20))).length
  ({ s with ms := { s.ms with spares := s.boot.fused } }).setFld pDRAM DRAM.RPR_STAT.FREE (s.fld pDRAM DRAM.RPR_STAT.FREE - dram)

/-- The row repairs of the health record are reinstalled (R375, R551 stage 0). -/
def State.softRepairs (s : State) : State := s.boot.flash.repairs.foldl (fun s e => s.reinstall e.1 e.2) s

/-- The boot ROM fills 0x4000_0000 to 0x42FF_FFFF (R551); no rule states the pattern. -/
def State.romFill (s : State) : State :=
  let (p, s) := s.fresh
  let s := s.fillRange 0x40000000 0x40000000 0x43000000 (BitVec.ofNat 64 p)
  (List.range 48).foldl (fun s g => s.setInit g 1) s

/-- On a cascade slave bit 11 is 1 in every entry of the protection map (R443). -/
def State.slaveMap (s : State) : State :=
  (List.range 35).foldl (fun s f => s.wr (pPROT + PROT.MAP + 4 * f) (s.rd (pPROT + PROT.MAP + 4 * f) ||| 0x800)) s

/-- A cold start that finds TRIAL at 1 boots PREV (R554). -/
def State.coldTrial (s : State) : State :=
  let f := s.boot.flash
  if f.trial then (s.bootRecord f.prev f.prev false).raise SUP.evBANK_FALLBACK 0 else s

/-- COLD_RESET_RELEASE (R361, R443, R468, R550, R551, R554, R573, R576): the straps are read, stage 0 runs, and the boot path begins. In
SCRAPPED the ROM stops after the minimum management set (R574). -/
def execColdResetRelease (cascLow bootSel : Bool) (prtad : Fin 32) (s : State) : R :=
  if s.pwr.hold ∨ (s.stage = 0 ∧ s.upStage = 0) then
    let s := { s with slave := cascLow, pwr := { s.pwr with hold := false },
                      boot := { s.boot with bootSel := bootSel, prtad := prtad.val,
                                            flash := { s.boot.flash with coldBoots := (s.boot.flash.coldBoots + 1) % 2 ^ 32 } } }
    let s := ((s.when cascLow State.slaveMap).startClock clkBoot).fusedRepairs.softRepairs.freshWords (pLCS + LCS.LCS_NONCE) 8
    let s := (s.setFld pDRAM DRAM.DR_STAT.READY 1).lockPlls
    let s := s.setFld pSUP SUP.SUP_STAT.TRIAL (if s.boot.flash.trial then 1 else 0)
    if s.lcs = 4 then .next ((s.setStage 6).setFld pSUP SUP.SUP_STAT.ERR 6)
    else
      let s := { s.romFill with upStage := 1 }
      .next ((s.when (!cascLow && !bootSel) State.coldTrial).romPath)
  else .next s

/-! ## The ends of resets -/

/-- GROUP_RESET_DONE (R470, R500, R552). After a reset of the group SUPERVISOR the ROM takes the warm path, unless it has HALTED. -/
def execGroupResetDone (s : State) : R :=
  if s.pwr.groups = [] then .next s
  else
    let sup := s.pwr.groups.contains 40 && s.stage == 0
    let s := { s with pwr := { s.pwr with groups := [] } }
    let s := ((s.setFld pRST RST.GRP_STAT.BUSY 0).setFld pRST RST.GRP_STAT.RESULT 0).raise RST.evGRP_DONE 0
    .next (((List.range s.lines).foldl State.dawnRxSettle s).when sup State.warmBoot)

/-- WARM_RESET_DONE (R468, R500, R552). -/
def execWarmResetDone (s : State) : R :=
  if s.pwr.warm then .next (({ s with pwr := { s.pwr with warm := false } }.raise RST.evWARM_DONE 0).warmBoot)
  else .next s

/-! ## SUP_CMD (R558, R560, R561, R565, R566) -/

/-- The bytes that DL holds: DL_LEN of them from DL_BASE. -/
def State.dlBytes (s : State) : List Byte := s.bytesAt 0x42000000 (s.rd (pSUP + SUP.DL_LEN)).toNat

/-- DL_DONE (R558, R560): the ROM accepts the download and runs it, or the firmware begins to store it. A flash write requested under the
brown-out warning writes nothing (R484). With neither waiting it is ignored (DESIGN CHOICE, log entry 38). -/
def State.dlDone (s : State) : State :=
  if s.bit pSUP SUP.SUP_STAT.HOST_LOAD then
    let l := s.dlBytes
    let v := s.accept l
    if v ≠ 0 then s.rejectImg v
    else
      let l := l.take (leAt l 8 4)
      (s.putDram work0 l).startFw work0 l false
  else if 2 ≤ s.stage ∧ s.stage ≤ 5 ∧ (s.act = 0 ∨ s.act = 2) then
    if s.brownOut then (s.setAct 0).rejectImg 8 else s.setAct 1
  else s

/-- ACTIVATE in STORED (R561): staging. A brown-out warning or a bank that fails R555 leaves it STORED with ACT_FAIL (R484, R579). -/
def State.activate (s : State) : State :=
  let b := 1 - s.boot.flash.active
  let v := s.accept (s.boot.flash.bank b)
  if s.brownOut then s.actFail 2
  else if v ≠ 0 then (s.rejectImg v).actFail 2
  else (s.setAct 3).stageBank b true

/-- CONFIRM in TRIAL (R561); the record is not written under the brown-out warning (R484). -/
def State.confirm (s : State) : State :=
  if s.act = 5 ∧ !s.brownOut then (s.bootRecord s.boot.flash.active s.boot.flash.prev false).setAct 0 else s

/-- REVERT in TRIAL, and the expiry of TRIAL_TMO (R566). -/
def State.revert (s : State) : State := if s.act = 5 then s.revertTo s.boot.flash.prev else s

/-- A write of SUP_CMD (R565): refused while ACT_STATE is STAGING, LOADING or REVERTING, and ACTIVATE outside STORED. The bits act in their
order (log entry 27). -/
def effSupCmd (v : Word) (s : State) : Out :=
  if v ≠ 0 ∧ (s.act = 3 ∨ s.act = 4 ∨ s.act = 6) then .err 8 s
  else if v.getLsbD 1 ∧ s.act ≠ 2 then .err 8 s
  else
    let s := s.when (v.getLsbD 0) State.dlDone
    let s := s.when (v.getLsbD 1 && s.act == 2) State.activate
    let s := s.when (v.getLsbD 2) State.confirm
    .ok (s.when (v.getLsbD 3) State.revert)

/-- DL_DONE (R558). -/
def execDlDone (r : Requester) (s : State) : R := txn r (pSUP + SUP.SUP_CMD) 0x1 (effSupCmd 0x1) s
/-- FW_ACTIVATE (R561). -/
def execFwActivate (r : Requester) (s : State) : R := txn r (pSUP + SUP.SUP_CMD) 0x2 (effSupCmd 0x2) s
/-- FW_CONFIRM (R561). -/
def execFwConfirm (r : Requester) (s : State) : R := txn r (pSUP + SUP.SUP_CMD) 0x4 (effSupCmd 0x4) s
/-- FW_REVERT (R566). -/
def execFwRevert (r : Requester) (s : State) : R := txn r (pSUP + SUP.SUP_CMD) 0x8 (effSupCmd 0x8) s

/-- The container in the inactive bank. -/
def State.putBank (s : State) (l : List Byte) : State :=
  let f := s.boot.flash
  { s with boot := { s.boot with flash := f.setBank (1 - f.active) l } }

/-- Storing ends (R560): STORED in the inactive bank, or IDLE with ERR. -/
def State.storeEnd (s : State) (flashErr : Bool) : Stored → State
  | .fail e written => ((s.when written fun s => s.putBank []).setAct 0).rejectImg e
  | .image l => if flashErr then (((s.putBank []).setAct 0).rejectImg 8).raise SUP.evFLASH_ERR 0 else (s.putBank l).setAct 2

/-- IMAGE_STORE_DONE (R560): the work on what DL holds is over. `flashErr`: the flash failed. -/
def execImageStoreDone (flashErr : Bool) (s : State) : R :=
  if s.act = 1 then .next (s.storeEnd flashErr (s.storeWork s.dlBytes (s.boot.flash.bank s.boot.flash.active))) else .next s

/-- TRIAL_TIMEOUT (R561, R566): time runs to TRIAL_TMO seconds (0 acts as 1) of a trial. -/
def execTrialTimeout (s : State) : R :=
  if s.act = 5 then .next (s.elapse clkTrial (625000000 * max 1 (s.fld pSUP SUP.TRIAL_TMO.V))).revert else .next s

/-- The reset of the group SUPERVISOR begins by itself (R549); GROUP_RESET_DONE ends it. -/
def State.supReset (s : State) : State :=
  ({ s with pwr := { s.pwr with groups := s.pwr.groups ++ [40] } }.setFld pRST RST.GRP_STAT.BUSY 1).resetGroup 40

/-- The watchdog's event, ACTION record and count (R549). -/
def State.wdExpire (s : State) : State :=
  let s := (s.setRaw SUP.evSUP_WDOG 0).logOcc (s.occ (evNum SUP.evSUP_WDOG 0) 1 0 none) true
  s.addSat pSUP SUP.SUP_STAT.WD_CNT 1

/-- At WD_LIM the other bank is started as a reversion, or the ROM halts (R549, R566). -/
def State.wdRevert (s : State) : State :=
  let b := 1 - s.boot.flash.active
  let v := s.accept (s.boot.flash.bank b)
  let s := ({ s with boot := { s.boot with wdRun := 0 } }.setAct 6).raise SUP.evBANK_FALLBACK 0
  if v = 0 then s.stageBank b false else ((s.supReset.rejectImg v).actFail 0).halt

/-- WD_CFG.WD_LIM, where 0 acts as 1 (R581). -/
def State.wdLim (s : State) : Nat := max 1 (s.fld pSUP SUP.WD_CFG.WD_LIM)

/-- The watchdog runs: enabled, and firmware running (R549, R579). -/
def State.wdOn (s : State) : Bool := s.fld pSUP SUP.WD_CFG.TIMEOUT != 0 && decide (2 ≤ s.stage) && decide (s.stage ≤ 5)

/-- SUP_WATCHDOG (R549, R566, R579): time runs to TIMEOUT ms without a write of WDOG, while firmware runs. -/
def execSupWatchdog (s : State) : R :=
  if s.wdOn then
    let s := s.elapse clkWdog (625000 * s.fld pSUP SUP.WD_CFG.TIMEOUT)
    if s.boot.wdRun + 1 < s.wdLim then .next (({ s with boot := { s.boot with wdRun := s.boot.wdRun + 1 } }).wdExpire.supReset)
    else .next s.wdExpire.wdRevert
  else .next s

/-- A write of WD_CFG (R549): TIMEOUT 0 outside MANUFACTURE and RETURNED leaves the previous TIMEOUT. -/
def effWdCfg (v : Word) (s : State) : Out :=
  let old := s.fld pSUP SUP.WD_CFG.TIMEOUT
  let s := s.wr (pSUP + SUP.WD_CFG) v
  .ok (s.when (getBits v 0 16 == 0 && !s.lcsOpen) fun s => s.setFld pSUP SUP.WD_CFG.TIMEOUT old)

/-- The settings store's format version differs from the image's (R557): SET_STAT and SETTINGS_RESET. `items` were defaulted. -/
def State.settingsRead (s : State) (items : Nat) : State :=
  match s.boot.settings with
  | some v =>
    let old := s.boot.flash.setVer
    let s := { s with boot := { s.boot with settings := none, flash := { s.boot.flash with setVer := v } } }
    if old = v then s
    else (s.wr (pSUP + SUP.SET_STAT) (BitVec.ofNat 32 (old % 2 ^ 16 * 2 ^ 16 + items % 2 ^ 16))).raise SUP.evSETTINGS_RESET 0
  | none => s

/-- A slave answers the master's GO when it is READY (R564; DESIGN CHOICE, log entry 36). -/
def State.answerGo (s : State) (status : Nat) : State :=
  match s.casc.loading with
  | some t => if s.slave then ({ s with casc := { s.casc with loading := none } }).cascSend 3 0 t 0 status [] else s
  | none => s

/-- The firmware has loaded and released every engine that is present and not retired (R22, R551 stage 3). -/
def State.enginesUp (s : State) : Bool := (List.range 256).all fun k => !s.hasCluster (k / 16) || s.coreState k != 0

/-- The firmware loads BG_TRIM, from the settings store if that holds a later field value (R150), and the fused CD_TRIM values (R551 stage 4). -/
def State.loadTrims (s : State) : State :=
  let s := s.wr (pCAL + CAL.BG_TRIM) (s.boot.flash.bgTrim.getD ((Config.fusedBgTrim).setWidth 32))
  s.each (List.range 16) fun s c => s.wr (pCDAC + CDAC.CD_TRIM + 4 * c) (Config.fusedCdTrim c)

/-- Milliseconds since the release of cold reset (R551). -/
def State.bootMs (s : State) : Word := BitVec.ofNat 32 ((s.tick - s.clockOf clkBoot) / 625000)

/-- BOOT_DONE (R551, R561, R564, R566): the firmware reaches READY; BOOT_TIME holds the ms since the release of reset. A master waits for its slave's
READY. A trial counts from here. -/
def execBootDone (items : BitVec 16) (s : State) : R :=
  if 2 ≤ s.stage ∧ s.stage ≤ 4 ∧ (s.slave ∨ s.casc.loading = none) ∧ s.enginesUp then
    let s := ((s.setStage 5).settingsRead items.toNat).loadTrims
    let s := { s with upStage := 5, boot := { s.boot with wdRun := 0 } }
    let s := (s.wr (pSUP + SUP.BOOT_TIME) s.bootMs).raise SUP.evBOOT_DONE 0
    let s := if s.act = 4 then ((s.setAct 5).startClock clkTrial).raise SUP.evACT_DONE 0 else s.when (s.act == 6) fun s => s.setAct 0
    .next (s.answerGo 0)
  else .next s

end Sys2Proof.Machine
end

