-- ==== Sys2Proof/Machine/Ident.lean ====
section
/-! DEFINITION. Identity and challenge (R571, R572), the life cycle and the fuses (R573 to R575), self-test and repair by fuse (R576 to R578). -/

namespace Sys2Proof.Machine

/-! ## Identity (R571, R572) -/

/-- KEY_PRESENT. -/
def State.keyHere (s : State) : Bool := s.bit pLCS LCS.LCS_STAT.KEY_PRESENT

/-- A challenge ends NO_KEY (R572). -/
def State.noKey (s : State) : State := (s.wr (pID + ID.CH_STAT) 0x80000001).raise ID.evCH_REFUSED 0

/-- A write of CH_CMD (R572): a SIGN while busy is ignored. -/
def effChCmd (v : Word) (s : State) : Out :=
  if !v.getLsbD 0 ∨ s.bit pID ID.CH_STAT.BUSY then .ok s
  else if s.keyHere then .ok (s.wr (pID + ID.CH_STAT) 0x40000000)
  else .ok s.noKey

/-- CH_SIGN (R572). -/
def execChSign (r : Requester) (s : State) : R := txn r (pID + ID.CH_CMD) 0x1 (effChCmd 0x1) s

/-- Eight registers from an address hold a 256-bit number, its most significant word first (R572). -/
def State.wide (s : State) (a : Nat) (v : BitVec 256) : State :=
  (List.range 8).foldl (fun s i => s.wr (a + 4 * i) (BitVec.ofNat 32 (v.toNat / 2 ^ (32 * (7 - i))))) s

/-- Words as bytes, each least significant byte first. -/
def State.wordBytes (s : State) (a n : Nat) : List Byte := (List.range n).flatMap (fun i => toBytes 4 (s.rd (a + 4 * i)).toNat)

/-- The 56 bytes that a challenge signs (R572): "TPCH", DEV_ID big-endian, the nonce, CTX, the life-cycle state, ID.STEP[7:0], two bytes of 0 and FW_VERSION. -/
def State.challenge (s : State) : List Byte :=
  [0x54, 0x50, 0x43, 0x48] ++ (toBytes 8 Config.devId.toNat).reverse ++ s.wordBytes (pID + ID.NONCE) 8 ++ s.wordBytes (pID + ID.CTX) 1
    ++ [BitVec.ofNat 8 s.lcs, 0x01, 0, 0] ++ s.wordBytes (pSUP + SUP.FW_VERSION) 1

/-- CH_SIGN_DONE (R572, R579): the signature, r and s, of a challenge whose key is still there. The number that ECDSA draws for each signature is free (log
entry 102). -/
def execChSignDone (s : State) : R :=
  if s.bit pID ID.CH_STAT.BUSY then
    if s.keyHere then
      let (v, s) := s.fresh
      let sig := ecSign s.boot.key (1 + v % (ecN - 1)) (beNat (sha256 s.challenge))
      let rr := BitVec.ofNat 256 sig.1
      let ss := BitVec.ofNat 256 sig.2
      .next ((((s.wide (pID + ID.SIG_A) rr).wide (pID + ID.SIG_B) ss).wr (pID + ID.CH_STAT) 0x80000000).raise ID.evCH_DONE 0)
    else .next s.noKey
  else .next s

/-- The certificate can be written: in PROVISIONED while CERT_LEN is 0 (R571). -/
def State.certOpen (s : State) : Bool := s.lcs == 1 && s.rd (pID + ID.CERT_LEN) == 0

/-- A write of CERT_LEN: refused once the certificate is locked, outside PROVISIONED, and above 1,024 bytes (R571; DEDUCED, log entry 39). -/
def effCertLen (v : Word) (s : State) : Out :=
  if s.certOpen ∧ v.toNat ≤ 1024 then .ok (s.wr (pID + ID.CERT_LEN) v) else .err 8 s

/-- A write of a word of the CERT window. -/
def effCert (a : Nat) (v : Word) (s : State) : Out := if s.certOpen then .ok (s.wr a v) else .err 8 s

/-- CERT_LEN_WRITE (R571). -/
def execCertLenWrite (r : Requester) (v : BitVec 11) (s : State) : R :=
  txn r (pID + ID.CERT_LEN) (v.setWidth 32) (effCertLen (v.setWidth 32)) s

/-! ## Life cycle (R573) -/

/-- Set LCS_STAT.LAST. -/
def State.lcsLast (s : State) (c : Nat) : State := s.setFld pLCS LCS.LCS_STAT.LAST c

/-- A refused transition (R573); a refused return draws a new nonce. -/
def State.lcsRefuse (s : State) (target last : Nat) : State :=
  let s := (s.lcsLast last).raise LCS.evLCS_REFUSED 0
  s.when (target == 3) fun s => s.freshWords (pLCS + LCS.LCS_NONCE) 8

/-- LCS_TOKEN holds a return signature over "TPRT", DEV_ID and LCS_NONCE (R573). -/
def State.tokenOk (s : State) : Bool :=
  let msg := [0x54, 0x50, 0x52, 0x54] ++ (toBytes 8 Config.devId.toNat).reverse ++ s.wordBytes (pLCS + LCS.LCS_NONCE) 8
  sigValid 2 msg (s.wordBytes (pLCS + LCS.LCS_TOKEN) 16)

/-- What stands against a transition (R573): 0 nothing, 1 NOT_ALLOWED, 2 CONDITION, 3 TOKEN. -/
def State.lcsBar (s : State) (target : Nat) : Nat :=
  let from1 := s.lcs
  if target = 1 then (if from1 ≠ 0 then 1 else if Config.devId = 0 then 2 else 0)
  else if target = 2 then (if from1 ≠ 1 then 1 else if s.rd (pID + ID.CERT_LEN) = 0 then 2 else 0)
  else if target = 3 then (if from1 ≠ 2 then 1 else if s.tokenOk then 0 else 3)
  else if target = 4 then (if from1 = 4 then 1 else 0)
  else 1

/-- A write of LCS_CMD (R573, R484): without the key it commands no transition. One fuse write runs at a time; a second transition meets
CONDITION (DESIGN CHOICE, log entry 40). -/
def effLcsCmd (v : Word) (s : State) : Out :=
  let t := getBits v 0 3
  if getBits v 8 8 ≠ 0x5A then .ok s
  else if s.lcsBar t ≠ 0 then .ok (s.lcsRefuse t (s.lcsBar t))
  else if s.brownOut then .ok (s.lcsRefuse t 4)
  else if s.boot.fuse.isSome then .ok (s.lcsRefuse t 2)
  else .ok { s with boot := { s.boot with fuse := some (.lcs t) } }

/-- A write of LCS_CMD by a requester: key and target. -/
def lcsCmd (r : Requester) (key : Byte) (t : Nat) (s : State) : R :=
  let v : Word := BitVec.ofNat 32 (256 * key.toNat + t)
  txn r (pLCS + LCS.LCS_CMD) v (effLcsCmd v) s

/-- LCS_TO_PROVISIONED (R573). -/
def execLcsToProvisioned (r : Requester) (key : Byte) (s : State) : R := lcsCmd r key 1 s
/-- LCS_TO_DEPLOYED (R573). -/
def execLcsToDeployed (r : Requester) (key : Byte) (s : State) : R := lcsCmd r key 2 s
/-- LCS_TO_RETURNED (R573). -/
def execLcsToReturned (r : Requester) (key : Byte) (s : State) : R := lcsCmd r key 3 s
/-- LCS_TO_SCRAPPED (R573). -/
def execLcsToScrapped (r : Requester) (key : Byte) (s : State) : R := lcsCmd r key 4 s

/-! ## Fuses (R575) -/

/-- The device key is drawn from the entropy source and fused, and PUBKEY shows its public point (R571). -/
def State.makeKey (s : State) : State :=
  let (v, s) := s.fresh
  let d := 1 + v % (ecN - 1)
  let q := (ecMul ecG d 256).getD (0, 0)
  let s := { s with boot := { s.boot with key := d } }.setFld pLCS LCS.LCS_STAT.KEY_PRESENT 1
  (s.wide (pID + ID.PUBKEY) (BitVec.ofNat 256 q.1)).wide (pID + ID.PUBKEY + 32) (BitVec.ofNat 256 q.2)

/-- A transition is fused (R571, R573): its effect, LCS_CHANGE and the CONTROL record of the old and the new state. -/
def State.lcsDone (s : State) (t : Nat) : State :=
  let old := s.lcs
  let s := s.setFld pLCS LCS.LCS_STAT.STATE t
  let s := s.when (t == 1) State.makeKey
  let s := s.when (t == 4) fun s => { s with boot := { s.boot with key := 2 ^ 256 - 1 } }.setFld pLCS LCS.LCS_STAT.KEY_PRESENT 0
  let s := s.raise LCS.evLCS_CHANGE 0
  s.record 2 (evNum LCS.evLCS_CHANGE 0) 0 [BitVec.ofNat 32 old, BitVec.ofNat 32 t, 0, 0]

/-- A fuse write has been verified as written. -/
def State.fuseOk (s : State) : FuseOp → State
  | .lcs t => s.lcsDone t
  | .secver v => s.setFld pLCS LCS.SECVER_FUSE.V v
  | .repair _ row spare =>
    ({ s with boot := { s.boot with fused := Tbl.insert s.boot.fused spare row } }).raise BIST.evREPAIR_FUSED 0

/-- FUSE_WRITE_DONE (R484, R575): `read1` and `read2` tell whether the margin read after the first write, and after the second, finds the word
as written. Under the brown-out warning there is no second write: the first verify decides, and the status is BROWNOUT. -/
def execFuseWriteDone (read1 read2 : Bool) (s : State) : R :=
  match s.boot.fuse with
  | none => .next s
  | some op =>
    let s := { s with boot := { s.boot with fuse := none } }
    let ok := read1 || (read2 && !s.brownOut)
    let s := if ok then s.fuseOk op else if s.brownOut then s else s.raise LCS.evFUSE_FAIL 0
    match op with
    | .lcs t =>
      if s.brownOut then .next (if ok then s.lcsLast 4 else s.lcsRefuse t 4)
      else .next (s.lcsLast (if ok then 0 else 5))
    | _ => .next s

/-- A write of SECVER_CMD (R575): the supervisor alone; any greater value up to 32. -/
def effSecver (m : Nat) (v : Word) (s : State) : Out :=
  if m ≠ 0x02 then .err 8 s
  else if v.toNat ≤ s.fld pLCS LCS.SECVER_FUSE.V ∨ 32 < v.toNat ∨ s.brownOut ∨ s.boot.fuse.isSome then .ok s
  else .ok { s with boot := { s.boot with fuse := some (.secver v.toNat) } }

/-- SECVER_ADVANCE (R575). -/
def execSecverAdvance (r : Requester) (v : BitVec 6) (s : State) : R :=
  txn r (pLCS + LCS.SECVER_CMD) (v.setWidth 32) (effSecver (s.master r) (v.setWidth 32)) s

/-- The row that FRPR_TGT names (R587), and its soft repair's spare, if it has one. -/
def State.frprSpare (s : State) : Nat × Nat × Option Nat :=
  let inst := s.fld pBIST BIST.FRPR_TGT.F24
  let row := s.fld pBIST BIST.FRPR_TGT.V
  let (b, n) := if inst = 0 then (512 * s.fld pBIST BIST.FRPR_TGT.F20 + 32 * s.fld pBIST BIST.FRPR_TGT.F16, 32) else (2 ^ 20 + 4 * inst, 4)
  (inst, row, (s.ms.spares.find? (fun e => decide (b ≤ e.1) && decide (e.1 < b + n) && e.2 == row)).map (·.1))

/-- Fuse entries used by DRAM and by SRAM rows (R576: 32 and 16). -/
def State.fusedDram (s : State) : Nat := (s.boot.fused.filter (fun e => decide (e.1 < 2 ^ 20))).length
def State.fusedSram (s : State) : Nat := (s.boot.fused.filter (fun e => decide (2 ^ 20 ≤ e.1))).length

/-- A write of FRPR_CMD (R576): refused outside MANUFACTURE and RETURNED, without the soft repair, without a free entry, and while a fuse is
written (DEDUCED, log entry 39). -/
def effFrprCmd (v : Word) (s : State) : Out :=
  if !v.getLsbD 0 then .ok s
  else if !s.lcsOpen ∨ s.boot.fuse.isSome then .err 8 s
  else match s.frprSpare with
    | (inst, row, some sp) =>
      if (if inst = 0 then 32 ≤ s.fusedDram else 16 ≤ s.fusedSram) ∨ (Tbl.find s.boot.fused sp).isSome then .err 8 s
      else if s.brownOut then .ok s
      else .ok { s with boot := { s.boot with fuse := some (.repair inst row sp) } }
    | (_, _, none) => .err 8 s

/-- FUSE_REPAIR (R576). -/
def execFuseRepair (r : Requester) (s : State) : R := txn r (pBIST + BIST.FRPR_CMD) 0x1 (effFrprCmd 0x1) s

/-! ## Self-test (R577, R578) -/

/-- R574 permits the test: the loopbacks in every state but SCRAPPED, the others in MANUFACTURE and RETURNED. -/
def State.bistAllowed (s : State) (test : Nat) : Bool := if test = 5 ∨ test = 6 then decide (s.lcs < 4) else s.lcsOpen

/-- A line lane belongs to a defined port. -/
def State.lineDefined (s : State) (n : Nat) : Bool := (List.range 8).any (fun p => s.portDefined p && (s.portLanes p).contains n)

/-- A physical host lane carries a lane of a defined port. -/
def State.hostInDefined (s : State) (m : Nat) : Bool := (List.range 8).any (fun p => s.portDefined p && s.portHasHost p m)

/-- The conditions under which a test is REFUSED (R577, R579). -/
def State.bistBarred (s : State) (test t : Nat) : Bool :=
  (s.act == 3 || s.act == 4 || s.act == 6) ||
    (match test with
    | 1 => false
    | 2 => t == 40 || !s.groupHere t || s.groupInUse t || s.pst != 0
    | 3 => !(decide (8 ≤ t) && s.hasInst t) || (List.range 16).any (fun e => s.coreState (16 * ((t - 8) / 3) + e) != 0)
    | 4 => decide (8 ≤ t) || s.logEn || s.capState != 0 || s.filling
    | 5 => decide (s.lines ≤ t) || s.lineDefined t
    | 6 => decide (s.hosts ≤ t) || s.hostInDefined t
    | 7 => s.fld pCAL CAL.CAL_STAT.CALREF != 1
    | _ => true)

/-- BT_CMD.GO (R577): NOT_ALLOWED, REFUSED, or the test begins. A GO while a test runs is ignored (DESIGN CHOICE, log entry 40). -/
def State.bistGo (s : State) (test t : Nat) : State :=
  if s.boot.bist.isSome then s
  else if !s.bistAllowed test then s.bistEnd 4
  else if s.bistBarred test t then s.bistEnd 2
  else ({ s with boot := { s.boot with bist := some (test, t) } }).wr (pBIST + BIST.BT_STAT) 0x40000000

/-- The words of an SRAM instance are zeroed (R361): its cells, and with them its poison and suspect entries. -/
def State.zeroInst (s : State) (inst : Nat) : State :=
  let here (k : Nat) : Bool := k / 2 ^ 26 == inst
  let cells := (List.range (s.instWords inst)).length
  let a0 := devAddr inst 0
  let inside (a : Nat) : Bool :=
    if (inst - 8) % 3 = 0 ∨ inst < 8 then decide (a0 ≤ a) && decide (a < a0 + 8 * cells)
    else decide (a0 ≤ a) && decide (a < a0 + 0x100000) && decide ((a - a0) % 0x10000 < 0x4000)
  let s := { s with mem := Tbl.drop inside s.mem, ms := { s.ms with flips := Tbl.drop here s.ms.flips } }
  (s.unpoison here).unsuspect here

/-- What a test leaves behind, however it ends (R577). -/
def State.bistAfter (s : State) (test t : Nat) : State :=
  match test with
  | 2 => s.resetGroup t
  | 3 => s.zeroInst t
  | 4 => (List.range s.granules).foldl (fun s g => s.setInit g 0) s
  | _ => s

/-- A write of BT_CMD (R577, R587): GO, then ABORT (log entry 27). -/
def effBtCmd (v : Word) (s : State) : Out :=
  let s := s.when (v.getLsbD 16) fun s => s.bistGo (getBits v 0 3) (getBits v 8 6)
  match s.boot.bist with
  | some (test, t) => .ok (s.when (v.getLsbD 17) fun s => (s.bistAfter test t).bistEnd 3)
  | none => .ok s

/-- A write of BT_CMD with GO. -/
def bistCmd (r : Requester) (test : Nat) (t : BitVec 6) (s : State) : R :=
  let v : Word := BitVec.ofNat 32 (0x10000 + 256 * t.toNat + test)
  txn r (pBIST + BIST.BT_CMD) v (effBtCmd v) s

/-- BIST_ROM (R577). -/
def execBistRom (r : Requester) (s : State) : R := bistCmd r 1 0 s
/-- BIST_LOGIC (R577). -/
def execBistLogic (r : Requester) (t : BitVec 6) (s : State) : R := bistCmd r 2 t s
/-- BIST_SRAM_MARCH (R577). -/
def execBistSramMarch (r : Requester) (t : BitVec 6) (s : State) : R := bistCmd r 3 t s
/-- BIST_DRAM_MARCH (R577). -/
def execBistDramMarch (r : Requester) (t : BitVec 6) (s : State) : R := bistCmd r 4 t s
/-- BIST_ANA_LOOP (R578). -/
def execBistAnaLoop (r : Requester) (t : BitVec 6) (s : State) : R := bistCmd r 5 t s
/-- BIST_HOST_LOOP (R578). -/
def execBistHostLoop (r : Requester) (t : BitVec 6) (s : State) : R := bistCmd r 6 t s
/-- BIST_REF (R577). -/
def execBistRef (r : Requester) (s : State) : R := bistCmd r 7 0 s

/-- BIST_ABORT (R587): a write of BT_CMD.ABORT. -/
def execBistAbort (r : Requester) (s : State) : R := txn r (pBIST + BIST.BT_CMD) 0x20000 (effBtCmd 0x20000) s

/-- What a self-test found: the MISR signature, the failing rows (DRAM: 8192 · bank + row), of each receive and transmit slice (or of the host lane)
its SNR in 0.1 dB and its offset in 0.001 LSB, and whether the reference test passed. -/
structure BistFound where
  sig : BitVec 64
  rows : List Nat
  rx : List (Nat × Int)
  tx : List (Nat × Int)
  refOk : Bool
deriving DecidableEq, Repr

/-- A slice fails below 24.0 dB, or with its offset outside ±24 LSB (R133, R578). -/
def sliceFails (e : Nat × Int) : Bool := decide (e.1 < 240) || decide (24000 < e.2.natAbs)

/-- The failing slices, as a mask. -/
def failMask (l : List (Nat × Int)) : Nat := (((List.range l.length).filter fun i => sliceFails (l.getD i (240, 0))).map (2 ^ ·)).sum

/-- The lowest SNR that was found. -/
def lowestSnr (l : List (Nat × Int)) : Nat := l.foldl (fun m e => min m e.1) 1023

/-- A march test's failing row is repaired where a spare exists (R577). -/
def State.marchRepair (s : State) (inst idx : Nat) : State :=
  if s.rowSpared inst idx then s
  else match s.freeSpare inst idx with
    | some sp => s.setSpare inst idx sp
    | none => s

/-- The signature shown, and whether it is as expected. -/
def State.showSig (s : State) (sig : BitVec 64) : State :=
  (s.wr (pBIST + BIST.SIG_LO) (sig.setWidth 32)).wr (pBIST + BIST.SIG_HI) (sig.extractLsb' 32 32)

/-- EXP_HI : EXP_LO. -/
def State.expSig (s : State) : BitVec 64 := s.rd (pBIST + BIST.EXP_HI) ++ s.rd (pBIST + BIST.EXP_LO)

/-- A march test's results. -/
def State.marchEnd (s : State) (test t : Nat) (f : BistFound) : State :=
  let s := f.rows.foldl (fun s row =>
    if test = 4 then s.marchRepair 0 (8192 * (row % 8192) + 512 * (row / 8192 % 16) + t) else s.marchRepair t (8 * row)) s
  s.setFld pBIST BIST.FAIL_ROWS.V (min f.rows.length 0xFFFF)

/-- A loopback test's results (R578). -/
def State.loopEnd (s : State) (f : BistFound) : State :=
  ((s.setFld pBIST BIST.ANA_RES.V (lowestSnr (f.rx ++ f.tx))).setFld pBIST BIST.ANA_RX.V (failMask f.rx)).setFld pBIST BIST.ANA_TX.V (failMask f.tx)

/-- BIST_TEST_DONE (R577, R578). -/
def State.bistDone (s : State) (f : BistFound) : State :=
  match s.boot.bist with
  | none => s
  | some (test, t) =>
    let ok : Bool :=
      match test with
      | 1 => f.sig == Config.romSig
      | 5 => !(f.rx ++ f.tx).any sliceFails
      | 6 => !(f.rx ++ f.tx).any sliceFails
      | 7 => f.refOk
      | _ => f.sig == s.expSig
    let s := s.when (decide (test ≤ 4)) fun s => s.showSig f.sig
    let s := s.when (test == 3 || test == 4) fun s => s.marchEnd test t f
    let s := s.when (test == 5 || test == 6) fun s => s.loopEnd f
    (s.bistAfter test t).bistEnd (if ok then 0 else 1)

/-- BIST_TEST_DONE (R577). -/
def execBistTestDone (sig : BitVec 64) (rows : List Nat) (rx tx : List (Nat × Int)) (refOk : Bool) (s : State) : R :=
  .next (s.bistDone ⟨sig, rows, rx, tx, refOk⟩)

end Sys2Proof.Machine
end

