-- ==== Sys2Proof/Machine/Pages.lean ====
section
/-! DEFINITION. The common page header (R12, R415 to R417, R427, R429, R438 to R441): enabling, draining and locking a page, clearing events and
latching by SNAP. -/

namespace Sys2Proof.Machine

/-! ## ENABLE, DRAIN and LOCK (R12, R438 to R441) -/

/-- ENABLE is fixed at 1 (R441). -/
def fixedPage (fam : Nat) : Bool := fam ≤ 7 || fam == 9 || fam == 10 || (12 ≤ fam && fam ≤ 15) || fam == 20 || fam == 21

/-- The page's function has work in flight (R439, R441, R533). -/
def State.pageBusy (s : State) (fam i : Nat) : Bool :=
  match fam with
  | 16 => (List.range 16).any (fun e => let st := s.coreState (16 * i + e); st == 1 || st == 2 || st == 5)
  | 17 => !(s.clu i).due.isEmpty
  | 18 => !(s.partSt i).fwTx.isEmpty || (s.partSt i).serve.isSome || !(s.partSt i).replies.isEmpty
  | 19 => (s.dawnSt i).tx.isSome
  | 22 => s.filling
  | 23 => !s.ms.repairs.isEmpty
  | 24 => s.capState == 5
  | 25 => s.rpState == 1 || s.rpState == 2
  | 26 => s.exporting
  | 28 => s.hkBusy
  | 29 => s.cdBusy
  | 30 => s.pwBusy
  | _ => false

/-- What ENABLE 0 does to a page's work, by its drain policy (R439, R441). -/
def State.drainPage (s : State) (fam i : Nat) : State :=
  let cancel := s.bit (pageAt fam i) HDR.DRAIN
  match fam with
  | 16 => s.each (List.range 16) fun s e => s.drainEng (16 * i + e)
  | 18 => s.when cancel fun s => (s.modPart i fun x => { x with fwTx := [] }).fwShow i
  | 19 =>
    let s := s.dawnRxSettle i
    s.when (cancel && (s.dawnSt i).tx.isSome) fun s => s.dawnEnd i 4
  | 22 => s.when cancel fun s => s.fillCancel 0
  | 24 => s.when s.capRuns fun s => ({ s with cap := { s.cap with start := false } }).setFld pCAP CAP.CP_STAT.STATE 5
  | 25 => s.when (cancel && (s.rpState == 1 || s.rpState == 2)) fun s => { s with rpl := { s.rpl with stop := true } }
  | 26 => s.when (cancel && s.exporting) fun s => { s with trc := { s.trc with cancel := true } }
  | 28 => s.when (s.hkState != 0) State.hkDrain
  | 29 => s.cdDrain
  | 30 => s.pwDrain
  | _ => s

/-- A page's function is enabled again. -/
def State.openPage (s : State) (fam i : Nat) : State :=
  let s := s.setFld (pageAt fam i) HDR.FSTATE 1
  match fam with
  | 16 => s.each (List.range 16) fun s e => s.releaseEng (16 * i + e)
  | 19 => (s.dawnRxSettle i).dawnSettle i
  | 28 => s.when (s.bit pHKADC HKADC.HK_CTRL.SEQ_EN) State.seqOn
  | 29 => s.cdResume
  | 30 => s.pwResume
  | _ => s

/-- A page's function has stopped: DISABLED, or enabled again at once where ENABLE was written 1 meanwhile (R438). -/
def State.closePage (s : State) (fam i : Nat) : State :=
  let b := pageAt fam i
  let s := s.when (fam == 28) State.hkDrained
  let s := s.setFld b HDR.FSTATE 0
  if s.bit b HDR.ENABLE then s.openPage fam i else s

/-- A write of PAGE_CTRL (R12, R416, R438): LOCK stays set, DRAIN is taken, and a change of ENABLE acts. -/
def effPageCtrl (fam i : Nat) (v : Word) (s : State) : Out :=
  let s0 := s
  let b := pageAt fam i
  let en := v.getLsbD 0 || fixedPage fam
  let s := s.when (v.getLsbD 31) fun s => s.setFld b HDR.LOCK 1
  let s := (s.setFld b HDR.DRAIN (getBits v 1 1)).setFld b HDR.ENABLE (if en then 1 else 0)
  let s :=
    if !en && s.fstate b == 1 then
      let s := (s.setFld b HDR.FSTATE 2).drainPage fam i
      if s.pageBusy fam i then s else s.closePage fam i
    else if en && s.fstate b == 0 then s.openPage fam i
    else s
  .ok (watch s0 (State.serveWatch s0 s))

/-- PAGE_CTRL of a page, its ENABLE and LOCK as given, the drain policy as it stands. -/
def State.pageCtrl (s : State) (b : Nat) (en lock : Bool) : Word :=
  BitVec.ofNat 32 ((if en then 1 else 0) + 2 * s.fld b HDR.DRAIN + (if lock then 2 ^ 31 else 0))

/-- PAGE_ENABLE (R438): a write of PAGE_CTRL with ENABLE 1 on instance `i` of a family. -/
def execPageEnable (r : Requester) (fam : Fin 32) (i : Fin 16) (s : State) : R :=
  let b := pageAt fam.val i.val
  let v := s.pageCtrl b true false
  txn r (b + HDR.PAGE_CTRL) v (effPageCtrl fam.val i.val v) s

/-- PAGE_DISABLE (R438, R439): a write of PAGE_CTRL with ENABLE 0 and a drain policy. -/
def execPageDisable (r : Requester) (fam : Fin 32) (i : Fin 16) (cancel : Bool) (s : State) : R :=
  let b := pageAt fam.val i.val
  let v : Word := if cancel then 2 else 0
  txn r (b + HDR.PAGE_CTRL) v (effPageCtrl fam.val i.val v) s

/-- PAGE_LOCK (R12): a write of PAGE_CTRL with LOCK 1, ENABLE and DRAIN as they stand. -/
def execPageLock (r : Requester) (fam : Fin 32) (i : Fin 16) (s : State) : R :=
  let b := pageAt fam.val i.val
  let v := s.pageCtrl b (s.bit b HDR.ENABLE) true
  txn r (b + HDR.PAGE_CTRL) v (effPageCtrl fam.val i.val v) s

/-- PAGE_DRAIN_DONE (R438): the work in flight of a draining page has ended. -/
def execPageDrainDone (fam : Fin 32) (i : Fin 16) (s : State) : R :=
  if s.fstate (pageAt fam.val i.val) = 2 ∧ !s.pageBusy fam.val i.val then
    let s0 := s
    .next (watch s0 (s.closePage fam.val i.val))
  else .next s

/-! ## Events (R429) -/

/-- EVT_CLEAR (R429): a write of EVT_RAW clears the events whose bits are 1. -/
def execEvtClear (r : Requester) (fam : Fin 32) (i : Fin 16) (v : Word) (s : State) : R :=
  let a := pageAt fam.val i.val + HDR.EVT_RAW
  txn r a v (effW1c a v) s

/-! ## SNAP (R417) -/

/-- The performance counters' latch (R268). The cycle counter is time: what it shows is free (log entry 5). -/
def State.latchPerf (s : State) (c : Nat) : State :=
  let s := (List.range 8).foldl (fun s k => s.show64 (perfCnt c k)) s
  s.freshWords (pPERF c + PERF.CYC_LO) 2

/-- The offsets of a page's read-only values wider than 32 bits, on the pages whose latch is a copy beside the live value (R417; DEDUCED,
log entry 41). -/
def wideRegs (fam : Nat) : List Nat :=
  let words (off n : Nat) : List Nat := (List.range n).map (fun i => off + 4 * i)
  match fam with
  | 4 => words LCS.LCS_NONCE 8
  | 7 => words ID.PUBKEY 16 ++ words ID.SIG_A 8 ++ words ID.SIG_B 8
  | 9 => words LRX.SLICE_MAP 4
  | 10 => words LTX.SLICE_MAP 4
  | 18 => words PART.FAR_ID_LO 2
  | 19 => words DAWN.RX_SRC_LO 2
  | 27 => words CASC.PEER_ID_LO 2
  | 31 => words BIST.SIG_LO 2
  | _ => []

/-- Copy the registers at `offs` of a page. -/
def State.latchWide (s : State) (b : Nat) (offs : List Nat) : State :=
  offs.foldl (fun s o => { s with latched := Tbl.insert s.latched (b + o) (s.rd (b + o)) }) s

/-- A write of SNAP (R180, R268, R327, R417): a latch already pending absorbs it. -/
def State.snapPage (s : State) (fam i : Nat) : State :=
  match fam with
  | 12 => s.snapIfec i
  | 13 => s.snapOfec i
  | 17 => s.latchPerf i
  | 20 => s.latchTime
  | _ => s.latchWide (pageAt fam i) (wideRegs fam)

/-- A write of SNAP. -/
def effSnap (fam i : Nat) (_ : Word) (s : State) : Out := .ok (s.snapPage fam i)

/-- PAGE_SNAP (R417). -/
def execPageSnap (r : Requester) (fam : Fin 32) (i : Fin 16) (s : State) : R :=
  txn r (pageAt fam.val i.val + HDR.SNAP) 0 (effSnap fam.val i.val 0) s

/-- IDLE_LATCH_TIMEOUT (R180, R417): a latch pending on an IFEC page whose lane, or an OFEC page whose port, does not run is taken. -/
def execIdleLatchTimeout (outer : Bool) (n : Fin 8) (s : State) : R :=
  if outer then
    .next (s.when (s.bit (pOFEC n.val) OFEC.OF_STAT.SNAP_PEND && !(s.portSt n.val).run) fun s => s.latchOfec n.val)
  else
    .next (s.when (s.bit (pIFEC n.val) IFEC.IF_STAT.SNAP_PEND && s.fld (pLRX n.val) LRX.LN_STAT.STATE == 0) fun s => s.latchIfec n.val)

end Sys2Proof.Machine
end

