-- ==== Sys2Proof/Machine/Bus.lean ====
section
/-! DEFINITION. The write of a register (R11 to R13, R412 to R419): what each page does with it. -/

namespace Sys2Proof.Machine

/-- The element of an array of registers that an offset names. -/
def elemOf (off first stride n : Nat) : Option Nat :=
  if first ≤ off ∧ off < first + stride * n ∧ (off - first) % stride = 0 then some ((off - first) / stride) else none

/-- A code that a field map marks reserved, on the registers whose write is otherwise plain (R13, R281, R338, R349): a host error (R447). -/
def reservedCode (fam off : Nat) (v : Word) : Bool :=
  (fam == 20 && off == TIME.TOD_CFG && decide (4 < getBits v 0 3))
    || (fam == 20 && off == TIME.NODE && decide (9999 < getBits v 0 14) && getBits v 0 14 != 16383)
    || (fam == 17 && (elemOf off PERF.EVSEL 32 8).isSome && getBits v 8 2 == 3)

/-- A write of a register that has no effect of its own beyond its access code (R11). -/
def effPlain (fam i off : Nat) (v : Word) (s : State) : Out :=
  let a := pageAt fam i + off
  if reservedCode fam off v then hostError [pageAt fam i] s
  else match findRow fam off with
    | some row =>
      match row.acc with
      | .w1c => effW1c a v s
      | .ro => .ok s
      | .wo => .ok s
      | _ => effStore a v s
    | none => .ok s

/-! ## The page header -/

/-- A write of the common page header (R415, R416). -/
def effHdr (fam i off : Nat) (v : Word) (s : State) : Out :=
  if off = HDR.PAGE_CTRL then effPageCtrl fam i v s
  else if off = HDR.SNAP then effSnap fam i v s
  else effPlain fam i off v s

/-! ## The pages of the control plane -/

/-- A requester is the supervisor at privileged level, which alone writes the MPU (R548). -/
def State.supPriv (s : State) (r : Requester) : Bool := r == .sup && (s.core supId).level == 2

/-- A write of the MPU's registers (R548, R581): MPU_SEL selects the region that the other three name. -/
def effMpu (r : Requester) (off : Nat) (v : Word) (s : State) : Out :=
  if !s.supPriv r then .err 8 s
  else if off = SUP.MPU_SEL then effStore (pSUP + off) v s
  else
    let k := 4 * s.fld pSUP SUP.MPU_SEL.V + (off - SUP.MPU_BASE) / 4
    .ok { s with boot := { s.boot with mpu := Tbl.put (some 0) s.boot.mpu k v } }

/-- A write of SUP (R581). -/
def effSup (r : Requester) (off : Nat) (v : Word) (s : State) : Out :=
  if off = SUP.SUP_CMD then effSupCmd v s
  else if off = SUP.WD_CFG then effWdCfg v s
  else if SUP.MPU_SEL ≤ off ∧ off ≤ SUP.MPU_ATTR then effMpu r off v s
  else effPlain 0 0 off v s

/-- A write of PWR (R493). -/
def effPwr (off : Nat) (v : Word) (s : State) : Out :=
  if off = PWR.MODE then effPwrMode v s
  else if off = PWR.WAKE_EN then effWakeEn v s
  else if off = PWR.PAD_REL then effPadRel v s
  else effPlain 1 0 off v s

/-- A write of RST (R498). -/
def effRst (off : Nat) (v : Word) (s : State) : Out :=
  if off = RST.RST_CMD then effRstCmd v s
  else if off = RST.GRP_CMD then effGrpCmd v s
  else effPlain 3 0 off v s

/-- A write of LCS (R585). -/
def effLcs (r : Requester) (off : Nat) (v : Word) (s : State) : Out :=
  if off = LCS.LCS_CMD then effLcsCmd v s
  else if off = LCS.SECVER_CMD then effSecver (s.master r) v s
  else effPlain 4 0 off v s

/-- A write of EVT (R450). -/
def effEvt (off : Nat) (v : Word) (s : State) : Out :=
  if off = EVT.EV_CTRL then effEvCtrl v s else effPlain 5 0 off v s

/-- A write of PROT (R454). -/
def effProt (off : Nat) (v : Word) (s : State) : Out :=
  if off = PROT.PROP_CMD then effPropCmd v s
  else if off = PROT.RATIFY then effRatify v s
  else effPlain 6 0 off v s

/-- A write of ID (R583). -/
def effId (off : Nat) (v : Word) (s : State) : Out :=
  if off = ID.CH_CMD then effChCmd v s
  else if off = ID.CERT_LEN then effCertLen v s
  else if (elemOf off ID.CERT 4 256).isSome then effCert (pID + off) v s
  else effPlain 7 0 off v s

/-- A write of THERM (R501). -/
def effTherm (off : Nat) (v : Word) (s : State) : Out :=
  if off = THERM.TH_CTRL then effThCtrl v s
  else if off = THERM.POL_T then effPolT v s
  else if off = THERM.TS_CMD then effTsCmd v s
  else effPlain 8 0 off v s

/-! ## The lanes -/

/-- A write of LRX[n] (R71): boundary-applied registers go to the shadow bank. -/
def effLrx (r : Requester) (n off : Nat) (v : Word) (s : State) : Out :=
  if (groupOf 9 off).isSome then effBa (pLRX n) off v s
  else if off = LRX.ACQ_CMD then effAcqCmd r n v s
  else if off = LRX.LOS_CFG then effLosCfg (pLRX n) off LRX.LN_STAT.LOS v s
  else if off = LRX.COMMIT then effCommit (pLRX n) v s
  else match elemOf off LRX.RS_TAB 4 512 with
    | some i => effRsTab n i v s
    | none => effPlain 9 n off v s

/-- A write of LTX[n] (R116). -/
def effLtx (n off : Nat) (v : Word) (s : State) : Out :=
  if (groupOf 10 off).isSome then effBa (pLTX n) off v s
  else if off = LTX.TX_CTRL then effTxCtrl n v s
  else if off = LTX.COMMIT then effCommit (pLTX n) v s
  else effPlain 10 n off v s

/-- A write of CAL (R152). -/
def effCal (off : Nat) (v : Word) (s : State) : Out :=
  if off = CAL.CAL_CTRL then effCalCtrl v s
  else if off = CAL.CAL_CMD then effCalCmd v s
  else match elemOf off CAL.U_CMD 4 16 with
    | some u => effUCmd u v s
    | none =>
      match elemOf off CAL.U_REC 4 16 with
      | some u => effUnitReg u (pCAL + off) v s
      | none =>
        if CAL.RES_OFS ≤ off ∧ off < CAL.RES_OFS + 16 * 16 then effUnitReg ((off - CAL.RES_OFS) / 16) (pCAL + off) v s
        else effPlain 11 0 off v s

/-- A write of IFEC[n] (R188). -/
def effIfec (n off : Nat) (v : Word) (s : State) : Out :=
  if off = IFEC.STAT_FLAGS then effStatFlags (pIFEC n + off) v s else effPlain 12 n off v s

/-- A write of OFEC[p] (R192). -/
def effOfec (p off : Nat) (v : Word) (s : State) : Out :=
  if off = OFEC.STAT_FLAGS then effStatFlags (pOFEC p + off) v s else effPlain 13 p off v s

/-- A write of PORT (R196). -/
def effPort (off : Nat) (v : Word) (s : State) : Out :=
  if off = PORT.MODE then effMode v s
  else if off = PORT.PORT_EN then effPortEn v s
  else if off = PORT.PORT_CMD then effPortCmd v s
  else match elemOf off PORT.PCFG 4 8 with
    | some p => effPcfg p v s
    | none => effPlain 14 0 off v s

/-- The port whose registers stand on a host lane's page (R205). -/
def State.hslPort (s : State) (m : Nat) : Option Nat := (List.range s.lines).find? (fun p => s.firstHost p == m)

/-- The registers that stand on the page of a port's first logical host lane (R205). -/
def portReg (off : Nat) : Bool := decide (HSL.PORT_LB ≤ off) && decide (off ≤ HSL.HSKEW)

/-- A write of HSL[m] (R225): a port's register is reserved on every other instance (R205). -/
def effHsl (r : Requester) (m off : Nat) (v : Word) (s : State) : Out :=
  if (groupOf 15 off).isSome then effBa (pHSL m) off v s
  else if portReg off ∧ s.hslPort m = none then (if v = 0 then .ok s else hostError [pHSL m] s)
  else if off = HSL.LANE_CFG then effLaneCfg m v s
  else if off = HSL.RX_CMD then effRxCmd r m v s
  else if off = HSL.TX_CMD then effTxCmd m v s
  else if off = HSL.TEST_CTRL then effTestCtrl m v s
  else if off = HSL.PORT_LB then effPortLb m v s
  else if off = HSL.LOS_CFG then effLosCfg (pHSL m) off HSL.RX_STAT.LOS v s
  else if off = HSL.COMMIT then effCommit (pHSL m) v s
  else effPlain 15 m off v s

/-! ## Clusters and links -/

/-- A write of CLU[c] (R276). -/
def effClu (c off : Nat) (v : Word) (s : State) : Out :=
  match elemOf off CLU.CP_OWN 4 8 with
  | some t => effCpOwn c t v s
  | none =>
    match elemOf off CLU.E_CTRL 4 16 with
    | some e => effECtrl (16 * c + e) v s
    | none =>
      match elemOf off CLU.MB_W0 8 16, elemOf off CLU.MB_W1 8 16 with
      | some e, _ => effMbW0 c e v s
      | none, some e => effMbW1 c e v s
      | none, none => effPlain 16 c off v s

/-- A write of PERF[c] (R280). -/
def effPerf (c off : Nat) (v : Word) (s : State) : Out :=
  if off = PERF.PF_STAT then effPfStat c v s
  else if off = PERF.SMP_CTRL then effSmpCtrl c v s
  else match elemOf off PERF.CNT_LO 32 8, elemOf off PERF.CNT_HI 32 8 with
    | some k, _ => effCntLo c k v s
    | none, some k => effCntHi c k v s
    | none, none => effPlain 17 c off v s

/-- A write of PART[n] (R317). -/
def effPart (n off : Nat) (v : Word) (s : State) : Out :=
  if off = PART.PC_CTRL then effPcCtrl n v s
  else if off = PART.ID_CMD then effIdCmd n v s
  else if off = PART.TXREQ then effTxreq n v s
  else if off = PART.RR_CMD then effRrCmd n v s
  else if off = PART.RLB_CMD then effRlbCmd n v s
  else if off = PART.FW_TX3 then effFwTx3 n v s
  else effPlain 18 n off v s

/-- A write of DAWN[n] (R321). -/
def effDawn (n off : Nat) (v : Word) (s : State) : Out :=
  if off = DAWN.DW_CTRL then effDwCtrl n v s
  else if off = DAWN.DW_CMD then effDwCmd n v s
  else effPlain 19 n off v s

/-! ## Time and memory -/

/-- A write of TIME (R349). -/
def effTime (off : Nat) (v : Word) (s : State) : Out :=
  if off = TIME.TM_CTRL then effTmCtrl v s
  else if off = TIME.TM_CMD then effTmCmd v s
  else if off = TIME.INCR_FRAC then effIncrFrac v s
  else if off = TIME.INCR_INT then effIncrInt v s
  else if off = TIME.PPS_NEXT_WRAPS then effPpsArm v s
  else if off = TIME.TOD_TX then effTodTx v s
  else effPlain 20 0 off v s

/-- A write of MEM (R383). -/
def effMem (off : Nat) (v : Word) (s : State) : Out :=
  if off = MEM.TEST_CMD then effTestCmd v s else effPlain 21 0 off v s

/-- A write of DRAM (R386). How far a fill had come when CANCEL reaches it is free. -/
def effDram (off : Nat) (v : Word) (s : State) : Out :=
  if off = DRAM.FILL_CMD then let (n, s) := s.fresh; effFillCmd n v s
  else if off = DRAM.INIT_CMD then effInitCmd v s
  else if off = DRAM.DR_CTRL then effDrCtrl v s
  else if off = DRAM.RPR_CMD then effRprCmd v s
  else effPlain 22 0 off v s

/-- A write of SCRB (R388). -/
def effScrb (off : Nat) (v : Word) (s : State) : Out :=
  if off = SCRB.SC_CTRL then effScCtrl v s else effPlain 23 0 off v s

/-! ## Capture, replay, trace and cascade -/

/-- A write of CAP (R407). -/
def effCap (off : Nat) (v : Word) (s : State) : Out :=
  if off = CAP.CP_CMD then effCpCmd v s
  else if off = CAP.KCFG then effKcfg v s
  else effPlain 24 0 off v s

/-- A write of RPL (R409). -/
def effRpl (off : Nat) (v : Word) (s : State) : Out :=
  if off = RPL.RP_CMD then effRpCmd v s else effPlain 25 0 off v s

/-- A write of TRC (R410). -/
def effTrc (off : Nat) (v : Word) (s : State) : Out :=
  if off = TRC.TRC_CTRL then effTrcCtrl v s
  else if off = TRC.ALIGN then effAlign v s
  else if off = TRC.EXP_CMD then effExpCmd v s
  else effPlain 26 0 off v s

/-- A write of CASC (R586): with EN 0 the link carries nothing and is down; with EN 1 HELLO is sent over aligned lanes (R569). -/
def effCasc (off : Nat) (v : Word) (s : State) : Out :=
  if off = CASC.CC_CTRL then
    let s := s.wr (pCASC + off) v
    .ok (if s.cascOn then s.sendHello else s.linkDown)
  else effPlain 27 0 off v s

/-! ## Housekeeping and self-test -/

/-- A write of HKADC (R538). -/
def effHkadc (off : Nat) (v : Word) (s : State) : Out :=
  if off = HKADC.HK_CTRL then effHkCtrl v s
  else if off = HKADC.HK_TRIG then effHkTrig v s
  else if off = HKADC.HK_CMD then effHkCmd v s
  else if off = HKADC.URG_REQ then effUrgReq v s
  else if off = HKADC.TMR_CTRL then effTmrCtrl v s
  else match elemOf off HKADC.SEQ 4 32 with
    | some e => effHkSeq e v s
    | none => effPlain 28 0 off v s

/-- A write of CDAC (R541). -/
def effCdac (off : Nat) (v : Word) (s : State) : Out :=
  match elemOf off CDAC.CD_CTRL 16 16, elemOf off CDAC.CD_Q 16 16 with
  | some c, _ => effCdCtrl c v s
  | none, some c => effCdQ c v s
  | none, none => effPlain 29 0 off v s

/-- A write of PWM (R544). -/
def effPwm (off : Nat) (v : Word) (s : State) : Out :=
  if off = PWM.PW_CTRL then effPwCtrl v s
  else match elemOf off PWM.PW_PER 16 4, elemOf off PWM.PW_DUTY 16 4 with
    | some k, _ => effPwPer k v s
    | none, some k => effPwDuty k v s
    | none, none => effPlain 30 0 off v s

/-- A write of BIST (R587). -/
def effBist (off : Nat) (v : Word) (s : State) : Out :=
  if off = BIST.BT_CMD then effBtCmd v s
  else if off = BIST.FRPR_CMD then effFrprCmd v s
  else effPlain 31 0 off v s

/-! ## Any register -/

/-- The effect of a taken write of the register at an offset of instance `i` of a page family. -/
def effReg (r : Requester) (fam i off : Nat) (v : Word) (s : State) : Out :=
  if off < 0x040 then effHdr fam i off v s
  else match fam with
    | 0 => effSup r off v s
    | 1 => effPwr off v s
    | 3 => effRst off v s
    | 4 => effLcs r off v s
    | 5 => effEvt off v s
    | 6 => effProt off v s
    | 7 => effId off v s
    | 8 => effTherm off v s
    | 9 => effLrx r i off v s
    | 10 => effLtx i off v s
    | 11 => effCal off v s
    | 12 => effIfec i off v s
    | 13 => effOfec i off v s
    | 14 => effPort off v s
    | 15 => effHsl r i off v s
    | 16 => effClu i off v s
    | 17 => effPerf i off v s
    | 18 => effPart i off v s
    | 19 => effDawn i off v s
    | 20 => effTime off v s
    | 21 => effMem off v s
    | 22 => effDram off v s
    | 23 => effScrb off v s
    | 24 => effCap off v s
    | 25 => effRpl off v s
    | 26 => effTrc off v s
    | 27 => effCasc off v s
    | 28 => effHkadc off v s
    | 29 => effCdac off v s
    | 30 => effPwm off v s
    | 31 => effBist off v s
    | _ => effPlain fam i off v s

end Sys2Proof.Machine
end

