-- ==== Sys2Proof/Machine/Read.lean ====
section
/-! DEFINITION. What a register read returns (R11, R13, R415 to R417): the stored word, the latched copy, or a value formed at the read, and
what the read itself changes. -/

namespace Sys2Proof.Machine

/-- A word with a field set. -/
def withFld (w : Word) (f : Fld) (v : Nat) : Word := putBits w f.lo f.width v

/-- A Bool as a field's value. -/
def b2n (b : Bool) : Nat := if b then 1 else 0

/-- A word of a 64-bit value. -/
def half (v : BitVec 64) (hi : Bool) : Word := if hi then v.extractLsb' 32 32 else v.setWidth 32

/-- A read that changes nothing. -/
def State.look (s : State) (w : Word) : Word × State := (w, s)

/-! ## The header -/

/-- The common page header (R415, R416). -/
def State.readHdr (s : State) (fam i off : Nat) : Word :=
  let b := pageAt fam i
  let w := s.rd (b + off)
  if off = HDR.PAGE_ID then BitVec.ofNat 32 (fam * 2 ^ 24 + i * 2 ^ 16 + (b - 0x10000000) / 0x1000)
  else if off = HDR.PAGE_STAT then withFld w ⟨0, 0, 1⟩ (b2n (s.evtPend b != 0))
  else if off = HDR.EVT_PEND then s.evtPend b
  else w

/-! ## Power to thermal -/

/-- A read of SUP (R548, R581): the MPU region that MPU_SEL names. -/
def State.readSup (s : State) (off : Nat) (w : Word) : Word :=
  if SUP.MPU_BASE ≤ off ∧ off ≤ SUP.MPU_ATTR then
    Tbl.get 0 s.boot.mpu (4 * s.fld pSUP SUP.MPU_SEL.V + (off - SUP.MPU_BASE) / 4)
  else w

/-- A read of PWR (R494): REPLACED clears by the read of PWR_STAT. -/
def State.readPwr (s : State) (off : Nat) (w : Word) : Word × State :=
  (w, if off = PWR.PWR_STAT then s.setFld pPWR PWR.PWR_STAT.REPLACED 0 else s)

/-- A read of CLK (R467, R496): CG_STAT shows the clocks gated now; the two monitors measure, so their values are free. -/
def State.readClk (s : State) (off : Nat) (w : Word) : Word × State :=
  if off = CLK.REF_MON then let (v, s) := s.fresh; (BitVec.ofNat 32 (v % 2 ^ 24), s)
  else if off = CLK.CG_STAT then (s.gated, s)
  else if off = CLK.OSC_STAT then let (v, s) := s.fresh; (BitVec.ofNat 32 (v % 2 ^ 16), s)
  else (w, s)

/-- A read of EVT (R427, R428, R451). -/
def State.readEvt (s : State) (off : Nat) (w : Word) : Word :=
  if off = EVT.EV_STAT then withFld (withFld w EVT.EV_STAT.STAGING s.log.staging.length) EVT.EV_STAT.LOG_ACTIVE (b2n s.ringOpen)
  else if off = EVT.GRP_SUM_A then s.grpSum EVT.ROUTE_A
  else if off = EVT.GRP_SUM_B then s.grpSum EVT.ROUTE_B
  else if off = EVT.GRP_SUM_S then s.grpSum EVT.ROUTE_S
  else match elemOf off EVT.SRC_PEND 4 32 with
    | some g => s.srcPend g
    | none => w

/-- A read of PROT (R444, R445, R455). -/
def State.readProt (s : State) (off : Nat) (w : Word) : Word :=
  if off = PROT.PROP_STAT then withFld w PROT.PROP_STAT.PEER (b2n s.peerRatifies)
  else if off = PROT.PROP_LEFT then BitVec.ofNat 32 s.propLeft
  else w

/-- ID.CAP of a variant (R3, R584). -/
def State.capWord (s : State) : Word :=
  BitVec.ofNat 32 (s.dramSize / 0x40000000 * 2 ^ 24 + s.hosts * 2 ^ 16 + s.lines * 2 ^ 8 + b2n s.hasM400 * 2 ^ 4 + s.variant)

/-- A read of ID (R583, R584). -/
def State.readId (s : State) (off : Nat) (w : Word) : Word :=
  if off = ID.CAP then s.capWord
  else if off = ID.STEP then 0x00014201
  else if off = ID.CLMASK then (List.range 16).foldl (fun m c => if s.hasCluster c then m + BitVec.ofNat 32 (2 ^ c) else m) 0
  else if off = ID.DEV_ID_LO then half Config.devId false
  else if off = ID.DEV_ID_HI then half Config.devId true
  else w

/-! ## Lanes -/

/-- The register that ACT_SEL of a page names (R60). -/
def State.actSel (s : State) (b off : Nat) : Nat := (s.rd (b + off)).toNat

/-- A read of LRX[n] (R43, R60, R61, R76). -/
def State.readLrx (s : State) (n off : Nat) (w : Word) : Word :=
  let b := pLRX n
  if off = LRX.LN_STAT then
    let w := withFld w LRX.LN_STAT.SERVED (b2n (s.servedPage b))
    withFld w LRX.LN_STAT.SNR_OK (b2n (s.snrOk n))
  else if off = LRX.ACT_DATA then s.actData b (s.actSel b LRX.ACT_SEL)
  else w

/-- A read of LTX[n] (R43, R94, R97, R111). -/
def State.readLtx (s : State) (n off : Nat) (w : Word) : Word :=
  let b := pLTX n
  if off = LTX.TX_STAT then
    let pend := match (s.ltxSt n).rem with | some q => q.result.isNone | none => false
    let w := withFld w LTX.TX_STAT.PILOT_ON (b2n (s.pilotOn n))
    let w := withFld w LTX.TX_STAT.REM_PENDING (b2n pend)
    let w := withFld w LTX.TX_STAT.SKEW_MOVING (b2n (s.skewMoving n))
    withFld w LTX.TX_STAT.SERVED (b2n (s.servedPage b))
  else if off = LTX.ACT_DATA then s.actData b (s.actSel b LTX.ACT_SEL)
  else w

/-- The calibration unit whose registers stand at an offset (R152). -/
def calUnit (off : Nat) : Option Nat :=
  if CAL.U_STAT ≤ off ∧ off < CAL.U_REC + 0x40 then some ((off - CAL.U_STAT) / 4 % 16)
  else if CAL.RES_OFS ≤ off ∧ off < CAL.RES_OFS + 0x100 then some ((off - CAL.RES_OFS) / 16)
  else none

/-- A read of CAL (R121, R142, R153). -/
def State.readCal (s : State) (off : Nat) (w : Word) : Word :=
  if off = CAL.CAL_STAT then withFld w CAL.CAL_STAT.PAUSED_BO (b2n (s.brownOut && s.calOn))
  else match calUnit off with
    | none => w
    | some u =>
      if !s.unitHere u then 0
      else if off = CAL.U_STAT + 4 * u then
        let c := s.calCause u
        let w := putBits w 12 3 c
        if c ≠ 0 ∧ getBits w 0 3 = 0 then putBits w 0 3 6 else w
      else w

/-- A read of PORT (R43, R170, R197). -/
def State.readPort (s : State) (off : Nat) (w : Word) : Word :=
  match elemOf off PORT.PSTAT 4 8 with
  | some p =>
    let w := withFld w PORT.PSTAT.STATE (s.portState p)
    let w := withFld w PORT.PSTAT.FROZEN (b2n (s.frozen p))
    withFld w PORT.PSTAT.LANES_LOCKED (s.lanesLocked p)
  | none => w

/-- A read of HSL[m] (R205, R226). -/
def State.readHsl (s : State) (m off : Nat) (w : Word) : Word :=
  let b := pHSL m
  if portReg off ∧ s.hslPort m = none then 0
  else if off = HSL.RX_STAT then
    withFld (withFld w HSL.RX_STAT.SERVED (b2n (s.servedPage b))) HSL.RX_STAT.SNR_OK (b2n (s.hostSnrOk m))
  else if off = HSL.ACT_DATA then s.actData b (s.actSel b HSL.ACT_SEL)
  else w

/-! ## Clusters and links -/

/-- The engines of a cluster of which `p` holds. -/
def countEng (c : Nat) (p : Nat → Bool) : Nat := ((List.range 16).filter (fun e => p (16 * c + e))).length

/-- CL_STAT (R277). Its fields are read by their meanings from cold reset on: FREE then counts the 16 free engines, where the reset column of R276 has 0 (DESIGN CHOICE,
log entry 100). -/
def State.clStat (s : State) (c : Nat) : Word :=
  let running := countEng c fun k => s.coreState k == 1 || s.coreState k == 2
  let retired := countEng c fun k => s.coreState k == 4
  let free := countEng c fun k => s.rd (pCLU c + CLU.E_DUTY + 4 * (k % 16)) == 0 && s.coreState k != 4
  BitVec.ofNat 32 (running + 2 ^ 8 * retired + 2 ^ 16 * free + 2 ^ 24 * b2n (!(s.clu c).susp.isEmpty))

/-- E_STAT of engine `k` (R235, R244, R263, R277); LEVEL reads 0 in OFF. -/
def State.eStat (s : State) (k : Nat) (w : Word) : Word :=
  let w := putBits (putBits (putBits w 16 3 (s.faultCount k)) 4 1 (b2n (s.core k).tbusy)) 3 1 (if s.coreState k = 0 then 0 else (s.core k).level)
  if s.wakes k then putBits w 0 3 1 else w

/-- A read of CLU[c] (R249, R250, R276). -/
def State.readClu (s : State) (c off : Nat) (w : Word) : Word × State :=
  if off = CLU.CL_STAT then s.look (s.clStat c)
  else if off = CLU.SUP_MB_LO then s.look (mbLo (s.clu c).supMb)
  else if off = CLU.SUP_MB_HI then s.supMbHi c
  else if off = CLU.SUP_MB_STAT then s.look (putBits w 0 5 (s.clu c).supMb.length)
  else match elemOf off CLU.DMA_STAT 4 4 with
    | some ch => s.dmaStat c ch
    | none =>
      match elemOf off CLU.E_STAT 4 16, elemOf off CLU.E_PC 4 16 with
      | some e, _ => s.look (s.eStat (16 * c + e) w)
      | none, some e => s.look (s.core (16 * c + e)).pc
      | none, none => s.look w

/-- A read of PART[n] (R285, R297, R317). -/
def State.readPart (s : State) (n off : Nat) (w : Word) : Word × State :=
  if off = PART.PC_STAT then
    s.look (withFld (withFld w PART.PC_STAT.RX_ALIGNED (b2n (s.aligned n))) PART.PC_STAT.TX_ON (b2n (s.cellsOn n)))
  else if off = PART.FW_RX + 12 then s.popFw n
  else s.look w

/-- A read of DAWN[n] (R306, R321): in SEARCH the AGC tracks, in SYNC and later its shadow does, but for a brown-out warning (R311); what a tracked gain is, the
spec leaves open, and it is free (DESIGN CHOICE, log entry 28). -/
def State.readDawn (s : State) (n off : Nat) (w : Word) : Word × State :=
  let st := s.fld (pDAWN n) DAWN.DW_STAT.RX_STATE
  if off = DAWN.AGC ∧ st ≠ 0 ∧ !s.brownOut then
    let (v, s) := s.fresh
    let s := (s.setFld (pDAWN n) DAWN.AGC.SHADOW v).when (st == 1) fun s => s.setFld (pDAWN n) DAWN.AGC.GAIN (v / 1024)
    (s.rd (pDAWN n + DAWN.AGC), s)
  else (w, s)

/-! ## Time and memory -/

/-- A read of TIME (R343, R344, R349). -/
def State.readTime (s : State) (off : Nat) (w : Word) : Word × State :=
  if off = TIME.TM_CTRL ∧ s.cascTimed then s.look (withFld w TIME.TM_CTRL.SOURCE 3)
  else if off = TIME.TM_STAT then s.look (withFld w TIME.TM_STAT.CASC_SLAVE (b2n s.slave))
  else if off = TIME.PPS_IN_HI then s.ppsInHi
  else if off = TIME.TOD_RX then s.todRxPop
  else if off = TIME.TOD_STAT then
    s.look (withFld (withFld w TIME.TOD_STAT.TXN s.time.todTx.length) TIME.TOD_STAT.RXN s.time.todRx.length)
  else match elemOf off TIME.TT_INFO 32 8 with
    | some n => s.ttInfo n
    | none => s.look w

/-- A read of MEM (R372, R376, R383). -/
def State.readMem (s : State) (off : Nat) (w : Word) : Word :=
  if off = MEM.MEM_STAT then
    withFld (withFld w MEM.MEM_STAT.POISON_CNT s.ms.poison.length) MEM.MEM_STAT.SUSP_CNT s.ms.suspects.length
  else if off = MEM.POISON_ENT then
    match Tbl.find s.ms.poison (s.fld pMEM MEM.POISON_SEL.SEL) with
    | some k => BitVec.ofNat 32 k
    | none => 0xFFFFFFFF
  else
    let e := Tbl.find s.ms.suspects (s.fld pMEM MEM.SUSP_SEL.SEL)
    if off = MEM.SUSP_ENT then (match e with | some x => BitVec.ofNat 32 x.word | none => 0xFFFFFFFF)
    else if off = MEM.SUSP_INFO then (match e with | some x => BitVec.ofNat 32 (min x.rep 7 + 2 ^ 8 * x.pos) | none => 0)
    else w

/-- A read of DRAM (R381, R386). -/
def State.readDram (s : State) (off : Nat) (w : Word) : Word :=
  if off = DRAM.DR_STAT then withFld w DRAM.DR_STAT.SELF_REFRESH (b2n (!s.noon))
  else if off = DRAM.DR_SIZE then BitVec.ofNat 32 (s.dramSize / 0x8000000)
  else if off = DRAM.RPR_STAT then withFld w DRAM.RPR_STAT.BUSY (b2n (!s.ms.repairs.isEmpty))
  else if off = DRAM.RPR_ENT then
    match Tbl.find s.ms.spares (s.fld pDRAM DRAM.RPR_SEL.SEL) with
    | some row => BitVec.ofNat 32 (2 ^ 31 + row)
    | none => 0
  else w

/-- A read of HKADC (R516, R538). -/
def State.readHkadc (s : State) (off : Nat) (w : Word) : Word × State :=
  if off = HKADC.RQ_LO then s.look s.rqHead.1
  else if off = HKADC.RQ_HI then s.rqPop
  else if off = HKADC.RQ_STAT then s.look (withFld w HKADC.RQ_STAT.COUNT s.hk.queue.length)
  else s.look w

/-- A read of BIST (R576, R587): free fuse repairs. -/
def State.readBist (s : State) (off : Nat) (w : Word) : Word :=
  if off = BIST.FRPR_STAT then
    withFld (withFld w BIST.FRPR_STAT.V (32 - s.fusedDram)) BIST.FRPR_STAT.F8 (16 - s.fusedSram)
  else w

/-! ## Any register -/

/-- What the register at an offset of a page shows before its page adds to it: the latched copy on the pages that latch beside the live
value, else the stored word. -/
def State.stored (s : State) (fam i off : Nat) : Word :=
  let a := pageAt fam i + off
  match Tbl.find s.latched a with
  | some w => w
  | none => s.rd a

/-- A read of the register at an offset of instance `i` of a page family: the word, and the state after the read's own effect. An unlisted
offset and a write-only register read 0 (R11, R13). CC_STAT.ROLE tells the strap from cold reset on, where the reset column of R586 has 0 (DESIGN CHOICE, log entry 100). -/
def State.readReg (s : State) (fam i off : Nat) : Word × State :=
  match findRow fam off with
  | none => s.look 0
  | some row =>
    if row.acc = .wo then s.look 0
    else if off < 0x040 then s.look (s.readHdr fam i off)
    else
      let w := s.stored fam i off
      match fam with
      | 0 => s.look (s.readSup off w)
      | 1 => s.readPwr off w
      | 2 => s.readClk off w
      | 5 => s.look (s.readEvt off w)
      | 6 => s.look (s.readProt off w)
      | 7 => s.look (s.readId off w)
      | 9 => s.look (s.readLrx i off w)
      | 10 => s.look (s.readLtx i off w)
      | 11 => s.look (s.readCal off w)
      | 14 => s.look (s.readPort off w)
      | 15 => s.look (s.readHsl i off w)
      | 16 => s.readClu i off w
      | 18 => s.readPart i off w
      | 19 => s.readDawn i off w
      | 20 => s.readTime off w
      | 21 => s.look (s.readMem off w)
      | 22 => s.look (s.readDram off w)
      | 23 => s.look (if off = SCRB.SC_STAT then withFld w SCRB.SC_STAT.PAUSED_BO (b2n s.brownOut) else w)
      | 24 => s.look (if off = CAP.CP_STAT then withFld w CAP.CP_STAT.PAUSE s.capPause else w)
      | 27 => s.look (if off = CASC.CC_STAT then withFld w CASC.CC_STAT.ROLE (b2n (!s.slave)) else w)
      | 28 => s.readHkadc off w
      | 31 => s.look (s.readBist off w)
      | _ => s.look w

end Sys2Proof.Machine
end

