-- ==== Sys2Proof/Machine/HostIf.lean ====
section
/-! DEFINITION. Transactions at any address (R412, R420, R570), the row REGISTER_WRITE, and the host's interfaces: SPI frames (R421 to R425) and the
MDIO window (R426). -/

namespace Sys2Proof.Machine

/-! ## Transactions -/

/-- A requester whose writes are gathered into code words (R420). -/
def gathering (r : Requester) : Bool :=
  match r with
  | .spi => true | .mdio => true | .sup => true | .cascHost => true | .cascSup => true | _ => false

/-- An address in the supervisor's own SRAM (R352, R412). -/
def inSupSram (a : Nat) : Bool := decide (0x08000000 ≤ a) && decide (a < 0x08080000)

/-- What stands before a transaction (R420, R424, R628): unless it is the next write of what its requester has gathered, that issues. The
transaction is not performed where this traps the supervisor or fails an SPI frame. -/
def State.startTxn (s : State) (r : Requester) (a : Nat) (write : Bool) : State × Bool :=
  if write && s.continues r a then (s, true)
  else
    let (s, trapped) := s.issueNarrow r
    (s, !trapped && !(r == .spi && s.spi.inFrame && s.spi.err.isSome))

/-- Bytes written to a memory: the supervisor's own SRAM merges (R360), other writes of the gathering requesters gather (R420). -/
def State.memStore (s : State) (r : Requester) (a : Nat) (l : List Byte) (first : Nat) : Out :=
  if r = .sup ∧ inSupSram a then
    if s.mapAllows 0x02 32 then s.supMerge a l else .err 6 (s.raiseBy PROT.evPROT_DENIED 0 0x02)
  else if gathering r then s.gatherWrite r a l first
  else s.memWrite r a l

/-- A write of bytes at an address (R412, R413, R629): a register takes 4. -/
def State.place (s : State) (r : Requester) (a : Nat) (l : List Byte) (first : Nat) : Out :=
  if a % 4 ≠ 0 then .err 10 s
  else match s.region r a with
    | .page fam i off =>
      let v : Word := BitVec.ofNat 32 (ofBytes l)
      s.gate (s.master r) fam i off v (effReg r fam i off v)
    | .mem _ _ => s.memStore r a l first
    | .rom => .err 8 s
    | .peer => .ok (s.forward r a (some l) none)
    | .none => .err 5 s

/-- A read of 32 bits at an address, the peer's excepted (R412, R413, R629). `bits` are the cells of a code word found flipped. -/
def State.fetch (s : State) (r : Requester) (a : Nat) (bits : List Nat) : State × RdOut :=
  if a % 4 ≠ 0 then (s, .err 10)
  else match s.region r a with
    | .page fam i off => let (w, s) := s.readReg fam i off; (s, .data w.toNat)
    | _ => s.memRead r a bits

/-- REGISTER_WRITE (R11): a write of a 32-bit word at an address by a requester. -/
def execRegisterWrite (r : Requester) (a : Nat) (v : Word) (s : State) : R :=
  let (s, go) := s.startTxn r a true
  if go then finish r a (s.place r a (toBytes 4 v.toNat) 0) else .next s

/-! ## SPI (R421 to R425) -/

/-- CS_N rises (R420, R421, R424): what was gathered issues as a narrow write, and the frame's first failure waits for the next
leading status. -/
def State.spiEnd (s : State) : State :=
  if s.spi.inFrame then
    let s := (s.issueNarrow .spi).1
    { s with spi := { s.spi with inFrame := false, prevErr := s.spi.err, tags := [], todo := [] } }
  else s

/-- CS_N falls and the command byte is sent (R421, R422, R480): wake source 1, and the leading status byte. A frame still open has
ended. -/
def State.spiOpen (s : State) : State :=
  let s := s.spiEnd.wake 1
  { s with spi := { s.spi with inFrame := true, word := 0, err := none, miso := [s.spiByte s.spi.prevErr] } }

/-- The words of a WRITE frame (R421, R424): each is one transaction, until one fails. -/
def State.spiWrites (inc : Bool) : List Word → Nat → State → State
  | [], _, s => s
  | v :: t, a, s =>
    let (s, go) := s.startTxn .spi a true
    if !go then s
    else
      let s := State.settle .spi a (s.place .spi a (toBytes 4 v.toNat) s.spi.word)
      if s.spi.err.isSome then s
      else State.spiWrites inc t (if inc then (a + 4) % 2 ^ 32 else a) { s with spi := { s.spi with word := s.spi.word + 1 } }

/-- The words of a READ frame (R423, R424): one at a time, until a transaction fails, after which each word is sent with ERR and
data 0. A word of the cascade peer leaves the rest waiting for it. -/
def State.spiReads : List (Nat × List Nat) → State → State
  | [], s => s
  | (a, bits) :: t, s =>
    match s.spi.err with
    | some c => State.spiReads t (s.spiSend (some c) 0)
    | none =>
      let (s, go) := s.startTxn .spi a false
      if !go then State.spiReads t (s.spiSend s.spi.err 0)
      else if a % 4 = 0 ∧ s.region .spi a = .peer then
        { s.forward .spi a none none with spi := { (s.forward .spi a none none).spi with todo := t } }
      else match s.fetch .spi a bits with
        | (s, .data v) =>
          let w : Word := BitVec.ofNat 32 v
          State.spiReads t ((s.deliver (s.respKey .spi) v).spiSend none w)
        | (s, .err c) => State.spiReads t (((s.deliver (s.respKey .spi) 0).reportErr .spi c a).spiSend (some c) 0)

/-- The reads that waited for one of the cascade peer go on. -/
def State.spiGoOn (s : State) : State :=
  if s.spi.inFrame && s.spi.tags.isEmpty && !s.spi.todo.isEmpty then
    State.spiReads s.spi.todo { s with spi := { s.spi with todo := [] } }
  else s

/-- SPI_WRITE (R421): a WRITE frame's command, address and whole data words. -/
def execSpiWrite (inc : Bool) (a : Word) (words : List Word) (s : State) : R :=
  .next (State.spiWrites inc words a.toNat s.spiOpen)

/-- The addresses of a READ frame's words. -/
def readAddrs (inc : Bool) (a : Nat) (flips : List (List Nat)) : Nat → List (Nat × List Nat)
  | 0 => []
  | n + 1 => (a, flips.headD []) :: readAddrs inc (if inc then (a + 4) % 2 ^ 32 else a) flips.tail n

/-- SPI_READ (R423, R425): a READ frame of which `n` words were fetched. `flips` gives, word by word, the cells of a code word found
flipped. -/
def execSpiRead (inc : Bool) (a : Word) (n : Nat) (flips : List (List Nat)) (s : State) : R :=
  .next (State.spiReads (readAddrs inc a.toNat flips n) s.spiOpen)

/-- SPI_STATUS (R422): a STATUS frame. -/
def execSpiStatus (s : State) : R := .next s.spiOpen

/-- SPI_RESERVED_OP (R421): OP 0b11 fails REFUSED at address 0, word 0. -/
def execSpiReservedOp (s : State) : R := .next (s.spiOpen.spiFail 8 0 0)

/-- SPI_FRAME_END (R421). -/
def execSpiFrameEnd (s : State) : R := .next s.spiEnd

/-! ## MDIO (R426) -/

/-- A Clause 45 frame to MMD 30 of a port address: one addressed to this device is wake source 2 (R480); others are not for it. -/
def onMdio (port : Fin 32) (f : State → State) (s : State) : R :=
  if port.val = s.boot.prtad then .next (f (s.wake 2)) else .next s

/-- A read issued through the window is in progress. -/
def State.mdioReading (s : State) : Bool :=
  (match s.mdio.pend with | some (_, none) => true | _ => false) || s.casc.fwds.any (fun f => f.req == .mdio && f.read)

/-- STAT of the window. -/
def State.mdioStat (s : State) : BitVec 16 :=
  BitVec.ofNat 16 ((if s.mdio.busy then 2 ^ 15 else 0) + (match s.mdio.err with | some c => 2 ^ 14 + 2 ^ 10 * (c % 16) | none => 0)
    + (if s.intB then 2 else 0) + (if s.intA then 1 else 0))

/-- A register of the window; others read 0. -/
def State.mdioReg (s : State) (k : Nat) : BitVec 16 :=
  match k with
  | 0 => s.mdio.addr.setWidth 16
  | 1 => s.mdio.addr.extractLsb' 16 16
  | 2 => s.mdio.dataLo
  | 3 => s.mdio.dataHi
  | 4 => (if s.mdioReading then 1 else 0) + (if s.mdio.inc then 2 else 0)
  | 5 => s.mdioStat
  | _ => 0

/-- A read frame: the register to the host; the read of STAT clears ERR. -/
def State.mdioRead (s : State) : State :=
  let m := { s.mdio with out := s.mdioReg s.mdio.regAddr }
  { s with mdio := if s.mdio.regAddr = 5 then { m with err := none } else m }

/-- The window issues a transaction: BUSY, and the address moves on with INC. -/
def State.mdioIssue (s : State) (data : Option Word) : State :=
  let a := s.mdio.addr
  { s with mdio := { s.mdio with busy := true, pend := some (a, data), addr := if s.mdio.inc then a + 4 else a } }

/-- A write frame: while BUSY it is ignored and sets ERR with cause REFUSED. A write of ADDR ends gathering (R420, R628). -/
def State.mdioWrite (s : State) (v : BitVec 16) : State :=
  if s.mdio.busy then
    { s with mdio := { s.mdio with err := match s.mdio.err with | some c => some c | none => some 8 } }
  else match s.mdio.regAddr with
    | 0 =>
      let s := (s.issueNarrow .mdio).1
      { s with mdio := { s.mdio with addr := s.mdio.addr.extractLsb' 16 16 ++ v } }
    | 1 =>
      let s := (s.issueNarrow .mdio).1
      { s with mdio := { s.mdio with addr := v ++ (s.mdio.addr.setWidth 16 : BitVec 16) } }
    | 2 => { s with mdio := { s.mdio with wrLo := v } }
    | 3 => s.mdioIssue (some (v ++ s.mdio.wrLo))
    | 4 =>
      let s := { s with mdio := { s.mdio with inc := v.getLsbD 1 } }
      s.when (v.getLsbD 0) fun s => s.mdioIssue none
    | _ => s

/-- MDIO_ADDRESS_FRAME (R426). -/
def execMdioAddressFrame (port : Fin 32) (reg : BitVec 16) (s : State) : R :=
  onMdio port (fun s => { s with mdio := { s.mdio with regAddr := reg.toNat } }) s

/-- MDIO_WRITE_FRAME (R426). -/
def execMdioWriteFrame (port : Fin 32) (v : BitVec 16) (s : State) : R := onMdio port (fun s => s.mdioWrite v) s

/-- MDIO_READ_FRAME (R426). -/
def execMdioReadFrame (port : Fin 32) (s : State) : R := onMdio port State.mdioRead s

/-- MDIO_POST_READ_INC_FRAME (R426): the address stays at 65,535 (PRESUMED, log entry 43). -/
def execMdioPostReadIncFrame (port : Fin 32) (s : State) : R :=
  onMdio port (fun s =>
    let s := s.mdioRead
    { s with mdio := { s.mdio with regAddr := min (s.mdio.regAddr + 1) 65535 } }) s

/-- A transaction of the window is performed (R420, R426): on the cascade peer it is forwarded and BUSY stays. -/
def State.mdioDone (s : State) (a : Word) (data : Option Word) (bits : List Nat) : State :=
  let n := a.toNat
  let (s, _) := s.startTxn .mdio n data.isSome
  let s := { s with mdio := { s.mdio with pend := none } }
  if n % 4 = 0 ∧ s.region .mdio n = .peer then s.forward .mdio n (data.map (fun v => toBytes 4 v.toNat)) none
  else match data with
    | some v =>
      match s.place .mdio n (toBytes 4 v.toNat) 0 with
      | .ok s => s.mdioEnd false 0 0 a
      | .err c s => s.mdioEnd false c 0 a
    | none =>
      match s.fetch .mdio n bits with
      | (s, .data v) => (s.deliver 1 v).mdioEnd true 0 (BitVec.ofNat 32 v) a
      | (s, .err c) => (s.deliver 1 0).mdioEnd true c 0 a

/-- MDIO_TRANSACTION_DONE (R426). `bits` are the cells of a code word found flipped. -/
def execMdioTransactionDone (bits : List Nat) (s : State) : R :=
  match s.mdio.pend with
  | some (a, data) => .next (s.mdioDone a data bits)
  | none => .next s

/-! ## No answer (R419, R423) -/

/-- BUS_TIMEOUT (R419): 10 µs without an answer to a requester's oldest transaction under way: one forwarded to the cascade peer, that of the
MDIO window, or one that it issues now. -/
def execBusTimeout (r : Requester) (a : Word) (read : Bool) (s : State) : R :=
  match s.casc.fwds.find? (fun f => f.req == r) with
  | some f =>
    let s := { s with casc := { s.casc with fwds := s.casc.fwds.filter (fun g => g.tag != f.tag) } }
    .next (s.fwdEnd f 9 0)
  | none =>
    match r, s.mdio.pend with
    | .mdio, some (a, data) => .next (s.mdioEnd data.isNone 9 0 a)
    | _, _ =>
      let (s, go) := s.startTxn r a.toNat false
      if !go then .next s
      else
        let s := s.when read fun s => s.deliver (s.respKey r) 0
        .next (s.reportErr r 9 a.toNat)

end Sys2Proof.Machine
end

