-- ==== Sys2Proof/Machine/Casc.lean ====
section
/-! DEFINITION. Frames received on the cascade link (R344, R564, R567 to R570). -/

namespace Sys2Proof.Machine

/-! ## The link -/

/-- Resend from the oldest unacknowledged frame; after 16 resends without progress the link is down (R568). -/
def State.cascResend (s : State) : State :=
  if s.casc.unacked.isEmpty then s
  else
    let n := s.casc.resends + 1
    let s := s.addSat pCASC CASC.CNT_LINK.V 1
    if 16 ≤ n then s.linkDown
    else ({ s with casc := { s.casc with resends := n } }.startClock clkResend).framesOut s.casc.unacked

/-- A frame acknowledges what it names, and gives CREDIT (R568). -/
def State.cascAck (s : State) (f : CFrame) : State :=
  let l := s.casc.unacked
  let s := if l.any (fun g => g.seq == f.ack) then
      { s with casc := { s.casc with unacked := (l.dropWhile (fun (g : CFrame) => g.seq != f.ack)).tail, resends := 0 } }.startClock clkResend
    else s
  ({ s with casc := { s.casc with credit := f.credit } }).cascPump

/-- A frame arrives while the link may carry frames (R568): a CRC that fails or a gap in SEQ resends at once, a frame seen before only
acknowledges, and the next in order acts. -/
def onFrame (f : CFrame) (crc : Word) (act : State → State) (s : State) : R :=
  if !s.cascOn then .next s
  else if crc.toNat ≠ crc32 (frameBytes f) then .next ((s.addSat pCASC CASC.CNT_LINK.CRC 1).cascResend)
  else if !s.linkUp then .next s
  else
    let d := (f.seq + 256 - s.casc.rxSeq) % 256
    if d = 0 then .next (act (({ s with casc := { s.casc with rxSeq := (f.seq + 1) % 256 } }).cascAck f))
    else if 128 ≤ d then .next (s.cascAck f)
    else .next (s.cascAck f).cascResend

/-! ## Forwarded transactions (R570, R628) -/

/-- The requester of a forwarded transaction by its master code. -/
def cascReq (m : Nat) : Requester := if m = 5 then .cascHost else .cascSup

/-- Perform a forwarded transaction: its status, the word read, and the state. A failure of what was gathered before is
this frame's (R628). -/
def State.cascPerform (s : State) (f : CFrame) (write : Bool) : Nat × Nat × State :=
  let r := cascReq f.master
  let a := f.addr.toNat
  let k := if f.master = 5 then 5 else 6
  let s := (s.wake 6).startTxn r a write |>.1
  let before := Tbl.get 0 s.cascStatus k
  let forget (s : State) : State := { s with cascStatus := Tbl.erase s.cascStatus k }
  let status (c : Nat) : Nat := if before = 0 then c else before
  if write then
    match s.place r a f.payload 0 with
    | .ok s => (status 0, 0, forget s)
    | .err c s => (status c, 0, forget (s.reportErr r c a))
  else match s.fetch r a [] with
    | (s, .data v) => (status 0, v, forget s)
    | (s, .err c) => (status c, 0, forget (s.reportErr r c a))

/-- CASC_WR (R567, R570): a forwarded write, answered by an RSP. -/
def execCascWr (f : CFrame) (crc : Word) (s : State) : R :=
  let f := { f with type := 1 }
  onFrame f crc (fun s =>
    let (status, _, s) := s.cascPerform f true; s.cascSend 3 f.addr f.tag f.master status []) s

/-- CASC_RD (R567, R570): a forwarded read, answered by an RSP with the word read. -/
def execCascRd (f : CFrame) (crc : Word) (s : State) : R :=
  let f := { f with type := 2 }
  onFrame f crc (fun s =>
    let (status, w, s) := s.cascPerform f false; s.cascSend 3 f.addr f.tag f.master status (toBytes 4 w)) s

/-- The slave's answer to GO (R564): READY, or the container rejected. -/
def State.loadAnswer (s : State) (status : Nat) : State :=
  let s := { s with casc := { s.casc with loading := none } }
  if status = 0 then s.setFld pCASC CASC.CC_STAT.PEER_LOADED 1
  else ({ s with casc := { s.casc with lastLoad := none } }).raise CASC.evLOAD_FAIL 0

/-- CASC_RSP (R567, R570): the forwarded transaction of its TAG ends with the frame's STATUS, or the slave's load does. -/
def execCascRsp (f : CFrame) (crc : Word) (s : State) : R :=
  let f := { f with type := 3 }
  onFrame f crc (fun s =>
    if s.casc.loading = some f.tag ∧ !s.slave then s.loadAnswer f.status
    else match s.casc.fwds.find? (fun g => g.tag == f.tag) with
      | some g =>
        let s := { s with casc := { s.casc with fwds := s.casc.fwds.filter (fun h => h.tag != f.tag) } }
        (s.fwdEnd g f.status (BitVec.ofNat 32 (ofBytes (f.payload.take 4)))).spiGoOn
      | none => s) s

/-! ## Loading the slave (R564) -/

/-- CASC_LOAD (R564, R567): whole code words into the slave's DRAM. -/
def execCascLoad (f : CFrame) (crc : Word) (s : State) : R :=
  let f := { f with type := 4 }
  onFrame f crc (fun s =>
    let a := f.addr.toNat
    let n := f.payload.length
    if s.slave && a % 32 == 0 && n % 32 == 0 && s.inDram a n then s.putDram a f.payload else s) s

/-- The slave accepts the container in its DL area and runs it (R564): at once in the ROM, else over a reset of its group SUPERVISOR and the
warm path of R552. -/
def State.cascGo (s : State) (tag : Nat) : State :=
  let l := s.containerAt 0x42000000
  let v := s.accept l
  if v ≠ 0 then (s.rejectImg v).cascSend 3 0 tag 0 8 []
  else
    let s := { s with casc := { s.casc with loading := some tag } }
    if s.stage ≤ 1 ∨ s.stage = 6 then (s.putDram work0 l).startFw work0 l (decide (4 ≤ s.upStage))
    else
      let base := s.spareWork
      let s := s.putDram base l
      let s := { s with boot := { s.boot with work := some base }, pwr := { s.pwr with groups := s.pwr.groups ++ [40] } }
      (s.setFld pRST RST.GRP_STAT.BUSY 1).resetGroup 40

/-- CASC_GO (R564). -/
def execCascGo (f : CFrame) (crc : Word) (s : State) : R :=
  let f := { f with type := 5 }
  onFrame f crc (fun s => if s.slave then (s.wake 6).cascGo f.tag else s) s

/-- CASC_WARM (R468, R564): the master asks for a warm reset of the slave. -/
def execCascWarm (f : CFrame) (crc : Word) (s : State) : R :=
  let f := { f with type := 9 }
  onFrame f crc (fun s => if s.slave then (s.wake 6).warmReset 2 else s) s

/-! ## HELLO, EVT and TIME -/

/-- HELLOs have crossed (R569): the link is up, and the master loads a slave whose cold-boot count `n` is not that of its last load. -/
def State.cascUp (s : State) (n : Nat) : State :=
  let s := (s.setFld pCASC CASC.CC_STAT.LINK_UP 1).raise CASC.evCASC_UP 0
  let due := !s.slave && s.casc.lastLoad != some n && decide (4 ≤ s.upStage)
  s.when due fun s => s.cascLoad false

/-- The cold-boot count that a HELLO carries. -/
def helloBoots (f : CFrame) : Nat := ofBytes ((f.payload.drop 9).take 4)

/-- What a HELLO tells (R569, R586): the peer's identity and cold-boot count; a count that has changed raises PEER_RESTART. -/
def State.peerIs (s : State) (f : CFrame) : State :=
  let n := helloBoots f
  let s := s.wr (pCASC + CASC.PEER_ID_LO) (BitVec.ofNat 32 (ofBytes (f.payload.take 4)))
  let s := s.wr (pCASC + CASC.PEER_ID_HI) (BitVec.ofNat 32 (ofBytes ((f.payload.drop 4).take 4)))
  let s := s.setFld pCASC CASC.CC_STAT.F8 n
  let again : Bool := match s.casc.peerBoots with | some m => m != n | none => false
  let s := { s with casc := { s.casc with rxSeq := (f.seq + 1) % 256, helloRx := true, peerBoots := some n } }
  s.when again fun s => s.raise CASC.evPEER_RESTART 0

/-- A HELLO acts (R569). -/
def State.hello (s : State) (f : CFrame) : State :=
  let s := (s.peerIs f).sendHello.cascAck f
  s.when (s.casc.helloTx && !s.linkUp) fun s => s.cascUp (helloBoots f)

/-- CASC_HELLO (R569): over a link that is up, one that names the same cold-boot count is a frame seen before, another restarts the link. -/
def execCascHello (f : CFrame) (crc : Word) (s : State) : R :=
  let f := { f with type := 6 }
  if !s.cascOn then .next s
  else if crc.toNat ≠ crc32 (frameBytes f) then .next ((s.addSat pCASC CASC.CNT_LINK.CRC 1).cascResend)
  else if s.linkUp then
    if s.casc.peerBoots = some (helloBoots f) then .next (s.cascAck f) else .next (s.linkDown.hello f)
  else .next (s.hello f)

/-- CASC_EVT (R570): an EVT frame that reports the slave's INT_A_N asserted raises PEER_INT on the master. -/
def execCascEvt (f : CFrame) (crc : Word) (s : State) : R :=
  let f := { f with type := 7 }
  onFrame f crc (fun s =>
    let on := (f.payload.headD 0).getLsbD 0
    s.when (on && !s.slave) fun s => s.raise EVT.evPEER_INT 0) s

/-- CASC_TIME (R344): the slave's counter, QUALITY and increment follow the master's. The payload holds them in that order (DESIGN CHOICE, log
entry 36). -/
def execCascTime (f : CFrame) (crc : Word) (s : State) : R :=
  let f := { f with type := 8 }
  onFrame f crc (fun s =>
    if s.slave && s.time.running then
      let v := ofBytes (f.payload.take 10)
      let q := ofBytes ((f.payload.drop 10).take 1) % 8
      let i := ofBytes ((f.payload.drop 11).take 5)
      ((s.moveTo s.time.now (v : Int)).setQuality q).when (i != 0) fun s => s.setIncr i
    else s) s

/-- CASC_RESEND_TIMEOUT (R568): time runs to 20 µs without an ACK of a frame sent. -/
def execCascResendTimeout (s : State) : R :=
  if s.cascOn && !s.casc.unacked.isEmpty then .next (s.elapse clkResend 12500).cascResend else .next s

/-- An EVT frame with the slave's interrupt levels (R570): [0] INT_A_N asserted, [1] INT_B_N. -/
def State.sendEvt (s : State) : State :=
  let v := (if s.intA then 1 else 0) + (if s.intB then 2 else 0)
  ({ s with casc := { s.casc with shown := v } }.startClock clkEvt).cascSend 7 0 0 0 0 [BitVec.ofNat 8 v]

/-- CASC_EVT_INTERVAL (R570): time runs to 1 ms after the last EVT frame on a slave while a pin is asserted. -/
def execCascEvtInterval (s : State) : R :=
  if s.slave && s.linkUp && (s.intA || s.intB) then .next (s.elapse clkEvt 625000).sendEvt else .next s

/-- The slave sends an EVT frame at every change of a pin (R570). -/
def State.evtChange (s : State) : State :=
  let v := (if s.intA then 1 else 0) + (if s.intB then 2 else 0)
  if s.slave && s.linkUp && v != s.casc.shown then s.sendEvt else s

/-- The master of a cascade tells its time (R344): after a steering operation has applied, and when its increment or QUALITY is not what it told
last (DESIGN CHOICE, log entry 36). -/
def State.tellTime (s : State) : State :=
  let now := (s.incr, s.quality)
  if !s.slave && s.linkUp && s.time.running && (s.time.tell || s.casc.told != now) then
    ({ s with time := { s.time with tell := false }, casc := { s.casc with told := now } }).cascSend 8 0 0 0 0
      (toBytes 10 s.time.now ++ [BitVec.ofNat 8 s.quality] ++ toBytes 5 s.incr)
  else s

end Sys2Proof.Machine
end

