-- ==== Sys2Proof/Machine/EngMem.lean ====
section
/-! DEFINITION. Loads, stores and atomic operations of the engines (R238, R241, R246, R247, R258 to R260, R399) and of the supervisor (R420, R548, R570),
and WAIT (R244, R472). An access is described by the byte addresses it touches, lowest byte of the value first. -/

namespace Sys2Proof.Machine

/-! ## The engine's address space (R246) -/

/-- What stands at an engine address. -/
inductive ESpace where
  | iram
  | ram (off : Nat)
  | sram (off : Nat)
  | lcb (off : Nat)
  | port (t off : Nat)
  | perf (off : Nat)
  | bus
  | none
deriving DecidableEq, Repr

/-- The engine memory map (R246). -/
def eSpace (a : Nat) : ESpace :=
  if a < 0x4000 then .iram
  else if 0x10000 ≤ a ∧ a < 0x14000 then .ram (a - 0x10000)
  else if 0x20000 ≤ a ∧ a < 0x60000 then .sram (a - 0x20000)
  else if 0x80000 ≤ a ∧ a < 0x81000 then .lcb (a - 0x80000)
  else if 0x90000 ≤ a ∧ a < 0x98000 then .port ((a - 0x90000) / 0x1000) (a % 0x1000)
  else if 0xA0000 ≤ a ∧ a < 0xA1000 then .perf (a - 0xA0000)
  else if 0x10000000 ≤ a ∧ a < 0x20000000 then .bus
  else .none

/-- The effective address of a load, store or atomic operation (R240). -/
def Core.ea (c : Core) (base : Nat) (off : BitVec 16) : Nat := (c.gr base + off.signExtend 32).toNat

/-- The trap that stops a task-level access to a byte (R238, R243): ACCESS outside the window, PRIV for what its permissions exclude. -/
def Core.taskStop (c : Core) (sp : ESpace) (write : Bool) : Option Nat :=
  if c.level ≠ 0 then none
  else match sp with
    | .sram o => if c.winBase.toNat ≤ o ∧ o < c.winLimit.toNat + 64 then none else some 4
    | .lcb o => if c.taskPerm.getLsbD (if o < 0x200 then 3 else if o < 0x300 then 2 else 1) then none else some 1
    | .port _ _ => if c.taskPerm.getLsbD 0 then none else some 1
    | .perf _ => if !write && c.taskPerm.getLsbD 4 then none else some 1
    | .bus => some 1
    | _ => none

/-- The trap that stops an engine's access to a byte (R230, R246). -/
def State.byteStop (s : State) (k : Nat) (write : Bool) (b : Nat) : Option Nat :=
  match eSpace b with
  | .iram => some 4
  | .none => some 4
  | .port t o => if (targetPage (s.homeOf k) t).isNone then some 4 else (s.core k).taskStop (.port t o) write
  | sp => (s.core k).taskStop sp write

/-- The trap that stops an engine's access before it is made: code and TADDR (R243). Alignment is judged first (R629), then the map and
the level, then the width of a store to shared SRAM (R247; the order DEDUCED). -/
def State.eStop (s : State) (k al a : Nat) (write : Bool) (l : List Nat) : Option (Nat × Word) :=
  if a % al ≠ 0 then some (2, BitVec.ofNat 32 a)
  else match l.findSome? (s.byteStop k write) with
    | some 1 => some (1, 0)
    | some c => some (c, BitVec.ofNat 32 a)
    | none =>
      match eSpace a with
      | .sram _ => if write && decide (l.length < 8) then some (3, BitVec.ofNat 32 a) else none
      | _ => none

/-- Engine `k` as a requester. -/
def engReq (k : Nat) : Requester := .engine (k / 16) (k % 16)

/-- The word of an engine's own data RAM at an offset. -/
def ownRam (k o : Nat) : Nat × Nat := (10 + 3 * (k / 16), 2048 * (k % 16) + o / 8)

/-- The word of the shared SRAM that an engine sees at an offset (R234, R246). -/
def State.seenSram (s : State) (k o : Nat) : Nat × Nat := (8 + 3 * s.homeOf k, o / 8)

/-- A read of a word of an engine's RAMs by its own load unit, with the performance events it causes (R270). -/
def State.ramRead (s : State) (k code a : Nat) (w : Nat × Nat) (bits : List Nat) : State × RdOut :=
  let ce := s.ceHere w.1 w.2 bits
  let (s, x) := s.readWord (s.master (engReq k)) w.1 w.2 bits
  ((s.perfInstr k code (some a) 1).when ce (fun s => s.perfInstr k 0x43 (some a) 1), x)

/-! ## The local control block (R250) -/

/-- The channel whose register stands `d` above DMA_START. -/
def lcbDma (o d : Nat) : Option Nat := elemOf o (0x200 + d) 16 4

/-- A read of a register of the local control block; what R250 does not list reads 0 (DEDUCED from R13). -/
def State.lcbRead (s : State) (k o : Nat) : Word × State :=
  if o = 0x000 then (mbLo (s.core k).mbox, s)
  else if o = 0x004 then s.mbRxHi k
  else if o = 0x008 then s.mbStat k
  else if o = 0x300 then ((s.clu (s.homeOf k)).tapCtrl, s)
  else if o = 0x304 then ((s.clu (s.homeOf k)).tapDst, s)
  else if o = 0x30C then s.tapStatRead k
  else match lcbDma o 4 with
    | some ch => s.dmaStat (s.homeOf k) ch
    | none => (0, s)

/-- The outcome of a store: done; a trap; stalled (R260); the supervisor's trap for an earlier store already taken (R628). -/
inductive StOut where
  | ok (s : State)
  | trap (code : Nat) (s : State)
  | stall (s : State)
  | done (s : State)

/-- A bus write as part of a store: an error is the BUS trap (R243). -/
def StOut.ofOut : Out → StOut
  | .ok s => .ok s
  | .err _ s => .trap 5 s

/-- What a register of the local control block, which is no register page, takes: free where a reserved bit is written (R13, R447; DESIGN
CHOICE, log entry 90). -/
def lcbTaken (mask o : Nat) (v : Word) : Word :=
  let m : Word := BitVec.ofNat 32 mask
  if v &&& ~~~m = 0 then v else Config.reservedWrite o v &&& m

/-- A write of a register of the local control block. -/
def State.lcbWrite (s : State) (k o : Nat) (v : Word) : StOut :=
  let h := s.homeOf k
  if o = 0x300 then
    .ok (s.modClu h fun u => { u with tapCtrl := lcbTaken 0xFFF1FF77 o v })
  else if o = 0x304 then
    .ok (s.modClu h fun u => { u with tapDst := lcbTaken 0x3FFC0 o v })
  else if o = 0x308 then .ok (s.tapGo k)
  else match lcbDma o 0, lcbDma o 8 with
    | some ch, _ => .ok (s.dmaStart k ch (lcbTaken 0x3FFE0 o v).toNat)
    | none, some ch => .ok (s.dmaCancel h ch)
    | none, none => .ok s

/-- A message stored to MB_SEND[e] or MB_SUP (R249). -/
def State.lcbMsg (s : State) (k o : Nat) (m : BitVec 64) : State :=
  match elemOf o 0x100 8 16 with
  | some e => s.engSend k (some e) m
  | none => if o = 0x180 then s.engSend k none m else s

/-! ## The coefficient port (R258 to R260, R399) -/

/-- A read of the replay datapath's replica (R399): its shadow bank, COMMIT_STAT and ACT_DATA; the spec states no value for the rest of
its registers, which read free. -/
def State.replicaRead (s : State) (page o : Nat) : Word × State :=
  let sel := (Tbl.get 0 s.rpl.shadow LRX.ACT_SEL : Word).toNat
  if (groupOf 9 o).isSome then (Tbl.get (regReset (page + o)) s.rpl.shadow o, s)
  else if o = LRX.ACT_SEL then (Tbl.get 0 s.rpl.shadow o, s)
  else if o = LRX.COMMIT_STAT then (BitVec.ofNat 32 s.rpl.groups, s)
  else if o = LRX.ACT_DATA then
    (if (groupOf 9 sel).isSome then Tbl.get (regReset (page + sel)) s.rpl.inForce sel else 0, s)
  else let (v, s) := s.fresh; (BitVec.ofNat 32 v, s)

/-- A read through the coefficient port (R258): what a read of the page returns. -/
def State.portRead (s : State) (k t o : Nat) : State × RdOut :=
  let h := s.homeOf k
  match targetPage h t with
  | none => (s, .err 5)
  | some page =>
    let s := s.perfBw h 4 1
    if t = 0 ∧ s.replica k then let (w, s) := s.replicaRead page o; (s, .data w.toNat)
    else if !s.pageUp (famOf page) (instOf page) then (s, .err 5)
    else if o = commitStatOff page then let (w, s) := s.cpCommitStat k page; (s, .data w.toNat)
    else let (w, s) := s.readReg (famOf page) (instOf page) o; (s, .data w.toNat)

/-- The offsets open to writes through the port beside the boundary-applied registers (R258). -/
def portOpen (fam o : Nat) : Bool :=
  match fam with
  | 9 => o == LRX.COMMIT || o == LRX.ACT_SEL || o == LRX.ACQ_CMD
  | 10 => o == LTX.COMMIT || o == LTX.ACT_SEL
  | _ => o == HSL.COMMIT || o == HSL.ACT_SEL || o == HSL.RX_CMD || o == HSL.TX_CMD

/-- A group written through the port without a commit request since (R262). -/
def State.dirty (s : State) (k page g : Nat) : State :=
  s.modCore k fun x => { x with dirty := if x.dirty.contains (page + g) then x.dirty else x.dirty ++ [page + g] }

/-- A write of the replica through the port (R260, R399). -/
def State.replicaWrite (s : State) (o : Nat) (v : Word) : StOut :=
  let put (s : State) : State := { s with rpl := { s.rpl with shadow := Tbl.insert s.rpl.shadow o v } }
  match groupOf 9 o with
  | some g =>
    if s.rpl.groups.testBit g then .stall s else if baReserved 9 o v then .ok s.replicaFree else .ok (put s)
  | none =>
    if o = LRX.COMMIT then
      (if 0x7F < v.toNat then .ok s.replicaFree else .ok { s with rpl := { s.rpl with groups := s.rpl.groups ||| v.toNat } })
    else if o = LRX.ACT_SEL then .ok (put s)
    else .ok s

/-- The effect of an owner's write of an open register of its target (R59, R258 to R260). -/
def State.ownerWrite (s : State) (k page o : Nat) (v : Word) : StOut :=
  match groupOf (famOf page) o with
  | some g =>
    if (s.pendingGroups page).testBit g then .stall s
    else match s.baStore page o v 2 with
      | some (s, stored) => .ok (s.when stored fun s => s.dirty k page g)
      | none => .ofOut (hostError [page] s)
  | none =>
    if o = commitOff page then .ok (s.commitRequest page v.toNat (some k) 0)
    else if famOf page = 15 ∧ o = HSL.TX_CMD then
      match txPreset 2 (instOf page) v s with
      | .ok s => .ok (s.when (v.getLsbD 3) fun s => s.dirty k page 0)
      | .err _ s => .trap 5 s
    else .ofOut (effReg (engReq k) (famOf page) (instOf page) o v s)

/-- A write of a live target by its owner: a rejected one is the BUS trap, a reserved field a host error (R11, R13, R243, R438). The
protection map has no say (R442). -/
def State.targetWrite (s : State) (k page o : Nat) (v : Word) : StOut :=
  match findRow (famOf page) o with
  | none => .ok s
  | some row =>
    if !s.pageUp (famOf page) (instOf page) then .trap 5 s
    else if row.acc = .wo ∧ s.fstate page = 2 ∧ !drainExempt (famOf page) o v then .trap 5 s
    else if v &&& ~~~row.mask ≠ 0 then .ofOut (hostError [page] s)
    else s.ownerWrite k page o v

/-- A write through the coefficient port (R230, R231, R258): ACCESS for what it does not open, then CP_OWN. -/
def State.portWrite (s : State) (k t o : Nat) (v : Word) : StOut :=
  let h := s.homeOf k
  match targetPage h t with
  | none => .trap 4 s
  | some page =>
    let fam := famOf page
    if (groupOf fam o).isNone && !portOpen fam o then .trap 4 s
    else if t = 0 ∧ s.replica k then (if s.replicaOwner k then (s.perfBw h 4 1).replicaWrite o v else .trap 6 s)
    else if s.cpOwner h t ≠ some k then .trap 6 s
    else (s.perfBw h 4 1).targetWrite k page o v

/-! ## Reads in units -/

/-- What a load's reads gave: the units read, or a failure. -/
inductive UnitsOut where
  | got (l : List (Nat × Nat))
  | err
deriving DecidableEq, Repr

/-- The units of `u` bytes that an access touches, in its order. -/
def unitsOf (u : Nat) (l : List Nat) : List Nat :=
  l.foldl (fun us b => if us.contains (b / u) then us else us ++ [b / u]) []

/-- Read units one after another; `flips` gives the cells that each finds flipped. -/
def readUnits (rd : State → Nat → List Nat → State × RdOut) : List Nat → List (List Nat) → List (Nat × Nat) → State → State × UnitsOut
  | [], _, t, s => (s, .got t)
  | q :: us, flips, t, s =>
    match rd s q (flips.headD []) with
    | (s, .data v) => readUnits rd us flips.tail (t ++ [(q, v)]) s
    | (s, .err _) => (s, .err)

/-- Bytes per unit of a space: the code word of a memory, or a register. -/
def ESpace.size : ESpace → Nat
  | .ram _ => 8
  | .sram _ => 8
  | _ => 4

/-- An engine's read of the unit at an address; `at0` is the lowest byte of the unit that the access touches, the address its events name (R269). -/
def State.engRead (s : State) (k a at0 : Nat) (bits : List Nat) : State × RdOut :=
  let h := s.homeOf k
  match eSpace a with
  | .ram o => s.ramRead k 0x44 at0 (ownRam k o) bits
  | .sram o => if s.windowUp h then (s.perfBw h 0 1).ramRead k 0x40 at0 (s.seenSram k o) bits else (s, .err 5)
  | .lcb o => let (w, s) := s.lcbRead k o; (s, .data w.toNat)
  | .port t o => s.portRead k t o
  | .perf o => if s.pageUp 17 h then (let (w, s) := s.readReg 17 h o; (s, .data w.toNat)) else (s, .err 5)
  | .bus => (s.perfBw h 2 1).fetch (engReq k) a bits
  | _ => (s, .err 5)

/-- A load of an engine, its access admitted. -/
def State.engLoad (s : State) (k a : Nat) (vec : Bool) (d : LoadDst) (l : List Nat) (flips : List (List Nat)) : State :=
  let u := (eSpace a).size
  let lowest (q : Nat) : Nat := ((l.filter fun b => b / u == q).min?).getD (u * q)
  match readUnits (fun s q bits => s.engRead k (u * q) (lowest q) bits) (unitsOf u l) flips [] s with
  | (s, .got t) => (s.retired k vec).modCore k fun c => (c.fill d (l.map (byteOf u t))).past
  | (s, .err) => s.trap k 5 (BitVec.ofNat 32 a)

/-! ## Writes in pieces -/

/-- The pieces of `n` bytes that bytes from an address up make. -/
def pieces (n : Nat) : Nat → Nat → List Byte → List (Nat × List Byte)
  | 0, _, _ => []
  | j + 1, a, l => (a, l.take n) :: pieces n j (a + n) (l.drop n)

/-- What a store writes to registers of `n` bytes. A narrower store leaves the other bytes of the register's value unstated: they are free. -/
def State.regPieces (s : State) (n a : Nat) (l : List Byte) : List (Nat × List Byte) × State :=
  if l.length < n then
    let old := toBytes n (Config.narrowStore a (ofBytes l))
    ([(a / n * n, old.take (a % n) ++ l ++ old.drop (a % n + l.length))], s)
  else (pieces n (l.length / n) a l, s)

/-- Write pieces one after another. Where a later one traps or stalls, the instruction has no effect (R243). -/
def putPieces (wr : State → Nat → List Byte → StOut) (s0 : State) : List (Nat × List Byte) → State → StOut
  | [], s => .ok s
  | (a, l) :: t, s =>
    match wr s a l with
    | .ok s => putPieces wr s0 t s
    | .trap c _ => (match wr s0 a l with | .trap c s => .trap c s | _ => .trap c s0)
    | .stall _ => .stall s0
    | x => x

/-- The 32-bit word of four bytes. -/
def wordOf (l : List Byte) : Word := BitVec.ofNat 32 (ofBytes l)

/-- An engine's write of one register, or one message, at an address. -/
def State.engReg (s : State) (k a : Nat) (l : List Byte) : StOut :=
  let h := s.homeOf k
  match eSpace a with
  | .lcb o => if 0x100 ≤ o ∧ o < 0x188 then .ok (s.lcbMsg k o (BitVec.ofNat 64 (ofBytes l))) else s.lcbWrite k o (wordOf l)
  | .port t o => s.portWrite k t o (wordOf l)
  | .perf o =>
    if s.pageUp 17 h then .ofOut (s.gate (s.master (engReq k)) 17 h o (wordOf l) (effReg (engReq k) 17 h o (wordOf l)))
    else .trap 5 s
  | .bus => .ofOut ((s.perfBw h 2 1).place (engReq k) a l 0)
  | _ => .trap 5 s

/-- Bytes merged into the word of the own data RAM (R247, R360): the word is read and corrected. -/
def State.ramMerge (s : State) (k a : Nat) (w : Nat × Nat) (l : List Byte) (bits : List Nat) : StOut :=
  let ce := s.ceHere w.1 w.2 bits
  match s.readWord (s.master (engReq k)) w.1 w.2 bits with
  | (s, .err _) => .trap 5 s
  | (s, .data d) =>
    let old := toBytes 8 d
    let s := s.when ce fun s => s.perfInstr k 0x43 (some a) 1
    .ok (s.writeWord w.1 w.2 (ofBytes (old.take (a % 8) ++ l ++ old.drop (a % 8 + l.length))))

/-- The bytes that an engine's store writes, its access admitted (R247). -/
def State.engStore (s : State) (k a : Nat) (l : List Byte) (bits : List Nat) : StOut :=
  let h := s.homeOf k
  let n := l.length / 8
  match eSpace a with
  | .ram o =>
    let w := ownRam k o
    let s := s.perfUnits k 0x44 a (max 1 n)
    if l.length < 8 then s.ramMerge k a w l bits else .ok (s.writeWords w.1 w.2 l)
  | .sram o =>
    let w := s.seenSram k o
    if s.windowUp h then .ok (((s.perfBw h 1 n).perfUnits k 0x41 a n).writeWords w.1 w.2 l) else .trap 5 s
  | .lcb o =>
    let (ps, s1) := s.regPieces (if 0x100 ≤ o ∧ o < 0x188 then 8 else 4) a l
    putPieces (fun s a l => s.engReg k a l) s1 ps s1
  | _ =>
    let (ps, s1) := s.regPieces 4 a l
    putPieces (fun s a l => s.engReg k a l) s1 ps s1

/-! ## The supervisor's accesses (R548) -/

/-- An MPU region permits an access to a byte (R548, R581); privileged accesses are not checked. -/
def State.mpuAllows (s : State) (write : Bool) (a : Nat) : Bool :=
  let lvl := (s.core supId).level
  lvl == 2 || (List.range 16).any fun i =>
    let r (j : Nat) : Word := Tbl.get 0 s.boot.mpu (4 * i + j)
    (r 2).getLsbD 0 && (r 2).getLsbD (3 * lvl + (if write then 2 else 1))
      && decide ((r 0).toNat / 32 ≤ a / 32) && decide (a / 32 ≤ (r 1).toNat / 32)

/-- The supervisor's read of a unit of `u` bytes. -/
def State.supRead (s : State) (u q : Nat) (bits : List Nat) : State × RdOut :=
  match s.region .sup (u * q) with
  | .mem inst idx =>
    let ce := s.ceHere inst idx bits
    match s.readWord 0x02 inst idx bits with
    | (s, .data d) => (s.sramPerf .sup inst idx 1 false ce, .data d)
    | (s, .err c) => (s, .err c)
  | .peer => (s, .err 5)
  | _ => s.fetch .sup (u * q) bits

/-- An access of the supervisor to the cascade peer begins, and holds the core until it ends (R548, R570). -/
def State.supPeer (s : State) (x : SupAcc) : State := (s.supNext x).modCore supId fun c => { c with stalled := true }

/-- A load of the supervisor, its access admitted. -/
def State.supLoad (s : State) (a : Nat) (d : LoadDst) (l : List Nat) (flips : List (List Nat)) : State :=
  let (s, go) := s.startTxn .sup a false
  if !go then s
  else
    let u := match s.region .sup a with | .mem inst _ => wordLen inst | _ => 4
    if s.region .sup a = .peer then s.supPeer ⟨some (d, l), (unitsOf 4 l).map (fun q => (4 * q, none)), []⟩
    else match readUnits (fun s q bits => s.supRead u q bits) (unitsOf u l) flips [] s with
      | (s, .got t) => s.modCore supId fun c => (c.fill d (l.map (byteOf u t))).past
      | (s, .err) => s.trap supId 5 (BitVec.ofNat 32 a)

/-- A store of fewer than 4 bytes toward a memory that takes whole code words is narrow (R359, R360, R420). -/
def State.supNarrow (s : State) (a : Nat) : Out :=
  match s.region .sup a with
  | .mem inst idx =>
    if s.mapAllows 0x02 (memFam inst) then .err 3 (s.narrow 0x02 inst idx) else .err 6 (s.raiseBy PROT.evPROT_DENIED 0 0x02)
  | _ => .err 5 s

/-- The supervisor's write of one piece as a transaction (R420, R628). -/
def State.supPut (s : State) (a : Nat) (l : List Byte) : StOut :=
  let narrow : Bool := decide (l.length < 4) && !inSupSram a
  let (s, go) := s.startTxn .sup a (!narrow)
  if !go then .done s
  else if narrow then .ofOut (s.supNarrow a)
  else match s.region .sup a with
    | .mem _ _ => .ofOut (s.memStore .sup a l 0)
    | _ => .ofOut (s.place .sup a l 0)

/-- The bytes that a store of the supervisor writes, its access admitted. -/
def State.supStore (s : State) (a : Nat) (l : List Byte) : StOut :=
  match s.region .sup a with
  | .mem _ _ =>
    if l.length < 8 then s.supPut a l else putPieces (fun s a l => s.supPut a l) s (pieces 8 (l.length / 8) a l) s
  | .peer =>
    let (s, go) := s.startTxn .sup a false
    if !go then .done s
    else
      let (ps, s) := s.regPieces 4 a l
      .done (s.supPeer ⟨none, ps.map (fun (p : Nat × List Byte) => (p.1, some (wordOf p.2))), []⟩)
  | _ =>
    let (ps, s) := s.regPieces 4 a l
    putPieces (fun s a l => s.supPut a l) s ps s

/-- The trap that stops an access of the supervisor before it is made (R243, R548, R629). -/
def State.supStop (s : State) (al a : Nat) (write : Bool) (l : List Nat) : Option (Nat × Word) :=
  if a % al ≠ 0 then some (2, BitVec.ofNat 32 a)
  else if l.all (s.mpuAllows write) then none
  else some (4, BitVec.ofNat 32 a)

/-! ## Loads and stores of a core -/

/-- The trap that stops an access of a core. -/
def State.accStop (s : State) (k al a : Nat) (write : Bool) (l : List Nat) : Option (Nat × Word) :=
  if k = supId then s.supStop al a write l else s.eStop k al a write l

/-- A load (R241): `al` the alignment it needs, `l` the bytes from its effective address on, `flips` the cells of each code word found
flipped. -/
def State.load (s : State) (k al a : Nat) (vec : Bool) (d : LoadDst) (l : List Nat) (flips : List (List Nat)) : State :=
  match s.accStop k al a false l with
  | some (c, ta) => s.trap k c ta
  | none => if k = supId then s.supLoad a d l flips else s.engLoad k a vec d l flips

/-- `n` byte addresses from `a` up. -/
def span (a n : Nat) : List Nat := (List.range n).map (a + ·)

/-- A scalar load by a core that runs. -/
def loadOp (k : Nat) (base : Fin 16) (off : BitVec 16) (n : Nat) (d : LoadDst) (bits : List Nat) (s : State) : R :=
  if s.runs k then
    let s := s.awake k
    let a := (s.core k).ea base.val off
    .next (s.load k n a false d (span a n) [bits])
  else .next s

/-- LB (R241): a sign-extended byte into gd. `bits` are the cells of the code word found flipped. -/
def execLb (k : Fin 257) (gd base : Fin 16) (off : BitVec 16) (bits : List Nat) (s : State) : R :=
  loadOp k.val base off 1 (.one gd.val true) bits s

/-- LH (R241): a sign-extended half-word. -/
def execLh (k : Fin 257) (gd base : Fin 16) (off : BitVec 16) (bits : List Nat) (s : State) : R :=
  loadOp k.val base off 2 (.one gd.val true) bits s

/-- LW (R241): a word. -/
def execLw (k : Fin 257) (gd base : Fin 16) (off : BitVec 16) (bits : List Nat) (s : State) : R :=
  loadOp k.val base off 4 (.one gd.val true) bits s

/-- LD (R240, R241): a double into the pair g(2p), g(2p + 1). -/
def execLd (k : Fin 257) (p : Fin 8) (base : Fin 16) (off : BitVec 16) (bits : List Nat) (s : State) : R :=
  loadOp k.val base off 8 (.pair (2 * p.val)) bits s

/-- LBU (R241): a zero-extended byte. -/
def execLbu (k : Fin 257) (gd base : Fin 16) (off : BitVec 16) (bits : List Nat) (s : State) : R :=
  loadOp k.val base off 1 (.one gd.val false) bits s

/-- LHU (R241): a zero-extended half-word. -/
def execLhu (k : Fin 257) (gd base : Fin 16) (off : BitVec 16) (bits : List Nat) (s : State) : R :=
  loadOp k.val base off 2 (.one gd.val false) bits s

/-- The end of a store: the PC moves on, a trap is taken, or the store stalls to be tried again (R260). -/
def stEnd (k a : Nat) (vec : Bool) : StOut → R
  | .ok s => .next ((s.retired k vec).modCore k Core.past)
  | .trap c s => .next (s.trap k c (BitVec.ofNat 32 a))
  | .stall s => .next (s.modCore k fun c => { c with stalled := true })
  | .done s => .next s

/-- A store (R247). -/
def State.store (s : State) (k al a : Nat) (vec : Bool) (l : List Byte) (bits : List Nat) : R :=
  match s.accStop k al a true (span a l.length) with
  | some (c, ta) => .next (s.trap k c ta)
  | none => stEnd k a vec (if k = supId then s.supStore a l else s.engStore k a l bits)

/-- A core is at a store: an engine's may have stalled (R260). -/
def State.stores (s : State) (k : Nat) : Bool := s.runs k || (s.atInstr k && k != supId)

/-- A store of `n` bytes by a core at it; `v` gives them as a number. -/
def storeOp (k : Nat) (base : Fin 16) (off : BitVec 16) (n : Nat) (vec : Bool) (v : Core → Nat) (bits : List Nat) (s : State) : R :=
  if s.stores k then
    let s := s.awake k
    let c := s.core k
    s.store k n (c.ea base.val off) vec (toBytes n (v c)) bits
  else .next s

/-- SB (R247): a byte, merged into data RAM or trapping WIDTH in shared SRAM. `bits` are the cells that the merge finds flipped. -/
def execSb (k : Fin 257) (gs base : Fin 16) (off : BitVec 16) (bits : List Nat) (s : State) : R :=
  storeOp k.val base off 1 false (fun c => (c.gr gs.val).toNat) bits s

/-- SH (R247): a half-word. -/
def execSh (k : Fin 257) (gs base : Fin 16) (off : BitVec 16) (bits : List Nat) (s : State) : R :=
  storeOp k.val base off 2 false (fun c => (c.gr gs.val).toNat) bits s

/-- SW (R247, R260): a word. -/
def execSw (k : Fin 257) (gs base : Fin 16) (off : BitVec 16) (bits : List Nat) (s : State) : R :=
  storeOp k.val base off 4 false (fun c => (c.gr gs.val).toNat) bits s

/-- The 64-bit value of a register pair. -/
def Core.pairVal (c : Core) (p : Nat) : Nat := (c.gr (2 * p)).toNat + 2 ^ 32 * (c.gr (2 * p + 1)).toNat

/-- SD (R240, R247): a double from the pair g(2p), g(2p + 1). -/
def execSd (k : Fin 257) (p : Fin 8) (base : Fin 16) (off : BitVec 16) (s : State) : R :=
  storeOp k.val base off 8 false (fun c => c.pairVal p.val) [] s

/-! ## Vector memory (R241, R247) -/

/-- The byte addresses of the eight half-words that VLD takes: stride 2 takes every second one, reverse fills lane j from element −j. -/
def vecAddrs (a : Nat) (stride2 rev : Bool) : List Nat :=
  let st := if stride2 then 4 else 2
  (List.range 8).flatMap fun j =>
    let b := if rev then (a + 2 ^ 32 - st * j) % 2 ^ 32 else a + st * j
    [b, b + 1]

/-- VLD (R241, R247): from the own data RAM of an engine it needs 2-byte alignment, from elsewhere 16-byte alignment. -/
def execVld (k : Fin 257) (vd : Fin 8) (base : Fin 16) (off : BitVec 16) (stride2 rev : Bool) (flips : List (List Nat)) (s : State) : R :=
  let k := k.val
  if s.runs k then
    let s := s.awake k
    let a := (s.core k).ea base.val off
    let al := match eSpace a with | .ram _ => if k = supId then 16 else 2 | _ => 16
    .next (s.load k al a true (.vec vd.val) (vecAddrs a stride2 rev) flips)
  else .next s

/-- VST (R241, R247): sixteen aligned bytes. -/
def execVst (k : Fin 257) (vs : Fin 8) (base : Fin 16) (off : BitVec 16) (s : State) : R :=
  storeOp k.val base off 16 true (fun c => (List.range 8).foldr (fun j n => (c.lane vs.val j).toNat + 65536 * n) 0) [] s

/-! ## Atomic operations (R241) -/

/-- An engine's atomic operation, its access admitted: the old value and the state, or a trap code. -/
def State.engAtomic (s : State) (k a : Nat) (f : Nat → Nat) (bits : List Nat) : State × Option Nat :=
  let h := s.homeOf k
  match eSpace a with
  | .sram o =>
    let w := s.seenSram k o
    match s.engRead k a a bits with
    | (s, .data d) => (((s.perfBw h 1 1).perfInstr k 0x41 (some a) 1).writeWord w.1 w.2 (f d % 2 ^ 64), some d)
    | (s, .err _) => (s.trap k 5 (BitVec.ofNat 32 a), none)
  | _ => (s.trap k 4 (BitVec.ofNat 32 a), none)

/-- The supervisor's atomic operation on a word of a shared SRAM. -/
def State.supAtomic (s : State) (a : Nat) (f : Nat → Nat) (bits : List Nat) : State × Option Nat :=
  let (s, go) := s.startTxn .sup a false
  if !go then (s, none)
  else match s.region .sup a with
    | .mem inst idx =>
      if 8 ≤ inst ∧ (inst - 8) % 3 = 0 then
        match s.supRead 8 (a / 8) bits with
        | (s, .data d) =>
          if !s.mapAllows 0x02 (memFam inst) then ((s.raiseBy PROT.evPROT_DENIED 0 0x02).trap supId 5 (BitVec.ofNat 32 a), none)
          else ((s.writeWord inst idx (f d % 2 ^ 64)).sramPerf .sup inst idx 1 true false, some d)
        | (s, .err _) => (s.trap supId 5 (BitVec.ofNat 32 a), none)
      else (s.trap supId 4 (BitVec.ofNat 32 a), none)
    | _ => (s.trap supId 4 (BitVec.ofNat 32 a), none)

/-- An atomic operation on an 8-byte aligned word of shared SRAM: the old value goes to the pair g(2p), g(2p + 1). The operand `f` is
formed from the registers before. Elsewhere it raises ACCESS (DEDUCED). -/
def atomicOp (k : Nat) (p : Fin 8) (base : Fin 16) (f : Core → Nat → Nat) (bits : List Nat) (s : State) : R :=
  if s.runs k then
    let s := s.awake k
    let c := s.core k
    let a := c.ea base.val 0
    match s.accStop k 8 a true (span a 8) with
    | some (code, ta) => .next (s.trap k code ta)
    | none =>
      match (if k = supId then s.supAtomic a (f c) bits else s.engAtomic k a (f c) bits) with
      | (s, some d) => .next ((s.retired k false).modCore k fun c => (c.fill (.pair (2 * p.val)) (toBytes 8 d)).past)
      | (s, none) => .next s
  else .next s

/-- XCHG_D (R241): the pair g(2q), g(2q + 1) into the word. -/
def execXchgD (k : Fin 257) (p : Fin 8) (base : Fin 16) (q : Fin 8) (bits : List Nat) (s : State) : R :=
  atomicOp k.val p base (fun c _ => c.pairVal q.val) bits s

/-- XADD_D (R241): the pair g(2q), g(2q + 1) added to the word. -/
def execXaddD (k : Fin 257) (p : Fin 8) (base : Fin 16) (q : Fin 8) (bits : List Nat) (s : State) : R :=
  atomicOp k.val p base (fun c d => d + c.pairVal q.val) bits s

/-! ## WAIT (R244, R472) -/

/-- WAIT (R244): the core stops until a source enabled in IMASK is pending. The supervisor's, in NOON with ARMED DUSK or NIGHT, begins entry
(R472); `wakeN` tells that the WAKE_N ball is low. -/
def execWait (k : Fin 257) (wakeN : Bool) (s : State) : R :=
  let k := k.val
  if s.runs k then
    let s := coreOp k false s id
    if k = supId && s.pst == 0 && s.fld pPWR PWR.PWR_STAT.ARMED != 0 then .next (s.entryStart wakeN)
    else if s.pend k &&& (s.core k).imask ≠ 0 then .next s
    else .next (s.setEng k 2)
  else .next s

end Sys2Proof.Machine
end

