-- ==== Sys2Proof/Machine/EngDma.lean ====
section
/-! DEFINITION. What a DMA descriptor does (R251 to R254). A descriptor is carried out whole at the row DMA_DESCRIPTOR_DONE; how far one that is
cancelled has come is an operand. -/

namespace Sys2Proof.Machine

/-- A descriptor's words 0 to 7, as one number (R251). -/
abbrev Desc := Nat

/-- Word `i` of a descriptor. -/
def dWord (d : Desc) (i : Nat) : Nat := d / 2 ^ (32 * i) % 2 ^ 32
/-- VALID. -/
def dValid (d : Desc) : Bool := (dWord d 0).testBit 31
/-- IRQ. -/
def dIrq (d : Desc) : Bool := (dWord d 0).testBit 30
/-- CHAIN. -/
def dChain (d : Desc) : Bool := (dWord d 0).testBit 29
/-- SRC_SPACE: 0 data RAM of ENGINE, 1 shared SRAM, 2 DRAM, 3 register pages, 4 fill. -/
def dSrc (d : Desc) : Nat := dWord d 0 / 2 ^ 24 % 16
/-- DST_SPACE. -/
def dDst (d : Desc) : Nat := dWord d 0 / 2 ^ 20 % 16
/-- ENGINE. -/
def dEng (d : Desc) : Nat := dWord d 0 / 2 ^ 16 % 16
/-- LENGTH. -/
def dLen (d : Desc) : Nat := dWord d 1 % 2 ^ 24
/-- NEXT, as an offset. -/
def dNext (d : Desc) : Nat := dWord d 4 % 2 ^ 18 / 32 * 32
/-- Byte `i` of the fill pattern. -/
def dFill (d : Desc) (i : Nat) : Byte := BitVec.ofNat 8 (d / 2 ^ (32 * 5 + 8 * (i % 8)))

/-- Bytes per access of a space: a code word, or a register. -/
def spaceUnit (sp : Nat) : Nat := if sp = 2 then 32 else if sp = 3 then 4 else 8

/-- The check of sizes (R252): 32 bytes if DRAM is either side; else 4 for a side of register pages and 8 for another, LENGTH obeying both. -/
def sizesOk (d : Desc) : Bool :=
  let one (sp a : Nat) : Bool := a % spaceUnit sp == 0 && dLen d % spaceUnit sp == 0
  if dSrc d = 2 ∨ dDst d = 2 then
    (dSrc d == 4 || dWord d 2 % 32 == 0) && dWord d 3 % 32 == 0 && dLen d % 32 == 0
  else (dSrc d == 4 || one (dSrc d) (dWord d 2)) && one (dDst d) (dWord d 3)

/-- The protection map permits a cluster every write of a descriptor, and a task-level start names no data RAM but the issuer's own (R252).
The cluster's own memories are not reached over the bus. -/
def State.dmaPermits (s : State) (c : Nat) (h : DmaCh) (d : Desc) : Bool :=
  let m := 0x10 + c
  let map := match dDst d with
    | 2 => s.mapAllows m 34
    | 3 => (List.range (dLen d / 0x1000 + 2)).all fun j =>
        let a := min (dWord d 3 + 0x1000 * j) (dWord d 3 + dLen d - 4)
        (match s.region (.clusterDma c 0) a with | .page fam _ off => s.mayWrite m fam off | _ => true)
    | _ => true
  let own : Bool := h.core == 16 * c + dEng d
  map && !(h.task && (dSrc d == 0 || dDst d == 0) && !own)

/-- The word of a cluster's memory at an offset of space 0 or 1; none beyond its end. -/
def spaceWord (c e sp o : Nat) : Option (Nat × Nat) :=
  if sp = 0 then (if o < 0x4000 then some (10 + 3 * c, 2048 * e + o / 8) else none)
  else if o < 0x40000 then some (8 + 3 * c, o / 8) else none

/-- A count of DMA events of a cluster (R269, R270). -/
def State.dmaPerf (s : State) (c code e n : Nat) (a : Option Nat) : State := s.perf c ⟨code, none, 16, a, 0xFFFFFFFF, e, n⟩

/-- Read one unit of a space; none for a failed read. -/
def State.dmaRead (s : State) (c ch e sp a : Nat) : State × Option (List Byte) :=
  let r : Requester := .clusterDma c ch
  let bytes (n : Nat) (x : State × RdOut) : State × Option (List Byte) :=
    match x with
    | (s, .data v) => (s, some (toBytes n v))
    | (s, .err _) => (s, none)
  match sp with
  | 2 =>
    match s.region r a with
    | .mem 0 idx => bytes 32 ((s.perfBw c 2 4).readWord (0x10 + c) 0 idx [])
    | _ => (s, none)
  | 3 =>
    match s.region r a with
    | .page _ _ _ => bytes 4 ((s.perfBw c 2 1).fetch r a [])
    | _ => (s, none)
  | _ =>
    match spaceWord c e sp a with
    | some (inst, idx) =>
      let ce := s.ceHere inst idx []
      let (s, x) := s.readWord (0x10 + c) inst idx []
      bytes 8 (s.sramPerf r inst idx 1 false ce, x)
    | none => (s, none)

/-- Write one unit of a space: false for a rejected write. -/
def State.dmaWrite (s : State) (c ch e sp a : Nat) (l : List Byte) : State × Bool :=
  let r : Requester := .clusterDma c ch
  let out : Out → State × Bool
    | .ok s => (s, true)
    | .err _ s => (s, false)
  match sp with
  | 2 =>
    match s.region r a with
    | .mem 0 _ => out ((s.perfBw c 2 4).memWrite r a l)
    | _ => (s, false)
  | 3 =>
    match s.region r a with
    | .page _ _ _ => out ((s.perfBw c 2 1).place r a l 0)
    | _ => (s, false)
  | _ =>
    match spaceWord c e sp a with
    | some (inst, idx) =>
      let s := s.writeWord inst idx (ofBytes l)
      (s.sramPerf r inst idx 1 true false, true)
    | none => (s, false)

/-- Read the `n` units that a step of a descriptor takes. -/
def State.dmaReads (s : State) (c ch e sp a : Nat) : Nat → State × Option (List Byte)
  | 0 => (s, some [])
  | n + 1 =>
    match s.dmaReads c ch e sp a n with
    | (s, none) => (s, none)
    | (s, some before) => let (s, last) := s.dmaRead c ch e sp (a + spaceUnit sp * n); (s, last.map (before ++ ·))

/-- Write units until one is rejected: how many were written. -/
def State.dmaWrites (s : State) (c ch e sp : Nat) : Nat → List Byte → Nat → Nat → State × Nat × Bool
  | _, _, 0, done => (s, done, true)
  | a, l, n + 1, done =>
    let u := spaceUnit sp
    match s.dmaWrite c ch e sp a (l.take u) with
    | (s, false) => (s, done, false)
    | (s, true) => s.dmaWrites c ch e sp (a + u) (l.drop u) n (done + u)

/-- Move bytes in steps of `w` from offset `o` on: the bytes written in all, and whether nothing failed (R253). -/
def State.dmaMove (s : State) (c ch : Nat) (d : Desc) (w : Nat) : Nat → Nat → State × Nat × Bool
  | 0, o => (s, o, true)
  | n + 1, o =>
    let (s, x) :=
      if dSrc d = 4 then (s, some ((List.range w).map fun i => dFill d (o + i)))
      else s.dmaReads c ch (dEng d) (dSrc d) (dWord d 2 + o) (w / spaceUnit (dSrc d))
    match x with
    | none => (s, o, false)
    | some l =>
      match s.dmaWrites c ch (dEng d) (dDst d) (dWord d 3 + o) l (w / spaceUnit (dDst d)) o with
      | (s, o, true) => State.dmaMove s c ch d w n o
      | (s, o, false) => (s, o, false)

/-- Bytes moved per step. -/
def stepBytes (d : Desc) : Nat := max (if dSrc d = 4 then 4 else spaceUnit (dSrc d)) (spaceUnit (dDst d))

/-- Carry out a descriptor: RESULT (0 OK, 1 BUS_ERROR, 2 ALIGN, 3 PERM, 4 CANCELLED) and DONE_BYTES. An unlisted space code moves nothing, and the
spec states no result for it: it is free. `n` steps were made before a cancel took effect (R254). -/
def State.dmaRun (s : State) (c ch : Nat) (h : DmaCh) (d : Desc) (n : Nat) : State × Nat × Nat :=
  if !dValid d then (s, 3, 0)
  else if 4 < dSrc d ∨ 3 < dDst d then let (v, s) := s.fresh; (s, v % 8, 0)
  else if !sizesOk d then (s, 2, 0)
  else if !s.dmaPermits c h d then (s, 3, 0)
  else
    let w := stepBytes d
    let all := dLen d / w
    let (s, o, ok) := s.dmaMove c ch d w (if h.cancel then min n all else all) 0
    (s, if !ok then 1 else if h.cancel then 4 else 0, o)

/-- Read a descriptor from shared SRAM; none where its data is uncorrectable. -/
def State.dmaDesc (s : State) (c ch at0 : Nat) : State × Option Desc :=
  match s.dmaReads c ch 0 1 at0 4 with
  | (s, some l) => (s, some (ofBytes l))
  | (s, none) => (s, none)

/-- A descriptor ends (R244, R251, R253): word 7 and DMA_STAT tell its result, DMA is raised at the issuer with IRQ, and the chain goes on or
the channel stops. -/
def State.dmaEnd (s : State) (c ch : Nat) (h : DmaCh) (d : Option Desc) (res done : Nat) : State :=
  let s := match d with
    | some d =>
      let w7 := 2 ^ 31 + res * 2 ^ 28 + done % 2 ^ 24
      (s.writeWord (8 + 3 * c) ((h.desc + 24) / 8) (dWord d 6 + 2 ^ 32 * w7)).sramPerf (.clusterDma c ch) (8 + 3 * c) ((h.desc + 24) / 8) 1 true false
    | none => s
  let s := s.setFld (pCLU c) (dmaFld ch CLU.DMA_STAT.RESULT) res
  let e := h.core % 16
  let s := (s.dmaPerf c 0x64 e 1 none).dmaPerf c 0x65 e (done / 8) none
  let irq : Bool := match d with | some d => dIrq d | none => false
  let s := s.when irq fun s => s.modCore h.core fun x => { x with dmaIrq := x.dmaIrq.filter (· != 4 * c + ch) ++ [4 * c + ch] }
  let s := s.when (res == 1) fun s => s.raise CLU.evDMA_ERROR c
  let go : Bool := match d with | some d => dValid d && dChain d && res != 1 && res != 4 && !h.cancel | none => false
  let next := match d with | some d => dNext d | none => 0
  if go then
    (s.modClu c fun u => { u with dma := Tbl.insert u.dma ch { h with desc := next } }).setFld (pCLU c)
      (dmaFld ch CLU.DMA_STAT.DESC) (next / 32)
  else (s.modClu c fun u => { u with dma := Tbl.erase u.dma ch }).setFld (pCLU c) (dmaFld ch CLU.DMA_STAT.BUSY) 0

/-- A reset of the cluster has cut a channel off (R267): it stopped after its current code word, with `n` of them moved and no DONE word. -/
def State.dmaCut (s : State) (c ch : Nat) (h : DmaCh) (n : Nat) : State :=
  let s := match s.dmaDesc c ch h.desc with
    | (s, some d) => (s.dmaRun c ch { h with cancel := true } d n).1
    | (s, none) => s
  s.modClu c fun u => { u with dma := Tbl.erase u.dma ch }

/-- DMA_DESCRIPTOR_DONE (R251 to R254, R267): the descriptor in progress of a channel completes; `n` is how many code words had been moved when a
cancel or a reset took effect. -/
def execDmaDescriptorDone (c : Fin 16) (ch : Fin 4) (n : Nat) (s : State) : R :=
  match Tbl.find (s.clu c.val).dma ch.val with
  | none => .next s
  | some h =>
    if h.cut then .next (s.dmaCut c.val ch.val h n)
    else match s.dmaDesc c.val ch.val h.desc with
    | (s, none) => .next (s.dmaEnd c.val ch.val h none 1 0)
    | (s, some d) =>
      let (s, res, done) := s.dmaRun c.val ch.val h d n
      .next (s.dmaEnd c.val ch.val h (some d) res done)

end Sys2Proof.Machine
end

