-- ==== Sys2Proof/Machine/EngScalar.lean ====
section
/-! DEFINITION. The scalar instructions of the engines and the supervisor (R240, R241): arithmetic, logic and shifts, minimum and
maximum, constants, compares and predicate operations. Core `k` is engine CLc.Ee at 16c + e, or the supervisor at 256. -/

namespace Sys2Proof.Machine

/-- ADD (R241): gd becomes the 32-bit sum. -/
def execAdd (k : Fin 257) (gd gs1 : Fin 16) (x : Src) (s : State) : R :=
  .next (coreOp k.val false s fun c => c.setG gd.val ((c.gr gs1.val) + (c.srcS x)))

/-- SUB (R241): gd becomes the 32-bit difference. -/
def execSub (k : Fin 257) (gd gs1 : Fin 16) (x : Src) (s : State) : R :=
  .next (coreOp k.val false s fun c => c.setG gd.val ((c.gr gs1.val) - (c.srcS x)))

/-- ADDS (R241): gd becomes the saturated sum. -/
def execAdds (k : Fin 257) (gd gs1 : Fin 16) (x : Src) (s : State) : R :=
  .next (coreOp k.val false s fun c => c.setG gd.val (sat32 ((c.gr gs1.val).toInt + (c.srcS x).toInt)))

/-- SUBS (R241): gd becomes the saturated difference. -/
def execSubs (k : Fin 257) (gd gs1 : Fin 16) (x : Src) (s : State) : R :=
  .next (coreOp k.val false s fun c => c.setG gd.val (sat32 ((c.gr gs1.val).toInt - (c.srcS x).toInt)))

/-- MULLO (R241): gd becomes the low 32 bits of the product. -/
def execMullo (k : Fin 257) (gd gs1 : Fin 16) (x : Src) (s : State) : R :=
  .next (coreOp k.val false s fun c => c.setG gd.val ((c.gr gs1.val) * (c.srcS x)))

/-- MULHI_S (R241): gd becomes the high 32 bits of the signed product. -/
def execMulhiS (k : Fin 257) (gd gs1 : Fin 16) (x : Src) (s : State) : R :=
  .next (coreOp k.val false s fun c => c.setG gd.val (mulhiS (c.gr gs1.val) (c.srcS x)))

/-- MULHI_U (R241): gd becomes the high 32 bits of the unsigned product. -/
def execMulhiU (k : Fin 257) (gd gs1 : Fin 16) (x : Src) (s : State) : R :=
  .next (coreOp k.val false s fun c => c.setG gd.val (mulhiU (c.gr gs1.val) (c.srcS x)))

/-- AND (R241): gd becomes the bitwise AND. -/
def execAnd (k : Fin 257) (gd gs1 : Fin 16) (x : Src) (s : State) : R :=
  .next (coreOp k.val false s fun c => c.setG gd.val ((c.gr gs1.val) &&& (c.srcU x)))

/-- OR (R241): gd becomes the bitwise OR. -/
def execOr (k : Fin 257) (gd gs1 : Fin 16) (x : Src) (s : State) : R :=
  .next (coreOp k.val false s fun c => c.setG gd.val ((c.gr gs1.val) ||| (c.srcU x)))

/-- XOR (R241): gd becomes the bitwise XOR. -/
def execXor (k : Fin 257) (gd gs1 : Fin 16) (x : Src) (s : State) : R :=
  .next (coreOp k.val false s fun c => c.setG gd.val ((c.gr gs1.val) ^^^ (c.srcU x)))

/-- ANDN (R241): gd becomes gs1 AND NOT the second operand. -/
def execAndn (k : Fin 257) (gd gs1 : Fin 16) (x : Src) (s : State) : R :=
  .next (coreOp k.val false s fun c => c.setG gd.val ((c.gr gs1.val) &&& ~~~(c.srcU x)))

/-- SHL (R241): gd becomes gs1 shifted left. -/
def execShl (k : Fin 257) (gd gs1 : Fin 16) (x : Src) (s : State) : R :=
  .next (coreOp k.val false s fun c => c.setG gd.val ((c.gr gs1.val) <<< amount (c.srcU x)))

/-- SHR (R241): gd becomes gs1 shifted right logically. -/
def execShr (k : Fin 257) (gd gs1 : Fin 16) (x : Src) (s : State) : R :=
  .next (coreOp k.val false s fun c => c.setG gd.val ((c.gr gs1.val) >>> amount (c.srcU x)))

/-- SRA (R241): gd becomes gs1 shifted right arithmetically. -/
def execSra (k : Fin 257) (gd gs1 : Fin 16) (x : Src) (s : State) : R :=
  .next (coreOp k.val false s fun c => c.setG gd.val ((c.gr gs1.val).sshiftRight (amount (c.srcU x))))

/-- ROR (R241): gd becomes gs1 rotated right. -/
def execRor (k : Fin 257) (gd gs1 : Fin 16) (x : Src) (s : State) : R :=
  .next (coreOp k.val false s fun c => c.setG gd.val (rotr (c.gr gs1.val) (amount (c.srcU x))))

/-- MIN (R241): gd becomes the signed minimum. -/
def execMin (k : Fin 257) (gd gs1 : Fin 16) (x : Src) (s : State) : R :=
  .next (coreOp k.val false s fun c => c.setG gd.val (smin (c.gr gs1.val) (c.srcS x)))

/-- MAX (R241): gd becomes the signed maximum. -/
def execMax (k : Fin 257) (gd gs1 : Fin 16) (x : Src) (s : State) : R :=
  .next (coreOp k.val false s fun c => c.setG gd.val (smax (c.gr gs1.val) (c.srcS x)))

/-- MINU (R241): gd becomes the unsigned minimum. -/
def execMinu (k : Fin 257) (gd gs1 : Fin 16) (x : Src) (s : State) : R :=
  .next (coreOp k.val false s fun c => c.setG gd.val (umin (c.gr gs1.val) (c.srcU x)))

/-- MAXU (R241): gd becomes the unsigned maximum. -/
def execMaxu (k : Fin 257) (gd gs1 : Fin 16) (x : Src) (s : State) : R :=
  .next (coreOp k.val false s fun c => c.setG gd.val (umax (c.gr gs1.val) (c.srcU x)))

/-- CLZ (R241): gd becomes the count of leading zeros of gs1. -/
def execClz (k : Fin 257) (gd gs1 : Fin 16) (s : State) : R :=
  .next (coreOp k.val false s fun c => c.setG gd.val (BitVec.ofNat 32 (clz (c.gr gs1.val))))

/-- KLO (R241): gd becomes the sign-extended imm20. -/
def execKlo (k : Fin 257) (gd : Fin 16) (i : BitVec 20) (s : State) : R :=
  .next (coreOp k.val false s fun c => c.setG gd.val (i.signExtend 32))

/-- KHI (R241): imm16 into gd[31:16], gd[15:0] kept. -/
def execKhi (k : Fin 257) (gd : Fin 16) (i : BitVec 16) (s : State) : R :=
  .next (coreOp k.val false s fun c => c.setG gd.val (i ++ (c.gr gd.val).setWidth 16))

/-- CMP.EQ (R240, R241): pd becomes 1 if the condition holds (equal), else 0. -/
def execCmpEq (k : Fin 257) (pd : Fin 4) (gs1 : Fin 16) (x : CmpSrc) (s : State) : R :=
  .next (coreOp k.val false s fun c => c.setPred pd.val (c.gr gs1.val == c.cmpSrc x))

/-- CMP.LT (R240, R241): pd becomes 1 if the condition holds (signed less-than), else 0. -/
def execCmpLt (k : Fin 257) (pd : Fin 4) (gs1 : Fin 16) (x : CmpSrc) (s : State) : R :=
  .next (coreOp k.val false s fun c => c.setPred pd.val ((c.gr gs1.val).slt (c.cmpSrc x)))

/-- CMP.LTU (R240, R241): pd becomes 1 if the condition holds (unsigned less-than), else 0. -/
def execCmpLtu (k : Fin 257) (pd : Fin 4) (gs1 : Fin 16) (x : CmpSrc) (s : State) : R :=
  .next (coreOp k.val false s fun c => c.setPred pd.val ((c.gr gs1.val).ult (c.cmpSrc x)))

/-- CMP.LE (R240, R241): pd becomes 1 if the condition holds (signed less-or-equal), else 0. -/
def execCmpLe (k : Fin 257) (pd : Fin 4) (gs1 : Fin 16) (x : CmpSrc) (s : State) : R :=
  .next (coreOp k.val false s fun c => c.setPred pd.val ((c.gr gs1.val).sle (c.cmpSrc x)))

/-- CMP.LEU (R240, R241): pd becomes 1 if the condition holds (unsigned less-or-equal), else 0. -/
def execCmpLeu (k : Fin 257) (pd : Fin 4) (gs1 : Fin 16) (x : CmpSrc) (s : State) : R :=
  .next (coreOp k.val false s fun c => c.setPred pd.val ((c.gr gs1.val).ule (c.cmpSrc x)))

/-- CMP.BIT (R240, R241): pd becomes 1 if the condition holds (gs1 AND the second operand is not 0), else 0. -/
def execCmpBit (k : Fin 257) (pd : Fin 4) (gs1 : Fin 16) (x : CmpSrc) (s : State) : R :=
  .next (coreOp k.val false s fun c => c.setPred pd.val (c.gr gs1.val &&& c.cmpSrc x != 0))

/-- PLOG with operation AND (R240, R241): pd = pa AND pb. -/
def execPlogAnd (k : Fin 257) (pd pa pb : Fin 4) (s : State) : R :=
  .next (coreOp k.val false s fun c => c.setPred pd.val (c.pred pa.val && c.pred pb.val))

/-- PLOG with operation OR (R240, R241): pd = pa OR pb. -/
def execPlogOr (k : Fin 257) (pd pa pb : Fin 4) (s : State) : R :=
  .next (coreOp k.val false s fun c => c.setPred pd.val (c.pred pa.val || c.pred pb.val))

/-- PLOG with operation XOR (R240, R241): pd = pa XOR pb. -/
def execPlogXor (k : Fin 257) (pd pa pb : Fin 4) (s : State) : R :=
  .next (coreOp k.val false s fun c => c.setPred pd.val (c.pred pa.val != c.pred pb.val))

/-- PLOG with operation ANDN (R240, R241): pd = pa ANDN pb. -/
def execPlogAndn (k : Fin 257) (pd pa pb : Fin 4) (s : State) : R :=
  .next (coreOp k.val false s fun c => c.setPred pd.val (c.pred pa.val && !c.pred pb.val))

/-- SETP (R241): gd becomes 1 or 0 from a predicate. -/
def execSetp (k : Fin 257) (gd : Fin 16) (p : Fin 4) (s : State) : R :=
  .next (coreOp k.val false s fun c => c.setG gd.val (if c.pred p.val then 1 else 0))

/-! ## Control flow (R240, R241) -/

/-- A branch taken or not. -/
def branch (k : Nat) (s : State) (taken : Bool) (off : BitVec 24) : State :=
  if s.runs k then
    let s := s.awake k
    if taken then jumpTo k s ((s.core k).pc + (off.signExtend 32 <<< 2)) false
    else (s.retired k false).modCore k Core.past
  else s

/-- BR.T (R241): branches by a signed offset in words if the predicate is 1. -/
def execBrT (k : Fin 257) (p : Fin 4) (off : BitVec 24) (s : State) : R :=
  .next (branch k.val s ((s.core k.val).pred p.val) off)

/-- BR.F (R241): branches by a signed offset in words if the predicate is 0. -/
def execBrF (k : Fin 257) (p : Fin 4) (off : BitVec 24) (s : State) : R :=
  .next (branch k.val s (!(s.core k.val).pred p.val) off)

/-- A jump. -/
def jump (k : Nat) (s : State) (target : Core → Word) (link : Bool) : State :=
  if s.runs k then
    let s := s.awake k
    jumpTo k s (target (s.core k)) link
  else s

/-- JMP (R240): jumps by a signed offset in words from the instruction. -/
def execJmp (k : Fin 257) (off : BitVec 24) (s : State) : R :=
  .next (jump k.val s (fun c => c.pc + (off.signExtend 32 <<< 2)) false)

/-- CALL (R240): as JMP, and g15 becomes PC + 4. -/
def execCall (k : Fin 257) (off : BitVec 24) (s : State) : R :=
  .next (jump k.val s (fun c => c.pc + (off.signExtend 32 <<< 2)) true)

/-- JMPR (R240): jumps to a register plus a signed byte offset. -/
def execJmpr (k : Fin 257) (gs : Fin 16) (off : BitVec 16) (s : State) : R :=
  .next (jump k.val s (fun c => c.gr gs.val + off.signExtend 32) false)

/-- CALLR (R240): as JMPR, and g15 becomes PC + 4. -/
def execCallr (k : Fin 257) (gs : Fin 16) (off : BitVec 16) (s : State) : R :=
  .next (jump k.val s (fun c => c.gr gs.val + off.signExtend 32) true)

end Sys2Proof.Machine
end

