-- ==== Sys2Proof/Machine/EngVector.lean ====
section
/-! DEFINITION. The vector and accumulator instructions (R240, R241): lane by lane on eight signed 16-bit lanes, and on eight
signed 48-bit accumulator lanes. Vector memory instructions stand in EngMem.lean. -/

namespace Sys2Proof.Machine

/-- A vector instruction vd = f vs1 operand, lane by lane. -/
def vecOp (k : Nat) (vd vs1 : Fin 8) (x : VSrc) (s : State) (f : BitVec 16 → BitVec 16 → BitVec 16) : State :=
  coreOp k true s fun c => c.setV vd.val (fun j => f (c.lane vs1.val j) (c.vsrc x j))

/-- A vector instruction whose result the spec does not state for some lanes: there `f` answers none, and the lane is a free
value of the operation (`op` tells the four such operations apart) and the lane's operands, since equal operands give equal results (R242; log entry 11). -/
def vecOpFree (op k : Nat) (vd vs1 : Fin 8) (x : VSrc) (s : State) (f : BitVec 16 → BitVec 16 → Option (BitVec 16)) : State :=
  vecOp k vd vs1 x s fun a b => (f a b).getD (Config.vecOp op a.toNat b.toNat)

/-- VADD (R241): each lane becomes the sum, modulo 2^16. -/
def execVadd (k : Fin 257) (vd vs1 : Fin 8) (x : VSrc) (s : State) : R :=
  .next (vecOp k.val vd vs1 x s (fun a b => a + b))

/-- VSUB (R241): each lane becomes the difference, modulo 2^16. -/
def execVsub (k : Fin 257) (vd vs1 : Fin 8) (x : VSrc) (s : State) : R :=
  .next (vecOp k.val vd vs1 x s (fun a b => a - b))

/-- VADDS (R241): each lane becomes the saturated sum. -/
def execVadds (k : Fin 257) (vd vs1 : Fin 8) (x : VSrc) (s : State) : R :=
  .next (vecOp k.val vd vs1 x s (fun a b => sat16 (a.toInt + b.toInt)))

/-- VSUBS (R241): each lane becomes the saturated difference. -/
def execVsubs (k : Fin 257) (vd vs1 : Fin 8) (x : VSrc) (s : State) : R :=
  .next (vecOp k.val vd vs1 x s (fun a b => sat16 (a.toInt - b.toInt)))

/-- VMUL (R241): each lane becomes the Q15 product, rounded and saturated. -/
def execVmul (k : Fin 257) (vd vs1 : Fin 8) (x : VSrc) (s : State) : R :=
  .next (vecOp k.val vd vs1 x s (q15))

/-- VMIN (R241): each lane becomes the signed minimum. -/
def execVmin (k : Fin 257) (vd vs1 : Fin 8) (x : VSrc) (s : State) : R :=
  .next (vecOp k.val vd vs1 x s (fun a b => if a.sle b then a else b))

/-- VMAX (R241): each lane becomes the signed maximum. -/
def execVmax (k : Fin 257) (vd vs1 : Fin 8) (x : VSrc) (s : State) : R :=
  .next (vecOp k.val vd vs1 x s (fun a b => if a.sle b then b else a))

/-- VABS (R241): the absolute value of each lane of vs1; that of −32768 is not stated and is free. -/
def execVabs (k : Fin 257) (vd vs1 : Fin 8) (x : VSrc) (s : State) : R :=
  .next (vecOpFree 0 k.val vd vs1 x s fun a _ => if a = 0x8000 then none else some (if a.msb then -a else a))

/-- VNEG (R241): the negation of each lane of vs1; that of −32768 is not stated and is free. -/
def execVneg (k : Fin 257) (vd vs1 : Fin 8) (x : VSrc) (s : State) : R :=
  .next (vecOpFree 1 k.val vd vs1 x s fun a _ => if a = 0x8000 then none else some (-a))

/-- VSHL (R241): each lane shifted left; by 16 or more it is not stated and is free. -/
def execVshl (k : Fin 257) (vd vs1 : Fin 8) (x : VSrc) (s : State) : R :=
  .next (vecOpFree 2 k.val vd vs1 x s fun a b => if b.toNat < 16 then some (a <<< b.toNat) else none)

/-- VSRA (R241): each lane shifted right with rounding; by 16 or more it is not stated and is free. -/
def execVsra (k : Fin 257) (vd vs1 : Fin 8) (x : VSrc) (s : State) : R :=
  .next (vecOpFree 3 k.val vd vs1 x s fun a b =>
    if b.toNat < 16 then some (BitVec.ofInt 16 (roundShift a.toInt b.toNat)) else none)

/-- What a mask lane holds where VCMPLT finds less-than: the spec says only that VSEL tells it from 0, so it is some value that
is not 0 (log entry 11). -/
def maskLane : BitVec 16 := if Config.maskSeed = 0 then 0xFFFF else Config.maskSeed

/-- VCMPLT (R241): each lane of the mask tells whether vs1 is less than the operand. -/
def execVcmplt (k : Fin 257) (vd vs1 : Fin 8) (x : VSrc) (s : State) : R :=
  .next (vecOp k.val vd vs1 x s fun a b => if a.slt b then maskLane else 0)

/-- VSEL (R241): each lane from vs1 where the mask vd is not 0, else from the operand. -/
def execVsel (k : Fin 257) (vd vs1 : Fin 8) (x : VSrc) (s : State) : R :=
  .next (coreOp k.val true s fun c =>
    c.setV vd.val (fun j => if c.lane vd.val j != 0 then c.lane vs1.val j else c.vsrc x j))

/-! ## The accumulator -/

/-- VCLR (R241): the accumulator becomes 0. -/
def execVclr (k : Fin 257) (s : State) : R := .next (coreOp k.val true s fun c => c.setAcc (fun _ => 0))

/-- VMAC (R241): each accumulator lane adds vs1 × vs2, saturating at 48 bits; 8 lane operations are counted (R270). -/
def execVmac (k : Fin 257) (vs1 vs2 : Fin 8) (s : State) : R :=
  .next (coreOp k.val true (if s.runs k.val then s.perfInstr k.val 0x03 none 8 else s) fun c => c.setAcc
    (fun j => mac (c.accLane j) ((c.lane vs1.val j).toInt * (c.lane vs2.val j).toInt)))

/-- VMSC (R241): each accumulator lane subtracts vs1 × vs2. -/
def execVmsc (k : Fin 257) (vs1 vs2 : Fin 8) (s : State) : R :=
  .next (coreOp k.val true s fun c => c.setAcc
    (fun j => mac (c.accLane j) (-((c.lane vs1.val j).toInt * (c.lane vs2.val j).toInt))))

/-- VMACX (R241): each accumulator lane adds vs1 × the broadcast gs2. -/
def execVmacx (k : Fin 257) (vs1 : Fin 8) (gs2 : Fin 16) (s : State) : R :=
  .next (coreOp k.val true s fun c => c.setAcc
    (fun j => mac (c.accLane j) ((c.lane vs1.val j).toInt * ((c.gr gs2.val).setWidth 16 : BitVec 16).toInt)))

/-- VRD (R241): each lane of vd becomes the accumulator lane shifted right, rounded and saturated. -/
def execVrd (k : Fin 257) (vd : Fin 8) (sh : Fin 32) (s : State) : R :=
  .next (coreOp k.val true s fun c => c.setV vd.val (fun j => accRead (c.accLane j) sh.val))

/-- VEXT (R241): one lane of vs1 into gd, sign-extended. -/
def execVext (k : Fin 257) (gd : Fin 16) (vs1 : Fin 8) (j : Fin 8) (s : State) : R :=
  .next (coreOp k.val true s fun c => c.setG gd.val ((c.lane vs1.val j.val).signExtend 32))

/-- VINS (R241): the low half of gs into one lane of vd, the other lanes kept. -/
def execVins (k : Fin 257) (vd : Fin 8) (gs : Fin 16) (j : Fin 8) (s : State) : R :=
  .next (coreOp k.val true s fun c =>
    c.setV vd.val (fun i => if i = j.val then (c.gr gs.val).setWidth 16 else c.lane vd.val i))

end Sys2Proof.Machine
end

