-- ==== Sys2Proof/Machine/Remote.lean ====
section
/-! DEFINITION. Register reads made for the link partner (R290, R292 to R294, R629). -/

namespace Sys2Proof.Machine

/-- The class of a page family in RREAD_MASK (R292). -/
def readClass (fam : Nat) : Option Nat :=
  match fam with
  | 12 => some 0 | 13 => some 1 | 9 => some 2 | 10 => some 3 | 14 => some 4 | 15 => some 5
  | 20 => some 6 | 8 => some 7 | 7 => some 8 | 19 => some 9 | 18 => some 10 | 11 => some 11
  | _ => none

/-- The class of the page at an address, populated or not. -/
def addrClass (a : Nat) : Option Nat := match findPage a with | some (p, _, _) => readClass p.fam | none => none

/-- Queue an RRSP: status 0 OK, 1 DENIED, 2 BUS_ERROR, 3 BUSY, and the words read. -/
def State.rrsp (s : State) (n tag status w0 w1 : Nat) : State :=
  s.modPart n fun x => { x with replies := x.replies ++ [Reply.mk 9 tag (status * 2 ^ 77 + w0 * 2 ^ 40 + w1 * 2 ^ 8) none] }

/-- The write of SNAP that a request asks for, as the master PART (R293). -/
def State.partSnap (s : State) (n tag a : Nat) (go : State → State) : State :=
  let b := a / 0x1000 * 0x1000 + HDR.SNAP
  match s.wrGate .part b 0 (fun s => match findPage a with | some (p, i, _) => effSnap p.fam i 0 s | none => .ok s) with
  | .ok s => go s
  | .err 6 s => s.rrsp n tag 1 0 0
  | .err _ s => s.rrsp n tag 2 0 0

/-- An RREQ that is not a repetition (R292, R293). -/
def State.rreq (s : State) (n tag : Nat) (a : Word) (two snap : Bool) : State :=
  let b := pPART n
  let x := a.toNat
  let open0 : Bool := match addrClass x with | some k => (s.fld b PART.RREAD_MASK.MASK).testBit k | none => false
  if (s.partSt n).serve.isSome then s.rrsp n tag 3 0 0
  else if !s.bit b PART.PC_CTRL.EN || !s.bit b PART.PC_CTRL.RREAD_EN || !s.enabled b then s.rrsp n tag 1 0 0
  else if x % 4 ≠ 0 then s.rrsp n tag 2 0 0
  else if !open0 then s.rrsp n tag 1 0 0
  else
    let last := ((List.range 8).map fun m => if (s.partSt m).serve.isSome then (s.partSt m).order else 0).foldl max 0
    let go (s : State) : State := s.modPart n fun y => { y with serve := some (tag, a, two, snap), order := last + 1 }
    if snap then s.partSnap n tag x go else go s

/-- PC_RREQ_RECEIVE (R290, R292, R293). -/
def execPcRreqReceive (n : Fin 8) (c : Cell) (s : State) : R :=
  onCell n.val 8 c (fun s => s.repeated n.val 8 c.tag.toNat fun s =>
    s.rreq n.val c.tag.toNat (BitVec.ofNat 32 (pfield c 0 32)) (pfield c 32 1 == 1) (pfield c 33 1 == 1)) s

/-- A word read as the master PART. -/
def State.partRead (s : State) (a : Nat) : State × RdOut :=
  match s.region .part a with
  | .page _ _ _ => s.fetch .part a []
  | _ => (s, .err 5)

/-- No other lane's read arrived before that of lane `n`. -/
def State.firstRead (s : State) (n : Nat) : Bool :=
  (List.range 8).all fun m => (s.partSt m).serve.isNone || decide ((s.partSt n).order ≤ (s.partSt m).order)

/-- REMOTE_READ_DONE (R293, R294): the reads are made in the order in which they arrived; with SNAP, once the page's SNAP_PEND is 0. -/
def execRemoteReadDone (n : Fin 8) (s : State) : R :=
  match (if s.firstRead n.val then (s.partSt n.val).serve else none) with
  | none => .next s
  | some (tag, a, two, snap) =>
    let x := a.toNat
    if snap && s.bit (x / 0x1000 * 0x1000) HDR.SNAP_PEND then .next s
    else
      let s := s.modPart n.val fun y => { y with serve := none }
      match s.partRead x with
      | (s, .err _) => .next (s.rrsp n.val tag 2 0 0)
      | (s, .data w0) =>
        if two then
          match s.partRead (x + 4) with
          | (s, .err _) => .next (s.rrsp n.val tag 2 0 0)
          | (s, .data w1) => .next (s.rrsp n.val tag 0 w0 w1)
        else .next (s.rrsp n.val tag 0 w0 0)

end Sys2Proof.Machine
end

