-- ==== Sys2Proof/Machine/Dispatch.lean ====
section
/-! DEFINITION. One arm per command: a direct call of its meaning. -/

namespace Sys2Proof.Machine

/-- What a command does to everything but the queue. -/
def exec (i : Instr) (s : State) : Host.Outcome State Fault Refusal :=
  match i with
  | .registerWrite r a v => Sys2Proof.Machine.execRegisterWrite r a v s
  | .pageSnap r fam ix => Sys2Proof.Machine.execPageSnap r fam ix s
  | .idleLatchTimeout outer n => Sys2Proof.Machine.execIdleLatchTimeout outer n s
  | .pageEnable r fam ix => Sys2Proof.Machine.execPageEnable r fam ix s
  | .pageDisable r fam ix cancel => Sys2Proof.Machine.execPageDisable r fam ix cancel s
  | .pageDrainDone fam ix => Sys2Proof.Machine.execPageDrainDone fam ix s
  | .pageLock r fam ix => Sys2Proof.Machine.execPageLock r fam ix s
  | .evtClear r fam ix v => Sys2Proof.Machine.execEvtClear r fam ix v s
  | .portEnable r p => Sys2Proof.Machine.execPortEnable r p s
  | .portDisable r p => Sys2Proof.Machine.execPortDisable r p s
  | .portReset r p => Sys2Proof.Machine.execPortReset r p s
  | .idleCommitApply d => Sys2Proof.Machine.execIdleCommitApply d s
  | .lrxCommit r n groups => Sys2Proof.Machine.execLrxCommit r n groups s
  | .lineRxCommitPoint n late raw cf => Sys2Proof.Machine.execLineRxCommitPoint n late raw cf s
  | .losAssert n ampl => Sys2Proof.Machine.execLosAssert n ampl s
  | .losClear n ampl => Sys2Proof.Machine.execLosClear n ampl s
  | .acqAdvance r n => Sys2Proof.Machine.execAcqAdvance r n s
  | .acqRestart r n => Sys2Proof.Machine.execAcqRestart r n s
  | .timingLockSet n => Sys2Proof.Machine.execTimingLockSet n s
  | .trRange n => Sys2Proof.Machine.execTrRange n s
  | .cycleSlip n => Sys2Proof.Machine.execCycleSlip n s
  | .snrWindowEnd n => Sys2Proof.Machine.execSnrWindowEnd n s
  | .acqTimeout n => Sys2Proof.Machine.execAcqTimeout n s
  | .adcMonWindow n ampl => Sys2Proof.Machine.execAdcMonWindow n ampl s
  | .ltxCommit r n groups => Sys2Proof.Machine.execLtxCommit r n groups s
  | .txPllLocked n => Sys2Proof.Machine.execTxPllLocked n s
  | .sqHoldExpiry n => Sys2Proof.Machine.execSqHoldExpiry n s
  | .txFrameTimerBoundary late => Sys2Proof.Machine.execTxFrameTimerBoundary late s
  | .lineTxFrameBoundary n late => Sys2Proof.Machine.execLineTxFrameBoundary n late s
  | .txBeaconSet r n => Sys2Proof.Machine.execTxBeaconSet r n s
  | .txBeaconClear r n => Sys2Proof.Machine.execTxBeaconClear r n s
  | .skewFineStep n => Sys2Proof.Machine.execSkewFineStep n s
  | .remQuery n c => Sys2Proof.Machine.execRemQuery n c s
  | .remPreset n c => Sys2Proof.Machine.execRemPreset n c s
  | .remTapInc n c => Sys2Proof.Machine.execRemTapInc n c s
  | .remTapDec n c => Sys2Proof.Machine.execRemTapDec n c s
  | .remSwingInc n c => Sys2Proof.Machine.execRemSwingInc n c s
  | .remSwingDec n c => Sys2Proof.Machine.execRemSwingDec n c s
  | .remInvalidRequest n c => Sys2Proof.Machine.execRemInvalidRequest n c s
  | .calStepStart u => Sys2Proof.Machine.execCalStepStart u s
  | .calPhaseEnd u => Sys2Proof.Machine.execCalPhaseEnd u s
  | .calShadowEnd u off gain skew => Sys2Proof.Machine.execCalShadowEnd u off gain skew s
  | .calPassDone u words temp raw => Sys2Proof.Machine.execCalPassDone u words temp raw s
  | .calSubmit r u => Sys2Proof.Machine.execCalSubmit r u s
  | .calResultTimeout u => Sys2Proof.Machine.execCalResultTimeout u s
  | .calRetire r u sl => Sys2Proof.Machine.execCalRetire r u sl s
  | .calHold r u => Sys2Proof.Machine.execCalHold r u s
  | .calResume r u => Sys2Proof.Machine.execCalResume r u s
  | .calStepNow r u => Sys2Proof.Machine.execCalStepNow r u s
  | .monWindowEnd n devs => Sys2Proof.Machine.execMonWindowEnd n devs s
  | .txBiasFlag n sl bias => Sys2Proof.Machine.execTxBiasFlag n sl bias s
  | .pcQreqReceive n c => Sys2Proof.Machine.execPcQreqReceive n c s
  | .pcQgrantReceive n c => Sys2Proof.Machine.execPcQgrantReceive n c s
  | .quietWindowClose n => Sys2Proof.Machine.execQuietWindowClose n s
  | .quietMissed n => Sys2Proof.Machine.execQuietMissed n s
  | .calrefChange uv us => Sys2Proof.Machine.execCalrefChange uv us s
  | .calRefMeasure r => Sys2Proof.Machine.execCalRefMeasure r s
  | .calRefMeasureDone bg calref => Sys2Proof.Machine.execCalRefMeasureDone bg calref s
  | .marlHeaderReceive n faw fields crc => Sys2Proof.Machine.execMarlHeaderReceive n faw fields crc s
  | .fawMatch n faw => Sys2Proof.Machine.execFawMatch n faw s
  | .frameQualExpiry n late raw cf => Sys2Proof.Machine.execFrameQualExpiry n late raw cf s
  | .portFrameBoundary p skew lane => Sys2Proof.Machine.execPortFrameBoundary p skew lane s
  | .outerCodewordRx p errs => Sys2Proof.Machine.execOuterCodewordRx p errs s
  | .outerCodewordTx p word errs => Sys2Proof.Machine.execOuterCodewordTx p word errs s
  | .degIntervalEnd p => Sys2Proof.Machine.execDegIntervalEnd p s
  | .hostLosAssert m ampl => Sys2Proof.Machine.execHostLosAssert m ampl s
  | .hostLosClear m ampl => Sys2Proof.Machine.execHostLosClear m ampl s
  | .cdrLockSet m freqs => Sys2Proof.Machine.execCdrLockSet m freqs s
  | .cdrLost m limit => Sys2Proof.Machine.execCdrLost m limit s
  | .hostSnrWindowEnd m snr errs => Sys2Proof.Machine.execHostSnrWindowEnd m snr errs s
  | .hostAdvance r m => Sys2Proof.Machine.execHostAdvance r m s
  | .hostRestart r m => Sys2Proof.Machine.execHostRestart r m s
  | .amLock m late => Sys2Proof.Machine.execAmLock m late s
  | .amLockLoss m => Sys2Proof.Machine.execAmLockLoss m s
  | .hsFault m pll => Sys2Proof.Machine.execHsFault m pll s
  | .hostRxCommitPoint m late skew lane comp freq => Sys2Proof.Machine.execHostRxCommitPoint m late skew lane comp freq s
  | .hostTxCommitPoint m late comp => Sys2Proof.Machine.execHostTxCommitPoint m late comp s
  | .hslCommit r m groups => Sys2Proof.Machine.execHslCommit r m groups s
  | .hslTxPresetLoad r m preset => Sys2Proof.Machine.execHslTxPresetLoad r m preset s
  | .compSlip p l2h => Sys2Proof.Machine.execCompSlip p l2h s
  | .hostStamp p tx => Sys2Proof.Machine.execHostStamp p tx s
  | .add k gd gs1 x => Sys2Proof.Machine.execAdd k gd gs1 x s
  | .sub k gd gs1 x => Sys2Proof.Machine.execSub k gd gs1 x s
  | .adds k gd gs1 x => Sys2Proof.Machine.execAdds k gd gs1 x s
  | .subs k gd gs1 x => Sys2Proof.Machine.execSubs k gd gs1 x s
  | .mullo k gd gs1 x => Sys2Proof.Machine.execMullo k gd gs1 x s
  | .mulhiS k gd gs1 x => Sys2Proof.Machine.execMulhiS k gd gs1 x s
  | .mulhiU k gd gs1 x => Sys2Proof.Machine.execMulhiU k gd gs1 x s
  | .and k gd gs1 x => Sys2Proof.Machine.execAnd k gd gs1 x s
  | .or k gd gs1 x => Sys2Proof.Machine.execOr k gd gs1 x s
  | .xor k gd gs1 x => Sys2Proof.Machine.execXor k gd gs1 x s
  | .andn k gd gs1 x => Sys2Proof.Machine.execAndn k gd gs1 x s
  | .shl k gd gs1 x => Sys2Proof.Machine.execShl k gd gs1 x s
  | .shr k gd gs1 x => Sys2Proof.Machine.execShr k gd gs1 x s
  | .sra k gd gs1 x => Sys2Proof.Machine.execSra k gd gs1 x s
  | .ror k gd gs1 x => Sys2Proof.Machine.execRor k gd gs1 x s
  | .clz k gd gs1 => Sys2Proof.Machine.execClz k gd gs1 s
  | .min k gd gs1 x => Sys2Proof.Machine.execMin k gd gs1 x s
  | .max k gd gs1 x => Sys2Proof.Machine.execMax k gd gs1 x s
  | .minu k gd gs1 x => Sys2Proof.Machine.execMinu k gd gs1 x s
  | .maxu k gd gs1 x => Sys2Proof.Machine.execMaxu k gd gs1 x s
  | .klo k gd ix => Sys2Proof.Machine.execKlo k gd ix s
  | .khi k gd ix => Sys2Proof.Machine.execKhi k gd ix s
  | .cmpEq k pd gs1 x => Sys2Proof.Machine.execCmpEq k pd gs1 x s
  | .cmpLt k pd gs1 x => Sys2Proof.Machine.execCmpLt k pd gs1 x s
  | .cmpLtu k pd gs1 x => Sys2Proof.Machine.execCmpLtu k pd gs1 x s
  | .cmpLe k pd gs1 x => Sys2Proof.Machine.execCmpLe k pd gs1 x s
  | .cmpLeu k pd gs1 x => Sys2Proof.Machine.execCmpLeu k pd gs1 x s
  | .cmpBit k pd gs1 x => Sys2Proof.Machine.execCmpBit k pd gs1 x s
  | .plogAnd k pd pa pb => Sys2Proof.Machine.execPlogAnd k pd pa pb s
  | .plogOr k pd pa pb => Sys2Proof.Machine.execPlogOr k pd pa pb s
  | .plogXor k pd pa pb => Sys2Proof.Machine.execPlogXor k pd pa pb s
  | .plogAndn k pd pa pb => Sys2Proof.Machine.execPlogAndn k pd pa pb s
  | .setp k gd p => Sys2Proof.Machine.execSetp k gd p s
  | .lb k gd base off bits => Sys2Proof.Machine.execLb k gd base off bits s
  | .lh k gd base off bits => Sys2Proof.Machine.execLh k gd base off bits s
  | .lw k gd base off bits => Sys2Proof.Machine.execLw k gd base off bits s
  | .ld k p base off bits => Sys2Proof.Machine.execLd k p base off bits s
  | .lbu k gd base off bits => Sys2Proof.Machine.execLbu k gd base off bits s
  | .lhu k gd base off bits => Sys2Proof.Machine.execLhu k gd base off bits s
  | .sb k gs base off bits => Sys2Proof.Machine.execSb k gs base off bits s
  | .sh k gs base off bits => Sys2Proof.Machine.execSh k gs base off bits s
  | .sw k gs base off bits => Sys2Proof.Machine.execSw k gs base off bits s
  | .sd k p base off => Sys2Proof.Machine.execSd k p base off s
  | .brT k p off => Sys2Proof.Machine.execBrT k p off s
  | .brF k p off => Sys2Proof.Machine.execBrF k p off s
  | .jmp k off => Sys2Proof.Machine.execJmp k off s
  | .call k off => Sys2Proof.Machine.execCall k off s
  | .jmpr k gs off => Sys2Proof.Machine.execJmpr k gs off s
  | .callr k gs off => Sys2Proof.Machine.execCallr k gs off s
  | .vadd k vd vs1 x => Sys2Proof.Machine.execVadd k vd vs1 x s
  | .vsub k vd vs1 x => Sys2Proof.Machine.execVsub k vd vs1 x s
  | .vadds k vd vs1 x => Sys2Proof.Machine.execVadds k vd vs1 x s
  | .vsubs k vd vs1 x => Sys2Proof.Machine.execVsubs k vd vs1 x s
  | .vmul k vd vs1 x => Sys2Proof.Machine.execVmul k vd vs1 x s
  | .vmin k vd vs1 x => Sys2Proof.Machine.execVmin k vd vs1 x s
  | .vmax k vd vs1 x => Sys2Proof.Machine.execVmax k vd vs1 x s
  | .vabs k vd vs1 x => Sys2Proof.Machine.execVabs k vd vs1 x s
  | .vneg k vd vs1 x => Sys2Proof.Machine.execVneg k vd vs1 x s
  | .vshl k vd vs1 x => Sys2Proof.Machine.execVshl k vd vs1 x s
  | .vsra k vd vs1 x => Sys2Proof.Machine.execVsra k vd vs1 x s
  | .vcmplt k vd vs1 x => Sys2Proof.Machine.execVcmplt k vd vs1 x s
  | .vsel k vd vs1 x => Sys2Proof.Machine.execVsel k vd vs1 x s
  | .vld k vd base off stride2 rev flips => Sys2Proof.Machine.execVld k vd base off stride2 rev flips s
  | .vst k vs base off => Sys2Proof.Machine.execVst k vs base off s
  | .vclr k => Sys2Proof.Machine.execVclr k s
  | .vmac k vs1 vs2 => Sys2Proof.Machine.execVmac k vs1 vs2 s
  | .vmsc k vs1 vs2 => Sys2Proof.Machine.execVmsc k vs1 vs2 s
  | .vmacx k vs1 gs2 => Sys2Proof.Machine.execVmacx k vs1 gs2 s
  | .vrd k vd sh => Sys2Proof.Machine.execVrd k vd sh s
  | .vext k gd vs1 j => Sys2Proof.Machine.execVext k gd vs1 j s
  | .vins k vd gs j => Sys2Proof.Machine.execVins k vd gs j s
  | .xchgD k p base q bits => Sys2Proof.Machine.execXchgD k p base q bits s
  | .xaddD k p base q bits => Sys2Proof.Machine.execXaddD k p base q bits s
  | .rdcr k gd cr => Sys2Proof.Machine.execRdcr k gd cr s
  | .wrcr k gd gs cr => Sys2Proof.Machine.execWrcr k gd gs cr s
  | .mdcr k gd gs gt cr => Sys2Proof.Machine.execMdcr k gd gs gt cr s
  | .callk k code => Sys2Proof.Machine.execCallk k code s
  | .rte k => Sys2Proof.Machine.execRte k s
  | .wait k wakeN => Sys2Proof.Machine.execWait k wakeN s
  | .sync k => Sys2Proof.Machine.execSync k s
  | .dbg k => Sys2Proof.Machine.execDbg k s
  | .nop k => Sys2Proof.Machine.execNop k s
  | .illegalInstruction k enc => Sys2Proof.Machine.execIllegalInstruction k enc s
  | .interruptEntry k => Sys2Proof.Machine.execInterruptEntry k s
  | .timerMatch k => Sys2Proof.Machine.execTimerMatch k s
  | .engineWatchdog k => Sys2Proof.Machine.execEngineWatchdog k s
  | .engineHold r k => Sys2Proof.Machine.execEngineHold r k s
  | .engineRelease r k => Sys2Proof.Machine.execEngineRelease r k s
  | .engineDrainDone k => Sys2Proof.Machine.execEngineDrainDone k s
  | .engineRetire r k => Sys2Proof.Machine.execEngineRetire r k s
  | .cpOwnWrite r c t v => Sys2Proof.Machine.execCpOwnWrite r c t v s
  | .serveHoldExpiry c t => Sys2Proof.Machine.execServeHoldExpiry c t s
  | .clusterWindowWrite r c off bytes => Sys2Proof.Machine.execClusterWindowWrite r c off bytes s
  | .mbSend k dst m => Sys2Proof.Machine.execMbSend k dst m s
  | .mbW1Send r c e v => Sys2Proof.Machine.execMbW1Send r c e v s
  | .mbRxPop k => Sys2Proof.Machine.execMbRxPop k s
  | .mbStatRead k => Sys2Proof.Machine.execMbStatRead k s
  | .supMbPop r c => Sys2Proof.Machine.execSupMbPop r c s
  | .dmaStart k ch desc => Sys2Proof.Machine.execDmaStart k ch desc s
  | .dmaDescriptorDone c ch n => Sys2Proof.Machine.execDmaDescriptorDone c ch n s
  | .dmaCancel k ch => Sys2Proof.Machine.execDmaCancel k ch s
  | .dmaStatRead r c ch => Sys2Proof.Machine.execDmaStatRead r c ch s
  | .tapGo k => Sys2Proof.Machine.execTapGo k s
  | .tapSnapshotDone c samples => Sys2Proof.Machine.execTapSnapshotDone c samples s
  | .tapStatRead k => Sys2Proof.Machine.execTapStatRead k s
  | .cpCommit k t v => Sys2Proof.Machine.execCpCommit k t v s
  | .cpCommitStatRead k t => Sys2Proof.Machine.execCpCommitStatRead k t s
  | .perfOverflow c k => Sys2Proof.Machine.execPerfOverflow c k s
  | .perfSample c latency lost => Sys2Proof.Machine.execPerfSample c latency lost s
  | .perfBwWindow c => Sys2Proof.Machine.execPerfBwWindow c s
  | .pfStatClear r c v => Sys2Proof.Machine.execPfStatClear r c v s
  | .pcCellSlot n => Sys2Proof.Machine.execPcCellSlot n s
  | .pcCellMissing n => Sys2Proof.Machine.execPcCellMissing n s
  | .pcIdleReceive n c => Sys2Proof.Machine.execPcIdleReceive n c s
  | .pcIdentReceive n c => Sys2Proof.Machine.execPcIdentReceive n c s
  | .pcTxrspReceive n c => Sys2Proof.Machine.execPcTxrspReceive n c s
  | .pcTtAReceive n c => Sys2Proof.Machine.execPcTtAReceive n c s
  | .pcTtBReceive n c => Sys2Proof.Machine.execPcTtBReceive n c s
  | .pcRreqReceive n c => Sys2Proof.Machine.execPcRreqReceive n c s
  | .pcRrspReceive n c => Sys2Proof.Machine.execPcRrspReceive n c s
  | .pcRlbreqStart n c => Sys2Proof.Machine.execPcRlbreqStart n c s
  | .pcRlbreqStop n c => Sys2Proof.Machine.execPcRlbreqStop n c s
  | .pcRlbrspReceive n c => Sys2Proof.Machine.execPcRlbrspReceive n c s
  | .pcFwReceive n type c => Sys2Proof.Machine.execPcFwReceive n type c s
  | .pcReservedReceive n type c => Sys2Proof.Machine.execPcReservedReceive n type c s
  | .remoteReadDone n => Sys2Proof.Machine.execRemoteReadDone n s
  | .partTxreq r n v => Sys2Proof.Machine.execPartTxreq r n v s
  | .txrspTimeout n => Sys2Proof.Machine.execTxrspTimeout n s
  | .rrGo r n count2 snap => Sys2Proof.Machine.execRrGo r n count2 snap s
  | .requestResendTimeout n rlb => Sys2Proof.Machine.execRequestResendTimeout n rlb s
  | .rlbStartCmd r n => Sys2Proof.Machine.execRlbStartCmd r n s
  | .rlbStopCmd r n => Sys2Proof.Machine.execRlbStopCmd r n s
  | .rlbTimeout p => Sys2Proof.Machine.execRlbTimeout p s
  | .rlbAllowClear r n => Sys2Proof.Machine.execRlbAllowClear r n s
  | .fwTxQueue r n v => Sys2Proof.Machine.execFwTxQueue r n v s
  | .fwRxPop r n => Sys2Proof.Machine.execFwRxPop r n s
  | .farClr r n => Sys2Proof.Machine.execFarClr r n s
  | .dawnSend r n => Sys2Proof.Machine.execDawnSend r n s
  | .dawnResend r n => Sys2Proof.Machine.execDawnResend r n s
  | .dawnAbort r n => Sys2Proof.Machine.execDawnAbort r n s
  | .dawnRxPop r n => Sys2Proof.Machine.execDawnRxPop r n s
  | .dawnCntClr r n => Sys2Proof.Machine.execDawnCntClr r n s
  | .dawnTxDone n => Sys2Proof.Machine.execDawnTxDone n s
  | .dawnTxBlocked n => Sys2Proof.Machine.execDawnTxBlocked n s
  | .helloDue n => Sys2Proof.Machine.execHelloDue n s
  | .dawnDetection n d more => Sys2Proof.Machine.execDawnDetection n d more s
  | .dawnSyncFound n word => Sys2Proof.Machine.execDawnSyncFound n word s
  | .dawnSyncTimeout n => Sys2Proof.Machine.execDawnSyncTimeout n s
  | .dawnHeaderReceive n type len seq src hcs => Sys2Proof.Machine.execDawnHeaderReceive n type len seq src hcs s
  | .dawnPacketEnd n payload crc => Sys2Proof.Machine.execDawnPacketEnd n payload crc s
  | .dawnCandidateLapse n => Sys2Proof.Machine.execDawnCandidateLapse n s
  | .dawnNoiseMeasure n floor full => Sys2Proof.Machine.execDawnNoiseMeasure n floor full s
  | .dawnRxEnable r n => Sys2Proof.Machine.execDawnRxEnable r n s
  | .dawnRxDisable r n => Sys2Proof.Machine.execDawnRxDisable r n s
  | .timeWrap => Sys2Proof.Machine.execTimeWrap s
  | .incrApply r v => Sys2Proof.Machine.execIncrApply r v s
  | .timeSet r => Sys2Proof.Machine.execTimeSet r s
  | .timeStep r => Sys2Proof.Machine.execTimeStep r s
  | .timeSynced r => Sys2Proof.Machine.execTimeSynced r s
  | .qualityWrite r q => Sys2Proof.Machine.execQualityWrite r q s
  | .holdoverTimeout => Sys2Proof.Machine.execHoldoverTimeout s
  | .timeSourceWrite r v => Sys2Proof.Machine.execTimeSourceWrite r v s
  | .ppsArm r v => Sys2Proof.Machine.execPpsArm r v s
  | .ppsOutEdge => Sys2Proof.Machine.execPpsOutEdge s
  | .ppsOutPulseEnd => Sys2Proof.Machine.execPpsOutPulseEnd s
  | .ppsInEdge => Sys2Proof.Machine.execPpsInEdge s
  | .ppsInLost => Sys2Proof.Machine.execPpsInLost s
  | .ppsInHiRead r => Sys2Proof.Machine.execPpsInHiRead r s
  | .todTxWrite r b => Sys2Proof.Machine.execTodTxWrite r b s
  | .todTxDelayExpiry => Sys2Proof.Machine.execTodTxDelayExpiry s
  | .todRxByte b => Sys2Proof.Machine.execTodRxByte b s
  | .todRxPop r => Sys2Proof.Machine.execTodRxPop r s
  | .ttRequestTimer n => Sys2Proof.Machine.execTtRequestTimer n s
  | .ttTimeout n => Sys2Proof.Machine.execTtTimeout n s
  | .ttInfoRead r n => Sys2Proof.Machine.execTtInfoRead r n s
  | .timeWakeAddition => Sys2Proof.Machine.execTimeWakeAddition s
  | .memoryRead r a bits => Sys2Proof.Machine.execMemoryRead r a bits s
  | .memoryWrite r a bytes => Sys2Proof.Machine.execMemoryWrite r a bytes s
  | .gatherTimeout r => Sys2Proof.Machine.execGatherTimeout r s
  | .bucketLeak inst => Sys2Proof.Machine.execBucketLeak inst s
  | .dramScrubVisit bits => Sys2Proof.Machine.execDramScrubVisit bits s
  | .sramScrubVisit inst bits => Sys2Proof.Machine.execSramScrubVisit inst bits s
  | .suspectRevisit slot bits => Sys2Proof.Machine.execSuspectRevisit slot bits s
  | .rowRepairComplete ups => Sys2Proof.Machine.execRowRepairComplete ups s
  | .fillGo r => Sys2Proof.Machine.execFillGo r s
  | .fillCancel r n => Sys2Proof.Machine.execFillCancel r n s
  | .fillGranuleComplete => Sys2Proof.Machine.execFillGranuleComplete s
  | .fillDone => Sys2Proof.Machine.execFillDone s
  | .initSet r g => Sys2Proof.Machine.execInitSet r g s
  | .initClr r g => Sys2Proof.Machine.execInitClr r g s
  | .rprInstall r v => Sys2Proof.Machine.execRprInstall r v s
  | .testWriteRaw r => Sys2Proof.Machine.execTestWriteRaw r s
  | .testReadRaw r bits => Sys2Proof.Machine.execTestReadRaw r bits s
  | .captureRoll r => Sys2Proof.Machine.execCaptureRoll r s
  | .captureArm r => Sys2Proof.Machine.execCaptureArm r s
  | .captureSwTrigger r => Sys2Proof.Machine.execCaptureSwTrigger r s
  | .captureStop r => Sys2Proof.Machine.execCaptureStop r s
  | .captureRelease r => Sys2Proof.Machine.execCaptureRelease r s
  | .trigInPulse => Sys2Proof.Machine.execTrigInPulse s
  | .capturePostComplete => Sys2Proof.Machine.execCapturePostComplete s
  | .captureDrainDone => Sys2Proof.Machine.execCaptureDrainDone s
  | .replayGo r => Sys2Proof.Machine.execReplayGo r s
  | .replayAbort r => Sys2Proof.Machine.execReplayAbort r s
  | .replayFrame => Sys2Proof.Machine.execReplayFrame s
  | .replayHoldRelease => Sys2Proof.Machine.execReplayHoldRelease s
  | .replayStalled => Sys2Proof.Machine.execReplayStalled s
  | .exportGo r => Sys2Proof.Machine.execExportGo r s
  | .exportCancel r => Sys2Proof.Machine.execExportCancel r s
  | .exportPacket => Sys2Proof.Machine.execExportPacket s
  | .traceBitSlip r lanes => Sys2Proof.Machine.execTraceBitSlip r lanes s
  | .traceWordSlip r lanes => Sys2Proof.Machine.execTraceWordSlip r lanes s
  | .traceLaneLock l run => Sys2Proof.Machine.execTraceLaneLock l run s
  | .traceLaneUnlock l code disp => Sys2Proof.Machine.execTraceLaneUnlock l code disp s
  | .spiWrite inc a words => Sys2Proof.Machine.execSpiWrite inc a words s
  | .spiRead inc a n flips => Sys2Proof.Machine.execSpiRead inc a n flips s
  | .spiStatus => Sys2Proof.Machine.execSpiStatus s
  | .spiReservedOp => Sys2Proof.Machine.execSpiReservedOp s
  | .spiFrameEnd => Sys2Proof.Machine.execSpiFrameEnd s
  | .mdioAddressFrame port reg => Sys2Proof.Machine.execMdioAddressFrame port reg s
  | .mdioWriteFrame port v => Sys2Proof.Machine.execMdioWriteFrame port v s
  | .mdioReadFrame port => Sys2Proof.Machine.execMdioReadFrame port s
  | .mdioPostReadIncFrame port => Sys2Proof.Machine.execMdioPostReadIncFrame port s
  | .mdioTransactionDone bits => Sys2Proof.Machine.execMdioTransactionDone bits s
  | .busTimeout r a read => Sys2Proof.Machine.execBusTimeout r a read s
  | .logRecordWrite => Sys2Proof.Machine.execLogRecordWrite s
  | .logEnable r => Sys2Proof.Machine.execLogEnable r s
  | .logDisable r => Sys2Proof.Machine.execLogDisable r s
  | .propSubmit r => Sys2Proof.Machine.execPropSubmit r s
  | .propWithdraw r => Sys2Proof.Machine.execPropWithdraw r s
  | .ratify r v => Sys2Proof.Machine.execRatify r v s
  | .propExpiry => Sys2Proof.Machine.execPropExpiry s
  | .pwrModeRequest r t => Sys2Proof.Machine.execPwrModeRequest r t s
  | .entryDrainDone wakeN during => Sys2Proof.Machine.execEntryDrainDone wakeN during s
  | .entryStopDone => Sys2Proof.Machine.execEntryStopDone s
  | .entryComplete wakeN => Sys2Proof.Machine.execEntryComplete wakeN s
  | .wakeSource n => Sys2Proof.Machine.execWakeSource n s
  | .wakeTimerExpiry => Sys2Proof.Machine.execWakeTimerExpiry s
  | .wakeComplete => Sys2Proof.Machine.execWakeComplete s
  | .padRelease r => Sys2Proof.Machine.execPadRelease r s
  | .boWarn => Sys2Proof.Machine.execBoWarn s
  | .boClear => Sys2Proof.Machine.execBoClear s
  | .boResume => Sys2Proof.Machine.execBoResume s
  | .railLoss rail => Sys2Proof.Machine.execRailLoss rail s
  | .powerOn => Sys2Proof.Machine.execPowerOn s
  | .resetPin => Sys2Proof.Machine.execResetPin s
  | .coldResetRelease cascLow bootSel prtad => Sys2Proof.Machine.execColdResetRelease cascLow bootSel prtad s
  | .rstCmdCold r key => Sys2Proof.Machine.execRstCmdCold r key s
  | .rstCmdWarm r key => Sys2Proof.Machine.execRstCmdWarm r key s
  | .groupReset r v => Sys2Proof.Machine.execGroupReset r v s
  | .groupResetDone => Sys2Proof.Machine.execGroupResetDone s
  | .refclkLost => Sys2Proof.Machine.execRefclkLost s
  | .refclkBack => Sys2Proof.Machine.execRefclkBack s
  | .corePllUnlock => Sys2Proof.Machine.execCorePllUnlock s
  | .lanePllUnlock n tx => Sys2Proof.Machine.execLanePllUnlock n tx s
  | .lanePllRelock n tx => Sys2Proof.Machine.execLanePllRelock n tx s
  | .timePllUnlock => Sys2Proof.Machine.execTimePllUnlock s
  | .tracePllUnlock => Sys2Proof.Machine.execTracePllUnlock s
  | .clusterClockGate c => Sys2Proof.Machine.execClusterClockGate c s
  | .clockRestart c => Sys2Proof.Machine.execClockRestart c s
  | .pulseCrossingDelivery cls n => Sys2Proof.Machine.execPulseCrossingDelivery cls n s
  | .sensorSample t => Sys2Proof.Machine.execSensorSample t s
  | .sensorReadmit r k => Sys2Proof.Machine.execSensorReadmit r k s
  | .hkSeqEnable r => Sys2Proof.Machine.execHkSeqEnable r s
  | .hkSeqDisable r => Sys2Proof.Machine.execHkSeqDisable r s
  | .hkTrigger r => Sys2Proof.Machine.execHkTrigger r s
  | .hkRqFlush r => Sys2Proof.Machine.execHkRqFlush r s
  | .hkCntClr r => Sys2Proof.Machine.execHkCntClr r s
  | .hkTimerFire t => Sys2Proof.Machine.execHkTimerFire t s
  | .hkDelayEnd => Sys2Proof.Machine.execHkDelayEnd s
  | .hkConversionDone k vin vref => Sys2Proof.Machine.execHkConversionDone k vin vref s
  | .hkGapEnd => Sys2Proof.Machine.execHkGapEnd s
  | .hkUrgentRequest r ch ref avg => Sys2Proof.Machine.execHkUrgentRequest r ch ref avg s
  | .hkRqPop r => Sys2Proof.Machine.execHkRqPop r s
  | .hkSubconvCalibrate k offset gain => Sys2Proof.Machine.execHkSubconvCalibrate k offset gain s
  | .hkRefSettled ref => Sys2Proof.Machine.execHkRefSettled ref s
  | .hkVrefFault => Sys2Proof.Machine.execHkVrefFault s
  | .cdEnable r c => Sys2Proof.Machine.execCdEnable r c s
  | .cdDisable r c => Sys2Proof.Machine.execCdDisable r c s
  | .cdSpanWrite r c span => Sys2Proof.Machine.execCdSpanWrite r c span s
  | .cdQueueWrite r c code => Sys2Proof.Machine.execCdQueueWrite r c code s
  | .cdUpdateTick c => Sys2Proof.Machine.execCdUpdateTick c s
  | .cdSlewTick c => Sys2Proof.Machine.execCdSlewTick c s
  | .cdSwitchEnd c => Sys2Proof.Machine.execCdSwitchEnd c s
  | .cdShort c limiting => Sys2Proof.Machine.execCdShort c limiting s
  | .cdShortHiz c => Sys2Proof.Machine.execCdShortHiz c s
  | .pwmDutyWrite r k duty => Sys2Proof.Machine.execPwmDutyWrite r k duty s
  | .pwmPeriodBoundary k => Sys2Proof.Machine.execPwmPeriodBoundary k s
  | .pwmTriggerEdge k => Sys2Proof.Machine.execPwmTriggerEdge k s
  | .pwmEnable r k => Sys2Proof.Machine.execPwmEnable r k s
  | .pwmDisable r k => Sys2Proof.Machine.execPwmDisable r k s
  | .dlDone r => Sys2Proof.Machine.execDlDone r s
  | .imageStoreDone flashErr => Sys2Proof.Machine.execImageStoreDone flashErr s
  | .fwActivate r => Sys2Proof.Machine.execFwActivate r s
  | .fwConfirm r => Sys2Proof.Machine.execFwConfirm r s
  | .fwRevert r => Sys2Proof.Machine.execFwRevert r s
  | .trialTimeout => Sys2Proof.Machine.execTrialTimeout s
  | .supWatchdog => Sys2Proof.Machine.execSupWatchdog s
  | .bootDone items => Sys2Proof.Machine.execBootDone items s
  | .cascWr f crc => Sys2Proof.Machine.execCascWr f crc s
  | .cascRd f crc => Sys2Proof.Machine.execCascRd f crc s
  | .cascRsp f crc => Sys2Proof.Machine.execCascRsp f crc s
  | .cascLoad f crc => Sys2Proof.Machine.execCascLoad f crc s
  | .cascGo f crc => Sys2Proof.Machine.execCascGo f crc s
  | .cascHello f crc => Sys2Proof.Machine.execCascHello f crc s
  | .cascEvt f crc => Sys2Proof.Machine.execCascEvt f crc s
  | .cascTime f crc => Sys2Proof.Machine.execCascTime f crc s
  | .cascWarm f crc => Sys2Proof.Machine.execCascWarm f crc s
  | .cascResendTimeout => Sys2Proof.Machine.execCascResendTimeout s
  | .chSign r => Sys2Proof.Machine.execChSign r s
  | .chSignDone => Sys2Proof.Machine.execChSignDone s
  | .certLenWrite r v => Sys2Proof.Machine.execCertLenWrite r v s
  | .lcsToProvisioned r key => Sys2Proof.Machine.execLcsToProvisioned r key s
  | .lcsToDeployed r key => Sys2Proof.Machine.execLcsToDeployed r key s
  | .lcsToReturned r key => Sys2Proof.Machine.execLcsToReturned r key s
  | .lcsToScrapped r key => Sys2Proof.Machine.execLcsToScrapped r key s
  | .fuseWriteDone read1 read2 => Sys2Proof.Machine.execFuseWriteDone read1 read2 s
  | .secverAdvance r v => Sys2Proof.Machine.execSecverAdvance r v s
  | .bistRom r => Sys2Proof.Machine.execBistRom r s
  | .bistLogic r t => Sys2Proof.Machine.execBistLogic r t s
  | .bistSramMarch r t => Sys2Proof.Machine.execBistSramMarch r t s
  | .bistDramMarch r t => Sys2Proof.Machine.execBistDramMarch r t s
  | .bistAnaLoop r t => Sys2Proof.Machine.execBistAnaLoop r t s
  | .bistHostLoop r t => Sys2Proof.Machine.execBistHostLoop r t s
  | .bistRef r => Sys2Proof.Machine.execBistRef r s
  | .bistAbort r => Sys2Proof.Machine.execBistAbort r s
  | .bistTestDone sig rows rx tx refOk => Sys2Proof.Machine.execBistTestDone sig rows rx tx refOk s
  | .fuseRepair r => Sys2Proof.Machine.execFuseRepair r s
  | .pcCellBad n => Sys2Proof.Machine.execPcCellBad n s
  | .hostPllLocked m rx => Sys2Proof.Machine.execHostPllLocked m rx s
  | .vrefInRange => Sys2Proof.Machine.execVrefInRange s
  | .warmResetDone => Sys2Proof.Machine.execWarmResetDone s
  | .cascEvtInterval => Sys2Proof.Machine.execCascEvtInterval s
  | .dramBwWindow => Sys2Proof.Machine.execDramBwWindow s
  | .hkConversionSlot k => Sys2Proof.Machine.execHkConversionSlot k s
  | .prbsChkLock m lock errs => Sys2Proof.Machine.execPrbsChkLock m lock errs s

end Sys2Proof.Machine
end

