-- ==== Sys2Proof/Machine/Idle.lean ====
section
/-! DEFINITION. What happens at a tick of the 625 MHz time clock when no command waits. -/

namespace Sys2Proof.Machine

/-- A tick (R324, R433, R570): the time counter and the true-order tick advance, the frames of the last interval have left the cascade link, and a
slave whose interrupt levels have changed sends an EVT frame, a master whose time has been steered a TIME frame (R344). The device has no tick while it is held in cold reset (DESIGN CHOICE, log entry 44). -/
def State.tickIdle (s : State) : State :=
  if s.pwr.hold then s
  else
    let s := { s with casc := { s.casc with sent := [] } }
    s.oneTick.evtChange.tellTime

end Sys2Proof.Machine
end

