-- ==== Sys2Proof/Safety.lean ====
section
/-! DEFINITION. What the claims call safe, and the terms in which they are stated: completion, frames, and what an instruction of a
core may touch beside its result. -/

namespace Sys2Proof.Safety

open Sys2Proof.Machine

/-- The memory is in canonical form: addresses strictly rising, and no entry equal to what its address reads as unlisted. -/
abbrev memoryOk (s : State) : Prop := Memory.wf s = true

/-- The command completes: exec answers a next state, and `P` holds of it. -/
def completes (c : Instr) (s : State) (P : State → Prop) : Prop := ∃ t, exec c s = .next t ∧ P t

/-! ## Frames -/

/-- Every byte of memory reads as before. -/
def memSame (s t : State) : Prop := ∀ a, t.byte a = s.byte a

/-- Every byte of memory outside `n` bytes from `a` reads as before. -/
def memSameBut (s t : State) (a n : Nat) : Prop := ∀ x, x < a ∨ a + n ≤ x → t.byte x = s.byte x

/-- Every register whose address is not in `p` holds what it held. -/
def regsSame (s t : State) (p : Nat → Prop) : Prop := ∀ a, ¬ p a → t.rd a = s.rd a

/-- An address in the 4 KiB page at `b`. -/
def inPage (b a : Nat) : Prop := b ≤ a ∧ a < b + 0x1000

/-- Every core holds what it held. -/
def coresSame (s t : State) : Prop := ∀ k, t.core k = s.core k

/-- The engines and the supervisor, the commands waiting and the memory are untouched, and every register outside the page at `b`
holds what it held. -/
def onlyPage (s t : State) (b : Nat) : Prop :=
  t.pending = s.pending ∧ coresSame s t ∧ memSame s t ∧ regsSame s t (inPage b)

/-- The queue, the engines and the supervisor, the memory, and every register but those at the addresses `l` are as they were. -/
def onlyRegs (s t : State) (l : List Nat) : Prop :=
  t.pending = s.pending ∧ coresSame s t ∧ memSame s t ∧ regsSame s t (fun a => a ∈ l)

/-- Everything but the host's interfaces (the SPI frame's error and the last read's answer) is as it was. -/
def nothing (s t : State) : Prop := onlyRegs s t []

/-- As `onlyRegs`, of a command to which time has run: the registers of the page TIME may have changed too. -/
def onlyTimed (s t : State) (l : List Nat) : Prop :=
  t.pending = s.pending ∧ coresSame s t ∧ memSame s t ∧ regsSame s t (fun a => a ∈ l ∨ inPage pTIME a)

/-- An event's EVT_RAW bit is set (R427). -/
def raised (t : State) (e : Ev) (i : Nat) : Prop := t.bit (pageAt e.fam i) (bitAt HDR.EVT_RAW e.bit) = true

/-- The address of EVT_RAW of a page. -/
def rawAt (fam i : Nat) : Nat := pageAt fam i + HDR.EVT_RAW

/-- No self-test runs, and no calibration unit has a visit under way, a change that waits for a commit point, a slice flagged or one to be
retired (R138, R142, R578): a change elsewhere sets off nothing in them. -/
def settled (s : State) : Prop :=
  s.boot.bist = none ∧ ∀ u, u < 16 → s.phase u = 0 ∧ (s.calSt u).wait = 0 ∧ (s.calSt u).suspect = 0 ∧ (s.calSt u).retireCmd = []

/-- The queue, the engines and the supervisor, the memory, and every register outside the pages at `l` are as they were. -/
def onlyPages (s t : State) (l : List Nat) : Prop :=
  t.pending = s.pending ∧ coresSame s t ∧ memSame s t ∧ regsSame s t (fun a => ∃ b ∈ l, inPage b a)

/-- The pages that the lock state of line lane `n` reaches: its own, frame lock, the ports, the outer code, time and capture. -/
def lanePages (n : Nat) : List Nat := [pLRX n, pIFEC n, pPORT, pTIME, pCAP] ++ (List.range 8).map pOFEC

/-- The pages that the state of host lane `m` reaches. -/
def hostPages (m : Nat) : List Nat := [pHSL m, pPORT] ++ (List.range 8).map pOFEC

/-- Time has run to a tick of the 625 MHz clock, or has stood still where that had passed (log entry 103). -/
def ranTo (s t : State) (tick : Nat) : Prop := t.tick = max s.tick tick

/-! ## Commits -/

/-- The value in force of the register at `a` of group `g` once the requests `l`, in their order, have taken effect on it (R33). -/
def inForceAfter (page dir g a : Nat) (l : List CommitReq) (w : Word) : Word :=
  l.foldl (fun w r => if r.page = page ∧ (r.groups &&& dir).testBit g = true then (Tbl.find r.vals a).getD w else w) w

/-- Every request waiting for a page's direction `dir` has taken effect, whole and in the order accepted (R30, R33). -/
def tookEffect (s t : State) (page dir : Nat) : Prop :=
  (∀ r ∈ t.commits, r.page = page → r.groups &&& dir = 0)
    ∧ ∀ g a, g < 7 → a ∈ groupAddrs page g → t.inf a = inForceAfter page dir g a s.commits (s.inf a)

/-- A request for the groups `mask` of a page has been accepted with the values that their shadows hold (R33, R59). -/
def accepted (s t : State) (page mask src : Nat) : Prop :=
  ∃ q : CommitReq, t.commits = s.commits ++ [q] ∧ q.page = page ∧ q.groups = mask ∧ q.src = src
    ∧ ∀ g a, g < 7 → mask.testBit g = true → a ∈ groupAddrs page g → Tbl.find q.vals a = some (t.rd a)

/-! ## Partner cells -/

/-- A cell of a type arrives on lane `n` in sequence (R285, R286). -/
def arrives (s : State) (n type : Nat) (c : Cell) : Prop :=
  s.aligned n = true ∧ (s.partSt n).asm.done = some (some (cellWhole c type))
    ∧ crc16 112 (cellBits type c.seq.toNat c.tag.toNat c.payload.toNat) = c.crc.toNat
    ∧ ((s.partSt n).first = true ∨ (c.seq.toNat + 2 ^ 16 - (s.partSt n).rxSeq) % 2 ^ 16 = 1)

/-- It is no repetition of the request that the lane answered last (R290). -/
def newRequest (s : State) (n type : Nat) (c : Cell) : Prop :=
  ∀ t g y, (s.partSt n).last = some (t, g, y) → ¬ (t = type ∧ g = c.tag.toNat)

/-- An accepted cell is counted and its SEQ kept (R286). -/
def cellTaken (s t : State) (n : Nat) (c : Cell) : Prop :=
  (t.partSt n).rxSeq = c.seq.toNat ∧ t.rd (pPART n + PART.CNT_RXOK) = s.rd (pPART n + PART.CNT_RXOK) + 1

/-! ## What an instruction of core `k` may touch -/

/-- Two cores agree but for their latched interrupt sources. -/
def sameBut (x y : Core) : Prop := x = { y with ipend := x.ipend }

/-- The registers that an instruction of core `k` may touch beside its own effect: the PERF page of the cluster the core counts in
(R270) and the word that shows the core's state (R235). -/
def perfRegs (s : State) (k a : Nat) : Prop :=
  k < 256 ∧ (inPage (pPERF (s.homeOf k)) a ∨ a = pCLU (k / 16) + CLU.E_STAT + 4 * (k % 16))

/-- What one instruction of core `k` leaves: the core as `c`, in RUN; every other core as it was; but a counter that passes its
limit may raise PERF (bit 5 of IPEND) at any core. -/
def ran (k : Nat) (s t : State) (c : Core) : Prop :=
  sameBut (t.core k) c ∧ t.coreState k = 1 ∧ (∀ j, j ≠ k → sameBut (t.core j) (s.core j))
    ∧ (∀ j, (t.core j).ipend = (s.core j).ipend ∨ (t.core j).ipend = (s.core j).ipend ||| 0x20)

/-- `ran`, with every byte of memory and every other register as before. -/
def ranOnly (k : Nat) (s t : State) (c : Core) : Prop :=
  ran k s t c ∧ memSame s t ∧ regsSame s t (perfRegs s k)

/-- A trap or interrupt entry from core state `c` (R239): SR into TSR, the level raised, IE 0, TBUSY 1, the predicates kept, TPC, TCODE
and TADDR written, and the PC at `pc`. -/
def entered (k : Nat) (c : Core) (code : Word) (addr pc : Word) : Core :=
  { c with tsr := c.sr, sr := (c.sr &&& 0xF0) ||| (if k = supId then 0xA else 0x9), tpc := c.pc, tcode := code, taddr := addr,
           pc := pc, stalled := false }

/-! ## What a register write needs -/

/-- Requester `r` has gathered nothing that would issue first (R420, R628). -/
def idleGather (s : State) (r : Requester) : Prop :=
  Tbl.find s.gathers (s.master r) = none ∧ (r = .sup → s.supHeld = none)

/-- A write of `v` by `r` to the register at `off` of instance `i` of family `fam` reaches the register (R11, R13, R413, R438, R442, R454):
the page is populated, the requester may write, LOCK does not hold it, it is no command to a draining page that R438 does not
except, and `v` sets no reserved bit. -/
def reaches (s : State) (r : Requester) (fam i off : Nat) (v : Word) : Prop :=
  idleGather s r ∧ off % 4 = 0 ∧ s.region r (pageAt fam i + off) = .page fam i off ∧ s.mayWrite (s.master r) fam off = true
    ∧ ∃ row, findRow fam off = some row ∧ row.acc ≠ .ro ∧ v &&& ~~~row.mask = 0
        ∧ (row.acc = .rwl → s.bit (pageAt fam i) HDR.LOCK = false)
        ∧ (row.acc = .wo → off ≠ HDR.SNAP → s.fstate (pageAt fam i) = 2 → drainExempt fam off v = true)

/-- A read by `r` at `a` reaches a register (R413, R629). -/
def readable (s : State) (r : Requester) (a : Nat) : Prop :=
  idleGather s r ∧ a % 4 = 0 ∧ ∃ fam i off, s.region r a = .page fam i off

/-! ## Memory words -/

/-- A code word whose cells hold data `v` under a valid code: written, not poisoned, no cell flipped (R352, R363, R376). -/
def clean (s : State) (inst idx v : Nat) : Prop :=
  s.uninit inst idx = false ∧ s.poisoned inst idx = false ∧ Tbl.get 0 s.ms.flips (wordKey inst idx) = 0
    ∧ s.number (devAddr inst idx) (wordLen inst) = some v

/-- What the last read of requester `r` was answered. -/
def answered (s : State) (r : Requester) : Nat := Tbl.get 0 s.resp (s.respKey r)

/-- The RAM word that holds offset `o` of what engine `k` sees: its own data RAM, or the shared SRAM of its cluster (R234, R246). -/
def engWord (s : State) (k a : Nat) : Option (Nat × Nat × Nat) :=
  match eSpace a with
  | .ram o => some (10 + 3 * (k / 16), 2048 * (k % 16) + o / 8, o % 8)
  | .sram o => some (8 + 3 * s.homeOf k, o / 8, o % 8)
  | _ => none

/-- Engine `k`'s access to `n` bytes at `a` is admitted (R238, R246, R629): aligned, in its data RAM or its cluster's shared SRAM, there at
kernel level or inside the task window, and the cluster's island up. -/
def engMay (s : State) (k a n : Nat) : Prop :=
  a % n = 0 ∧ ∃ o, eSpace a = .ram o ∨ (eSpace a = .sram o ∧ s.windowUp (s.homeOf k) = true
    ∧ ((s.core k).level ≠ 0 ∨ ((s.core k).winBase.toNat ≤ o ∧ o + n ≤ (s.core k).winLimit.toNat + 64)))

end Sys2Proof.Safety
end

