-- ==== Sys2Proof/Certificates/Slice0/Obligations.lean ====
section
/-! DEFINITION. The statements for the provers. `completes c s P` says that exec of `c` on `s` answers a next state of which `P`
holds. -/

open Sys2Proof Sys2Proof.Machine Sys2Proof.Safety

/-- A step takes the command at the front of the queue and runs it with the queue's rest (12_control_plane.md; log entry 44).
For every command c and state s, the step of s with c put at the front of its queue is exec of c on s, whose queue is the rest; on
an empty queue a step is one tick of the time clock (the model's choice, log entry 44). And the table gives no row any bits, so no
word spells a command and withFetchWord leaves every state as it is. -/
def Obligations.StepRunsTheFrontCommand : Prop :=
  (∀ (c : Instr) (s : State), step { s with pending := c :: s.pending } = exec c s)
    ∧ (∀ s : State, s.pending = [] → step s = .next s.tickIdle)
    ∧ (∀ nbits w, decodeTableWord nbits w = none)
    ∧ (∀ (s : State) nbits w, s.withFetchWord nbits w = s)

/-- ADD, SUB, ADDS, SUBS, MULLO, MULHI, MIN, MAX, MINU, MAXU, CLZ, KLO and KHI complete and write gd (07_engines.md R241; 07_engines.md R237; 07_engines.md R240; 07_engines.md R270).
On every core that runs (an engine or the supervisor), for every gd, gs1 and second operand (a register, or imm16 sign-extended
for the arithmetic forms, MIN and MAX and zero-extended for MINU and MAXU): gd becomes the sum, difference, saturated sum or
difference, low 32 bits of the product, bits 63 to 32 of the signed or unsigned 64-bit product, the signed or unsigned minimum or
maximum, the count of leading zeros, the sign-extended imm20, or imm16 over the low half of gd. The PC moves by 4, nothing else of
the core changes, no byte of memory changes, and no register outside the PERF page of the engine's cluster and the engine's
E_STAT. -/
def Obligations.ScalarArithmeticCompletes : Prop :=
  ∀ (s : State) (k : Fin 257) (gd gs1 : Fin 16) (x : Src) (i20 : BitVec 20) (i16 : BitVec 16), s.runs k.val = true →
      let c := s.core k.val
      let a := c.gr gs1.val
      let b : Word := match x with | .reg g => c.gr g.val | .imm i => i.signExtend 32
      let u : Word := match x with | .reg g => c.gr g.val | .imm i => i.setWidth 32
      let sat (n : Int) : Word := BitVec.ofInt 32 (max (-2147483648) (min 2147483647 n))
      let res (w : Word) (t : State) : Prop := ranOnly k.val s t ((c.setG gd.val w).past) ∧ (t.core k.val).gr gd.val = w
      completes (.add k gd gs1 x) s (res (a + b))
        ∧ completes (.sub k gd gs1 x) s (res (a - b))
        ∧ completes (.adds k gd gs1 x) s (res (sat (a.toInt + b.toInt)))
        ∧ completes (.subs k gd gs1 x) s (res (sat (a.toInt - b.toInt)))
        ∧ completes (.mullo k gd gs1 x) s (res (a * b))
        ∧ completes (.mulhiS k gd gs1 x) s (res ((a.signExtend 64 * b.signExtend 64).extractLsb' 32 32))
        ∧ completes (.mulhiU k gd gs1 x) s (res ((a.setWidth 64 * b.setWidth 64).extractLsb' 32 32))
        ∧ completes (.min k gd gs1 x) s (res (if a.toInt ≤ b.toInt then a else b))
        ∧ completes (.max k gd gs1 x) s (res (if a.toInt ≤ b.toInt then b else a))
        ∧ completes (.minu k gd gs1 x) s (res (if a.toNat ≤ u.toNat then a else u))
        ∧ completes (.maxu k gd gs1 x) s (res (if a.toNat ≤ u.toNat then u else a))
        ∧ (∃ n, completes (.clz k gd gs1) s (res (BitVec.ofNat 32 n)) ∧ n ≤ 32 ∧ a.toNat < 2 ^ (32 - n) ∧ (n < 32 → 2 ^ (31 - n) ≤ a.toNat))
        ∧ completes (.klo k gd i20) s (res (i20.signExtend 32))
        ∧ (∃ w, completes (.khi k gd i16) s (res w) ∧ w.extractLsb' 16 16 = i16 ∧ w.extractLsb' 0 16 = (c.gr gd.val).extractLsb' 0 16)

/-- Logic, shifts, compares, PLOG, SETP and NOP complete with their results (07_engines.md R241; 07_engines.md R237; 07_engines.md R240).
On every core that runs, for every operand: AND, OR, XOR and ANDN (gs1 AND NOT the second operand) with a register or a zero-
extended imm16; SHL, SHR, SRA and ROR by the low 5 bits of the operand; the six compares of gs1 with gs2 or a signed imm15 write 1
or 0 into predicate pd and no general register; PLOG writes pa op pb; SETP writes 1 or 0 into gd; NOP writes nothing. The PC moves
by 4, nothing else of the core changes, no byte of memory changes, and no register outside the PERF page of the engine's cluster
and the engine's E_STAT. -/
def Obligations.LogicShiftAndPredicatesComplete : Prop :=
  ∀ (s : State) (k : Fin 257) (gd gs1 : Fin 16) (pd pa pb : Fin 4) (x : Src) (y : CmpSrc), s.runs k.val = true →
      let c := s.core k.val
      let a := c.gr gs1.val
      let u : Word := match x with | .reg g => c.gr g.val | .imm i => i.setWidth 32
      let n := u.toNat % 32
      let z : Word := match y with | .reg g => c.gr g.val | .imm i => i.signExtend 32
      let res (w : Word) (t : State) : Prop := ranOnly k.val s t ((c.setG gd.val w).past) ∧ (t.core k.val).gr gd.val = w
      let cond (b : Bool) (t : State) : Prop := ranOnly k.val s t ((c.setPred pd.val b).past) ∧ (t.core k.val).pred pd.val = b
      completes (.and k gd gs1 x) s (res (a &&& u))
        ∧ completes (.or k gd gs1 x) s (res (a ||| u))
        ∧ completes (.xor k gd gs1 x) s (res (a ^^^ u))
        ∧ completes (.andn k gd gs1 x) s (res (a &&& ~~~u))
        ∧ completes (.shl k gd gs1 x) s (res (a <<< n))
        ∧ completes (.shr k gd gs1 x) s (res (a >>> n))
        ∧ completes (.sra k gd gs1 x) s (res (BitVec.ofInt 32 (a.toInt / 2 ^ n)))
        ∧ completes (.ror k gd gs1 x) s (res (a.rotateRight n))
        ∧ completes (.cmpEq k pd gs1 y) s (cond (decide (a = z)))
        ∧ completes (.cmpLt k pd gs1 y) s (cond (decide (a.toInt < z.toInt)))
        ∧ completes (.cmpLtu k pd gs1 y) s (cond (decide (a.toNat < z.toNat)))
        ∧ completes (.cmpLe k pd gs1 y) s (cond (decide (a.toInt ≤ z.toInt)))
        ∧ completes (.cmpLeu k pd gs1 y) s (cond (decide (a.toNat ≤ z.toNat)))
        ∧ completes (.cmpBit k pd gs1 y) s (cond (decide (a &&& z ≠ 0)))
        ∧ completes (.plogAnd k pd pa pb) s (cond (c.pred pa.val && c.pred pb.val))
        ∧ completes (.plogOr k pd pa pb) s (cond (c.pred pa.val || c.pred pb.val))
        ∧ completes (.plogXor k pd pa pb) s (cond (xor (c.pred pa.val) (c.pred pb.val)))
        ∧ completes (.plogAndn k pd pa pb) s (cond (c.pred pa.val && !c.pred pb.val))
        ∧ completes (.setp k gd pa) s (res (if c.pred pa.val then 1 else 0))
        ∧ completes (.nop k) s (fun t => ranOnly k.val s t c.past)

/-- Branches and jumps go to their targets, calls link in g15, and a bad target traps (07_engines.md R240; 07_engines.md R241; 07_engines.md R243).
On every core that runs: BR.T and BR.F on a predicate that does not call for the branch move the PC by 4; on one that does, and
JMP, CALL, JMPR and CALLR always, go to the target (the instruction's address plus the signed word offset, or gs plus the signed
byte offset) if it is word-aligned and, on an engine, inside IRAM; CALL and CALLR write PC + 4 into g15 and the others write no
general register. A misaligned target raises ALIGN and one outside an engine's IRAM raises ACCESS, with the target in TADDR (on an
engine while TBUSY is 0). No byte of memory changes. -/
def Obligations.JumpsComplete : Prop :=
  ∀ (s : State) (k : Fin 257) (p : Fin 4) (gs : Fin 16) (o24 : BitVec 24) (o16 : BitVec 16), s.runs k.val = true →
      let c := s.core k.val
      let dir := c.pc + BitVec.ofInt 32 (4 * o24.toInt)
      let ind := c.gr gs.val + BitVec.ofInt 32 o16.toInt
      let good (w : Word) : Prop := w.toNat % 4 = 0 ∧ (k.val = supId ∨ w.toNat < 0x4000)
      let go (w : Word) (t : State) : Prop := ranOnly k.val s t { c with pc := w, stalled := false }
      let link (w : Word) (t : State) : Prop :=
        ranOnly k.val s t { (c.setG 15 (c.pc + 4)) with pc := w, stalled := false } ∧ (t.core k.val).gr 15 = c.pc + 4
      let traps (i : Instr) (w : Word) : Prop :=
        (k.val = supId ∨ c.tbusy = false) → ¬ good w →
          completes i s (fun t => ranOnly k.val s t (entered k.val c (if w.toNat % 4 ≠ 0 then 2 else 4) w c.tbase))
      (c.pred p.val = false → completes (.brT k p o24) s (fun t => ranOnly k.val s t c.past))
        ∧ (c.pred p.val = true → completes (.brF k p o24) s (fun t => ranOnly k.val s t c.past))
        ∧ (c.pred p.val = true → good dir → completes (.brT k p o24) s (go dir))
        ∧ (c.pred p.val = false → good dir → completes (.brF k p o24) s (go dir))
        ∧ (good dir → completes (.jmp k o24) s (go dir) ∧ completes (.call k o24) s (link dir))
        ∧ (good ind → completes (.jmpr k gs o16) s (go ind) ∧ completes (.callr k gs o16) s (link ind))
        ∧ traps (.jmp k o24) dir ∧ traps (.call k o24) dir ∧ traps (.jmpr k gs o16) ind ∧ traps (.callr k gs o16) ind
        ∧ (c.pred p.val = true → traps (.brT k p o24) dir) ∧ (c.pred p.val = false → traps (.brF k p o24) dir)

/-- Rounded shifts go to the nearest integer, ties away from zero, and saturation stays in range (07_engines.md R241).
For every integer x and shift n, the rounded quotient r of x by 2^n differs from x/2^n by at most a half, and where it is exactly
a half, r lies farther from zero than x/2^n. A saturated 16-bit or 32-bit result is the exact number where it is in range and
otherwise the nearer end of the range, and an accumulator lane is the exact sum clamped to the range of 48 bits. -/
def Obligations.RoundingIsNearestTiesAway : Prop :=
  (∀ (x : Int) (n : Nat), 2 * |roundShift x n * 2 ^ n - x| ≤ 2 ^ n
        ∧ (2 * |roundShift x n * 2 ^ n - x| = 2 ^ n → |x| < |roundShift x n| * 2 ^ n))
    ∧ (∀ x : Int, (sat16 x).toInt = max (-32768) (min 32767 x))
    ∧ (∀ x : Int, (sat32 x).toInt = max (-2147483648) (min 2147483647 x))
    ∧ (∀ (a : BitVec 48) (p : Int), (mac a p).toInt = max (-(2 ^ 47)) (min (2 ^ 47 - 1) (a.toInt + p)))

/-- The vector instructions complete, lane by lane (07_engines.md R241; 07_engines.md R237; 07_engines.md R240).
On every core that runs, for every vd, vs1 and second operand (a vector, or the low 16 bits of a scalar broadcast), each of the
eight lanes of vd becomes: the sum or difference modulo 2^16 or saturated; the Q15 product rounded and saturated; the signed
minimum or maximum; the absolute value or the negation (of a lane other than -32768, for which the spec states none); the lane
shifted left, or right with rounding (by less than 16; beyond that the spec states none); the mask of VCMPLT, 0 where vs1 is not
less and not 0 where it is; the lane of vs1 where vd was not 0 and of the operand elsewhere. No other vector register, no general
register and no byte of memory changes, and no register outside the PERF page of the engine's cluster and the engine's E_STAT; the
PC moves by 4. For each of VABS, VNEG, VSHL and VSRA the open lanes hold some value, and every other effect is the same. -/
def Obligations.VectorInstructionsComplete : Prop :=
  ∀ (s : State) (k : Fin 257) (vd vs1 : Fin 8) (x : VSrc), s.runs k.val = true →
      let c := s.core k.val
      let a (j : Nat) := c.lane vs1.val j
      let b (j : Nat) : BitVec 16 := match x with | .vec v => c.lane v.val j | .scalar g => (c.gr g.val).extractLsb' 0 16
      let res (f : Nat → BitVec 16) (t : State) : Prop :=
        ranOnly k.val s t ((c.setV vd.val f).past) ∧ ∀ j, j < 8 → (t.core k.val).lane vd.val j = f j
      let some' (i : Instr) (p : Nat → BitVec 16 → Prop) : Prop := ∃ f, completes i s (res f) ∧ ∀ j, j < 8 → p j (f j)
      completes (.vadd k vd vs1 x) s (res fun j => a j + b j)
        ∧ completes (.vsub k vd vs1 x) s (res fun j => a j - b j)
        ∧ completes (.vadds k vd vs1 x) s (res fun j => sat16 ((a j).toInt + (b j).toInt))
        ∧ completes (.vsubs k vd vs1 x) s (res fun j => sat16 ((a j).toInt - (b j).toInt))
        ∧ completes (.vmul k vd vs1 x) s (res fun j => sat16 (roundShift ((a j).toInt * (b j).toInt) 15))
        ∧ completes (.vmin k vd vs1 x) s (res fun j => if (a j).toInt ≤ (b j).toInt then a j else b j)
        ∧ completes (.vmax k vd vs1 x) s (res fun j => if (a j).toInt ≤ (b j).toInt then b j else a j)
        ∧ some' (.vabs k vd vs1 x) (fun j w => (a j).toInt ≠ -32768 → w.toInt = |(a j).toInt|)
        ∧ some' (.vneg k vd vs1 x) (fun j w => (a j).toInt ≠ -32768 → w.toInt = -(a j).toInt)
        ∧ some' (.vshl k vd vs1 x) (fun j w => (b j).toNat < 16 → w = a j <<< (b j).toNat)
        ∧ some' (.vsra k vd vs1 x) (fun j w => (b j).toNat < 16 → w.toInt = roundShift (a j).toInt (b j).toNat)
        ∧ some' (.vcmplt k vd vs1 x) (fun j w => w ≠ 0 ↔ (a j).toInt < (b j).toInt)
        ∧ completes (.vsel k vd vs1 x) s (res fun j => if c.lane vd.val j ≠ 0 then a j else b j)

/-- VCLR, VMAC, VMSC, VMACX, VRD, VEXT and VINS complete with their results (07_engines.md R241; 07_engines.md R237).
On every core that runs: VCLR clears the accumulator; VMAC adds and VMSC subtracts vs1 x vs2, and VMACX adds vs1 x the low half of
gs2, in each of the eight accumulator lanes, saturating at 48 bits; VRD writes each accumulator lane shifted right by the shift
field, rounded and saturated to 16 bits, into vd; VEXT writes one lane, sign-extended, into gd; VINS writes the low half of a
general register into one lane of vd and keeps the others. Nothing else of the core, no byte of memory, and no register outside
the PERF page of the engine's cluster and the engine's E_STAT changes; the PC moves by 4. -/
def Obligations.AccumulatorInstructionsComplete : Prop :=
  ∀ (s : State) (k : Fin 257) (vd vs1 vs2 : Fin 8) (g : Fin 16) (j0 : Fin 8) (sh : Fin 32), s.runs k.val = true →
      let c := s.core k.val
      let clamp (n : Int) : BitVec 48 := BitVec.ofInt 48 (max (-(2 ^ 47)) (min (2 ^ 47 - 1) n))
      let half : BitVec 16 := (c.gr g.val).extractLsb' 0 16
      let acc (f : Nat → BitVec 48) (t : State) : Prop :=
        ranOnly k.val s t ((c.setAcc f).past) ∧ ∀ j, j < 8 → (t.core k.val).accLane j = f j
      let vec (f : Nat → BitVec 16) (t : State) : Prop :=
        ranOnly k.val s t ((c.setV vd.val f).past) ∧ ∀ j, j < 8 → (t.core k.val).lane vd.val j = f j
      completes (.vclr k) s (acc fun _ => 0)
        ∧ completes (.vmac k vs1 vs2) s (acc fun j => clamp ((c.accLane j).toInt + (c.lane vs1.val j).toInt * (c.lane vs2.val j).toInt))
        ∧ completes (.vmsc k vs1 vs2) s (acc fun j => clamp ((c.accLane j).toInt - (c.lane vs1.val j).toInt * (c.lane vs2.val j).toInt))
        ∧ completes (.vmacx k vs1 g) s (acc fun j => clamp ((c.accLane j).toInt + (c.lane vs1.val j).toInt * half.toInt))
        ∧ completes (.vrd k vd sh) s (vec fun j => sat16 (roundShift (c.accLane j).toInt sh.val))
        ∧ completes (.vext k g vs1 j0) s (fun t => ranOnly k.val s t ((c.setG g.val ((c.lane vs1.val j0.val).signExtend 32)).past)
            ∧ (t.core k.val).gr g.val = (c.lane vs1.val j0.val).signExtend 32)
        ∧ completes (.vins k vd g j0) s (vec fun j => if j = j0.val then half else c.lane vd.val j)

/-- RDCR, WRCR and MDCR read and write the control registers, and trap where R238 or R240 excludes them (07_engines.md R237; 07_engines.md R238; 07_engines.md R240; 07_engines.md R241; 07_engines.md R243; 15_startup_firmware_lifecycle.md R548; log entry 13).
On every core that runs, for every CR number that R237 lists: RDCR, at kernel level or of SR, ENGINE_ID or a performance CR open
to task level, copies the register into gd; WRCR, at kernel level (the supervisor: privileged level), puts gs into it and MDCR
puts (old AND NOT gt) OR (gs AND gt), both with the old value in gd; TBASE keeps its alignment, and IPEND, WDOG and ENGINE_ID keep
their content. A write of TIMER clears the TIMER bit of IPEND. An unlisted CR raises ILLEGAL with the encoding, and a read or
write that the level excludes raises PRIV with TADDR 0, on an engine while TBUSY is 0. WDOG, whose content the spec does not
state, and the supervisor's ENGINE_ID and performance CRs read some value. Whatever the value written, WRCR and MDCR complete with
the old value in gd, the next PC and no change of memory (what a value with reserved bits leaves in the CR is not spoken of here,
nor a write of the performance CRs). -/
def Obligations.ControlRegisterInstructionsComplete : Prop :=
  ∀ (s : State) (k : Fin 257) (gd gs gt : Fin 16) (cr : BitVec 12), s.runs k.val = true →
      let c := s.core k.val
      let n := cr.toNat
      let listed : Prop := n ≤ 0x0C ∨ n = 0x10 ∨ (0x100 ≤ n ∧ n ≤ 0x111)
      let b := pCLU (k.val / 16)
      let shows : Option Word :=
        if n = 0 then some c.sr else if n = 1 then some c.tsr else if n = 2 then some c.tpc else if n = 3 then some c.tcode
        else if n = 4 then some c.taddr else if n = 5 then some c.tbase else if n = 6 then some c.imask else if n = 7 then some (s.pend k.val)
        else if n = 8 then some c.taskPerm else if n = 9 then some c.winBase else if n = 0xA then some c.winLimit
        else if n = 0xC then some c.timer
        else if n = 0x10 ∧ k.val ≠ supId then
          some (BitVec.ofNat 32 (k.val + 256 * s.fld b (eCtrl k.val CLU.E_CTRL.HOME) + 4096 * s.fld b (eCtrl k.val CLU.E_CTRL.HOME_EN)))
        else none
      let put (v : Word) : Option Core :=
        if n = 0 ∨ n = 1 then
          (if v.toNat < 256 ∧ getBits v 0 2 ≤ (if k.val = supId then 2 else 1) then
            some (if n = 0 then { c with sr := v } else { c with tsr := v }) else none)
        else if n = 2 then some { c with tpc := v }
        else if n = 3 then (if v.toNat < 256 then some { c with tcode := v } else none)
        else if n = 4 then some { c with taddr := v }
        else if n = 5 then some { c with tbase := v &&& ~~~0x1FF }
        else if n = 6 then some { c with imask := v }
        else if n = 8 then (if v.toNat < 32 then some { c with taskPerm := v } else none)
        else if n = 9 then (if v &&& ~~~0x3FFC0 = 0 then some { c with winBase := v } else none)
        else if n = 0xA then (if v &&& ~~~0x3FFC0 = 0 then some { c with winLimit := v } else none)
        else if n = 7 ∨ n = 0xB ∨ n = 0x10 then some c
        else none
      let readable : Prop := c.level ≠ 0 ∨ n = 0 ∨ n = 0x10 ∨ (0x100 ≤ n ∧ c.taskPerm.getLsbD 4 = true)
      let writable : Prop := if k.val = supId then c.level = 2 else c.level ≠ 0
      let old (w : Word) : Prop := ∀ v, shows = some v → w = v
      let rdEnc : Word := BitVec.ofNat 32 (0xD0000000 + gd.val * 0x1000000 + n)
      let wrEnc : Word := BitVec.ofNat 32 (0xD0010000 + gd.val * 0x1000000 + gs.val * 0x100000 + n)
      (listed → readable → ∃ w, completes (.rdcr k gd cr) s (fun t => ranOnly k.val s t ((c.setG gd.val w).past)) ∧ old w)
        ∧ (listed → writable → ∀ x, put (c.gr gs.val) = some x →
            ∃ w, completes (.wrcr k gd gs cr) s (fun t => ranOnly k.val s t ((x.setG gd.val w).past)) ∧ old w)
        ∧ (listed → writable → ∀ v x, shows = some v → put ((v &&& ~~~(c.gr gt.val)) ||| (c.gr gs.val &&& c.gr gt.val)) = some x →
            completes (.mdcr k gd gs gt cr) s (fun t => ranOnly k.val s t ((x.setG gd.val v).past)))
        ∧ (listed → writable → n < 0x100 → ∃ x : Core, ∃ w, x.g = c.g ∧ x.pc = c.pc ∧ old w
            ∧ completes (.wrcr k gd gs cr) s (fun t => ranOnly k.val s t ((x.setG gd.val w).past)))
        ∧ (listed → writable → n < 0x100 → ∃ x : Core, ∃ w, x.g = c.g ∧ x.pc = c.pc ∧ old w
            ∧ completes (.mdcr k gd gs gt cr) s (fun t => ranOnly k.val s t ((x.setG gd.val w).past)))
        ∧ (n = 0xC → writable → completes (.wrcr k gd gs cr) s (fun t => (t.core k.val).timer = c.gr gs.val
            ∧ (t.core k.val).gr gd.val = c.timer ∧ (t.core k.val).ipend.getLsbD 4 = false ∧ (t.core k.val).pc = c.pc + 4 ∧ memSame s t))
        ∧ (k.val = supId ∨ c.tbusy = false →
            (¬ listed → completes (.rdcr k gd cr) s (fun t => ranOnly k.val s t (entered k.val c 0 rdEnc c.tbase))
              ∧ completes (.wrcr k gd gs cr) s (fun t => ranOnly k.val s t (entered k.val c 0 wrEnc c.tbase)))
            ∧ (listed → ¬ readable → completes (.rdcr k gd cr) s (fun t => ranOnly k.val s t (entered k.val c 1 0 c.tbase)))
            ∧ (listed → ¬ writable → completes (.wrcr k gd gs cr) s (fun t => ranOnly k.val s t (entered k.val c 1 0 c.tbase))))

/-- CALLK, ILLEGAL, DBG and interrupts enter as R239 says, RTE returns, and SYNC completes (07_engines.md R239; 07_engines.md R243; 07_engines.md R244; 07_engines.md R241; 15_startup_firmware_lifecycle.md R548; log entry 14).
On every core that runs (on an engine while TBUSY is 0): CALLK and an encoding that R240 does not list enter at TBASE with SR in
TSR, the level raised (kernel on an engine, privileged on the supervisor), IE 0, TBUSY 1, the predicates kept, TPC the
instruction, the trap code in TCODE, and the CALLK code or the encoding in TADDR. An interrupt, while SR.IE is 1, is the lowest
source both pending and enabled, enters the same way with TCODE 0x40 plus the source, and continues at TBASE + 0x100 + 0x10 times
the source. RTE above task level copies TSR whole into SR and continues at TPC, where TPC is an admitted target; at task level it
traps PRIV. DBG stops an engine at the debugger while debug is enabled (in life-cycle states MANUFACTURE and RETURNED: the model's
reading, log entry 14) and traps otherwise. SYNC of a core with nothing gathered moves on. No byte of memory changes, and no
register outside the PERF page of the engine's cluster and the engine's E_STAT. -/
def Obligations.TrapAndInterruptEntry : Prop :=
  ∀ (s : State) (k : Fin 257) (code : BitVec 8) (enc : Word), s.runs k.val = true →
      let c := s.core k.val
      let debug : Prop := s.fld pLCS LCS.LCS_STAT.STATE = 0 ∨ s.fld pLCS LCS.LCS_STAT.STATE = 3
      (k.val = supId ∨ c.tbusy = false →
          completes (.callk k code) s (fun t => ranOnly k.val s t (entered k.val c 7 (code.setWidth 32) c.tbase))
          ∧ (encListed enc = false → completes (.illegalInstruction k enc) s (fun t => ranOnly k.val s t (entered k.val c 0 enc c.tbase)))
          ∧ (c.level = 0 → completes (.rte k) s (fun t => ranOnly k.val s t (entered k.val c 1 0 c.tbase)))
          ∧ (k.val = supId ∨ ¬ debug → completes (.dbg k) s (fun t => ranOnly k.val s t (entered k.val c 8 0 c.tbase))))
        ∧ (∀ n, c.ie = true → n < 32 → (s.pend k.val &&& c.imask).getLsbD n = true → (∀ m, m < n → (s.pend k.val &&& c.imask).getLsbD m = false) →
            ∃ ta, completes (.interruptEntry k) s (fun t => ranOnly k.val s t
              (entered k.val c (BitVec.ofNat 32 (0x40 + n)) ta (c.tbase + 0x100 + BitVec.ofNat 32 (0x10 * n)))))
        ∧ (c.level ≠ 0 → c.tpc.toNat % 4 = 0 → (k.val = supId ∨ c.tpc.toNat < 0x4000) →
            completes (.rte k) s (fun t => ranOnly k.val s t { c with sr := c.tsr, pc := c.tpc, stalled := false }))
        ∧ (k.val ≠ supId → debug → completes (.dbg k) s (fun t => ranOnly k.val s t { c with dbg := true }))
        ∧ ((k.val = supId → idleGather s .sup) → completes (.sync k) s (fun t => ranOnly k.val s t c.past))

/-- WAIT stops a core until an enabled source is pending, TIMER latches its source, and a trap under TBUSY is a fault (07_engines.md R244; 07_engines.md R245; 07_engines.md R235).
WAIT on a core that runs, the supervisor with no entry armed, moves past itself; with an enabled source pending the core goes on
in RUN, whatever SR.IE, and with none pending (and PERF not enabled) it stands in WAIT. In WAIT with no enabled source pending, no
instruction of that core changes anything. TIMER_MATCH on a core that is not held in reset sets bit 4 of IPEND and changes nothing
else. CALLK on a running engine whose TBUSY is 1, its automatic retirement off, leaves the engine in FAULT with cause DOUBLE_TRAP
and the PC in E_FAULT. -/
def Obligations.WaitTimerAndDoubleTrap : Prop :=
  (∀ (s : State) (k : Fin 257) (w : Bool), s.runs k.val = true → (k.val = supId → s.fld pPWR PWR.PWR_STAT.ARMED = 0) →
      let c := s.core k.val
      (s.pend k.val &&& c.imask ≠ 0 → completes (.wait k w) s (fun t => ranOnly k.val s t c.past))
        ∧ ((s.pend k.val ||| 0x20) &&& c.imask = 0 →
            completes (.wait k w) s (fun t => sameBut (t.core k.val) c.past ∧ t.coreState k.val = 2 ∧ memSame s t
              ∧ regsSame s t (perfRegs s k.val))))
    ∧ (∀ (s : State) (k : Fin 257) (gd gs1 : Fin 16) (x : Src), s.coreState k.val = 2 → s.pend k.val &&& (s.core k.val).imask = 0 →
        exec (.add k gd gs1 x) s = .next s ∧ exec (.nop k) s = .next s ∧ exec (.interruptEntry k) s = .next s)
    ∧ (∀ (s : State) (k : Fin 257), s.coreState k.val ≠ 0 →
        completes (.timerMatch k) s (fun t => t.core k.val = { s.core k.val with ipend := (s.core k.val).ipend ||| 0x10 }
          ∧ (∀ j, j ≠ k.val → t.core j = s.core j) ∧ memSame s t ∧ regsSame s t (fun _ => False)))
    ∧ (∀ (s : State) (k : Fin 257) (code : BitVec 8), k.val ≠ supId → s.runs k.val = true → (s.core k.val).tbusy = true →
        s.bit (pCLU (k.val / 16)) CLU.CL_CTRL.AUTO_RETIRE = false →
        completes (.callk k code) s (fun t => t.coreState k.val = 3
          ∧ t.fld (pCLU (k.val / 16)) (eCtrl k.val CLU.E_STAT.CAUSE) = 1
          ∧ t.rd (pCLU (k.val / 16) + CLU.E_FAULT + 4 * (k.val % 16)) = (s.core k.val).pc ∧ memSame s t))

/-- Hold, release, retirement, the watchdog and the drain move an engine between its states; CP_OWN names owners (07_engines.md R235; 07_engines.md R236; 07_engines.md R245; 07_engines.md R263; 07_engines.md R630; 07_engines.md R231; 07_engines.md R232; 07_engines.md R233).
Where the write of E_CTRL reaches the register: a release of an engine in OFF on an enabled page puts it in RUN in the state of
R236 (PC 0, kernel level, IE and TBUSY 0, registers, vectors and accumulator 0, TBASE 0x200, IMASK 0), its mailbox kept; a hold
takes RUN or WAIT to DRAINING and FAULT to OFF; RETIRE takes every state to RETIRED. A drained engine in DRAINING goes to OFF if
HOLD is 1, and otherwise, its page enabled, to RUN. A watchdog expiry in RUN or WAIT, WD_EN 1 and automatic retirement off, is a
fault of cause 2 with the PC in E_FAULT. A write of CP_OWN that reaches a target's register, its old owner unable to commit and
the engine named one of this cluster, makes that engine its owner. A SERVE_HOLD that expires while the owner does not run leaves
the target unserved. Memory keeps every byte. -/
def Obligations.EngineStatesAndOwnership : Prop :=
  (∀ (s : State) (r : Requester) (k : Fin 256),
      let b := pCLU (k.val / 16)
      let off := CLU.E_CTRL + 4 * (k.val % 16)
      let w := s.rd (b + off) &&& ~~~0x10
      let x := s.core k.val
      let reach (v : Word) : Prop := reaches s r 16 (k.val / 16) off v
      (reach (w &&& ~~~1) → s.coreState k.val = 0 → s.enabled b = true →
          completes (.engineRelease r k) s (fun t => t.coreState k.val = 1 ∧ memSame s t
            ∧ t.core k.val = { Core.init with mbox := x.mbox, mbDrop := x.mbDrop, mbDropped := x.mbDropped, faultTicks := x.faultTicks }))
        ∧ (reach (w ||| 1) → s.coreState k.val = 1 ∨ s.coreState k.val = 2 →
            completes (.engineHold r k) s (fun t => t.coreState k.val = 5 ∧ memSame s t))
        ∧ (reach (w ||| 1) → s.coreState k.val = 3 → completes (.engineHold r k) s (fun t => t.coreState k.val = 0 ∧ memSame s t))
        ∧ (reach (w ||| 0x10) → completes (.engineRetire r k) s (fun t => t.coreState k.val = 4 ∧ memSame s t))
        ∧ (s.coreState k.val = 5 → s.drained k.val = true →
            (s.held k.val = true → completes (.engineDrainDone k) s (fun t => t.coreState k.val = 0 ∧ memSame s t))
            ∧ (s.held k.val = false → s.enabled b = true →
                completes (.engineDrainDone k) s (fun t => t.coreState k.val = 1 ∧ memSame s t)))
        ∧ (s.bit b CLU.CL_CTRL.WD_EN = true → s.bit b CLU.CL_CTRL.AUTO_RETIRE = false → s.coreState k.val = 1 ∨ s.coreState k.val = 2 →
            completes (.engineWatchdog k) s (fun t => t.coreState k.val = 3 ∧ t.fld b (eCtrl k.val CLU.E_STAT.CAUSE) = 2
              ∧ t.rd (b + CLU.E_FAULT + 4 * (k.val % 16)) = x.pc ∧ memSame s t)))
    ∧ (∀ (s : State) (r : Requester) (c : Fin 16) (t : Fin 8) (v : Word), reaches s r 16 c.val (CLU.CP_OWN + 4 * t.val) v →
        (targetPage c.val t.val).isSome = true →
        (∀ o, s.cpOwner c.val t.val = some o → s.coreState o ≠ 1 ∧ s.coreState o ≠ 2 ∧ s.coreState o ≠ 5) →
        (v.getLsbD 8 = true → getBits v 4 4 = c.val ∨ (14 ≤ getBits v 4 4 ∧ s.homeOf (getBits v 0 8) = c.val)) →
        completes (.cpOwnWrite r c t v) s (fun q => q.rd (pCLU c.val + CLU.CP_OWN + 4 * t.val) = v
          ∧ q.cpOwner c.val t.val = (if v.getLsbD 8 then some (getBits v 0 8) else none) ∧ memSame s q))
    ∧ (∀ (s : State) (c : Fin 16) (t : Fin 8), (s.clu c.val).holdRun.contains t.val = true →
        completes (.serveHoldExpiry c t) s (fun q => (q.clu c.val).holdRun.contains t.val = false ∧ memSame s q
          ∧ ((∀ o, s.cpOwner c.val t.val = some o → s.coreState o ≠ 1 ∧ s.coreState o ≠ 2) → q.served c.val t.val = false)))

/-- A message joins the end of a mailbox that has room, is dropped and counted at a full one, and reads pop the oldest (07_engines.md R249; 07_engines.md R250; 07_engines.md R276; 12_control_plane.md R436).
MB_SEND to an engine of the sender's cluster, or to the supervisor's mailbox, and a write of MB_W1 that reaches its register,
append the 64-bit message where the mailbox has room (8 messages, 16 for the supervisor's); at a full mailbox the message is
dropped, the receiver counts it and the sending engine's DROP sets, and no message is lost or reordered. A read of MB_RX_HI or
SUP_MB_HI answers the high half of the oldest message, or 0, and removes it. A read of MB_STAT answers the count, DROP and the
messages dropped, and clears DROP. Memory keeps every byte. -/
def Obligations.MailboxesDeliverInOrder : Prop :=
  (∀ (s : State) (k : Fin 256) (m : BitVec 64),
      let h := s.homeOf k.val
      (∀ e : Fin 16, (s.core (16 * h + e.val)).mbox.length < 8 →
          completes (.mbSend k (some e) m) s (fun t => (t.core (16 * h + e.val)).mbox = (s.core (16 * h + e.val)).mbox ++ [m] ∧ memSame s t))
        ∧ (∀ e : Fin 16, 8 ≤ (s.core (16 * h + e.val)).mbox.length →
          completes (.mbSend k (some e) m) s (fun t => (t.core (16 * h + e.val)).mbox = (s.core (16 * h + e.val)).mbox
            ∧ (t.core (16 * h + e.val)).mbDropped = min ((s.core (16 * h + e.val)).mbDropped + 1) 0xFFFF
            ∧ (t.core k.val).mbDrop = true ∧ memSame s t))
        ∧ ((s.clu h).supMb.length < 16 →
            completes (.mbSend k none m) s (fun t => (t.clu h).supMb = (s.clu h).supMb ++ [m] ∧ memSame s t))
        ∧ (16 ≤ (s.clu h).supMb.length → completes (.mbSend k none m) s (fun t => (t.clu h).supMb = (s.clu h).supMb
            ∧ (t.core k.val).mbDrop = true ∧ t.fld (pCLU h) CLU.SUP_MB_STAT.DROPS
                = min (s.fld (pCLU h) CLU.SUP_MB_STAT.DROPS + 1) (2 ^ CLU.SUP_MB_STAT.DROPS.width - 1) ∧ memSame s t))
        ∧ completes (.mbRxPop k) s (fun t => (t.core k.val).mbox = (s.core k.val).mbox.tail
            ∧ Tbl.get 0 t.resp (0x100 + k.val) = (match (s.core k.val).mbox with | m :: _ => m.toNat / 2 ^ 32 | [] => 0) ∧ memSame s t)
        ∧ completes (.mbStatRead k) s (fun t => t.core k.val = { s.core k.val with mbDrop := false } ∧ memSame s t
            ∧ ((s.core k.val).mbox.length ≤ 8 → (s.core k.val).mbDropped ≤ 0xFFFF → Tbl.get 0 t.resp (0x100 + k.val)
                = (s.core k.val).mbox.length + (if (s.core k.val).mbDrop then 0x100 else 0) + 0x10000 * (s.core k.val).mbDropped)))
    ∧ (∀ (s : State) (r : Requester) (c e : Fin 16) (v : Word), reaches s r 16 c.val (CLU.MB_W1 + 8 * e.val) v →
        (s.core (16 * c.val + e.val)).mbox.length < 8 →
        completes (.mbW1Send r c e v) s (fun t => memSame s t ∧ (t.core (16 * c.val + e.val)).mbox
          = (s.core (16 * c.val + e.val)).mbox ++ [v ++ (Tbl.get 0 (s.clu c.val).mbW0 e.val : Word)]))
    ∧ (∀ (s : State) (r : Requester) (c : Fin 16), readable s r (pCLU c.val + CLU.SUP_MB_HI) →
        completes (.supMbPop r c) s (fun t => (t.clu c.val).supMb = (s.clu c.val).supMb.tail ∧ memSame s t
          ∧ answered t r = (match (s.clu c.val).supMb with | m :: _ => m.toNat / 2 ^ 32 | [] => 0)))

/-- A DMA channel starts, rejects, cancels and ends descriptors, and its status reads clear what R244 says (07_engines.md R251; 07_engines.md R252; 07_engines.md R253; 07_engines.md R254; 07_engines.md R244; 07_engines.md R267; 07_engines.md R277).
A start on a channel that is free, or that a reset of the cluster has cut off (R267), makes the engine its issuer and shows BUSY,
ENGINE and DESC; on a busy channel it is ignored and sets REJECTED. A cancel marks the descriptor in progress. A DMA_STAT read
answers the register, clears REJECTED and the channel's DMA interrupt at every engine. When the descriptor in progress, read from
clean words of shared SRAM, completes: one with VALID 0 ends PERM, its word 7 says DONE with RESULT 3 and no bytes, and the
channel stops; a valid fill of one 8-byte word of shared SRAM (not that of words 6 and 7 of the descriptor itself) leaves the
pattern in that word, RESULT OK with 8 bytes in word 7, and without CHAIN the channel stops. Bytes of memory outside the
destination and the descriptor's last 8 bytes do not change. -/
def Obligations.DmaChannelsRunDescriptors : Prop :=
  (∀ (s : State) (k : Fin 256) (ch : Fin 4) (d : BitVec 13),
      let h := s.homeOf k.val
      let f (x : Fld) : Fld := fldAt x (4 * ch.val)
      ((∀ x, Tbl.find (s.clu h).dma ch.val = some x → x.cut = true) → completes (.dmaStart k ch d) s (fun t =>
          Tbl.find (t.clu h).dma ch.val = some ⟨k.val, decide ((s.core k.val).level = 0), 32 * d.toNat, false, false⟩
          ∧ t.bit (pCLU h) (f CLU.DMA_STAT.BUSY) = true ∧ t.fld (pCLU h) (f CLU.DMA_STAT.ENGINE) = k.val % 16
          ∧ t.fld (pCLU h) (f CLU.DMA_STAT.DESC) = d.toNat ∧ coresSame s t ∧ memSame s t))
        ∧ (∀ x, Tbl.find (s.clu h).dma ch.val = some x → x.cut = false →
            completes (.dmaStart k ch d) s (fun t => Tbl.find (t.clu h).dma ch.val = some x
              ∧ t.bit (pCLU h) (f CLU.DMA_STAT.REJECTED) = true ∧ coresSame s t ∧ memSame s t)
            ∧ completes (.dmaCancel k ch) s (fun t => Tbl.find (t.clu h).dma ch.val = some { x with cancel := true }
              ∧ coresSame s t ∧ memSame s t ∧ regsSame s t (fun _ => False))))
    ∧ (∀ (s : State) (r : Requester) (c : Fin 16) (ch : Fin 4), readable s r (pCLU c.val + CLU.DMA_STAT + 4 * ch.val) →
        completes (.dmaStatRead r c ch) s (fun t => answered t r = (s.rd (pCLU c.val + CLU.DMA_STAT + 4 * ch.val)).toNat
          ∧ t.bit (pCLU c.val) (fldAt CLU.DMA_STAT.REJECTED (4 * ch.val)) = false ∧ memSame s t
          ∧ ∀ j, (t.core j).dmaIrq = (s.core j).dmaIrq.filter (· != 4 * c.val + ch.val)))
    ∧ (∀ (s : State) (c : Fin 16) (ch : Fin 4) (n : Nat) (x : DmaCh) (d : Nat → Nat), Tbl.find (s.clu c.val).dma ch.val = some x →
        x.desc % 32 = 0 → x.desc < 0x40000 → x.cancel = false → x.cut = false →
        (∀ i, i < 4 → d i < 2 ^ 64 ∧ clean s (8 + 3 * c.val) (x.desc / 8 + i) (d i)) →
        let at0 := 0x20000000 + 0x1000000 * c.val + x.desc
        (d 0 / 2 ^ 31 % 2 = 0 →
          completes (.dmaDescriptorDone c ch n) s (fun t => Tbl.find (t.clu c.val).dma ch.val = none
            ∧ t.fld (pCLU c.val) (fldAt CLU.DMA_STAT.RESULT (4 * ch.val)) = 3
            ∧ t.bit (pCLU c.val) (fldAt CLU.DMA_STAT.BUSY (4 * ch.val)) = false
            ∧ t.number (at0 + 24) 8 = some (d 3 % 2 ^ 32 + 2 ^ 32 * 0xB0000000) ∧ memSameBut s t (at0 + 24) 8))
        ∧ (∀ o : Nat, o % 8 = 0 → o < 0x40000 → o ≠ x.desc + 24 →
            d 0 / 2 ^ 31 % 2 = 1 → d 0 / 2 ^ 29 % 2 = 0 → d 0 / 2 ^ 24 % 16 = 4 → d 0 / 2 ^ 20 % 16 = 1 → d 0 / 2 ^ 32 % 2 ^ 24 = 8 →
            d 1 / 2 ^ 32 = o →
            completes (.dmaDescriptorDone c ch n) s (fun t => Tbl.find (t.clu c.val).dma ch.val = none
              ∧ t.fld (pCLU c.val) (fldAt CLU.DMA_STAT.RESULT (4 * ch.val)) = 0
              ∧ t.number (0x20000000 + 0x1000000 * c.val + o) 8 = some (d 2 / 2 ^ 32 + 2 ^ 32 * (d 3 % 2 ^ 32))
              ∧ t.number (at0 + 24) 8 = some (d 3 % 2 ^ 32 + 2 ^ 32 * 0x80000008)
              ∧ ∀ a, (a < at0 + 24 ∨ at0 + 32 ≤ a) → (a < 0x20000000 + 0x1000000 * c.val + o ∨ 0x20000000 + 0x1000000 * c.val + o + 8 ≤ a) →
                  t.byte a = s.byte a)))

/-- Tap snapshots start, reject and end, and a COMMIT through the coefficient port is a request of the target's owner (07_engines.md R231; 07_engines.md R244; 07_engines.md R255; 07_engines.md R256; 07_engines.md R257; 07_engines.md R259; 01_architecture.md R33; log entry 7; log entry 97).
TAP_GO on an idle tap port whose POINT and lane are sound sets BUSY and remembers the engine; while a snapshot runs it is refused
and sets bit 27. Once the last sample of a line cluster's snapshot has come, at the reference instant's count of commit points, it
ends DONE with result OK, TAP at its requester, that count in FRAME, and in the shared SRAM at TAP_DST, 8 bytes a word, every
(DECIM + 1)th sample from OFFSET on: 4,096 of them, or 2,048 pairs at POINT 5. A host lane's snapshot ends in the same way with
the samples that the command brings, in their formats (log entry 97). A TAP_STAT read answers the register and clears TAP. A
COMMIT store by a target's owner, its groups defined, outside a brown-out warning, joins the waiting requests with the values that
the shadows hold (the model's reading, log entry 7); by another engine it traps CP_OWN, on a target that the cluster lacks ACCESS,
an engine with TBUSY 0; one with an undefined group changes registers of the target's page alone (R447, log entry 90). A
COMMIT_STAT read through the port answers the register and clears COMMIT for the page. -/
def Obligations.TapAndCoefficientPort : Prop :=
  (∀ (s : State) (k : Fin 256),
      let h := s.homeOf k.val
      let u := s.clu h
      (u.tapStat.getLsbD 30 = false → u.tapCtrl.toNat % 8 < 6 → ¬ (8 ≤ h ∧ u.tapCtrl.toNat % 8 = 1) →
          (∃ p, tapPage h u.tapCtrl.toNat = some p ∧ s.rxRuns p = true) → s.brownOut = false →
          completes (.tapGo k) s (fun t => (t.clu h).tapStat = 0x40000000 ∧ (t.clu h).tapCore = k.val ∧ memSame s t))
        ∧ (u.tapStat.getLsbD 30 = true → completes (.tapGo k) s (fun t => (t.clu h).tapStat = u.tapStat ||| 0x08000000
            ∧ (t.clu h).tapCore = u.tapCore ∧ coresSame s t ∧ memSame s t ∧ regsSame s t (fun _ => False)))
        ∧ completes (.tapStatRead k) s (fun t => Tbl.get 0 t.resp (0x100 + k.val) = u.tapStat.toNat
            ∧ (t.core u.tapCore).ipend.getLsbD 2 = false ∧ memSame s t ∧ regsSame s t (fun _ => False)))
    ∧ (∀ (s : State) (c : Fin 16) (l : List (BitVec 16)) (frame : Nat), (s.clu c.val).tapStat.getLsbD 30 = true →
        (s.clu c.val).tapRun.ref = some frame →
        let run := (s.clu c.val).tapRun
        let point := run.ctrl % 8
        let word (i : Nat) : BitVec 32 := run.words.getD (run.ctrl / 2 ^ 20 + i * (run.ctrl / 256 % 256 + 1)) 0
        let half (i : Nat) : Nat :=
          if 8 ≤ c.val then (hostFormat point i (l.getD i 0)).toNat
          else if point = 5 then (word (i / 2)).toNat / 65536 ^ (i % 2) % 65536 else (word i).toNat % 65536
        let idx := (s.clu c.val).tapDst.toNat % 2 ^ 18 / 8
        (c.val < 8 → run.ctrl / 2 ^ 20 + (if point = 5 then 2047 else 4095) * (run.ctrl / 256 % 256 + 1) < run.words.length) →
        completes (.tapSnapshotDone c l) s (fun t => getBits (t.clu c.val).tapStat 30 2 = 2 ∧ getBits (t.clu c.val).tapStat 28 2 = 0
          ∧ getBits (t.clu c.val).tapStat 0 16 = frame % 65536 ∧ (t.core (s.clu c.val).tapCore).ipend.getLsbD 2 = true
          ∧ memSameBut s t (0x20000000 + 0x1000000 * c.val + 8 * idx) 8192
          ∧ ∀ i, i < 1024 → idx + i < 32768 → t.number (0x20000000 + 0x1000000 * c.val + 8 * (idx + i)) 8
              = some (half (4 * i) + 65536 * half (4 * i + 1) + 65536 ^ 2 * half (4 * i + 2) + 65536 ^ 3 * half (4 * i + 3))))
    ∧ (∀ (s : State) (k : Fin 256) (t : Fin 8) (v : Word) (page : Nat), targetPage (s.homeOf k.val) t.val = some page →
        ¬ (t.val = 0 ∧ s.replica k.val = true) → v ≠ 0 → s.brownOut = false →
        (s.cpOwner (s.homeOf k.val) t.val = some k.val → commitMask page < v.toNat → completes (.cpCommit k t v) s (fun q =>
            q.commits = s.commits ∧ coresSame s q ∧ memSame s q ∧ regsSame s q (inPage page)))
        ∧ (s.cpOwner (s.homeOf k.val) t.val = some k.val → v.toNat ≤ commitMask page → completes (.cpCommit k t v) s (fun q => ∃ vals,
            q.commits = s.commits ++ [⟨page, v.toNat, vals, some k.val, 0⟩] ∧ memSame s q
              ∧ ∀ g a, v.toNat.testBit g = true → g < 7 → a ∈ groupAddrs page g → Tbl.find vals a = some (s.rd a)))
        ∧ (s.cpOwner (s.homeOf k.val) t.val ≠ some k.val → (s.core k.val).tbusy = false →
            completes (.cpCommit k t v) s (fun q => q.commits = s.commits ∧ memSame s q
              ∧ sameBut (q.core k.val) (entered k.val (s.core k.val) 6
                  (BitVec.ofNat 32 (0x90000 + 0x1000 * t.val + commitOff page)) (s.core k.val).tbase)))
        ∧ completes (.cpCommitStatRead k t) s (fun q => Tbl.get 0 q.resp (0x100 + k.val) = (s.rd (page + commitStatOff page)).toNat
            ∧ q.core k.val = { s.core k.val with cpIrq := (s.core k.val).cpIrq.filter (· != page) } ∧ memSame s q))
    ∧ (∀ (s : State) (k : Fin 256) (t : Fin 8) (v : Word), targetPage (s.homeOf k.val) t.val = none → (s.core k.val).tbusy = false →
        completes (.cpCommit k t v) s (fun q => memSame s q ∧ sameBut (q.core k.val) (entered k.val (s.core k.val) 4
          (BitVec.ofNat 32 (0x90000 + 0x1000 * t.val)) (s.core k.val).tbase)))

/-- Counters overflow with their flag and event, samples are written or lost, bandwidth latches, PF_STAT clears PERF (07_engines.md R244; 07_engines.md R268; 07_engines.md R271; 07_engines.md R272; 07_engines.md R273; 07_engines.md R274; log entry 5).
A counter that counts and passes its limit stands at 0 with its PF_STAT bit and its CNT_OVF event set. The oldest sample owed,
while samples are taken and the buffer is not at its last record, is written at NEXT (its first word the PC, engine, level,
counter, code and latency; its second the data address below the cycle counter, which the model leaves free, log entry 5) and NEXT
advances; a lost one counts in LOST. A bandwidth window's end latches the units of each port in BW and starts again at 0. A write
of PF_STAT that reaches the register clears the bits written 1 and the PERF interrupt of the cluster's engines. Registers outside
the cluster's PERF page do not change. -/
def Obligations.PerformanceCountersAndSamples : Prop :=
  (∀ (s : State) (c : Fin 16) (k : Fin 8), s.bit (pPERF c.val) PERF.PF_CTRL.EN = true → s.bit (pPERF c.val) PERF.PF_CTRL.FREEZE = false →
        s.enabled (pPERF c.val) = true → s.bit (pPERF c.val) (fldAt PERF.EVSEL.EN (32 * k.val)) = true →
        completes (.perfOverflow c k) s (fun t => t.lv (perfCnt c.val k.val) = 0
          ∧ (t.rd (pPERF c.val + PERF.PF_STAT)).getLsbD k.val = true
          ∧ t.bit (pPERF c.val) (bitAt HDR.EVT_RAW (PERF.evCNT_OVF.bit + k.val)) = true
          ∧ memSame s t ∧ regsSame s t (inPage (pPERF c.val))))
    ∧ (∀ (s : State) (c : Fin 16) (lat : BitVec 16) (p : Sample) (l : List Sample), (s.clu c.val).due = p :: l →
        s.sampling c.val = true → s.fld (pPERF c.val) PERF.SMP_STAT.NEXT < 1023 →
        let idx := 8 * s.fld (pPERF c.val) PERF.SMP_CTRL.BASE + 2 * s.fld (pPERF c.val) PERF.SMP_STAT.NEXT
        let a := 0x20000000 + 0x1000000 * c.val + 8 * idx
        completes (.perfSample c lat false) s (fun t => (t.clu c.val).due = l
            ∧ t.fld (pPERF c.val) PERF.SMP_STAT.NEXT = s.fld (pPERF c.val) PERF.SMP_STAT.NEXT + 1
            ∧ (idx + 1 < 32768 → t.number a 8 = some (p.pc.toNat + 2 ^ 32 * (p.engine % 16 * 2 ^ 28 + p.level % 2 * 2 ^ 27 + p.k % 8 * 2 ^ 24
                + p.code % 256 * 2 ^ 16 + lat.toNat)) ∧ t.number (a + 8) 4 = some p.addr.toNat ∧ memSameBut s t a 16))
          ∧ completes (.perfSample c lat true) s (fun t => (t.clu c.val).due = l ∧ memSame s t
            ∧ t.fld (pPERF c.val) PERF.SMP_STAT.LOST
                = min (s.fld (pPERF c.val) PERF.SMP_STAT.LOST + 1) (2 ^ PERF.SMP_STAT.LOST.width - 1)))
    ∧ (∀ (s : State) (c : Fin 16), completes (.perfBwWindow c) s (fun t => (t.clu c.val).bw = []
        ∧ (∀ p, p < 6 → t.rd (pPERF c.val + PERF.BW + 4 * p) = BitVec.ofNat 32 (Tbl.get 0 (s.clu c.val).bw p))
        ∧ memSame s t ∧ coresSame s t ∧ regsSame s t (inPage (pPERF c.val))))
    ∧ (∀ (s : State) (r : Requester) (c : Fin 16) (v : BitVec 9), reaches s r 17 c.val PERF.PF_STAT (v.setWidth 32) →
        completes (.pfStatClear r c v) s (fun t => t.rd (pPERF c.val + PERF.PF_STAT) = s.rd (pPERF c.val + PERF.PF_STAT) &&& ~~~(v.setWidth 32)
          ∧ (∀ e : Fin 16, (t.core (16 * c.val + e.val)).ipend.getLsbD 5 = false) ∧ memSame s t
          ∧ regsSame s t (fun a => a = pPERF c.val + PERF.PF_STAT)))

/-- An engine's loads from its data RAM and its cluster's shared SRAM complete with the bytes there, or trap (07_engines.md R240; 07_engines.md R241; 07_engines.md R246; 07_engines.md R247; 07_engines.md R234; 07_engines.md R238; 07_engines.md R243; 00_scope.md R9).
On an engine that runs, a load whose effective address (base plus signed offset) is aligned to its size and lies in the engine's
own data RAM, or in its cluster's shared SRAM that its level may reach, from a clean code word whose word holds v: LB and LH sign-
extend and LBU and LHU zero-extend the byte or half-word there into gd, LW writes the word, and LD writes the double into the
pair, low word first. VLD from a data RAM takes eight half-words, every second one with stride 2 and downward with reverse, lane
by lane. No byte of memory changes, and no register outside the PERF page of the engine's cluster and its E_STAT; nothing of the
core but its result and the PC. A misaligned address raises ALIGN, and an address in the IRAM or that the map does not list raises
ACCESS, TBUSY being 0, with the address in TADDR. -/
def Obligations.EngineLoadsReadTheirMemories : Prop :=
  ∀ (s : State) (k : Fin 257) (gd base : Fin 16) (p : Fin 8) (off : BitVec 16), k.val ≠ supId → s.runs k.val = true →
      let c := s.core k.val
      let a := (c.gr base.val + off.signExtend 32).toNat
      let at' (n : Nat) (f : Nat → Prop) : Prop := ∀ inst idx o v, engMay s k.val a n → engWord s k.val a = some (inst, idx, o) → clean s inst idx v →
        f (v / 2 ^ (8 * o) % 2 ^ (8 * n))
      let res (w : Word) (t : State) : Prop := ranOnly k.val s t ((c.setG gd.val w).past) ∧ (t.core k.val).gr gd.val = w
      let bad (i : Instr) (n : Nat) : Prop := c.tbusy = false →
        (a % n ≠ 0 → completes i s (fun t => ranOnly k.val s t (entered k.val c 2 (BitVec.ofNat 32 a) c.tbase)))
          ∧ (a % n = 0 → eSpace a = .iram ∨ eSpace a = .none →
              completes i s (fun t => ranOnly k.val s t (entered k.val c 4 (BitVec.ofNat 32 a) c.tbase)))
      at' 1 (fun v => completes (.lb k gd base off []) s (res ((BitVec.ofNat 8 v).signExtend 32)))
        ∧ at' 2 (fun v => completes (.lh k gd base off []) s (res ((BitVec.ofNat 16 v).signExtend 32)))
        ∧ at' 4 (fun v => completes (.lw k gd base off []) s (res (BitVec.ofNat 32 v)))
        ∧ at' 1 (fun v => completes (.lbu k gd base off []) s (res (BitVec.ofNat 32 v)))
        ∧ at' 2 (fun v => completes (.lhu k gd base off []) s (res (BitVec.ofNat 32 v)))
        ∧ at' 8 (fun v => completes (.ld k p base off []) s (fun t => ranOnly k.val s t
            (((c.setG (2 * p.val) (BitVec.ofNat 32 v)).setG (2 * p.val + 1) (BitVec.ofNat 32 (v / 2 ^ 32))).past)))
        ∧ (∀ (vd : Fin 8) (stride2 rev : Bool) (h : Nat → Nat), a % 2 = 0 →
            (∀ j, j < 8 → let b := if rev then (a + 2 ^ 32 - (if stride2 then 4 else 2) * j) % 2 ^ 32 else a + (if stride2 then 4 else 2) * j
              ∃ inst idx o v, (∃ q, eSpace b = .ram q) ∧ engWord s k.val b = some (inst, idx, o) ∧ clean s inst idx v
                ∧ h j = v / 2 ^ (8 * o) % 2 ^ 16) →
            completes (.vld k vd base off stride2 rev []) s (fun t => ranOnly k.val s t ((c.setV vd.val (fun j => BitVec.ofNat 16 (h j))).past)
              ∧ ∀ j, j < 8 → (t.core k.val).lane vd.val j = BitVec.ofNat 16 (h j)))
        ∧ bad (.lb k gd base off []) 1 ∧ bad (.lh k gd base off []) 2 ∧ bad (.lw k gd base off []) 4 ∧ bad (.ld k p base off []) 8
        ∧ bad (.lbu k gd base off []) 1 ∧ bad (.lhu k gd base off []) 2

/-- An engine's stores to its data RAM and shared SRAM write exactly their bytes; narrow stores to shared SRAM trap WIDTH (07_engines.md R240; 07_engines.md R241; 07_engines.md R246; 07_engines.md R247; 07_engines.md R234; 07_engines.md R238; 07_engines.md R243; 10_memory_ecc.md R360; 00_scope.md R9).
On an engine that runs, with the effective address (base plus signed offset) aligned to the size: SB, SH and SW into a clean word
of its own data RAM leave the low byte, half-word or word of gs there, SD the register pair and VST the eight lanes, low byte
first, into its data RAM, or into the shared SRAM that its level may reach, no word of which is poisoned. Every other byte of
memory reads as before, no register outside the PERF page of the engine's cluster and its E_STAT changes, and nothing of the core
but the PC. SB, SH and SW to a reachable shared SRAM raise WIDTH, and a misaligned store ALIGN, TBUSY being 0, and leave memory as
it was. -/
def Obligations.EngineStoresWriteTheirBytes : Prop :=
  ∀ (s : State) (k : Fin 257) (gs base : Fin 16) (p vs : Fin 8) (off : BitVec 16), k.val ≠ supId → s.runs k.val = true →
      let c := s.core k.val
      let a := (c.gr base.val + off.signExtend 32).toNat
      let dev (inst idx o : Nat) := devAddr inst idx + o
      let puts (i : Instr) (n v : Nat) : Prop := ∀ inst idx o, engWord s k.val a = some (inst, idx, o) → a % n = 0 →
        ((∃ q, eSpace a = .ram q) ∧ (∃ d, clean s inst idx d)) →
        completes i s (fun t => ran k.val s t c.past ∧ regsSame s t (perfRegs s k.val) ∧ memSameBut s t (dev inst idx o) n
          ∧ t.number (dev inst idx o) n = some (v % 2 ^ (8 * n)))
      let wide (i : Instr) (n v : Nat) : Prop := ∀ inst idx o, engWord s k.val a = some (inst, idx, o) → engMay s k.val a n →
        (∀ j, j < n / 8 → s.poisoned inst (idx + j) = false) →
        completes i s (fun t => ran k.val s t c.past ∧ regsSame s t (perfRegs s k.val) ∧ memSameBut s t (dev inst idx o) n
          ∧ t.number (dev inst idx o) n = some v)
      let stops (i : Instr) (code : Nat) : Prop := c.tbusy = false →
        completes i s (fun t => ranOnly k.val s t (entered k.val c (BitVec.ofNat 32 code) (BitVec.ofNat 32 a) c.tbase))
      puts (.sb k gs base off []) 1 (c.gr gs.val).toNat
        ∧ puts (.sh k gs base off []) 2 (c.gr gs.val).toNat
        ∧ puts (.sw k gs base off []) 4 (c.gr gs.val).toNat
        ∧ wide (.sd k p base off) 8 ((c.gr (2 * p.val)).toNat + 2 ^ 32 * (c.gr (2 * p.val + 1)).toNat)
        ∧ wide (.vst k vs base off) 16 ((List.range 8).foldr (fun j n => (c.lane vs.val j).toNat + 65536 * n) 0)
        ∧ ((∃ o, eSpace a = .sram o) → (engMay s k.val a 1 → stops (.sb k gs base off []) 3) ∧ (engMay s k.val a 2 → stops (.sh k gs base off []) 3)
            ∧ (engMay s k.val a 4 → stops (.sw k gs base off []) 3))
        ∧ (a % 2 ≠ 0 → stops (.sh k gs base off []) 2) ∧ (a % 4 ≠ 0 → stops (.sw k gs base off []) 2)
        ∧ (a % 8 ≠ 0 → stops (.sd k p base off) 2) ∧ (a % 16 ≠ 0 → stops (.vst k vs base off) 2)

/-- XCHG.D and XADD.D exchange and add atomically; the supervisor reads and writes its SRAM; a window write lands (07_engines.md R241; 07_engines.md R248; 15_startup_firmware_lifecycle.md R548; 10_memory_ecc.md R360; 12_control_plane.md R442).
On an engine that runs, XCHG.D and XADD.D on an 8-byte aligned, clean word of the shared SRAM that its level may reach put the
operand pair, or the sum modulo 2^64, into the word and the old value into the pair; no other byte of memory changes. On a
supervisor that runs at privileged level with nothing gathered, LW from a clean word of its own SRAM writes the 32-bit word there
into gd, and SW, where the map lets it write, leaves gs there and every other byte of memory as before. A write of 8 bytes through
a cluster's window into its shared SRAM, by a requester other than PART that the map admits, leaves exactly those bytes. -/
def Obligations.AtomicsAndSupervisorAccessesComplete : Prop :=
  (∀ (s : State) (k : Fin 257) (p q : Fin 8) (base : Fin 16) (inst idx v : Nat), k.val ≠ supId → s.runs k.val = true →
      let c := s.core k.val
      let a := (c.gr base.val).toNat
      let x := (c.gr (2 * q.val)).toNat + 2 ^ 32 * (c.gr (2 * q.val + 1)).toNat
      (∃ o, eSpace a = .sram o) → engMay s k.val a 8 → engWord s k.val a = some (inst, idx, 0) → clean s inst idx v →
        let c' := ((c.setG (2 * p.val) (BitVec.ofNat 32 v)).setG (2 * p.val + 1) (BitVec.ofNat 32 (v / 2 ^ 32))).past
        let puts (w : Nat) (t : State) : Prop := ran k.val s t c' ∧ regsSame s t (perfRegs s k.val)
          ∧ memSameBut s t (devAddr inst idx) 8 ∧ t.number (devAddr inst idx) 8 = some w
        completes (.xchgD k p base q []) s (puts x) ∧ completes (.xaddD k p base q []) s (puts ((v + x) % 2 ^ 64)))
    ∧ (∀ (s : State) (gd gs base : Fin 16) (off : BitVec 16) (inst idx v : Nat), s.runs supId = true → (s.core supId).level = 2 →
        idleGather s .sup →
        let c := s.core supId
        let a := (c.gr base.val + off.signExtend 32).toNat
        a % 4 = 0 → 1 ≤ inst → inst ≤ 4 → s.region .sup a = .mem inst idx → clean s inst idx v →
        completes (.lw 256 gd base off []) s (fun t => ranOnly supId s t ((c.setG gd.val (BitVec.ofNat 32 (v / 2 ^ (8 * (a % 8))))).past))
          ∧ (s.mapAllows 2 32 = true → completes (.sw 256 gs base off []) s (fun t => ran supId s t c.past ∧ memSameBut s t a 4
              ∧ regsSame s t (fun _ => False) ∧ t.number a 4 = some (c.gr gs.val).toNat)))
    ∧ (∀ (s : State) (r : Requester) (c : Fin 16) (off : BitVec 24) (l : List Byte), idleGather s r → l.length = 8 → off.toNat % 8 = 0 →
        off.toNat < 0x40000 → s.pwr.hold = false → s.windowUp c.val = true → (∀ x e, r ≠ .engine x e) → r ≠ .part →
        s.mapAllows (s.master r) 33 = true →
        s.fld pCAP CAP.CP_STAT.STATE = 0 →
        completes (.clusterWindowWrite r c off l) s (fun t => t.number (0x20000000 + 0x1000000 * c.val + off.toNat) 8 = some (ofBytes l)
          ∧ memSameBut s t (0x20000000 + 0x1000000 * c.val + off.toNat) 8))

/-- Reset: registers at their reset column, engines OFF, nothing waits; memory canonical and empty (what unlisted memory reads is the model's choice, log entry 57) (00_scope.md R10; 07_engines.md R235; 07_engines.md R236; 12_control_plane.md R415; 12_control_plane.md R443; 10_memory_ecc.md R352; 10_memory_ecc.md R361; log entry 2; log entry 57).
In State.reset: no command and no commit waits, nothing is gathered, no time runs; every engine is OFF with HOLD 1, PC 0, kernel
level, registers 0 and TBASE 0x200; every page has PAGE_CTRL 1, PAGE_STAT 0x00010000, no event raised and nothing pending that is
not masked; a register whose row states a plain reset value holds it; every map entry grants the supervisor; the main FFE tap, the
FIR main taps and EVT_MASK of TIME hold their values of the register tables; the fuses and identity that resets keep read 0 in the
model (log entry 57). The memory lists nothing, is in canonical form, and reads 0 at every SRAM address and as never written at
every DRAM address (log entry 57). -/
def Obligations.ResetState : Prop :=
  let s := State.reset
  s.pending = [] ∧ s.commits = [] ∧ s.gathers = [] ∧ s.time.running = false ∧ s.quality = 0
    ∧ (∀ k, k < 256 → s.coreState k = 0 ∧ s.bit (pCLU (k / 16)) (eCtrl k CLU.E_CTRL.HOLD) = true ∧ (s.core k).pc = 0 ∧ (s.core k).level = 1
        ∧ (s.core k).g = [] ∧ (s.core k).v = [] ∧ (s.core k).acc = [] ∧ (s.core k).tbase = 0x200 ∧ (s.core k).imask = 0)
    ∧ (∀ p ∈ pages, ∀ i, i < p.count → let b := p.base + 0x1000 * i
        s.rd (b + HDR.PAGE_CTRL) = 1 ∧ s.rd (b + HDR.PAGE_STAT) = 0x00010000 ∧ s.rd (b + HDR.EVT_RAW) = 0 ∧ s.evtPend b = 0)
    ∧ (∀ (a : Nat) (p : PageRow) (i off : Nat) (row : RegRow), findPage a = some (p, i, off) → findRow p.fam off = some row →
        resetSpecial p.fam i off = none → s.rd a = row.reset)
    ∧ (∀ f, f < 35 → (s.rd (pPROT + PROT.MAP + 4 * f)).getLsbD 2 = true)
    ∧ (∀ n, n < 8 → s.rd (pLRX n + LRX.FFE + 80) = 0x800 ∧ s.rd (pLTX n + LTX.FIR + 8) = 0x100)
    ∧ s.rd (pTIME + HDR.EVT_MASK) = 1 ∧ s.rd (pSCRB + HDR.EVT_MASK) = 5 ∧ s.rd (pEVT + HDR.EVT_MASK) = 4
    ∧ memoryOk s ∧ s.mem = [] ∧ (∀ a, a < 0x40000000 → s.byte a = some 0) ∧ (∀ a, 0x40000000 ≤ a → s.byte a = none)

/-- Every step keeps the memory in canonical form (10_memory_ecc.md R352; 10_memory_ecc.md R361; 10_memory_ecc.md R364; 12_control_plane.md R412).
For every state whose memory is in canonical form (addresses strictly rising, no entry equal to what its address reads as when
unlisted: 0 in SRAM, the newest bulk fill's pattern in DRAM), whatever command stands at the front of the queue, and also when
none waits: if the step answers a next state, its memory is in canonical form. -/
def Obligations.EveryStepKeepsMemoryCanonical : Prop :=
  ∀ s t : State, memoryOk s → step s = .next t → memoryOk t

/-- Every command completes in every state, and a step takes exactly the front command and leaves the rest of the queue and the variant (12_control_plane.md R418; 12_control_plane.md R447; 00_scope.md R2; log entry 44; log entry 90).
Every command, with whatever operands, completes in every state: exec answers a next state (a host error too, after which the
device goes on, R447), with the same commands waiting. For every state, whatever command stands at the front of the queue, and
also when none waits: if the step answers a next state, its queue is the queue without its front command, and the variant of the
die is the same. No command adds, drops or reorders a waiting command, and none changes which lanes, clusters and memory the die
has. -/
def Obligations.EveryStepConsumesOneCommand : Prop :=
  (∀ (c : Instr) (s : State), ∃ t, exec c s = .next t ∧ t.pending = s.pending ∧ t.variant = s.variant)
    ∧ (∀ s t : State, step s = .next t → t.pending = s.pending.tail ∧ t.variant = s.variant)

/-- A demand read answers the 32-bit word, corrects one flipped bit and counts it, and leaves every byte as it was (10_memory_ecc.md R353; 10_memory_ecc.md R354; 10_memory_ecc.md R363; 10_memory_ecc.md R365; 10_memory_ecc.md R366; 10_memory_ecc.md R367; 10_memory_ecc.md R376; 12_control_plane.md R418; 13_power_clocks_thermal.md R467).
A read by a requester with nothing gathered, of an aligned address in a memory instance: from a clean code word it answers the 32
bits there and changes no register outside the PERF pages but CG_STAT of CLK, as an access through a cluster's window wakes a
gated clock (R467); from a clean word of which one cell within the code is found flipped it answers the same, the word is clean
again, CE_CNT of the instance rises (saturating) and LAST_CE names the instance and the symbol or bit. From a poisoned initialised
word (a single read of the SPI host) the answer is 0 with the status POISON, cause 2. In each case every byte of memory reads as
before. -/
def Obligations.MemoryReadsDeliverAndCorrect : Prop :=
  ∀ (s : State) (r : Requester) (a inst idx v : Nat), idleGather s r → a % 4 = 0 → s.region r a = .mem inst idx → inst < 64 →
      let w := v / 2 ^ (8 * (a % wordLen inst)) % 2 ^ 32
      (clean s inst idx v → completes (.memoryRead r a []) s (fun t => answered t r = w ∧ memSame s t ∧ clean t inst idx v
          ∧ regsSame s t (fun x => x = pCLK + CLK.CG_STAT ∨ ∃ c, c < 16 ∧ inPage (pPERF c) x)))
        ∧ (∀ b, clean s inst idx v → v < 2 ^ (8 * wordLen inst) → b < (if inst = 0 then 288 else 72) →
            completes (.memoryRead r a [b]) s (fun t => answered t r = w ∧ memSame s t
              ∧ Tbl.get 0 t.ms.flips (wordKey inst idx) = 0 ∧ t.number (devAddr inst idx) (wordLen inst) = some v
              ∧ t.fld pMEM (whole (MEM.CE_CNT + 4 * inst)) = min (s.fld pMEM (whole (MEM.CE_CNT + 4 * inst)) + 1) (2 ^ 32 - 1)
              ∧ t.rd (pMEM + MEM.LAST_CE) = BitVec.ofNat 32 (inst * 2 ^ 26 + (if inst = 0 then b / 8 else b))))
        ∧ (s.uninit inst idx = false → s.poisoned inst idx = true → r = .spi → s.spi.inFrame = false →
            completes (.memoryRead r a []) s (fun t => answered t r = 0 ∧ memSame s t ∧ t.spi.prevErr = some 2))

/-- A write of one whole code word lands and ends its poison; a narrower one writes nothing and raises NARROW_REJ (10_memory_ecc.md R359; 10_memory_ecc.md R360; 10_memory_ecc.md R377; 12_control_plane.md R420; 12_control_plane.md R428; 12_control_plane.md R442; 12_control_plane.md R443; 12_control_plane.md R628).
A write by a requester other than PART, with nothing gathered, which the map admits, of exactly one code word (32 bytes of DRAM or
8 of SRAM, aligned) that no recording owns and whose window takes it, leaves exactly those bytes, no cell of the word differing
from its code, and no poison entry for it. PART writes no memory: PROT_DENIED is raised. Fewer bytes write nothing, raise
NARROW_REJ and record cause NARROW with the instance and the requester. A code word that has been gathered too long issues narrow
in the same way: no byte of memory changes, nothing stays gathered, and NARROW_REJ is raised. -/
def Obligations.MemoryWritesAreWholeOrNarrow : Prop :=
  (∀ (s : State) (r : Requester) (a inst idx : Nat) (l : List Byte), idleGather s r → s.region r a = .mem inst idx → inst < 64 →
      (r = .part → completes (.memoryWrite r a l) s (fun t => memSame s t ∧ t.bit pPROT (bitAt HDR.EVT_RAW PROT.evPROT_DENIED.bit) = true))
      ∧ (r ≠ .part → s.mapAllows (s.master r) (memFam inst) = true →
      (l.length = wordLen inst → a % wordLen inst = 0 → s.windowTakes inst idx = true → s.fld pCAP CAP.CP_STAT.STATE = 0 →
        completes (.memoryWrite r a l) s (fun t => t.number (devAddr inst idx) (wordLen inst) = some (ofBytes l)
          ∧ memSameBut s t (devAddr inst idx) (wordLen inst) ∧ t.poisoned inst idx = false ∧ Tbl.get 0 t.ms.flips (wordKey inst idx) = 0))
        ∧ (0 < l.length → l.length < wordLen inst → completes (.memoryWrite r a l) s (fun t => memSame s t
            ∧ t.bit pMEM (bitAt HDR.EVT_RAW MEM.evNARROW_REJ.bit) = true
            ∧ t.rd (pMEM + MEM.ERR_INFO) = BitVec.ofNat 32 (3 * 2 ^ 28 + inst * 2 ^ 22 + s.master r * 2 ^ 12 + 127)
            ∧ (r = .cascSup → Tbl.get 0 t.cascStatus 6 = 3)))))
    ∧ (∀ (s : State) (r : Requester) (g : Gather), Tbl.find s.gathers (s.master r) = some g → (∀ c e, r ≠ .engine c e) →
        completes (.gatherTimeout r) s (fun t => Tbl.find t.gathers (s.master r) = none ∧ memSame s t
          ∧ (r ≠ .sup ∨ (∃ i j, s.region .sup g.base = .mem i j) → t.bit pMEM (bitAt HDR.EVT_RAW MEM.evNARROW_REJ.bit) = true)
          ∧ (r = .sup → t.supHeld = some g.base)))

/-- Scrubber visits advance their positions, a suspect found correct leaves, repairs install spares, buckets leak (10_memory_ecc.md R367; 10_memory_ecc.md R368; 10_memory_ecc.md R369; 10_memory_ecc.md R370; 10_memory_ecc.md R372; 10_memory_ecc.md R373; 10_memory_ecc.md R374; 10_memory_ecc.md R375; 10_memory_ecc.md R386; log entry 103).
Time runs to the end of the interval of each (not at all where it has passed; meanwhile only the TIME page's registers change). A
leak takes one from the bucket of an instance of the variant if it is above 0. A DRAM visit, while scrubbing is on, moves D_POS to
the next word, or at the last word back to 0 with one more pass and D_DONE; an SRAM visit does the same for its instance. A
revisit of a suspect word that is clean removes it from the suspect table. The oldest row repair, its copy of clean, uninitialised
or poisoned words ended, installs its spare for the row, leaves the queue of repairs, enters the settings store's health record
(R375) and raises ROW_REPAIRED. In each of these, with no cell newly flipped and every word visited clean or passed over, every
byte of memory reads as before. The end of a bandwidth window shows the code words read and written in it and starts the count
again. -/
def Obligations.ScrubbingRepairAndBuckets : Prop :=
  (∀ (s : State) (i : Fin 64), s.hasInst i.val = true → completes (.bucketLeak i) s (fun t => t.fld pMEM ⟨MEM.BKT + 4 * i.val, 0, 16⟩
        = s.fld pMEM ⟨MEM.BKT + 4 * i.val, 0, 16⟩ - 1 ∧ ranTo s t (s.clockOf (clkLeak i.val) + s.leakTicks i.val)
        ∧ memSame s t ∧ coresSame s t ∧ regsSame s t (fun a => a = pMEM + MEM.BKT + 4 * i.val ∨ inPage pTIME a)))
    ∧ (∀ s : State, s.scrubbing = true → s.bit pSCRB SCRB.SC_CTRL.D_EN = true →
        let idx := s.fld pSCRB SCRB.D_POS.POS
        (s.uninit 0 idx = true ∨ s.poisoned 0 idx = true ∨ ∃ v, clean s 0 idx v) →
        completes (.dramScrubVisit []) s (fun t => memSame s t ∧ ranTo s t ((s.visitDue 0 + s.instWords 0 - 1) / s.instWords 0)
          ∧ (idx + 1 < s.instWords 0 → t.fld pSCRB SCRB.D_POS.POS = idx + 1)
          ∧ (s.instWords 0 ≤ idx + 1 → t.fld pSCRB SCRB.D_POS.POS = 0 ∧ t.rd (pSCRB + SCRB.D_PASSES) = s.rd (pSCRB + SCRB.D_PASSES) + 1
              ∧ t.bit pSCRB (bitAt HDR.EVT_RAW SCRB.evD_DONE.bit) = true)))
    ∧ (∀ (s : State) (i : Fin 64), s.scrubbing = true → s.bit pSCRB SCRB.SC_CTRL.S_EN = true → s.hasInst i.val = true → i.val ≠ 0 →
        let pos := fldAt SCRB.S_POS.POS (4 * i.val)
        let idx := s.fld pSCRB pos
        (s.poisoned i.val idx = true ∨ ∃ v, clean s i.val idx v) →
        completes (.sramScrubVisit i []) s (fun t => memSame s t ∧ ranTo s t ((s.visitDue i.val + s.instWords i.val - 1) / s.instWords i.val)
          ∧ (idx + 1 < s.instWords i.val → t.fld pSCRB pos = idx + 1)
          ∧ (s.instWords i.val ≤ idx + 1 → t.fld pSCRB pos = 0 ∧ t.bit pSCRB (bitAt HDR.EVT_RAW SCRB.evS_DONE.bit) = true)))
    ∧ (∀ (s : State) (slot : Fin 64) (e : Suspect) (v : Nat), Tbl.find s.ms.suspects slot.val = some e → s.scrubbing = true →
        s.bit pSCRB (if e.word / 2 ^ 26 = 0 then SCRB.SC_CTRL.D_EN else SCRB.SC_CTRL.S_EN) = true →
        clean s (e.word / 2 ^ 26) (e.word % 2 ^ 26) v →
        completes (.suspectRevisit slot []) s (fun t => memSame s t
          ∧ ranTo s t (s.clockOf (clkSuspect slot.val) + 625000 * max 1 (s.fld pSCRB SCRB.SUSP_INT.MS)) ∧ ∀ p ∈ t.ms.suspects, p.2.word ≠ e.word))
    ∧ (∀ (s : State) (x : Repair) (l : List Repair), s.ms.repairs = x :: l →
        (∀ w ∈ rowWords x.inst x.word, s.uninit x.inst w = true ∨ s.poisoned x.inst w = true ∨ ∃ v, clean s x.inst w v) →
        completes (.rowRepairComplete []) s (fun t => memSame s t ∧ t.ms.repairs = l ∧ Tbl.find t.ms.spares x.spare = some (rowOf x.inst x.word)
          ∧ t.boot.flash.repairs = s.boot.flash.repairs ++ [(x.inst, x.word)]
          ∧ t.bit pMEM (bitAt HDR.EVT_RAW MEM.evROW_REPAIRED.bit) = true))
    ∧ (∀ s : State, completes .dramBwWindow s (fun t => t.rd (pDRAM + DRAM.BW_RD) = BitVec.ofNat 32 s.ms.bwRd
        ∧ t.rd (pDRAM + DRAM.BW_WR) = BitVec.ofNat 32 s.ms.bwWr ∧ t.ms.bwRd = 0 ∧ t.ms.bwWr = 0
        ∧ ranTo s t (s.clockOf clkDramBw + 800 * 2 ^ s.fld pDRAM DRAM.BW_CTRL.WIN) ∧ coresSame s t ∧ memSame s t
        ∧ regsSame s t (fun a => a = pDRAM + DRAM.BW_RD ∨ a = pDRAM + DRAM.BW_WR ∨ inPage pTIME a)))

/-- A fill begins, initialises its granules, fills its range with the pattern, and ends OK or CANCELLED (10_memory_ecc.md R362; 10_memory_ecc.md R364; 10_memory_ecc.md R386; 11_capture_replay.md R393).
FILL_GO reaching its register on an enabled page with no fill in progress and no recording: an aligned range within DRAM that is
not empty begins a fill, FILL_BUSY 1 and no byte changed; a misaligned one ends at once with ALIGN and FILL_FAIL. While a fill
runs, GO is ignored. At a granule boundary before its end the fill has written the pattern up to there. When it is done every byte
of the rest of the range holds the byte of the 64-bit pattern that its distance from the fill's base chooses, bytes outside the
range read as before, FILL_DONE_BYTES is the length, RESULT is OK and FILL_DONE is raised. CANCEL stops it after the code words
given, with RESULT CANCELLED and the bytes written. -/
def Obligations.BulkFillWritesItsPattern : Prop :=
  (∀ (s : State) (r : Requester), reaches s r 22 0 DRAM.FILL_CMD 0x1 → s.fld pCAP CAP.CP_STAT.STATE = 0 → s.enabled pDRAM = true →
      let base := (s.rd (pDRAM + DRAM.FILL_BASE)).toNat
      let len := (s.rd (pDRAM + DRAM.FILL_LEN)).toNat
      (s.filling = false → base % 32 = 0 → len % 32 = 0 → 0x40000000 ≤ base → base + len ≤ 0x40000000 + s.dramSize → 0 < len →
          completes (.fillGo r) s (fun t => t.filling = true ∧ memSame s t ∧ t.ms.fillBase = base ∧ t.ms.fillNext = base
            ∧ t.ms.fillEnd = base + len ∧ t.ms.fillPat = s.rd (pDRAM + DRAM.FILL_PAT_HI) ++ s.rd (pDRAM + DRAM.FILL_PAT_LO)))
        ∧ (s.filling = false → base % 32 ≠ 0 → completes (.fillGo r) s (fun t => t.filling = false ∧ memSame s t
            ∧ t.rd (pDRAM + DRAM.FILL_STAT) = 0x90000000 ∧ t.bit pDRAM (bitAt HDR.EVT_RAW DRAM.evFILL_FAIL.bit) = true))
        ∧ (s.filling = true → completes (.fillGo r) s (fun t => t.ms = s.ms ∧ memSame s t ∧ regsSame s t (fun _ => False))))
    ∧ (∀ s : State, s.filling = true → 0x40000000 ≤ s.ms.fillBase → s.ms.fillBase ≤ s.ms.fillNext → s.ms.fillNext < s.ms.fillEnd →
        (s.ms.fillNext - s.ms.fillBase) % 8 = 0 → s.ms.fillEnd ≤ 0xC0000000 →
        let wrote (t : State) (b : Nat) : Prop :=
          (∀ x, s.ms.fillNext ≤ x → x < b → t.byte x = some (s.ms.fillPat.extractLsb' (8 * ((x - s.ms.fillBase) % 8)) 8))
            ∧ (∀ x, x < s.ms.fillNext ∨ b ≤ x → t.byte x = s.byte x)
        let next := (s.ms.fillNext / 0x100000 + 1) * 0x100000
        completes .fillDone s (fun t => wrote t s.ms.fillEnd ∧ t.filling = false ∧ t.rd (pDRAM + DRAM.FILL_STAT) = 0x80000000
            ∧ t.rd (pDRAM + DRAM.FILL_DONE_BYTES) = BitVec.ofNat 32 (s.ms.fillEnd - s.ms.fillBase)
            ∧ t.bit pDRAM (bitAt HDR.EVT_RAW DRAM.evFILL_DONE.bit) = true)
          ∧ (next < s.ms.fillEnd → completes .fillGranuleComplete s (fun t => wrote t next ∧ t.ms.fillNext = next ∧ t.filling = true))
          ∧ (∀ r n, reaches s r 22 0 DRAM.FILL_CMD 0x2 → 0 < n → s.ms.fillNext + 32 * n ≤ s.ms.fillEnd →
              completes (.fillCancel r n) s (fun t => wrote t (s.ms.fillNext + 32 * n) ∧ t.filling = false
                ∧ t.rd (pDRAM + DRAM.FILL_STAT) = 0xA0000000
                ∧ t.rd (pDRAM + DRAM.FILL_DONE_BYTES) = BitVec.ofNat 32 (s.ms.fillNext + 32 * n - s.ms.fillBase))))

/-- INIT_CMD sets and clears granules, RPR_CMD installs a spare, and the test port plants and shows cells (10_memory_ecc.md R362; 10_memory_ecc.md R372; 10_memory_ecc.md R375; 10_memory_ecc.md R377; 10_memory_ecc.md R379; 10_memory_ecc.md R383; 10_memory_ecc.md R386).
INIT_CMD.SET reaching its register for a granule of the populated DRAM sets its INIT bit; CLR clears it and removes the poison and
suspect entries of its words. A repair of a DRAM row that has no spare yet installs the first free spare for it. With the test
port enabled on an SRAM word that exists: WRITE_RAW of data and a check byte that differ from the word's valid code in one data
bit leaves a word whose next read corrects that bit to the data before, and READ_RAW of a clean word shows its data and check
bits, the verdict CLEAN, and changes no byte and no counter. -/
def Obligations.InitAndTestPort : Prop :=
  (∀ (s : State) (r : Requester) (g : Fin 2048), g.val < s.granules →
      let a := pDRAM + DRAM.INIT_MAP + 4 * (g.val / 32)
      (reaches s r 22 0 DRAM.INIT_CMD (BitVec.ofNat 32 (0x10000 + g.val)) →
          completes (.initSet r g) s (fun t => t.initBit g.val = true ∧ memSame s t ∧ coresSame s t ∧ regsSame s t (fun x => x = a)))
        ∧ (reaches s r 22 0 DRAM.INIT_CMD (BitVec.ofNat 32 (0x20000 + g.val)) →
          completes (.initClr r g) s (fun t => t.initBit g.val = false ∧ memSame s t ∧ coresSame s t
            ∧ (∀ p ∈ t.ms.poison, ¬ (p.2 < 2 ^ 26 ∧ p.2 / 32768 = g.val))
            ∧ (∀ p ∈ t.ms.suspects, ¬ (p.2.word < 2 ^ 26 ∧ p.2.word / 32768 = g.val)))))
    ∧ (∀ (s : State) (r : Requester) (row : Fin 8192) (bank : Fin 16) (ch : Fin 8),
        let v : Word := BitVec.ofNat 32 (0x80000000 + ch.val * 2 ^ 26 + bank.val * 2 ^ 22 + row.val)
        let idx := 8192 * row.val + 512 * bank.val + ch.val
        reaches s r 22 0 DRAM.RPR_CMD v → s.rowSpared 0 idx = false → ∀ sp, s.freeSpare 0 idx = some sp →
          completes (.rprInstall r v) s (fun t => t.rowSpared 0 idx = true ∧ Tbl.find t.ms.spares sp = some row.val ∧ memSame s t))
    ∧ (∀ (s : State) (r : Requester) (inst idx good : Nat), s.bit pMEM MEM.TEST_CTRL.EN = true → s.fld pMEM MEM.TEST_CTRL.INSTANCE = inst →
        inst ≠ 0 → s.hasInst inst = true → (s.rd (pMEM + MEM.TEST_ADDR)).toNat = idx → idx < s.instWords inst → clean s inst idx good →
        let data := (s.rd (pMEM + MEM.TEST_DATA)).toNat + 2 ^ 32 * (s.rd (pMEM + MEM.TEST_DATA + 4)).toNat
        (∀ b, b < 64 → reaches s r 21 0 MEM.TEST_CMD 0x1 → data = good ^^^ 2 ^ b →
            (s.rd (pMEM + MEM.TEST_CHECK)).toNat % 256 = Config.checkBits inst idx good → Config.checkBits inst idx good ≠ Config.checkBits inst idx data →
            completes (.testWriteRaw r) s (fun t => memSame s t ∧ (t.verdict inst idx).1 = .corr b good))
          ∧ (reaches s r 21 0 MEM.TEST_CMD 0x2 → good < 2 ^ 64 → completes (.testReadRaw r []) s (fun t => memSame s t ∧ coresSame s t
              ∧ t.rd (pMEM + MEM.TEST_DATA) = BitVec.ofNat 32 good ∧ t.rd (pMEM + MEM.TEST_DATA + 4) = BitVec.ofNat 32 (good / 2 ^ 32)
              ∧ t.rd (pMEM + MEM.TEST_STAT) = 0x80000000
              ∧ t.rd (pMEM + MEM.TEST_CHECK) = BitVec.ofNat 32 (Config.checkBits inst idx good % 256)
              ∧ t.rd (pMEM + MEM.CE_CNT + 4 * inst) = s.rd (pMEM + MEM.CE_CNT + 4 * inst))))

/-- A register write lands, is ignored, is refused with its cause, or as a host error leaves registers of its own page free (00_scope.md R11; 00_scope.md R13; 12_control_plane.md R413; 12_control_plane.md R419; 12_control_plane.md R424; 12_control_plane.md R429; 12_control_plane.md R436; 12_control_plane.md R442; 12_control_plane.md R447; 12_control_plane.md R629; log entry 90).
A write by a requester with nothing gathered and no SPI frame open. Where the map and LOCK admit it, a write of EVT_MASK leaves
the value there and nothing else, so no EVT_RAW bit changes; at a read-only register or an unlisted offset it changes nothing. A
class without write permission leaves the register (outside EVT and PROT) as it was, raises PROT_DENIED and, over SPI, records the
address and cause 6 in HERR_ADDR and HERR_INFO and raises HOST_BERR. A locked RWL register keeps its value with cause 7; an
unpopulated address answers cause 5; a misaligned one cause 10; each is the SPI host's next leading status. A write that sets a
bit outside the register's fields, otherwise admitted, is a host error: whatever it leaves (free in the model, log entry 90) is
confined to registers of the page, memory, cores, queue and protection map as they were. -/
def Obligations.RegisterWritesLandOrAreRefused : Prop :=
  ∀ (s : State) (r : Requester) (a : Nat) (v : Word), idleGather s r → (r = .spi → s.spi.inFrame = false) →
    (∀ fam i, reaches s r fam i HDR.EVT_MASK v → a = pageAt fam i + HDR.EVT_MASK →
        completes (.registerWrite r a v) s (fun t => t.rd a = v ∧ onlyRegs s t [a]))
      ∧ (∀ fam i off, a % 4 = 0 → s.region r a = .page fam i off → s.mayWrite (s.master r) fam off = true →
          (findRow fam off = none ∨ ∃ row, findRow fam off = some row ∧ row.acc = .ro) →
          completes (.registerWrite r a v) s (fun t => nothing s t))
      ∧ (∀ fam i off, a % 4 = 0 → s.region r a = .page fam i off → s.mayWrite (s.master r) fam off = false →
          r = .spi → a = pageAt fam i + off → fam ≠ 5 → fam ≠ 6 → a < 2 ^ 32 →
          completes (.registerWrite r a v) s (fun t => t.rd a = s.rd a ∧ memSame s t ∧ coresSame s t ∧ raised t PROT.evPROT_DENIED 0
            ∧ raised t EVT.evHOST_BERR 0 ∧ t.rd (pEVT + EVT.HERR_ADDR) = BitVec.ofNat 32 a ∧ t.rd (pEVT + EVT.HERR_INFO) = 0x60000000
            ∧ t.spi.prevErr = some 6))
      ∧ (∀ fam i off row, a % 4 = 0 → s.region r a = .page fam i off → s.mayWrite (s.master r) fam off = true →
          findRow fam off = some row → row.acc = .rwl → s.bit (pageAt fam i) HDR.LOCK = true → r = .spi → a = pageAt fam i + off → fam ≠ 5 →
          completes (.registerWrite r a v) s (fun t => t.rd a = s.rd a ∧ memSame s t ∧ coresSame s t ∧ raised t EVT.evHOST_BERR 0
            ∧ t.spi.prevErr = some 7))
      ∧ (a % 4 = 0 → s.region r a = .none → r = .spi → completes (.registerWrite r a v) s (fun t => memSame s t ∧ coresSame s t
            ∧ t.spi.prevErr = some 5 ∧ raised t EVT.evHOST_BERR 0 ∧ regsSame s t (inPage pEVT)))
      ∧ (a % 4 ≠ 0 → r = .spi → completes (.registerWrite r a v) s (fun t => memSame s t ∧ coresSame s t
            ∧ t.spi.prevErr = some 10 ∧ raised t EVT.evHOST_BERR 0 ∧ regsSame s t (inPage pEVT)))
      ∧ (∀ fam i off row, a % 4 = 0 → s.region r a = .page fam i off → s.mayWrite (s.master r) fam off = true →
          findRow fam off = some row → row.acc = .rw ∨ row.acc = .rws ∨ row.acc = .w1c → v &&& ~~~row.mask ≠ 0 →
          completes (.registerWrite r a v) s (fun t => t.pending = s.pending ∧ memSame s t ∧ coresSame s t ∧ regsSame s t (inPage (pageAt fam i))
            ∧ ∀ n, n ≤ 34 → t.rd (pPROT + PROT.MAP + 4 * n) = s.rd (pPROT + PROT.MAP + 4 * n)))

/-- The leading status byte: bit 7 is 0, ERR and CAUSE are those of the previous frame's first failure, INT_B and INT_A the pins (12_control_plane.md R422).
For every state with no frame open, whatever the command byte opens (STATUS, the reserved OP, a WRITE or a READ of no words), the
byte returned while the command byte is sent has bit 7 at 0; bit 6 is 1 if a transaction of the previous frame failed; bits 5 to 2
are the code of its first failure, 0 if none failed; bit 1 is the level of INT_B and bit 0 that of INT_A. And the first failure of
a frame is what the next frame reports: a failure is recorded in an open frame only if none was before, and the end of the frame
keeps it, unless what the frame had gathered then issues narrow and is its first failure, cause 3. -/
def Obligations.SpiLeadingStatusByte : Prop :=
  (∀ s : State, s.spi.inFrame = false → (∀ c, s.spi.prevErr = some c → c < 16) →
      let lead (t : State) : Prop := ∃ b : Byte, t.spi.miso.head? = some b ∧ t.spi.inFrame = true
        ∧ b.getLsbD 7 = false ∧ b.getLsbD 6 = s.spi.prevErr.isSome ∧ b.toNat / 4 % 16 = s.spi.prevErr.getD 0
        ∧ b.getLsbD 1 = s.intB ∧ b.getLsbD 0 = s.intA
      completes .spiStatus s lead ∧ completes .spiReservedOp s lead
        ∧ (∀ inc a, completes (.spiWrite inc a []) s lead) ∧ (∀ inc a l, completes (.spiRead inc a 0 l) s lead))
    ∧ (∀ (s : State) (c a w : Nat), (s.spiFail c a w).spi.err = (if s.spi.err.isSome then s.spi.err else some c))
    ∧ (∀ s : State, s.spi.inFrame = true → completes .spiFrameEnd s (fun t => t.spi.inFrame = false ∧ coresSame s t ∧ memSame s t
        ∧ (Tbl.find s.gathers (s.master .spi) = none → t.spi.prevErr = s.spi.err ∧ nothing s t)
        ∧ (∀ g, Tbl.find s.gathers (s.master .spi) = some g → t.spi.prevErr = (if s.spi.err.isSome then s.spi.err else some 3)
            ∧ Tbl.find t.gathers (s.master .spi) = none ∧ raised t MEM.evNARROW_REJ 0)))

/-- A WRITE frame's words land in order, a READ frame answers status and data, and a frame stops at its first failure (12_control_plane.md R421; 12_control_plane.md R423; 12_control_plane.md R424; 12_control_plane.md R425; 13_power_clocks_thermal.md R480).
Beginning with no frame open and nothing gathered. A WRITE of one word to EVT_MASK leaves that word there; of two words without
INC, the second. A READ of EVT_RAW and EVT_MASK with INC returns after the leading byte, for each word, a status byte without ERR
and the four data bytes, most significant first, and changes no register outside PWR. At an address that holds nothing, a WRITE of
two words performs neither and records one failure with the address, cause 5 and word 0; a READ of two words returns both with
ERR, cause 5 and data 0. OP 0b11 performs nothing and records cause 8 at address 0. -/
def Obligations.SpiFramesCarryWordsUntilOneFails : Prop :=
  ∀ s : State, s.spi.inFrame = false →
    let s0 := s.spiOpen
    let wrote (t : State) (fam i : Nat) (v : Word) : Prop := t.rd (pageAt fam i + HDR.EVT_MASK) = v ∧ t.spi.err = none
      ∧ onlyRegs s0 t [pageAt fam i + HDR.EVT_MASK]
    let failed (t : State) (a : Nat) (cause : Nat) : Prop := t.spi.err = some cause ∧ raised t EVT.evHOST_BERR 0
      ∧ t.rd (pEVT + EVT.HERR_ADDR) = BitVec.ofNat 32 a ∧ t.rd (pEVT + EVT.HERR_INFO) = BitVec.ofNat 32 (cause * 2 ^ 28)
      ∧ t.rd (pEVT + EVT.HERR_CNT) = BitVec.ofNat 32 (min ((s.rd (pEVT + EVT.HERR_CNT)).toNat + 1) (2 ^ 32 - 1))
      ∧ coresSame s t ∧ memSame s t ∧ regsSame s0 t (inPage pEVT)
    idleGather s0 .spi →
    (∀ fam i v w inc, reaches s0 .spi fam i HDR.EVT_MASK v → reaches s0 .spi fam i HDR.EVT_MASK w →
        let a : Word := BitVec.ofNat 32 (pageAt fam i + HDR.EVT_MASK)
        completes (.spiWrite inc a [v]) s (fun t => wrote t fam i v) ∧ completes (.spiWrite false a [v, w]) s (fun t => wrote t fam i w))
      ∧ (∀ fam i l, s0.region .spi (pageAt fam i + HDR.EVT_RAW) = .page fam i HDR.EVT_RAW → pageAt fam i % 4 = 0 →
          s0.region .spi (pageAt fam i + HDR.EVT_MASK) = .page fam i HDR.EVT_MASK → pageAt fam i + HDR.EVT_MASK < 2 ^ 32 →
          completes (.spiRead true (BitVec.ofNat 32 (pageAt fam i + HDR.EVT_RAW)) 2 l) s (fun t =>
            regsSame s t (inPage pPWR) ∧ coresSame s t ∧ memSame s t ∧ ∃ b0 b1 b2 : Byte,
            t.spi.miso = b0 :: b1 :: (toBytes 4 (s0.rd (pageAt fam i + HDR.EVT_RAW)).toNat).reverse
              ++ b2 :: (toBytes 4 (s0.rd (pageAt fam i + HDR.EVT_MASK)).toNat).reverse
            ∧ b1.getLsbD 6 = false ∧ b2.getLsbD 6 = false))
      ∧ (∀ (a : Word) v w inc, a.toNat % 4 = 0 → s0.region .spi a.toNat = .none →
          completes (.spiWrite inc a [v, w]) s (fun t => failed t a.toNat 5)
            ∧ (∀ l, completes (.spiRead inc a 2 l) s (fun t => failed t a.toNat 5 ∧ ∃ b0 b1 b2 : Byte, t.spi.miso
                = [b0, b1, 0, 0, 0, 0, b2, 0, 0, 0, 0] ∧ b1.getLsbD 6 = true ∧ b2.getLsbD 6 = true
                ∧ b1.toNat / 4 % 16 = 5 ∧ b2.toNat / 4 % 16 = 5)))
      ∧ completes .spiReservedOp s (fun t => failed t 0 8)

/-- The MDIO window takes addresses and data, issues its transactions, reports them, and a transaction without an answer ends (12_control_plane.md R419; 12_control_plane.md R424; 12_control_plane.md R426; log entry 43).
A frame to another port address changes nothing. One to this device, while no transaction is under way: an address frame selects a
register; writes of ADDR_LO and ADDR_HI (nothing gathered) set the halves of the address; DATA_LO is kept; DATA_HI issues a write
of DATA_HI:DATA_LO at the address, BUSY 1, and INC moves the address on by 4; CTRL sets INC and with READ issues a read. While
BUSY a write is ignored and sets cause 8, unless a cause is held. A read frame returns the selected register; a read of STAT
clears its error. Post-read-increment moves to the next register (at 65,535 the model's choice, log entry 43). The transaction,
performed, leaves BUSY 0, and a read delivers its word, a write lands, a failure sets the cause. Without an answer for 10 µs it
ends with cause 9 and data 0, as does an SPI read outside a frame, HOST_BERR raised. -/
def Obligations.MdioWindowAndTimeouts : Prop :=
  ∀ (s : State) (port : Fin 32),
    (port.val ≠ s.boot.prtad → ∀ v, exec (.mdioAddressFrame port v) s = .next s ∧ exec (.mdioWriteFrame port v) s = .next s
        ∧ exec (.mdioReadFrame port) s = .next s ∧ exec (.mdioPostReadIncFrame port) s = .next s)
    ∧ (port.val = s.boot.prtad →
        let keeps (t : State) : Prop := t.pending = s.pending ∧ coresSame s t ∧ memSame s t ∧ regsSame s t (inPage pPWR)
        let m := s.mdio
        (∀ v, completes (.mdioAddressFrame port v) s (fun t => t.mdio = { m with regAddr := v.toNat } ∧ keeps t))
          ∧ (∀ v, m.busy = false → idleGather s .mdio →
              (m.regAddr = 0 → completes (.mdioWriteFrame port v) s (fun t => t.mdio = { m with addr := m.addr.extractLsb' 16 16 ++ v } ∧ keeps t))
              ∧ (m.regAddr = 1 → completes (.mdioWriteFrame port v) s (fun t => t.mdio = { m with addr := v ++ m.addr.extractLsb' 0 16 } ∧ keeps t))
              ∧ (m.regAddr = 2 → completes (.mdioWriteFrame port v) s (fun t => t.mdio = { m with wrLo := v } ∧ keeps t))
              ∧ (m.regAddr = 3 → completes (.mdioWriteFrame port v) s (fun t => keeps t ∧ t.mdio = { m with
                  busy := true, pend := some (m.addr, some (v ++ m.wrLo)), addr := if m.inc then m.addr + 4 else m.addr }))
              ∧ (m.regAddr = 4 → completes (.mdioWriteFrame port v) s (fun t => keeps t ∧ t.mdio.inc = v.getLsbD 1
                  ∧ (v.getLsbD 0 = false → t.mdio = { m with inc := v.getLsbD 1 })
                  ∧ (v.getLsbD 0 = true → t.mdio.busy = true ∧ t.mdio.pend = some (m.addr, none)
                      ∧ t.mdio.addr = if v.getLsbD 1 then m.addr + 4 else m.addr))))
          ∧ (∀ v, m.busy = true → completes (.mdioWriteFrame port v) s (fun t => keeps t
              ∧ t.mdio = { m with err := if m.err.isSome then m.err else some 8 }))
          ∧ (m.regAddr = 2 → completes (.mdioReadFrame port) s (fun t => t.mdio = { m with out := m.dataLo } ∧ keeps t)
              ∧ completes (.mdioPostReadIncFrame port) s (fun t => t.mdio = { m with out := m.dataLo, regAddr := 3 } ∧ keeps t))
          ∧ (m.regAddr = 3 → completes (.mdioReadFrame port) s (fun t => t.mdio = { m with out := m.dataHi } ∧ keeps t))
          ∧ (m.regAddr = 5 → (∀ c, m.err = some c → c < 16) → completes (.mdioReadFrame port) s (fun t => keeps t ∧ t.mdio.err = none
              ∧ t.mdio.out.getLsbD 15 = m.busy ∧ t.mdio.out.getLsbD 14 = m.err.isSome ∧ t.mdio.out.toNat / 2 ^ 10 % 16 = m.err.getD 0
              ∧ t.mdio.out.getLsbD 1 = s.intB ∧ t.mdio.out.getLsbD 0 = s.intA)))
    ∧ (idleGather s .mdio → ∀ a : Word,
        (∀ fam i, s.mdio.pend = some (a, none) → s.region .mdio a.toNat = .page fam i HDR.EVT_MASK → a.toNat = pageAt fam i + HDR.EVT_MASK →
          a.toNat % 4 = 0 → completes (.mdioTransactionDone []) s (fun t => t.mdio.busy = false ∧ t.mdio.pend = none
            ∧ t.mdio.dataHi ++ t.mdio.dataLo = s.rd a.toNat ∧ t.mdio.err = s.mdio.err ∧ nothing s t))
        ∧ (∀ fam i v, s.mdio.pend = some (a, some v) → reaches s .mdio fam i HDR.EVT_MASK v → a.toNat = pageAt fam i + HDR.EVT_MASK →
          completes (.mdioTransactionDone []) s (fun t => t.mdio.busy = false ∧ t.mdio.pend = none ∧ t.rd a.toNat = v
            ∧ t.mdio.err = s.mdio.err ∧ onlyRegs s t [a.toNat]))
        ∧ (s.mdio.pend = some (a, none) → s.region .mdio a.toNat = .none → a.toNat % 4 = 0 →
          completes (.mdioTransactionDone []) s (fun t => t.mdio.busy = false ∧ t.mdio.dataHi = 0 ∧ t.mdio.dataLo = 0
            ∧ t.mdio.err = (if s.mdio.err.isSome then s.mdio.err else some 5) ∧ raised t EVT.evHOST_BERR 0 ∧ memSame s t)))
    ∧ (s.casc.fwds = [] → (∀ a x, s.mdio.pend = some (a, none) →
          completes (.busTimeout .mdio x true) s (fun t => t.mdio.busy = false ∧ t.mdio.pend = none ∧ t.mdio.dataLo = 0 ∧ t.mdio.dataHi = 0
            ∧ t.mdio.err = (if s.mdio.err.isSome then s.mdio.err else some 9) ∧ raised t EVT.evHOST_BERR 0
            ∧ t.rd (pEVT + EVT.HERR_ADDR) = a ∧ t.rd (pEVT + EVT.HERR_INFO) = 0x91000000 ∧ memSame s t ∧ coresSame s t))
        ∧ (∀ x, s.spi.inFrame = false → idleGather s .spi → completes (.busTimeout .spi x true) s (fun t => answered t .spi = 0
            ∧ t.spi.prevErr = some 9 ∧ raised t EVT.evHOST_BERR 0 ∧ t.rd (pEVT + EVT.HERR_ADDR) = x ∧ memSame s t ∧ coresSame s t)))

/-- EVT_RAW clears by ones, LOCK stays, ENABLE stops a page at once or by draining, SNAP latches on every page, an idle latch is taken (00_scope.md R12; 05_fec_framing.md R180; 05_fec_framing.md R181; 12_control_plane.md R416; 12_control_plane.md R417; 12_control_plane.md R429; 12_control_plane.md R438; 12_control_plane.md R439; 12_control_plane.md R441).
A write of EVT_RAW that reaches its register clears exactly the bits written 1. On every page: PAGE_LOCK sets LOCK; ENABLE 0 on a
page that can be disabled clears ENABLE and leaves it DISABLED or DRAINING; ENABLE 1 sets it and enables a disabled page, a
draining one goes on draining; a drain that ends leaves DISABLED, or ENABLED where ENABLE 1 was written meanwhile; on a page whose
ENABLE is fixed at 1 both stay. A PERF page is DISABLED at once where no sample record is in flight, else DRAINING. With no
calibration visit under way these touch no register beside PAGE_CTRL and PAGE_STAT (LOCK, the fixed pages and PERF). A write of
SNAP on IFEC or OFEC sets SNAP_PEND, on PERF and TIME it shows the counters in the registers, and on every other page it copies
each wide value. A latch pending on an IFEC page whose lane is OFF shows the live counters and ends, and with CLR_ON_SNAP the
counters restart at 0; one on an OFEC page of a port that does not run ends too. -/
def Obligations.PageHeaderEnableDrainLockAndClear : Prop :=
  (∀ (s : State) (r : Requester) (fam : Fin 32) (i : Fin 16) (v : Word), reaches s r fam i HDR.EVT_RAW v →
      completes (.evtClear r fam i v) s (fun t => t.rd (rawAt fam i) = s.rd (rawAt fam i) &&& ~~~v ∧ onlyRegs s t [rawAt fam i]))
    ∧ (∀ (s : State) (r : Requester) (fam : Fin 32) (i : Fin 16),
        let b := pageAt fam i
        let st := s.fstate b
        (reaches s r fam i HDR.PAGE_CTRL (s.pageCtrl b (s.bit b HDR.ENABLE) true) →
          completes (.pageLock r fam i) s (fun t => t.bit b HDR.LOCK = true))
        ∧ (∀ c : Bool, reaches s r fam i HDR.PAGE_CTRL (if c then 2 else 0) → fixedPage fam = false →
          completes (.pageDisable r fam i c) s (fun t => t.bit b HDR.ENABLE = false
            ∧ (st = 1 → t.fstate b = 0 ∨ t.fstate b = 2) ∧ (st ≠ 1 → t.fstate b = st)))
        ∧ (reaches s r fam i HDR.PAGE_CTRL (s.pageCtrl b true false) →
          completes (.pageEnable r fam i) s (fun t => t.bit b HDR.ENABLE = true ∧ t.fstate b = (if st = 0 then 1 else st)))
        ∧ (st = 2 → s.pageBusy fam i = false →
          completes (.pageDrainDone fam i) s (fun t => t.fstate b = (if s.bit b HDR.ENABLE then 1 else 0))))
    ∧ (∀ (s : State) (r : Requester) (fam : Fin 32) (i : Fin 16), settled s → s.fstate (pageAt fam i) = 1 → s.bit (pageAt fam i) HDR.ENABLE = true →
        (reaches s r fam i HDR.PAGE_CTRL (s.pageCtrl (pageAt fam i) true true) →
          completes (.pageLock r fam i) s (fun t => t.bit (pageAt fam i) HDR.LOCK = true ∧ t.fstate (pageAt fam i) = 1
            ∧ onlyRegs s t [pageAt fam i + HDR.PAGE_CTRL]))
        ∧ (∀ b : Bool, reaches s r fam i HDR.PAGE_CTRL (if b then 2 else 0) → fixedPage fam = true →
          completes (.pageDisable r fam i b) s (fun t => t.fstate (pageAt fam i) = 1 ∧ t.bit (pageAt fam i) HDR.ENABLE = true
            ∧ onlyRegs s t [pageAt fam i + HDR.PAGE_CTRL])))
    ∧ (∀ (s : State) (r : Requester) (i : Fin 16), settled s →
        let b := pPERF i
        let l := [b + HDR.PAGE_CTRL, b + HDR.PAGE_STAT]
        (∀ c : Bool, s.fstate b = 1 → reaches s r 17 i HDR.PAGE_CTRL (if c then 2 else 0) →
            completes (.pageDisable r 17 i c) s (fun t => t.fstate b = (if (s.clu i).due = [] then 0 else 2) ∧ t.bit b HDR.ENABLE = false
              ∧ onlyRegs s t l))
          ∧ (s.fstate b = 0 → reaches s r 17 i HDR.PAGE_CTRL (s.pageCtrl b true false) →
            completes (.pageEnable r 17 i) s (fun t => t.fstate b = 1 ∧ t.bit b HDR.ENABLE = true ∧ onlyRegs s t l))
          ∧ (s.fstate b = 2 → reaches s r 17 i HDR.PAGE_CTRL (s.pageCtrl b true false) →
            completes (.pageEnable r 17 i) s (fun t => t.fstate b = 2 ∧ t.bit b HDR.ENABLE = true ∧ onlyRegs s t l))
          ∧ (s.fstate b = 2 → (s.clu i).due = [] → completes (.pageDrainDone 17 i) s (fun t =>
              t.fstate b = (if s.bit b HDR.ENABLE then 1 else 0) ∧ onlyRegs s t [b + HDR.PAGE_STAT])))
    ∧ (∀ (s : State) (r : Requester) (fam : Fin 32) (i : Fin 16), reaches s r fam i HDR.SNAP 0 →
        let b := pageAt fam i
        completes (.pageSnap r fam i) s (fun t => onlyPage s t b
          ∧ (fam.val = 12 → t.bit b IFEC.IF_STAT.SNAP_PEND = true ∧ t.bit b HDR.SNAP_PEND = true)
          ∧ (fam.val = 13 → t.bit b OFEC.OF_STAT.SNAP_PEND = true ∧ t.bit b HDR.SNAP_PEND = true)
          ∧ (fam.val = 17 → ∀ k, k < 8 → t.rd (perfCnt i k) = BitVec.ofNat 32 (s.lv (perfCnt i k))
              ∧ t.rd (perfCnt i k + 4) = BitVec.ofNat 32 (s.lv (perfCnt i k) / 2 ^ 32))
          ∧ (fam.val = 20 → t.rd (pTIME + TIME.NOW_NS) = stampNs s.time.now ∧ t.rd (pTIME + TIME.NOW_FRAC) = BitVec.ofNat 32 s.time.now)
          ∧ (fam.val ∉ [12, 13, 17, 20] → nothing s t
              ∧ ∀ o ∈ wideRegs fam, Tbl.find t.latched (b + o) = some (s.rd (b + o)))))
    ∧ (∀ (s : State) (n : Fin 8), s.bit (pIFEC n) IFEC.IF_STAT.SNAP_PEND = true → s.fld (pLRX n) LRX.LN_STAT.STATE = 0 →
        let shows (o : Nat) : Word × Word := (BitVec.ofNat 32 (s.lv (pIFEC n + o)), BitVec.ofNat 32 (s.lv (pIFEC n + o) / 2 ^ 32))
        completes (.idleLatchTimeout false n) s (fun t => t.bit (pIFEC n) IFEC.IF_STAT.SNAP_PEND = false
          ∧ (∀ o ∈ ifecWide, (t.rd (pIFEC n + o), t.rd (pIFEC n + o + 4)) = shows o)
          ∧ (∀ o ∈ ifecNarrow ++ ifecLvl, t.rd (pIFEC n + o) = (shows o).1)
          ∧ (∀ o ∈ ifecWide ++ ifecNarrow, t.lv (pIFEC n + o) = if s.bit (pIFEC n) IFEC.IF_CTRL.CLR_ON_SNAP then 0 else s.lv (pIFEC n + o))
          ∧ onlyPage s t (pIFEC n)))
    ∧ (∀ (s : State) (n : Fin 8), s.bit (pOFEC n) OFEC.OF_STAT.SNAP_PEND = true → (s.portSt n).run = false →
        completes (.idleLatchTimeout true n) s (fun t => t.bit (pOFEC n) OFEC.OF_STAT.SNAP_PEND = false ∧ onlyPage s t (pOFEC n)
          ∧ t.rd (pOFEC n + OFEC.TX_UNCORR) = BitVec.ofNat 32 (s.lv (pOFEC n + OFEC.TX_UNCORR))))

/-- Records take SEQ in true order and go to the ring, to staging or are lost and counted; LOG_EN takes effect as R430 says (12_control_plane.md R430; 12_control_plane.md R431; 12_control_plane.md R433; 12_control_plane.md R435; 12_control_plane.md R626).
With no loss to report and nothing staged for an open ring, time runs to 4 µs after the first occurrence held; held that long, of
the occurrences held the one whose tick is before all others takes the next SEQ: while LOG_EN is 0 it joins the staging queue of
fewer than 128; at 128 it is lost, LOG_LOST counts it and its event sets; while the ring is open and nothing is staged it is
written as one code word at LOG_WR, which moves on by one; no other byte changes. A staged record goes to the ring before anything
held. LOG_EN = 1 takes effect if LOG_BASE is a multiple of 64 MiB, the ring lies in the DRAM and all its granules are initialised:
LOG_EN 1, CFG_ERR 0, the base taken, LOG_WR unmoved, and a CONTROL record held; otherwise CFG_ERR sets and LOG_EN stays 0. LOG_EN
= 0 disables with its CONTROL record. -/
def Obligations.EventLogKeepsItsRecords : Prop :=
  (∀ (s : State) (l1 l2 : List Occ) (o : Occ), s.log.hold = l1 ++ o :: l2 → (∀ x ∈ l1 ++ l2, o.tick < x.tick) → s.log.lostSince = 0 →
      let seq := s.rd (pEVT + EVT.LOG_SEQ)
      let rec8 := [seq, o.ns, BitVec.ofNat 32 (o.wraps % 2 ^ 16 + (if o.noclk then 2 ^ 16 else 0) + (if o.detail.isSome then 2 ^ 17 else 0)
        + o.event % 1024 * 2 ^ 20 + o.kind % 4 * 2 ^ 30), BitVec.ofNat 32 (min o.suppressed 0xFFFF + o.master % 256 * 2 ^ 16)]
        ++ ((o.detail.getD [] ++ [0, 0, 0, 0]).take 4)
      let moved (t : State) : Prop := t.log.hold = l1 ++ l2 ∧ t.rd (pEVT + EVT.LOG_SEQ) = seq + 1 ∧ coresSame s t ∧ t.pending = s.pending
      (¬ (s.logEn = true ∧ s.noon = true ∧ s.log.staging ≠ []) → completes .logRecordWrite s (fun t => ranTo s t (o.tick + 2500)))
        ∧ (o.tick + 2500 ≤ s.tick →
        (s.logEn = false → s.log.staging.length < 128 → completes .logRecordWrite s (fun t => moved t ∧ memSame s t
          ∧ t.log.staging = s.log.staging ++ [rec8] ∧ onlyRegs s t [pEVT + EVT.LOG_SEQ]))
        ∧ (s.logEn = false → 128 ≤ s.log.staging.length → completes .logRecordWrite s (fun t => moved t ∧ memSame s t
          ∧ t.log.staging = s.log.staging ∧ t.log.lostSince = 1 ∧ raised t EVT.evLOG_LOST 0
          ∧ t.rd (pEVT + EVT.LOG_LOST) = BitVec.ofNat 32 (min ((s.rd (pEVT + EVT.LOG_LOST)).toNat + 1) (2 ^ 32 - 1))))
        ∧ (s.logEn = true → s.noon = true → s.log.staging = [] → s.log.base.toNat % 32 = 0 → 0x40000000 ≤ s.log.base.toNat →
          let i := s.fld pEVT EVT.LOG_WR.INDEX
          completes .logRecordWrite s (fun t => t.log.staging = [] ∧ t.number (s.log.base.toNat + 32 * i) 32 = some (ofWords rec8)
            ∧ memSameBut s t (s.log.base.toNat + 32 * i) 32 ∧ t.fld pEVT EVT.LOG_WR.INDEX = (i + 1) % 2 ^ 21
            ∧ t.rd (pEVT + EVT.LOG_SEQ) = seq + 1))))
    ∧ (∀ (s : State) (x : List Word) (l : List (List Word)), s.log.staging = x :: l → s.logEn = true → s.noon = true → s.log.lostSince = 0 →
        s.log.base.toNat % 32 = 0 → 0x40000000 ≤ s.log.base.toNat → ofWords x < 2 ^ 256 →
        let a := s.log.base.toNat + 32 * s.fld pEVT EVT.LOG_WR.INDEX
        completes .logRecordWrite s (fun t => t.log.staging = l ∧ t.number a 32 = some (ofWords x) ∧ memSameBut s t a 32
          ∧ t.rd (pEVT + EVT.LOG_SEQ) = s.rd (pEVT + EVT.LOG_SEQ)))
    ∧ (∀ (s : State) (r : Requester),
        let b := (s.rd (pEVT + EVT.LOG_BASE)).toNat
        let ok := b % 0x4000000 = 0 ∧ 0x40000000 ≤ b ∧ b + 0x4000000 ≤ 0x40000000 + s.dramSize
          ∧ ∀ i, i < 64 → s.initBit ((b - 0x40000000) / 0x100000 + i) = true
        let logged (t : State) (en : Word) (base : Word) : Prop := ∃ o, t.log.hold = s.log.hold ++ [o] ∧ o.kind = 2 ∧ o.event = 990
          ∧ o.detail = some [en, base, s.rd (pEVT + EVT.LOG_WR), 0]
        (reaches s r 5 0 EVT.EV_CTRL (s.rd (pEVT + EVT.EV_CTRL) ||| 0x1) →
          (s.logEn = false → ok → completes (.logEnable r) s (fun t => t.logEn = true ∧ t.bit pEVT EVT.EV_STAT.CFG_ERR = false
              ∧ t.log.base = s.rd (pEVT + EVT.LOG_BASE) ∧ logged t 1 (s.rd (pEVT + EVT.LOG_BASE))
              ∧ onlyRegs s t [pEVT + EVT.EV_CTRL, pEVT + EVT.EV_STAT]))
          ∧ (s.logEn = false → ¬ ok → completes (.logEnable r) s (fun t => t.logEn = false ∧ t.bit pEVT EVT.EV_STAT.CFG_ERR = true
              ∧ t.log = s.log ∧ onlyRegs s t [pEVT + EVT.EV_CTRL, pEVT + EVT.EV_STAT]))
          ∧ (s.logEn = true → completes (.logEnable r) s (fun t => t.log = s.log ∧ nothing s t)))
        ∧ (reaches s r 5 0 EVT.EV_CTRL (s.rd (pEVT + EVT.EV_CTRL) &&& ~~~0x1) → s.logEn = true →
          completes (.logDisable r) s (fun t => t.logEn = false ∧ logged t 0 0 ∧ onlyRegs s t [pEVT + EVT.EV_CTRL])))

/-- A proposal is taken, refused, withdrawn, expires, is rejected, or is accepted, and only acceptance changes the map (12_control_plane.md R442; 12_control_plane.md R444; 12_control_plane.md R445; 12_control_plane.md R454; log entry 103).
A proposal is pending for 10 ms. SUBMIT reaching its register with none pending, or one whose time has passed, and the page not
locked: a valid proposal takes the next PROP_ID, copies the entry in force to PROP_OLD, leaves PENDING and raises PROP_PENDING;
one naming PROT or a family above 34, or a mask without bit 2 or with a bit of 15 to 12, ends INVALID with the next PROP_ID and
PROP_DONE. While one is pending, SUBMIT over SPI is refused with cause 8. WITHDRAW ends a pending proposal and does nothing
otherwise. RATIFY by the ratifier with the pending PROP_ID: ACCEPT puts the mask into the family's map entry, REJECT does not;
another PROP_ID changes no map entry. Expiry, to whose instant time runs, ends a pending proposal, and WITHDRAW or RATIFY after it
finds it EXPIRED. Each end leaves its state code and PROP_DONE; in each case no register outside PROP_STAT, PROP_OLD, EVT_RAW and
that one map entry (and TIME, as time runs) changes. -/
def Obligations.ProtectionMapChangesByTwoParties : Prop :=
  ∀ (s : State) (r : Requester),
    let f := s.fld pPROT PROT.PROP_FAM.FAM
    let m := s.rd (pPROT + PROT.PROP_MASK)
    let id := s.fld pPROT PROT.PROP_STAT.PROP_ID
    let entry (n : Nat) := pPROT + PROT.MAP + 4 * n
    let l := [pPROT + PROT.PROP_STAT, pPROT + PROT.PROP_OLD, rawAt 6 0]
    let late : Prop := s.propTick + 6250000 < s.tick
    let ended (t : State) (code : Nat) : Prop := t.propState = code ∧ raised t PROT.evPROP_DONE 0
    (reaches s r 6 0 PROT.PROP_CMD 0x1 → s.bit pPROT HDR.LOCK = false →
        (s.propState ≠ 1 ∨ late → f ≠ 6 → f ≤ 34 → m.getLsbD 2 = true → getBits m 12 4 = 0 →
            completes (.propSubmit r) s (fun t => t.propState = 1 ∧ t.fld pPROT PROT.PROP_STAT.PROP_ID = (id + 1) % 2 ^ 16
              ∧ t.rd (pPROT + PROT.PROP_OLD) = s.rd (entry f) ∧ raised t PROT.evPROP_PENDING 0 ∧ t.propFam = f ∧ t.propMask = m
              ∧ t.propTick = s.tick ∧ onlyRegs s t l))
          ∧ (s.propState ≠ 1 ∨ late → (f = 6 ∨ 34 < f ∨ m.getLsbD 2 = false ∨ getBits m 12 4 ≠ 0) →
            completes (.propSubmit r) s (fun t => ended t 5 ∧ t.fld pPROT PROT.PROP_STAT.PROP_ID = (id + 1) % 2 ^ 16 ∧ onlyRegs s t l))
          ∧ (s.propState = 1 → ¬ late → r = .spi → s.spi.inFrame = false →
            completes (.propSubmit r) s (fun t => t.spi.prevErr = some 8 ∧ memSame s t ∧ coresSame s t ∧ regsSame s t (inPage pEVT))))
      ∧ (reaches s r 6 0 PROT.PROP_CMD 0x2 →
          (s.propState = 1 → completes (.propWithdraw r) s (fun t => (¬ late → ended t 6) ∧ (late → ended t 4) ∧ onlyRegs s t l))
            ∧ (s.propState ≠ 1 → completes (.propWithdraw r) s (fun t => nothing s t)))
      ∧ (∀ v : Word, reaches s r 6 0 PROT.RATIFY v → s.propState = 1 → s.propFam ≤ 34 →
          (late → completes (.ratify r v) s (fun t => t.propState = 4 ∧ ∀ n, n ≤ 34 → t.rd (entry n) = s.rd (entry n)))
          ∧ (¬ late → (getBits v 16 16 = id → v.getLsbD 0 = true → v.getLsbD 1 = false → completes (.ratify r v) s (fun t => ended t 2
              ∧ t.rd (entry s.propFam) = s.propMask ∧ onlyRegs s t (entry s.propFam :: l)))
            ∧ (getBits v 16 16 = id → v.getLsbD 0 = false → v.getLsbD 1 = true → completes (.ratify r v) s (fun t => ended t 3
              ∧ onlyRegs s t l))
            ∧ (getBits v 16 16 ≠ id → completes (.ratify r v) s (fun t => t.propState = 1 ∧ ∀ n, n ≤ 34 → t.rd (entry n) = s.rd (entry n)))))
      ∧ (∀ v : Word, idleGather s .spi → s.region .spi (pPROT + PROT.RATIFY) = .page 6 0 PROT.RATIFY → s.spi.inFrame = false →
          completes (.ratify .spi v) s (fun t => raised t PROT.evPROT_DENIED 0 ∧ t.spi.prevErr = some 6
            ∧ ∀ n, n ≤ 34 → t.rd (entry n) = s.rd (entry n)))
      ∧ (s.propState = 1 → completes .propExpiry s (fun t => ended t 4 ∧ ranTo s t (s.propTick + 6250000) ∧ t.pending = s.pending ∧ coresSame s t
          ∧ memSame s t ∧ regsSame s t (fun a => a ∈ l ∨ inPage pTIME a)))

/-- A commit request is accepted with the values its groups' shadows hold and changes no value in force; a brown-out discards it (01_architecture.md R33; 02_line_receiver.md R59; 02_line_receiver.md R60; 03_line_transmitter.md R105; 06_host_lanes.md R226).
A COMMIT write of a lane direction that reaches its register, names at least one group and no group in which the owner's values
stand: outside the brown-out it joins the requests waiting, after all before it, with the shadow values of its groups; no value in
force changes, and no register but COMMIT_STAT outside the PERF pages. During the brown-out, with none waiting, it is discarded at
once: the shadows of its groups return to the values in force, COMMIT_DISCARDED is raised, and nothing waits. One that names a
group with the owner's values asks for no commit, a host error confined to its page; a mask of 0 does nothing. -/
def Obligations.CommitRequestsTakeTheShadow : Prop :=
  ∀ (s : State) (r : Requester),
    let ok (t : State) (page stat mask : Nat) : Prop := accepted s t page mask 0 ∧ (∀ a, t.inf a = s.inf a) ∧ memSame s t
      ∧ t.pending = s.pending ∧ regsSame s t (fun a => a = page + stat ∨ ∃ c, inPage (pPERF c) a)
    let gone (t : State) (page mask : Nat) (e : Ev) (i : Nat) : Prop := t.commits = [] ∧ raised t e i ∧ memSame s t
      ∧ (∀ a, t.inf a = s.inf a) ∧ ∀ g a, g < 7 → mask.testBit g = true → a ∈ groupAddrs page g → t.rd a = s.inf a
    let mine (page mask : Nat) : Prop := mask ≠ 0 ∧ ∀ g ∈ groupsIn mask, s.mark page g &&& 2 = 0
    let theirs (page mask : Nat) : Prop := ∃ g ∈ groupsIn mask, s.mark page g &&& 2 ≠ 0
    (∀ (n : Fin 8) (m : BitVec 7), reaches s r 9 n LRX.COMMIT (m.setWidth 32) → mine (pLRX n) m.toNat →
        (s.brownOut = false → completes (.lrxCommit r n m) s (fun t => ok t (pLRX n) LRX.COMMIT_STAT m.toNat))
          ∧ (s.brownOut = true → s.commits = [] → completes (.lrxCommit r n m) s (fun t => gone t (pLRX n) m.toNat LRX.evCOMMIT_DISCARDED n)))
      ∧ (∀ (n : Fin 8) (m : BitVec 7), reaches s r 9 n LRX.COMMIT (m.setWidth 32) →
        (theirs (pLRX n) m.toNat → completes (.lrxCommit r n m) s (fun t => t.commits = s.commits ∧ onlyPage s t (pLRX n)))
          ∧ (m = 0 → completes (.lrxCommit r n m) s (fun t => nothing s t)))
      ∧ (∀ (n : Fin 8) (m : BitVec 5), reaches s r 10 n LTX.COMMIT (m.setWidth 32) → mine (pLTX n) m.toNat →
        (s.brownOut = false → completes (.ltxCommit r n m) s (fun t => ok t (pLTX n) LTX.COMMIT_STAT m.toNat))
          ∧ (s.brownOut = true → s.commits = [] → completes (.ltxCommit r n m) s (fun t => gone t (pLTX n) m.toNat LTX.evCOMMIT_DISCARDED n)))
      ∧ (∀ (n : Fin 8) (m : BitVec 5), reaches s r 10 n LTX.COMMIT (m.setWidth 32) →
        (theirs (pLTX n) m.toNat → completes (.ltxCommit r n m) s (fun t => t.commits = s.commits ∧ onlyPage s t (pLTX n)))
          ∧ (m = 0 → completes (.ltxCommit r n m) s (fun t => nothing s t)))
      ∧ (∀ (n : Fin 16) (m : BitVec 4), reaches s r 15 n HSL.COMMIT (m.setWidth 32) → mine (pHSL n) m.toNat →
        (s.brownOut = false → completes (.hslCommit r n m) s (fun t => ok t (pHSL n) HSL.COMMIT_STAT m.toNat))
          ∧ (s.brownOut = true → s.commits = [] → completes (.hslCommit r n m) s (fun t => gone t (pHSL n) m.toNat HSL.evCOMMIT_DISCARDED n)))
      ∧ (∀ (n : Fin 16) (m : BitVec 4), reaches s r 15 n HSL.COMMIT (m.setWidth 32) →
        (theirs (pHSL n) m.toNat → completes (.hslCommit r n m) s (fun t => t.commits = s.commits ∧ onlyPage s t (pHSL n)))
          ∧ (m = 0 → completes (.hslCommit r n m) s (fun t => nothing s t)))

/-- At a commit point every request waiting for the direction takes effect, whole and in the order accepted; a late one waits (01_architecture.md R30; 01_architecture.md R31; 01_architecture.md R32; 01_architecture.md R33; 02_line_receiver.md R61; 03_line_transmitter.md R101; 06_host_lanes.md R215; 06_host_lanes.md R216; 01_architecture.md R625).
At a boundary of a running line receive lane (its frame count one on), of an ACTIVE line transmit lane (the symbols saturated in
the frame sent counted in CLIP_CNT), at a commit point of a live host receiver or an ACTIVE host transmitter (its commit count one
on), at AM lock, and for a direction that does not run (a receiver DOWN, a transmitter without REFCLK, a host receiver DOWN or in
FAULT, a host transmitter not ACTIVE), with no request late: none waits any longer for that direction, and each register of its
groups has in force the value that the requests, applied one after another, leave, or the value before where none named it. The
single request that came too late for a boundary of a receive lane waits on, and nothing in force changes. No such point changes
memory. -/
def Obligations.CommitPointsApplyRequestsInOrder : Prop :=
  (∀ (s : State) (n : Fin 8) raw cf, s.lnState n ≠ 0 →
      completes (.lineRxCommitPoint n 0 raw cf) s (fun t => tookEffect s t (pLRX n) 0x7F
        ∧ t.rd (pLRX n + LRX.FRAME_CNT) = s.rd (pLRX n + LRX.FRAME_CNT) + 1 ∧ t.pending = s.pending)
      ∧ (∀ (q : CommitReq) (k : Nat), settled s → s.commits = [q] → q.page = pLRX n → q.groups &&& 0x7F ≠ 0 →
          completes (.lineRxCommitPoint n (k + 1) raw cf) s (fun t => t.commits = [q] ∧ ∀ a, t.inf a = s.inf a)))
    ∧ (∀ (s : State) (n : Fin 8), s.txState n = 3 → completes (.lineTxFrameBoundary n 0) s (fun t =>
        let clips := (s.txShape n (s.txLevels n).1).countP (·.2)
        tookEffect s t (pLTX n) 0x1F ∧ t.rd (pLTX n + LTX.FRAME_CNT) = s.rd (pLTX n + LTX.FRAME_CNT) + 1
          ∧ t.rd (pLTX n + LTX.CLIP_CNT) = BitVec.ofNat 32 (min ((s.rd (pLTX n + LTX.CLIP_CNT)).toNat + clips) (2 ^ 32 - 1))
          ∧ (clips ≠ 0 → raised t LTX.evCLIP n)))
    ∧ (∀ (s : State) (m : Fin 16) skew lane comp freq, s.hrxLive m = true → completes (.hostRxCommitPoint m 0 skew lane comp freq) s (fun t =>
        tookEffect s t (pHSL m) 0xE ∧ t.fld (pHSL m) HSL.CP_CNT.RX = (s.fld (pHSL m) HSL.CP_CNT.RX + 1) % 2 ^ 16 ∧ memSame s t))
    ∧ (∀ (s : State) (m : Fin 16) comp, s.htx m = 2 → completes (.hostTxCommitPoint m 0 comp) s (fun t =>
        tookEffect s t (pHSL m) 0x1 ∧ memSame s t ∧ ((s.hslSt m).stop = false →
          t.fld (pHSL m) HSL.CP_CNT.TX = (s.fld (pHSL m) HSL.CP_CNT.TX + 1) % 2 ^ 16 ∧ t.htx m = 2)))
    ∧ (∀ (s : State) (m : Fin 16), s.hrx m = 4 → completes (.amLock m 0) s (fun t => tookEffect s t (pHSL m) 0xE ∧ t.hrx m = 5
        ∧ t.bit (pHSL m) HSL.RX_STAT.AM_LOCK = true ∧ raised t HSL.evRX_UP m ∧ memSame s t))
    ∧ (∀ (s : State) (n : Fin 8), (s.lnState n = 0 → completes (.idleCommitApply (.lineRx n)) s (fun t => tookEffect s t (pLRX n) 0x7F
          ∧ memSame s t ∧ regsSame s t (fun a => a = pLRX n + LRX.COMMIT_STAT ∨ ∃ c, inPage (pPERF c) a)))
        ∧ (s.refOk = false → completes (.idleCommitApply (.lineTx n)) s (fun t => tookEffect s t (pLTX n) 0x1F
          ∧ memSame s t ∧ regsSame s t (fun a => a = pLTX n + LTX.COMMIT_STAT ∨ ∃ c, inPage (pPERF c) a))))
    ∧ (∀ (s : State) (m : Fin 16), (s.hrx m = 0 ∨ s.hrx m = 6 → completes (.idleCommitApply (.hostRx m)) s (fun t => tookEffect s t (pHSL m) 0xE
          ∧ memSame s t ∧ regsSame s t (fun a => a = pHSL m + HSL.COMMIT_STAT ∨ ∃ c, inPage (pPERF c) a)))
        ∧ (s.htx m ≤ 1 → completes (.idleCommitApply (.hostTx m)) s (fun t => tookEffect s t (pHSL m) 0x1
          ∧ memSame s t ∧ regsSame s t (fun a => a = pHSL m + HSL.COMMIT_STAT ∨ ∃ c, inPage (pPERF c) a))))

/-- A receive lane climbs by LOS, timing, SNR and ADVANCE, and each loss drops it to its state with its cause and event (02_line_receiver.md R48; 02_line_receiver.md R53; 02_line_receiver.md R64; 02_line_receiver.md R65; 02_line_receiver.md R66; 02_line_receiver.md R67; 02_line_receiver.md R76; 05_fec_framing.md R162).
With no calibration visit under way or waiting. LOS: an amplitude below LOS_ON of a running lane without LOS leads to SIGNAL with
cause 1, TR_LOCK 0 and SNR 0; from LOCKED also LOCK_LOST, its count and the end of frame lock. An amplitude above LOS_OFF clears
LOS, to GAIN. A frequency within 0.5 ppm over four windows sets TR_LOCK and is shown; the range limit raises TR_RANGE; the limit
or a cycle slip clears TR_LOCK and drops a lane at EQ or above to TIMING with cause 2. An SNR window that has ended shows its SNR
and levels; the 64th below SNR_LOSS in a row drops FRAME or LOCKED to EQ with cause 3. The time-out of an acquisition goes back to
GAIN and counts. ADVANCE by an engine that counts in the lane's cluster moves GAIN to TIMING, TIMING with TR_LOCK to EQ, EQ with
SNR_OK to FRAME, and nothing else; RESTART goes to GAIN with cause 5. The ADC monitor shows its window's RMS and clips. Each
changes only the lane's own pages, ports, outer code, time and capture. -/
def Obligations.LineReceiveLaneStates : Prop :=
  ∀ (s : State) (n : Fin 8), settled s →
    let b := pLRX n
    let st := s.lnState n
    let fell (t : State) (dst cause : Nat) (e : Ev) : Prop := t.lnState n = dst ∧ t.fld b LRX.LN_STAT.LOSS_CAUSE = cause ∧ raised t e n
      ∧ (st = 6 → raised t LRX.evLOCK_LOST n ∧ t.rd (b + LRX.CNT_LOCK_LOSS)
          = BitVec.ofNat 32 (min ((s.rd (b + LRX.CNT_LOCK_LOSS)).toNat + 1) (2 ^ 32 - 1)))
    let keeps (t : State) : Prop := onlyPages s t (lanePages n)
    (∀ a : BitVec 10, st ≠ 0 → s.bit b LRX.LN_STAT.LOS = false → a.toNat < 4 * s.fld b LRX.LOS_CFG.LOS_ON →
        completes (.losAssert n a) s (fun t => fell t 1 1 LRX.evLOS_ASSERT ∧ t.bit b LRX.LN_STAT.LOS = true ∧ keeps t
          ∧ t.bit b LRX.LN_STAT.TR_LOCK = false ∧ t.fld b LRX.SNR_EST.SNR = 0 ∧ (5 ≤ st → t.ifState n = 0)))
      ∧ (∀ a : BitVec 10, st = 1 → s.bit b LRX.LN_STAT.LOS = true → 4 * s.fld b LRX.LOS_CFG.LOS_OFF < a.toNat →
        completes (.losClear n a) s (fun t => t.lnState n = 2 ∧ t.bit b LRX.LN_STAT.LOS = false ∧ raised t LRX.evLOS_CLEAR n ∧ onlyPage s t b))
      ∧ (∀ v : Nat → Rat, s.trRuns n = true → (s.lrxSt n).pipe.trWin = (List.range 5).map v →
          (∀ i, i < 4 → -500 < v i - v (i + 1) ∧ v i - v (i + 1) < 500) → completes (.timingLockSet n) s (fun t =>
            t.bit b LRX.LN_STAT.TR_LOCK = true ∧ t.fld b LRX.TR_FREQ.DELTA = unsx 24 (s.lrxSt n).pipe.shown ∧ t.lnState n = st
              ∧ onlyPage s t b))
      ∧ (s.trRuns n = true → (s.lrxSt n).pipe.limit = true → completes (.trRange n) s (fun t => raised t LRX.evTR_RANGE n ∧ keeps t
          ∧ t.bit b LRX.LN_STAT.TR_LOCK = false ∧ t.fld b LRX.TR_FREQ.DELTA = unsx 24 (s.lrxSt n).pipe.shown
          ∧ (s.bit b LRX.LN_STAT.TR_LOCK = true → 4 ≤ st → fell t 3 2 LRX.evTIMING_LOST)))
      ∧ (s.trRuns n = true → completes (.cycleSlip n) s (fun t => t.bit b LRX.LN_STAT.TR_LOCK = false ∧ keeps t
          ∧ (s.bit b LRX.LN_STAT.TR_LOCK = true → 4 ≤ st → fell t 3 2 LRX.evTIMING_LOST)))
      ∧ (∀ w rest, s.trRuns n = true → (s.lrxSt n).pipe.lvlDone = w :: rest → completes (.snrWindowEnd n) s (fun t =>
          let x := windowSnr w
          t.fld b LRX.SNR_EST.SNR = x ∧ keeps t ∧ (t.lrxSt n).pipe.lvlDone = rest
          ∧ (∀ l, l < 4 → t.lv (pIFEC n + IFEC.LVL + 4 * l) = lvlWord (w.getD l ⟨0, 0, 0, 0⟩))
          ∧ ((st = 5 ∨ st = 6) → x < s.fld b LRX.SNR_CFG.SNR_LOSS → 63 ≤ (s.lrxSt n).low → fell t 4 3 LRX.evSNR_LOSS)
          ∧ ((st = 5 ∨ st = 6) → x < s.fld b LRX.SNR_CFG.SNR_LOSS → (s.lrxSt n).low < 63 →
              t.lnState n = st ∧ (t.lrxSt n).low = (s.lrxSt n).low + 1)
          ∧ (s.fld b LRX.SNR_CFG.SNR_LOSS ≤ x → t.lnState n = st ∧ (t.lrxSt n).low = 0)))
      ∧ (2 ≤ st → st ≤ 5 → s.fld b ⟨LRX.ACQ_TMO, 0, 16⟩ ≠ 0 → completes (.acqTimeout n) s (fun t => t.lnState n = 2 ∧ keeps t
          ∧ raised t LRX.evACQ_TIMEOUT n
          ∧ t.rd (b + LRX.CNT_ACQ_FAIL) = BitVec.ofNat 32 (min ((s.rd (b + LRX.CNT_ACQ_FAIL)).toNat + 1) (2 ^ 32 - 1))))
      ∧ (∀ sq clip rest (z : BitVec 10), (s.lrxSt n).pipe.adcDone = (sq, clip) :: rest → completes (.adcMonWindow n z) s (fun t =>
          t.fld b LRX.ADC_MON.RMS = rmsOf sq ∧ t.fld b LRX.ADC_MON.CLIP = clip % 2 ^ 12 ∧ t.fld b LRX.AFE_STAT.AMPL = z.toNat
            ∧ onlyPage s t b ∧ t.lnState n = st))
      ∧ (∀ c e, s.homeOf (16 * c + e) = n → reaches s (.engine c e) 9 n LRX.ACQ_CMD 0x1 → completes (.acqAdvance (.engine c e) n) s (fun t => keeps t
          ∧ t.lnState n = (if st = 2 then 3 else if st = 3 ∧ s.bit b LRX.LN_STAT.TR_LOCK then 4 else if st = 4 ∧ s.snrOk n then 5 else st)
          ∧ (st = 4 → s.snrOk n = true → t.ifState n = 1)))
      ∧ (∀ r, reaches s r 9 n LRX.ACQ_CMD 0x2 → completes (.acqRestart r n) s (fun t => keeps t ∧ (st < 2 → nothing s t)
          ∧ (2 ≤ st → t.lnState n = 2 ∧ t.fld b LRX.LN_STAT.LOSS_CAUSE = 5) ∧ (st = 6 → raised t LRX.evLOCK_LOST n)))

/-- A transmit lane leaves OFF as its PLL locks, beacons without a port, becomes ACTIVE with its port, and steps its fine skew (03_line_transmitter.md R97; 03_line_transmitter.md R99; 03_line_transmitter.md R101; 03_line_transmitter.md R102; 03_line_transmitter.md R103; 03_line_transmitter.md R104).
In NOON with REFCLK. A present lane in OFF whose PLL locks enters SQUELCH if an enabled port contains it, else, with BEACON 1,
BEACON. BEACON set moves a lane in SQUELCH without a port to BEACON; cleared, back to SQUELCH; with a port, neither changes its
state. SQ_HOLD's end is kept for the lane of an enabled port. At a boundary of the frame timer, with nothing waiting to commit and
no calibration under way, every lane of a fitting port that is ready becomes ACTIVE with frame count 0. A stop requested of an
ACTIVE lane takes effect at its frame boundary: TX_INACTIVE, and the lane is no longer ACTIVE. A skew step moves the interpolator
by one towards SKEW_F in force and no register. -/
def Obligations.LineTransmitLaneStates : Prop :=
  ∀ (s : State) (n : Fin 8), s.noon = true → s.refOk = true →
    let b := pLTX n
    let st := s.txState n
    let port := (s.portOfLine n).isSome
    let keeps (t : State) : Prop := onlyPages s t [b, pCLK, pDAWN n]
    (n.val < s.lines → st = 0 → (port = true ∨ s.bit b LTX.TX_CTRL.BEACON = true) →
        completes (.txPllLocked n) s (fun t => t.txState n = (if port then 1 else 2) ∧ t.bit pCLK (bitAt CLK.LOCK0 (8 + n)) = true ∧ keeps t))
      ∧ (∀ r, reaches s r 10 n LTX.TX_CTRL (s.rd (b + LTX.TX_CTRL) ||| 0x1) → s.fld b LTX.TX_CTRL.PAT ≤ 4 →
        completes (.txBeaconSet r n) s (fun t => t.bit b LTX.TX_CTRL.BEACON = true ∧ keeps t
          ∧ (st = 1 → t.txState n = if port then 1 else 2) ∧ (st = 0 ∨ st = 3 → t.txState n = st)))
      ∧ (∀ r, reaches s r 10 n LTX.TX_CTRL (s.rd (b + LTX.TX_CTRL) &&& ~~~0x1) → s.fld b LTX.TX_CTRL.PAT ≤ 4 →
        completes (.txBeaconClear r n) s (fun t => t.bit b LTX.TX_CTRL.BEACON = false ∧ keeps t
          ∧ (st = 2 → t.txState n = 1) ∧ (st ≠ 2 → t.txState n = st)))
      ∧ (port = true → completes (.sqHoldExpiry n) s (fun t => (t.ltxSt n).sq = true ∧ nothing s t))
      ∧ (∀ p : Fin 8, settled s → s.commits = [] → s.txReady p = true → s.portFits p = true →
        completes (.txFrameTimerBoundary []) s (fun t => ∀ k ∈ s.portLanes p, t.txState k = 3 ∧ t.rd (pLTX k + LTX.FRAME_CNT) = 0
          ∧ raised t LTX.evTX_ACTIVE k ∧ (t.ltxSt k).stop = false))
      ∧ (settled s → s.commits = [] → st = 3 → (s.ltxSt n).stop = true → completes (.lineTxFrameBoundary n 0) s (fun t =>
          t.txState n ≠ 3 ∧ raised t LTX.evTX_INACTIVE n ∧ t.rd (b + LTX.FRAME_CNT) = s.rd (b + LTX.FRAME_CNT) + 1))
      ∧ (2 ≤ st → let want := getBits (s.inf (b + LTX.SKEW_F)) 0 6
        completes (.skewFineStep n) s (fun t => nothing s t ∧ (t.ltxSt n).skew
          = if (s.ltxSt n).skew < want then (s.ltxSt n).skew + 1 else if want < (s.ltxSt n).skew then (s.ltxSt n).skew - 1 else want))

/-- A host lane starts as its PLL locks, climbs to UP, and falls to the state of its loss with its cause, count and event (06_host_lanes.md R207; 06_host_lanes.md R209; 06_host_lanes.md R211; 06_host_lanes.md R212; 06_host_lanes.md R214; 06_host_lanes.md R219; 06_host_lanes.md R220; 06_host_lanes.md R222; 06_host_lanes.md R229; 13_power_clocks_thermal.md R461).
With nothing under way in calibration. LOS, CDR loss, low SNR for 64 windows, AM loss and FAULT drop a receiver to SIGNAL, CDR,
EQ, AM or FAULT with causes 1, 2, 3, 4 and 7, counted from EQ or above, RX_DOWN from UP; LOS clears to CDR, CDR lock on five near
offsets to EQ, with the last unless held, ADVANCE by a serving engine with SNR_OK from EQ to AM, RESTART back to CDR with cause 5.
A PLL lock of a present lane starts a defined transmitter from OFF (ACTIVE if its port runs in NOON, else SQUELCH) or, for a
running port, a receiver from DOWN. A preset below 6 loads its five taps into the shadow; 6 and 7, which do not exist, are host
errors confined to the page. A slip counts for its port; the checker's lock shows; a marker at the port's running reference lane
is stamped with the time counter corrected and counted. Every one leaves memory as it was, and the pages of other lanes. -/
def Obligations.HostLaneStates : Prop :=
  ∀ (s : State) (m : Fin 16), settled s →
    let b := pHSL m
    let st := s.hrx m
    let fell (t : State) (dst cause : Nat) : Prop := t.hrx m = dst ∧ t.fld b HSL.RX_STAT.LOSS_CAUSE = cause ∧ (st = 5 → raised t HSL.evRX_DOWN m)
      ∧ (3 ≤ st → st ≤ 5 → t.rd (b + HSL.CNT_LOSS) = BitVec.ofNat 32 (min ((s.rd (b + HSL.CNT_LOSS)).toNat + 1) (2 ^ 32 - 1)))
    let keeps (t : State) : Prop := onlyPages s t (hostPages m)
    (∀ a : BitVec 10, s.hrxLive m = true → s.bit b HSL.RX_STAT.LOS = false → a.toNat < 4 * s.fld b ⟨HSL.LOS_CFG, 0, 8⟩ →
        completes (.hostLosAssert m a) s (fun t => fell t 1 1 ∧ t.bit b HSL.RX_STAT.LOS = true ∧ t.bit b HSL.RX_STAT.CDR_LOCK = false
          ∧ t.fld b HSL.RX_SNR.SNR = 0 ∧ raised t HSL.evLOS_ASSERT m ∧ keeps t))
      ∧ (∀ a : BitVec 10, st = 1 → s.bit b HSL.RX_STAT.LOS = true → 4 * s.fld b ⟨HSL.LOS_CFG, 8, 8⟩ < a.toNat →
        completes (.hostLosClear m a) s (fun t => t.hrx m = 2 ∧ t.bit b HSL.RX_STAT.LOS = false ∧ raised t HSL.evLOS_CLEAR m ∧ onlyPage s t b))
      ∧ (∀ f : Nat → Int, st = 2 →
          let locks (d : Nat) (t : State) : Prop := t.hrx m = 3 ∧ t.bit b HSL.RX_STAT.CDR_LOCK = true ∧ t.fld b HSL.CDR_FREQ.DELTA = d ∧ onlyPage s t b
          (s.cdrHeld m = false → (∀ i, i < 5 → (f i).natAbs < 300000) → (∀ i, i < 4 → (f (i + 1) - f i).natAbs < 1000) →
              completes (.cdrLockSet m ((List.range 5).map f)) s (locks (unsx 24 (f 4))))
            ∧ (s.cdrHeld m = true → completes (.cdrLockSet m ((List.range 5).map f)) s (locks (s.fld b HSL.CDR_FREQ.DELTA))))
      ∧ (∀ l, s.hrxLive m = true → s.bit b HSL.RX_STAT.CDR_LOCK = true → l = none ∨ s.cdrHeld m = false → completes (.cdrLost m l) s (fun t => keeps t
          ∧ t.bit b HSL.RX_STAT.CDR_LOCK = false ∧ (3 ≤ st → fell t 2 2 ∧ raised t HSL.evCDR_LOST m) ∧ (st < 3 → t.hrx m = st)))
      ∧ (∀ (x : BitVec 10) e, s.hrxLive m = true → s.bit b HSL.RX_STAT.LOS = false → completes (.hostSnrWindowEnd m x e) s (fun t =>
          t.fld b HSL.RX_SNR.SNR = x.toNat ∧ keeps t
            ∧ (4 ≤ st → x.toNat < s.fld b ⟨HSL.SNR_CFG, 16, 10⟩ → 63 ≤ (s.hslSt m).low → fell t 3 3)
            ∧ (s.fld b ⟨HSL.SNR_CFG, 16, 10⟩ ≤ x.toNat → t.hrx m = st ∧ (t.hslSt m).low = 0)))
      ∧ (st = 5 → completes (.amLockLoss m) s (fun t => fell t 4 4 ∧ t.bit b HSL.RX_STAT.AM_LOCK = false ∧ keeps t))
      ∧ (∀ l, m.val < s.hosts → (l = none → s.hrxLive m = true) → (∀ rx, l = some rx → s.bit pCLK (bitAt CLK.LOCK1 (if rx then 16 + m else m)) = true) →
          completes (.hsFault m l) s (fun t => fell t 6 7 ∧ raised t HSL.evHS_FAULT m
            ∧ (l = some false → t.htx m = 0) ∧ (l.isSome = true → raised t CLK.evPLL_UNLOCK 0) ∧ memSame s t))
      ∧ (∀ c e, s.homeOf (16 * c + e) = 8 + m.val / 8 → reaches s (.engine c e) 15 m HSL.RX_CMD 0x1 →
        completes (.hostAdvance (.engine c e) m) s (fun t => t.hrx m = (if st = 3 ∧ s.hostSnrOk m then 4 else st) ∧ onlyPage s t b))
      ∧ (∀ r, reaches s r 15 m HSL.RX_CMD 0x2 → completes (.hostRestart r m) s (fun t => keeps t
          ∧ (2 ≤ st → st ≤ 5 → t.hrx m = 2 ∧ t.fld b HSL.RX_STAT.LOSS_CAUSE = 5) ∧ (st < 2 ∨ 5 < st → nothing s t)))
      ∧ (m.val < s.hosts → s.refOk = true → s.inNight = false → s.htx m = 0 → s.hostDefined (s.fld b HSL.LANE_CFG.TX_LOG) = true →
        completes (.hostPllLocked m false) s (fun t => t.htx m = (if s.portRuns (s.txPort m) = true ∧ s.noon = true then 2 else 1)
          ∧ t.bit b HSL.TX_STAT.PLL_LOCK = true ∧ onlyPages s t [b, pCLK]))
      ∧ (m.val < s.hosts → s.refOk = true → s.inNight = false → s.hostDefined (s.fld b HSL.LANE_CFG.RX_LOG) = true →
        completes (.hostPllLocked m true) s (fun t => t.bit pCLK (bitAt CLK.LOCK1 (16 + m)) = true ∧ onlyPages s t [b, pCLK]
          ∧ t.hrx m = if st = 0 ∧ s.portRuns (s.rxPort m) = true then 1 else st))
      ∧ (∀ r (p : Fin 8), reaches s r 15 m HSL.TX_CMD (BitVec.ofNat 32 (8 + p)) → s.mark b 0 &&& 2 = 0 →
        (p.val < 6 → completes (.hslTxPresetLoad r m p) s (fun t => onlyRegs s t ((List.range 5).map (fun k => b + HSL.TX_FIR + 4 * k))
            ∧ ∀ k, k < 5 → t.rd (b + HSL.TX_FIR + 4 * k) = BitVec.ofNat 32 (unsx 9 ((hostPreset p).getD k 0))))
          ∧ (6 ≤ p.val → completes (.hslTxPresetLoad r m p) s (fun t => t.commits = s.commits ∧ onlyPage s t b)))
      ∧ (∀ (p : Fin 8) l2h, (s.portSt p).run = true → completes (.compSlip p l2h) s (fun t => raised t HSL.evCOMP_SLIP (s.firstHost p)
          ∧ onlyRegs s t [pHSL (s.firstHost p) + HSL.PORT_COMP, rawAt 15 (s.firstHost p)]
          ∧ (let f := if l2h then HSL.PORT_COMP.L2H else HSL.PORT_COMP.H2L
             t.fld (pHSL (s.firstHost p)) f = min (s.fld (pHSL (s.firstHost p)) f + 1) (2 ^ 16 - 1))))
      ∧ (∀ (p : Fin 8) tx (k : Nat), s.portOn p = true → s.time.running = true →
        (if tx then s.physRx (s.firstHost p) else s.physTx (s.firstHost p)) = some k → (if tx then s.hrx k = 5 else s.htx k = 2) →
        completes (.hostStamp p tx) s (fun t =>
          let a := pTIME + (if tx then TIME.TS_TX_NS else TIME.TS_RX_NS) + 16 * p.val
          let c := pTIME + (if tx then TIME.AMC_TX else TIME.AMC_RX) + 8 * p.val
          t.rd a = stampNs (s.stamp (s.hostCorr p tx)) ∧ t.rd (a + 4) = stampHi (s.stamp (s.hostCorr p tx)) ∧ t.rd c = s.rd c + 1
            ∧ onlyRegs s t [a, a + 4, c]))
      ∧ (∀ l, s.hrxLive m = true → (s.hslSt m).chkPat ≠ 0 → completes (.prbsChkLock m l 0) s (fun t =>
          t.bit b HSL.RX_STAT.CHK_LOCK = l ∧ onlyPage s t b))

/-- A match leads to CONFIRM and lock, headers are taken or counted bad, and outer code words and degrade intervals are counted (05_fec_framing.md R161; 05_fec_framing.md R162; 05_fec_framing.md R163; 05_fec_framing.md R165; 05_fec_framing.md R173; 05_fec_framing.md R174; 05_fec_framing.md R176; 05_fec_framing.md R177; 05_fec_framing.md R190; 02_line_receiver.md R66).
With nothing under way in calibration. A match in HUNT goes to CONFIRM; at the end of the qualification a lane in FRAME with at
least 3 hits becomes LOCKED, with frame lock and their events. In lock in M400, a header at a matching word with its CRC shows its
fields and RDI's changes; with a wrong CRC it counts HDR_ERR and changes none. The last tolerated miss in LOCKED takes the lane to
EQ with cause 4. The header's PCH bits join the cell being assembled, or are missing there. The next outer code word of an enabled
port in lock, once its lanes have brought it, with k at most 15 symbols in error counts CW_TOTAL, HIST[k], k symbols and their
bits, and sets DEG_SER once the interval's symbols exceed DEG_ACT; one not correctable counts UNCORR and raises its event; toward
the line, symbols are added or TX_UNCORR counted. A degrade interval ends after DEG_INT x 8,192 words: at most DEG_DEACT symbols
clear DEG_SER with its event, and the next begins with the registers as they stand. -/
def Obligations.FramesHeadersAndOuterCodeWords : Prop :=
  ∀ (s : State) (n : Fin 8), settled s →
    let b := pIFEC n
    let o := pOFEC n
    (∀ faw, s.ifState n = 1 → (s.fawOk n faw = true ∨ s.m400 = false) → completes (.fawMatch n faw) s (fun t =>
        t.ifState n = 2 ∧ (t.ifecSt n).hits = 0 ∧ onlyRegs s t [b + IFEC.IF_STAT.FSTATE.off]))
      ∧ (∀ raw cf, s.ifState n = 2 → 3 ≤ (s.ifecSt n).hits → s.lnState n = 5 → s.commits = [] → completes (.frameQualExpiry n 0 raw cf) s (fun t =>
          t.ifState n = 3 ∧ t.bit b IFEC.IF_STAT.FRAME_LOCK = true ∧ t.lnState n = 6 ∧ raised t IFEC.evFRAME_LOCK n
            ∧ raised t LRX.evLOCKED n ∧ t.rd (pLRX n + LRX.FRAME_CNT) = s.rd (pLRX n + LRX.FRAME_CNT) + 1))
      ∧ (∀ faw (f : BitVec 32) (crc : BitVec 16), s.m400 = true → s.ifState n = 3 → s.fawOk n faw = true →
          (crc16 32 f.toNat = crc.toNat → completes (.marlHeaderReceive n faw f crc) s (fun t => onlyPage s t b
              ∧ t.fld b IFEC.IF_STAT.RX_FRAME = f.toNat / 2 ^ 16 ∧ t.fld b IFEC.IF_STAT.FAR_LANE = f.toNat / 2 ^ 13 % 8
              ∧ t.fld b IFEC.IF_STAT.FAR_SIZE = f.toNat / 2 ^ 11 % 4 ∧ t.bit b IFEC.IF_STAT.FAR_RDI = f.getLsbD 10 ∧ (t.ifecSt n).hdr = true
              ∧ (t.partSt n).asm = (s.partSt n).asm.header s.time.now (some (f.toNat / 2 ^ 16, f.toNat / 2 ^ 4 % 16))
              ∧ (f.getLsbD 10 = true → s.bit b IFEC.IF_STAT.FAR_RDI = false → raised t IFEC.evFAR_RDI_ON n)
              ∧ (f.getLsbD 10 = false → s.bit b IFEC.IF_STAT.FAR_RDI = true → raised t IFEC.evFAR_RDI_OFF n)))
            ∧ (crc16 32 f.toNat ≠ crc.toNat → completes (.marlHeaderReceive n faw f crc) s (fun t => raised t IFEC.evHDR_CRC n
              ∧ t.lv (b + IFEC.HDR_ERR) = min (s.lv (b + IFEC.HDR_ERR) + 1) (2 ^ 32 - 1) ∧ onlyRegs s t [rawAt 12 n]
              ∧ (t.partSt n).asm = (s.partSt n).asm.header s.time.now none)))
      ∧ (∀ faw (f : BitVec 32) (crc : BitVec 16), s.m400 = true → s.ifState n = 3 → s.lnState n = 6 → s.fawOk n faw = false →
          max 1 (s.fld b IFEC.IF_CTRL.LOSS_N) ≤ (s.ifecSt n).miss + 1 → completes (.marlHeaderReceive n faw f crc) s (fun t =>
            t.lnState n = 4 ∧ t.fld (pLRX n) LRX.LN_STAT.LOSS_CAUSE = 4 ∧ raised t LRX.evLOCK_LOST n ∧ t.ifState n = 0
              ∧ raised t IFEC.evFRAME_LOSS n ∧ onlyPages s t (lanePages n)))
      ∧ (s.portOn n = true → s.bit o OFEC.OF_STAT.RX_CW_LOCK = true →
          (s.fromLanes n = none → ∀ v, completes (.outerCodewordRx n v) s (fun t => t = s))
            ∧ (∀ word s', s.fromLanes n = some (word, s') →
              (∀ l, verdictOk (some l) = true → completes (.outerCodewordRx n (some l)) s (fun t =>
                  onlyRegs s t [o + OFEC.OF_STAT.DEG_SER.off, rawAt 13 n]
                  ∧ t.lv (o + OFEC.CW_TOTAL_LO) = (s.lv (o + OFEC.CW_TOTAL_LO) + 1) % 2 ^ 48
                  ∧ t.lv (o + OFEC.HIST_LO + 8 * l.length) = (s.lv (o + OFEC.HIST_LO + 8 * l.length) + 1) % 2 ^ 48
                  ∧ t.lv (o + OFEC.SYM_CORR_LO) = (s.lv (o + OFEC.SYM_CORR_LO) + l.length) % 2 ^ 48
                  ∧ t.lv (o + OFEC.BIT_CORR_LO) = (s.lv (o + OFEC.BIT_CORR_LO) + (l.map fun e => ones 10 e.2.val).sum) % 2 ^ 48
                  ∧ t.bit o OFEC.OF_STAT.DEG_SER = (s.bit o OFEC.OF_STAT.DEG_SER || decide ((s.portSt n).degCfg.2.1 < (s.portSt n).degSym + l.length))))
                ∧ completes (.outerCodewordRx n none) s (fun t => raised t OFEC.evUNCORR n ∧ onlyPages s t [o, pCAP]
                  ∧ t.lv (o + OFEC.CW_TOTAL_LO) = (s.lv (o + OFEC.CW_TOTAL_LO) + 1) % 2 ^ 48
                  ∧ t.lv (o + OFEC.UNCORR_LO) = (s.lv (o + OFEC.UNCORR_LO) + 1) % 2 ^ 48)))
      ∧ (s.portOn n = true → s.bit o OFEC.OF_STAT.TX_CW_LOCK = true →
          ∀ word : List (BitVec 10), word.length = 544 →
            (∀ l, verdictOk (some l) = true → completes (.outerCodewordTx n word (some l)) s (fun t => nothing s t
                ∧ t.lv (o + OFEC.TX_SYM_LO) = (s.lv (o + OFEC.TX_SYM_LO) + l.length) % 2 ^ 48))
              ∧ completes (.outerCodewordTx n word none) s (fun t => raised t OFEC.evTX_UNCORR n ∧ onlyRegs s t [rawAt 13 n]
                ∧ t.lv (o + OFEC.TX_UNCORR) = min (s.lv (o + OFEC.TX_UNCORR) + 1) (2 ^ 32 - 1)))
      ∧ ((s.portSt n).run = true → 8192 * (s.portSt n).degCfg.1 ≤ (s.portSt n).degCw →
          let k := (s.portSt n).degSym
          let on := s.bit o OFEC.OF_STAT.DEG_SER
          completes (.degIntervalEnd n) s (fun t => (t.portSt n).degSym = 0 ∧ (t.portSt n).degCw = 0 ∧ onlyPage s t o
            ∧ (t.portSt n).degCfg = (max 1 ((s.rd (o + OFEC.DEG_INT)).toNat % 2 ^ 16), (s.rd (o + OFEC.DEG_ACT)).toNat, (s.rd (o + OFEC.DEG_DEACT)).toNat)
            ∧ (on = true → k ≤ (s.portSt n).degCfg.2.2 → t.bit o OFEC.OF_STAT.DEG_SER = false ∧ raised t OFEC.evDEG_SER_OFF n)
            ∧ (on = true → (s.portSt n).degCfg.2.2 < k → t.bit o OFEC.OF_STAT.DEG_SER = true)
            ∧ (on = false → t.bit o OFEC.OF_STAT.DEG_SER = false)))

/-- Enabling starts a valid port's lanes, disabling stops them, a reset does both, and a frame boundary judges the skew (01_architecture.md R29; 01_architecture.md R35; 01_architecture.md R36; 05_fec_framing.md R169; 05_fec_framing.md R170; 05_fec_framing.md R196; 05_fec_framing.md R198; 13_power_clocks_thermal.md R460; 13_power_clocks_thermal.md R461).
With nothing under way in calibration, for a port whose definition fits. A write of PORT_EN that sets the bit of a defined port
enables it; where lanes can run and none of its PLLs is unlocked it runs and its receive lanes, with a table that R54 admits, are
in SIGNAL with frame count 0; a port that does not meet its conditions is a host error and does not start. Clearing the bit of an
enabled port disables it: its receive lanes are DOWN with cause 6, its ACTIVE transmit lanes wait to stop, it is not deskewed, and
a port that was UP raises PORT_DOWN. PORT_CMD restarts an enabled port. At a frame boundary of a running port with all lanes
LOCKED and no header that does not fit: the skew shows; above 160.0 ns SKEW_ERR and SKEW_FAULT set and the port is not deskewed;
else, with no error standing and the headers seen at equal FRAME fields, it is deskewed with RX_CW_LOCK. -/
def Obligations.PortsStartStopAndDeskew : Prop :=
  ∀ (s : State) (r : Requester) (p : Fin 8), settled s → s.portFits p = true →
    let runs (t : State) : Prop := t.portOn p = true ∧ (s.canRun = true → s.portUnlocked p = false → (t.portSt p).run = true
      ∧ ∀ n ∈ s.portLanes p, s.rsTableOk n = true → t.lnState n = 1 ∧ t.rd (pLRX n + LRX.FRAME_CNT) = 0)
    (reaches s r 14 0 PORT.PORT_EN (s.portEnWord p true) → s.portDefined p = true → s.portOn p = false →
        let s' := s.wr (pPORT + PORT.PORT_EN) (s.portEnWord p true)
        (s'.portValid p = true → completes (.portEnable r p) s (fun t => runs t ∧ t.pending = s.pending))
          ∧ (s'.portValid p = false → completes (.portEnable r p) s (fun t => memSame s t ∧ t.pending = s.pending ∧ (t.portSt p).run = (s.portSt p).run)))
      ∧ (reaches s r 14 0 PORT.PORT_EN (s.portEnWord p false) → s.portOn p = true → completes (.portDisable r p) s (fun t =>
          t.portOn p = false ∧ (t.portSt p).run = false ∧ t.bit pPORT (psf p PORT.PSTAT.DESKEWED) = false
            ∧ (∀ n ∈ s.portLanes p, t.lnState n = 0 ∧ (s.lnState n ≠ 0 → t.fld (pLRX n) LRX.LN_STAT.LOSS_CAUSE = 6)
                ∧ (s.txState n = 3 → s.noon = true → s.refOk = true → t.txState n = 3 ∧ (t.ltxSt n).stop = true))
            ∧ (s.portState p = 2 → raised t (evAt PORT.evPORT_DOWN p) 0)))
      ∧ (reaches s r 14 0 PORT.PORT_CMD (BitVec.ofNat 32 (2 ^ p.val)) → s.portOn p = true → s.portValid p = true →
          completes (.portReset r p) s (fun t => runs t))
      ∧ (∀ skew (lane : Fin 8), s.portOn p = true → (s.portSt p).run = true → (s.portSt p).lbPend = none → s.allLocked p = true →
          s.mismatch p = false → s.bit pPORT (psf p PORT.PSTAT.MISMATCH) = false →
          completes (.portFrameBoundary p skew lane) s (fun t => t.fld pPORT (fldAt PORT.PSKEW.SKEW (4 * p.val)) = min skew 0xFFFF
            ∧ t.fld pPORT (fldAt PORT.PSKEW.LATE (4 * p.val)) = lane.val ∧ (t.portSt p).frames = (s.portSt p).frames + 1
            ∧ (1600 < skew → t.bit pPORT (psf p PORT.PSTAT.SKEW_ERR) = true ∧ t.bit pPORT (psf p PORT.PSTAT.DESKEWED) = false
                ∧ (s.bit pPORT (psf p PORT.PSTAT.SKEW_ERR) = false → raised t (evAt PORT.evSKEW_FAULT p) 0))
            ∧ (skew ≤ 1600 → s.bit pPORT (psf p PORT.PSTAT.SKEW_ERR) = false →
                (s.m400 = true → ∀ n ∈ s.portLanes p, (s.ifecSt n).hdr = true
                  ∧ s.fld (pIFEC n) IFEC.IF_STAT.RX_FRAME = s.fld (pIFEC p) IFEC.IF_STAT.RX_FRAME) →
                t.bit pPORT (psf p PORT.PSTAT.DESKEWED) = true ∧ t.bit (pOFEC p) OFEC.OF_STAT.RX_CW_LOCK = true)))

/-- A remote request is queried, refused with its code, or enters the shadow bank with one commit that the partner is told of (03_line_transmitter.md R107; 03_line_transmitter.md R108; 03_line_transmitter.md R109; 03_line_transmitter.md R110; 03_line_transmitter.md R111; 03_line_transmitter.md R120; 08_partner_dawn.md R286; 08_partner_dawn.md R290).
A TXREQ cell that arrives in sequence and is new, with no request pending and no quiet window open, is counted. During the brown-
out every one is answered DISCARDED. Outside it, QUERY queues its response; a code above 5, tap 7 or a step of 0 or above 8 is
answered INVALID; any change with ALLOW 0 is answered NOT_ALLOWED; each at once with LAST_RESP, its count and REM_REFUSED, no
shadow changed. A PRESET, a TAP_INC or a TAP_DEC whose FIR meets the limits puts that FIR into the shadow bank, a SWING change
puts SWING plus or minus 1 there (63 or 0 refuses with LIMIT), and each requests one commit of its group and holds its response
until that commit has ended; a FIR outside the limits is answered LIMIT and changes nothing. -/
def Obligations.RemoteTransmitRequests : Prop :=
  ∀ (s : State) (n : Fin 8) (c : Cell), arrives s n 2 c → newRequest s n 2 c → (s.ltxSt n).rem = none → s.quietOpen (8 + n.val) = false →
    let bo := s.brownOut
    let b := pLTX n
    let frame := (s.rd (b + LTX.FRAME_CNT)).toNat % 2 ^ 16
    let code := pfield c 0 3
    let tap := pfield c 3 3
    let step := pfield c 6 4
    let shadow (t : State) (l : List Int) : Prop := ∀ k, k < 7 → t.rd (b + LTX.FIR + 4 * k) = BitVec.ofNat 32 (unsx 10 (l.getD k 0))
    let held (t : State) (g arg : Nat) : Prop := cellTaken s t n c ∧ (t.ltxSt n).rem = some ⟨c.tag.toNat, frame, code, arg, none⟩
      ∧ accepted s t b (2 ^ g) 1 ∧ (∀ a, t.inf a = s.inf a) ∧ memSame s t
    let refused (t : State) (k : Nat) : Prop := cellTaken s t n c ∧ t.fld b LTX.REM_STAT.LAST_RESP = k ∧ t.fld b LTX.REM_STAT.LAST_REQ = code
      ∧ t.fld b LTX.REM_CNT.REFUSED = min (s.fld b LTX.REM_CNT.REFUSED + 1) (2 ^ 16 - 1) ∧ raised t LTX.evREM_REFUSED n
      ∧ t.commits = s.commits ∧ (∃ x, (t.partSt n).rsp = (s.partSt n).rsp ++ [x] ∧ x.code = k ∧ x.tag = c.tag.toNat)
      ∧ onlyRegs s t [pPART n + PART.CNT_RXOK, b + LTX.REM_STAT, b + LTX.REM_CNT, rawAt 10 n]
    let allowed := s.bit b LTX.REM_CTRL.ALLOW = true ∧ bo = false
    let old (k : Nat) : Int := sx 10 (s.rd (b + LTX.FIR + 4 * k)).toNat
    let moved (d : Int) : List Int := (List.range 7).map (fun k => if k = tap then old k + d else old k)
    (code = 0 → bo = false → completes (.remQuery n c) s (fun t => cellTaken s t n c
        ∧ (t.partSt n).rsp = (s.partSt n).rsp ++ [⟨c.tag.toNat, 0, 0, 0, frame, false⟩] ∧ onlyRegs s t [pPART n + PART.CNT_RXOK]))
      ∧ (6 ≤ code ∨ ((code = 2 ∨ code = 3) ∧ (tap = 7 ∨ step = 0 ∨ 8 < step)) → bo = false → completes (.remInvalidRequest n c) s (fun t => refused t 5))
      ∧ (bo = true → ∀ i ∈ [(0, Instr.remQuery n c), (1, .remPreset n c), (2, .remTapInc n c), (3, .remTapDec n c), (4, .remSwingInc n c),
          (5, .remSwingDec n c), (6, .remInvalidRequest n c), (7, .remInvalidRequest n c)], code = i.1 → completes i.2 s (fun t => refused t 4))
      ∧ (code = 1 → (s.bit b LTX.REM_CTRL.ALLOW = false → bo = false → completes (.remPreset n c) s (fun t => refused t 2))
        ∧ (allowed → s.firAllowed n (firPreset (pfield c 10 2)) = true → completes (.remPreset n c) s (fun t => held t 0 (pfield c 10 2)
            ∧ shadow t (firPreset (pfield c 10 2))))
        ∧ (allowed → s.firAllowed n (firPreset (pfield c 10 2)) = false → completes (.remPreset n c) s (fun t => refused t 1)))
      ∧ (tap < 7 → 1 ≤ step → step ≤ 8 → allowed →
        (code = 2 → s.firAllowed n (moved step) = true → completes (.remTapInc n c) s (fun t => held t 0 (tap * 16 + step) ∧ shadow t (moved step)))
          ∧ (code = 3 → s.firAllowed n (moved (-step)) = true → completes (.remTapDec n c) s (fun t => held t 0 (tap * 16 + step)
              ∧ shadow t (moved (-step))))
          ∧ (code = 2 → s.firAllowed n (moved step) = false → completes (.remTapInc n c) s (fun t => refused t 1))
          ∧ (code = 3 → s.firAllowed n (moved (-step)) = false → completes (.remTapDec n c) s (fun t => refused t 1)))
      ∧ (allowed → s.bit b LTX.REM_CTRL.SWING_ALLOW = true →
        let sw := s.fld b LTX.AMP_CTRL.SWING
        (code = 4 → sw < 63 → completes (.remSwingInc n c) s (fun t => held t 4 0 ∧ t.fld b LTX.AMP_CTRL.SWING = sw + 1))
          ∧ (code = 4 → sw = 63 → completes (.remSwingInc n c) s (fun t => refused t 1))
          ∧ (code = 5 → 0 < sw → completes (.remSwingDec n c) s (fun t => held t 4 0 ∧ t.fld b LTX.AMP_CTRL.SWING = sw - 1))
          ∧ (code = 5 → sw = 0 → completes (.remSwingDec n c) s (fun t => refused t 1)))

/-- A remote FIR or swing request is accepted only if the FIR or the swing that would result lies within its limits (03_line_transmitter.md R110).
In every state, for every transmit lane and every cell: a request is accepted if it asks for a commit or changes a FIR tap or the
AMP_CTRL of the lane's shadow bank. A PRESET is accepted only if the preset, and a TAP_INC or TAP_DEC only if the shadow FIR with
the named tap moved by the step, has every tap but FIR[2] within TAP_MAX in magnitude, FIR[2] at 128 or more, every tap in -512 to
511, and a sum of magnitudes of at most SUM_MAX. A SWING_INC or SWING_DEC is accepted only if SWING_ALLOW is 1 and the resulting
SWING lies in 0 to 63. A QUERY and an invalid request are never accepted in this sense. Each of these commands completes. -/
def Obligations.RemoteRequestsAcceptedOnlyWithinLimits : Prop :=
  ∀ (s : State) (n : Fin 8) (c : Cell),
    let b := pLTX n
    let tap := pfield c 3 3
    let step := pfield c 6 4
    let old (k : Nat) : Int := sx 10 (s.rd (b + LTX.FIR + 4 * k)).toNat
    let moved (d : Int) : List Int := (List.range 7).map (fun k => if k = tap then old k + d else old k)
    let within (l : List Int) : Prop := (∀ k, k < 7 → k ≠ 2 → (l.getD k 0).natAbs ≤ s.fld b LTX.REM_CTRL.TAP_MAX)
      ∧ 128 ≤ l.getD 2 0 ∧ (∀ x ∈ l, -512 ≤ x ∧ x ≤ 511) ∧ (l.map Int.natAbs).sum ≤ s.fld b LTX.REM_CTRL.SUM_MAX
    let sw : Int := s.fld b LTX.AMP_CTRL.SWING
    let taken (t : State) : Prop := t.commits ≠ s.commits ∨ (∃ k, k < 7 ∧ t.rd (b + LTX.FIR + 4 * k) ≠ s.rd (b + LTX.FIR + 4 * k))
      ∨ t.rd (b + LTX.AMP_CTRL) ≠ s.rd (b + LTX.AMP_CTRL)
    let onlyIf (i : Instr) (P : Prop) : Prop := completes i s (fun t => taken t → P)
    let swing (d : Int) : Prop := s.bit b LTX.REM_CTRL.SWING_ALLOW = true ∧ 0 ≤ sw + d ∧ sw + d ≤ 63
    onlyIf (.remPreset n c) (within (firPreset (pfield c 10 2)))
      ∧ onlyIf (.remTapInc n c) (within (moved step)) ∧ onlyIf (.remTapDec n c) (within (moved (-step)))
      ∧ onlyIf (.remSwingInc n c) (swing 1) ∧ onlyIf (.remSwingDec n c) (swing (-1))
      ∧ onlyIf (.remQuery n c) False ∧ onlyIf (.remInvalidRequest n c) False

/-- A cell in sequence is counted and acts by its type; a bad, stale, lost or missing one is counted as such and does nothing (08_partner_dawn.md R284; 08_partner_dawn.md R285; 08_partner_dawn.md R286; 08_partner_dawn.md R287; 08_partner_dawn.md R290; 08_partner_dawn.md R291; 08_partner_dawn.md R292; 08_partner_dawn.md R294; 08_partner_dawn.md R296; 08_partner_dawn.md R298; 08_partner_dawn.md R318; 09_time.md R336).
Of the cell assembled last: one with a header missing counts MISS, one with a wrong CRC BAD, with CELL_ERR; a stale SEQ counts
STALE; a gap counts the cells lost and the cell is taken. Of cells that arrive in sequence: IDLE does nothing else; a reserved
type counts UNKNOWN; an IDENT of another device confirms the far end once ID_CONFIRM is met, one of this device reports a loop; a
TXRSP, RRSP or RLBRSP with the TAG awaited ends its request and shows its result; QREQ is kept where granting is enabled, QGRANT
ends the wait; a TT_A is kept for its answer with the time at which its first frame arrived, a TT_B with the TAG completes the
lane's block; a new RREQ that is allowed is taken to be served after those before it, during another it is answered BUSY; a new
loopback START is answered by allowance and port state, STOP is answered; a firmware cell joins a queue of fewer than 8, else it
is dropped and counted. None changes memory. -/
def Obligations.PartnerCellsReceived : Prop :=
  ∀ (s : State) (n : Fin 8),
    let b := pPART n
    let q := s.partSt n
    let only (t : State) : Prop := onlyPages s t [b, pTIME]
    let pf (c : Cell) (i w : Nat) : Nat := pfield c i w
    (q.asm.done = some none → completes (.pcCellMissing n) s (fun t => (t.partSt n).asm.done = none ∧ t.fld b PART.CNT_CELL.MISS = min (s.fld b PART.CNT_CELL.MISS + 1) (2 ^ 16 - 1)
        ∧ raised t PART.evCELL_ERR n ∧ onlyRegs s t [b + PART.CNT_CELL, rawAt 18 n]))
      ∧ (∀ w, s.aligned n = true → q.asm.done = some (some w) → crc16 112 (w / 2 ^ 16) ≠ w % 2 ^ 16 →
        completes (.pcCellBad n) s (fun t => (t.partSt n).asm.done = none ∧ t.fld b PART.CNT_CELL.BAD = min (s.fld b PART.CNT_CELL.BAD + 1) (2 ^ 16 - 1)
        ∧ raised t PART.evCELL_ERR n ∧ onlyRegs s t [b + PART.CNT_CELL, rawAt 18 n]))
      ∧ (∀ c : Cell, s.aligned n = true → q.asm.done = some (some (cellWhole c 0)) →
          let seen : PartSt := { q with asm := { q.asm with done := none } }
          let ok := crc16 112 (cellBits 0 c.seq.toNat c.tag.toNat c.payload.toNat) = c.crc.toNat
          let d := (c.seq.toNat + 2 ^ 16 - q.rxSeq) % 2 ^ 16
          (¬ ok → completes (.pcIdleReceive n c) s (fun t => t.fld b PART.CNT_CELL.BAD = min (s.fld b PART.CNT_CELL.BAD + 1) (2 ^ 16 - 1)
              ∧ raised t PART.evCELL_ERR n ∧ t.partSt n = seen ∧ onlyRegs s t [b + PART.CNT_CELL, rawAt 18 n]))
            ∧ (ok → q.first = false → d = 0 ∨ 2 ^ 15 ≤ d → completes (.pcIdleReceive n c) s (fun t => t.partSt n = seen
              ∧ t.fld b PART.CNT_SEQ.STALE = min (s.fld b PART.CNT_SEQ.STALE + 1) (2 ^ 16 - 1) ∧ onlyRegs s t [b + PART.CNT_SEQ]))
            ∧ (ok → q.first = false → 1 < d → d < 2 ^ 15 → completes (.pcIdleReceive n c) s (fun t => cellTaken s t n c
              ∧ t.fld b PART.CNT_SEQ.LOST = min (s.fld b PART.CNT_SEQ.LOST + (d - 1)) (2 ^ 16 - 1) ∧ raised t PART.evCELL_ERR n)))
      ∧ (∀ c, arrives s n 0 c → completes (.pcIdleReceive n c) s (fun t => cellTaken s t n c ∧ onlyRegs s t [b + PART.CNT_RXOK]))
      ∧ (∀ (ty : BitVec 8) c, reservedType ty.toNat = true → arrives s n ty.toNat c → completes (.pcReservedReceive n ty c) s (fun t =>
          t.fld b PART.CNT_UNK.UNKNOWN = min (s.fld b PART.CNT_UNK.UNKNOWN + 1) (2 ^ 16 - 1) ∧ onlyRegs s t [b + PART.CNT_UNK]
            ∧ (t.partSt n).rxSeq = c.seq.toNat))
      ∧ (∀ c, arrives s n 1 c → completes (.pcIdentReceive n c) s (fun t => cellTaken s t n c ∧ onlyPage s t b
          ∧ (pf c 0 64 = Config.devId.toNat → t.bit b PART.FAR_INFO.SELF = true ∧ raised t PART.evSELF_LOOP n ∧ t.farId n = s.farId n)
          ∧ (pf c 0 64 ≠ Config.devId.toNat → s.bit b PART.FAR_INFO.VALID = false → s.fld b PART.PC_CTRL.ID_CONFIRM ≤ 1 →
              t.bit b PART.FAR_INFO.VALID = true ∧ t.farId n = pf c 0 64 ∧ t.fld b PART.FAR_INFO.FAR_LANE = pf c 64 3
                ∧ t.bit b PART.FAR_INFO.SOURCE = false ∧ raised t PART.evPARTNER_NEW n)
          ∧ (pf c 0 64 ≠ Config.devId.toNat → s.bit b PART.FAR_INFO.VALID = false → q.pend ≠ pf c 0 64 → 2 ≤ s.fld b PART.PC_CTRL.ID_CONFIRM →
              t.bit b PART.FAR_INFO.VALID = false ∧ t.fld b PART.FAR_INFO.PEND = 1)))
      ∧ (∀ c x, arrives s n 3 c → q.tx = some x → x.tag = c.tag.toNat → (x.payload / 2 ^ 77 ≠ 0 ∨ pf c 0 3 ≠ 0) →
          completes (.pcTxrspReceive n c) s (fun t => cellTaken s t n c ∧ (t.partSt n).tx = none ∧ raised t PART.evTXRSP n ∧ only t
            ∧ t.rd (b + PART.TXRSP) = BitVec.ofNat 32 (2 ^ 31 + pf c 0 3 * 2 ^ 16 + pf c 3 16)))
      ∧ (∀ c, arrives s n 4 c → s.bit pCAL CAL.QUIET_CFG.QUIET_GRANT_EN = true → completes (.pcQreqReceive n c) s (fun t =>
          cellTaken s t n c ∧ (t.partSt n).qreq = some (pf c 0 8) ∧ only t))
      ∧ (∀ c, arrives s n 5 c → (s.calSt n).quiet = 2 → completes (.pcQgrantReceive n c) s (fun t => cellTaken s t n c
          ∧ (t.calSt n).quiet = 3 ∧ only t))
      ∧ (∀ c, arrives s n 6 c → s.bit b PART.PC_CTRL.EN = true → completes (.pcTtAReceive n c) s (fun t => cellTaken s t n c ∧ only t
          ∧ (t.tt n).peer = some (pf c 56 14, pf c 70 3)
          ∧ (t.tt n).answer = some (c.tag.toNat, (((q.asm.doneAt : Int) + s.corr TIME.LCORR_RX) % (2 ^ 80 : Nat)).toNat)))
      ∧ (∀ c u v, arrives s n 7 c → (s.tt n).tag = c.tag.toNat → c.tag ≠ 0 → (s.tt n).peer = some (u, v) →
          let a := pTIME + 32 * n.val
          completes (.pcTtBReceive n c) s (fun t => cellTaken s t n c ∧ (t.tt n).awaiting = false ∧ raised t TIME.evTT_DONE 0 ∧ only t
            ∧ t.rd (a + TIME.TT_T1) = stampNs (s.tt n).t1 ∧ t.rd (a + TIME.TT_T2) = BitVec.ofNat 32 (pf c 0 32)
            ∧ t.rd (a + TIME.TT_T3) = BitVec.ofNat 32 (pf c 32 32)
            ∧ t.rd (a + TIME.TT_T4) = stampNs (((q.asm.doneAt : Int) + s.corr TIME.LCORR_RX) % (2 ^ 80 : Nat)).toNat
            ∧ t.rd (a + TIME.TT_PEER) = BitVec.ofNat 32 (v * 2 ^ 16 + u)))
      ∧ (∀ c, arrives s n 8 c → newRequest s n 8 c →
          let a : Word := BitVec.ofNat 32 (pf c 0 32)
          (q.serve.isSome = true → completes (.pcRreqReceive n c) s (fun t => cellTaken s t n c ∧ (t.partSt n).serve = q.serve
              ∧ (t.partSt n).replies = q.replies ++ [⟨9, c.tag.toNat, 3 * 2 ^ 77, none⟩] ∧ only t))
            ∧ (q.serve = none → s.bit b PART.PC_CTRL.EN = true → s.bit b PART.PC_CTRL.RREAD_EN = true → s.enabled b = true → a.toNat % 4 = 0 →
              (∃ k, addrClass a.toNat = some k ∧ (s.fld b PART.RREAD_MASK.MASK).testBit k = true) → pf c 33 1 = 0 →
              completes (.pcRreqReceive n c) s (fun t => cellTaken s t n c ∧ (t.partSt n).serve = some (c.tag.toNat, a, pf c 32 1 == 1, false)
                ∧ (∀ m, m < 8 → (s.partSt m).serve.isSome = true → (s.partSt m).order < (t.partSt n).order) ∧ only t)))
      ∧ (∀ c x, arrives s n 9 c → q.rr = some x → x.tag = c.tag.toNat → pf c 0 3 = 0 → completes (.pcRrspReceive n c) s (fun t => cellTaken s t n c
          ∧ (t.partSt n).rr = none ∧ t.rd (b + PART.RR_STAT) = 0x80000000 ∧ t.rd (b + PART.RR_DATA0) = BitVec.ofNat 32 (pf c 8 32)
          ∧ t.rd (b + PART.RR_DATA1) = BitVec.ofNat 32 (pf c 40 32) ∧ raised t PART.evRR_DONE n ∧ only t))
      ∧ (∀ c, arrives s n 10 c → newRequest s n 10 c →
          let f := s.loopPort n
          let answer (t : State) (code : Nat) (act : Option Nat) : Prop := cellTaken s t n c ∧ only t
            ∧ (t.partSt n).replies = q.replies ++ [⟨11, c.tag.toNat, code * 2 ^ 77, act⟩]
          (pf c 0 1 = 1 → (s.bit (pPART f) PART.PC_CTRL.RLB_ALLOW = false → completes (.pcRlbreqStart n c) s (fun t => answer t 1 none))
            ∧ (s.bit (pPART f) PART.PC_CTRL.RLB_ALLOW = true → s.bit b PART.PC_CTRL.EN = true → s.enabled b = true →
                (s.looped f = true → completes (.pcRlbreqStart n c) s (fun t => answer t 0 none))
                  ∧ (s.looped f = false → s.portState f = 2 → s.fld (pHSL (s.firstHost f)) HSL.PORT_LB.MODE = 0 → s.brownOut = false →
                      completes (.pcRlbreqStart n c) s (fun t => answer t 0 (some 2)))
                  ∧ (s.looped f = false → s.portState f ≠ 2 → completes (.pcRlbreqStart n c) s (fun t => answer t 2 none))))
            ∧ (pf c 0 1 = 0 → completes (.pcRlbreqStop n c) s (fun t => answer t 0 (if s.looped f then some 0 else none))))
      ∧ (∀ c x, arrives s n 11 c → q.rlb = some x → x.tag = c.tag.toNat → completes (.pcRlbrspReceive n c) s (fun t => cellTaken s t n c ∧ only t
          ∧ (t.partSt n).rlb = none ∧ t.bit b PART.RLB_STAT.DONE = true ∧ t.fld b PART.RLB_STAT.RESP = pf c 0 3
          ∧ t.bit b PART.RLB_STAT.REMOTE_ACTIVE = if pf c 0 3 = 0 then x.payload != 0 else s.bit b PART.RLB_STAT.REMOTE_ACTIVE))
      ∧ (∀ (ty : BitVec 8) c, 0x40 ≤ ty.toNat → ty.toNat ≤ 0x7F → arrives s n ty.toNat c → s.bit b PART.PC_CTRL.EN = true → s.enabled b = true →
          (q.fwRx.length < 8 → completes (.pcFwReceive n ty c) s (fun t => cellTaken s t n c ∧ only t
              ∧ (t.partSt n).fwRx = q.fwRx ++ [(ty.toNat, c.tag.toNat, c.payload.toNat)] ∧ (q.fwRx = [] → raised t PART.evFW_RX n)))
            ∧ (8 ≤ q.fwRx.length → completes (.pcFwReceive n ty c) s (fun t => cellTaken s t n c ∧ only t ∧ (t.partSt n).fwRx = q.fwRx
              ∧ t.fld b PART.CNT_UNK.FW_DROP = min (s.fld b PART.CNT_UNK.FW_DROP + 1) (2 ^ 16 - 1) ∧ raised t PART.evFW_DROP n)))

/-- Requests to the partner take their TAG and wait, are resent and time out; reads are served; slots send by rank (08_partner_dawn.md R283; 08_partner_dawn.md R288; 08_partner_dawn.md R289; 08_partner_dawn.md R290; 08_partner_dawn.md R291; 08_partner_dawn.md R293; 08_partner_dawn.md R294; 08_partner_dawn.md R295; 08_partner_dawn.md R297; 08_partner_dawn.md R299; 08_partner_dawn.md R317; log entry 22).
TXREQ with none waiting waits with the next TAG (the model's choice of TAGs, log entry 22), else it is rejected; its time-out ends
it. RR_GO begins a read unless one is busy; it is resent twice and then ends TIMEOUT, as a loopback request does. RLB_CMD waits as
START or STOP. RLB_TMO and RLB_ALLOW 0 ask a looped port to leave its loop. Firmware cells queue up to 4; a read of FW_RX3 takes
the head. FAR_CLR forgets the far end. The read taken first for a partner is answered with the word, or BUS_ERROR where nothing
is. A quiet window ends with its frames. A slot of an ACTIVE lane in M400 sends a waiting TXRSP before all else, under the next
SEQ with its CRC, and keeps it as the last response. -/
def Obligations.PartnerRequestsAndSlots : Prop :=
  ∀ (s : State) (n : Fin 8),
    let b := pPART n
    let q := s.partSt n
    let tag := q.reqTag % 255 + 1
    (∀ r v, reaches s r 18 n PART.TXREQ v →
        (q.tx = none → completes (.partTxreq r n v) s (fun t => t.bit b PART.PC_STAT.TXREQ_REJ = false
            ∧ (t.partSt n).tx = some ⟨tag, getBits v 0 3 * 2 ^ 77 + getBits v 4 3 * 2 ^ 74 + getBits v 8 4 * 2 ^ 70 + getBits v 12 2 * 2 ^ 68, 0, true⟩
            ∧ onlyRegs s t [b + PART.PC_STAT, b + PART.TXRSP]))
          ∧ (q.tx.isSome = true → completes (.partTxreq r n v) s (fun t => t.bit b PART.PC_STAT.TXREQ_REJ = true ∧ t.partSt n = q
            ∧ onlyRegs s t [b + PART.PC_STAT])))
      ∧ (q.tx.isSome = true → completes (.txrspTimeout n) s (fun t => (t.partSt n).tx = none ∧ t.bit b PART.TXRSP.TIMEOUT = true
          ∧ onlyRegs s t [b + PART.TXRSP]))
      ∧ (∀ r (c2 sn : Bool), reaches s r 18 n PART.RR_CMD (1 + (if c2 then 2 else 0) + (if sn then 4 else 0)) →
        (s.bit b PART.RR_STAT.BUSY = false → completes (.rrGo r n c2 sn) s (fun t => t.rd (b + PART.RR_STAT) = 0x40000000
            ∧ (t.partSt n).rr = some ⟨tag, (s.rd (b + PART.RR_ADDR)).toNat * 2 ^ 48 + (if c2 then 1 else 0) * 2 ^ 47 + (if sn then 1 else 0) * 2 ^ 46, 0, true⟩
            ∧ onlyRegs s t [b + PART.RR_STAT]))
          ∧ (s.bit b PART.RR_STAT.BUSY = true → completes (.rrGo r n c2 sn) s (fun t => t.partSt n = q ∧ nothing s t)))
      ∧ (∀ x, (q.rr = some x → x.tries < 2 → completes (.requestResendTimeout n false) s (fun t =>
            (t.partSt n).rr = some { x with tries := x.tries + 1, due := true } ∧ nothing s t))
          ∧ (q.rr = some x → 2 ≤ x.tries → completes (.requestResendTimeout n false) s (fun t => (t.partSt n).rr = none
            ∧ t.rd (b + PART.RR_STAT) = 0x80000004 ∧ raised t PART.evRR_DONE n ∧ onlyRegs s t [b + PART.RR_STAT, rawAt 18 n]))
          ∧ (q.rlb = some x → 2 ≤ x.tries → completes (.requestResendTimeout n true) s (fun t => (t.partSt n).rlb = none
            ∧ t.fld b PART.RLB_STAT.RESP = 3 ∧ t.bit b PART.RLB_STAT.DONE = true)))
      ∧ (∀ r, (reaches s r 18 n PART.RLB_CMD 0x1 → completes (.rlbStartCmd r n) s (fun t => (t.partSt n).rlb = some ⟨tag, 2 ^ 79, 0, true⟩
            ∧ t.bit b PART.RLB_STAT.DONE = false ∧ onlyRegs s t [b + PART.RLB_STAT]))
          ∧ (reaches s r 18 n PART.RLB_CMD 0x2 → completes (.rlbStopCmd r n) s (fun t => (t.partSt n).rlb = some ⟨tag, 0, 0, true⟩
            ∧ t.bit b PART.RLB_STAT.DONE = false ∧ onlyRegs s t [b + PART.RLB_STAT])))
      ∧ (s.looped n = true → s.fld b PART.RLB_TMO.S ≠ 0 → completes (.rlbTimeout n) s (fun t => (t.portSt n).lbPend = some 0 ∧ nothing s t))
      ∧ (∀ r, reaches s r 18 n PART.PC_CTRL (s.rd (b + PART.PC_CTRL) &&& ~~~0x4) → completes (.rlbAllowClear r n) s (fun t =>
          t.bit b PART.PC_CTRL.RLB_ALLOW = false ∧ (t.portSt n).lbPend = (if s.looped n then some 0 else none) ∧ onlyRegs s t [b + PART.PC_CTRL]))
      ∧ (∀ r (v : BitVec 16), reaches s r 18 n PART.FW_TX3 (v.setWidth 32) →
          let h := (s.rd (b + PART.FW_TX0)).toNat
          let p := ((s.rd (b + PART.FW_TX1)).toNat * 2 ^ 32 + (s.rd (b + PART.FW_TX2)).toNat) * 2 ^ 16 + v.toNat
          completes (.fwTxQueue r n v) s (fun t => onlyPage s t b
            ∧ (t.partSt n).fwTx = if q.fwTx.length < 4 then q.fwTx ++ [(h % 256, h / 256 % 256, p)] else q.fwTx))
      ∧ (∀ r, readable s r (b + PART.FW_RX + 12) → completes (.fwRxPop r n) s (fun t => (t.partSt n).fwRx = q.fwRx.tail ∧ onlyPage s t b
          ∧ answered t r = (s.rd (b + PART.FW_RX + 12)).toNat))
      ∧ (∀ r, reaches s r 18 n PART.ID_CMD 0x1 → completes (.farClr r n) s (fun t => t.farId n = 0 ∧ t.rd (b + PART.FAR_INFO) = 0
          ∧ (t.partSt n).pend = 0 ∧ onlyRegs s t [b + PART.FAR_ID_LO, b + PART.FAR_ID_HI, b + PART.FAR_INFO]))
      ∧ (∀ g (a : Word), q.serve = some (g, a, false, false) → (∀ m, m < 8 → (s.partSt m).serve = none ∨ q.order ≤ (s.partSt m).order) →
          (∀ fam i, s.region .part a.toNat = .page fam i HDR.EVT_MASK → a.toNat = pageAt fam i + HDR.EVT_MASK → a.toNat % 4 = 0 →
              completes (.remoteReadDone n) s (fun t => (t.partSt n).serve = none ∧ nothing s t
                ∧ (t.partSt n).replies = q.replies ++ [⟨9, g, (s.rd a.toNat).toNat * 2 ^ 40, none⟩]))
            ∧ (s.region .part a.toNat = .none → completes (.remoteReadDone n) s (fun t => (t.partSt n).serve = none ∧ nothing s t
                ∧ (t.partSt n).replies = q.replies ++ [⟨9, g, 2 * 2 ^ 77, none⟩])))
      ∧ (∀ f k, q.window = some (f, k) → s.quietOpen (8 + n.val) = true → k ≤ ((s.rd (pLTX n + LTX.FRAME_CNT)).toNat + 2 ^ 32 - f) % 2 ^ 32 →
          completes (.quietWindowClose n) s (fun t => (t.partSt n).window = none ∧ t.quietOpen (8 + n.val) = false
            ∧ onlyRegs s t [pCAL + (uf (8 + n.val) CAL.U_STAT.QUIET_OPEN).off]))
      ∧ (∀ x l, s.cellsOn n = true → (s.rd (pLTX n + LTX.FRAME_CNT)).toNat % 32 = 0 → q.rsp = x :: l → q.leaving = none →
          q.slot ≠ some (s.rd (pLTX n + LTX.FRAME_CNT)).toNat → (s.ltxSt n).rem = none →
          let p := s.rspPayload n x
          let v := cellBits 3 q.txSeq x.tag p
          completes (.pcCellSlot n) s (fun t => (t.partSt n).sent = BitVec.ofNat 128 (v * 2 ^ 16 + crc16 112 v)
            ∧ (t.partSt n).txSeq = (q.txSeq + 1) % 2 ^ 16 ∧ (t.partSt n).rsp = l ∧ (t.partSt n).last = some (2, x.tag, ⟨3, x.tag, p, none⟩)
            ∧ onlyPage s t (pLTX n)))

/-- A dawn packet is sent, waits or is refused; it ends sent, cancelled or blocked; a HELLO goes out when due (08_partner_dawn.md R301; 08_partner_dawn.md R302; 08_partner_dawn.md R303; 08_partner_dawn.md R310; 08_partner_dawn.md R313; 08_partner_dawn.md R321; 08_partner_dawn.md R322; 08_partner_dawn.md R323).
With no HELLO due. SEND and RESEND with no packet in hand, a TYPE other than 0, at most 64 bytes and a rate that exists put a
packet on the fibre where the lane may send, under the next SEQ (RESEND: the previous one), TX_BUSY 1; else it waits, TX_BLOCKED
1. A bad header ends at once with result 3 and TX_FAIL; with a packet in hand nothing happens. ABORT ends the packet with result
4, the last bit with result 0, TX_DONE and its count, TX_TMO a waiting one with result 2; no packet is then in hand. RX_POP
removes the head of the receive queue; CNT_CLR clears the six counters. A HELLO that is due where the lane may send, with no
packet in hand, goes out as TYPE 1 with 20 bytes. Each changes only the lane's DAWN page. -/
def Obligations.DawnTransmitter : Prop :=
  ∀ (s : State) (n : Fin 8),
    let b := pDAWN n
    let x := s.dawnSt n
    let only (t : State) : Prop := onlyPage s t b
    let h := s.rd (b + DAWN.TX_HDR)
    let type := getBits h 0 8
    let len := getBits h 8 8
    let rate := getBits h 16 2
    let buf := (List.range len).map (fun i => (BitVec.ofNat 8 ((s.rd (b + DAWN.TX_BUF + 4 * (i / 4))).toNat / 256 ^ (i % 4)) : Byte))
    let ended (t : State) (k : Nat) : Prop := (t.dawnSt n).tx = none ∧ t.fld b DAWN.TX_STAT.RESULT = k ∧ t.bit b DAWN.DW_STAT.TX_BUSY = false ∧ only t
    let sends (t : State) (again : Bool) : Prop := only t ∧ t.bit b DAWN.DW_STAT.TX_BUSY = true
      ∧ (t.dawnSt n).tx = some ⟨type, len, rate, buf, again, s.dawnMay n⟩ ∧ t.bit b DAWN.DW_STAT.TX_BLOCKED = !s.dawnMay n
      ∧ (s.dawnMay n = true → (t.dawnSt n).sent = dawnLead ++ dawnBytes type len (if again then getBits (s.rd (b + DAWN.TX_STAT)) 8 8 else x.seq) buf
          ∧ (t.dawnSt n).seq = if again then x.seq else (x.seq + 1) % 256)
    x.hello = false →
    (∀ r, reaches s r 19 n DAWN.DW_CMD 0x01 →
        (x.tx = none → type ≠ 0 → len ≤ 64 → rate ≠ 3 → completes (.dawnSend r n) s (fun t => sends t false))
          ∧ (x.tx = none → type = 0 ∨ 64 < len ∨ rate = 3 → completes (.dawnSend r n) s (fun t => ended t 3 ∧ raised t DAWN.evTX_FAIL n))
          ∧ (x.tx.isSome = true → completes (.dawnSend r n) s (fun t => t.dawnSt n = x ∧ nothing s t)))
      ∧ (∀ r, reaches s r 19 n DAWN.DW_CMD 0x02 → x.tx = none → type ≠ 0 → len ≤ 64 → rate ≠ 3 →
          completes (.dawnResend r n) s (fun t => sends t true))
      ∧ (∀ r, reaches s r 19 n DAWN.DW_CMD 0x04 → x.tx.isSome = true → completes (.dawnAbort r n) s (fun t => ended t 4 ∧ raised t DAWN.evTX_FAIL n))
      ∧ (∀ r, reaches s r 19 n DAWN.DW_CMD 0x08 → completes (.dawnRxPop r n) s (fun t => (t.dawnSt n).queue = x.queue.tail ∧ only t
          ∧ t.fld b DAWN.DW_STAT.RX_COUNT = x.queue.tail.length % 8))
      ∧ (∀ r, reaches s r 19 n DAWN.DW_CMD 0x10 → completes (.dawnCntClr r n) s (fun t => (∀ i, i < 6 → t.rd (b + DAWN.CNT_A + 4 * i) = 0)
          ∧ onlyRegs s t ((List.range 6).map (fun i => b + DAWN.CNT_A + 4 * i))))
      ∧ (s.pilotOn n = true → completes (.dawnTxDone n) s (fun t => ended t 0 ∧ raised t DAWN.evTX_DONE n
          ∧ t.fld b DAWN.CNT_F.TX = min (s.fld b DAWN.CNT_F.TX + 1) (2 ^ 16 - 1)))
      ∧ (∀ p, x.tx = some p → p.sending = false → completes (.dawnTxBlocked n) s (fun t => ended t 2 ∧ raised t DAWN.evTX_FAIL n))
      ∧ (s.bit b DAWN.DW_CTRL.AUTO_HELLO = true → x.tx = none → s.dawnMay n = true → s.enabled b = true → s.fld b DAWN.DW_CTRL.HELLO_RATE ≠ 3 →
          completes (.helloDue n) s (fun t => only t ∧ (t.dawnSt n).hello = false
            ∧ (t.dawnSt n).tx = some ⟨1, 20, s.fld b DAWN.DW_CTRL.HELLO_RATE, s.helloPayload n, false, true⟩
            ∧ (t.dawnSt n).sent = dawnLead ++ dawnBytes 1 20 x.seq (s.helloPayload n)))

/-- The dawn receiver searches, syncs on a detection, yields to a better one, checks header and packet, and delivers or counts (08_partner_dawn.md R304; 08_partner_dawn.md R305; 08_partner_dawn.md R306; 08_partner_dawn.md R307; 08_partner_dawn.md R308; 08_partner_dawn.md R309; 08_partner_dawn.md R310; 08_partner_dawn.md R311; 08_partner_dawn.md R312).
RX_EN set in NOON on an enabled page of a lane that the device has starts the search, cleared it goes OFF. A detection of a
received rate whose depth over the noise floor reaches its threshold counts DET; in SEARCH it leads to SYNC with its gain frozen
(in the brown-out, as it was); in SYNC or HEADER one higher by 1 pre-empts, in PACKET one higher by 24; a lower one there counts
KEPT and, with no candidate held, becomes the candidate. A sync word with at most 3 errors leads to HEADER with its time; its
time-out counts and resumes the search. A good header of another device leads to PACKET with its fields, a bad one counts
HDR_FAIL, one of this device ECHO. A packet whose CRC is right, no copy of one delivered, with fewer than 4 waiting, is delivered
and counted; a copy counts DUP, a wrong CRC its count and event, a full queue RX_DROP. The noise floor shows in SEARCH outside a
brown-out. The candidate can lapse. -/
def Obligations.DawnReceiver : Prop :=
  ∀ (s : State) (n : Fin 8),
    let b := pDAWN n
    let x := s.dawnSt n
    let st := s.dawnState n
    let up (t : State) (f : Fld) : Prop := t.fld b f = min (s.fld b f + 1) (2 ^ 16 - 1)
    let synced (t : State) (d : Detection) (g : Nat) : Prop := t.dawnState n = 2 ∧ t.fld b DAWN.DW_STAT.RX_RATE = d.rate.val
      ∧ (t.dawnSt n).rx.metric = s.dawnMetric n d ∧ t.bit b DAWN.DW_STAT.AGC_FROZEN = true
      ∧ t.fld b DAWN.AGC.GAIN = if s.brownOut then s.fld b DAWN.AGC.GAIN else g
    (∀ r, reaches s r 19 n DAWN.DW_CTRL (s.rd (b + DAWN.DW_CTRL) ||| 0x1) → s.fld b DAWN.DW_CTRL.HELLO_RATE ≠ 3 → st = 0 → s.noon = true →
        s.enabled b = true → 3 ≤ s.upStage → n.val < s.lines → completes (.dawnRxEnable r n) s (fun t => t.dawnState n = 1
          ∧ t.bit b DAWN.DW_CTRL.RX_EN = true ∧ t.bit b DAWN.DW_STAT.NOISE_VALID = s.bit b DAWN.DW_STAT.NOISE_VALID ∧ onlyPage s t b))
      ∧ (∀ r, reaches s r 19 n DAWN.DW_CTRL (s.rd (b + DAWN.DW_CTRL) &&& ~~~0x1) → s.fld b DAWN.DW_CTRL.HELLO_RATE ≠ 3 →
        completes (.dawnRxDisable r n) s (fun t => t.dawnState n = 0 ∧ t.bit b DAWN.DW_CTRL.RX_EN = false
          ∧ t.bit b DAWN.DW_STAT.NOISE_VALID = false ∧ onlyPage s t b))
      ∧ (∀ d : Detection, (s.fld b DAWN.DW_CTRL.RX_RATES).testBit d.rate.val = true → s.dawnThr n d.rate.val ≤ s.dawnMetric n d → d.own = false →
        let m := s.dawnMetric n d
        let shadow := if s.brownOut then s.fld b DAWN.AGC.SHADOW else d.shadow.toNat
        let took (t : State) : Prop := up t DAWN.CNT_A.DET ∧ onlyPage s t b
        (st = 1 → completes (.dawnDetection n d []) s (fun t => took t ∧ synced t d d.gain.toNat))
          ∧ ((st = 2 ∨ st = 3) → x.rx.metric + 1 ≤ m → completes (.dawnDetection n d []) s (fun t => took t ∧ synced t d d.shadow.toNat
              ∧ up t DAWN.CNT_C.PRE_EARLY ∧ raised t DAWN.evPREEMPT n))
          ∧ (st = 4 → x.rx.metric + 24 ≤ m → completes (.dawnDetection n d []) s (fun t => took t ∧ synced t d d.shadow.toNat
              ∧ up t DAWN.CNT_D.PRE_LATE ∧ raised t DAWN.evPREEMPT n))
          ∧ (st = 4 → m < x.rx.metric + 24 → x.cand = none → completes (.dawnDetection n d []) s (fun t => took t ∧ t.dawnState n = 4
              ∧ up t DAWN.CNT_D.KEPT ∧ (t.dawnSt n).cand = some ⟨d.rate.val, m, shadow⟩ ∧ t.bit b DAWN.DW_STAT.CAND = true)))
      ∧ (∀ w : Word, st = 2 → ones 32 (w.toNat ^^^ 0x6D3A0E5B) ≤ 3 → completes (.dawnSyncFound n w) s (fun t => t.dawnState n = 3
          ∧ (t.dawnSt n).rx.ns = BitVec.ofNat 32 (s.time.now / 2 ^ 32) ∧ onlyPage s t b))
      ∧ (st = 2 → x.cand = none → completes (.dawnSyncTimeout n) s (fun t => t.dawnState n = 1 ∧ up t DAWN.CNT_B.SYNC_TMO ∧ onlyPage s t b))
      ∧ (∀ (ty len sq : Byte) src (hcs : Byte), st = 3 → x.cand = none →
        let ok := crc8 88 (dawnHead ty len sq src) = hcs.toNat ∧ len.toNat ≤ 64 ∧ ty ≠ 0
        (ok → src ≠ Config.devId → completes (.dawnHeaderReceive n ty len sq src hcs) s (fun t => t.dawnState n = 4 ∧ onlyPage s t b
            ∧ (t.dawnSt n).rx = { x.rx with type := ty.toNat, len := len.toNat, seq := sq.toNat, src := src }))
          ∧ (ok → src = Config.devId → completes (.dawnHeaderReceive n ty len sq src hcs) s (fun t => t.dawnState n = 1 ∧ up t DAWN.CNT_E.ECHO
            ∧ raised t DAWN.evECHO n ∧ raised t PART.evSELF_LOOP n))
          ∧ (¬ ok → completes (.dawnHeaderReceive n ty len sq src hcs) s (fun t => t.dawnState n = 1 ∧ up t DAWN.CNT_B.HDR_FAIL
            ∧ raised t DAWN.evHDR_FAIL n ∧ onlyPage s t b)))
      ∧ (∀ payload (crc : BitVec 16), st = 4 → x.cand = none →
        let body := (List.range x.rx.len).map (fun i => payload.getD i 0)
        let head := ((x.rx.type * 2 ^ 8 + x.rx.len) * 2 ^ 8 + x.rx.seq) * 2 ^ 64 + x.rx.src.toNat
        let good := crc16 (96 + 8 * x.rx.len) ((head * 2 ^ 8 + crc8 88 head) * 256 ^ x.rx.len + beNat body) = crc.toNat
        let p : DawnPkt := { x.rx with payload := body }
        (¬ good → completes (.dawnPacketEnd n payload crc) s (fun t => t.dawnState n = 1 ∧ up t DAWN.CNT_C.CRC ∧ raised t DAWN.evCRC_ERR n
            ∧ (t.dawnSt n).queue = x.queue))
          ∧ (good → s.dawnDup n p = true → completes (.dawnPacketEnd n payload crc) s (fun t => t.dawnState n = 1 ∧ up t DAWN.CNT_E.DUP
            ∧ (t.dawnSt n).queue = x.queue))
          ∧ (good → s.dawnDup n p = false → 4 ≤ x.queue.length → completes (.dawnPacketEnd n payload crc) s (fun t => t.dawnState n = 1
            ∧ up t DAWN.CNT_F.RX_DROP ∧ raised t DAWN.evRX_DROP n ∧ (t.dawnSt n).queue = x.queue))
          ∧ (good → s.dawnDup n p = false → x.queue.length < 4 → completes (.dawnPacketEnd n payload crc) s (fun t => t.dawnState n = 1
            ∧ up t DAWN.CNT_A.OK ∧ raised t DAWN.evRX_PKT n ∧ (t.dawnSt n).queue = x.queue ++ [p] ∧ memSame s t ∧ coresSame s t)))
      ∧ completes (.dawnCandidateLapse n) s (fun t => (t.dawnSt n).cand = none ∧ t.bit b DAWN.DW_STAT.CAND = false ∧ onlyRegs s t [b + DAWN.DW_STAT])
      ∧ (∀ (f : BitVec 10) full, st = 1 → s.brownOut = false → completes (.dawnNoiseMeasure n f full) s (fun t => t.fld b DAWN.NOISE.FLOOR = f.toNat
          ∧ (full = true → t.bit b DAWN.DW_STAT.NOISE_VALID = true) ∧ onlyRegs s t [b + DAWN.NOISE, b + DAWN.DW_STAT]))

/-- The counter adds its increment at a tick, SET, STEP and INCR wait for the tick, quality moves by its rules, sleep is added (09_time.md R324; 09_time.md R325; 09_time.md R326; 09_time.md R329; 09_time.md R330; 09_time.md R344; 09_time.md R345; 09_time.md R346; 09_time.md R350; 00_scope.md R13; log entry 44; log entry 103).
On an empty queue, out of cold reset with the clock running and no steering waiting, a step adds the increment in force modulo
2^80 (that such a step is a tick is the model's choice, log entry 44). Time run to the next carry out of NOW_NS counts one WRAP.
On a device whose counter is not steered by a master: INCR_INT waits, clamped to its band with CLAMP where it lies outside; SET
waits, disarms PPS and takes quality 0 to 1; STEP waits and disarms. SYNCED sets quality 3, ending HOLDOVER with its event;
QUALITY_WRITE sets a quality below 6, the others are host errors confined to TIME. HOLD_TMO after the last SYNCED (time runs to
that moment, log entry 103), and a write of TM_CTRL while LOCKED, lead to quality 4 with HOLDOVER_ON. At the first tick after a
clock-stop interval of n REFCLK cycles (counted within 500 ppm on the ring oscillator), 4 n increments are added, SLEPT is raised,
and the quality is 5 after any part on the ring oscillator, 4 where it was 3, and 0 where the sleep counter saturated. -/
def Obligations.TimeCounterAndSteering : Prop :=
  ∀ s : State,
    let i := s.incr
    let only (t : State) : Prop := onlyPage s t pTIME
    (s.pending = [] → s.pwr.hold = false → s.time.running = true → s.time.ops = [] → s.ppsReady = false → ∃ t, step s = .next t
        ∧ t.time.now = (s.time.now + i) % 2 ^ 80 ∧ t.tick = s.tick + 1 ∧ memSame s t)
      ∧ (s.time.running = true → s.time.ops = [] → 0 < i → s.time.now < 2 ^ 80 → completes .timeWrap s (fun t => raised t TIME.evWRAP 0 ∧ only t
          ∧ t.time.now / 2 ^ 64 = (s.time.now / 2 ^ 64 + 1) % 2 ^ 16 ∧ t.time.now % 2 ^ 64 < i))
      ∧ (∀ r (v : BitVec 8), s.cascTimed = false → reaches s r 20 0 TIME.INCR_INT (v.setWidth 32) →
          let x := v.toNat * 2 ^ 32 + s.time.fracW.toNat
          completes (.incrApply r v) s (fun t => t.time.ops = s.time.ops ++ [.incr (max 6868511700 (min x 6875383647))]
            ∧ t.time.now = s.time.now ∧ (6868511700 ≤ x → x ≤ 6875383647 → nothing s t)
            ∧ ((x < 6868511700 ∨ 6875383647 < x) → raised t TIME.evCLAMP 0 ∧ t.bit pTIME TIME.TM_FLAGS.CLAMP = true ∧ only t)))
      ∧ (∀ r, s.cascTimed = false → reaches s r 20 0 TIME.TM_CMD 0x1 → completes (.timeSet r) s (fun t =>
          t.time.ops = s.time.ops ++ [.set (s.fld pTIME TIME.SET_WRAPS.V) (s.rd (pTIME + TIME.SET_NS)).toNat] ∧ t.time.now = s.time.now
            ∧ t.bit pTIME TIME.TM_STAT.PPS_ARMED = false ∧ t.quality = (if s.quality = 0 then 1 else s.quality) ∧ onlyRegs s t [pTIME + TIME.TM_STAT]))
      ∧ (∀ r, s.cascTimed = false → reaches s r 20 0 TIME.TM_CMD 0x2 → completes (.timeStep r) s (fun t =>
          t.time.ops = s.time.ops ++ [.step ((s.rd (pTIME + TIME.STEP_NS)).toInt * 2 ^ 32 + (s.rd (pTIME + TIME.STEP_FRAC)).toNat)]
            ∧ t.time.now = s.time.now ∧ t.bit pTIME TIME.TM_STAT.PPS_ARMED = false ∧ t.quality = s.quality ∧ onlyRegs s t [pTIME + TIME.TM_STAT]))
      ∧ (∀ r, reaches s r 20 0 TIME.TM_CMD 0x4 → completes (.timeSynced r) s (fun t => t.quality = 3 ∧ t.bit pTIME TIME.TM_STAT.HOLDOVER = false
          ∧ (s.quality = 4 → raised t TIME.evHOLDOVER_OFF 0) ∧ t.time = { s.time with holdAt := s.tick } ∧ only t))
      ∧ (∀ r (q : Fin 8), s.cascTimed = false → reaches s r 20 0 TIME.TM_CMD (BitVec.ofNat 32 (0x80 + 16 * q.val)) →
          (q.val < 6 → completes (.qualityWrite r q) s (fun t => t.quality = q.val ∧ (t.bit pTIME TIME.TM_STAT.HOLDOVER = decide (q.val = 4))
              ∧ onlyRegs s t [pTIME + TIME.TM_STAT]))
            ∧ (6 ≤ q.val → completes (.qualityWrite r q) s (fun t => t.time = s.time ∧ only t)))
      ∧ completes .holdoverTimeout s (fun t => (s.quality = 3 → t.quality = 4 ∧ raised t TIME.evHOLDOVER_ON 0 ∧ only t
            ∧ ranTo s t (s.time.holdAt + 625000 * max 1 (s.fld pTIME TIME.HOLD_TMO.MS))) ∧ (s.quality ≠ 3 → t = s))
      ∧ (∀ r v, reaches s r 20 0 TIME.TM_CTRL v → completes (.timeSourceWrite r v) s (fun t => t.rd (pTIME + TIME.TM_CTRL) = v ∧ only t
          ∧ (s.quality = 3 → t.quality = 4 ∧ raised t TIME.evHOLDOVER_ON 0)))
      ∧ (s.time.asleep = true → s.refOk = true → s.fld pPWR PWR.PWR_STAT.STATE ≠ 2 → s.fld pPWR PWR.PWR_STAT.STATE ≠ 3 →
          let k := (s.tick - s.clockOf clkSleep) / 4
          completes .timeWakeAddition s (fun t => t.time.running = true ∧ t.time.asleep = false ∧ only t ∧ raised t TIME.evSLEPT 0
            ∧ ∃ n, (s.time.ring = false → n = k) ∧ n ≤ k + k / 2000 ∧ k ≤ n + k / 2000
              ∧ t.time.sleep = min n (2 ^ 48 - 1) ∧ t.time.now = (s.time.now + 4 * min n (2 ^ 48 - 1) * i) % 2 ^ 80
              ∧ (n < 2 ^ 48 - 1 → t.quality = if s.time.ring then 5 else if s.quality = 3 then 4 else s.quality)
              ∧ (2 ^ 48 - 1 ≤ n → t.quality = 0 ∧ t.bit pTIME TIME.TM_FLAGS.SLEEP_SAT = true)))

/-- PPS arms, pulses and stamps; the time-of-day FIFOs take, send and give bytes; an exchange is asked for and times out (09_time.md R330; 09_time.md R335; 09_time.md R336; 09_time.md R341; 09_time.md R342; 09_time.md R343; 09_time.md R349; 09_time.md R351; log entry 103).
A write of PPS_NEXT_WRAPS arms PPS_OUT; its edge, armed and enabled with the clock running and no steering waiting, is the first
tick at which the counter has reached PPS_NEXT: it raises the output for PPS_WIDTH and moves PPS_NEXT on by PPS_PERIOD; the pulse
ends. An edge of PPS_IN, enabled with the clock running, is stamped with the counter and raises PPS_IN; 1.5 s without one raise
PPS_IN_LOST and, as the source of a LOCKED counter, leads to HOLDOVER. The read of PPS_IN_HI or TT_INFO gives the word and clears
NEW. TOD_TX takes a byte into a FIFO of 64 or sets TOD_OVR; TX_DELAY after a PPS_OUT edge all of it is sent; a received byte
enters its FIFO of 64 (TOD_RX from empty) or sets TOD_OVR; a read of TOD_RX gives and removes the oldest with VALID, or 0. The
request timer of an enabled lane in M400 asks for a TT_A once its cells have been sent; RSP_TMO ends the wait with TT_TIMEOUT.
Time runs to each such moment, unless it has passed (log entry 103). -/
def Obligations.PpsTimeOfDayAndTransfer : Prop :=
  ∀ s : State,
    let only (t : State) : Prop := onlyPage s t pTIME
    (∀ r (v : BitVec 16), reaches s r 20 0 TIME.PPS_NEXT_WRAPS (v.setWidth 32) → completes (.ppsArm r v) s (fun t =>
        t.rd (pTIME + TIME.PPS_NEXT_WRAPS) = v.setWidth 32 ∧ t.bit pTIME TIME.TM_STAT.PPS_ARMED = true
          ∧ onlyRegs s t [pTIME + TIME.PPS_NEXT_WRAPS, pTIME + TIME.TM_STAT]))
      ∧ (s.ppsReady = true → s.time.ops = [] → 0 < s.incr → completes .ppsOutEdge s (fun t => t.time.ppsOut = true ∧ only t
          ∧ (t.time.now + 2 ^ 80 - s.ppsNext) % 2 ^ 80 < s.incr ∧ t.time.ppsEnd = t.tick + 625 * max 1 (s.fld pTIME TIME.PPS_WIDTH.US)
          ∧ t.rd (pTIME + TIME.PPS_NEXT_NS) = s.rd (pTIME + TIME.PPS_NEXT_NS) + s.rd (pTIME + TIME.PPS_PERIOD)
          ∧ t.fld pTIME TIME.PPS_NEXT_WRAPS.V = (s.fld pTIME TIME.PPS_NEXT_WRAPS.V
              + ((s.rd (pTIME + TIME.PPS_NEXT_NS)).toNat + (s.rd (pTIME + TIME.PPS_PERIOD)).toNat) / 2 ^ 32) % 2 ^ 16))
      ∧ (s.time.ppsOut = true → completes .ppsOutPulseEnd s (fun t => ranTo s t s.time.ppsEnd ∧ only t ∧ (s.ppsReady = false → t.time.ppsOut = false)))
      ∧ (s.time.ppsOut = false → completes .ppsOutPulseEnd s (fun t => t = s))
      ∧ (s.bit pTIME TIME.TM_CTRL.PPS_IN_EN = true → s.time.running = true → completes .ppsInEdge s (fun t => raised t TIME.evPPS_IN 0
          ∧ t.rd (pTIME + TIME.PPS_IN_NS) = BitVec.ofNat 32 (s.time.now / 2 ^ 32) ∧ t.bit pTIME TIME.PPS_IN_HI.NEW = true
          ∧ t.fld pTIME TIME.PPS_IN_HI.WRAPS = s.time.now / 2 ^ 64 % 2 ^ 16 ∧ t.fld pTIME TIME.PPS_IN_HI.FRAC = s.time.now / 2 ^ 24 % 256
          ∧ onlyPages s t [pTIME, pPWR]))
      ∧ (s.bit pTIME TIME.TM_CTRL.PPS_IN_EN = true → completes .ppsInLost s (fun t => raised t TIME.evPPS_IN_LOST 0 ∧ only t
          ∧ ranTo s t (s.clockOf clkPpsIn + 937500000) ∧ t.clockOf clkPpsIn = s.clockOf clkPpsIn + 937500000
          ∧ (s.fld pTIME TIME.TM_CTRL.SOURCE = 2 → s.quality = 3 → t.quality = 4 ∧ raised t TIME.evHOLDOVER_ON 0)))
      ∧ (∀ r, readable s r (pTIME + TIME.PPS_IN_HI) → completes (.ppsInHiRead r) s (fun t => answered t r = (s.rd (pTIME + TIME.PPS_IN_HI)).toNat
          ∧ t.rd (pTIME + TIME.PPS_IN_HI) = s.rd (pTIME + TIME.PPS_IN_HI) &&& 0x7FFFFFFF ∧ onlyRegs s t [pTIME + TIME.PPS_IN_HI]))
      ∧ (∀ r (b : Byte), reaches s r 20 0 TIME.TOD_TX (b.setWidth 32) →
          (s.time.todTx.length < 64 → completes (.todTxWrite r b) s (fun t => t.time.todTx = s.time.todTx ++ [b] ∧ nothing s t))
            ∧ (64 ≤ s.time.todTx.length → completes (.todTxWrite r b) s (fun t => t.time = s.time ∧ t.bit pTIME TIME.TM_FLAGS.TOD_OVR = true
              ∧ onlyRegs s t [pTIME + TIME.TM_FLAGS])))
      ∧ (s.time.todArm = true → completes .todTxDelayExpiry s (fun t => t.time.todSent = s.time.todTx ∧ t.time.todTx = [] ∧ t.time.todArm = false
          ∧ ranTo s t (s.clockOf clkTod + 625000 * s.fld pTIME TIME.TOD_CFG.TX_DELAY) ∧ only t))
      ∧ (s.time.todArm = false → completes .todTxDelayExpiry s (fun t => t = s))
      ∧ (∀ b, (s.time.todRx.length < 64 → completes (.todRxByte b) s (fun t => t.time.todRx = s.time.todRx ++ [b]
              ∧ (s.time.todRx = [] → raised t TIME.evTOD_RX 0) ∧ onlyRegs s t [rawAt 20 0]))
            ∧ (64 ≤ s.time.todRx.length → completes (.todRxByte b) s (fun t => t.time = s.time ∧ t.bit pTIME TIME.TM_FLAGS.TOD_OVR = true
              ∧ onlyRegs s t [pTIME + TIME.TM_FLAGS])))
      ∧ (∀ r, readable s r (pTIME + TIME.TOD_RX) →
          (∀ b l, s.time.todRx = b :: l → completes (.todRxPop r) s (fun t => answered t r = 256 + b.toNat ∧ t.time.todRx = l ∧ nothing s t))
            ∧ (s.time.todRx = [] → completes (.todRxPop r) s (fun t => answered t r = 0 ∧ t.time = s.time ∧ nothing s t)))
      ∧ (∀ n : Fin 8, (s.rd (pTIME + TIME.TT_CTRL)).getLsbD n.val = true → s.m400 = true →
          16 * 2 ^ getBits (s.rd (pTIME + TIME.TT_CTRL)) 16 4 ≤ (s.tt n).cells → completes (.ttRequestTimer n) s (fun t =>
            (t.tt n).want = true ∧ (t.tt n).cells = 0 ∧ nothing s t))
      ∧ (∀ n : Fin 8, (s.tt n).awaiting = true → completes (.ttTimeout n) s (fun t => (t.tt n).awaiting = false ∧ raised t TIME.evTT_TIMEOUT 0
          ∧ ranTo s t (s.clockOf (clkTt n) + 62500 * max 1 (s.fld (pPART n) PART.PC_CTRL.RSP_TMO)) ∧ only t))
      ∧ (∀ r (n : Fin 8), let a := pTIME + TIME.TT_INFO + 32 * n.val
          readable s r a → completes (.ttInfoRead r n) s (fun t => answered t r = (s.rd a).toNat ∧ t.rd a = s.rd a &&& 0x7FFFFFFF
            ∧ onlyRegs s t [a]))

/-- A step takes the candidate R122 names; SHADOW passes or refuses; passes are recorded; SUBMIT accepts, measures again or disagrees (04_calibration_sparing.md R122; 04_calibration_sparing.md R124; 04_calibration_sparing.md R127; 04_calibration_sparing.md R129; 04_calibration_sparing.md R130; 04_calibration_sparing.md R131; 04_calibration_sparing.md R132; 04_calibration_sparing.md R133; 04_calibration_sparing.md R134; 04_calibration_sparing.md R143; 04_calibration_sparing.md R154; log entry 16).
A unit that may start a step does (at its interval, or by STEP_NOW): a spare marked for revisit is visited itself; a SUSPECT spare
starts none; otherwise the candidate is the lowest serving SUSPECT slice, else the serving slice whose last accepted calibration
is oldest, ties to the lowest number. PHASE ends in SHADOW; a shadow check within 0.8 LSB, 0.30 % and 24 fs waits for the commit
point; any larger difference ends the step with SHADOW_REFUSED, SHADOW_REF one on (saturating) and the spare marked. A pass stores
its 64-byte record, pass A at U_REC, pass B 64 bytes on (log entry 16), and touches no other byte; its raw values are judged by
the limits of R133. SUBMIT of a first pass pair that met every reference limit: if every measured parameter agrees within its
tolerance, RETURN begins, the mean of A and B (ties away from zero) stands in the shadow of MC[C], and the MC group is requested;
if some do not and retries remain, they alone are measured again; with none left, DISAGREE is raised and counted and their fields
in MC[C] stay. A result time-out abandons the visit: RESULT_TIMEOUT, the slice marked for revisit, back as the spare at the next
commit point. -/
def Obligations.CalibrationSteps : Prop :=
  ∀ (s : State) (u' : Fin 16), let u := u'.val
    let x := s.calSt u
    let stat := pCAL + CAL.U_STAT + 4 * u
    let cal (t : State) : Prop := onlyPage s t pCAL
    let tol (i : Nat) : Nat := [6, 15, 3, 5].getD i 0
    let near (i : Nat) : Prop := ((s.results u i).1 - (s.results u i).2).natAbs ≤ tol i
    let mc := unitPage u + (if u < 8 then LRX.MC_A else LTX.MC_A) + 8 * s.visited u
    let corr (t : State) (i : Nat) : Nat := getBits (t.rd (mc + (parRow i).word)) (parRow i).lo (parRow i).width
    let started (t : State) : Prop := cal t ∧ t.inForce = s.inForce
      ∧ (s.spare u = 31 → t.cal = s.cal ∧ nothing s t)
      ∧ (s.spare u ≠ 31 → x.revisit.testBit (s.spare u) = true → t.phase u = 3 ∧ t.visited u = s.spare u
          ∧ (t.calSt u).spareVisit = true ∧ (t.calSt u).todo = allPars u ∧ (t.calSt u).seq = (x.seq + 1) % 2 ^ 16)
      ∧ (s.spare u ≠ 31 → x.revisit.testBit (s.spare u) = false → x.suspect.testBit (s.spare u) = true → t.cal = s.cal ∧ nothing s t)
      ∧ (s.spare u ≠ 31 → x.revisit.testBit (s.spare u) = false → x.suspect.testBit (s.spare u) = false →
          t.phase u = 1 ∧ (t.calSt u).spareVisit = false ∧ (t.calSt u).seq = (x.seq + 1) % 2 ^ 16
          ∧ (∀ sl, sl < 17 → sl ∈ s.serving u →
              t.visited u ∈ s.serving u
                ∧ (x.suspect.testBit sl = true → x.suspect.testBit (t.visited u) = true ∧ t.visited u ≤ sl)
                ∧ ((∀ z, z < 17 → z ∈ s.serving u → x.suspect.testBit z = false) →
                    Tbl.get 0 x.last (t.visited u) ≤ Tbl.get 0 x.last sl
                      ∧ (Tbl.get 0 x.last (t.visited u) = Tbl.get 0 x.last sl → t.visited u ≤ sl))))
    (s.canStep u = true → completes (.calStepStart u') s started ∧ ∀ r, reaches s r 11 0 (CAL.U_CMD + 4 * u) 0x1 →
        completes (.calStepNow r u') s started)
      ∧ (s.phase u = 1 → (x.quiet = 0 ∨ x.quiet = 3) → completes (.calPhaseEnd u') s (fun t => t.phase u = 2 ∧ onlyRegs s t [stat]))
      ∧ (∀ off gain skew : Int, s.phase u = 2 → x.wait = 0 →
          (off.natAbs ≤ 800 ∧ gain.natAbs ≤ 300 ∧ skew.natAbs ≤ 24000 → completes (.calShadowEnd u' off gain skew) s (fun t =>
              (t.calSt u).wait = 1 ∧ nothing s t))
            ∧ (800 < off.natAbs ∨ 300 < gain.natAbs ∨ 24000 < skew.natAbs → completes (.calShadowEnd u' off gain skew) s (fun t =>
              raised t CAL.evSHADOW_REFUSED 0 ∧ t.phase u = 0 ∧ (t.calSt u).revisit.testBit (s.spare u) = true ∧ cal t
                ∧ t.fld pCAL (uf u CAL.U_CNT.SHADOW_REF) = min (s.fld pCAL (uf u CAL.U_CNT.SHADOW_REF) + 1) 255)))
      ∧ (∀ words temp (raw : RawPass), (s.phase u = 3 ∨ s.phase u = 4) → x.wait = 0 → x.passes < 2 →
          let a := devAddr (8 + 3 * (u % 8)) ((s.fld pCAL (uf u CAL.U_REC.OFS) * 8 + 8 * x.passes) % 32768)
          completes (.calPassDone u' words temp raw) s (fun t => (t.calSt u).passes = x.passes + 1
            ∧ (x.passes = 0 → (t.calSt u).failA = refCheck u raw &&& x.todo) ∧ (x.passes = 1 → (t.calSt u).failB = refCheck u raw &&& x.todo)
            ∧ (x.passes = 1 → t.phase u = 4) ∧ (x.passes = 0 → t.phase u = s.phase u)
            ∧ t.number a 4 = some ((x.seq * 2 ^ 16 + x.passes * 2 ^ 12 + x.todo * 2 ^ 8 + s.visited u) % 2 ^ 32)
            ∧ (∀ i, i < 6 → t.number (a + 4 + 4 * i) 4 = some (words.getD i 0).toNat)
            ∧ t.number (a + 28) 4 = some (temp.toNat + if refCheck u raw &&& x.todo = 0 then 2 ^ 16 else 0)
            ∧ (∀ i, i < 8 → t.number (a + 32 + 4 * i) 4 = some 0)
            ∧ memSameBut s t a 64 ∧ coresSame s t ∧ regsSame s t (fun b => b = stat ∨ inPage pMEM b)))
      ∧ (∀ r, reaches s r 11 0 (CAL.U_CMD + 4 * u) 0x2 → s.unitHere u = true → s.phase u = 4 → x.passes = 2 → x.wait = 0 →
          x.failA = 0 → x.failB = 0 → x.bad = 0 → x.acc = [] → x.dead = false → s.visited u < 17 → s.brownOut = false →
          ((∀ i, i < 4 → x.todo.testBit i = true → near i) → completes (.calSubmit r u') s (fun t => t.phase u = 5 ∧ (t.calSt u).wait = 2
              ∧ accepted s t (unitPage u) (if u < 8 then 2 else 4) 2 ∧ (∀ a, t.inf a = s.inf a) ∧ memSame s t
              ∧ ∀ i, i < 4 → corr t i = if x.todo.testBit i then
                  unsx (parRow i).width (meanAway (s.results u i).1 (s.results u i).2) else corr s i))
            ∧ ((∃ i, i < 4 ∧ x.todo.testBit i = true ∧ ¬ near i) → s.fld pCAL (uf u CAL.U_STAT.RETRY) < s.fld pCAL CAL.RETRY_CFG.RETRIES →
                completes (.calSubmit r u') s (fun t => t.phase u = 4 ∧ (t.calSt u).passes = 0 ∧ onlyRegs s t [stat]
                  ∧ t.fld pCAL (uf u CAL.U_STAT.RETRY) = s.fld pCAL (uf u CAL.U_STAT.RETRY) + 1
                  ∧ ∀ i, i < 4 → ((t.calSt u).todo.testBit i = true ↔ x.todo.testBit i = true ∧ ¬ near i)))
            ∧ ((∃ i, i < 4 ∧ x.todo.testBit i = true ∧ ¬ near i) → s.fld pCAL CAL.RETRY_CFG.RETRIES ≤ s.fld pCAL (uf u CAL.U_STAT.RETRY) →
                completes (.calSubmit r u') s (fun t => t.phase u = 5 ∧ raised t CAL.evDISAGREE 0 ∧ memSame s t
                  ∧ t.fld pCAL (uf u CAL.U_CNT.DISAGREE) = min (s.fld pCAL (uf u CAL.U_CNT.DISAGREE) + 1) 255
                  ∧ ∀ i, i < 4 → x.todo.testBit i = true → ¬ near i → corr t i = corr s i)))
      ∧ (∀ p : RawPass, ((refCheck u p).testBit 0 = true ↔ 24000 < p.offset.natAbs ∨ 1500 < p.noise)
          ∧ ((refCheck u p).testBit 1 = true ↔ 15000 < p.gain.natAbs ∨ ∃ i, i + 1 < p.steps.length ∧ p.steps.getD (i + 1) 0 < p.steps.getD i 0)
          ∧ ((refCheck u p).testBit 2 = true ↔ 3000000 < p.skew.natAbs) ∧ ((refCheck u p).testBit 3 = true ↔ u < 8 ∧ 10000 < p.bw.natAbs))
      ∧ (∀ a b : Int, (2 * meanAway a b - (a + b)).natAbs ≤ 1 ∧ (a + b).natAbs ≤ (2 * meanAway a b).natAbs)
      ∧ (s.phase u = 4 → x.passes = 2 → x.wait = 0 → x.retireCmd = [] → completes (.calResultTimeout u') s (fun t =>
          raised t CAL.evRESULT_TIMEOUT 0 ∧ t.phase u = 0 ∧ (t.calSt u).wait = (if x.spareVisit then 0 else 3) ∧ cal t
            ∧ (t.calSt u).revisit.testBit (s.visited u) = true
            ∧ t.fld pCAL (uf u CAL.U_CNT.DISAGREE) = s.fld pCAL (uf u CAL.U_CNT.DISAGREE)))

/-- RETIRE acts by the slice's role, HOLD and RESUME hold a unit, the monitor flags, a missed grant is raised, CALREF is measured (04_calibration_sparing.md R121; 04_calibration_sparing.md R135; 04_calibration_sparing.md R136; 04_calibration_sparing.md R137; 04_calibration_sparing.md R140; 04_calibration_sparing.md R141; 04_calibration_sparing.md R146; 04_calibration_sparing.md R147; 04_calibration_sparing.md R150; 04_calibration_sparing.md R154; log entry 78).
RETIRE reaching a unit the variant has: a slice retired already changes nothing; the spare is retired, SPARE 31, SLICE_RETIRED
raised; a serving slice is kept where no spare exists; on a running lane either waits, after those before it, for a commit point;
on one at rest the map is rebuilt with the non-retired slices in increasing order and the next as the spare. HOLD and RESUME set
and clear the unit's hold. A monitor window counts, at each position, the windows running in which the mean or the RMS deviates
beyond MON_OFS or MON_GAIN; the slices at positions that have reached MON_N are SUSPECT, and no other slice becomes so. A serving
transmit slice with less than half the median bias of the others becomes SUSPECT. A missing grant raises QUIET_MISSED and the step
goes on without a window. A change of CALREF is shown and raised. REF_MEASURE shows REF_BUSY except in REF_MODE 0, and ends with
both means in REF_MEAS; in REF_MODE 1 a trim (free, log entry 78) within 0.3 % of BG_TRIM is written and stored, another raises
CALREF_REJECT. -/
def Obligations.SparingMonitorAndReference : Prop :=
  ∀ s : State,
    let cal (t : State) : Prop := onlyPage s t pCAL
    (∀ r (u' : Fin 16) (sl' : BitVec 5), let u := u'.val
        let sl := sl'.toNat
        let c : Instr := .calRetire r u' sl'
        let idle : Prop := s.unitHere u = true ∧ sl ≤ 16 ∧ s.sliceRetired u sl = false ∧ (s.visited u = sl → s.phase u = 0) ∧ s.calOut u ≠ sl
        let left := (List.range 17).filter (fun z => !s.sliceRetired u z && z != sl)
        reaches s r 11 0 (CAL.U_CMD + 4 * u) (BitVec.ofNat 32 (0x10 + 256 * sl)) →
          ((s.unitHere u = false ∨ 16 < sl ∨ s.sliceRetired u sl = true) → completes c s (fun t => t.cal = s.cal ∧ nothing s t))
            ∧ (idle → s.spare u = sl → s.unitRuns u = true → completes c s (fun t => sl ∈ (t.calSt u).retireCmd ∧ nothing s t))
            ∧ (idle → s.spare u = sl → s.unitRuns u = false → completes c s (fun t => t.sliceRetired u sl = true ∧ t.spare u = 31 ∧ raised t CAL.evSLICE_RETIRED 0
                ∧ (∀ p, p < 16 → t.posSlice u p = s.posSlice u p) ∧ onlyPages s t [pCAL, unitPage u]))
            ∧ (idle → s.spare u = 31 → completes c s (fun t => t.cal = s.cal ∧ nothing s t))
            ∧ (idle → s.spare u ≠ sl → s.spare u ≠ 31 → s.unitRuns u = true → completes c s (fun t => nothing s t
                ∧ (t.calSt u).retireCmd = (s.calSt u).retireCmd.filter (· != sl) ++ [sl]))
            ∧ (idle → s.spare u ≠ sl → s.spare u ≠ 31 → s.unitRuns u = false → completes c s (fun t => t.sliceRetired u sl = true
                ∧ raised t CAL.evSLICE_RETIRED 0 ∧ (∀ p, p < 16 → t.posSlice u p = left.getD p 31) ∧ t.spare u = left.getD 16 31
                ∧ onlyPages s t [pCAL, unitPage u])))
      ∧ (∀ r (u : Fin 16), s.unitHere u = true →
          (reaches s r 11 0 (CAL.U_CMD + 4 * u.val) 0x4 → completes (.calHold r u) s (fun t => (t.calSt u).held = true ∧ nothing s t))
            ∧ (reaches s r 11 0 (CAL.U_CMD + 4 * u.val) 0x8 → completes (.calResume r u) s (fun t => (t.calSt u).held = false ∧ nothing s t)))
      ∧ (∀ (n : Fin 8) (devs : List (Nat × Nat)), s.monitors n = true →
          let x := s.calSt n
          let lim := max 1 (s.fld pCAL CAL.MON_CFG.MON_N)
          let mean (p : Nat) : Nat := if 250 * s.fld pCAL CAL.MON_CFG.MON_OFS < (devs.getD p (0, 0)).1 then min 7 (Tbl.get 0 x.mean p + 1) else 0
          let rms (p : Nat) : Nat := if 100 * s.fld pCAL CAL.MON_CFG.MON_GAIN < (devs.getD p (0, 0)).2 then min 7 (Tbl.get 0 x.rms p + 1) else 0
          completes (.monWindowEnd n devs) s (fun t => cal t
            ∧ (∀ p, p < 16 → Tbl.get 0 (t.calSt n).mean p = mean p ∧ Tbl.get 0 (t.calSt n).rms p = rms p)
            ∧ ∀ sl, (t.calSt n).suspect.testBit sl = true ↔
                x.suspect.testBit sl = true ∨ ∃ p, p < 16 ∧ s.posSlice n p = sl ∧ (lim ≤ mean p ∨ lim ≤ rms p)))
      ∧ (∀ (n : Fin 8) (sl : Fin 17) (bias : List Nat), let u := 8 + n.val
          let others := ((List.range 17).filter fun k => k != sl.val && (s.serving u).contains k).map fun k => (bias.getD k 0 : Int)
          s.monitors u = true → 4 * (bias.getD sl.val 0 : Int) < median2 others → sl.val ∈ s.serving u → (s.calSt u).suspect.testBit sl = false →
          completes (.txBiasFlag n sl bias) s (fun t => (t.calSt u).suspect.testBit sl = true ∧ t.bit pCAL (uf u CAL.U_STAT.SUSPECT) = true ∧ cal t
            ∧ (s.bit pCAL (uf u CAL.U_STAT.EXHAUSTED) = true → t.bit pCAL (uf u CAL.U_STAT.DEGRADED) = true ∧ raised t CAL.evSLICE_DEGRADED 0)))
      ∧ (∀ n : Fin 8, s.phase n = 1 → ((s.calSt n).quiet = 1 ∨ (s.calSt n).quiet = 2) → completes (.quietMissed n) s (fun t =>
          (t.calSt n).quiet = 0 ∧ raised t CAL.evQUIET_MISSED 0 ∧ t.phase n = 1 ∧ cal t))
      ∧ (∀ uv us : Nat, let c := if uv < 100000 then 0 else if 980000 ≤ uv ∧ uv ≤ 1020000 ∧ 1000 ≤ us then 1 else 2
        completes (.calrefChange uv us) s (fun t => t.fld pCAL CAL.CAL_STAT.CALREF = c
          ∧ (s.fld pCAL CAL.CAL_STAT.CALREF ≠ c → raised t CAL.evCALREF_CHANGE 0) ∧ onlyRegs s t [pCAL + CAL.CAL_STAT, rawAt 11 0]))
      ∧ (∀ r, reaches s r 11 0 CAL.CAL_CMD 0x1 →
          (s.fld pCAL CAL.CAL_CTRL.REF_MODE ≠ 0 → s.brownOut = false → s.enabled pCAL = true → completes (.calRefMeasure r) s (fun t =>
              t.bit pCAL CAL.CAL_STAT.REF_BUSY = true ∧ onlyRegs s t [pCAL + CAL.CAL_STAT]))
            ∧ (s.fld pCAL CAL.CAL_CTRL.REF_MODE = 0 → completes (.calRefMeasure r) s (nothing s)))
      ∧ (∀ bg calref : BitVec 16, s.bit pCAL CAL.CAL_STAT.REF_BUSY = true → completes (.calRefMeasureDone bg calref) s (fun t =>
          t.rd (pCAL + CAL.REF_MEAS) = bg ++ calref ∧ t.bit pCAL CAL.CAL_STAT.REF_BUSY = false
            ∧ (s.fld pCAL CAL.CAL_CTRL.REF_MODE ≠ 1 → onlyRegs s t [pCAL + CAL.REF_MEAS, pCAL + CAL.CAL_STAT])
            ∧ (s.fld pCAL CAL.CAL_CTRL.REF_MODE = 1 →
                let w : Word := (Config.fieldTrim bg calref).setWidth 32 ||| 0x80000000
                let near := (sx 12 w.toNat - sx 12 (s.fld pCAL CAL.BG_TRIM.TRIM)).natAbs ≤ 300
                onlyRegs s t [pCAL + CAL.REF_MEAS, pCAL + CAL.CAL_STAT, pCAL + CAL.BG_TRIM, rawAt 11 0]
                  ∧ (near → t.rd (pCAL + CAL.BG_TRIM) = w ∧ t.boot.flash.bgTrim = some w)
                  ∧ (¬ near → t.rd (pCAL + CAL.BG_TRIM) = s.rd (pCAL + CAL.BG_TRIM) ∧ raised t CAL.evCALREF_REJECT 0))))

/-- Capture rolls, arms, triggers, stops, completes, releases and drains, and a bad configuration is answered with its number (11_capture_replay.md R392; 11_capture_replay.md R393; 11_capture_replay.md R394; 11_capture_replay.md R405; 12_control_plane.md R438).
ROLL or ARM reaching CP_CMD of an enabled page: from IDLE or HELD with a configuration that passes every check of R393 the
recording takes it and the state is ROLL or ARMED; in ROLL or ARMED the state changes only; a check that fails leaves its number
in CFG_ERR and the state as it was; in POST or DRAINING, or on a page not enabled, nothing happens. A software trigger or an edge
of TRIG_IN that is enabled is kept for the next commit point if the state is ARMED and no pause holds, and otherwise counts in
TRIG_MISSED; one that is not enabled does nothing. STOP in ROLL, ARMED or POST holds the recording with HELD, truncated in POST;
in another state it does nothing. POST complete holds it untruncated. RELEASE leads from HELD to IDLE and nowhere else. The end of
draining leads to IDLE with FSTATE by PAGE_CTRL.ENABLE. At a commit point of the recorded lane an ARMED recording with a condition
kept and none late goes to POST, TRIG_INFO shows the causes and TRIG_FRAME the frame, and TRIGGERED is raised. None of the
commands changes memory. -/
def Obligations.CaptureStates : Prop :=
  ∀ s : State,
    let st := pCAP + CAP.CP_STAT
    let trunc (x : State) : Bool := x.bit pCAP CAP.CP_STAT.TRUNC
    let go (c : Requester → Instr) (v : Nat) : Prop := ∀ r, reaches s r 24 0 CAP.CP_CMD (BitVec.ofNat 32 v) →
      (s.enabled pCAP = true → (s.capState = 0 ∨ s.capState = 4) → s.capError = 0 → completes (c r) s (fun t => t.capState = v
          ∧ t.fld pCAP CAP.CP_STAT.CFG_ERR = 0 ∧ trunc t = false ∧ t.cap.start = true ∧ t.rd (pCAP + CAP.CNT) = 0
          ∧ (∀ o ∈ [CAP.CP_CTRL, CAP.DBASE, CAP.DLEN, CAP.IBASE, CAP.ILEN, CAP.KBASE, CAP.KCFG, CAP.LBASE, CAP.LLEN],
              Tbl.get 0 t.cap.cfg o = s.rd (pCAP + o)) ∧ onlyRegs s t [st, pCAP + CAP.CNT]))
        ∧ (s.enabled pCAP = true → (s.capState = 1 ∨ s.capState = 2) → s.capError = 0 → completes (c r) s (fun t => t.capState = v
            ∧ t.fld pCAP CAP.CP_STAT.CFG_ERR = 0 ∧ t.cap.cfg = s.cap.cfg ∧ t.cap.start = s.cap.start ∧ onlyRegs s t [st, pCAP + CAP.CNT]))
        ∧ (s.enabled pCAP = true → s.capState ≠ 3 → s.capState ≠ 5 → s.capError ≠ 0 → completes (c r) s (fun t => t.capState = s.capState
            ∧ t.fld pCAP CAP.CP_STAT.CFG_ERR = s.capError ∧ t.cap = s.cap ∧ onlyRegs s t [st]))
        ∧ (s.enabled pCAP = false ∨ s.capState = 3 ∨ s.capState = 5 → completes (c r) s (fun t => t.cap = s.cap ∧ nothing s t))
    let trig (c : Instr) (k : Nat) : Prop :=
      ((s.fld pCAP CAP.CP_CTRL.TRIG_EN).testBit k = false → completes c s (fun t => t.cap = s.cap ∧ nothing s t))
        ∧ ((s.fld pCAP CAP.CP_CTRL.TRIG_EN).testBit k = true → s.capState = 2 → s.capPause = 0 → completes c s (fun t =>
            t.cap.trig = s.cap.trig ||| 2 ^ k ∧ nothing s t))
        ∧ ((s.fld pCAP CAP.CP_CTRL.TRIG_EN).testBit k = true → (s.capState ≠ 2 ∨ s.capPause ≠ 0) → completes c s (fun t => t.cap = s.cap
            ∧ t.fld pCAP CAP.CNT.TRIG_MISSED = min (s.fld pCAP CAP.CNT.TRIG_MISSED + 1) 65535 ∧ onlyRegs s t [pCAP + CAP.CNT]))
    go (fun r => .captureRoll r) 1 ∧ go (fun r => .captureArm r) 2
      ∧ (∀ r, reaches s r 24 0 CAP.CP_CMD 0x04 → trig (.captureSwTrigger r) 3) ∧ trig .trigInPulse 4
      ∧ (∀ r, reaches s r 24 0 CAP.CP_CMD 0x08 →
          (1 ≤ s.capState → s.capState ≤ 3 → completes (.captureStop r) s (fun t => t.capState = 4 ∧ raised t CAP.evHELD 0
              ∧ trunc t = (trunc s || s.capState == 3) ∧ onlyRegs s t [st, pCAP + CAP.CNT, rawAt 24 0]))
            ∧ ((s.capState = 0 ∨ 4 ≤ s.capState) → completes (.captureStop r) s (fun t => t.cap = s.cap ∧ nothing s t)))
      ∧ (s.capState = 3 → s.fld pCAP CAP.POST.FRAMES ≤ s.cap.post → completes .capturePostComplete s (fun t => t.capState = 4
          ∧ raised t CAP.evHELD 0 ∧ trunc t = trunc s ∧ onlyRegs s t [st, pCAP + CAP.CNT, rawAt 24 0]))
      ∧ (∀ r, reaches s r 24 0 CAP.CP_CMD 0x10 → completes (.captureRelease r) s (fun t =>
          t.capState = (if s.capState = 4 then 0 else s.capState) ∧ t.cap = s.cap ∧ onlyRegs s t [st]))
      ∧ (s.capState = 5 → completes .captureDrainDone s (fun t => t.capState = 0
          ∧ t.fstate pCAP = (if s.bit pCAP HDR.ENABLE then 1 else 0) ∧ onlyRegs s t [st, pCAP + HDR.FSTATE.off]))
      ∧ (∀ (s0 : State) (n : Fin 8) (cf : CapFrame) k, s.capState = 2 → s.capLane = n → s.capPause = 0 → s.cap.start = false →
          s.cap.trig ≠ 0 → cf.late.toNat = 0 →
          let t := s.capPoint s0 n cf k
          t.capState = 3 ∧ raised t CAP.evTRIGGERED 0 ∧ t.rd (pCAP + CAP.TRIG_INFO) = BitVec.ofNat 32 s.cap.trig
            ∧ t.rd (pCAP + CAP.TRIG_FRAME) = s.rd (pLRX n + LRX.FRAME_CNT))

/-- A replay starts, replays frames, holds, stalls and aborts; an export sends its packets and its END; trace lanes slip and lock (11_capture_replay.md R397; 11_capture_replay.md R398; 11_capture_replay.md R399; 11_capture_replay.md R402; 11_capture_replay.md R403; 11_capture_replay.md R404; 11_capture_replay.md R405; 11_capture_replay.md R409; 11_capture_replay.md R410; 15_startup_firmware_lifecycle.md R568; log entry 29; log entry 103).
GO of an idle replay: without a HELD recording of content 0 it ends DONE with RESULT 7; without a checkpoint at START_FRAME with
4; else, in FIXED mode with the log whole, it runs with the checkpoint's values in force. A frame passes the replica (ADAPT) or
stands as recorded (FIXED), counts in DONE_FRAMES and, with both digests valid, in MATCH or MISMATCH (FIXED always matches); the
first mismatch is named and raised; the record goes to the output ring where one is in DRAM; ADAPT then holds, and the end of the
span is DONE with RESULT 0. A frame not held by the recording, after a gap, or read with an error, ends with RESULT 1; a hold past
RP_TMO with 3 (time runs there, log entry 103); ABORT with 6. A hold is released once every masked engine lets it pass; the
commits of the hold are then in force. Export GO starts, or ends with RESULT 3 for a misaligned range; a packet of TYPE 1 carries
the next bytes, up to 256, under the stream's SEQ; END packets of TYPE 2 carry result 0 at the end and 2 after CANCEL. SLIP slips
lanes by bits, WSLIP by words, at most 7; a run of words shows its last and its last marker, and locks the lane where it ends in
64 code groups; errors are counted, and 4 unlock the lane and take the cascade link down. DESKEWED is all four lanes locked with
equal offsets. -/
def Obligations.ReplayExportAndTrace : Prop :=
  ∀ s : State,
    let only (t : State) : Prop := onlyPage s t pRPL
    let ends (c : Instr) (res : Nat) : Prop := completes c s (fun t => t.rpState = 3 ∧ t.fld pRPL RPL.RP_STAT.RESULT = res
      ∧ raised t RPL.evRP_DONE 0 ∧ only t)
    let f0 := (s.rd (pRPL + RPL.START_FRAME)).toNat
    let held : Prop := s.capState = 4 ∧ s.capCfg CAP.CP_CTRL / 16 % 4 = 0
    let fixed : Prop := s.bit pRPL RPL.RP_CTRL.MODE = false
    let trcOnly (t : State) : Prop := onlyPage s t pTRC
    let deskewed (t : State) : Prop := t.bit pTRC TRC.TRC_STAT.DESKEWED = true ↔ (t.fld pTRC TRC.TRC_STAT.LANE_LOCK = 15
      ∧ ∀ l, l < 4 → t.fld pTRC (fldAt TRC.MARK_OFS.OFS (4 * l)) = t.fld pTRC TRC.MARK_OFS.OFS)
    (∀ r, reaches s r 25 0 RPL.RP_CMD 0x1 →
        (s.enabled pRPL = true → (s.rpState = 0 ∨ s.rpState = 3) → ¬ held → ends (.replayGo r) 7)
          ∧ (s.enabled pRPL = true → (s.rpState = 0 ∨ s.rpState = 3) → held → fixed → s.cap.ckpts.find? (fun c => c.frame == f0) = none →
              ends (.replayGo r) 4)
          ∧ (∀ c, s.enabled pRPL = true → (s.rpState = 0 ∨ s.rpState = 3) → held → fixed →
              s.cap.ckpts.find? (fun c => c.frame == f0) = some c → (s.recOf f0).isSome = true → c.step = (s.rd (pID + ID.STEP)).toNat % 2 ^ 16 →
              s.bit pCAP CAP.CP_STAT.LOG_LOST = false → s.rpInSpan f0 = true → completes (.replayGo r) s (fun t => t.rpState = 1
                ∧ t.rpl.frame = f0 ∧ t.rpl.inForce = c.inForce ∧ t.rd (pRPL + RPL.DONE_FRAMES) = 0 ∧ t.rd (pRPL + RPL.MATCH) = 0
                ∧ t.rd (pRPL + RPL.MISMATCH) = 0 ∧ t.rd (pRPL + RPL.FIRST_MISMATCH) = 0xFFFFFFFF ∧ only t))
          ∧ ((s.rpState = 1 ∨ s.rpState = 2) → completes (.replayGo r) s (fun t => t.rpl = s.rpl ∧ nothing s t)))
      ∧ (∀ r, reaches s r 25 0 RPL.RP_CMD 0x2 → ((s.rpState = 1 ∨ s.rpState = 2) → ends (.replayAbort r) 6)
          ∧ (s.rpState ≠ 1 → s.rpState ≠ 2 → completes (.replayAbort r) s (nothing s)))
      ∧ (s.rpState = 1 → s.capPause = 0 →
          (s.recOf s.rpl.frame = none → ends .replayFrame 1)
            ∧ (∀ k, s.recOf s.rpl.frame = some k → (s.rpReadFails k = true ∨ (s.recWord k 2).testBit 16 = true ∧ s.rpl.frame ≠ f0) →
                ends .replayFrame 1)
            ∧ (∀ k c, s.recOf s.rpl.frame = some k → s.rpReadFails k = false → ((s.recWord k 2).testBit 16 = false ∨ s.rpl.frame = f0) →
                s.rpl.stop = false → (fixed ∨ s.rpl.lane = some c) →
                let out := (s.rpRun c k).2
                let olen := (s.rd (pRPL + RPL.OLEN)).toNat
                let a := (s.rd (pRPL + RPL.OBASE)).toNat + 32 * (s.rd (pRPL + RPL.DONE_FRAMES)).toNat % max 1 olen
                let adapt := s.bit pRPL RPL.RP_CTRL.MODE
                let valid := (s.recWord k 2).testBit 21 && (!adapt || out.dvalid)
                let same := !adapt || decide (out.digest = BitVec.ofNat 32 (s.recWord k 3))
                let next := (s.rpl.frame + 1) % 2 ^ 32
                completes .replayFrame s (fun t => t.rd (pRPL + RPL.DONE_FRAMES) = s.rd (pRPL + RPL.DONE_FRAMES) + 1
                  ∧ t.rd (pRPL + RPL.MATCH) = s.rd (pRPL + RPL.MATCH) + (if valid && same then 1 else 0)
                  ∧ t.rd (pRPL + RPL.MISMATCH) = s.rd (pRPL + RPL.MISMATCH) + (if valid && !same then 1 else 0)
                  ∧ (valid = true → same = false → s.rd (pRPL + RPL.MISMATCH) = 0 →
                      t.rd (pRPL + RPL.FIRST_MISMATCH) = BitVec.ofNat 32 s.rpl.frame ∧ raised t RPL.evRP_MISMATCH 0)
                  ∧ t.rpl.frame = next ∧ (s.rpInSpan next = true → t.rpState = if adapt then 2 else 1)
                  ∧ (s.rpInSpan next = false → t.rpState = 3 ∧ t.fld pRPL RPL.RP_STAT.RESULT = 0 ∧ raised t RPL.evRP_DONE 0)
                  ∧ (olen = 0 ∨ s.inDram a 32 = false → memSame s t)
                  ∧ (0 < olen → s.inDram a 32 = true → a % 32 = 0 → memSameBut s t a 32 ∧ t.number a 4 = some (s.rpl.frame % 2 ^ 32)
                      ∧ t.number (a + 12) 4 = some ((if adapt then out.digest else BitVec.ofNat 32 (s.recWord k 3)).toNat))
                  ∧ coresSame s t ∧ regsSame s t (fun b => inPage pRPL b ∨ inPage pMEM b))))
      ∧ (s.rpState = 2 → s.capPause = 0 → s.rpEngines.all s.rpQuiet = true → completes .replayHoldRelease s (fun t => t.rpState = 1
          ∧ t.rpl.groups = 0 ∧ onlyRegs s t [pRPL + RPL.RP_STAT] ∧ ∀ g a, g < 7 → s.rpl.groups.testBit g = true →
            a ∈ groupAddrs (pLRX s.capLane) g → Tbl.find t.rpl.inForce (a - pLRX s.capLane)
              = some (Tbl.get (regReset a) s.rpl.shadow (a - pLRX s.capLane))))
      ∧ (s.rpState = 2 → (s.capPause ≠ 0 ∨ s.rpEngines.all s.rpQuiet = false) → completes .replayHoldRelease s (fun t => t.rpl = s.rpl ∧ nothing s t))
      ∧ (s.rpState = 2 → s.brownOut = false → completes .replayStalled s (fun t => t.rpState = 3 ∧ t.fld pRPL RPL.RP_STAT.RESULT = 3
          ∧ raised t RPL.evRP_DONE 0 ∧ ranTo s t (s.clockOf clkHold + 625000 * max 1 (s.fld pRPL RPL.RP_TMO.MS)) ∧ onlyPages s t [pRPL, pTIME]))
      ∧ (∀ r, reaches s r 26 0 TRC.EXP_CMD 0x1 →
          (s.enabled pTRC = true → s.exporting = false → (s.rd (pTRC + TRC.EXP_SRC)).toNat % 32 = 0 → (s.rd (pTRC + TRC.EXP_LEN)).toNat % 32 = 0 →
              completes (.exportGo r) s (fun t => t.exporting = true ∧ t.trc.ofs = 0 ∧ t.trc.cancel = false ∧ t.rd (pTRC + TRC.EXP_BYTES) = 0
                ∧ onlyRegs s t [pTRC + TRC.EXP_STAT, pTRC + TRC.EXP_BYTES]))
            ∧ (s.enabled pTRC = true → s.exporting = false →
                ((s.rd (pTRC + TRC.EXP_SRC)).toNat % 32 ≠ 0 ∨ (s.rd (pTRC + TRC.EXP_LEN)).toNat % 32 ≠ 0) → completes (.exportGo r) s (fun t =>
                t.rd (pTRC + TRC.EXP_STAT) = 0x80000003 ∧ t.exporting = false ∧ raised t TRC.evEXP_DONE 0 ∧ trcOnly t
                  ∧ t.trc.sent.length = 276 ∧ t.trc.sent.head? = some 2 ∧ t.trc.sent[10]? = some 3))
            ∧ (s.exporting = true → completes (.exportGo r) s (fun t => t.trc = s.trc ∧ nothing s t)))
      ∧ (∀ r, reaches s r 26 0 TRC.EXP_CMD 0x2 → completes (.exportCancel r) s (fun t => t.trc.cancel = (s.trc.cancel || s.exporting) ∧ nothing s t))
      ∧ (s.exporting = true → s.fld pTRC TRC.TRC_CTRL.MODE = 1 → s.bit pTRC TRC.TRC_CTRL.EN = true →
          let left := (s.rd (pTRC + TRC.EXP_LEN)).toNat - s.trc.ofs
          let a := (s.rd (pTRC + TRC.EXP_SRC)).toNat + s.trc.ofs
          let n := min left 256 / 32
          let q := Tbl.get 0 s.trc.seq (s.fld pTRC TRC.EXP_STREAM.STREAM)
          let closes (res : Nat) : Prop := completes .exportPacket s (fun t => t.rd (pTRC + TRC.EXP_STAT) = BitVec.ofNat 32 (0x80000000 + res)
            ∧ raised t TRC.evEXP_DONE 0 ∧ t.trc.sent.head? = some 2 ∧ t.trc.sent[10]? = some (BitVec.ofNat 8 res) ∧ trcOnly t)
          (s.trc.cancel = true → closes 2) ∧ (s.trc.cancel = false → left = 0 → closes 0)
            ∧ (s.trc.cancel = false → 0 < left → left % 32 = 0 → a % 32 = 0 →
                (∀ i, i < n → s.inDram (a + 32 * i) 32 = true ∧ ∃ v, clean s 0 ((a + 32 * i - 0x40000000) / 32) v) →
                completes .exportPacket s (fun t => t.trc.ofs = s.trc.ofs + 32 * n ∧ t.rd (pTRC + TRC.EXP_BYTES) = BitVec.ofNat 32 (s.trc.ofs + 32 * n)
                  ∧ onlyRegs s t [pTRC + TRC.EXP_BYTES] ∧ t.trc.sent.length = 276 ∧ t.trc.sent.head? = some 1
                  ∧ ofBytes ((t.trc.sent.drop 2).take 2) = q % 2 ^ 16
                  ∧ ∀ i, i < n → s.number (a + 32 * i) 32 = some (ofBytes ((t.trc.sent.drop (16 + 32 * i)).take 32)))))
      ∧ (∀ r (lanes : BitVec 4), reaches s r 26 0 TRC.ALIGN (lanes.setWidth 32) → completes (.traceBitSlip r lanes) s (fun t =>
          (∀ l, l < 4 → Tbl.get 0 t.trc.slips l = if lanes.getLsbD l then (Tbl.get 0 s.trc.slips l + 1) % 10 else Tbl.get 0 s.trc.slips l)
            ∧ t.trc.wslips = s.trc.wslips ∧ deskewed t ∧ onlyRegs s t [pTRC + TRC.TRC_STAT]))
      ∧ (∀ r (lanes : BitVec 4), reaches s r 26 0 TRC.ALIGN (lanes.setWidth 32 <<< 4) → completes (.traceWordSlip r lanes) s (fun t =>
          (∀ l, l < 4 → let takes := lanes.getLsbD l && decide (Tbl.get 0 s.trc.wslips l < 7)
              let f := fldAt TRC.MARK_OFS.OFS (4 * l)
              Tbl.get 0 t.trc.wslips l = Tbl.get 0 s.trc.wslips l + (if takes then 1 else 0)
                ∧ t.fld pTRC f = (s.fld pTRC f + if takes then 1 else 0) % 16)
            ∧ t.trc.slips = s.trc.slips ∧ deskewed t ∧ trcOnly t))
      ∧ (s.trcRx = true → (∀ (l : Fin 4) run w, run.getLast? = some w →
            let mark := fldAt TRC.MARK_OFS.OFS (4 * l)
            completes (.traceLaneLock l run) s (fun t => t.fld pTRC (fldAt TRC.RX_WORD.GROUP (4 * l)) = w.toNat
              ∧ (lastMarker run = none → t.fld pTRC mark = s.fld pTRC mark)
              ∧ (∀ i, lastMarker run = some i → t.fld pTRC mark = (Tbl.get 0 s.trc.rx l + i + Tbl.get 0 s.trc.wslips l) % 16)
              ∧ (64 ≤ run.length → (run.drop (run.length - 64)).all isGroup = true → t.bit pTRC (bitAt TRC.TRC_STAT l) = true
                  ∧ t.bit pCLK CLK.LOCK0.TRACE = true ∧ deskewed t)
              ∧ (run.length < 64 → t.bit pTRC (bitAt TRC.TRC_STAT l) = s.bit pTRC (bitAt TRC.TRC_STAT l))
              ∧ onlyPages s t [pTRC, pCLK]))
          ∧ (∀ (l : Fin 4) code disp, code + disp < 4 → completes (.traceLaneUnlock l code disp) s (fun t => onlyRegs s t [pTRC + TRC.LERR + 4 * l]))
          ∧ (∀ (l : Fin 4) code disp, 4 ≤ code + disp → completes (.traceLaneUnlock l code disp) s (fun t => t.bit pTRC (bitAt TRC.TRC_STAT l) = false
            ∧ t.bit pTRC TRC.TRC_STAT.DESKEWED = false ∧ memSame s t
            ∧ t.fld pTRC (fldAt TRC.LERR.CODE (4 * l)) = min (s.fld pTRC (fldAt TRC.LERR.CODE (4 * l)) + code) 65535
            ∧ t.fld pTRC (fldAt TRC.LERR.DISP (4 * l)) = min (s.fld pTRC (fldAt TRC.LERR.DISP (4 * l)) + disp) 65535
            ∧ (s.bit pTRC (bitAt TRC.TRC_STAT l) = true → raised t TRC.evLANE_UNLOCK 0 ∧ t.linkUp = false)
            ∧ (s.casc.fwds = [] → onlyPages s t [pTRC, pCASC, pTIME]))))

/-- A mode request is armed, held or wakes; an entry goes on phase by phase or is aborted; wake leads to NOON; the brown-out states (13_power_clocks_thermal.md R472; 13_power_clocks_thermal.md R473; 13_power_clocks_thermal.md R474; 13_power_clocks_thermal.md R475; 13_power_clocks_thermal.md R476; 13_power_clocks_thermal.md R477; 13_power_clocks_thermal.md R478; 13_power_clocks_thermal.md R479; 13_power_clocks_thermal.md R480; 13_power_clocks_thermal.md R482; 13_power_clocks_thermal.md R484; log entry 103).
A write of MODE with TARGET 3, a host error, leaves the page's writable registers open and changes no power state (log entry 90);
in NOON DUSK and NIGHT are ARMED; a request for NOON in DUSK or NIGHT wakes; any other is held, one deep, replacing one held with
REQ_REPLACED. At AP2 an entry with a wake source latched or a level asserted is abandoned: NOON, RESULT 2, AP 2, LAST_WAKE,
PWR_DONE; with none it goes on to phase 4, or is abandoned at AP3 by an enabled source in phase 3. The stop ends fill, recording,
replay and export. Phase 5 ends in DUSK or NIGHT with the time clock stopped; NIGHT holds the pads, and every engine is as after
reset, and memory keeps its contents; with a source latched wake begins at once, late. A source that is enabled while the latch is
open is latched, and in DUSK or NIGHT begins wake; another does nothing; the timer is source 3, after WAKE_TMR (log entry 103).
Wake ends in NOON with RESULT 1; after NIGHT the cluster memories are zero, other bytes as before. PAD_REL releases in NOON only.
The brown-out warning begins with BO_WARN, its count, and no reference measurement or flash write left; from RECOVER it begins
again unannounced; it clears to RECOVER and resumes 100 µs later with BO_RESUME. -/
def Obligations.PowerStatesAndBrownOut : Prop :=
  ∀ s : State,
    let st := pPWR + PWR.PWR_STAT
    let f (t : State) (x : Fld) : Nat := t.fld pPWR x
    let open' : Prop := s.pwr.phase ≠ 0 ∨ 2 ≤ s.pst
    let lets (n : Nat) : Prop := open' ∧ (n = 7 ∨ (s.rd (pPWR + PWR.WAKE_EN)).getLsbD n = true)
    let latched (n : Nat) (t : State) : Prop := t.pwr.latch = s.pwr.latch ||| 2 ^ n ∧ t.pwr.first = some (s.pwr.first.getD n)
      ∧ t.pst = (if s.pst = 2 ∨ s.pst = 3 then 4 else s.pst) ∧ onlyRegs s t [st]
    let aborted (ap src : Nat) (t : State) : Prop := t.pst = 0 ∧ t.pwr.phase = 0 ∧ t.pwr.latch = 0 ∧ t.supState = 1
      ∧ f t PWR.PWR_STAT.LAST_RESULT = 2 ∧ f t PWR.PWR_STAT.LAST_AP = ap ∧ f t PWR.LAST_WAKE.SOURCES = src % 512
      ∧ raised t PWR.evPWR_DONE 0 ∧ onlyRegs s t [st, pPWR + PWR.LAST_WAKE, rawAt 1 0]
    (∀ r (m : Fin 4), reaches s r 1 0 PWR.MODE (BitVec.ofNat 32 m) →
        (m = 3 → completes (.pwrModeRequest r m) s (fun t => t.pst = s.pst ∧ t.pwr = s.pwr ∧ t.brownOut = s.brownOut ∧ onlyPage s t pPWR))
          ∧ (m ≠ 3 → s.pst = 0 → completes (.pwrModeRequest r m) s (fun t => f t PWR.PWR_STAT.ARMED = m ∧ t.pst = 0
              ∧ t.rd (pPWR + PWR.MODE) = BitVec.ofNat 32 m ∧ onlyRegs s t [pPWR + PWR.MODE, st]))
          ∧ (m = 0 → (s.pst = 2 ∨ s.pst = 3) → completes (.pwrModeRequest r m) s (fun t => t.pst = 4 ∧ t.pwr.latch = s.pwr.latch ||| 128
              ∧ onlyRegs s t [pPWR + PWR.MODE, st]))
          ∧ (m ≠ 3 → s.pst ≠ 0 → ¬ (m = 0 ∧ (s.pst = 2 ∨ s.pst = 3)) → completes (.pwrModeRequest r m) s (fun t =>
              f t PWR.PWR_STAT.HELD = m ∧ f t PWR.PWR_STAT.HELD_V = 1 ∧ t.pst = s.pst
                ∧ (s.bit pPWR PWR.PWR_STAT.HELD_V = true → f t PWR.PWR_STAT.REPLACED = 1 ∧ raised t PWR.evREQ_REPLACED 0)
                ∧ onlyRegs s t [pPWR + PWR.MODE, st, rawAt 1 0])))
      ∧ (∀ wakeN during, s.pst = 1 → s.pwr.phase = 2 →
          let src := s.pwr.latch ||| s.levels wakeN
          (src ≠ 0 → completes (.entryDrainDone wakeN during) s (aborted 2 src))
            ∧ (src = 0 → during = [] → completes (.entryDrainDone wakeN during) s (fun t => t.pwr.phase = 4 ∧ t.pst = 1))
            ∧ (∀ n : Fin 9, src = 0 → during = [n] → lets n → completes (.entryDrainDone wakeN during) s (aborted 3 (2 ^ n.val))))
      ∧ (s.pst = 1 → s.pwr.phase = 4 → completes .entryStopDone s (fun t => t.pwr.phase = 5 ∧ t.pst = 1 ∧ t.filling = false
          ∧ t.capRuns = false ∧ t.rpState ≠ 1 ∧ t.rpState ≠ 2 ∧ t.exporting = false))
      ∧ (∀ wakeN, s.pst = 1 → s.pwr.phase = 5 → s.bit pPWR PWR.PWR_STAT.HELD_V = false →
          (wakeN = false ∨ (s.rd (pPWR + PWR.WAKE_EN)).getLsbD 0 = false) → (s.rd (pPWR + PWR.WAKE_EN)).getLsbD 8 = false →
          completes (.entryComplete wakeN) s (fun t => t.pwr.phase = 0 ∧ t.time.running = false ∧ memSame s t
            ∧ (s.pwr.latch = 0 → t.pst = if s.pwr.night then 3 else 2) ∧ (s.pwr.latch ≠ 0 → t.pst = 4 ∧ t.pwr.late = true)
            ∧ (s.pwr.night = true → f t PWR.PWR_STAT.PAD_HELD = 1 ∧ (∀ k, k < 256 → t.core k = coreReset k)
                ∧ t.rd (pCLK + CLK.LOCK0) = 0 ∧ t.rd (pCLK + CLK.LOCK1) = 0)))
      ∧ (∀ n : Fin 9, n.val ≠ 3 → (n.val = 8 → s.intS = true) →
          (lets n → completes (.wakeSource n) s (latched n)) ∧ (¬ lets n → completes (.wakeSource n) s (fun t => t = s)))
      ∧ (s.pst = 2 ∨ s.pst = 3 → s.rd (pPWR + PWR.WAKE_TMR) ≠ 0 → lets 3 → completes .wakeTimerExpiry s (fun t =>
          t.pwr.latch = s.pwr.latch ||| 8 ∧ t.pwr.first = some (s.pwr.first.getD 3) ∧ t.pst = 4
            ∧ ranTo s t (s.clockOf clkWake + 6250 * (s.rd (pPWR + PWR.WAKE_TMR)).toNat) ∧ onlyPages s t [pPWR, pTIME]))
      ∧ (s.pst = 4 → completes .wakeComplete s (fun t => t.pst = 0 ∧ t.pwr.latch = 0 ∧ t.pwr.phase = 0 ∧ t.supState = 1
          ∧ f t PWR.PWR_STAT.LAST_RESULT = 1 ∧ f t PWR.LAST_WAKE.SOURCES = s.pwr.latch % 512 ∧ raised t PWR.evPWR_DONE 0
          ∧ (s.pwr.night = false → memSame s t)
          ∧ (s.pwr.night = true → ∀ a, t.byte a = if 0x20000000 ≤ a ∧ a < 0x30000000 then some 0 else s.byte a)))
      ∧ (∀ r, reaches s r 1 0 PWR.PAD_REL 0x1 →
          (s.pst = 0 → completes (.padRelease r) s (fun t => t.pwr.pads = [] ∧ f t PWR.PWR_STAT.PAD_HELD = 0 ∧ onlyRegs s t [st]))
            ∧ (s.pst ≠ 0 → completes (.padRelease r) s (fun t => t.pwr = s.pwr ∧ nothing s t)))
      ∧ (f s PWR.BO_STAT.STATE = 0 → completes .boWarn s (fun t => f t PWR.BO_STAT.STATE = 1 ∧ raised t PWR.evBO_WARN 0
          ∧ f t PWR.BO_STAT.COUNT = min (f s PWR.BO_STAT.COUNT + 1) 65535 ∧ t.bit pCAL CAL.CAL_STAT.REF_BUSY = false
          ∧ (s.act = 1 → t.act = 0 ∧ t.fld pSUP SUP.SUP_STAT.ERR = 8 ∧ raised t SUP.evIMG_REJECT 0) ∧ (s.act = 3 → t.act = 2 ∧ raised t SUP.evACT_FAIL 0)
          ∧ memSame s t))
      ∧ (f s PWR.BO_STAT.STATE = 2 → completes .boWarn s (fun t => f t PWR.BO_STAT.STATE = 1 ∧ f t PWR.BO_STAT.COUNT = f s PWR.BO_STAT.COUNT
          ∧ onlyRegs s t [pPWR + PWR.BO_STAT, pPWR + PWR.RAIL_STAT]))
      ∧ (f s PWR.BO_STAT.STATE = 1 → completes .boClear s (fun t => f t PWR.BO_STAT.STATE = 2 ∧ onlyRegs s t [pPWR + PWR.BO_STAT, pPWR + PWR.RAIL_STAT]))
      ∧ (f s PWR.BO_STAT.STATE = 2 → completes .boResume s (fun t => f t PWR.BO_STAT.STATE = 0 ∧ t.brownOut = false
          ∧ raised t PWR.evBO_RESUME 0 ∧ ranTo s t (s.clockOf clkRecover + 62500) ∧ onlyPages s t [pPWR, pTIME]))

/-- Cold resets clear all but fuses and flash, warm and group resets theirs; clocks are lost and return; the sensors set alarm and level (13_power_clocks_thermal.md R460; 13_power_clocks_thermal.md R461; 13_power_clocks_thermal.md R465; 13_power_clocks_thermal.md R467; 13_power_clocks_thermal.md R468; 13_power_clocks_thermal.md R469; 13_power_clocks_thermal.md R470; 13_power_clocks_thermal.md R486; 13_power_clocks_thermal.md R487; 13_power_clocks_thermal.md R489; 13_power_clocks_thermal.md R490; 13_power_clocks_thermal.md R491).
Each cold reset (power-on, pin, rail, CORE PLL, RST_CMD with its key) from a device not in one leaves every register but the fused
ones at its reset value, memory listing nothing, every core as reset and the cause in RST_CAUSE. The release reads the straps,
counts the boot and leaves the DRAM that the ROM fills written. A warm reset in NOON counts and leaves every engine OFF (RETIRED
stays) and memory as it was; a wrong key changes no power state. GRP_CMD outside NOON, for an absent or a used lane answers 3, 2
or 1 with GRP_REFUSED; else the group is reset, BUSY until its end, which raises GRP_DONE; a warm reset's end raises WARM_DONE.
The loss and return of REFCLK, of a lane's, the TIME and the TRACE PLL show in CLK and raise their events; the time clock stops. A
cluster that is enabled for gating and idle is gated, and restarts; more than 255 pulses lost show in XLOST. A sample without the
cross-check is shown; TJ_MAX is the hottest sensor that is not BROKEN, the alarm sets at 115.0 °C and clears below 112.0 °C, the
level rises at its thresholds and falls 3 °C below. READMIT clears BROKEN and the strikes. -/
def Obligations.ResetsClocksAndTemperature : Prop :=
  ∀ s : State,
    let cold (cause rail : Nat) (t : State) : Prop := t.pwr.hold = true ∧ t.pending = s.pending ∧ t.variant = s.variant ∧ t.mem = []
      ∧ t.commits = [] ∧ (∀ k, t.core k = coreReset k) ∧ t.fld pRST RST.RST_CAUSE.COLD_CAUSE = cause ∧ t.fld pRST RST.RST_CAUSE.RAIL = rail
      ∧ (∀ a, coldKeeps a = false → a ≠ pRST + RST.RST_CAUSE → t.rd a = regReset a)
      ∧ (∀ a, coldKeeps a = true → a ≠ pLCS + LCS.LCS_STAT → t.rd a = s.rd a) ∧ t.lcs = s.lcs ∧ t.boot.fused = s.boot.fused
      ∧ t.boot.flash.coldBoots = s.boot.flash.coldBoots
    let lock (t : State) (k : Nat) : Bool := t.bit pCLK (bitAt CLK.LOCK0 k)
    completes .powerOn s (cold 0 0) ∧ completes (.railLoss 3) s (cold 0 0)
      ∧ (s.pwr.hold = false → completes .resetPin s (cold 1 0) ∧ completes .corePllUnlock s (cold 5 0) ∧ completes (.railLoss 0) s (cold 2 0)
          ∧ completes (.railLoss 1) s (cold 3 0) ∧ completes (.railLoss 2) s (cold 3 1) ∧ completes (.railLoss 4) s (cold 3 2)
          ∧ ∀ r, reaches s r 3 0 RST.RST_CMD 0xA502 → completes (.rstCmdCold r 0xA5) s (cold 4 0))
      ∧ (∀ r (key : Byte), key ≠ 0xA5 →
          (reaches s r 3 0 RST.RST_CMD (BitVec.ofNat 32 (256 * key.toNat + 2)) → completes (.rstCmdCold r key) s (fun t => t.pwr = s.pwr ∧ memSame s t))
            ∧ (reaches s r 3 0 RST.RST_CMD (BitVec.ofNat 32 (256 * key.toNat + 1)) → completes (.rstCmdWarm r key) s (fun t => t.pwr = s.pwr ∧ memSame s t)))
      ∧ (∀ casc sel (prt : Fin 32), s.pwr.hold = true → completes (.coldResetRelease casc sel prt) s (fun t => t.pwr.hold = false ∧ t.slave = casc
          ∧ t.boot.prtad = prt ∧ t.boot.bootSel = sel ∧ t.boot.flash.coldBoots = (s.boot.flash.coldBoots + 1) % 2 ^ 32
          ∧ (s.lcs = 4 → t.stage = 6 ∧ t.fld pSUP SUP.SUP_STAT.ERR = 6)
          ∧ (s.lcs ≠ 4 → (∀ a, 0x40000000 ≤ a → a < 0x43000000 → t.byte a ≠ none) ∧ ((casc || sel) = true → t.stage = 1)
              ∧ (casc = false → sel = true → t.bit pSUP SUP.SUP_STAT.HOST_LOAD = true))))
      ∧ (∀ r, reaches s r 3 0 RST.RST_CMD 0xA501 → s.pst = 0 → completes (.rstCmdWarm r 0xA5) s (fun t => t.pwr.warm = true ∧ memSame s t
          ∧ t.fld pRST RST.RST_CAUSE.WARM_CNT = min (s.fld pRST RST.RST_CAUSE.WARM_CNT + 1) 65535 ∧ t.fld pRST RST.RST_CAUSE.WARM_CAUSE = 1
          ∧ (s.casc.fwds = [] → ∀ k, k < 256 → s.hasCluster (k / 16) = true → t.coreState k = if s.coreState k = 4 then 4 else 0)))
      ∧ (s.pwr.warm = true → completes .warmResetDone s (fun t => t.pwr.warm = false ∧ raised t RST.evWARM_DONE 0))
      ∧ (∀ r (v : Word), reaches s r 3 0 RST.GRP_CMD v → v.getLsbD 8 = true → s.bit pRST RST.GRP_STAT.BUSY = false →
          let g := getBits v 0 6
          let refused (res : Nat) (t : State) : Prop := t.fld pRST RST.GRP_STAT.RESULT = res ∧ t.fld pRST RST.GRP_STAT.GROUP = g
            ∧ raised t RST.evGRP_REFUSED 0 ∧ onlyRegs s t [pRST + RST.GRP_STAT, rawAt 3 0]
          (s.pst ≠ 0 → completes (.groupReset r v) s (refused 3))
            ∧ (s.pst = 0 → s.groupHere g = false → completes (.groupReset r v) s (refused 2))
            ∧ (s.pst = 0 → s.groupHere g = true → s.groupInUse g = true → completes (.groupReset r v) s (refused 1))
            ∧ (s.pst = 0 → s.groupHere g = true → s.groupInUse g = false → completes (.groupReset r v) s (fun t =>
                t.bit pRST RST.GRP_STAT.BUSY = true ∧ t.fld pRST RST.GRP_STAT.GROUP = g ∧ t.pwr.groups = [g] ∧ memSame s t
                  ∧ (g < 8 → Tbl.find t.lrx g = none ∧ Tbl.find t.ltx g = none ∧ Tbl.find t.part g = none ∧ Tbl.find t.dawn g = none)
                  ∧ (24 ≤ g → g < 40 → ∀ e, e < 16 → t.coreState (16 * (g - 24) + e) = if s.coreState (16 * (g - 24) + e) = 4 then 4 else 0)
                  ∧ (g = 40 → t.core supId = coreReset supId) ∧ (g = 42 → t.linkUp = false))))
      ∧ (s.pwr.groups ≠ [] → ¬ (40 ∈ s.pwr.groups ∧ s.stage = 0) → completes .groupResetDone s (fun t => t.pwr.groups = []
          ∧ t.bit pRST RST.GRP_STAT.BUSY = false ∧ t.fld pRST RST.GRP_STAT.RESULT = 0 ∧ raised t RST.evGRP_DONE 0
          ∧ onlyRegs s t [pRST + RST.GRP_STAT, rawAt 3 0]))
      ∧ (s.refOk = true → completes .refclkLost s (fun t => t.refOk = false ∧ t.bit pCLK CLK.CLK_STAT.ON_OSC = true
          ∧ raised t CLK.evREFCLK_LOST 0 ∧ t.time.running = false ∧ t.bit pCLK CLK.LOCK0.TIME = false ∧ memSame s t))
      ∧ (s.refOk = false → completes .refclkBack s (fun t => t.refOk = true ∧ t.bit pCLK CLK.CLK_STAT.ON_OSC = false
          ∧ raised t CLK.evREFCLK_BACK 0 ∧ (s.pst ≠ 3 → t.bit pCLK CLK.LOCK0.TIME = true) ∧ memSame s t))
      ∧ (∀ (n : Fin 8) (tx : Bool), let k := if tx then 8 + n.val else n.val
          (lock s k = true → completes (.lanePllUnlock n tx) s (fun t => lock t k = false ∧ t.unlocked.testBit k = true
              ∧ raised t CLK.evPLL_UNLOCK 0 ∧ memSame s t))
            ∧ (lock s k = false → completes (.lanePllUnlock n tx) s (fun t => t = s))
            ∧ (s.unlocked.testBit k = true → s.refOk = true → completes (.lanePllRelock n tx) s (fun t => t.unlocked.testBit k = false ∧ memSame s t
                ∧ (s.portOfLine n = none → lock t k = true ∧ onlyRegs s t [pCLK + CLK.LOCK0]))))
      ∧ (s.bit pCLK CLK.LOCK0.TIME = true → completes .timePllUnlock s (fun t => t.bit pCLK CLK.LOCK0.TIME = false
          ∧ t.time.running = false ∧ raised t CLK.evPLL_UNLOCK 0 ∧ onlyRegs s t [pCLK + CLK.LOCK0, rawAt 2 0]))
      ∧ (s.bit pCLK CLK.LOCK0.TRACE = true → completes .tracePllUnlock s (fun t => t.bit pCLK CLK.LOCK0.TRACE = false
          ∧ t.fld pTRC TRC.TRC_STAT.LANE_LOCK = 0 ∧ t.bit pTRC TRC.TRC_STAT.DESKEWED = false ∧ raised t CLK.evPLL_UNLOCK 0 ∧ memSame s t
          ∧ (s.fld pTRC TRC.TRC_STAT.LANE_LOCK ≠ 0 → raised t TRC.evLANE_UNLOCK 0 ∧ (s.peerRatifies = true → t.linkUp = false))))
      ∧ (∀ c : Fin 16, (s.hasCluster c = true → (s.rd (pCLK + CLK.CG_CTRL)).getLsbD c = true → s.idleCluster c = true →
            completes (.clusterClockGate c) s (fun t => t.bit pCLK (bitAt CLK.CG_STAT c) = true ∧ onlyRegs s t [pCLK + CLK.CG_STAT]))
          ∧ (s.idleCluster c = false → completes (.clusterClockGate c) s (fun t => t = s))
          ∧ completes (.clockRestart c) s (fun t => t.bit pCLK (bitAt CLK.CG_STAT c) = false ∧ onlyRegs s t [pCLK + CLK.CG_STAT]))
      ∧ (∀ (cls : Fin 4) n, (255 < n → completes (.pulseCrossingDelivery cls n) s (fun t => t.bit pCLK (bitAt CLK.XLOST cls) = true
            ∧ raised t CLK.evXLOST 0 ∧ onlyRegs s t [pCLK + CLK.XLOST, rawAt 2 0]))
          ∧ (n ≤ 255 → completes (.pulseCrossingDelivery cls n) s (fun t => t = s)))
      ∧ (∀ l : List (BitVec 16), settled s → s.bit pTHERM THERM.TH_CTRL.XCHK_EN = false → (∃ k, k < 24 ∧ s.broken k = false) →
          completes (.sensorSample l) s (fun t => onlyPages s t [pTHERM, pPWR, pDRAM]
            ∧ (∀ k, k < 24 → t.fld pTHERM (tsf k THERM.TS.TEMP) = (l.getD k 0).toNat ∧ t.broken k = s.broken k)
            ∧ let hot := t.fld pTHERM THERM.TH_STAT.HOT
              let tj := t.temp hot
              let T (i : Nat) : Int := 10 * (s.fld pTHERM ⟨THERM.POL_T, 8 * i, 8⟩ : Nat)
              let old := s.fld pTHERM THERM.TH_STAT.LEVEL
              hot < 24 ∧ t.broken hot = false ∧ (∀ k, k < 24 → t.broken k = false → t.temp k ≤ tj)
                ∧ t.bit pTHERM THERM.TJ_MAX.VALID = true ∧ t.fld pTHERM THERM.TJ_MAX.TEMP = unsx 16 tj
                ∧ (t.bit pTHERM THERM.TH_STAT.ALARM_HI = true ↔ if s.bit pTHERM THERM.TH_STAT.ALARM_HI then 1120 ≤ tj else 1150 ≤ tj)
                ∧ (t.bit pTHERM THERM.TH_STAT.ALARM_CRIT = true ↔ if s.bit pTHERM THERM.TH_STAT.ALARM_CRIT then 1220 ≤ tj else 1250 ≤ tj)
                ∧ (s.bit pTHERM THERM.TH_CTRL.POL_EN = false → t.fld pTHERM THERM.TH_STAT.LEVEL = 0)
                ∧ (s.bit pTHERM THERM.TH_CTRL.POL_EN = true → ∀ i, i < 3 → (i + 1 ≤ t.fld pTHERM THERM.TH_STAT.LEVEL ↔
                    ∃ j, i ≤ j ∧ j < 3 ∧ (T j ≤ tj ∨ (j + 1 ≤ old ∧ T j - 30 < tj))))))
      ∧ (∀ r (k : Fin 24), reaches s r 8 0 THERM.TS_CMD (BitVec.ofNat 32 (0x100 + k)) → settled s → completes (.sensorReadmit r k) s (fun t =>
          t.broken k = false ∧ t.fld pTHERM (tsf k THERM.TS.STRIKES) = 0 ∧ onlyPages s t [pTHERM, pPWR, pDRAM]))

/-- The sequencer starts, waits, delays, runs and gaps; triggers are taken, held or overrun; slots start conversions; results are formed (14_housekeeping_converters.md R507; 14_housekeeping_converters.md R508; 14_housekeeping_converters.md R509; 14_housekeeping_converters.md R510; 14_housekeeping_converters.md R511; 14_housekeeping_converters.md R512; 14_housekeeping_converters.md R514; 14_housekeeping_converters.md R515; 14_housekeeping_converters.md R516; 14_housekeeping_converters.md R518; 14_housekeeping_converters.md R519; log entry 103).
SEQ_EN leads from OFF to GAP on an enabled page; clearing it leads to OFF at once where nothing of the sequence converts, else
when what has started completes. A trigger (software under any SRC but 9, the timer or PWM output that SRC names) is taken in
WAIT, held in DELAY, RUN or GAP, counted with OVERRUN behind a held one, ignored in OFF. Timers, DELAY, the gap and settling run
to their moments (log entry 103). DELAY ends in RUN; a gap past its first slot ends in DELAY with a held trigger (LATE) or under
SRC 9, else in WAIT. The first slot of a gap puts the staged corrections in force and starts nothing; another slot starts, on a
free sub-converter, the urgent request first, then the entry, a calibration, a reference conversion. A conversion that is not its
result's last adds the nearest code to 4,096 V_in/V_ref, within 0 to 4,095; the last forms the rounded mean: the urgent one in
URG_RES with URG_DONE, an entry's in HK_LAST and, unless NOQ, the queue; the result of LAST in RUN ends the sequence. One urgent
request is held; a second counts with URG_OVR. A read of RQ_HI removes the head, or answers 0. FLUSH and CNT_CLR clear; a
calibration is staged, or beyond ±32 LSB or ±2 % excludes its sub-converter; references settle, fail and return. -/
def Obligations.HousekeepingSequencer : Prop :=
  ∀ s : State,
    let stat := pHKADC + HKADC.HK_STAT
    let ctrl := s.rd (pHKADC + HKADC.HK_CTRL)
    let held (t : State) : Bool := t.bit pHKADC HKADC.HK_STAT.TRIG_HELD
    let mean (i code : Nat) : Nat := (2 * ((s.hkRes i).sum + code) + avgOf (s.hkEntry i)) / (2 * avgOf (s.hkEntry i))
    let trig (c : Instr) (only : State → List Nat → Prop) : Prop :=
      (s.hkState = 1 → completes c s (fun t => t.hkState = 2 ∧ t.hk.late = false ∧ t.hkf HKADC.HK_STAT.ENTRY = 0 ∧ only t [stat]))
        ∧ (2 ≤ s.hkState → s.hkState ≤ 4 → held s = false → completes c s (fun t => held t = true ∧ t.hkState = s.hkState ∧ t.hk = s.hk ∧ only t [stat]))
        ∧ (2 ≤ s.hkState → s.hkState ≤ 4 → held s = true → completes c s (fun t => t.hkf HKADC.HK_OVR.TRIG = min (s.hkf HKADC.HK_OVR.TRIG + 1) 65535
            ∧ raised t HKADC.evOVERRUN 0 ∧ t.hk = s.hk ∧ only t [pHKADC + HKADC.HK_OVR, rawAt 28 0]))
        ∧ (s.hkState = 0 ∨ 5 ≤ s.hkState → completes c s (fun t => t.hk = s.hk ∧ only t []))
    (∀ r, reaches s r 28 0 HKADC.HK_CTRL (ctrl ||| 0x1) → completes (.hkSeqEnable r) s (fun t => t.rd (pHKADC + HKADC.HK_CTRL) = ctrl ||| 0x1
        ∧ t.hkState = (if s.hkState = 0 ∧ s.enabled pHKADC = true then 4 else s.hkState) ∧ t.hk.stop = false
        ∧ onlyRegs s t [pHKADC + HKADC.HK_CTRL, stat]))
      ∧ (∀ r, reaches s r 28 0 HKADC.HK_CTRL (ctrl &&& ~~~0x1) → s.hkState ≠ 0 → s.hkState ≠ 5 → completes (.hkSeqDisable r) s (fun t =>
          t.rd (pHKADC + HKADC.HK_CTRL) = ctrl &&& ~~~0x1 ∧ onlyRegs s t [pHKADC + HKADC.HK_CTRL, stat]
            ∧ (s.seqIdle = true → t.hkState = 0 ∧ held t = false) ∧ (s.seqIdle = false → t.hkState = s.hkState ∧ t.hk.stop = true)))
      ∧ (∀ r, reaches s r 28 0 HKADC.HK_CMD 0x1 → (s.hkf HKADC.HK_TRIG.SRC ≠ 9 → trig (.hkTrigger r) (onlyRegs s))
          ∧ (s.hkf HKADC.HK_TRIG.SRC = 9 → completes (.hkTrigger r) s (fun t => t.hk = s.hk ∧ nothing s t)))
      ∧ (∀ k : Fin 4, (s.rd (pHKADC + HKADC.TMR_CTRL)).getLsbD k = true → s.hkf HKADC.HK_TRIG.SRC = 1 + k →
          let due := s.clockOf (clkHkTimer k) + 4 * max 16 (s.rd (pHKADC + HKADC.TMR_PER + 4 * k.val)).toNat
          trig (.hkTimerFire k) (fun t l => ranTo s t due ∧ t.clockOf (clkHkTimer k) = due ∧ onlyTimed s t l))
      ∧ (∀ r, (reaches s r 28 0 HKADC.HK_CMD 0x2 → completes (.hkRqFlush r) s (fun t => t.hk.queue = [] ∧ t.hk.full = false ∧ nothing s t))
          ∧ (reaches s r 28 0 HKADC.HK_CMD 0x4 → completes (.hkCntClr r) s (fun t => t.rd (pHKADC + HKADC.HK_OVR) = 0
              ∧ t.hkf HKADC.RQ_STAT.LOST = 0 ∧ t.hk = s.hk ∧ onlyRegs s t [pHKADC + HKADC.HK_OVR, pHKADC + HKADC.RQ_STAT])))
      ∧ (s.hkState = 2 → completes .hkDelayEnd s (fun t => t.hkState = 3 ∧ t.hk = s.hk
          ∧ ranTo s t (s.clockOf clkHkDelay + (25 * s.hkf HKADC.HK_TRIG.DELAY + 3) / 4) ∧ onlyTimed s t [stat]))
      ∧ (s.hkState = 4 → s.hk.gap1 = false → completes .hkGapEnd s (fun t => ranTo s t (s.clockOf clkHkGap + 625) ∧ onlyTimed s t [stat]
          ∧ (held s = true → t.hkState = 2 ∧ held t = false ∧ t.hk.late = true)
          ∧ (held s = false → s.hkf HKADC.HK_TRIG.SRC = 9 → t.hkState = 2 ∧ t.hk.late = false)
          ∧ (held s = false → s.hkf HKADC.HK_TRIG.SRC ≠ 9 → t.hkState = 1)))
      ∧ (∀ k : Fin 4, s.hkState = 4 → s.hk.gap1 = true → completes (.hkConversionSlot k) s (fun t => t.hk.busy = s.hk.busy ∧ t.hk.gap1 = false
          ∧ (s.brownOut = true → t.hk.staged = s.hk.staged ∧ nothing s t)
          ∧ (s.brownOut = false → t.hk.staged = [] ∧ (∀ a w, s.hk.staged = [(a, w)] → t.rd a = w ∧ onlyRegs s t [a]))))
      ∧ (∀ k : Fin 4, s.hkState ≠ 0 → (s.hkState = 4 → s.hk.gap1 = false) →
          let starts (i : Nat) (t : State) : Prop := Tbl.find t.hk.busy k = some i ∧ (t.hkRes i).started = (s.hkRes i).started + 1
          (s.subFree k = false → completes (.hkConversionSlot k) s (fun t => t = s))
            ∧ (s.subFree k = true → s.urgDue = true → completes (.hkConversionSlot k) s (fun t => starts 32 t ∧ nothing s t))
            ∧ (s.subFree k = true → s.urgDue = false → s.seqDue = true → completes (.hkConversionSlot k) s (fun t =>
                starts (s.hkf HKADC.HK_STAT.ENTRY) t ∧ onlyRegs s t [stat]))
            ∧ (s.subFree k = true → s.urgDue = false → s.seqDue = false → (s.hkState = 1 ∨ s.hkState = 4) → s.brownOut = false →
                s.bit pHKADC HKADC.HK_CTRL.CAL_EN = true → completes (.hkConversionSlot k) s (fun t => Tbl.find t.hk.busy k = some 33 ∧ nothing s t))
            ∧ (s.subFree k = true → s.urgDue = false → s.seqDue = false → ¬ ((s.hkState = 1 ∨ s.hkState = 4) ∧ s.bit pHKADC HKADC.HK_CTRL.CAL_EN = true) →
                s.refDue = true → completes (.hkConversionSlot k) s (fun t => Tbl.find t.hk.busy k = some 34 ∧ nothing s t)))
      ∧ (∀ (k : Fin 4) (vin vref : Int), s.hk.stop = false →
          (0 < vref → (s.hkConv vin vref).1.1 = (max 0 (min 4095 ((2 * 4096 * vin + vref) / (2 * vref)))).toNat) ∧ (s.hkConv vin vref).1.1 < 4096
            ∧ (Tbl.find s.hk.busy k = none → completes (.hkConversionDone k vin vref) s (fun t => t = s))
            ∧ (∀ i, Tbl.find s.hk.busy k = some i → i ≤ 32 →
                let c : Instr := .hkConversionDone k vin vref
                let code := (s.hkConv vin vref).1.1
                let x := s.hkRes i
                let ch := getBits (s.hkEntry i) 0 5
                let queued (t : State) : Prop := ∃ lo, t.hk.queue = s.hk.queue ++ [(lo, x.ns)] ∧ lo = t.rd (pHKADC + HKADC.HK_LAST + 4 * ch)
                (x.done + 1 < avgOf (s.hkEntry i) → completes c s (fun t => Tbl.find t.hk.busy k = none ∧ (t.hkRes i).sum = x.sum + code
                    ∧ (t.hkRes i).done = x.done + 1 ∧ t.hk.urg = s.hk.urg ∧ nothing s t))
                  ∧ (avgOf (s.hkEntry i) ≤ x.done + 1 → x.sum + code ≤ 4095 * avgOf (s.hkEntry i) → s.hk.queue.length < 256 → completes c s (fun t =>
                      Tbl.find t.hk.busy k = none ∧ onlyPage s t pHKADC
                        ∧ getBits (t.rd (pHKADC + HKADC.HK_LAST + 4 * ch)) 0 12 = mean i code
                        ∧ getBits (t.rd (pHKADC + HKADC.HK_LAST + 4 * ch)) 12 5 = ch
                        ∧ (i = 32 → queued t ∧ t.rd (pHKADC + HKADC.URG_RES) = t.rd (pHKADC + HKADC.HK_LAST + 4 * ch) ∧ t.hk.urg = none
                            ∧ t.bit pHKADC HKADC.HK_STAT.URG_PEND = false ∧ raised t HKADC.evURG_DONE 0)
                        ∧ (i < 32 → (getBits (s.hkEntry i) 16 1 = 0 → queued t) ∧ (getBits (s.hkEntry i) 16 1 = 1 → t.hk.queue = s.hk.queue))
                        ∧ (i < 32 → i = s.hkf HKADC.HK_CTRL.LAST → s.hkState = 3 → t.hkState = 4 ∧ t.hk.gap1 = true ∧ raised t HKADC.evSEQ_DONE 0)
                        ∧ (i < 32 → i ≠ s.hkf HKADC.HK_CTRL.LAST → t.hkState = s.hkState)))))
      ∧ (∀ r (ch : Fin 32) (ref : Fin 3) (avg : Fin 4), let v : Word := BitVec.ofNat 32 (ch.val + 32 * ref.val + 256 * avg.val)
          reaches s r 28 0 HKADC.URG_REQ v →
            (s.hk.urg = none → completes (.hkUrgentRequest r ch ref avg) s (fun t => t.hk.urg = some v ∧ t.bit pHKADC HKADC.HK_STAT.URG_PEND = true
                ∧ t.bit pHKADC HKADC.URG_RES.VALID = false ∧ onlyRegs s t [stat, pHKADC + HKADC.URG_RES]))
              ∧ (s.hk.urg ≠ none → completes (.hkUrgentRequest r ch ref avg) s (fun t => t.hk = s.hk ∧ raised t HKADC.evURG_OVR 0
                ∧ t.hkf HKADC.HK_OVR.URG = min (s.hkf HKADC.HK_OVR.URG + 1) 65535 ∧ onlyRegs s t [pHKADC + HKADC.HK_OVR, rawAt 28 0])))
      ∧ (∀ r, readable s r (pHKADC + HKADC.RQ_HI) →
          (∀ lo hi l, s.hk.queue = (lo, hi) :: l → completes (.hkRqPop r) s (fun t => answered t r = hi.toNat ∧ t.hk.queue = l ∧ nothing s t))
            ∧ (s.hk.queue = [] → completes (.hkRqPop r) s (fun t => answered t r = 0 ∧ t.hk.queue = [] ∧ nothing s t)))
      ∧ (∀ (k : Fin 4) (o g : BitVec 12), s.bit pHKADC HKADC.HK_CTRL.CAL_EN = true → s.brownOut = false → s.enabled pHKADC = true →
          s.bit pHKADC (bitAt HKADC.HK_STAT (24 + k)) = true →
          (o.toInt.natAbs ≤ 512 ∧ g.toInt.natAbs ≤ 200 → completes (.hkSubconvCalibrate k o g) s (fun t =>
              Tbl.find t.hk.staged (pHKADC + HKADC.SLC_CORR + 4 * k) = some (BitVec.ofNat 32 (o.toNat * 2 ^ 16 + g.toNat)) ∧ nothing s t))
            ∧ (512 < o.toInt.natAbs ∨ 200 < g.toInt.natAbs → completes (.hkSubconvCalibrate k o g) s (fun t =>
              t.bit pHKADC (bitAt HKADC.HK_STAT (24 + k)) = false ∧ raised t HKADC.evSLICE_FAULT 0 ∧ t.hk = s.hk ∧ onlyRegs s t [stat, rawAt 28 0])))
      ∧ (∀ ref : Fin 3, (s.hkf HKADC.HK_CTRL.REF_EN).testBit ref = true → completes (.hkRefSettled ref) s (fun t =>
          t.bit pHKADC (bitAt HKADC.HK_STAT (20 + ref)) = true
          ∧ ranTo s t (s.clockOf (clkHkRef ref) + settleTicks ref) ∧ onlyTimed s t [stat]))
      ∧ (s.bit pHKADC (bitAt HKADC.HK_STAT 21) = true → completes .hkVrefFault s (fun t => t.bit pHKADC (bitAt HKADC.HK_STAT 21) = false
          ∧ raised t HKADC.evREF_FAULT 0 ∧ onlyRegs s t [stat, rawAt 28 0]))
      ∧ ((s.hkf HKADC.HK_CTRL.REF_EN).testBit 1 = true → s.clockOf (clkHkRef 1) + 3125 ≤ s.tick → completes .vrefInRange s (fun t =>
          t.bit pHKADC (bitAt HKADC.HK_STAT 21) = true ∧ onlyRegs s t [stat]))

/-- EN cleared: the queue goes, the output ramps to code 0 and the channel enters HIZ; EN set again starts it at code 0 in DRIVE (14_housekeeping_converters.md R526).
For every channel not in HIZ whose EN bit is 1: a write that clears EN empties the queue; where the output is at code 0 already
(it stands there in SWITCH and HOLD0) or the limiter's STEP is 0 the channel is in HIZ, and otherwise it is in RAMP on its way
there with the output as it was. Each limiter tick of that ramp takes the output STEP codes nearer to code 0, and the tick that
reaches it leaves the channel in HIZ; no tick leaves it anywhere else. From HIZ, on an enabled page, a write that sets EN leaves
the channel in DRIVE with its output at code 0. No other register of the device changes but the channel's CD_CTRL and CD_STAT and
its bit of CD_SC, and at a tick, to which time runs, the clock's in TIME. -/
def Obligations.ControlDacDisableRampsAndEnableRestarts : Prop :=
  ∀ (s : State) (c : Fin 16),
    let regs := [pCDAC + CDAC.CD_CTRL + 16 * c.val, pCDAC + CDAC.CD_STAT + 16 * c.val, pCDAC + CDAC.CD_SC]
    let ctrl := s.rd (pCDAC + CDAC.CD_CTRL + 16 * c.val)
    let hiz (t : State) : Prop := t.cdState c = 0 ∧ t.cdOut c = 0
    let size (t : State) : Nat := (cdInt (t.cdSpan c) (t.cdOut c)).natAbs
    let step := s.fld pCDAC (cdf c CDAC.CD_SLEW.STEP)
    (∀ r, reaches s r 29 0 (CDAC.CD_CTRL + 16 * c.val) (ctrl &&& ~~~0x1) → getBits ctrl 16 10 ≤ 1000 → ctrl.getLsbD 0 = true → s.cdState c ≠ 0 →
        completes (.cdDisable r c) s (fun t => (t.cdSt c).queue = [] ∧ t.bit pCDAC (cdf c CDAC.CD_CTRL.EN) = false ∧ onlyRegs s t regs
          ∧ (3 ≤ s.cdState c ∨ s.cdOut c = 0 ∨ step = 0 → hiz t)
          ∧ (s.cdState c < 3 → s.cdOut c ≠ 0 → step ≠ 0 → t.cdState c = 2 ∧ t.cdOut c = s.cdOut c ∧ (t.cdSt c).target = 0
              ∧ (t.cdSt c).ending = true)))
      ∧ (s.cdState c = 2 → (s.cdSt c).target = 0 → (s.cdSt c).ending = true → step ≠ 0 → completes (.cdSlewTick c) s (fun t => onlyTimed s t regs
          ∧ (step < size s → size t = size s - step ∧ t.cdState c = 2 ∧ (t.cdSt c).target = 0 ∧ (t.cdSt c).ending = true)
          ∧ (size s ≤ step → hiz t)))
      ∧ (∀ r, reaches s r 29 0 (CDAC.CD_CTRL + 16 * c.val) (ctrl ||| 0x1) → getBits ctrl 16 10 ≤ 1000 → s.cdState c = 0 → s.enabled pCDAC = true →
          completes (.cdEnable r c) s (fun t => t.cdState c = 1 ∧ t.cdOut c = 0 ∧ t.bit pCDAC (cdf c CDAC.CD_CTRL.EN) = true ∧ onlyRegs s t regs))

/-- DAC queues, ticks, the slew limiter, span changes and shorts; PWM duties wait for the boundary, limits clamp, outputs start and stop (14_housekeeping_converters.md R511; 14_housekeeping_converters.md R522; 14_housekeeping_converters.md R523; 14_housekeeping_converters.md R524; 14_housekeeping_converters.md R525; 14_housekeeping_converters.md R527; 14_housekeeping_converters.md R528; 14_housekeeping_converters.md R529; 14_housekeeping_converters.md R530; 14_housekeeping_converters.md R532; log entry 35; log entry 103).
A span that is the field's own changes nothing but is stored; another takes effect at once in HIZ, and in DRIVE or HOLD0 discards
the queue, shows the number in FLUSHED (to 15) and begins the ramp, or SWITCH at code 0. Ticks, SWITCH's end, a lasting short, PWM
boundaries and edges run to their moments (log entry 103). SWITCH ends in HOLD0 with the new span. A code joins a queue of 16, or
is dropped with its OVF bit and QERR. An update tick in DRIVE or HOLD0 makes the oldest code the target; at an empty queue STREAM
sets UNDERRUN with QERR, and otherwise nothing happens. A limiter tick in DRIVE moves the output towards the target by at most
STEP. A short sets SC_NOW, the sticky bit and SHORT; lasting, with SC_HIZ, it leaves the channel in HIZ with EN 0 and no queue. A
PWM duty waits, with PER, for the boundary if the output runs; the boundary of an unpaired output takes both unless they came less
than 2 cycles before it, takes the limits, and raises CLAMP for a duty above DMAX; an output told to stop stops there. The trigger
edge that SRC names is a trigger. PWM_ENABLE starts an output with the last PER and DUTY; PWM_DISABLE stops it. -/
def Obligations.ControlDacAndPwmOutputs : Prop :=
  ∀ s : State,
    (∀ c : Fin 16,
      let at' (off : Nat) : Nat := pCDAC + off + 16 * c.val
      let ctrl := s.rd (at' CDAC.CD_CTRL)
      let x := s.cdSt c
      let step := s.fld pCDAC (cdf c CDAC.CD_SLEW.STEP)
      let v (t : State) : Int := cdInt (t.cdSpan c) (t.cdOut c)
      (∀ r (sp : Fin 4), reaches s r 29 0 (CDAC.CD_CTRL + 16 * c.val) (putBits ctrl 4 2 sp) → getBits ctrl 16 10 ≤ 1000 →
          let k : Instr := .cdSpanWrite r c sp
          (getBits ctrl 4 2 = sp → s.cdState c ≠ 0 → completes k s (fun t => t.cdState c = s.cdState c ∧ (t.cdSt c).queue = x.queue ∧ t.cdOut c = s.cdOut c
              ∧ (ctrl.getLsbD 0 = true → t.rd (at' CDAC.CD_CTRL) = ctrl ∧ t.cdSpan c = s.cdSpan c)))
            ∧ (getBits ctrl 4 2 ≠ sp → s.cdState c = 0 → ctrl.getLsbD 0 = false → completes k s (fun t => t.cdSpan c = sp ∧ t.cdState c = 0
                ∧ onlyRegs s t [at' CDAC.CD_CTRL, at' CDAC.CD_STAT]))
            ∧ (getBits ctrl 4 2 ≠ sp → (s.cdState c = 1 ∨ s.cdState c = 4) → ctrl.getLsbD 0 = true → x.ending = false → completes k s (fun t =>
                (t.cdSt c).queue = [] ∧ t.fld pCDAC (cdf c CDAC.CD_STAT.FLUSHED) = min 15 x.queue.length ∧ t.cdSpan c = s.cdSpan c
                  ∧ t.cdState c = (if s.cdOut c = 0 ∨ step = 0 then 3 else 2) ∧ t.cdOut c = (if step = 0 then 0 else s.cdOut c)
                  ∧ onlyRegs s t [at' CDAC.CD_CTRL, at' CDAC.CD_STAT])))
        ∧ (s.cdState c = 3 → completes (.cdSwitchEnd c) s (fun t => t.cdState c = 4 ∧ t.cdSpan c = s.fld pCDAC (cdf c CDAC.CD_CTRL.SPAN)
            ∧ ranTo s t (s.clockOf (clkCdSwitch c) + 6250) ∧ onlyTimed s t [at' CDAC.CD_STAT]))
        ∧ (∀ r (code : BitVec 14), reaches s r 29 0 (CDAC.CD_Q + 16 * c.val) (code.setWidth 32) →
            (x.queue.length < 16 → completes (.cdQueueWrite r c code) s (fun t => (t.cdSt c).queue = x.queue ++ [code.toNat]
                ∧ t.fld pCDAC (cdf c CDAC.CD_STAT.QCOUNT) = x.queue.length + 1 ∧ onlyRegs s t [at' CDAC.CD_STAT]))
              ∧ (16 ≤ x.queue.length → completes (.cdQueueWrite r c code) s (fun t => (t.cdSt c) = x ∧ t.bit pCDAC (bitAt CDAC.CD_QERR c) = true
                ∧ raised t CDAC.evQERR 0 ∧ onlyRegs s t [pCDAC + CDAC.CD_QERR, rawAt 29 0])))
        ∧ ((s.cdState c = 1 ∨ s.cdState c = 4) →
            let due := s.clockOf (clkCdUpd c) + 625 * max 1 (s.fld pCDAC (cdf c CDAC.CD_CTRL.UPD_DIV))
            (∀ q l, x.queue = q :: l → q < 2 ^ 14 → completes (.cdUpdateTick c) s (fun t => (t.cdSt c).queue = l ∧ (t.cdSt c).target = q ∧ t.cdState c = 1
                ∧ t.cdOut c = (if step = 0 then q else s.cdOut c) ∧ ranTo s t due ∧ t.clockOf (clkCdUpd c) = due ∧ onlyTimed s t [at' CDAC.CD_STAT]))
              ∧ (x.queue = [] → x.play = false → s.bit pCDAC (cdf c CDAC.CD_CTRL.STREAM) = true → completes (.cdUpdateTick c) s (fun t =>
                  t.bit pCDAC (bitAt CDAC.CD_QERR (16 + c)) = true ∧ raised t CDAC.evQERR 0 ∧ t.cd = s.cd
                    ∧ ranTo s t due ∧ onlyTimed s t [pCDAC + CDAC.CD_QERR, rawAt 29 0]))
              ∧ (x.queue = [] → x.play = false → s.bit pCDAC (cdf c CDAC.CD_CTRL.STREAM) = false → completes (.cdUpdateTick c) s (fun t => t.cd = s.cd
                  ∧ ranTo s t due ∧ onlyTimed s t [])))
        ∧ (s.cdState c = 1 → step ≠ 0 → completes (.cdSlewTick c) s (fun t => onlyTimed s t [at' CDAC.CD_STAT] ∧ t.cdState c = 1
            ∧ ranTo s t (s.clockOf (clkCdSlew c) + 625 * max 1 (s.fld pCDAC (cdf c CDAC.CD_SLEW.SLEW_DIV)))
            ∧ let b := cdInt (s.cdSpan c) x.target
              v t = if v s < b then min b (v s + step) else max b (v s - step)))
        ∧ (∀ lim : BitVec 16, s.cdState c ≠ 0 → completes (.cdShort c lim) s (fun t => t.bit pCDAC (bitAt CDAC.CD_SC c) = true
            ∧ t.bit pCDAC (bitAt CDAC.CD_SCF c) = true ∧ raised t CDAC.evSHORT 0 ∧ t.cd = s.cd
            ∧ onlyRegs s t [pCDAC + CDAC.CD_SC, pCDAC + CDAC.CD_SCF, rawAt 29 0]))
        ∧ (s.bit pCDAC (bitAt CDAC.CD_SC c) = true → s.bit pCDAC (cdf c CDAC.CD_CTRL.SC_HIZ) = true → completes (.cdShortHiz c) s (fun t =>
            t.cdState c = 0 ∧ t.cdOut c = 0 ∧ (t.cdSt c).queue = [] ∧ t.bit pCDAC (cdf c CDAC.CD_CTRL.EN) = false
              ∧ ranTo s t (s.clockOf (clkCdShort c) + 6250)
              ∧ onlyTimed s t [at' CDAC.CD_CTRL, at' CDAC.CD_STAT, pCDAC + CDAC.CD_SC])))
      ∧ (∀ k : Fin 4,
          let x := s.pwSt k
          let alone : Prop := s.pwPair k = false ∧ (s.pwSt (k.val / 2 * 2)).pair = false
          let pwm (t : State) : Prop := onlyPage s t pPWM
          let due := s.clockOf (clkPwm k) + 4 * x.per
          let late : Prop := due < s.clockOf (clkDuty k) + 8
          (∀ r (d : BitVec 16), reaches s r 30 0 (PWM.PW_DUTY + 16 * k.val) (d.setWidth 32) → completes (.pwmDutyWrite r k d) s (fun t =>
              t.fld pPWM (pwf k PWM.PW_DUTY.V) = d.toNat ∧ onlyRegs s t [pPWM + PWM.PW_DUTY + 16 * k.val]
                ∧ (s.pwRuns k = true → (t.pwSt k) = { x with next := some (s.fld pPWM (pwf k PWM.PW_PER.V), d.toNat) })
                ∧ (s.pwRuns k = false → t.pw = s.pw)))
            ∧ (alone → s.pwRuns k = true →
                (x.stop = true → completes (.pwmPeriodBoundary k) s (fun t => t.pwRuns k = false ∧ ranTo s t due ∧ onlyTimed s t [pPWM + PWM.PW_STAT]))
                  ∧ (∀ p d, x.stop = false → x.next = some (p, d) → completes (.pwmPeriodBoundary k) s (fun t => onlyPages s t [pPWM, pTIME]
                      ∧ ranTo s t due ∧ t.clockOf (clkPwm k) = due ∧ t.pwRuns k = true
                      ∧ (¬ late → (t.pwSt k).per = p ∧ (t.pwSt k).duty = d ∧ (t.pwSt k).next = none)
                      ∧ (late → (t.pwSt k).per = x.per ∧ (t.pwSt k).duty = x.duty ∧ (t.pwSt k).next = some (p, d))
                      ∧ (t.pwSt k).dmax = s.fld pPWM (pwf k PWM.PW_LIM.DMAX) ∧ (t.pwSt k).dead = s.fld pPWM (pwf k PWM.PW_LIM.DEAD)
                      ∧ ((t.pwSt k).dmax < (t.pwSt k).duty → t.bit pPWM (bitAt PWM.PW_FLAGS k) = true
                          ∧ (s.bit pPWM (bitAt PWM.PW_FLAGS k) = false → raised t PWM.evCLAMP 0)))))
            ∧ (alone → s.pwRuns k = true → s.bit pPWM (pwf k PWM.PW_TRIG.TRIG_EN) = true → x.trig < x.per → s.hkf HKADC.HK_TRIG.SRC = 5 + k →
                s.hkState = 1 → completes (.pwmTriggerEdge k) s (fun t => t.hkState = 2 ∧ onlyTimed s t [pHKADC + HKADC.HK_STAT]
                  ∧ (s.clockOf (clkPwm k) ≤ s.tick → t.pwCount k = x.trig)))
            ∧ (s.hkf HKADC.HK_TRIG.SRC ≠ 5 + k → completes (.pwmTriggerEdge k) s (fun t => t.hk = s.hk ∧ t.pw = s.pw ∧ onlyTimed s t []))
            ∧ (∀ r, reaches s r 30 0 PWM.PW_CTRL (s.rd (pPWM + PWM.PW_CTRL) ||| BitVec.ofNat 32 (2 ^ k.val)) → alone → s.pwRuns k = false →
                s.enabled pPWM = true → completes (.pwmEnable r k) s (fun t => t.pwRuns k = true ∧ pwm t ∧ (t.pwSt k).next = none
                  ∧ (t.pwSt k).per = s.fld pPWM (pwf k PWM.PW_PER.V) ∧ (t.pwSt k).duty = s.fld pPWM (pwf k PWM.PW_DUTY.V)))
            ∧ (∀ r, reaches s r 30 0 PWM.PW_CTRL (s.rd (pPWM + PWM.PW_CTRL) &&& ~~~(BitVec.ofNat 32 (2 ^ k.val))) → alone →
                completes (.pwmDisable r k) s (fun t => t.pwRuns k = false ∧ pwm t)))

/-- Downloads run or are stored, ACTIVATE stages, TRIAL is confirmed or reverted, the watchdog restarts or reverts, READY ends a start (15_startup_firmware_lifecycle.md R549; 15_startup_firmware_lifecycle.md R551; 15_startup_firmware_lifecycle.md R552; 15_startup_firmware_lifecycle.md R555; 15_startup_firmware_lifecycle.md R557; 15_startup_firmware_lifecycle.md R558; 15_startup_firmware_lifecycle.md R560; 15_startup_firmware_lifecycle.md R561; 15_startup_firmware_lifecycle.md R565; 15_startup_firmware_lifecycle.md R566; log entry 38; log entry 103).
Any command in STAGING, LOADING or REVERTING, and ACTIVATE outside STORED, is refused and changes nothing of this. DL_DONE: a
waiting ROM runs an accepted container (stage 2, the core at ENTRY, HOST_LOAD 0) or rejects it with its ERR; running firmware in
IDLE or STORED begins STORING, or under the brown-out warning ends IDLE with ERR 8. The end of storing leaves STORED with the
container in the inactive bank, or IDLE with ERR and IMG_REJECT, the bank emptied where it was written. ACTIVATE of a bank that is
accepted copies it into the spare working area, makes it active on TRIAL, and resets the supervisor in STAGING; a brown-out or a
bad bank leaves STORED with ACT_FAIL. CONFIRM in TRIAL ends the trial; REVERT and the time-out (time runs to it, log entry 103)
return to PREV, or end IDLE with ACT_FAIL; elsewhere they do nothing. The watchdog counts, and resets the supervisor, or at WD_LIM
starts the other bank, or halts. The reset's end takes an accepted working image to stage 3, LOADING from STAGING. READY, every
engine released, is stage 5 with BOOT_DONE and the trim values loaded; LOADING becomes TRIAL with ACT_DONE, REVERTING IDLE. -/
def Obligations.FirmwareDownloadsAndActivation : Prop :=
  ∀ s : State,
    let f := s.boot.flash
    let err (t : State) : Nat := t.fld pSUP SUP.SUP_STAT.ERR
    let statOnly (t : State) : Prop := onlyRegs s t [pSUP + SUP.SUP_STAT, rawAt 0 0]
    let free : Prop := s.act ≠ 3 ∧ s.act ≠ 4 ∧ s.act ≠ 6
    let refused (c : Instr) : Prop := completes c s (fun t => t.boot = s.boot ∧ t.act = s.act ∧ t.pwr = s.pwr ∧ memSame s t)
    let supDown (t : State) : Prop := t.pwr.groups = s.pwr.groups ++ [40] ∧ t.bit pRST RST.GRP_STAT.BUSY = true ∧ t.core supId = coreReset supId
    let rejected (v : Nat) (t : State) : Prop := err t = v ∧ raised t SUP.evIMG_REJECT 0
    let staged (b : Nat) (trial : Bool) (t : State) : Prop := t.boot.flash.active = b ∧ t.boot.flash.prev = f.active ∧ t.boot.flash.trial = trial
      ∧ t.boot.work = some s.spareWork ∧ supDown t
      ∧ ∀ i, i < leAt (f.bank b) 8 4 → t.byte (s.spareWork + i) = (f.bank b)[i]?
    let reverted (c : Instr) (after : State → Prop) : Prop :=
      (s.act = 5 → s.accept (f.bank f.prev) = 0 → completes c s (fun t => t.act = 6 ∧ staged f.prev false t ∧ after t))
        ∧ (s.act = 5 → s.accept (f.bank f.prev) ≠ 0 → completes c s (fun t => t.act = 0 ∧ rejected (s.accept (f.bank f.prev)) t
            ∧ raised t SUP.evACT_FAIL 0 ∧ raised t SUP.evBANK_FALLBACK 0 ∧ t.boot = s.boot ∧ onlyTimed s t [pSUP + SUP.SUP_STAT, rawAt 0 0] ∧ after t))
        ∧ (free → s.act ≠ 5 → completes c s (fun t => t.boot = s.boot ∧ nothing s t))
    (∀ r, reaches s r 0 0 SUP.SUP_CMD 0x1 →
        let l := s.dlBytes.take (leAt s.dlBytes 8 4)
        let v := s.accept s.dlBytes
        let host := s.bit pSUP SUP.SUP_STAT.HOST_LOAD
        let fw : Prop := 2 ≤ s.stage ∧ s.stage ≤ 5 ∧ (s.act = 0 ∨ s.act = 2)
        (¬ free → refused (.dlDone r))
          ∧ (free → host = true → v = 0 → completes (.dlDone r) s (fun t => t.stage = 2 ∧ t.bit pSUP SUP.SUP_STAT.HOST_LOAD = false ∧ err t = 0
              ∧ t.rd (pSUP + SUP.FW_VERSION) = BitVec.ofNat 32 (leAt l 12 4) ∧ t.boot.work = some 0x40000000
              ∧ t.core supId = { coreReset supId with pc := BitVec.ofNat 32 (leAt l 28 4) }))
          ∧ (free → host = true → v ≠ 0 → completes (.dlDone r) s (fun t => rejected v t ∧ t.boot = s.boot ∧ statOnly t))
          ∧ (free → host = false → fw → s.brownOut = false → completes (.dlDone r) s (fun t => t.act = 1 ∧ t.boot = s.boot ∧ statOnly t))
          ∧ (free → host = false → fw → s.brownOut = true → completes (.dlDone r) s (fun t => t.act = 0 ∧ rejected 8 t ∧ t.boot = s.boot ∧ statOnly t))
          ∧ (free → host = false → ¬ fw → completes (.dlDone r) s (fun t => t.boot = s.boot ∧ nothing s t)))
      ∧ (∀ r, reaches s r 0 0 SUP.SUP_CMD 0x2 →
          let b := 1 - f.active
          (s.act ≠ 2 → refused (.fwActivate r))
            ∧ (s.act = 2 → s.brownOut = true → completes (.fwActivate r) s (fun t => t.act = 2 ∧ raised t SUP.evACT_FAIL 0 ∧ t.boot = s.boot ∧ statOnly t))
            ∧ (s.act = 2 → s.brownOut = false → s.accept (f.bank b) ≠ 0 → completes (.fwActivate r) s (fun t => t.act = 2 ∧ raised t SUP.evACT_FAIL 0
                ∧ rejected (s.accept (f.bank b)) t ∧ t.boot = s.boot ∧ statOnly t))
            ∧ (s.act = 2 → s.brownOut = false → s.accept (f.bank b) = 0 → completes (.fwActivate r) s (fun t => t.act = 3 ∧ staged b true t)))
      ∧ (∀ r, reaches s r 0 0 SUP.SUP_CMD 0x4 →
          (s.act = 5 → s.brownOut = false → completes (.fwConfirm r) s (fun t => t.act = 0 ∧ t.boot.flash = { f with trial := false, seq := (f.seq + 1) % 2 ^ 32 }
              ∧ t.bit pSUP SUP.SUP_STAT.TRIAL = false ∧ statOnly t))
            ∧ (free → (s.act ≠ 5 ∨ s.brownOut = true) → completes (.fwConfirm r) s (fun t => t.boot = s.boot ∧ nothing s t))
            ∧ (¬ free → refused (.fwConfirm r)))
      ∧ (∀ r, reaches s r 0 0 SUP.SUP_CMD 0x8 → reverted (.fwRevert r) (fun t => t.tick = s.tick ∧ t.time = s.time) ∧ (¬ free → refused (.fwRevert r)))
      ∧ reverted .trialTimeout (fun t => ranTo s t (s.clockOf clkTrial + 625000000 * max 1 (s.fld pSUP SUP.TRIAL_TMO.V)))
      ∧ (∀ bad : Bool, s.act = 1 →
          let work := s.storeWork s.dlBytes (f.bank f.active)
          let other (t : State) : List Byte := t.boot.flash.bank (1 - f.active)
          (∀ l, work = .image l → bad = false → completes (.imageStoreDone bad) s (fun t => t.act = 2 ∧ other t = l
              ∧ t.boot.flash.bank f.active = f.bank f.active ∧ statOnly t))
            ∧ (∀ l, work = .image l → bad = true → completes (.imageStoreDone bad) s (fun t => t.act = 0 ∧ other t = [] ∧ rejected 8 t
                ∧ raised t SUP.evFLASH_ERR 0 ∧ statOnly t))
            ∧ (∀ e w, work = .fail e w → e < 16 → completes (.imageStoreDone bad) s (fun t => t.act = 0 ∧ rejected e t ∧ statOnly t
                ∧ other t = if w then [] else f.bank (1 - f.active))))
      ∧ (s.wdOn = true → let b := 1 - f.active
          let counted (t : State) : Prop := ranTo s t (s.clockOf clkWdog + 625000 * s.fld pSUP SUP.WD_CFG.TIMEOUT)
            ∧ t.fld pSUP SUP.SUP_STAT.WD_CNT = min (s.fld pSUP SUP.SUP_STAT.WD_CNT + 1) 255
          (s.boot.wdRun + 1 < s.wdLim → completes .supWatchdog s (fun t => counted t ∧ supDown t ∧ t.stage = 0 ∧ t.boot.wdRun = s.boot.wdRun + 1
              ∧ t.boot.flash = f ∧ memSame s t))
            ∧ (s.wdLim ≤ s.boot.wdRun + 1 → s.accept (f.bank b) = 0 → completes .supWatchdog s (fun t => counted t ∧ t.act = 6 ∧ staged b false t))
            ∧ (s.wdLim ≤ s.boot.wdRun + 1 → s.accept (f.bank b) ≠ 0 → completes .supWatchdog s (fun t => counted t ∧ t.act = 0 ∧ t.stage = 6
                ∧ t.bit pSUP SUP.SUP_STAT.HOST_LOAD = true ∧ rejected (s.accept (f.bank b)) t ∧ supDown t ∧ t.boot.flash = f)))
      ∧ (∀ base, 40 ∈ s.pwr.groups → s.stage = 0 → s.boot.work = some base → s.accept (s.containerAt base) = 0 → completes .groupResetDone s (fun t =>
          t.stage = 3 ∧ t.pwr.groups = [] ∧ raised t RST.evGRP_DONE 0 ∧ t.act = (if s.act = 3 then 4 else s.act)
            ∧ t.core supId = { coreReset supId with pc := BitVec.ofNat 32 (leAt (s.containerAt base) 28 4) }))
      ∧ (∀ items, 2 ≤ s.stage → s.stage ≤ 4 → (s.slave = true ∨ s.casc.loading = none) →
          (∀ k, k < 256 → s.hasCluster (k / 16) = true → s.coreState k ≠ 0) → completes (.bootDone items) s (fun t =>
          t.stage = 5 ∧ t.rd (pSUP + SUP.BOOT_TIME) = BitVec.ofNat 32 ((s.tick - s.clockOf clkBoot) / 625000)
            ∧ t.rd (pCAL + CAL.BG_TRIM) = f.bgTrim.getD (Config.fusedBgTrim.setWidth 32)
            ∧ (∀ c, c < 16 → t.rd (pCDAC + CDAC.CD_TRIM + 4 * c) = Config.fusedCdTrim c) ∧ raised t SUP.evBOOT_DONE 0 ∧ t.boot.wdRun = 0 ∧ memSame s t
            ∧ t.act = (if s.act = 4 then 5 else if s.act = 6 then 0 else s.act) ∧ (s.act = 4 → raised t SUP.evACT_DONE 0)
            ∧ (∀ v, s.boot.settings = some v → t.boot.flash.setVer = v ∧ (v ≠ f.setVer → raised t SUP.evSETTINGS_RESET 0))
            ∧ t.casc.loading = none))

/-- Challenges sign or end NO_KEY, the certificate locks, the life cycle moves by its conditions, fuses are verified, self-tests end (13_power_clocks_thermal.md R484; 15_startup_firmware_lifecycle.md R571; 15_startup_firmware_lifecycle.md R572; 15_startup_firmware_lifecycle.md R573; 15_startup_firmware_lifecycle.md R574; 15_startup_firmware_lifecycle.md R575; 15_startup_firmware_lifecycle.md R576; 15_startup_firmware_lifecycle.md R577; 15_startup_firmware_lifecycle.md R578; 15_startup_firmware_lifecycle.md R587; log entry 39; log entry 102).
SIGN of an idle unit is busy with a key and ends NO_KEY with CH_REFUSED without; its end shows a signature of the challenge with
CH_DONE, its nonce free (log entry 102). CERT_LEN is taken once, in PROVISIONED, up to 1,024. A transition with the key is taken
where R573 allows it, a fuse write begins; otherwise LAST shows what bars it with LCS_REFUSED; without the key nothing happens. A
fuse write is good if the first margin read is, or the second outside a brown-out: it then moves the state (LCS_CHANGE, LAST 0),
the security version or the repair; else FUSE_FAIL, LAST 5; under a brown-out LAST is 4. SECVER_CMD takes a greater value up to 32
from the supervisor alone. A repair is fused in MANUFACTURE and RETURNED for a soft repair with a free entry, else refused. A
self-test begins where R574 permits it and nothing bars it, ends NOT_ALLOWED or REFUSED otherwise, and is ignored while another
runs; ABORT ends it ABORTED; its end is PASS or FAIL by the signature, the failing slices or the reference, and an SRAM march
leaves its instance zeroed. -/
def Obligations.IdentityLifeCycleFusesAndSelfTest : Prop :=
  ∀ s : State,
    let ch := pID + ID.CH_STAT
    let bt (t : State) : Word := t.rd (pBIST + BIST.BT_STAT)
    let refused (c : Instr) : Prop := completes c s (fun t => t.boot = s.boot ∧ t.lcs = s.lcs ∧ memSame s t
      ∧ t.rd (pID + ID.CERT_LEN) = s.rd (pID + ID.CERT_LEN))
    (∀ r, reaches s r 7 0 ID.CH_CMD 0x1 →
        (s.bit pID ID.CH_STAT.BUSY = true → completes (.chSign r) s (nothing s))
          ∧ (s.bit pID ID.CH_STAT.BUSY = false → s.keyHere = true → completes (.chSign r) s (fun t => t.rd ch = 0x40000000 ∧ onlyRegs s t [ch]))
          ∧ (s.bit pID ID.CH_STAT.BUSY = false → s.keyHere = false → completes (.chSign r) s (fun t => t.rd ch = 0x80000001
              ∧ raised t ID.evCH_REFUSED 0 ∧ onlyRegs s t [ch, rawAt 7 0])))
      ∧ (s.bit pID ID.CH_STAT.BUSY = true →
          (s.keyHere = true → completes .chSignDone s (fun t => t.rd ch = 0x80000000 ∧ raised t ID.evCH_DONE 0 ∧ onlyPage s t pID
              ∧ ∃ k, 0 < k ∧ k < ecN ∧ let sig := ecSign s.boot.key k (beNat (sha256 s.challenge))
                ∀ i, i < 8 → t.rd (pID + ID.SIG_A + 4 * i) = BitVec.ofNat 32 (sig.1 / 2 ^ (32 * (7 - i)))
                  ∧ t.rd (pID + ID.SIG_B + 4 * i) = BitVec.ofNat 32 (sig.2 / 2 ^ (32 * (7 - i)))))
            ∧ (s.keyHere = false → completes .chSignDone s (fun t => t.rd ch = 0x80000001 ∧ raised t ID.evCH_REFUSED 0
                ∧ onlyRegs s t [ch, rawAt 7 0])))
      ∧ (∀ r (v : BitVec 11), reaches s r 7 0 ID.CERT_LEN (v.setWidth 32) →
          let ok : Prop := s.lcs = 1 ∧ s.rd (pID + ID.CERT_LEN) = 0 ∧ v.toNat ≤ 1024
          (ok → completes (.certLenWrite r v) s (fun t => t.rd (pID + ID.CERT_LEN) = v.setWidth 32 ∧ onlyRegs s t [pID + ID.CERT_LEN]))
            ∧ (¬ ok → refused (.certLenWrite r v)))
      ∧ (s.lcsBar 1 = 0 ↔ s.lcs = 0 ∧ Config.devId ≠ 0) ∧ (s.lcsBar 2 = 0 ↔ s.lcs = 1 ∧ s.rd (pID + ID.CERT_LEN) ≠ 0)
      ∧ (s.lcsBar 3 = 0 ↔ s.lcs = 2 ∧ s.tokenOk = true) ∧ (s.lcsBar 4 = 0 ↔ s.lcs ≠ 4)
      ∧ (∀ r (key : Byte) (n : Nat) (c : Instr),
          (n = 1 ∧ c = .lcsToProvisioned r key) ∨ (n = 2 ∧ c = .lcsToDeployed r key) ∨ (n = 3 ∧ c = .lcsToReturned r key)
            ∨ (n = 4 ∧ c = .lcsToScrapped r key) →
          reaches s r 4 0 LCS.LCS_CMD (BitVec.ofNat 32 (256 * key.toNat + n)) →
          let no (last : Nat) (t : State) : Prop := t.fld pLCS LCS.LCS_STAT.LAST = last ∧ raised t LCS.evLCS_REFUSED 0 ∧ t.boot = s.boot
            ∧ t.lcs = s.lcs ∧ onlyPage s t pLCS
          (key ≠ 0x5A → completes c s (fun t => t.boot = s.boot ∧ nothing s t))
            ∧ (key = 0x5A → s.lcsBar n ≠ 0 → completes c s (no (s.lcsBar n)))
            ∧ (key = 0x5A → s.lcsBar n = 0 → s.brownOut = true → completes c s (no 4))
            ∧ (key = 0x5A → s.lcsBar n = 0 → s.brownOut = false → s.boot.fuse ≠ none → completes c s (no 2))
            ∧ (key = 0x5A → s.lcsBar n = 0 → s.brownOut = false → s.boot.fuse = none → completes c s (fun t => t.boot.fuse = some (.lcs n)
                ∧ t.lcs = s.lcs ∧ nothing s t)))
      ∧ (∀ r1 r2 op, s.boot.fuse = some op →
          let ok := r1 || (r2 && !s.brownOut)
          let c : Instr := .fuseWriteDone r1 r2
          let failed (t : State) : Prop := s.brownOut = false → raised t LCS.evFUSE_FAIL 0
          (∀ n, op = .lcs n → n < 8 → completes c s (fun t => t.boot.fuse = none ∧ onlyPages s t [pLCS, pID]
              ∧ t.lcs = (if ok then n else s.lcs) ∧ t.fld pLCS LCS.LCS_STAT.LAST = (if s.brownOut then 4 else if ok then 0 else 5)
              ∧ (ok = true → raised t LCS.evLCS_CHANGE 0 ∧ (n = 1 → t.keyHere = true) ∧ (n = 4 → t.keyHere = false))
              ∧ (ok = false → failed t ∧ (s.brownOut = true → raised t LCS.evLCS_REFUSED 0))))
            ∧ (∀ v, op = .secver v → v < 64 → completes c s (fun t => t.boot.fuse = none
                ∧ t.fld pLCS LCS.SECVER_FUSE.V = (if ok then v else s.fld pLCS LCS.SECVER_FUSE.V) ∧ (ok = false → failed t)
                ∧ onlyRegs s t [pLCS + LCS.SECVER_FUSE, rawAt 4 0]))
            ∧ (∀ i row sp, op = .repair i row sp → completes c s (fun t => t.boot.fuse = none
                ∧ (ok = true → Tbl.find t.boot.fused sp = some row ∧ raised t BIST.evREPAIR_FUSED 0)
                ∧ (ok = false → t.boot.fused = s.boot.fused ∧ failed t) ∧ onlyRegs s t [rawAt 31 0, rawAt 4 0])))
      ∧ (∀ r (v : BitVec 6), reaches s r 4 0 LCS.SECVER_CMD (v.setWidth 32) →
          let ok : Prop := s.fld pLCS LCS.SECVER_FUSE.V < v.toNat ∧ v.toNat ≤ 32 ∧ s.brownOut = false ∧ s.boot.fuse = none
          (s.master r = 2 → ok → completes (.secverAdvance r v) s (fun t => t.boot.fuse = some (.secver v.toNat) ∧ nothing s t))
            ∧ (s.master r = 2 → ¬ ok → completes (.secverAdvance r v) s (fun t => t.boot = s.boot ∧ nothing s t))
            ∧ (s.master r ≠ 2 → refused (.secverAdvance r v)))
      ∧ (∀ r, reaches s r 31 0 BIST.FRPR_CMD 0x1 →
          (∀ i row sp, s.lcsOpen = true → s.boot.fuse = none → s.frprSpare = (i, row, some sp) → Tbl.find s.boot.fused sp = none →
              (if i = 0 then s.fusedDram < 32 else s.fusedSram < 16) → s.brownOut = false → completes (.fuseRepair r) s (fun t =>
                t.boot.fuse = some (.repair i row sp) ∧ nothing s t))
            ∧ (s.lcsOpen = false ∨ s.boot.fuse ≠ none ∨ s.frprSpare.2.2 = none → refused (.fuseRepair r)))
      ∧ (∀ r (x : BitVec 6) (n m : Nat) (c : Instr),
          (n = 1 ∧ m = 0 ∧ c = .bistRom r) ∨ (n = 2 ∧ m = x.toNat ∧ c = .bistLogic r x) ∨ (n = 3 ∧ m = x.toNat ∧ c = .bistSramMarch r x)
            ∨ (n = 4 ∧ m = x.toNat ∧ c = .bistDramMarch r x) ∨ (n = 5 ∧ m = x.toNat ∧ c = .bistAnaLoop r x)
            ∨ (n = 6 ∧ m = x.toNat ∧ c = .bistHostLoop r x) ∨ (n = 7 ∧ m = 0 ∧ c = .bistRef r) →
          reaches s r 31 0 BIST.BT_CMD (BitVec.ofNat 32 (0x10000 + 256 * m + n)) →
          let over' (w : Word) (t : State) : Prop := bt t = w ∧ raised t BIST.evBIST_FAIL 0 ∧ t.boot.bist = none
            ∧ onlyRegs s t [pBIST + BIST.BT_STAT, rawAt 31 0]
          (s.boot.bist = none → s.bistAllowed n = true → s.bistBarred n m = false → completes c s (fun t => t.boot.bist = some (n, m)
              ∧ bt t = 0x40000000 ∧ onlyRegs s t [pBIST + BIST.BT_STAT]))
            ∧ (s.boot.bist = none → s.bistAllowed n = false → completes c s (over' 0x84000000))
            ∧ (s.boot.bist = none → s.bistAllowed n = true → s.bistBarred n m = true → completes c s (over' 0x82000000))
            ∧ (s.boot.bist ≠ none → completes c s (fun t => t.boot = s.boot ∧ nothing s t)))
      ∧ (∀ r, reaches s r 31 0 BIST.BT_CMD 0x20000 →
          (s.boot.bist ≠ none → completes (.bistAbort r) s (fun t => t.boot.bist = none ∧ bt t = 0x83000000 ∧ raised t BIST.evBIST_FAIL 0))
            ∧ (s.boot.bist = none → completes (.bistAbort r) s (fun t => t.boot = s.boot ∧ nothing s t)))
      ∧ (∀ n m sig rows (rx tx : List (Nat × Int)) ref, s.boot.bist = some (n, m) → 1 ≤ n → n ≤ 7 →
          let pass : Prop := if n = 1 then sig = Config.romSig else if n ≤ 4 then sig = s.rd (pBIST + BIST.EXP_HI) ++ s.rd (pBIST + BIST.EXP_LO)
            else if n ≤ 6 then ∀ e ∈ rx ++ tx, 240 ≤ e.1 ∧ e.2.natAbs ≤ 24000 else ref = true
          completes (.bistTestDone sig rows rx tx ref) s (fun t => t.boot.bist = none
            ∧ (pass → bt t = 0x80000000 ∧ raised t BIST.evBIST_DONE 0) ∧ (¬ pass → bt t = 0x81000000 ∧ raised t BIST.evBIST_FAIL 0)
            ∧ (n ≤ 4 → t.rd (pBIST + BIST.SIG_HI) ++ t.rd (pBIST + BIST.SIG_LO) = sig)
            ∧ (n = 5 ∨ n = 6 → t.fld pBIST BIST.ANA_RES.V = (rx ++ tx).foldl (fun m e => min m e.1) 1023
                ∧ (∀ i, i < 17 → ((t.rd (pBIST + BIST.ANA_RX)).getLsbD i = true ↔ ∃ e, rx[i]? = some e ∧ (e.1 < 240 ∨ 24000 < e.2.natAbs)))
                ∧ (∀ i, i < 17 → ((t.rd (pBIST + BIST.ANA_TX)).getLsbD i = true ↔ ∃ e, tx[i]? = some e ∧ (e.1 < 240 ∨ 24000 < e.2.natAbs)))
                ∧ onlyPage s t pBIST)
            ∧ (n = 3 → 8 ≤ m → m < 56 → (m - 8) % 3 = 0 → ∀ idx, idx < s.instWords m → t.number (devAddr m idx) 8 = some 0)))

/-- A cascade frame in order acts and is answered, a bad CRC only counts, HELLO brings the link up, a missing ACK resends or takes it down (09_time.md R344; 13_power_clocks_thermal.md R468; 15_startup_firmware_lifecycle.md R564; 15_startup_firmware_lifecycle.md R567; 15_startup_firmware_lifecycle.md R568; 15_startup_firmware_lifecycle.md R569; 15_startup_firmware_lifecycle.md R570; 15_startup_firmware_lifecycle.md R586; 12_control_plane.md R628; log entry 36; log entry 103).
While the link may not carry frames none does anything; a frame whose CRC fails, with none unacknowledged, only counts in
CNT_LINK. In order, over a link that is up, with nothing waiting and CREDIT given: WR to a register lands and RD reads one,
answered by an RSP of STATUS 0 under the frame's TAG, for RD with the word; RSP ends the transaction of its TAG, here one of the
MDIO window with the word read, and on a master the load it answers; LOAD stores whole code words in the slave's DRAM and on a
master nothing; GO on a slave in its ROM starts the container in the DL area if it is accepted, and rejects it otherwise with
STATUS 8; EVT with INT_A asserted raises PEER_INT on the master; TIME sets the slave's counter, QUALITY and increment; WARM begins
the slave's warm reset with cause 2. HELLO after the device's own shows the peer and brings the link up with CASC_UP, and a
changed boot count raises PEER_RESTART; repeated over the same link it changes nothing. 20 µs without ACK resend what is
unacknowledged and count it, and the sixteenth in a row takes the link down with CASC_DOWN. The slave with a pin asserted sends
EVT with both levels. -/
def Obligations.CascadeFrames : Prop :=
  (∀ (s : State) (c : CFrame → Word → Instr) (n : Nat) (f : CFrame) (crc : Word),
      (n = 1 ∧ c = .cascWr) ∨ (n = 2 ∧ c = .cascRd) ∨ (n = 3 ∧ c = .cascRsp) ∨ (n = 4 ∧ c = .cascLoad) ∨ (n = 5 ∧ c = .cascGo)
        ∨ (n = 6 ∧ c = .cascHello) ∨ (n = 7 ∧ c = .cascEvt) ∨ (n = 8 ∧ c = .cascTime) ∨ (n = 9 ∧ c = .cascWarm) →
      (s.cascOn = false → completes (c f crc) s (fun t => t = s))
        ∧ (s.cascOn = true → crc.toNat ≠ crc32 (frameBytes { f with type := n }) → s.casc.unacked = [] → completes (c f crc) s (fun t =>
            t.casc = s.casc ∧ t.fld pCASC CASC.CNT_LINK.CRC = min (s.fld pCASC CASC.CNT_LINK.CRC + 1) 65535
              ∧ onlyRegs s t [pCASC + CASC.CNT_LINK])))
    ∧ (∀ (s : State) (f : CFrame) (crc : Word), s.cascOn = true → s.casc.unacked = [] → s.casc.waiting = [] → f.credit ≠ 0 → s.latchOpen = false →
        let good (n : Nat) : Prop := crc.toNat = crc32 (frameBytes { f with type := n })
        let next (n : Nat) : Prop := good n ∧ s.linkUp = true ∧ (f.seq + 256 - s.casc.rxSeq) % 256 = 0
        let answered' (t : State) (status : Nat) (l : List Byte) : Prop := ∃ g : CFrame, t.casc.sent = s.casc.sent ++ [g] ∧ g.type = 3
          ∧ g.tag = f.tag ∧ g.status = status ∧ g.payload = l ∧ t.casc.unacked = [g]
        let took (t : State) : Prop := t.casc.rxSeq = (f.seq + 1) % 256
        let idle : Prop := idleGather s .cascHost ∧ Tbl.get 0 s.cascStatus 5 = 0 ∧ f.master = 5
        (∀ fam i v, next 1 → idle → reaches s .cascHost fam i HDR.EVT_MASK v → f.addr.toNat = pageAt fam i + HDR.EVT_MASK →
            f.payload = toBytes 4 v.toNat → completes (.cascWr f crc) s (fun t => t.rd f.addr.toNat = v ∧ answered' t 0 [] ∧ took t
              ∧ onlyRegs s t [f.addr.toNat]))
          ∧ (∀ fam i, next 2 → idle → f.addr.toNat % 4 = 0 → s.region .cascHost f.addr.toNat = .page fam i HDR.EVT_MASK →
              f.addr.toNat = pageAt fam i + HDR.EVT_MASK → completes (.cascRd f crc) s (fun t =>
                answered' t 0 (toBytes 4 (s.rd f.addr.toNat).toNat) ∧ took t ∧ nothing s t))
          ∧ (∀ g : Fwd, next 3 → s.casc.fwds.find? (fun x => x.tag == f.tag) = some g → g.req = .mdio → g.read = true → f.status = 0 →
              s.casc.loading = none → s.spi.inFrame = false → completes (.cascRsp f crc) s (fun t => took t ∧ t.mdio.busy = false
                ∧ t.mdio.dataHi ++ t.mdio.dataLo = BitVec.ofNat 32 (ofBytes (f.payload.take 4)) ∧ t.mdio.err = s.mdio.err
                ∧ t.casc.fwds = s.casc.fwds.filter (fun x => x.tag != f.tag) ∧ nothing s t))
          ∧ (next 3 → s.slave = false → s.casc.loading = some f.tag → completes (.cascRsp f crc) s (fun t => took t ∧ t.casc.loading = none
              ∧ (f.status = 0 → t.bit pCASC CASC.CC_STAT.PEER_LOADED = true) ∧ (f.status ≠ 0 → raised t CASC.evLOAD_FAIL 0) ∧ onlyPage s t pCASC))
          ∧ (next 4 → s.slave = false → completes (.cascLoad f crc) s (fun t => took t ∧ nothing s t))
          ∧ (next 4 → s.slave = true → f.addr.toNat % 32 = 0 → f.payload.length % 32 = 0 → s.inDram f.addr.toNat f.payload.length = true →
              completes (.cascLoad f crc) s (fun t => took t ∧ memSameBut s t f.addr.toNat f.payload.length
                ∧ (∀ i, i < f.payload.length → t.byte (f.addr.toNat + i) = f.payload[i]?) ∧ coresSame s t))
          ∧ (next 5 → s.slave = false → completes (.cascGo f crc) s (fun t => took t ∧ t.boot = s.boot ∧ nothing s t))
          ∧ (next 5 → s.slave = true → let l := s.containerAt 0x42000000
              (s.accept l ≠ 0 → completes (.cascGo f crc) s (fun t => took t ∧ t.fld pSUP SUP.SUP_STAT.ERR = s.accept l
                  ∧ raised t SUP.evIMG_REJECT 0 ∧ answered' t 8 [] ∧ t.boot = s.boot ∧ onlyRegs s t [pSUP + SUP.SUP_STAT, rawAt 0 0]))
                ∧ (s.accept l = 0 → s.stage ≤ 1 → s.upStage < 4 → completes (.cascGo f crc) s (fun t => took t ∧ t.casc.loading = some f.tag
                  ∧ t.stage = 2 ∧ t.core supId = { coreReset supId with pc := BitVec.ofNat 32 (leAt l 28 4) })))
          ∧ (good 6 → s.linkUp = false → s.casc.helloTx = true → s.slave = true → completes (.cascHello f crc) s (fun t => took t ∧ t.linkUp = true
              ∧ raised t CASC.evCASC_UP 0 ∧ t.casc.peerBoots = some (helloBoots f) ∧ t.fld pCASC CASC.CC_STAT.F8 = helloBoots f % 256
              ∧ t.rd (pCASC + CASC.PEER_ID_LO) = BitVec.ofNat 32 (ofBytes (f.payload.take 4))
              ∧ t.rd (pCASC + CASC.PEER_ID_HI) = BitVec.ofNat 32 (ofBytes ((f.payload.drop 4).take 4))
              ∧ (∀ m, s.casc.peerBoots = some m → m ≠ helloBoots f → raised t CASC.evPEER_RESTART 0) ∧ onlyPage s t pCASC))
          ∧ (good 6 → s.linkUp = true → s.casc.peerBoots = some (helloBoots f) → completes (.cascHello f crc) s (fun t => t.linkUp = true
              ∧ t.casc.rxSeq = s.casc.rxSeq ∧ nothing s t))
          ∧ (next 7 → completes (.cascEvt f crc) s (fun t => took t ∧ onlyRegs s t [rawAt 5 0]
              ∧ ((f.payload.headD 0).getLsbD 0 = true → s.slave = false → raised t EVT.evPEER_INT 0)
              ∧ ((f.payload.headD 0).getLsbD 0 = false ∨ s.slave = true → nothing s t)))
          ∧ (next 8 → (s.slave = true → s.time.running = true → completes (.cascTime f crc) s (fun t => took t
                ∧ t.time.now = ofBytes (f.payload.take 10) ∧ t.quality = ofBytes ((f.payload.drop 10).take 1) % 8
                ∧ (let i := ofBytes ((f.payload.drop 11).take 5); t.incr = if i = 0 then s.incr else i) ∧ onlyPage s t pTIME))
              ∧ (s.slave = false → completes (.cascTime f crc) s (fun t => took t ∧ t.time = s.time ∧ nothing s t)))
          ∧ (next 9 → (s.slave = true → completes (.cascWarm f crc) s (fun t => t.pwr.warm = true ∧ t.fld pRST RST.RST_CAUSE.WARM_CAUSE = 2
                ∧ memSame s t)) ∧ (s.slave = false → completes (.cascWarm f crc) s (fun t => took t ∧ t.pwr = s.pwr ∧ nothing s t))))
    ∧ (∀ s : State, s.cascOn = true → s.casc.unacked ≠ [] →
        (s.casc.resends + 1 < 16 → completes .cascResendTimeout s (fun t => t.casc = { s.casc with resends := s.casc.resends + 1, sent := s.casc.sent ++ s.casc.unacked }
            ∧ t.fld pCASC CASC.CNT_LINK.V = min (s.fld pCASC CASC.CNT_LINK.V + 1) 65535
            ∧ ranTo s t (s.clockOf clkResend + 12500) ∧ onlyTimed s t [pCASC + CASC.CNT_LINK]))
          ∧ (16 ≤ s.casc.resends + 1 → completes .cascResendTimeout s (fun t => t.linkUp = false ∧ t.casc.fwds = [] ∧ t.casc.unacked = []
              ∧ (s.linkUp = true → raised t CASC.evCASC_DOWN 0) ∧ memSame s t)))
    ∧ (∀ s : State, let lv (t : State) : Nat := (if t.intA then 1 else 0) + (if t.intB then 2 else 0)
        (s.slave = true → s.linkUp = true → lv s ≠ 0 → s.casc.waiting = [] → s.casc.unacked.length < 8 → s.casc.credit ≠ 0 →
          completes .cascEvtInterval s (fun t => t.casc.shown = lv t ∧ ranTo s t (s.clockOf clkEvt + 625000) ∧ onlyTimed s t []
            ∧ ∃ g : CFrame, t.casc.sent = s.casc.sent ++ [g] ∧ g.type = 7 ∧ g.payload = [BitVec.ofNat 8 (lv t)]))
          ∧ (s.slave = false ∨ s.linkUp = false ∨ lv s = 0 → completes .cascEvtInterval s (fun t => t = s)))
end

