-- ==== Sys2Proof/Laws/State.lean ====
section
/-! SUPPORT. One lemma per field per update of the state: what each named update leaves of every field. -/

namespace Sys2Proof.Laws

open Sys2Proof.Machine

/-! ## wr -/

theorem wr_eq (s : State) (a : Nat) (w : Word) : s.wr a w = { s with regs := Tbl.put (some (regReset a)) s.regs a w } := rfl
@[simp] theorem wr_pending (s : State) (a : Nat) (w : Word) : (s.wr a w).pending = s.pending := by rw [wr_eq]
@[simp] theorem wr_variant (s : State) (a : Nat) (w : Word) : (s.wr a w).variant = s.variant := by rw [wr_eq]
@[simp] theorem wr_slave (s : State) (a : Nat) (w : Word) : (s.wr a w).slave = s.slave := by rw [wr_eq]
@[simp] theorem wr_regs (s : State) (a : Nat) (w : Word) : (s.wr a w).regs = Tbl.put (some (regReset a)) s.regs a w := by rw [wr_eq]
@[simp] theorem wr_inForce (s : State) (a : Nat) (w : Word) : (s.wr a w).inForce = s.inForce := by rw [wr_eq]
@[simp] theorem wr_latched (s : State) (a : Nat) (w : Word) : (s.wr a w).latched = s.latched := by rw [wr_eq]
@[simp] theorem wr_live (s : State) (a : Nat) (w : Word) : (s.wr a w).live = s.live := by rw [wr_eq]
@[simp] theorem wr_mem (s : State) (a : Nat) (w : Word) : (s.wr a w).mem = s.mem := by rw [wr_eq]
@[simp] theorem wr_ms (s : State) (a : Nat) (w : Word) : (s.wr a w).ms = s.ms := by rw [wr_eq]
@[simp] theorem wr_cores (s : State) (a : Nat) (w : Word) : (s.wr a w).cores = s.cores := by rw [wr_eq]
@[simp] theorem wr_clus (s : State) (a : Nat) (w : Word) : (s.wr a w).clus = s.clus := by rw [wr_eq]
@[simp] theorem wr_supState (s : State) (a : Nat) (w : Word) : (s.wr a w).supState = s.supState := by rw [wr_eq]
@[simp] theorem wr_lrx (s : State) (a : Nat) (w : Word) : (s.wr a w).lrx = s.lrx := by rw [wr_eq]
@[simp] theorem wr_ltx (s : State) (a : Nat) (w : Word) : (s.wr a w).ltx = s.ltx := by rw [wr_eq]
@[simp] theorem wr_ifec (s : State) (a : Nat) (w : Word) : (s.wr a w).ifec = s.ifec := by rw [wr_eq]
@[simp] theorem wr_port (s : State) (a : Nat) (w : Word) : (s.wr a w).port = s.port := by rw [wr_eq]
@[simp] theorem wr_hsl (s : State) (a : Nat) (w : Word) : (s.wr a w).hsl = s.hsl := by rw [wr_eq]
@[simp] theorem wr_cal (s : State) (a : Nat) (w : Word) : (s.wr a w).cal = s.cal := by rw [wr_eq]
@[simp] theorem wr_part (s : State) (a : Nat) (w : Word) : (s.wr a w).part = s.part := by rw [wr_eq]
@[simp] theorem wr_dawn (s : State) (a : Nat) (w : Word) : (s.wr a w).dawn = s.dawn := by rw [wr_eq]
@[simp] theorem wr_cap (s : State) (a : Nat) (w : Word) : (s.wr a w).cap = s.cap := by rw [wr_eq]
@[simp] theorem wr_rpl (s : State) (a : Nat) (w : Word) : (s.wr a w).rpl = s.rpl := by rw [wr_eq]
@[simp] theorem wr_trc (s : State) (a : Nat) (w : Word) : (s.wr a w).trc = s.trc := by rw [wr_eq]
@[simp] theorem wr_pwr (s : State) (a : Nat) (w : Word) : (s.wr a w).pwr = s.pwr := by rw [wr_eq]
@[simp] theorem wr_boot (s : State) (a : Nat) (w : Word) : (s.wr a w).boot = s.boot := by rw [wr_eq]
@[simp] theorem wr_casc (s : State) (a : Nat) (w : Word) : (s.wr a w).casc = s.casc := by rw [wr_eq]
@[simp] theorem wr_hk (s : State) (a : Nat) (w : Word) : (s.wr a w).hk = s.hk := by rw [wr_eq]
@[simp] theorem wr_cd (s : State) (a : Nat) (w : Word) : (s.wr a w).cd = s.cd := by rw [wr_eq]
@[simp] theorem wr_pw (s : State) (a : Nat) (w : Word) : (s.wr a w).pw = s.pw := by rw [wr_eq]
@[simp] theorem wr_unlocked (s : State) (a : Nat) (w : Word) : (s.wr a w).unlocked = s.unlocked := by rw [wr_eq]
@[simp] theorem wr_commits (s : State) (a : Nat) (w : Word) : (s.wr a w).commits = s.commits := by rw [wr_eq]
@[simp] theorem wr_marks (s : State) (a : Nat) (w : Word) : (s.wr a w).marks = s.marks := by rw [wr_eq]
@[simp] theorem wr_log (s : State) (a : Nat) (w : Word) : (s.wr a w).log = s.log := by rw [wr_eq]
@[simp] theorem wr_gathers (s : State) (a : Nat) (w : Word) : (s.wr a w).gathers = s.gathers := by rw [wr_eq]
@[simp] theorem wr_supHeld (s : State) (a : Nat) (w : Word) : (s.wr a w).supHeld = s.supHeld := by rw [wr_eq]
@[simp] theorem wr_spi (s : State) (a : Nat) (w : Word) : (s.wr a w).spi = s.spi := by rw [wr_eq]
@[simp] theorem wr_mdio (s : State) (a : Nat) (w : Word) : (s.wr a w).mdio = s.mdio := by rw [wr_eq]
@[simp] theorem wr_cascStatus (s : State) (a : Nat) (w : Word) : (s.wr a w).cascStatus = s.cascStatus := by rw [wr_eq]
@[simp] theorem wr_resp (s : State) (a : Nat) (w : Word) : (s.wr a w).resp = s.resp := by rw [wr_eq]
@[simp] theorem wr_tick (s : State) (a : Nat) (w : Word) : (s.wr a w).tick = s.tick := by rw [wr_eq]
@[simp] theorem wr_clock (s : State) (a : Nat) (w : Word) : (s.wr a w).clock = s.clock := by rw [wr_eq]
@[simp] theorem wr_time (s : State) (a : Nat) (w : Word) : (s.wr a w).time = s.time := by rw [wr_eq]
@[simp] theorem wr_propTick (s : State) (a : Nat) (w : Word) : (s.wr a w).propTick = s.propTick := by rw [wr_eq]
@[simp] theorem wr_propFam (s : State) (a : Nat) (w : Word) : (s.wr a w).propFam = s.propFam := by rw [wr_eq]
@[simp] theorem wr_propMask (s : State) (a : Nat) (w : Word) : (s.wr a w).propMask = s.propMask := by rw [wr_eq]
@[simp] theorem wr_upStage (s : State) (a : Nat) (w : Word) : (s.wr a w).upStage = s.upStage := by rw [wr_eq]
@[simp] theorem wr_free (s : State) (a : Nat) (w : Word) : (s.wr a w).free = s.free := by rw [wr_eq]

/-! ## clr -/

theorem clr_eq (s : State) (a : Nat) : s.clr a = { s with regs := Tbl.erase s.regs a } := rfl
@[simp] theorem clr_pending (s : State) (a : Nat) : (s.clr a).pending = s.pending := by rw [clr_eq]
@[simp] theorem clr_variant (s : State) (a : Nat) : (s.clr a).variant = s.variant := by rw [clr_eq]
@[simp] theorem clr_slave (s : State) (a : Nat) : (s.clr a).slave = s.slave := by rw [clr_eq]
@[simp] theorem clr_regs (s : State) (a : Nat) : (s.clr a).regs = Tbl.erase s.regs a := by rw [clr_eq]
@[simp] theorem clr_inForce (s : State) (a : Nat) : (s.clr a).inForce = s.inForce := by rw [clr_eq]
@[simp] theorem clr_latched (s : State) (a : Nat) : (s.clr a).latched = s.latched := by rw [clr_eq]
@[simp] theorem clr_live (s : State) (a : Nat) : (s.clr a).live = s.live := by rw [clr_eq]
@[simp] theorem clr_mem (s : State) (a : Nat) : (s.clr a).mem = s.mem := by rw [clr_eq]
@[simp] theorem clr_ms (s : State) (a : Nat) : (s.clr a).ms = s.ms := by rw [clr_eq]
@[simp] theorem clr_cores (s : State) (a : Nat) : (s.clr a).cores = s.cores := by rw [clr_eq]
@[simp] theorem clr_clus (s : State) (a : Nat) : (s.clr a).clus = s.clus := by rw [clr_eq]
@[simp] theorem clr_supState (s : State) (a : Nat) : (s.clr a).supState = s.supState := by rw [clr_eq]
@[simp] theorem clr_lrx (s : State) (a : Nat) : (s.clr a).lrx = s.lrx := by rw [clr_eq]
@[simp] theorem clr_ltx (s : State) (a : Nat) : (s.clr a).ltx = s.ltx := by rw [clr_eq]
@[simp] theorem clr_ifec (s : State) (a : Nat) : (s.clr a).ifec = s.ifec := by rw [clr_eq]
@[simp] theorem clr_port (s : State) (a : Nat) : (s.clr a).port = s.port := by rw [clr_eq]
@[simp] theorem clr_hsl (s : State) (a : Nat) : (s.clr a).hsl = s.hsl := by rw [clr_eq]
@[simp] theorem clr_cal (s : State) (a : Nat) : (s.clr a).cal = s.cal := by rw [clr_eq]
@[simp] theorem clr_part (s : State) (a : Nat) : (s.clr a).part = s.part := by rw [clr_eq]
@[simp] theorem clr_dawn (s : State) (a : Nat) : (s.clr a).dawn = s.dawn := by rw [clr_eq]
@[simp] theorem clr_cap (s : State) (a : Nat) : (s.clr a).cap = s.cap := by rw [clr_eq]
@[simp] theorem clr_rpl (s : State) (a : Nat) : (s.clr a).rpl = s.rpl := by rw [clr_eq]
@[simp] theorem clr_trc (s : State) (a : Nat) : (s.clr a).trc = s.trc := by rw [clr_eq]
@[simp] theorem clr_pwr (s : State) (a : Nat) : (s.clr a).pwr = s.pwr := by rw [clr_eq]
@[simp] theorem clr_boot (s : State) (a : Nat) : (s.clr a).boot = s.boot := by rw [clr_eq]
@[simp] theorem clr_casc (s : State) (a : Nat) : (s.clr a).casc = s.casc := by rw [clr_eq]
@[simp] theorem clr_hk (s : State) (a : Nat) : (s.clr a).hk = s.hk := by rw [clr_eq]
@[simp] theorem clr_cd (s : State) (a : Nat) : (s.clr a).cd = s.cd := by rw [clr_eq]
@[simp] theorem clr_pw (s : State) (a : Nat) : (s.clr a).pw = s.pw := by rw [clr_eq]
@[simp] theorem clr_unlocked (s : State) (a : Nat) : (s.clr a).unlocked = s.unlocked := by rw [clr_eq]
@[simp] theorem clr_commits (s : State) (a : Nat) : (s.clr a).commits = s.commits := by rw [clr_eq]
@[simp] theorem clr_marks (s : State) (a : Nat) : (s.clr a).marks = s.marks := by rw [clr_eq]
@[simp] theorem clr_log (s : State) (a : Nat) : (s.clr a).log = s.log := by rw [clr_eq]
@[simp] theorem clr_gathers (s : State) (a : Nat) : (s.clr a).gathers = s.gathers := by rw [clr_eq]
@[simp] theorem clr_supHeld (s : State) (a : Nat) : (s.clr a).supHeld = s.supHeld := by rw [clr_eq]
@[simp] theorem clr_spi (s : State) (a : Nat) : (s.clr a).spi = s.spi := by rw [clr_eq]
@[simp] theorem clr_mdio (s : State) (a : Nat) : (s.clr a).mdio = s.mdio := by rw [clr_eq]
@[simp] theorem clr_cascStatus (s : State) (a : Nat) : (s.clr a).cascStatus = s.cascStatus := by rw [clr_eq]
@[simp] theorem clr_resp (s : State) (a : Nat) : (s.clr a).resp = s.resp := by rw [clr_eq]
@[simp] theorem clr_tick (s : State) (a : Nat) : (s.clr a).tick = s.tick := by rw [clr_eq]
@[simp] theorem clr_clock (s : State) (a : Nat) : (s.clr a).clock = s.clock := by rw [clr_eq]
@[simp] theorem clr_time (s : State) (a : Nat) : (s.clr a).time = s.time := by rw [clr_eq]
@[simp] theorem clr_propTick (s : State) (a : Nat) : (s.clr a).propTick = s.propTick := by rw [clr_eq]
@[simp] theorem clr_propFam (s : State) (a : Nat) : (s.clr a).propFam = s.propFam := by rw [clr_eq]
@[simp] theorem clr_propMask (s : State) (a : Nat) : (s.clr a).propMask = s.propMask := by rw [clr_eq]
@[simp] theorem clr_upStage (s : State) (a : Nat) : (s.clr a).upStage = s.upStage := by rw [clr_eq]
@[simp] theorem clr_free (s : State) (a : Nat) : (s.clr a).free = s.free := by rw [clr_eq]

/-! ## setFld -/

@[simp] theorem setFld_pending (s : State) (b : Nat) (f : Fld) (v : Nat) : (s.setFld b f v).pending = s.pending := wr_pending _ _ _
@[simp] theorem setFld_variant (s : State) (b : Nat) (f : Fld) (v : Nat) : (s.setFld b f v).variant = s.variant := wr_variant _ _ _
@[simp] theorem setFld_slave (s : State) (b : Nat) (f : Fld) (v : Nat) : (s.setFld b f v).slave = s.slave := wr_slave _ _ _
@[simp] theorem setFld_inForce (s : State) (b : Nat) (f : Fld) (v : Nat) : (s.setFld b f v).inForce = s.inForce := wr_inForce _ _ _
@[simp] theorem setFld_latched (s : State) (b : Nat) (f : Fld) (v : Nat) : (s.setFld b f v).latched = s.latched := wr_latched _ _ _
@[simp] theorem setFld_live (s : State) (b : Nat) (f : Fld) (v : Nat) : (s.setFld b f v).live = s.live := wr_live _ _ _
@[simp] theorem setFld_mem (s : State) (b : Nat) (f : Fld) (v : Nat) : (s.setFld b f v).mem = s.mem := wr_mem _ _ _
@[simp] theorem setFld_ms (s : State) (b : Nat) (f : Fld) (v : Nat) : (s.setFld b f v).ms = s.ms := wr_ms _ _ _
@[simp] theorem setFld_cores (s : State) (b : Nat) (f : Fld) (v : Nat) : (s.setFld b f v).cores = s.cores := wr_cores _ _ _
@[simp] theorem setFld_clus (s : State) (b : Nat) (f : Fld) (v : Nat) : (s.setFld b f v).clus = s.clus := wr_clus _ _ _
@[simp] theorem setFld_supState (s : State) (b : Nat) (f : Fld) (v : Nat) : (s.setFld b f v).supState = s.supState := wr_supState _ _ _
@[simp] theorem setFld_lrx (s : State) (b : Nat) (f : Fld) (v : Nat) : (s.setFld b f v).lrx = s.lrx := wr_lrx _ _ _
@[simp] theorem setFld_ltx (s : State) (b : Nat) (f : Fld) (v : Nat) : (s.setFld b f v).ltx = s.ltx := wr_ltx _ _ _
@[simp] theorem setFld_ifec (s : State) (b : Nat) (f : Fld) (v : Nat) : (s.setFld b f v).ifec = s.ifec := wr_ifec _ _ _
@[simp] theorem setFld_port (s : State) (b : Nat) (f : Fld) (v : Nat) : (s.setFld b f v).port = s.port := wr_port _ _ _
@[simp] theorem setFld_hsl (s : State) (b : Nat) (f : Fld) (v : Nat) : (s.setFld b f v).hsl = s.hsl := wr_hsl _ _ _
@[simp] theorem setFld_cal (s : State) (b : Nat) (f : Fld) (v : Nat) : (s.setFld b f v).cal = s.cal := wr_cal _ _ _
@[simp] theorem setFld_part (s : State) (b : Nat) (f : Fld) (v : Nat) : (s.setFld b f v).part = s.part := wr_part _ _ _
@[simp] theorem setFld_dawn (s : State) (b : Nat) (f : Fld) (v : Nat) : (s.setFld b f v).dawn = s.dawn := wr_dawn _ _ _
@[simp] theorem setFld_cap (s : State) (b : Nat) (f : Fld) (v : Nat) : (s.setFld b f v).cap = s.cap := wr_cap _ _ _
@[simp] theorem setFld_rpl (s : State) (b : Nat) (f : Fld) (v : Nat) : (s.setFld b f v).rpl = s.rpl := wr_rpl _ _ _
@[simp] theorem setFld_trc (s : State) (b : Nat) (f : Fld) (v : Nat) : (s.setFld b f v).trc = s.trc := wr_trc _ _ _
@[simp] theorem setFld_pwr (s : State) (b : Nat) (f : Fld) (v : Nat) : (s.setFld b f v).pwr = s.pwr := wr_pwr _ _ _
@[simp] theorem setFld_boot (s : State) (b : Nat) (f : Fld) (v : Nat) : (s.setFld b f v).boot = s.boot := wr_boot _ _ _
@[simp] theorem setFld_casc (s : State) (b : Nat) (f : Fld) (v : Nat) : (s.setFld b f v).casc = s.casc := wr_casc _ _ _
@[simp] theorem setFld_hk (s : State) (b : Nat) (f : Fld) (v : Nat) : (s.setFld b f v).hk = s.hk := wr_hk _ _ _
@[simp] theorem setFld_cd (s : State) (b : Nat) (f : Fld) (v : Nat) : (s.setFld b f v).cd = s.cd := wr_cd _ _ _
@[simp] theorem setFld_pw (s : State) (b : Nat) (f : Fld) (v : Nat) : (s.setFld b f v).pw = s.pw := wr_pw _ _ _
@[simp] theorem setFld_unlocked (s : State) (b : Nat) (f : Fld) (v : Nat) : (s.setFld b f v).unlocked = s.unlocked := wr_unlocked _ _ _
@[simp] theorem setFld_commits (s : State) (b : Nat) (f : Fld) (v : Nat) : (s.setFld b f v).commits = s.commits := wr_commits _ _ _
@[simp] theorem setFld_marks (s : State) (b : Nat) (f : Fld) (v : Nat) : (s.setFld b f v).marks = s.marks := wr_marks _ _ _
@[simp] theorem setFld_log (s : State) (b : Nat) (f : Fld) (v : Nat) : (s.setFld b f v).log = s.log := wr_log _ _ _
@[simp] theorem setFld_gathers (s : State) (b : Nat) (f : Fld) (v : Nat) : (s.setFld b f v).gathers = s.gathers := wr_gathers _ _ _
@[simp] theorem setFld_supHeld (s : State) (b : Nat) (f : Fld) (v : Nat) : (s.setFld b f v).supHeld = s.supHeld := wr_supHeld _ _ _
@[simp] theorem setFld_spi (s : State) (b : Nat) (f : Fld) (v : Nat) : (s.setFld b f v).spi = s.spi := wr_spi _ _ _
@[simp] theorem setFld_mdio (s : State) (b : Nat) (f : Fld) (v : Nat) : (s.setFld b f v).mdio = s.mdio := wr_mdio _ _ _
@[simp] theorem setFld_cascStatus (s : State) (b : Nat) (f : Fld) (v : Nat) : (s.setFld b f v).cascStatus = s.cascStatus := wr_cascStatus _ _ _
@[simp] theorem setFld_resp (s : State) (b : Nat) (f : Fld) (v : Nat) : (s.setFld b f v).resp = s.resp := wr_resp _ _ _
@[simp] theorem setFld_tick (s : State) (b : Nat) (f : Fld) (v : Nat) : (s.setFld b f v).tick = s.tick := wr_tick _ _ _
@[simp] theorem setFld_clock (s : State) (b : Nat) (f : Fld) (v : Nat) : (s.setFld b f v).clock = s.clock := wr_clock _ _ _
@[simp] theorem setFld_time (s : State) (b : Nat) (f : Fld) (v : Nat) : (s.setFld b f v).time = s.time := wr_time _ _ _
@[simp] theorem setFld_propTick (s : State) (b : Nat) (f : Fld) (v : Nat) : (s.setFld b f v).propTick = s.propTick := wr_propTick _ _ _
@[simp] theorem setFld_propFam (s : State) (b : Nat) (f : Fld) (v : Nat) : (s.setFld b f v).propFam = s.propFam := wr_propFam _ _ _
@[simp] theorem setFld_propMask (s : State) (b : Nat) (f : Fld) (v : Nat) : (s.setFld b f v).propMask = s.propMask := wr_propMask _ _ _
@[simp] theorem setFld_upStage (s : State) (b : Nat) (f : Fld) (v : Nat) : (s.setFld b f v).upStage = s.upStage := wr_upStage _ _ _
@[simp] theorem setFld_free (s : State) (b : Nat) (f : Fld) (v : Nat) : (s.setFld b f v).free = s.free := wr_free _ _ _

/-! ## addSat -/

@[simp] theorem addSat_pending (s : State) (b : Nat) (f : Fld) (n : Nat) : (s.addSat b f n).pending = s.pending := setFld_pending _ _ _ _
@[simp] theorem addSat_variant (s : State) (b : Nat) (f : Fld) (n : Nat) : (s.addSat b f n).variant = s.variant := setFld_variant _ _ _ _
@[simp] theorem addSat_slave (s : State) (b : Nat) (f : Fld) (n : Nat) : (s.addSat b f n).slave = s.slave := setFld_slave _ _ _ _
@[simp] theorem addSat_inForce (s : State) (b : Nat) (f : Fld) (n : Nat) : (s.addSat b f n).inForce = s.inForce := setFld_inForce _ _ _ _
@[simp] theorem addSat_latched (s : State) (b : Nat) (f : Fld) (n : Nat) : (s.addSat b f n).latched = s.latched := setFld_latched _ _ _ _
@[simp] theorem addSat_live (s : State) (b : Nat) (f : Fld) (n : Nat) : (s.addSat b f n).live = s.live := setFld_live _ _ _ _
@[simp] theorem addSat_mem (s : State) (b : Nat) (f : Fld) (n : Nat) : (s.addSat b f n).mem = s.mem := setFld_mem _ _ _ _
@[simp] theorem addSat_ms (s : State) (b : Nat) (f : Fld) (n : Nat) : (s.addSat b f n).ms = s.ms := setFld_ms _ _ _ _
@[simp] theorem addSat_cores (s : State) (b : Nat) (f : Fld) (n : Nat) : (s.addSat b f n).cores = s.cores := setFld_cores _ _ _ _
@[simp] theorem addSat_clus (s : State) (b : Nat) (f : Fld) (n : Nat) : (s.addSat b f n).clus = s.clus := setFld_clus _ _ _ _
@[simp] theorem addSat_supState (s : State) (b : Nat) (f : Fld) (n : Nat) : (s.addSat b f n).supState = s.supState := setFld_supState _ _ _ _
@[simp] theorem addSat_lrx (s : State) (b : Nat) (f : Fld) (n : Nat) : (s.addSat b f n).lrx = s.lrx := setFld_lrx _ _ _ _
@[simp] theorem addSat_ltx (s : State) (b : Nat) (f : Fld) (n : Nat) : (s.addSat b f n).ltx = s.ltx := setFld_ltx _ _ _ _
@[simp] theorem addSat_ifec (s : State) (b : Nat) (f : Fld) (n : Nat) : (s.addSat b f n).ifec = s.ifec := setFld_ifec _ _ _ _
@[simp] theorem addSat_port (s : State) (b : Nat) (f : Fld) (n : Nat) : (s.addSat b f n).port = s.port := setFld_port _ _ _ _
@[simp] theorem addSat_hsl (s : State) (b : Nat) (f : Fld) (n : Nat) : (s.addSat b f n).hsl = s.hsl := setFld_hsl _ _ _ _
@[simp] theorem addSat_cal (s : State) (b : Nat) (f : Fld) (n : Nat) : (s.addSat b f n).cal = s.cal := setFld_cal _ _ _ _
@[simp] theorem addSat_part (s : State) (b : Nat) (f : Fld) (n : Nat) : (s.addSat b f n).part = s.part := setFld_part _ _ _ _
@[simp] theorem addSat_dawn (s : State) (b : Nat) (f : Fld) (n : Nat) : (s.addSat b f n).dawn = s.dawn := setFld_dawn _ _ _ _
@[simp] theorem addSat_cap (s : State) (b : Nat) (f : Fld) (n : Nat) : (s.addSat b f n).cap = s.cap := setFld_cap _ _ _ _
@[simp] theorem addSat_rpl (s : State) (b : Nat) (f : Fld) (n : Nat) : (s.addSat b f n).rpl = s.rpl := setFld_rpl _ _ _ _
@[simp] theorem addSat_trc (s : State) (b : Nat) (f : Fld) (n : Nat) : (s.addSat b f n).trc = s.trc := setFld_trc _ _ _ _
@[simp] theorem addSat_pwr (s : State) (b : Nat) (f : Fld) (n : Nat) : (s.addSat b f n).pwr = s.pwr := setFld_pwr _ _ _ _
@[simp] theorem addSat_boot (s : State) (b : Nat) (f : Fld) (n : Nat) : (s.addSat b f n).boot = s.boot := setFld_boot _ _ _ _
@[simp] theorem addSat_casc (s : State) (b : Nat) (f : Fld) (n : Nat) : (s.addSat b f n).casc = s.casc := setFld_casc _ _ _ _
@[simp] theorem addSat_hk (s : State) (b : Nat) (f : Fld) (n : Nat) : (s.addSat b f n).hk = s.hk := setFld_hk _ _ _ _
@[simp] theorem addSat_cd (s : State) (b : Nat) (f : Fld) (n : Nat) : (s.addSat b f n).cd = s.cd := setFld_cd _ _ _ _
@[simp] theorem addSat_pw (s : State) (b : Nat) (f : Fld) (n : Nat) : (s.addSat b f n).pw = s.pw := setFld_pw _ _ _ _
@[simp] theorem addSat_unlocked (s : State) (b : Nat) (f : Fld) (n : Nat) : (s.addSat b f n).unlocked = s.unlocked := setFld_unlocked _ _ _ _
@[simp] theorem addSat_commits (s : State) (b : Nat) (f : Fld) (n : Nat) : (s.addSat b f n).commits = s.commits := setFld_commits _ _ _ _
@[simp] theorem addSat_marks (s : State) (b : Nat) (f : Fld) (n : Nat) : (s.addSat b f n).marks = s.marks := setFld_marks _ _ _ _
@[simp] theorem addSat_log (s : State) (b : Nat) (f : Fld) (n : Nat) : (s.addSat b f n).log = s.log := setFld_log _ _ _ _
@[simp] theorem addSat_gathers (s : State) (b : Nat) (f : Fld) (n : Nat) : (s.addSat b f n).gathers = s.gathers := setFld_gathers _ _ _ _
@[simp] theorem addSat_supHeld (s : State) (b : Nat) (f : Fld) (n : Nat) : (s.addSat b f n).supHeld = s.supHeld := setFld_supHeld _ _ _ _
@[simp] theorem addSat_spi (s : State) (b : Nat) (f : Fld) (n : Nat) : (s.addSat b f n).spi = s.spi := setFld_spi _ _ _ _
@[simp] theorem addSat_mdio (s : State) (b : Nat) (f : Fld) (n : Nat) : (s.addSat b f n).mdio = s.mdio := setFld_mdio _ _ _ _
@[simp] theorem addSat_cascStatus (s : State) (b : Nat) (f : Fld) (n : Nat) : (s.addSat b f n).cascStatus = s.cascStatus := setFld_cascStatus _ _ _ _
@[simp] theorem addSat_resp (s : State) (b : Nat) (f : Fld) (n : Nat) : (s.addSat b f n).resp = s.resp := setFld_resp _ _ _ _
@[simp] theorem addSat_tick (s : State) (b : Nat) (f : Fld) (n : Nat) : (s.addSat b f n).tick = s.tick := setFld_tick _ _ _ _
@[simp] theorem addSat_clock (s : State) (b : Nat) (f : Fld) (n : Nat) : (s.addSat b f n).clock = s.clock := setFld_clock _ _ _ _
@[simp] theorem addSat_time (s : State) (b : Nat) (f : Fld) (n : Nat) : (s.addSat b f n).time = s.time := setFld_time _ _ _ _
@[simp] theorem addSat_propTick (s : State) (b : Nat) (f : Fld) (n : Nat) : (s.addSat b f n).propTick = s.propTick := setFld_propTick _ _ _ _
@[simp] theorem addSat_propFam (s : State) (b : Nat) (f : Fld) (n : Nat) : (s.addSat b f n).propFam = s.propFam := setFld_propFam _ _ _ _
@[simp] theorem addSat_propMask (s : State) (b : Nat) (f : Fld) (n : Nat) : (s.addSat b f n).propMask = s.propMask := setFld_propMask _ _ _ _
@[simp] theorem addSat_upStage (s : State) (b : Nat) (f : Fld) (n : Nat) : (s.addSat b f n).upStage = s.upStage := setFld_upStage _ _ _ _
@[simp] theorem addSat_free (s : State) (b : Nat) (f : Fld) (n : Nat) : (s.addSat b f n).free = s.free := setFld_free _ _ _ _

/-! ## addWrap -/

@[simp] theorem addWrap_pending (s : State) (b : Nat) (f : Fld) (n : Nat) : (s.addWrap b f n).pending = s.pending := setFld_pending _ _ _ _
@[simp] theorem addWrap_variant (s : State) (b : Nat) (f : Fld) (n : Nat) : (s.addWrap b f n).variant = s.variant := setFld_variant _ _ _ _
@[simp] theorem addWrap_slave (s : State) (b : Nat) (f : Fld) (n : Nat) : (s.addWrap b f n).slave = s.slave := setFld_slave _ _ _ _
@[simp] theorem addWrap_inForce (s : State) (b : Nat) (f : Fld) (n : Nat) : (s.addWrap b f n).inForce = s.inForce := setFld_inForce _ _ _ _
@[simp] theorem addWrap_latched (s : State) (b : Nat) (f : Fld) (n : Nat) : (s.addWrap b f n).latched = s.latched := setFld_latched _ _ _ _
@[simp] theorem addWrap_live (s : State) (b : Nat) (f : Fld) (n : Nat) : (s.addWrap b f n).live = s.live := setFld_live _ _ _ _
@[simp] theorem addWrap_mem (s : State) (b : Nat) (f : Fld) (n : Nat) : (s.addWrap b f n).mem = s.mem := setFld_mem _ _ _ _
@[simp] theorem addWrap_ms (s : State) (b : Nat) (f : Fld) (n : Nat) : (s.addWrap b f n).ms = s.ms := setFld_ms _ _ _ _
@[simp] theorem addWrap_cores (s : State) (b : Nat) (f : Fld) (n : Nat) : (s.addWrap b f n).cores = s.cores := setFld_cores _ _ _ _
@[simp] theorem addWrap_clus (s : State) (b : Nat) (f : Fld) (n : Nat) : (s.addWrap b f n).clus = s.clus := setFld_clus _ _ _ _
@[simp] theorem addWrap_supState (s : State) (b : Nat) (f : Fld) (n : Nat) : (s.addWrap b f n).supState = s.supState := setFld_supState _ _ _ _
@[simp] theorem addWrap_lrx (s : State) (b : Nat) (f : Fld) (n : Nat) : (s.addWrap b f n).lrx = s.lrx := setFld_lrx _ _ _ _
@[simp] theorem addWrap_ltx (s : State) (b : Nat) (f : Fld) (n : Nat) : (s.addWrap b f n).ltx = s.ltx := setFld_ltx _ _ _ _
@[simp] theorem addWrap_ifec (s : State) (b : Nat) (f : Fld) (n : Nat) : (s.addWrap b f n).ifec = s.ifec := setFld_ifec _ _ _ _
@[simp] theorem addWrap_port (s : State) (b : Nat) (f : Fld) (n : Nat) : (s.addWrap b f n).port = s.port := setFld_port _ _ _ _
@[simp] theorem addWrap_hsl (s : State) (b : Nat) (f : Fld) (n : Nat) : (s.addWrap b f n).hsl = s.hsl := setFld_hsl _ _ _ _
@[simp] theorem addWrap_cal (s : State) (b : Nat) (f : Fld) (n : Nat) : (s.addWrap b f n).cal = s.cal := setFld_cal _ _ _ _
@[simp] theorem addWrap_part (s : State) (b : Nat) (f : Fld) (n : Nat) : (s.addWrap b f n).part = s.part := setFld_part _ _ _ _
@[simp] theorem addWrap_dawn (s : State) (b : Nat) (f : Fld) (n : Nat) : (s.addWrap b f n).dawn = s.dawn := setFld_dawn _ _ _ _
@[simp] theorem addWrap_cap (s : State) (b : Nat) (f : Fld) (n : Nat) : (s.addWrap b f n).cap = s.cap := setFld_cap _ _ _ _
@[simp] theorem addWrap_rpl (s : State) (b : Nat) (f : Fld) (n : Nat) : (s.addWrap b f n).rpl = s.rpl := setFld_rpl _ _ _ _
@[simp] theorem addWrap_trc (s : State) (b : Nat) (f : Fld) (n : Nat) : (s.addWrap b f n).trc = s.trc := setFld_trc _ _ _ _
@[simp] theorem addWrap_pwr (s : State) (b : Nat) (f : Fld) (n : Nat) : (s.addWrap b f n).pwr = s.pwr := setFld_pwr _ _ _ _
@[simp] theorem addWrap_boot (s : State) (b : Nat) (f : Fld) (n : Nat) : (s.addWrap b f n).boot = s.boot := setFld_boot _ _ _ _
@[simp] theorem addWrap_casc (s : State) (b : Nat) (f : Fld) (n : Nat) : (s.addWrap b f n).casc = s.casc := setFld_casc _ _ _ _
@[simp] theorem addWrap_hk (s : State) (b : Nat) (f : Fld) (n : Nat) : (s.addWrap b f n).hk = s.hk := setFld_hk _ _ _ _
@[simp] theorem addWrap_cd (s : State) (b : Nat) (f : Fld) (n : Nat) : (s.addWrap b f n).cd = s.cd := setFld_cd _ _ _ _
@[simp] theorem addWrap_pw (s : State) (b : Nat) (f : Fld) (n : Nat) : (s.addWrap b f n).pw = s.pw := setFld_pw _ _ _ _
@[simp] theorem addWrap_unlocked (s : State) (b : Nat) (f : Fld) (n : Nat) : (s.addWrap b f n).unlocked = s.unlocked := setFld_unlocked _ _ _ _
@[simp] theorem addWrap_commits (s : State) (b : Nat) (f : Fld) (n : Nat) : (s.addWrap b f n).commits = s.commits := setFld_commits _ _ _ _
@[simp] theorem addWrap_marks (s : State) (b : Nat) (f : Fld) (n : Nat) : (s.addWrap b f n).marks = s.marks := setFld_marks _ _ _ _
@[simp] theorem addWrap_log (s : State) (b : Nat) (f : Fld) (n : Nat) : (s.addWrap b f n).log = s.log := setFld_log _ _ _ _
@[simp] theorem addWrap_gathers (s : State) (b : Nat) (f : Fld) (n : Nat) : (s.addWrap b f n).gathers = s.gathers := setFld_gathers _ _ _ _
@[simp] theorem addWrap_supHeld (s : State) (b : Nat) (f : Fld) (n : Nat) : (s.addWrap b f n).supHeld = s.supHeld := setFld_supHeld _ _ _ _
@[simp] theorem addWrap_spi (s : State) (b : Nat) (f : Fld) (n : Nat) : (s.addWrap b f n).spi = s.spi := setFld_spi _ _ _ _
@[simp] theorem addWrap_mdio (s : State) (b : Nat) (f : Fld) (n : Nat) : (s.addWrap b f n).mdio = s.mdio := setFld_mdio _ _ _ _
@[simp] theorem addWrap_cascStatus (s : State) (b : Nat) (f : Fld) (n : Nat) : (s.addWrap b f n).cascStatus = s.cascStatus := setFld_cascStatus _ _ _ _
@[simp] theorem addWrap_resp (s : State) (b : Nat) (f : Fld) (n : Nat) : (s.addWrap b f n).resp = s.resp := setFld_resp _ _ _ _
@[simp] theorem addWrap_tick (s : State) (b : Nat) (f : Fld) (n : Nat) : (s.addWrap b f n).tick = s.tick := setFld_tick _ _ _ _
@[simp] theorem addWrap_clock (s : State) (b : Nat) (f : Fld) (n : Nat) : (s.addWrap b f n).clock = s.clock := setFld_clock _ _ _ _
@[simp] theorem addWrap_time (s : State) (b : Nat) (f : Fld) (n : Nat) : (s.addWrap b f n).time = s.time := setFld_time _ _ _ _
@[simp] theorem addWrap_propTick (s : State) (b : Nat) (f : Fld) (n : Nat) : (s.addWrap b f n).propTick = s.propTick := setFld_propTick _ _ _ _
@[simp] theorem addWrap_propFam (s : State) (b : Nat) (f : Fld) (n : Nat) : (s.addWrap b f n).propFam = s.propFam := setFld_propFam _ _ _ _
@[simp] theorem addWrap_propMask (s : State) (b : Nat) (f : Fld) (n : Nat) : (s.addWrap b f n).propMask = s.propMask := setFld_propMask _ _ _ _
@[simp] theorem addWrap_upStage (s : State) (b : Nat) (f : Fld) (n : Nat) : (s.addWrap b f n).upStage = s.upStage := setFld_upStage _ _ _ _
@[simp] theorem addWrap_free (s : State) (b : Nat) (f : Fld) (n : Nat) : (s.addWrap b f n).free = s.free := setFld_free _ _ _ _

/-! ## setLv -/

theorem setLv_eq (s : State) (a n : Nat) : s.setLv a n = { s with live := Tbl.put (some 0) s.live a n } := rfl
@[simp] theorem setLv_pending (s : State) (a n : Nat) : (s.setLv a n).pending = s.pending := by rw [setLv_eq]
@[simp] theorem setLv_variant (s : State) (a n : Nat) : (s.setLv a n).variant = s.variant := by rw [setLv_eq]
@[simp] theorem setLv_slave (s : State) (a n : Nat) : (s.setLv a n).slave = s.slave := by rw [setLv_eq]
@[simp] theorem setLv_regs (s : State) (a n : Nat) : (s.setLv a n).regs = s.regs := by rw [setLv_eq]
@[simp] theorem setLv_inForce (s : State) (a n : Nat) : (s.setLv a n).inForce = s.inForce := by rw [setLv_eq]
@[simp] theorem setLv_latched (s : State) (a n : Nat) : (s.setLv a n).latched = s.latched := by rw [setLv_eq]
@[simp] theorem setLv_live (s : State) (a n : Nat) : (s.setLv a n).live = Tbl.put (some 0) s.live a n := by rw [setLv_eq]
@[simp] theorem setLv_mem (s : State) (a n : Nat) : (s.setLv a n).mem = s.mem := by rw [setLv_eq]
@[simp] theorem setLv_ms (s : State) (a n : Nat) : (s.setLv a n).ms = s.ms := by rw [setLv_eq]
@[simp] theorem setLv_cores (s : State) (a n : Nat) : (s.setLv a n).cores = s.cores := by rw [setLv_eq]
@[simp] theorem setLv_clus (s : State) (a n : Nat) : (s.setLv a n).clus = s.clus := by rw [setLv_eq]
@[simp] theorem setLv_supState (s : State) (a n : Nat) : (s.setLv a n).supState = s.supState := by rw [setLv_eq]
@[simp] theorem setLv_lrx (s : State) (a n : Nat) : (s.setLv a n).lrx = s.lrx := by rw [setLv_eq]
@[simp] theorem setLv_ltx (s : State) (a n : Nat) : (s.setLv a n).ltx = s.ltx := by rw [setLv_eq]
@[simp] theorem setLv_ifec (s : State) (a n : Nat) : (s.setLv a n).ifec = s.ifec := by rw [setLv_eq]
@[simp] theorem setLv_port (s : State) (a n : Nat) : (s.setLv a n).port = s.port := by rw [setLv_eq]
@[simp] theorem setLv_hsl (s : State) (a n : Nat) : (s.setLv a n).hsl = s.hsl := by rw [setLv_eq]
@[simp] theorem setLv_cal (s : State) (a n : Nat) : (s.setLv a n).cal = s.cal := by rw [setLv_eq]
@[simp] theorem setLv_part (s : State) (a n : Nat) : (s.setLv a n).part = s.part := by rw [setLv_eq]
@[simp] theorem setLv_dawn (s : State) (a n : Nat) : (s.setLv a n).dawn = s.dawn := by rw [setLv_eq]
@[simp] theorem setLv_cap (s : State) (a n : Nat) : (s.setLv a n).cap = s.cap := by rw [setLv_eq]
@[simp] theorem setLv_rpl (s : State) (a n : Nat) : (s.setLv a n).rpl = s.rpl := by rw [setLv_eq]
@[simp] theorem setLv_trc (s : State) (a n : Nat) : (s.setLv a n).trc = s.trc := by rw [setLv_eq]
@[simp] theorem setLv_pwr (s : State) (a n : Nat) : (s.setLv a n).pwr = s.pwr := by rw [setLv_eq]
@[simp] theorem setLv_boot (s : State) (a n : Nat) : (s.setLv a n).boot = s.boot := by rw [setLv_eq]
@[simp] theorem setLv_casc (s : State) (a n : Nat) : (s.setLv a n).casc = s.casc := by rw [setLv_eq]
@[simp] theorem setLv_hk (s : State) (a n : Nat) : (s.setLv a n).hk = s.hk := by rw [setLv_eq]
@[simp] theorem setLv_cd (s : State) (a n : Nat) : (s.setLv a n).cd = s.cd := by rw [setLv_eq]
@[simp] theorem setLv_pw (s : State) (a n : Nat) : (s.setLv a n).pw = s.pw := by rw [setLv_eq]
@[simp] theorem setLv_unlocked (s : State) (a n : Nat) : (s.setLv a n).unlocked = s.unlocked := by rw [setLv_eq]
@[simp] theorem setLv_commits (s : State) (a n : Nat) : (s.setLv a n).commits = s.commits := by rw [setLv_eq]
@[simp] theorem setLv_marks (s : State) (a n : Nat) : (s.setLv a n).marks = s.marks := by rw [setLv_eq]
@[simp] theorem setLv_log (s : State) (a n : Nat) : (s.setLv a n).log = s.log := by rw [setLv_eq]
@[simp] theorem setLv_gathers (s : State) (a n : Nat) : (s.setLv a n).gathers = s.gathers := by rw [setLv_eq]
@[simp] theorem setLv_supHeld (s : State) (a n : Nat) : (s.setLv a n).supHeld = s.supHeld := by rw [setLv_eq]
@[simp] theorem setLv_spi (s : State) (a n : Nat) : (s.setLv a n).spi = s.spi := by rw [setLv_eq]
@[simp] theorem setLv_mdio (s : State) (a n : Nat) : (s.setLv a n).mdio = s.mdio := by rw [setLv_eq]
@[simp] theorem setLv_cascStatus (s : State) (a n : Nat) : (s.setLv a n).cascStatus = s.cascStatus := by rw [setLv_eq]
@[simp] theorem setLv_resp (s : State) (a n : Nat) : (s.setLv a n).resp = s.resp := by rw [setLv_eq]
@[simp] theorem setLv_tick (s : State) (a n : Nat) : (s.setLv a n).tick = s.tick := by rw [setLv_eq]
@[simp] theorem setLv_clock (s : State) (a n : Nat) : (s.setLv a n).clock = s.clock := by rw [setLv_eq]
@[simp] theorem setLv_time (s : State) (a n : Nat) : (s.setLv a n).time = s.time := by rw [setLv_eq]
@[simp] theorem setLv_propTick (s : State) (a n : Nat) : (s.setLv a n).propTick = s.propTick := by rw [setLv_eq]
@[simp] theorem setLv_propFam (s : State) (a n : Nat) : (s.setLv a n).propFam = s.propFam := by rw [setLv_eq]
@[simp] theorem setLv_propMask (s : State) (a n : Nat) : (s.setLv a n).propMask = s.propMask := by rw [setLv_eq]
@[simp] theorem setLv_upStage (s : State) (a n : Nat) : (s.setLv a n).upStage = s.upStage := by rw [setLv_eq]
@[simp] theorem setLv_free (s : State) (a n : Nat) : (s.setLv a n).free = s.free := by rw [setLv_eq]

/-! ## deliver -/

theorem deliver_eq (s : State) (k v : Nat) : s.deliver k v = { s with resp := Tbl.put (some 0) s.resp k v } := rfl
@[simp] theorem deliver_pending (s : State) (k v : Nat) : (s.deliver k v).pending = s.pending := by rw [deliver_eq]
@[simp] theorem deliver_variant (s : State) (k v : Nat) : (s.deliver k v).variant = s.variant := by rw [deliver_eq]
@[simp] theorem deliver_slave (s : State) (k v : Nat) : (s.deliver k v).slave = s.slave := by rw [deliver_eq]
@[simp] theorem deliver_regs (s : State) (k v : Nat) : (s.deliver k v).regs = s.regs := by rw [deliver_eq]
@[simp] theorem deliver_inForce (s : State) (k v : Nat) : (s.deliver k v).inForce = s.inForce := by rw [deliver_eq]
@[simp] theorem deliver_latched (s : State) (k v : Nat) : (s.deliver k v).latched = s.latched := by rw [deliver_eq]
@[simp] theorem deliver_live (s : State) (k v : Nat) : (s.deliver k v).live = s.live := by rw [deliver_eq]
@[simp] theorem deliver_mem (s : State) (k v : Nat) : (s.deliver k v).mem = s.mem := by rw [deliver_eq]
@[simp] theorem deliver_ms (s : State) (k v : Nat) : (s.deliver k v).ms = s.ms := by rw [deliver_eq]
@[simp] theorem deliver_cores (s : State) (k v : Nat) : (s.deliver k v).cores = s.cores := by rw [deliver_eq]
@[simp] theorem deliver_clus (s : State) (k v : Nat) : (s.deliver k v).clus = s.clus := by rw [deliver_eq]
@[simp] theorem deliver_supState (s : State) (k v : Nat) : (s.deliver k v).supState = s.supState := by rw [deliver_eq]
@[simp] theorem deliver_lrx (s : State) (k v : Nat) : (s.deliver k v).lrx = s.lrx := by rw [deliver_eq]
@[simp] theorem deliver_ltx (s : State) (k v : Nat) : (s.deliver k v).ltx = s.ltx := by rw [deliver_eq]
@[simp] theorem deliver_ifec (s : State) (k v : Nat) : (s.deliver k v).ifec = s.ifec := by rw [deliver_eq]
@[simp] theorem deliver_port (s : State) (k v : Nat) : (s.deliver k v).port = s.port := by rw [deliver_eq]
@[simp] theorem deliver_hsl (s : State) (k v : Nat) : (s.deliver k v).hsl = s.hsl := by rw [deliver_eq]
@[simp] theorem deliver_cal (s : State) (k v : Nat) : (s.deliver k v).cal = s.cal := by rw [deliver_eq]
@[simp] theorem deliver_part (s : State) (k v : Nat) : (s.deliver k v).part = s.part := by rw [deliver_eq]
@[simp] theorem deliver_dawn (s : State) (k v : Nat) : (s.deliver k v).dawn = s.dawn := by rw [deliver_eq]
@[simp] theorem deliver_cap (s : State) (k v : Nat) : (s.deliver k v).cap = s.cap := by rw [deliver_eq]
@[simp] theorem deliver_rpl (s : State) (k v : Nat) : (s.deliver k v).rpl = s.rpl := by rw [deliver_eq]
@[simp] theorem deliver_trc (s : State) (k v : Nat) : (s.deliver k v).trc = s.trc := by rw [deliver_eq]
@[simp] theorem deliver_pwr (s : State) (k v : Nat) : (s.deliver k v).pwr = s.pwr := by rw [deliver_eq]
@[simp] theorem deliver_boot (s : State) (k v : Nat) : (s.deliver k v).boot = s.boot := by rw [deliver_eq]
@[simp] theorem deliver_casc (s : State) (k v : Nat) : (s.deliver k v).casc = s.casc := by rw [deliver_eq]
@[simp] theorem deliver_hk (s : State) (k v : Nat) : (s.deliver k v).hk = s.hk := by rw [deliver_eq]
@[simp] theorem deliver_cd (s : State) (k v : Nat) : (s.deliver k v).cd = s.cd := by rw [deliver_eq]
@[simp] theorem deliver_pw (s : State) (k v : Nat) : (s.deliver k v).pw = s.pw := by rw [deliver_eq]
@[simp] theorem deliver_unlocked (s : State) (k v : Nat) : (s.deliver k v).unlocked = s.unlocked := by rw [deliver_eq]
@[simp] theorem deliver_commits (s : State) (k v : Nat) : (s.deliver k v).commits = s.commits := by rw [deliver_eq]
@[simp] theorem deliver_marks (s : State) (k v : Nat) : (s.deliver k v).marks = s.marks := by rw [deliver_eq]
@[simp] theorem deliver_log (s : State) (k v : Nat) : (s.deliver k v).log = s.log := by rw [deliver_eq]
@[simp] theorem deliver_gathers (s : State) (k v : Nat) : (s.deliver k v).gathers = s.gathers := by rw [deliver_eq]
@[simp] theorem deliver_supHeld (s : State) (k v : Nat) : (s.deliver k v).supHeld = s.supHeld := by rw [deliver_eq]
@[simp] theorem deliver_spi (s : State) (k v : Nat) : (s.deliver k v).spi = s.spi := by rw [deliver_eq]
@[simp] theorem deliver_mdio (s : State) (k v : Nat) : (s.deliver k v).mdio = s.mdio := by rw [deliver_eq]
@[simp] theorem deliver_cascStatus (s : State) (k v : Nat) : (s.deliver k v).cascStatus = s.cascStatus := by rw [deliver_eq]
@[simp] theorem deliver_resp (s : State) (k v : Nat) : (s.deliver k v).resp = Tbl.put (some 0) s.resp k v := by rw [deliver_eq]
@[simp] theorem deliver_tick (s : State) (k v : Nat) : (s.deliver k v).tick = s.tick := by rw [deliver_eq]
@[simp] theorem deliver_clock (s : State) (k v : Nat) : (s.deliver k v).clock = s.clock := by rw [deliver_eq]
@[simp] theorem deliver_time (s : State) (k v : Nat) : (s.deliver k v).time = s.time := by rw [deliver_eq]
@[simp] theorem deliver_propTick (s : State) (k v : Nat) : (s.deliver k v).propTick = s.propTick := by rw [deliver_eq]
@[simp] theorem deliver_propFam (s : State) (k v : Nat) : (s.deliver k v).propFam = s.propFam := by rw [deliver_eq]
@[simp] theorem deliver_propMask (s : State) (k v : Nat) : (s.deliver k v).propMask = s.propMask := by rw [deliver_eq]
@[simp] theorem deliver_upStage (s : State) (k v : Nat) : (s.deliver k v).upStage = s.upStage := by rw [deliver_eq]
@[simp] theorem deliver_free (s : State) (k v : Nat) : (s.deliver k v).free = s.free := by rw [deliver_eq]

/-! ## setCore -/

theorem setCore_eq (s : State) (k : Nat) (c : Core) : s.setCore k c = { s with cores := Tbl.put (some (coreReset k)) s.cores k c } := rfl
@[simp] theorem setCore_pending (s : State) (k : Nat) (c : Core) : (s.setCore k c).pending = s.pending := by rw [setCore_eq]
@[simp] theorem setCore_variant (s : State) (k : Nat) (c : Core) : (s.setCore k c).variant = s.variant := by rw [setCore_eq]
@[simp] theorem setCore_slave (s : State) (k : Nat) (c : Core) : (s.setCore k c).slave = s.slave := by rw [setCore_eq]
@[simp] theorem setCore_regs (s : State) (k : Nat) (c : Core) : (s.setCore k c).regs = s.regs := by rw [setCore_eq]
@[simp] theorem setCore_inForce (s : State) (k : Nat) (c : Core) : (s.setCore k c).inForce = s.inForce := by rw [setCore_eq]
@[simp] theorem setCore_latched (s : State) (k : Nat) (c : Core) : (s.setCore k c).latched = s.latched := by rw [setCore_eq]
@[simp] theorem setCore_live (s : State) (k : Nat) (c : Core) : (s.setCore k c).live = s.live := by rw [setCore_eq]
@[simp] theorem setCore_mem (s : State) (k : Nat) (c : Core) : (s.setCore k c).mem = s.mem := by rw [setCore_eq]
@[simp] theorem setCore_ms (s : State) (k : Nat) (c : Core) : (s.setCore k c).ms = s.ms := by rw [setCore_eq]
@[simp] theorem setCore_cores (s : State) (k : Nat) (c : Core) : (s.setCore k c).cores = Tbl.put (some (coreReset k)) s.cores k c := by rw [setCore_eq]
@[simp] theorem setCore_clus (s : State) (k : Nat) (c : Core) : (s.setCore k c).clus = s.clus := by rw [setCore_eq]
@[simp] theorem setCore_supState (s : State) (k : Nat) (c : Core) : (s.setCore k c).supState = s.supState := by rw [setCore_eq]
@[simp] theorem setCore_lrx (s : State) (k : Nat) (c : Core) : (s.setCore k c).lrx = s.lrx := by rw [setCore_eq]
@[simp] theorem setCore_ltx (s : State) (k : Nat) (c : Core) : (s.setCore k c).ltx = s.ltx := by rw [setCore_eq]
@[simp] theorem setCore_ifec (s : State) (k : Nat) (c : Core) : (s.setCore k c).ifec = s.ifec := by rw [setCore_eq]
@[simp] theorem setCore_port (s : State) (k : Nat) (c : Core) : (s.setCore k c).port = s.port := by rw [setCore_eq]
@[simp] theorem setCore_hsl (s : State) (k : Nat) (c : Core) : (s.setCore k c).hsl = s.hsl := by rw [setCore_eq]
@[simp] theorem setCore_cal (s : State) (k : Nat) (c : Core) : (s.setCore k c).cal = s.cal := by rw [setCore_eq]
@[simp] theorem setCore_part (s : State) (k : Nat) (c : Core) : (s.setCore k c).part = s.part := by rw [setCore_eq]
@[simp] theorem setCore_dawn (s : State) (k : Nat) (c : Core) : (s.setCore k c).dawn = s.dawn := by rw [setCore_eq]
@[simp] theorem setCore_cap (s : State) (k : Nat) (c : Core) : (s.setCore k c).cap = s.cap := by rw [setCore_eq]
@[simp] theorem setCore_rpl (s : State) (k : Nat) (c : Core) : (s.setCore k c).rpl = s.rpl := by rw [setCore_eq]
@[simp] theorem setCore_trc (s : State) (k : Nat) (c : Core) : (s.setCore k c).trc = s.trc := by rw [setCore_eq]
@[simp] theorem setCore_pwr (s : State) (k : Nat) (c : Core) : (s.setCore k c).pwr = s.pwr := by rw [setCore_eq]
@[simp] theorem setCore_boot (s : State) (k : Nat) (c : Core) : (s.setCore k c).boot = s.boot := by rw [setCore_eq]
@[simp] theorem setCore_casc (s : State) (k : Nat) (c : Core) : (s.setCore k c).casc = s.casc := by rw [setCore_eq]
@[simp] theorem setCore_hk (s : State) (k : Nat) (c : Core) : (s.setCore k c).hk = s.hk := by rw [setCore_eq]
@[simp] theorem setCore_cd (s : State) (k : Nat) (c : Core) : (s.setCore k c).cd = s.cd := by rw [setCore_eq]
@[simp] theorem setCore_pw (s : State) (k : Nat) (c : Core) : (s.setCore k c).pw = s.pw := by rw [setCore_eq]
@[simp] theorem setCore_unlocked (s : State) (k : Nat) (c : Core) : (s.setCore k c).unlocked = s.unlocked := by rw [setCore_eq]
@[simp] theorem setCore_commits (s : State) (k : Nat) (c : Core) : (s.setCore k c).commits = s.commits := by rw [setCore_eq]
@[simp] theorem setCore_marks (s : State) (k : Nat) (c : Core) : (s.setCore k c).marks = s.marks := by rw [setCore_eq]
@[simp] theorem setCore_log (s : State) (k : Nat) (c : Core) : (s.setCore k c).log = s.log := by rw [setCore_eq]
@[simp] theorem setCore_gathers (s : State) (k : Nat) (c : Core) : (s.setCore k c).gathers = s.gathers := by rw [setCore_eq]
@[simp] theorem setCore_supHeld (s : State) (k : Nat) (c : Core) : (s.setCore k c).supHeld = s.supHeld := by rw [setCore_eq]
@[simp] theorem setCore_spi (s : State) (k : Nat) (c : Core) : (s.setCore k c).spi = s.spi := by rw [setCore_eq]
@[simp] theorem setCore_mdio (s : State) (k : Nat) (c : Core) : (s.setCore k c).mdio = s.mdio := by rw [setCore_eq]
@[simp] theorem setCore_cascStatus (s : State) (k : Nat) (c : Core) : (s.setCore k c).cascStatus = s.cascStatus := by rw [setCore_eq]
@[simp] theorem setCore_resp (s : State) (k : Nat) (c : Core) : (s.setCore k c).resp = s.resp := by rw [setCore_eq]
@[simp] theorem setCore_tick (s : State) (k : Nat) (c : Core) : (s.setCore k c).tick = s.tick := by rw [setCore_eq]
@[simp] theorem setCore_clock (s : State) (k : Nat) (c : Core) : (s.setCore k c).clock = s.clock := by rw [setCore_eq]
@[simp] theorem setCore_time (s : State) (k : Nat) (c : Core) : (s.setCore k c).time = s.time := by rw [setCore_eq]
@[simp] theorem setCore_propTick (s : State) (k : Nat) (c : Core) : (s.setCore k c).propTick = s.propTick := by rw [setCore_eq]
@[simp] theorem setCore_propFam (s : State) (k : Nat) (c : Core) : (s.setCore k c).propFam = s.propFam := by rw [setCore_eq]
@[simp] theorem setCore_propMask (s : State) (k : Nat) (c : Core) : (s.setCore k c).propMask = s.propMask := by rw [setCore_eq]
@[simp] theorem setCore_upStage (s : State) (k : Nat) (c : Core) : (s.setCore k c).upStage = s.upStage := by rw [setCore_eq]
@[simp] theorem setCore_free (s : State) (k : Nat) (c : Core) : (s.setCore k c).free = s.free := by rw [setCore_eq]

/-! ## modCore -/

@[simp] theorem modCore_pending (s : State) (k : Nat) (f : Core → Core) : (s.modCore k f).pending = s.pending := setCore_pending _ _ _
@[simp] theorem modCore_variant (s : State) (k : Nat) (f : Core → Core) : (s.modCore k f).variant = s.variant := setCore_variant _ _ _
@[simp] theorem modCore_slave (s : State) (k : Nat) (f : Core → Core) : (s.modCore k f).slave = s.slave := setCore_slave _ _ _
@[simp] theorem modCore_regs (s : State) (k : Nat) (f : Core → Core) : (s.modCore k f).regs = s.regs := setCore_regs _ _ _
@[simp] theorem modCore_inForce (s : State) (k : Nat) (f : Core → Core) : (s.modCore k f).inForce = s.inForce := setCore_inForce _ _ _
@[simp] theorem modCore_latched (s : State) (k : Nat) (f : Core → Core) : (s.modCore k f).latched = s.latched := setCore_latched _ _ _
@[simp] theorem modCore_live (s : State) (k : Nat) (f : Core → Core) : (s.modCore k f).live = s.live := setCore_live _ _ _
@[simp] theorem modCore_mem (s : State) (k : Nat) (f : Core → Core) : (s.modCore k f).mem = s.mem := setCore_mem _ _ _
@[simp] theorem modCore_ms (s : State) (k : Nat) (f : Core → Core) : (s.modCore k f).ms = s.ms := setCore_ms _ _ _
@[simp] theorem modCore_cores (s : State) (k : Nat) (f : Core → Core) : (s.modCore k f).cores = Tbl.put (some (coreReset k)) s.cores k (f (s.core k)) := setCore_cores _ _ _
@[simp] theorem modCore_clus (s : State) (k : Nat) (f : Core → Core) : (s.modCore k f).clus = s.clus := setCore_clus _ _ _
@[simp] theorem modCore_supState (s : State) (k : Nat) (f : Core → Core) : (s.modCore k f).supState = s.supState := setCore_supState _ _ _
@[simp] theorem modCore_lrx (s : State) (k : Nat) (f : Core → Core) : (s.modCore k f).lrx = s.lrx := setCore_lrx _ _ _
@[simp] theorem modCore_ltx (s : State) (k : Nat) (f : Core → Core) : (s.modCore k f).ltx = s.ltx := setCore_ltx _ _ _
@[simp] theorem modCore_ifec (s : State) (k : Nat) (f : Core → Core) : (s.modCore k f).ifec = s.ifec := setCore_ifec _ _ _
@[simp] theorem modCore_port (s : State) (k : Nat) (f : Core → Core) : (s.modCore k f).port = s.port := setCore_port _ _ _
@[simp] theorem modCore_hsl (s : State) (k : Nat) (f : Core → Core) : (s.modCore k f).hsl = s.hsl := setCore_hsl _ _ _
@[simp] theorem modCore_cal (s : State) (k : Nat) (f : Core → Core) : (s.modCore k f).cal = s.cal := setCore_cal _ _ _
@[simp] theorem modCore_part (s : State) (k : Nat) (f : Core → Core) : (s.modCore k f).part = s.part := setCore_part _ _ _
@[simp] theorem modCore_dawn (s : State) (k : Nat) (f : Core → Core) : (s.modCore k f).dawn = s.dawn := setCore_dawn _ _ _
@[simp] theorem modCore_cap (s : State) (k : Nat) (f : Core → Core) : (s.modCore k f).cap = s.cap := setCore_cap _ _ _
@[simp] theorem modCore_rpl (s : State) (k : Nat) (f : Core → Core) : (s.modCore k f).rpl = s.rpl := setCore_rpl _ _ _
@[simp] theorem modCore_trc (s : State) (k : Nat) (f : Core → Core) : (s.modCore k f).trc = s.trc := setCore_trc _ _ _
@[simp] theorem modCore_pwr (s : State) (k : Nat) (f : Core → Core) : (s.modCore k f).pwr = s.pwr := setCore_pwr _ _ _
@[simp] theorem modCore_boot (s : State) (k : Nat) (f : Core → Core) : (s.modCore k f).boot = s.boot := setCore_boot _ _ _
@[simp] theorem modCore_casc (s : State) (k : Nat) (f : Core → Core) : (s.modCore k f).casc = s.casc := setCore_casc _ _ _
@[simp] theorem modCore_hk (s : State) (k : Nat) (f : Core → Core) : (s.modCore k f).hk = s.hk := setCore_hk _ _ _
@[simp] theorem modCore_cd (s : State) (k : Nat) (f : Core → Core) : (s.modCore k f).cd = s.cd := setCore_cd _ _ _
@[simp] theorem modCore_pw (s : State) (k : Nat) (f : Core → Core) : (s.modCore k f).pw = s.pw := setCore_pw _ _ _
@[simp] theorem modCore_unlocked (s : State) (k : Nat) (f : Core → Core) : (s.modCore k f).unlocked = s.unlocked := setCore_unlocked _ _ _
@[simp] theorem modCore_commits (s : State) (k : Nat) (f : Core → Core) : (s.modCore k f).commits = s.commits := setCore_commits _ _ _
@[simp] theorem modCore_marks (s : State) (k : Nat) (f : Core → Core) : (s.modCore k f).marks = s.marks := setCore_marks _ _ _
@[simp] theorem modCore_log (s : State) (k : Nat) (f : Core → Core) : (s.modCore k f).log = s.log := setCore_log _ _ _
@[simp] theorem modCore_gathers (s : State) (k : Nat) (f : Core → Core) : (s.modCore k f).gathers = s.gathers := setCore_gathers _ _ _
@[simp] theorem modCore_supHeld (s : State) (k : Nat) (f : Core → Core) : (s.modCore k f).supHeld = s.supHeld := setCore_supHeld _ _ _
@[simp] theorem modCore_spi (s : State) (k : Nat) (f : Core → Core) : (s.modCore k f).spi = s.spi := setCore_spi _ _ _
@[simp] theorem modCore_mdio (s : State) (k : Nat) (f : Core → Core) : (s.modCore k f).mdio = s.mdio := setCore_mdio _ _ _
@[simp] theorem modCore_cascStatus (s : State) (k : Nat) (f : Core → Core) : (s.modCore k f).cascStatus = s.cascStatus := setCore_cascStatus _ _ _
@[simp] theorem modCore_resp (s : State) (k : Nat) (f : Core → Core) : (s.modCore k f).resp = s.resp := setCore_resp _ _ _
@[simp] theorem modCore_tick (s : State) (k : Nat) (f : Core → Core) : (s.modCore k f).tick = s.tick := setCore_tick _ _ _
@[simp] theorem modCore_clock (s : State) (k : Nat) (f : Core → Core) : (s.modCore k f).clock = s.clock := setCore_clock _ _ _
@[simp] theorem modCore_time (s : State) (k : Nat) (f : Core → Core) : (s.modCore k f).time = s.time := setCore_time _ _ _
@[simp] theorem modCore_propTick (s : State) (k : Nat) (f : Core → Core) : (s.modCore k f).propTick = s.propTick := setCore_propTick _ _ _
@[simp] theorem modCore_propFam (s : State) (k : Nat) (f : Core → Core) : (s.modCore k f).propFam = s.propFam := setCore_propFam _ _ _
@[simp] theorem modCore_propMask (s : State) (k : Nat) (f : Core → Core) : (s.modCore k f).propMask = s.propMask := setCore_propMask _ _ _
@[simp] theorem modCore_upStage (s : State) (k : Nat) (f : Core → Core) : (s.modCore k f).upStage = s.upStage := setCore_upStage _ _ _
@[simp] theorem modCore_free (s : State) (k : Nat) (f : Core → Core) : (s.modCore k f).free = s.free := setCore_free _ _ _

/-! ## modClu -/

theorem modClu_eq (s : State) (c : Nat) (f : Clu → Clu) : s.modClu c f = { s with clus := Tbl.put (some Clu.init) s.clus c (f (s.clu c)) } := rfl
@[simp] theorem modClu_pending (s : State) (c : Nat) (f : Clu → Clu) : (s.modClu c f).pending = s.pending := by rw [modClu_eq]
@[simp] theorem modClu_variant (s : State) (c : Nat) (f : Clu → Clu) : (s.modClu c f).variant = s.variant := by rw [modClu_eq]
@[simp] theorem modClu_slave (s : State) (c : Nat) (f : Clu → Clu) : (s.modClu c f).slave = s.slave := by rw [modClu_eq]
@[simp] theorem modClu_regs (s : State) (c : Nat) (f : Clu → Clu) : (s.modClu c f).regs = s.regs := by rw [modClu_eq]
@[simp] theorem modClu_inForce (s : State) (c : Nat) (f : Clu → Clu) : (s.modClu c f).inForce = s.inForce := by rw [modClu_eq]
@[simp] theorem modClu_latched (s : State) (c : Nat) (f : Clu → Clu) : (s.modClu c f).latched = s.latched := by rw [modClu_eq]
@[simp] theorem modClu_live (s : State) (c : Nat) (f : Clu → Clu) : (s.modClu c f).live = s.live := by rw [modClu_eq]
@[simp] theorem modClu_mem (s : State) (c : Nat) (f : Clu → Clu) : (s.modClu c f).mem = s.mem := by rw [modClu_eq]
@[simp] theorem modClu_ms (s : State) (c : Nat) (f : Clu → Clu) : (s.modClu c f).ms = s.ms := by rw [modClu_eq]
@[simp] theorem modClu_cores (s : State) (c : Nat) (f : Clu → Clu) : (s.modClu c f).cores = s.cores := by rw [modClu_eq]
@[simp] theorem modClu_supState (s : State) (c : Nat) (f : Clu → Clu) : (s.modClu c f).supState = s.supState := by rw [modClu_eq]
@[simp] theorem modClu_lrx (s : State) (c : Nat) (f : Clu → Clu) : (s.modClu c f).lrx = s.lrx := by rw [modClu_eq]
@[simp] theorem modClu_ltx (s : State) (c : Nat) (f : Clu → Clu) : (s.modClu c f).ltx = s.ltx := by rw [modClu_eq]
@[simp] theorem modClu_ifec (s : State) (c : Nat) (f : Clu → Clu) : (s.modClu c f).ifec = s.ifec := by rw [modClu_eq]
@[simp] theorem modClu_port (s : State) (c : Nat) (f : Clu → Clu) : (s.modClu c f).port = s.port := by rw [modClu_eq]
@[simp] theorem modClu_hsl (s : State) (c : Nat) (f : Clu → Clu) : (s.modClu c f).hsl = s.hsl := by rw [modClu_eq]
@[simp] theorem modClu_cal (s : State) (c : Nat) (f : Clu → Clu) : (s.modClu c f).cal = s.cal := by rw [modClu_eq]
@[simp] theorem modClu_part (s : State) (c : Nat) (f : Clu → Clu) : (s.modClu c f).part = s.part := by rw [modClu_eq]
@[simp] theorem modClu_dawn (s : State) (c : Nat) (f : Clu → Clu) : (s.modClu c f).dawn = s.dawn := by rw [modClu_eq]
@[simp] theorem modClu_cap (s : State) (c : Nat) (f : Clu → Clu) : (s.modClu c f).cap = s.cap := by rw [modClu_eq]
@[simp] theorem modClu_rpl (s : State) (c : Nat) (f : Clu → Clu) : (s.modClu c f).rpl = s.rpl := by rw [modClu_eq]
@[simp] theorem modClu_trc (s : State) (c : Nat) (f : Clu → Clu) : (s.modClu c f).trc = s.trc := by rw [modClu_eq]
@[simp] theorem modClu_pwr (s : State) (c : Nat) (f : Clu → Clu) : (s.modClu c f).pwr = s.pwr := by rw [modClu_eq]
@[simp] theorem modClu_boot (s : State) (c : Nat) (f : Clu → Clu) : (s.modClu c f).boot = s.boot := by rw [modClu_eq]
@[simp] theorem modClu_casc (s : State) (c : Nat) (f : Clu → Clu) : (s.modClu c f).casc = s.casc := by rw [modClu_eq]
@[simp] theorem modClu_hk (s : State) (c : Nat) (f : Clu → Clu) : (s.modClu c f).hk = s.hk := by rw [modClu_eq]
@[simp] theorem modClu_cd (s : State) (c : Nat) (f : Clu → Clu) : (s.modClu c f).cd = s.cd := by rw [modClu_eq]
@[simp] theorem modClu_pw (s : State) (c : Nat) (f : Clu → Clu) : (s.modClu c f).pw = s.pw := by rw [modClu_eq]
@[simp] theorem modClu_unlocked (s : State) (c : Nat) (f : Clu → Clu) : (s.modClu c f).unlocked = s.unlocked := by rw [modClu_eq]
@[simp] theorem modClu_commits (s : State) (c : Nat) (f : Clu → Clu) : (s.modClu c f).commits = s.commits := by rw [modClu_eq]
@[simp] theorem modClu_marks (s : State) (c : Nat) (f : Clu → Clu) : (s.modClu c f).marks = s.marks := by rw [modClu_eq]
@[simp] theorem modClu_log (s : State) (c : Nat) (f : Clu → Clu) : (s.modClu c f).log = s.log := by rw [modClu_eq]
@[simp] theorem modClu_gathers (s : State) (c : Nat) (f : Clu → Clu) : (s.modClu c f).gathers = s.gathers := by rw [modClu_eq]
@[simp] theorem modClu_supHeld (s : State) (c : Nat) (f : Clu → Clu) : (s.modClu c f).supHeld = s.supHeld := by rw [modClu_eq]
@[simp] theorem modClu_spi (s : State) (c : Nat) (f : Clu → Clu) : (s.modClu c f).spi = s.spi := by rw [modClu_eq]
@[simp] theorem modClu_mdio (s : State) (c : Nat) (f : Clu → Clu) : (s.modClu c f).mdio = s.mdio := by rw [modClu_eq]
@[simp] theorem modClu_cascStatus (s : State) (c : Nat) (f : Clu → Clu) : (s.modClu c f).cascStatus = s.cascStatus := by rw [modClu_eq]
@[simp] theorem modClu_resp (s : State) (c : Nat) (f : Clu → Clu) : (s.modClu c f).resp = s.resp := by rw [modClu_eq]
@[simp] theorem modClu_tick (s : State) (c : Nat) (f : Clu → Clu) : (s.modClu c f).tick = s.tick := by rw [modClu_eq]
@[simp] theorem modClu_clock (s : State) (c : Nat) (f : Clu → Clu) : (s.modClu c f).clock = s.clock := by rw [modClu_eq]
@[simp] theorem modClu_time (s : State) (c : Nat) (f : Clu → Clu) : (s.modClu c f).time = s.time := by rw [modClu_eq]
@[simp] theorem modClu_propTick (s : State) (c : Nat) (f : Clu → Clu) : (s.modClu c f).propTick = s.propTick := by rw [modClu_eq]
@[simp] theorem modClu_propFam (s : State) (c : Nat) (f : Clu → Clu) : (s.modClu c f).propFam = s.propFam := by rw [modClu_eq]
@[simp] theorem modClu_propMask (s : State) (c : Nat) (f : Clu → Clu) : (s.modClu c f).propMask = s.propMask := by rw [modClu_eq]
@[simp] theorem modClu_upStage (s : State) (c : Nat) (f : Clu → Clu) : (s.modClu c f).upStage = s.upStage := by rw [modClu_eq]
@[simp] theorem modClu_free (s : State) (c : Nat) (f : Clu → Clu) : (s.modClu c f).free = s.free := by rw [modClu_eq]

/-! ## modLrx -/

@[simp] theorem modLrx_pending (s : State) (n : Nat) (f : LrxSt → LrxSt) : (s.modLrx n f).pending = s.pending := rfl
@[simp] theorem modLrx_variant (s : State) (n : Nat) (f : LrxSt → LrxSt) : (s.modLrx n f).variant = s.variant := rfl
@[simp] theorem modLrx_slave (s : State) (n : Nat) (f : LrxSt → LrxSt) : (s.modLrx n f).slave = s.slave := rfl
@[simp] theorem modLrx_regs (s : State) (n : Nat) (f : LrxSt → LrxSt) : (s.modLrx n f).regs = s.regs := rfl
@[simp] theorem modLrx_inForce (s : State) (n : Nat) (f : LrxSt → LrxSt) : (s.modLrx n f).inForce = s.inForce := rfl
@[simp] theorem modLrx_latched (s : State) (n : Nat) (f : LrxSt → LrxSt) : (s.modLrx n f).latched = s.latched := rfl
@[simp] theorem modLrx_live (s : State) (n : Nat) (f : LrxSt → LrxSt) : (s.modLrx n f).live = s.live := rfl
@[simp] theorem modLrx_mem (s : State) (n : Nat) (f : LrxSt → LrxSt) : (s.modLrx n f).mem = s.mem := rfl
@[simp] theorem modLrx_ms (s : State) (n : Nat) (f : LrxSt → LrxSt) : (s.modLrx n f).ms = s.ms := rfl
@[simp] theorem modLrx_cores (s : State) (n : Nat) (f : LrxSt → LrxSt) : (s.modLrx n f).cores = s.cores := rfl
@[simp] theorem modLrx_clus (s : State) (n : Nat) (f : LrxSt → LrxSt) : (s.modLrx n f).clus = s.clus := rfl
@[simp] theorem modLrx_supState (s : State) (n : Nat) (f : LrxSt → LrxSt) : (s.modLrx n f).supState = s.supState := rfl
@[simp] theorem modLrx_ltx (s : State) (n : Nat) (f : LrxSt → LrxSt) : (s.modLrx n f).ltx = s.ltx := rfl
@[simp] theorem modLrx_ifec (s : State) (n : Nat) (f : LrxSt → LrxSt) : (s.modLrx n f).ifec = s.ifec := rfl
@[simp] theorem modLrx_port (s : State) (n : Nat) (f : LrxSt → LrxSt) : (s.modLrx n f).port = s.port := rfl
@[simp] theorem modLrx_hsl (s : State) (n : Nat) (f : LrxSt → LrxSt) : (s.modLrx n f).hsl = s.hsl := rfl
@[simp] theorem modLrx_cal (s : State) (n : Nat) (f : LrxSt → LrxSt) : (s.modLrx n f).cal = s.cal := rfl
@[simp] theorem modLrx_part (s : State) (n : Nat) (f : LrxSt → LrxSt) : (s.modLrx n f).part = s.part := rfl
@[simp] theorem modLrx_dawn (s : State) (n : Nat) (f : LrxSt → LrxSt) : (s.modLrx n f).dawn = s.dawn := rfl
@[simp] theorem modLrx_cap (s : State) (n : Nat) (f : LrxSt → LrxSt) : (s.modLrx n f).cap = s.cap := rfl
@[simp] theorem modLrx_rpl (s : State) (n : Nat) (f : LrxSt → LrxSt) : (s.modLrx n f).rpl = s.rpl := rfl
@[simp] theorem modLrx_trc (s : State) (n : Nat) (f : LrxSt → LrxSt) : (s.modLrx n f).trc = s.trc := rfl
@[simp] theorem modLrx_pwr (s : State) (n : Nat) (f : LrxSt → LrxSt) : (s.modLrx n f).pwr = s.pwr := rfl
@[simp] theorem modLrx_boot (s : State) (n : Nat) (f : LrxSt → LrxSt) : (s.modLrx n f).boot = s.boot := rfl
@[simp] theorem modLrx_casc (s : State) (n : Nat) (f : LrxSt → LrxSt) : (s.modLrx n f).casc = s.casc := rfl
@[simp] theorem modLrx_hk (s : State) (n : Nat) (f : LrxSt → LrxSt) : (s.modLrx n f).hk = s.hk := rfl
@[simp] theorem modLrx_cd (s : State) (n : Nat) (f : LrxSt → LrxSt) : (s.modLrx n f).cd = s.cd := rfl
@[simp] theorem modLrx_pw (s : State) (n : Nat) (f : LrxSt → LrxSt) : (s.modLrx n f).pw = s.pw := rfl
@[simp] theorem modLrx_unlocked (s : State) (n : Nat) (f : LrxSt → LrxSt) : (s.modLrx n f).unlocked = s.unlocked := rfl
@[simp] theorem modLrx_commits (s : State) (n : Nat) (f : LrxSt → LrxSt) : (s.modLrx n f).commits = s.commits := rfl
@[simp] theorem modLrx_marks (s : State) (n : Nat) (f : LrxSt → LrxSt) : (s.modLrx n f).marks = s.marks := rfl
@[simp] theorem modLrx_log (s : State) (n : Nat) (f : LrxSt → LrxSt) : (s.modLrx n f).log = s.log := rfl
@[simp] theorem modLrx_gathers (s : State) (n : Nat) (f : LrxSt → LrxSt) : (s.modLrx n f).gathers = s.gathers := rfl
@[simp] theorem modLrx_supHeld (s : State) (n : Nat) (f : LrxSt → LrxSt) : (s.modLrx n f).supHeld = s.supHeld := rfl
@[simp] theorem modLrx_spi (s : State) (n : Nat) (f : LrxSt → LrxSt) : (s.modLrx n f).spi = s.spi := rfl
@[simp] theorem modLrx_mdio (s : State) (n : Nat) (f : LrxSt → LrxSt) : (s.modLrx n f).mdio = s.mdio := rfl
@[simp] theorem modLrx_cascStatus (s : State) (n : Nat) (f : LrxSt → LrxSt) : (s.modLrx n f).cascStatus = s.cascStatus := rfl
@[simp] theorem modLrx_resp (s : State) (n : Nat) (f : LrxSt → LrxSt) : (s.modLrx n f).resp = s.resp := rfl
@[simp] theorem modLrx_tick (s : State) (n : Nat) (f : LrxSt → LrxSt) : (s.modLrx n f).tick = s.tick := rfl
@[simp] theorem modLrx_clock (s : State) (n : Nat) (f : LrxSt → LrxSt) : (s.modLrx n f).clock = s.clock := rfl
@[simp] theorem modLrx_time (s : State) (n : Nat) (f : LrxSt → LrxSt) : (s.modLrx n f).time = s.time := rfl
@[simp] theorem modLrx_propTick (s : State) (n : Nat) (f : LrxSt → LrxSt) : (s.modLrx n f).propTick = s.propTick := rfl
@[simp] theorem modLrx_propFam (s : State) (n : Nat) (f : LrxSt → LrxSt) : (s.modLrx n f).propFam = s.propFam := rfl
@[simp] theorem modLrx_propMask (s : State) (n : Nat) (f : LrxSt → LrxSt) : (s.modLrx n f).propMask = s.propMask := rfl
@[simp] theorem modLrx_upStage (s : State) (n : Nat) (f : LrxSt → LrxSt) : (s.modLrx n f).upStage = s.upStage := rfl
@[simp] theorem modLrx_free (s : State) (n : Nat) (f : LrxSt → LrxSt) : (s.modLrx n f).free = s.free := rfl

/-! ## modLtx -/

@[simp] theorem modLtx_pending (s : State) (n : Nat) (f : LtxSt → LtxSt) : (s.modLtx n f).pending = s.pending := rfl
@[simp] theorem modLtx_variant (s : State) (n : Nat) (f : LtxSt → LtxSt) : (s.modLtx n f).variant = s.variant := rfl
@[simp] theorem modLtx_slave (s : State) (n : Nat) (f : LtxSt → LtxSt) : (s.modLtx n f).slave = s.slave := rfl
@[simp] theorem modLtx_regs (s : State) (n : Nat) (f : LtxSt → LtxSt) : (s.modLtx n f).regs = s.regs := rfl
@[simp] theorem modLtx_inForce (s : State) (n : Nat) (f : LtxSt → LtxSt) : (s.modLtx n f).inForce = s.inForce := rfl
@[simp] theorem modLtx_latched (s : State) (n : Nat) (f : LtxSt → LtxSt) : (s.modLtx n f).latched = s.latched := rfl
@[simp] theorem modLtx_live (s : State) (n : Nat) (f : LtxSt → LtxSt) : (s.modLtx n f).live = s.live := rfl
@[simp] theorem modLtx_mem (s : State) (n : Nat) (f : LtxSt → LtxSt) : (s.modLtx n f).mem = s.mem := rfl
@[simp] theorem modLtx_ms (s : State) (n : Nat) (f : LtxSt → LtxSt) : (s.modLtx n f).ms = s.ms := rfl
@[simp] theorem modLtx_cores (s : State) (n : Nat) (f : LtxSt → LtxSt) : (s.modLtx n f).cores = s.cores := rfl
@[simp] theorem modLtx_clus (s : State) (n : Nat) (f : LtxSt → LtxSt) : (s.modLtx n f).clus = s.clus := rfl
@[simp] theorem modLtx_supState (s : State) (n : Nat) (f : LtxSt → LtxSt) : (s.modLtx n f).supState = s.supState := rfl
@[simp] theorem modLtx_lrx (s : State) (n : Nat) (f : LtxSt → LtxSt) : (s.modLtx n f).lrx = s.lrx := rfl
@[simp] theorem modLtx_ifec (s : State) (n : Nat) (f : LtxSt → LtxSt) : (s.modLtx n f).ifec = s.ifec := rfl
@[simp] theorem modLtx_port (s : State) (n : Nat) (f : LtxSt → LtxSt) : (s.modLtx n f).port = s.port := rfl
@[simp] theorem modLtx_hsl (s : State) (n : Nat) (f : LtxSt → LtxSt) : (s.modLtx n f).hsl = s.hsl := rfl
@[simp] theorem modLtx_cal (s : State) (n : Nat) (f : LtxSt → LtxSt) : (s.modLtx n f).cal = s.cal := rfl
@[simp] theorem modLtx_part (s : State) (n : Nat) (f : LtxSt → LtxSt) : (s.modLtx n f).part = s.part := rfl
@[simp] theorem modLtx_dawn (s : State) (n : Nat) (f : LtxSt → LtxSt) : (s.modLtx n f).dawn = s.dawn := rfl
@[simp] theorem modLtx_cap (s : State) (n : Nat) (f : LtxSt → LtxSt) : (s.modLtx n f).cap = s.cap := rfl
@[simp] theorem modLtx_rpl (s : State) (n : Nat) (f : LtxSt → LtxSt) : (s.modLtx n f).rpl = s.rpl := rfl
@[simp] theorem modLtx_trc (s : State) (n : Nat) (f : LtxSt → LtxSt) : (s.modLtx n f).trc = s.trc := rfl
@[simp] theorem modLtx_pwr (s : State) (n : Nat) (f : LtxSt → LtxSt) : (s.modLtx n f).pwr = s.pwr := rfl
@[simp] theorem modLtx_boot (s : State) (n : Nat) (f : LtxSt → LtxSt) : (s.modLtx n f).boot = s.boot := rfl
@[simp] theorem modLtx_casc (s : State) (n : Nat) (f : LtxSt → LtxSt) : (s.modLtx n f).casc = s.casc := rfl
@[simp] theorem modLtx_hk (s : State) (n : Nat) (f : LtxSt → LtxSt) : (s.modLtx n f).hk = s.hk := rfl
@[simp] theorem modLtx_cd (s : State) (n : Nat) (f : LtxSt → LtxSt) : (s.modLtx n f).cd = s.cd := rfl
@[simp] theorem modLtx_pw (s : State) (n : Nat) (f : LtxSt → LtxSt) : (s.modLtx n f).pw = s.pw := rfl
@[simp] theorem modLtx_unlocked (s : State) (n : Nat) (f : LtxSt → LtxSt) : (s.modLtx n f).unlocked = s.unlocked := rfl
@[simp] theorem modLtx_commits (s : State) (n : Nat) (f : LtxSt → LtxSt) : (s.modLtx n f).commits = s.commits := rfl
@[simp] theorem modLtx_marks (s : State) (n : Nat) (f : LtxSt → LtxSt) : (s.modLtx n f).marks = s.marks := rfl
@[simp] theorem modLtx_log (s : State) (n : Nat) (f : LtxSt → LtxSt) : (s.modLtx n f).log = s.log := rfl
@[simp] theorem modLtx_gathers (s : State) (n : Nat) (f : LtxSt → LtxSt) : (s.modLtx n f).gathers = s.gathers := rfl
@[simp] theorem modLtx_supHeld (s : State) (n : Nat) (f : LtxSt → LtxSt) : (s.modLtx n f).supHeld = s.supHeld := rfl
@[simp] theorem modLtx_spi (s : State) (n : Nat) (f : LtxSt → LtxSt) : (s.modLtx n f).spi = s.spi := rfl
@[simp] theorem modLtx_mdio (s : State) (n : Nat) (f : LtxSt → LtxSt) : (s.modLtx n f).mdio = s.mdio := rfl
@[simp] theorem modLtx_cascStatus (s : State) (n : Nat) (f : LtxSt → LtxSt) : (s.modLtx n f).cascStatus = s.cascStatus := rfl
@[simp] theorem modLtx_resp (s : State) (n : Nat) (f : LtxSt → LtxSt) : (s.modLtx n f).resp = s.resp := rfl
@[simp] theorem modLtx_tick (s : State) (n : Nat) (f : LtxSt → LtxSt) : (s.modLtx n f).tick = s.tick := rfl
@[simp] theorem modLtx_clock (s : State) (n : Nat) (f : LtxSt → LtxSt) : (s.modLtx n f).clock = s.clock := rfl
@[simp] theorem modLtx_time (s : State) (n : Nat) (f : LtxSt → LtxSt) : (s.modLtx n f).time = s.time := rfl
@[simp] theorem modLtx_propTick (s : State) (n : Nat) (f : LtxSt → LtxSt) : (s.modLtx n f).propTick = s.propTick := rfl
@[simp] theorem modLtx_propFam (s : State) (n : Nat) (f : LtxSt → LtxSt) : (s.modLtx n f).propFam = s.propFam := rfl
@[simp] theorem modLtx_propMask (s : State) (n : Nat) (f : LtxSt → LtxSt) : (s.modLtx n f).propMask = s.propMask := rfl
@[simp] theorem modLtx_upStage (s : State) (n : Nat) (f : LtxSt → LtxSt) : (s.modLtx n f).upStage = s.upStage := rfl
@[simp] theorem modLtx_free (s : State) (n : Nat) (f : LtxSt → LtxSt) : (s.modLtx n f).free = s.free := rfl

/-! ## modIfec -/

@[simp] theorem modIfec_pending (s : State) (n : Nat) (f : IfecSt → IfecSt) : (s.modIfec n f).pending = s.pending := rfl
@[simp] theorem modIfec_variant (s : State) (n : Nat) (f : IfecSt → IfecSt) : (s.modIfec n f).variant = s.variant := rfl
@[simp] theorem modIfec_slave (s : State) (n : Nat) (f : IfecSt → IfecSt) : (s.modIfec n f).slave = s.slave := rfl
@[simp] theorem modIfec_regs (s : State) (n : Nat) (f : IfecSt → IfecSt) : (s.modIfec n f).regs = s.regs := rfl
@[simp] theorem modIfec_inForce (s : State) (n : Nat) (f : IfecSt → IfecSt) : (s.modIfec n f).inForce = s.inForce := rfl
@[simp] theorem modIfec_latched (s : State) (n : Nat) (f : IfecSt → IfecSt) : (s.modIfec n f).latched = s.latched := rfl
@[simp] theorem modIfec_live (s : State) (n : Nat) (f : IfecSt → IfecSt) : (s.modIfec n f).live = s.live := rfl
@[simp] theorem modIfec_mem (s : State) (n : Nat) (f : IfecSt → IfecSt) : (s.modIfec n f).mem = s.mem := rfl
@[simp] theorem modIfec_ms (s : State) (n : Nat) (f : IfecSt → IfecSt) : (s.modIfec n f).ms = s.ms := rfl
@[simp] theorem modIfec_cores (s : State) (n : Nat) (f : IfecSt → IfecSt) : (s.modIfec n f).cores = s.cores := rfl
@[simp] theorem modIfec_clus (s : State) (n : Nat) (f : IfecSt → IfecSt) : (s.modIfec n f).clus = s.clus := rfl
@[simp] theorem modIfec_supState (s : State) (n : Nat) (f : IfecSt → IfecSt) : (s.modIfec n f).supState = s.supState := rfl
@[simp] theorem modIfec_lrx (s : State) (n : Nat) (f : IfecSt → IfecSt) : (s.modIfec n f).lrx = s.lrx := rfl
@[simp] theorem modIfec_ltx (s : State) (n : Nat) (f : IfecSt → IfecSt) : (s.modIfec n f).ltx = s.ltx := rfl
@[simp] theorem modIfec_port (s : State) (n : Nat) (f : IfecSt → IfecSt) : (s.modIfec n f).port = s.port := rfl
@[simp] theorem modIfec_hsl (s : State) (n : Nat) (f : IfecSt → IfecSt) : (s.modIfec n f).hsl = s.hsl := rfl
@[simp] theorem modIfec_cal (s : State) (n : Nat) (f : IfecSt → IfecSt) : (s.modIfec n f).cal = s.cal := rfl
@[simp] theorem modIfec_part (s : State) (n : Nat) (f : IfecSt → IfecSt) : (s.modIfec n f).part = s.part := rfl
@[simp] theorem modIfec_dawn (s : State) (n : Nat) (f : IfecSt → IfecSt) : (s.modIfec n f).dawn = s.dawn := rfl
@[simp] theorem modIfec_cap (s : State) (n : Nat) (f : IfecSt → IfecSt) : (s.modIfec n f).cap = s.cap := rfl
@[simp] theorem modIfec_rpl (s : State) (n : Nat) (f : IfecSt → IfecSt) : (s.modIfec n f).rpl = s.rpl := rfl
@[simp] theorem modIfec_trc (s : State) (n : Nat) (f : IfecSt → IfecSt) : (s.modIfec n f).trc = s.trc := rfl
@[simp] theorem modIfec_pwr (s : State) (n : Nat) (f : IfecSt → IfecSt) : (s.modIfec n f).pwr = s.pwr := rfl
@[simp] theorem modIfec_boot (s : State) (n : Nat) (f : IfecSt → IfecSt) : (s.modIfec n f).boot = s.boot := rfl
@[simp] theorem modIfec_casc (s : State) (n : Nat) (f : IfecSt → IfecSt) : (s.modIfec n f).casc = s.casc := rfl
@[simp] theorem modIfec_hk (s : State) (n : Nat) (f : IfecSt → IfecSt) : (s.modIfec n f).hk = s.hk := rfl
@[simp] theorem modIfec_cd (s : State) (n : Nat) (f : IfecSt → IfecSt) : (s.modIfec n f).cd = s.cd := rfl
@[simp] theorem modIfec_pw (s : State) (n : Nat) (f : IfecSt → IfecSt) : (s.modIfec n f).pw = s.pw := rfl
@[simp] theorem modIfec_unlocked (s : State) (n : Nat) (f : IfecSt → IfecSt) : (s.modIfec n f).unlocked = s.unlocked := rfl
@[simp] theorem modIfec_commits (s : State) (n : Nat) (f : IfecSt → IfecSt) : (s.modIfec n f).commits = s.commits := rfl
@[simp] theorem modIfec_marks (s : State) (n : Nat) (f : IfecSt → IfecSt) : (s.modIfec n f).marks = s.marks := rfl
@[simp] theorem modIfec_log (s : State) (n : Nat) (f : IfecSt → IfecSt) : (s.modIfec n f).log = s.log := rfl
@[simp] theorem modIfec_gathers (s : State) (n : Nat) (f : IfecSt → IfecSt) : (s.modIfec n f).gathers = s.gathers := rfl
@[simp] theorem modIfec_supHeld (s : State) (n : Nat) (f : IfecSt → IfecSt) : (s.modIfec n f).supHeld = s.supHeld := rfl
@[simp] theorem modIfec_spi (s : State) (n : Nat) (f : IfecSt → IfecSt) : (s.modIfec n f).spi = s.spi := rfl
@[simp] theorem modIfec_mdio (s : State) (n : Nat) (f : IfecSt → IfecSt) : (s.modIfec n f).mdio = s.mdio := rfl
@[simp] theorem modIfec_cascStatus (s : State) (n : Nat) (f : IfecSt → IfecSt) : (s.modIfec n f).cascStatus = s.cascStatus := rfl
@[simp] theorem modIfec_resp (s : State) (n : Nat) (f : IfecSt → IfecSt) : (s.modIfec n f).resp = s.resp := rfl
@[simp] theorem modIfec_tick (s : State) (n : Nat) (f : IfecSt → IfecSt) : (s.modIfec n f).tick = s.tick := rfl
@[simp] theorem modIfec_clock (s : State) (n : Nat) (f : IfecSt → IfecSt) : (s.modIfec n f).clock = s.clock := rfl
@[simp] theorem modIfec_time (s : State) (n : Nat) (f : IfecSt → IfecSt) : (s.modIfec n f).time = s.time := rfl
@[simp] theorem modIfec_propTick (s : State) (n : Nat) (f : IfecSt → IfecSt) : (s.modIfec n f).propTick = s.propTick := rfl
@[simp] theorem modIfec_propFam (s : State) (n : Nat) (f : IfecSt → IfecSt) : (s.modIfec n f).propFam = s.propFam := rfl
@[simp] theorem modIfec_propMask (s : State) (n : Nat) (f : IfecSt → IfecSt) : (s.modIfec n f).propMask = s.propMask := rfl
@[simp] theorem modIfec_upStage (s : State) (n : Nat) (f : IfecSt → IfecSt) : (s.modIfec n f).upStage = s.upStage := rfl
@[simp] theorem modIfec_free (s : State) (n : Nat) (f : IfecSt → IfecSt) : (s.modIfec n f).free = s.free := rfl

/-! ## modPort -/

@[simp] theorem modPort_pending (s : State) (n : Nat) (f : PortSt → PortSt) : (s.modPort n f).pending = s.pending := rfl
@[simp] theorem modPort_variant (s : State) (n : Nat) (f : PortSt → PortSt) : (s.modPort n f).variant = s.variant := rfl
@[simp] theorem modPort_slave (s : State) (n : Nat) (f : PortSt → PortSt) : (s.modPort n f).slave = s.slave := rfl
@[simp] theorem modPort_regs (s : State) (n : Nat) (f : PortSt → PortSt) : (s.modPort n f).regs = s.regs := rfl
@[simp] theorem modPort_inForce (s : State) (n : Nat) (f : PortSt → PortSt) : (s.modPort n f).inForce = s.inForce := rfl
@[simp] theorem modPort_latched (s : State) (n : Nat) (f : PortSt → PortSt) : (s.modPort n f).latched = s.latched := rfl
@[simp] theorem modPort_live (s : State) (n : Nat) (f : PortSt → PortSt) : (s.modPort n f).live = s.live := rfl
@[simp] theorem modPort_mem (s : State) (n : Nat) (f : PortSt → PortSt) : (s.modPort n f).mem = s.mem := rfl
@[simp] theorem modPort_ms (s : State) (n : Nat) (f : PortSt → PortSt) : (s.modPort n f).ms = s.ms := rfl
@[simp] theorem modPort_cores (s : State) (n : Nat) (f : PortSt → PortSt) : (s.modPort n f).cores = s.cores := rfl
@[simp] theorem modPort_clus (s : State) (n : Nat) (f : PortSt → PortSt) : (s.modPort n f).clus = s.clus := rfl
@[simp] theorem modPort_supState (s : State) (n : Nat) (f : PortSt → PortSt) : (s.modPort n f).supState = s.supState := rfl
@[simp] theorem modPort_lrx (s : State) (n : Nat) (f : PortSt → PortSt) : (s.modPort n f).lrx = s.lrx := rfl
@[simp] theorem modPort_ltx (s : State) (n : Nat) (f : PortSt → PortSt) : (s.modPort n f).ltx = s.ltx := rfl
@[simp] theorem modPort_ifec (s : State) (n : Nat) (f : PortSt → PortSt) : (s.modPort n f).ifec = s.ifec := rfl
@[simp] theorem modPort_hsl (s : State) (n : Nat) (f : PortSt → PortSt) : (s.modPort n f).hsl = s.hsl := rfl
@[simp] theorem modPort_cal (s : State) (n : Nat) (f : PortSt → PortSt) : (s.modPort n f).cal = s.cal := rfl
@[simp] theorem modPort_part (s : State) (n : Nat) (f : PortSt → PortSt) : (s.modPort n f).part = s.part := rfl
@[simp] theorem modPort_dawn (s : State) (n : Nat) (f : PortSt → PortSt) : (s.modPort n f).dawn = s.dawn := rfl
@[simp] theorem modPort_cap (s : State) (n : Nat) (f : PortSt → PortSt) : (s.modPort n f).cap = s.cap := rfl
@[simp] theorem modPort_rpl (s : State) (n : Nat) (f : PortSt → PortSt) : (s.modPort n f).rpl = s.rpl := rfl
@[simp] theorem modPort_trc (s : State) (n : Nat) (f : PortSt → PortSt) : (s.modPort n f).trc = s.trc := rfl
@[simp] theorem modPort_pwr (s : State) (n : Nat) (f : PortSt → PortSt) : (s.modPort n f).pwr = s.pwr := rfl
@[simp] theorem modPort_boot (s : State) (n : Nat) (f : PortSt → PortSt) : (s.modPort n f).boot = s.boot := rfl
@[simp] theorem modPort_casc (s : State) (n : Nat) (f : PortSt → PortSt) : (s.modPort n f).casc = s.casc := rfl
@[simp] theorem modPort_hk (s : State) (n : Nat) (f : PortSt → PortSt) : (s.modPort n f).hk = s.hk := rfl
@[simp] theorem modPort_cd (s : State) (n : Nat) (f : PortSt → PortSt) : (s.modPort n f).cd = s.cd := rfl
@[simp] theorem modPort_pw (s : State) (n : Nat) (f : PortSt → PortSt) : (s.modPort n f).pw = s.pw := rfl
@[simp] theorem modPort_unlocked (s : State) (n : Nat) (f : PortSt → PortSt) : (s.modPort n f).unlocked = s.unlocked := rfl
@[simp] theorem modPort_commits (s : State) (n : Nat) (f : PortSt → PortSt) : (s.modPort n f).commits = s.commits := rfl
@[simp] theorem modPort_marks (s : State) (n : Nat) (f : PortSt → PortSt) : (s.modPort n f).marks = s.marks := rfl
@[simp] theorem modPort_log (s : State) (n : Nat) (f : PortSt → PortSt) : (s.modPort n f).log = s.log := rfl
@[simp] theorem modPort_gathers (s : State) (n : Nat) (f : PortSt → PortSt) : (s.modPort n f).gathers = s.gathers := rfl
@[simp] theorem modPort_supHeld (s : State) (n : Nat) (f : PortSt → PortSt) : (s.modPort n f).supHeld = s.supHeld := rfl
@[simp] theorem modPort_spi (s : State) (n : Nat) (f : PortSt → PortSt) : (s.modPort n f).spi = s.spi := rfl
@[simp] theorem modPort_mdio (s : State) (n : Nat) (f : PortSt → PortSt) : (s.modPort n f).mdio = s.mdio := rfl
@[simp] theorem modPort_cascStatus (s : State) (n : Nat) (f : PortSt → PortSt) : (s.modPort n f).cascStatus = s.cascStatus := rfl
@[simp] theorem modPort_resp (s : State) (n : Nat) (f : PortSt → PortSt) : (s.modPort n f).resp = s.resp := rfl
@[simp] theorem modPort_tick (s : State) (n : Nat) (f : PortSt → PortSt) : (s.modPort n f).tick = s.tick := rfl
@[simp] theorem modPort_clock (s : State) (n : Nat) (f : PortSt → PortSt) : (s.modPort n f).clock = s.clock := rfl
@[simp] theorem modPort_time (s : State) (n : Nat) (f : PortSt → PortSt) : (s.modPort n f).time = s.time := rfl
@[simp] theorem modPort_propTick (s : State) (n : Nat) (f : PortSt → PortSt) : (s.modPort n f).propTick = s.propTick := rfl
@[simp] theorem modPort_propFam (s : State) (n : Nat) (f : PortSt → PortSt) : (s.modPort n f).propFam = s.propFam := rfl
@[simp] theorem modPort_propMask (s : State) (n : Nat) (f : PortSt → PortSt) : (s.modPort n f).propMask = s.propMask := rfl
@[simp] theorem modPort_upStage (s : State) (n : Nat) (f : PortSt → PortSt) : (s.modPort n f).upStage = s.upStage := rfl
@[simp] theorem modPort_free (s : State) (n : Nat) (f : PortSt → PortSt) : (s.modPort n f).free = s.free := rfl

/-! ## modHsl -/

@[simp] theorem modHsl_pending (s : State) (n : Nat) (f : HslSt → HslSt) : (s.modHsl n f).pending = s.pending := rfl
@[simp] theorem modHsl_variant (s : State) (n : Nat) (f : HslSt → HslSt) : (s.modHsl n f).variant = s.variant := rfl
@[simp] theorem modHsl_slave (s : State) (n : Nat) (f : HslSt → HslSt) : (s.modHsl n f).slave = s.slave := rfl
@[simp] theorem modHsl_regs (s : State) (n : Nat) (f : HslSt → HslSt) : (s.modHsl n f).regs = s.regs := rfl
@[simp] theorem modHsl_inForce (s : State) (n : Nat) (f : HslSt → HslSt) : (s.modHsl n f).inForce = s.inForce := rfl
@[simp] theorem modHsl_latched (s : State) (n : Nat) (f : HslSt → HslSt) : (s.modHsl n f).latched = s.latched := rfl
@[simp] theorem modHsl_live (s : State) (n : Nat) (f : HslSt → HslSt) : (s.modHsl n f).live = s.live := rfl
@[simp] theorem modHsl_mem (s : State) (n : Nat) (f : HslSt → HslSt) : (s.modHsl n f).mem = s.mem := rfl
@[simp] theorem modHsl_ms (s : State) (n : Nat) (f : HslSt → HslSt) : (s.modHsl n f).ms = s.ms := rfl
@[simp] theorem modHsl_cores (s : State) (n : Nat) (f : HslSt → HslSt) : (s.modHsl n f).cores = s.cores := rfl
@[simp] theorem modHsl_clus (s : State) (n : Nat) (f : HslSt → HslSt) : (s.modHsl n f).clus = s.clus := rfl
@[simp] theorem modHsl_supState (s : State) (n : Nat) (f : HslSt → HslSt) : (s.modHsl n f).supState = s.supState := rfl
@[simp] theorem modHsl_lrx (s : State) (n : Nat) (f : HslSt → HslSt) : (s.modHsl n f).lrx = s.lrx := rfl
@[simp] theorem modHsl_ltx (s : State) (n : Nat) (f : HslSt → HslSt) : (s.modHsl n f).ltx = s.ltx := rfl
@[simp] theorem modHsl_ifec (s : State) (n : Nat) (f : HslSt → HslSt) : (s.modHsl n f).ifec = s.ifec := rfl
@[simp] theorem modHsl_port (s : State) (n : Nat) (f : HslSt → HslSt) : (s.modHsl n f).port = s.port := rfl
@[simp] theorem modHsl_cal (s : State) (n : Nat) (f : HslSt → HslSt) : (s.modHsl n f).cal = s.cal := rfl
@[simp] theorem modHsl_part (s : State) (n : Nat) (f : HslSt → HslSt) : (s.modHsl n f).part = s.part := rfl
@[simp] theorem modHsl_dawn (s : State) (n : Nat) (f : HslSt → HslSt) : (s.modHsl n f).dawn = s.dawn := rfl
@[simp] theorem modHsl_cap (s : State) (n : Nat) (f : HslSt → HslSt) : (s.modHsl n f).cap = s.cap := rfl
@[simp] theorem modHsl_rpl (s : State) (n : Nat) (f : HslSt → HslSt) : (s.modHsl n f).rpl = s.rpl := rfl
@[simp] theorem modHsl_trc (s : State) (n : Nat) (f : HslSt → HslSt) : (s.modHsl n f).trc = s.trc := rfl
@[simp] theorem modHsl_pwr (s : State) (n : Nat) (f : HslSt → HslSt) : (s.modHsl n f).pwr = s.pwr := rfl
@[simp] theorem modHsl_boot (s : State) (n : Nat) (f : HslSt → HslSt) : (s.modHsl n f).boot = s.boot := rfl
@[simp] theorem modHsl_casc (s : State) (n : Nat) (f : HslSt → HslSt) : (s.modHsl n f).casc = s.casc := rfl
@[simp] theorem modHsl_hk (s : State) (n : Nat) (f : HslSt → HslSt) : (s.modHsl n f).hk = s.hk := rfl
@[simp] theorem modHsl_cd (s : State) (n : Nat) (f : HslSt → HslSt) : (s.modHsl n f).cd = s.cd := rfl
@[simp] theorem modHsl_pw (s : State) (n : Nat) (f : HslSt → HslSt) : (s.modHsl n f).pw = s.pw := rfl
@[simp] theorem modHsl_unlocked (s : State) (n : Nat) (f : HslSt → HslSt) : (s.modHsl n f).unlocked = s.unlocked := rfl
@[simp] theorem modHsl_commits (s : State) (n : Nat) (f : HslSt → HslSt) : (s.modHsl n f).commits = s.commits := rfl
@[simp] theorem modHsl_marks (s : State) (n : Nat) (f : HslSt → HslSt) : (s.modHsl n f).marks = s.marks := rfl
@[simp] theorem modHsl_log (s : State) (n : Nat) (f : HslSt → HslSt) : (s.modHsl n f).log = s.log := rfl
@[simp] theorem modHsl_gathers (s : State) (n : Nat) (f : HslSt → HslSt) : (s.modHsl n f).gathers = s.gathers := rfl
@[simp] theorem modHsl_supHeld (s : State) (n : Nat) (f : HslSt → HslSt) : (s.modHsl n f).supHeld = s.supHeld := rfl
@[simp] theorem modHsl_spi (s : State) (n : Nat) (f : HslSt → HslSt) : (s.modHsl n f).spi = s.spi := rfl
@[simp] theorem modHsl_mdio (s : State) (n : Nat) (f : HslSt → HslSt) : (s.modHsl n f).mdio = s.mdio := rfl
@[simp] theorem modHsl_cascStatus (s : State) (n : Nat) (f : HslSt → HslSt) : (s.modHsl n f).cascStatus = s.cascStatus := rfl
@[simp] theorem modHsl_resp (s : State) (n : Nat) (f : HslSt → HslSt) : (s.modHsl n f).resp = s.resp := rfl
@[simp] theorem modHsl_tick (s : State) (n : Nat) (f : HslSt → HslSt) : (s.modHsl n f).tick = s.tick := rfl
@[simp] theorem modHsl_clock (s : State) (n : Nat) (f : HslSt → HslSt) : (s.modHsl n f).clock = s.clock := rfl
@[simp] theorem modHsl_time (s : State) (n : Nat) (f : HslSt → HslSt) : (s.modHsl n f).time = s.time := rfl
@[simp] theorem modHsl_propTick (s : State) (n : Nat) (f : HslSt → HslSt) : (s.modHsl n f).propTick = s.propTick := rfl
@[simp] theorem modHsl_propFam (s : State) (n : Nat) (f : HslSt → HslSt) : (s.modHsl n f).propFam = s.propFam := rfl
@[simp] theorem modHsl_propMask (s : State) (n : Nat) (f : HslSt → HslSt) : (s.modHsl n f).propMask = s.propMask := rfl
@[simp] theorem modHsl_upStage (s : State) (n : Nat) (f : HslSt → HslSt) : (s.modHsl n f).upStage = s.upStage := rfl
@[simp] theorem modHsl_free (s : State) (n : Nat) (f : HslSt → HslSt) : (s.modHsl n f).free = s.free := rfl

/-! ## modCal -/

@[simp] theorem modCal_pending (s : State) (n : Nat) (f : CalSt → CalSt) : (s.modCal n f).pending = s.pending := rfl
@[simp] theorem modCal_variant (s : State) (n : Nat) (f : CalSt → CalSt) : (s.modCal n f).variant = s.variant := rfl
@[simp] theorem modCal_slave (s : State) (n : Nat) (f : CalSt → CalSt) : (s.modCal n f).slave = s.slave := rfl
@[simp] theorem modCal_regs (s : State) (n : Nat) (f : CalSt → CalSt) : (s.modCal n f).regs = s.regs := rfl
@[simp] theorem modCal_inForce (s : State) (n : Nat) (f : CalSt → CalSt) : (s.modCal n f).inForce = s.inForce := rfl
@[simp] theorem modCal_latched (s : State) (n : Nat) (f : CalSt → CalSt) : (s.modCal n f).latched = s.latched := rfl
@[simp] theorem modCal_live (s : State) (n : Nat) (f : CalSt → CalSt) : (s.modCal n f).live = s.live := rfl
@[simp] theorem modCal_mem (s : State) (n : Nat) (f : CalSt → CalSt) : (s.modCal n f).mem = s.mem := rfl
@[simp] theorem modCal_ms (s : State) (n : Nat) (f : CalSt → CalSt) : (s.modCal n f).ms = s.ms := rfl
@[simp] theorem modCal_cores (s : State) (n : Nat) (f : CalSt → CalSt) : (s.modCal n f).cores = s.cores := rfl
@[simp] theorem modCal_clus (s : State) (n : Nat) (f : CalSt → CalSt) : (s.modCal n f).clus = s.clus := rfl
@[simp] theorem modCal_supState (s : State) (n : Nat) (f : CalSt → CalSt) : (s.modCal n f).supState = s.supState := rfl
@[simp] theorem modCal_lrx (s : State) (n : Nat) (f : CalSt → CalSt) : (s.modCal n f).lrx = s.lrx := rfl
@[simp] theorem modCal_ltx (s : State) (n : Nat) (f : CalSt → CalSt) : (s.modCal n f).ltx = s.ltx := rfl
@[simp] theorem modCal_ifec (s : State) (n : Nat) (f : CalSt → CalSt) : (s.modCal n f).ifec = s.ifec := rfl
@[simp] theorem modCal_port (s : State) (n : Nat) (f : CalSt → CalSt) : (s.modCal n f).port = s.port := rfl
@[simp] theorem modCal_hsl (s : State) (n : Nat) (f : CalSt → CalSt) : (s.modCal n f).hsl = s.hsl := rfl
@[simp] theorem modCal_part (s : State) (n : Nat) (f : CalSt → CalSt) : (s.modCal n f).part = s.part := rfl
@[simp] theorem modCal_dawn (s : State) (n : Nat) (f : CalSt → CalSt) : (s.modCal n f).dawn = s.dawn := rfl
@[simp] theorem modCal_cap (s : State) (n : Nat) (f : CalSt → CalSt) : (s.modCal n f).cap = s.cap := rfl
@[simp] theorem modCal_rpl (s : State) (n : Nat) (f : CalSt → CalSt) : (s.modCal n f).rpl = s.rpl := rfl
@[simp] theorem modCal_trc (s : State) (n : Nat) (f : CalSt → CalSt) : (s.modCal n f).trc = s.trc := rfl
@[simp] theorem modCal_pwr (s : State) (n : Nat) (f : CalSt → CalSt) : (s.modCal n f).pwr = s.pwr := rfl
@[simp] theorem modCal_boot (s : State) (n : Nat) (f : CalSt → CalSt) : (s.modCal n f).boot = s.boot := rfl
@[simp] theorem modCal_casc (s : State) (n : Nat) (f : CalSt → CalSt) : (s.modCal n f).casc = s.casc := rfl
@[simp] theorem modCal_hk (s : State) (n : Nat) (f : CalSt → CalSt) : (s.modCal n f).hk = s.hk := rfl
@[simp] theorem modCal_cd (s : State) (n : Nat) (f : CalSt → CalSt) : (s.modCal n f).cd = s.cd := rfl
@[simp] theorem modCal_pw (s : State) (n : Nat) (f : CalSt → CalSt) : (s.modCal n f).pw = s.pw := rfl
@[simp] theorem modCal_unlocked (s : State) (n : Nat) (f : CalSt → CalSt) : (s.modCal n f).unlocked = s.unlocked := rfl
@[simp] theorem modCal_commits (s : State) (n : Nat) (f : CalSt → CalSt) : (s.modCal n f).commits = s.commits := rfl
@[simp] theorem modCal_marks (s : State) (n : Nat) (f : CalSt → CalSt) : (s.modCal n f).marks = s.marks := rfl
@[simp] theorem modCal_log (s : State) (n : Nat) (f : CalSt → CalSt) : (s.modCal n f).log = s.log := rfl
@[simp] theorem modCal_gathers (s : State) (n : Nat) (f : CalSt → CalSt) : (s.modCal n f).gathers = s.gathers := rfl
@[simp] theorem modCal_supHeld (s : State) (n : Nat) (f : CalSt → CalSt) : (s.modCal n f).supHeld = s.supHeld := rfl
@[simp] theorem modCal_spi (s : State) (n : Nat) (f : CalSt → CalSt) : (s.modCal n f).spi = s.spi := rfl
@[simp] theorem modCal_mdio (s : State) (n : Nat) (f : CalSt → CalSt) : (s.modCal n f).mdio = s.mdio := rfl
@[simp] theorem modCal_cascStatus (s : State) (n : Nat) (f : CalSt → CalSt) : (s.modCal n f).cascStatus = s.cascStatus := rfl
@[simp] theorem modCal_resp (s : State) (n : Nat) (f : CalSt → CalSt) : (s.modCal n f).resp = s.resp := rfl
@[simp] theorem modCal_tick (s : State) (n : Nat) (f : CalSt → CalSt) : (s.modCal n f).tick = s.tick := rfl
@[simp] theorem modCal_clock (s : State) (n : Nat) (f : CalSt → CalSt) : (s.modCal n f).clock = s.clock := rfl
@[simp] theorem modCal_time (s : State) (n : Nat) (f : CalSt → CalSt) : (s.modCal n f).time = s.time := rfl
@[simp] theorem modCal_propTick (s : State) (n : Nat) (f : CalSt → CalSt) : (s.modCal n f).propTick = s.propTick := rfl
@[simp] theorem modCal_propFam (s : State) (n : Nat) (f : CalSt → CalSt) : (s.modCal n f).propFam = s.propFam := rfl
@[simp] theorem modCal_propMask (s : State) (n : Nat) (f : CalSt → CalSt) : (s.modCal n f).propMask = s.propMask := rfl
@[simp] theorem modCal_upStage (s : State) (n : Nat) (f : CalSt → CalSt) : (s.modCal n f).upStage = s.upStage := rfl
@[simp] theorem modCal_free (s : State) (n : Nat) (f : CalSt → CalSt) : (s.modCal n f).free = s.free := rfl

/-! ## modPart -/

@[simp] theorem modPart_pending (s : State) (n : Nat) (f : PartSt → PartSt) : (s.modPart n f).pending = s.pending := rfl
@[simp] theorem modPart_variant (s : State) (n : Nat) (f : PartSt → PartSt) : (s.modPart n f).variant = s.variant := rfl
@[simp] theorem modPart_slave (s : State) (n : Nat) (f : PartSt → PartSt) : (s.modPart n f).slave = s.slave := rfl
@[simp] theorem modPart_regs (s : State) (n : Nat) (f : PartSt → PartSt) : (s.modPart n f).regs = s.regs := rfl
@[simp] theorem modPart_inForce (s : State) (n : Nat) (f : PartSt → PartSt) : (s.modPart n f).inForce = s.inForce := rfl
@[simp] theorem modPart_latched (s : State) (n : Nat) (f : PartSt → PartSt) : (s.modPart n f).latched = s.latched := rfl
@[simp] theorem modPart_live (s : State) (n : Nat) (f : PartSt → PartSt) : (s.modPart n f).live = s.live := rfl
@[simp] theorem modPart_mem (s : State) (n : Nat) (f : PartSt → PartSt) : (s.modPart n f).mem = s.mem := rfl
@[simp] theorem modPart_ms (s : State) (n : Nat) (f : PartSt → PartSt) : (s.modPart n f).ms = s.ms := rfl
@[simp] theorem modPart_cores (s : State) (n : Nat) (f : PartSt → PartSt) : (s.modPart n f).cores = s.cores := rfl
@[simp] theorem modPart_clus (s : State) (n : Nat) (f : PartSt → PartSt) : (s.modPart n f).clus = s.clus := rfl
@[simp] theorem modPart_supState (s : State) (n : Nat) (f : PartSt → PartSt) : (s.modPart n f).supState = s.supState := rfl
@[simp] theorem modPart_lrx (s : State) (n : Nat) (f : PartSt → PartSt) : (s.modPart n f).lrx = s.lrx := rfl
@[simp] theorem modPart_ltx (s : State) (n : Nat) (f : PartSt → PartSt) : (s.modPart n f).ltx = s.ltx := rfl
@[simp] theorem modPart_ifec (s : State) (n : Nat) (f : PartSt → PartSt) : (s.modPart n f).ifec = s.ifec := rfl
@[simp] theorem modPart_port (s : State) (n : Nat) (f : PartSt → PartSt) : (s.modPart n f).port = s.port := rfl
@[simp] theorem modPart_hsl (s : State) (n : Nat) (f : PartSt → PartSt) : (s.modPart n f).hsl = s.hsl := rfl
@[simp] theorem modPart_cal (s : State) (n : Nat) (f : PartSt → PartSt) : (s.modPart n f).cal = s.cal := rfl
@[simp] theorem modPart_dawn (s : State) (n : Nat) (f : PartSt → PartSt) : (s.modPart n f).dawn = s.dawn := rfl
@[simp] theorem modPart_cap (s : State) (n : Nat) (f : PartSt → PartSt) : (s.modPart n f).cap = s.cap := rfl
@[simp] theorem modPart_rpl (s : State) (n : Nat) (f : PartSt → PartSt) : (s.modPart n f).rpl = s.rpl := rfl
@[simp] theorem modPart_trc (s : State) (n : Nat) (f : PartSt → PartSt) : (s.modPart n f).trc = s.trc := rfl
@[simp] theorem modPart_pwr (s : State) (n : Nat) (f : PartSt → PartSt) : (s.modPart n f).pwr = s.pwr := rfl
@[simp] theorem modPart_boot (s : State) (n : Nat) (f : PartSt → PartSt) : (s.modPart n f).boot = s.boot := rfl
@[simp] theorem modPart_casc (s : State) (n : Nat) (f : PartSt → PartSt) : (s.modPart n f).casc = s.casc := rfl
@[simp] theorem modPart_hk (s : State) (n : Nat) (f : PartSt → PartSt) : (s.modPart n f).hk = s.hk := rfl
@[simp] theorem modPart_cd (s : State) (n : Nat) (f : PartSt → PartSt) : (s.modPart n f).cd = s.cd := rfl
@[simp] theorem modPart_pw (s : State) (n : Nat) (f : PartSt → PartSt) : (s.modPart n f).pw = s.pw := rfl
@[simp] theorem modPart_unlocked (s : State) (n : Nat) (f : PartSt → PartSt) : (s.modPart n f).unlocked = s.unlocked := rfl
@[simp] theorem modPart_commits (s : State) (n : Nat) (f : PartSt → PartSt) : (s.modPart n f).commits = s.commits := rfl
@[simp] theorem modPart_marks (s : State) (n : Nat) (f : PartSt → PartSt) : (s.modPart n f).marks = s.marks := rfl
@[simp] theorem modPart_log (s : State) (n : Nat) (f : PartSt → PartSt) : (s.modPart n f).log = s.log := rfl
@[simp] theorem modPart_gathers (s : State) (n : Nat) (f : PartSt → PartSt) : (s.modPart n f).gathers = s.gathers := rfl
@[simp] theorem modPart_supHeld (s : State) (n : Nat) (f : PartSt → PartSt) : (s.modPart n f).supHeld = s.supHeld := rfl
@[simp] theorem modPart_spi (s : State) (n : Nat) (f : PartSt → PartSt) : (s.modPart n f).spi = s.spi := rfl
@[simp] theorem modPart_mdio (s : State) (n : Nat) (f : PartSt → PartSt) : (s.modPart n f).mdio = s.mdio := rfl
@[simp] theorem modPart_cascStatus (s : State) (n : Nat) (f : PartSt → PartSt) : (s.modPart n f).cascStatus = s.cascStatus := rfl
@[simp] theorem modPart_resp (s : State) (n : Nat) (f : PartSt → PartSt) : (s.modPart n f).resp = s.resp := rfl
@[simp] theorem modPart_tick (s : State) (n : Nat) (f : PartSt → PartSt) : (s.modPart n f).tick = s.tick := rfl
@[simp] theorem modPart_clock (s : State) (n : Nat) (f : PartSt → PartSt) : (s.modPart n f).clock = s.clock := rfl
@[simp] theorem modPart_time (s : State) (n : Nat) (f : PartSt → PartSt) : (s.modPart n f).time = s.time := rfl
@[simp] theorem modPart_propTick (s : State) (n : Nat) (f : PartSt → PartSt) : (s.modPart n f).propTick = s.propTick := rfl
@[simp] theorem modPart_propFam (s : State) (n : Nat) (f : PartSt → PartSt) : (s.modPart n f).propFam = s.propFam := rfl
@[simp] theorem modPart_propMask (s : State) (n : Nat) (f : PartSt → PartSt) : (s.modPart n f).propMask = s.propMask := rfl
@[simp] theorem modPart_upStage (s : State) (n : Nat) (f : PartSt → PartSt) : (s.modPart n f).upStage = s.upStage := rfl
@[simp] theorem modPart_free (s : State) (n : Nat) (f : PartSt → PartSt) : (s.modPart n f).free = s.free := rfl

/-! ## modDawn -/

@[simp] theorem modDawn_pending (s : State) (n : Nat) (f : DawnSt → DawnSt) : (s.modDawn n f).pending = s.pending := rfl
@[simp] theorem modDawn_variant (s : State) (n : Nat) (f : DawnSt → DawnSt) : (s.modDawn n f).variant = s.variant := rfl
@[simp] theorem modDawn_slave (s : State) (n : Nat) (f : DawnSt → DawnSt) : (s.modDawn n f).slave = s.slave := rfl
@[simp] theorem modDawn_regs (s : State) (n : Nat) (f : DawnSt → DawnSt) : (s.modDawn n f).regs = s.regs := rfl
@[simp] theorem modDawn_inForce (s : State) (n : Nat) (f : DawnSt → DawnSt) : (s.modDawn n f).inForce = s.inForce := rfl
@[simp] theorem modDawn_latched (s : State) (n : Nat) (f : DawnSt → DawnSt) : (s.modDawn n f).latched = s.latched := rfl
@[simp] theorem modDawn_live (s : State) (n : Nat) (f : DawnSt → DawnSt) : (s.modDawn n f).live = s.live := rfl
@[simp] theorem modDawn_mem (s : State) (n : Nat) (f : DawnSt → DawnSt) : (s.modDawn n f).mem = s.mem := rfl
@[simp] theorem modDawn_ms (s : State) (n : Nat) (f : DawnSt → DawnSt) : (s.modDawn n f).ms = s.ms := rfl
@[simp] theorem modDawn_cores (s : State) (n : Nat) (f : DawnSt → DawnSt) : (s.modDawn n f).cores = s.cores := rfl
@[simp] theorem modDawn_clus (s : State) (n : Nat) (f : DawnSt → DawnSt) : (s.modDawn n f).clus = s.clus := rfl
@[simp] theorem modDawn_supState (s : State) (n : Nat) (f : DawnSt → DawnSt) : (s.modDawn n f).supState = s.supState := rfl
@[simp] theorem modDawn_lrx (s : State) (n : Nat) (f : DawnSt → DawnSt) : (s.modDawn n f).lrx = s.lrx := rfl
@[simp] theorem modDawn_ltx (s : State) (n : Nat) (f : DawnSt → DawnSt) : (s.modDawn n f).ltx = s.ltx := rfl
@[simp] theorem modDawn_ifec (s : State) (n : Nat) (f : DawnSt → DawnSt) : (s.modDawn n f).ifec = s.ifec := rfl
@[simp] theorem modDawn_port (s : State) (n : Nat) (f : DawnSt → DawnSt) : (s.modDawn n f).port = s.port := rfl
@[simp] theorem modDawn_hsl (s : State) (n : Nat) (f : DawnSt → DawnSt) : (s.modDawn n f).hsl = s.hsl := rfl
@[simp] theorem modDawn_cal (s : State) (n : Nat) (f : DawnSt → DawnSt) : (s.modDawn n f).cal = s.cal := rfl
@[simp] theorem modDawn_part (s : State) (n : Nat) (f : DawnSt → DawnSt) : (s.modDawn n f).part = s.part := rfl
@[simp] theorem modDawn_cap (s : State) (n : Nat) (f : DawnSt → DawnSt) : (s.modDawn n f).cap = s.cap := rfl
@[simp] theorem modDawn_rpl (s : State) (n : Nat) (f : DawnSt → DawnSt) : (s.modDawn n f).rpl = s.rpl := rfl
@[simp] theorem modDawn_trc (s : State) (n : Nat) (f : DawnSt → DawnSt) : (s.modDawn n f).trc = s.trc := rfl
@[simp] theorem modDawn_pwr (s : State) (n : Nat) (f : DawnSt → DawnSt) : (s.modDawn n f).pwr = s.pwr := rfl
@[simp] theorem modDawn_boot (s : State) (n : Nat) (f : DawnSt → DawnSt) : (s.modDawn n f).boot = s.boot := rfl
@[simp] theorem modDawn_casc (s : State) (n : Nat) (f : DawnSt → DawnSt) : (s.modDawn n f).casc = s.casc := rfl
@[simp] theorem modDawn_hk (s : State) (n : Nat) (f : DawnSt → DawnSt) : (s.modDawn n f).hk = s.hk := rfl
@[simp] theorem modDawn_cd (s : State) (n : Nat) (f : DawnSt → DawnSt) : (s.modDawn n f).cd = s.cd := rfl
@[simp] theorem modDawn_pw (s : State) (n : Nat) (f : DawnSt → DawnSt) : (s.modDawn n f).pw = s.pw := rfl
@[simp] theorem modDawn_unlocked (s : State) (n : Nat) (f : DawnSt → DawnSt) : (s.modDawn n f).unlocked = s.unlocked := rfl
@[simp] theorem modDawn_commits (s : State) (n : Nat) (f : DawnSt → DawnSt) : (s.modDawn n f).commits = s.commits := rfl
@[simp] theorem modDawn_marks (s : State) (n : Nat) (f : DawnSt → DawnSt) : (s.modDawn n f).marks = s.marks := rfl
@[simp] theorem modDawn_log (s : State) (n : Nat) (f : DawnSt → DawnSt) : (s.modDawn n f).log = s.log := rfl
@[simp] theorem modDawn_gathers (s : State) (n : Nat) (f : DawnSt → DawnSt) : (s.modDawn n f).gathers = s.gathers := rfl
@[simp] theorem modDawn_supHeld (s : State) (n : Nat) (f : DawnSt → DawnSt) : (s.modDawn n f).supHeld = s.supHeld := rfl
@[simp] theorem modDawn_spi (s : State) (n : Nat) (f : DawnSt → DawnSt) : (s.modDawn n f).spi = s.spi := rfl
@[simp] theorem modDawn_mdio (s : State) (n : Nat) (f : DawnSt → DawnSt) : (s.modDawn n f).mdio = s.mdio := rfl
@[simp] theorem modDawn_cascStatus (s : State) (n : Nat) (f : DawnSt → DawnSt) : (s.modDawn n f).cascStatus = s.cascStatus := rfl
@[simp] theorem modDawn_resp (s : State) (n : Nat) (f : DawnSt → DawnSt) : (s.modDawn n f).resp = s.resp := rfl
@[simp] theorem modDawn_tick (s : State) (n : Nat) (f : DawnSt → DawnSt) : (s.modDawn n f).tick = s.tick := rfl
@[simp] theorem modDawn_clock (s : State) (n : Nat) (f : DawnSt → DawnSt) : (s.modDawn n f).clock = s.clock := rfl
@[simp] theorem modDawn_time (s : State) (n : Nat) (f : DawnSt → DawnSt) : (s.modDawn n f).time = s.time := rfl
@[simp] theorem modDawn_propTick (s : State) (n : Nat) (f : DawnSt → DawnSt) : (s.modDawn n f).propTick = s.propTick := rfl
@[simp] theorem modDawn_propFam (s : State) (n : Nat) (f : DawnSt → DawnSt) : (s.modDawn n f).propFam = s.propFam := rfl
@[simp] theorem modDawn_propMask (s : State) (n : Nat) (f : DawnSt → DawnSt) : (s.modDawn n f).propMask = s.propMask := rfl
@[simp] theorem modDawn_upStage (s : State) (n : Nat) (f : DawnSt → DawnSt) : (s.modDawn n f).upStage = s.upStage := rfl
@[simp] theorem modDawn_free (s : State) (n : Nat) (f : DawnSt → DawnSt) : (s.modDawn n f).free = s.free := rfl

/-! ## setRaw -/

@[simp] theorem setRaw_pending (s : State) (e : Ev) (i : Nat) : (s.setRaw e i).pending = s.pending := setFld_pending _ _ _ _
@[simp] theorem setRaw_variant (s : State) (e : Ev) (i : Nat) : (s.setRaw e i).variant = s.variant := setFld_variant _ _ _ _
@[simp] theorem setRaw_slave (s : State) (e : Ev) (i : Nat) : (s.setRaw e i).slave = s.slave := setFld_slave _ _ _ _
@[simp] theorem setRaw_inForce (s : State) (e : Ev) (i : Nat) : (s.setRaw e i).inForce = s.inForce := setFld_inForce _ _ _ _
@[simp] theorem setRaw_latched (s : State) (e : Ev) (i : Nat) : (s.setRaw e i).latched = s.latched := setFld_latched _ _ _ _
@[simp] theorem setRaw_live (s : State) (e : Ev) (i : Nat) : (s.setRaw e i).live = s.live := setFld_live _ _ _ _
@[simp] theorem setRaw_mem (s : State) (e : Ev) (i : Nat) : (s.setRaw e i).mem = s.mem := setFld_mem _ _ _ _
@[simp] theorem setRaw_ms (s : State) (e : Ev) (i : Nat) : (s.setRaw e i).ms = s.ms := setFld_ms _ _ _ _
@[simp] theorem setRaw_cores (s : State) (e : Ev) (i : Nat) : (s.setRaw e i).cores = s.cores := setFld_cores _ _ _ _
@[simp] theorem setRaw_clus (s : State) (e : Ev) (i : Nat) : (s.setRaw e i).clus = s.clus := setFld_clus _ _ _ _
@[simp] theorem setRaw_supState (s : State) (e : Ev) (i : Nat) : (s.setRaw e i).supState = s.supState := setFld_supState _ _ _ _
@[simp] theorem setRaw_lrx (s : State) (e : Ev) (i : Nat) : (s.setRaw e i).lrx = s.lrx := setFld_lrx _ _ _ _
@[simp] theorem setRaw_ltx (s : State) (e : Ev) (i : Nat) : (s.setRaw e i).ltx = s.ltx := setFld_ltx _ _ _ _
@[simp] theorem setRaw_ifec (s : State) (e : Ev) (i : Nat) : (s.setRaw e i).ifec = s.ifec := setFld_ifec _ _ _ _
@[simp] theorem setRaw_port (s : State) (e : Ev) (i : Nat) : (s.setRaw e i).port = s.port := setFld_port _ _ _ _
@[simp] theorem setRaw_hsl (s : State) (e : Ev) (i : Nat) : (s.setRaw e i).hsl = s.hsl := setFld_hsl _ _ _ _
@[simp] theorem setRaw_cal (s : State) (e : Ev) (i : Nat) : (s.setRaw e i).cal = s.cal := setFld_cal _ _ _ _
@[simp] theorem setRaw_part (s : State) (e : Ev) (i : Nat) : (s.setRaw e i).part = s.part := setFld_part _ _ _ _
@[simp] theorem setRaw_dawn (s : State) (e : Ev) (i : Nat) : (s.setRaw e i).dawn = s.dawn := setFld_dawn _ _ _ _
@[simp] theorem setRaw_cap (s : State) (e : Ev) (i : Nat) : (s.setRaw e i).cap = s.cap := setFld_cap _ _ _ _
@[simp] theorem setRaw_rpl (s : State) (e : Ev) (i : Nat) : (s.setRaw e i).rpl = s.rpl := setFld_rpl _ _ _ _
@[simp] theorem setRaw_trc (s : State) (e : Ev) (i : Nat) : (s.setRaw e i).trc = s.trc := setFld_trc _ _ _ _
@[simp] theorem setRaw_pwr (s : State) (e : Ev) (i : Nat) : (s.setRaw e i).pwr = s.pwr := setFld_pwr _ _ _ _
@[simp] theorem setRaw_boot (s : State) (e : Ev) (i : Nat) : (s.setRaw e i).boot = s.boot := setFld_boot _ _ _ _
@[simp] theorem setRaw_casc (s : State) (e : Ev) (i : Nat) : (s.setRaw e i).casc = s.casc := setFld_casc _ _ _ _
@[simp] theorem setRaw_hk (s : State) (e : Ev) (i : Nat) : (s.setRaw e i).hk = s.hk := setFld_hk _ _ _ _
@[simp] theorem setRaw_cd (s : State) (e : Ev) (i : Nat) : (s.setRaw e i).cd = s.cd := setFld_cd _ _ _ _
@[simp] theorem setRaw_pw (s : State) (e : Ev) (i : Nat) : (s.setRaw e i).pw = s.pw := setFld_pw _ _ _ _
@[simp] theorem setRaw_unlocked (s : State) (e : Ev) (i : Nat) : (s.setRaw e i).unlocked = s.unlocked := setFld_unlocked _ _ _ _
@[simp] theorem setRaw_commits (s : State) (e : Ev) (i : Nat) : (s.setRaw e i).commits = s.commits := setFld_commits _ _ _ _
@[simp] theorem setRaw_marks (s : State) (e : Ev) (i : Nat) : (s.setRaw e i).marks = s.marks := setFld_marks _ _ _ _
@[simp] theorem setRaw_log (s : State) (e : Ev) (i : Nat) : (s.setRaw e i).log = s.log := setFld_log _ _ _ _
@[simp] theorem setRaw_gathers (s : State) (e : Ev) (i : Nat) : (s.setRaw e i).gathers = s.gathers := setFld_gathers _ _ _ _
@[simp] theorem setRaw_supHeld (s : State) (e : Ev) (i : Nat) : (s.setRaw e i).supHeld = s.supHeld := setFld_supHeld _ _ _ _
@[simp] theorem setRaw_spi (s : State) (e : Ev) (i : Nat) : (s.setRaw e i).spi = s.spi := setFld_spi _ _ _ _
@[simp] theorem setRaw_mdio (s : State) (e : Ev) (i : Nat) : (s.setRaw e i).mdio = s.mdio := setFld_mdio _ _ _ _
@[simp] theorem setRaw_cascStatus (s : State) (e : Ev) (i : Nat) : (s.setRaw e i).cascStatus = s.cascStatus := setFld_cascStatus _ _ _ _
@[simp] theorem setRaw_resp (s : State) (e : Ev) (i : Nat) : (s.setRaw e i).resp = s.resp := setFld_resp _ _ _ _
@[simp] theorem setRaw_tick (s : State) (e : Ev) (i : Nat) : (s.setRaw e i).tick = s.tick := setFld_tick _ _ _ _
@[simp] theorem setRaw_clock (s : State) (e : Ev) (i : Nat) : (s.setRaw e i).clock = s.clock := setFld_clock _ _ _ _
@[simp] theorem setRaw_time (s : State) (e : Ev) (i : Nat) : (s.setRaw e i).time = s.time := setFld_time _ _ _ _
@[simp] theorem setRaw_propTick (s : State) (e : Ev) (i : Nat) : (s.setRaw e i).propTick = s.propTick := setFld_propTick _ _ _ _
@[simp] theorem setRaw_propFam (s : State) (e : Ev) (i : Nat) : (s.setRaw e i).propFam = s.propFam := setFld_propFam _ _ _ _
@[simp] theorem setRaw_propMask (s : State) (e : Ev) (i : Nat) : (s.setRaw e i).propMask = s.propMask := setFld_propMask _ _ _ _
@[simp] theorem setRaw_upStage (s : State) (e : Ev) (i : Nat) : (s.setRaw e i).upStage = s.upStage := setFld_upStage _ _ _ _
@[simp] theorem setRaw_free (s : State) (e : Ev) (i : Nat) : (s.setRaw e i).free = s.free := setFld_free _ _ _ _

/-! ## setStage -/

@[simp] theorem setStage_pending (s : State) (n : Nat) : (s.setStage n).pending = s.pending := setFld_pending _ _ _ _
@[simp] theorem setStage_variant (s : State) (n : Nat) : (s.setStage n).variant = s.variant := setFld_variant _ _ _ _
@[simp] theorem setStage_slave (s : State) (n : Nat) : (s.setStage n).slave = s.slave := setFld_slave _ _ _ _
@[simp] theorem setStage_inForce (s : State) (n : Nat) : (s.setStage n).inForce = s.inForce := setFld_inForce _ _ _ _
@[simp] theorem setStage_latched (s : State) (n : Nat) : (s.setStage n).latched = s.latched := setFld_latched _ _ _ _
@[simp] theorem setStage_live (s : State) (n : Nat) : (s.setStage n).live = s.live := setFld_live _ _ _ _
@[simp] theorem setStage_mem (s : State) (n : Nat) : (s.setStage n).mem = s.mem := setFld_mem _ _ _ _
@[simp] theorem setStage_ms (s : State) (n : Nat) : (s.setStage n).ms = s.ms := setFld_ms _ _ _ _
@[simp] theorem setStage_cores (s : State) (n : Nat) : (s.setStage n).cores = s.cores := setFld_cores _ _ _ _
@[simp] theorem setStage_clus (s : State) (n : Nat) : (s.setStage n).clus = s.clus := setFld_clus _ _ _ _
@[simp] theorem setStage_supState (s : State) (n : Nat) : (s.setStage n).supState = s.supState := setFld_supState _ _ _ _
@[simp] theorem setStage_lrx (s : State) (n : Nat) : (s.setStage n).lrx = s.lrx := setFld_lrx _ _ _ _
@[simp] theorem setStage_ltx (s : State) (n : Nat) : (s.setStage n).ltx = s.ltx := setFld_ltx _ _ _ _
@[simp] theorem setStage_ifec (s : State) (n : Nat) : (s.setStage n).ifec = s.ifec := setFld_ifec _ _ _ _
@[simp] theorem setStage_port (s : State) (n : Nat) : (s.setStage n).port = s.port := setFld_port _ _ _ _
@[simp] theorem setStage_hsl (s : State) (n : Nat) : (s.setStage n).hsl = s.hsl := setFld_hsl _ _ _ _
@[simp] theorem setStage_cal (s : State) (n : Nat) : (s.setStage n).cal = s.cal := setFld_cal _ _ _ _
@[simp] theorem setStage_part (s : State) (n : Nat) : (s.setStage n).part = s.part := setFld_part _ _ _ _
@[simp] theorem setStage_dawn (s : State) (n : Nat) : (s.setStage n).dawn = s.dawn := setFld_dawn _ _ _ _
@[simp] theorem setStage_cap (s : State) (n : Nat) : (s.setStage n).cap = s.cap := setFld_cap _ _ _ _
@[simp] theorem setStage_rpl (s : State) (n : Nat) : (s.setStage n).rpl = s.rpl := setFld_rpl _ _ _ _
@[simp] theorem setStage_trc (s : State) (n : Nat) : (s.setStage n).trc = s.trc := setFld_trc _ _ _ _
@[simp] theorem setStage_pwr (s : State) (n : Nat) : (s.setStage n).pwr = s.pwr := setFld_pwr _ _ _ _
@[simp] theorem setStage_boot (s : State) (n : Nat) : (s.setStage n).boot = s.boot := setFld_boot _ _ _ _
@[simp] theorem setStage_casc (s : State) (n : Nat) : (s.setStage n).casc = s.casc := setFld_casc _ _ _ _
@[simp] theorem setStage_hk (s : State) (n : Nat) : (s.setStage n).hk = s.hk := setFld_hk _ _ _ _
@[simp] theorem setStage_cd (s : State) (n : Nat) : (s.setStage n).cd = s.cd := setFld_cd _ _ _ _
@[simp] theorem setStage_pw (s : State) (n : Nat) : (s.setStage n).pw = s.pw := setFld_pw _ _ _ _
@[simp] theorem setStage_unlocked (s : State) (n : Nat) : (s.setStage n).unlocked = s.unlocked := setFld_unlocked _ _ _ _
@[simp] theorem setStage_commits (s : State) (n : Nat) : (s.setStage n).commits = s.commits := setFld_commits _ _ _ _
@[simp] theorem setStage_marks (s : State) (n : Nat) : (s.setStage n).marks = s.marks := setFld_marks _ _ _ _
@[simp] theorem setStage_log (s : State) (n : Nat) : (s.setStage n).log = s.log := setFld_log _ _ _ _
@[simp] theorem setStage_gathers (s : State) (n : Nat) : (s.setStage n).gathers = s.gathers := setFld_gathers _ _ _ _
@[simp] theorem setStage_supHeld (s : State) (n : Nat) : (s.setStage n).supHeld = s.supHeld := setFld_supHeld _ _ _ _
@[simp] theorem setStage_spi (s : State) (n : Nat) : (s.setStage n).spi = s.spi := setFld_spi _ _ _ _
@[simp] theorem setStage_mdio (s : State) (n : Nat) : (s.setStage n).mdio = s.mdio := setFld_mdio _ _ _ _
@[simp] theorem setStage_cascStatus (s : State) (n : Nat) : (s.setStage n).cascStatus = s.cascStatus := setFld_cascStatus _ _ _ _
@[simp] theorem setStage_resp (s : State) (n : Nat) : (s.setStage n).resp = s.resp := setFld_resp _ _ _ _
@[simp] theorem setStage_tick (s : State) (n : Nat) : (s.setStage n).tick = s.tick := setFld_tick _ _ _ _
@[simp] theorem setStage_clock (s : State) (n : Nat) : (s.setStage n).clock = s.clock := setFld_clock _ _ _ _
@[simp] theorem setStage_time (s : State) (n : Nat) : (s.setStage n).time = s.time := setFld_time _ _ _ _
@[simp] theorem setStage_propTick (s : State) (n : Nat) : (s.setStage n).propTick = s.propTick := setFld_propTick _ _ _ _
@[simp] theorem setStage_propFam (s : State) (n : Nat) : (s.setStage n).propFam = s.propFam := setFld_propFam _ _ _ _
@[simp] theorem setStage_propMask (s : State) (n : Nat) : (s.setStage n).propMask = s.propMask := setFld_propMask _ _ _ _
@[simp] theorem setStage_upStage (s : State) (n : Nat) : (s.setStage n).upStage = s.upStage := setFld_upStage _ _ _ _
@[simp] theorem setStage_free (s : State) (n : Nat) : (s.setStage n).free = s.free := setFld_free _ _ _ _

/-! ## setQuality -/

@[simp] theorem setQuality_pending (s : State) (q : Nat) : (s.setQuality q).pending = s.pending := (setFld_pending _ _ _ _).trans (setFld_pending _ _ _ _)
@[simp] theorem setQuality_variant (s : State) (q : Nat) : (s.setQuality q).variant = s.variant := (setFld_variant _ _ _ _).trans (setFld_variant _ _ _ _)
@[simp] theorem setQuality_slave (s : State) (q : Nat) : (s.setQuality q).slave = s.slave := (setFld_slave _ _ _ _).trans (setFld_slave _ _ _ _)
@[simp] theorem setQuality_inForce (s : State) (q : Nat) : (s.setQuality q).inForce = s.inForce := (setFld_inForce _ _ _ _).trans (setFld_inForce _ _ _ _)
@[simp] theorem setQuality_latched (s : State) (q : Nat) : (s.setQuality q).latched = s.latched := (setFld_latched _ _ _ _).trans (setFld_latched _ _ _ _)
@[simp] theorem setQuality_live (s : State) (q : Nat) : (s.setQuality q).live = s.live := (setFld_live _ _ _ _).trans (setFld_live _ _ _ _)
@[simp] theorem setQuality_mem (s : State) (q : Nat) : (s.setQuality q).mem = s.mem := (setFld_mem _ _ _ _).trans (setFld_mem _ _ _ _)
@[simp] theorem setQuality_ms (s : State) (q : Nat) : (s.setQuality q).ms = s.ms := (setFld_ms _ _ _ _).trans (setFld_ms _ _ _ _)
@[simp] theorem setQuality_cores (s : State) (q : Nat) : (s.setQuality q).cores = s.cores := (setFld_cores _ _ _ _).trans (setFld_cores _ _ _ _)
@[simp] theorem setQuality_clus (s : State) (q : Nat) : (s.setQuality q).clus = s.clus := (setFld_clus _ _ _ _).trans (setFld_clus _ _ _ _)
@[simp] theorem setQuality_supState (s : State) (q : Nat) : (s.setQuality q).supState = s.supState := (setFld_supState _ _ _ _).trans (setFld_supState _ _ _ _)
@[simp] theorem setQuality_lrx (s : State) (q : Nat) : (s.setQuality q).lrx = s.lrx := (setFld_lrx _ _ _ _).trans (setFld_lrx _ _ _ _)
@[simp] theorem setQuality_ltx (s : State) (q : Nat) : (s.setQuality q).ltx = s.ltx := (setFld_ltx _ _ _ _).trans (setFld_ltx _ _ _ _)
@[simp] theorem setQuality_ifec (s : State) (q : Nat) : (s.setQuality q).ifec = s.ifec := (setFld_ifec _ _ _ _).trans (setFld_ifec _ _ _ _)
@[simp] theorem setQuality_port (s : State) (q : Nat) : (s.setQuality q).port = s.port := (setFld_port _ _ _ _).trans (setFld_port _ _ _ _)
@[simp] theorem setQuality_hsl (s : State) (q : Nat) : (s.setQuality q).hsl = s.hsl := (setFld_hsl _ _ _ _).trans (setFld_hsl _ _ _ _)
@[simp] theorem setQuality_cal (s : State) (q : Nat) : (s.setQuality q).cal = s.cal := (setFld_cal _ _ _ _).trans (setFld_cal _ _ _ _)
@[simp] theorem setQuality_part (s : State) (q : Nat) : (s.setQuality q).part = s.part := (setFld_part _ _ _ _).trans (setFld_part _ _ _ _)
@[simp] theorem setQuality_dawn (s : State) (q : Nat) : (s.setQuality q).dawn = s.dawn := (setFld_dawn _ _ _ _).trans (setFld_dawn _ _ _ _)
@[simp] theorem setQuality_cap (s : State) (q : Nat) : (s.setQuality q).cap = s.cap := (setFld_cap _ _ _ _).trans (setFld_cap _ _ _ _)
@[simp] theorem setQuality_rpl (s : State) (q : Nat) : (s.setQuality q).rpl = s.rpl := (setFld_rpl _ _ _ _).trans (setFld_rpl _ _ _ _)
@[simp] theorem setQuality_trc (s : State) (q : Nat) : (s.setQuality q).trc = s.trc := (setFld_trc _ _ _ _).trans (setFld_trc _ _ _ _)
@[simp] theorem setQuality_pwr (s : State) (q : Nat) : (s.setQuality q).pwr = s.pwr := (setFld_pwr _ _ _ _).trans (setFld_pwr _ _ _ _)
@[simp] theorem setQuality_boot (s : State) (q : Nat) : (s.setQuality q).boot = s.boot := (setFld_boot _ _ _ _).trans (setFld_boot _ _ _ _)
@[simp] theorem setQuality_casc (s : State) (q : Nat) : (s.setQuality q).casc = s.casc := (setFld_casc _ _ _ _).trans (setFld_casc _ _ _ _)
@[simp] theorem setQuality_hk (s : State) (q : Nat) : (s.setQuality q).hk = s.hk := (setFld_hk _ _ _ _).trans (setFld_hk _ _ _ _)
@[simp] theorem setQuality_cd (s : State) (q : Nat) : (s.setQuality q).cd = s.cd := (setFld_cd _ _ _ _).trans (setFld_cd _ _ _ _)
@[simp] theorem setQuality_pw (s : State) (q : Nat) : (s.setQuality q).pw = s.pw := (setFld_pw _ _ _ _).trans (setFld_pw _ _ _ _)
@[simp] theorem setQuality_unlocked (s : State) (q : Nat) : (s.setQuality q).unlocked = s.unlocked := (setFld_unlocked _ _ _ _).trans (setFld_unlocked _ _ _ _)
@[simp] theorem setQuality_commits (s : State) (q : Nat) : (s.setQuality q).commits = s.commits := (setFld_commits _ _ _ _).trans (setFld_commits _ _ _ _)
@[simp] theorem setQuality_marks (s : State) (q : Nat) : (s.setQuality q).marks = s.marks := (setFld_marks _ _ _ _).trans (setFld_marks _ _ _ _)
@[simp] theorem setQuality_log (s : State) (q : Nat) : (s.setQuality q).log = s.log := (setFld_log _ _ _ _).trans (setFld_log _ _ _ _)
@[simp] theorem setQuality_gathers (s : State) (q : Nat) : (s.setQuality q).gathers = s.gathers := (setFld_gathers _ _ _ _).trans (setFld_gathers _ _ _ _)
@[simp] theorem setQuality_supHeld (s : State) (q : Nat) : (s.setQuality q).supHeld = s.supHeld := (setFld_supHeld _ _ _ _).trans (setFld_supHeld _ _ _ _)
@[simp] theorem setQuality_spi (s : State) (q : Nat) : (s.setQuality q).spi = s.spi := (setFld_spi _ _ _ _).trans (setFld_spi _ _ _ _)
@[simp] theorem setQuality_mdio (s : State) (q : Nat) : (s.setQuality q).mdio = s.mdio := (setFld_mdio _ _ _ _).trans (setFld_mdio _ _ _ _)
@[simp] theorem setQuality_cascStatus (s : State) (q : Nat) : (s.setQuality q).cascStatus = s.cascStatus := (setFld_cascStatus _ _ _ _).trans (setFld_cascStatus _ _ _ _)
@[simp] theorem setQuality_resp (s : State) (q : Nat) : (s.setQuality q).resp = s.resp := (setFld_resp _ _ _ _).trans (setFld_resp _ _ _ _)
@[simp] theorem setQuality_tick (s : State) (q : Nat) : (s.setQuality q).tick = s.tick := (setFld_tick _ _ _ _).trans (setFld_tick _ _ _ _)
@[simp] theorem setQuality_clock (s : State) (q : Nat) : (s.setQuality q).clock = s.clock := (setFld_clock _ _ _ _).trans (setFld_clock _ _ _ _)
@[simp] theorem setQuality_time (s : State) (q : Nat) : (s.setQuality q).time = s.time := (setFld_time _ _ _ _).trans (setFld_time _ _ _ _)
@[simp] theorem setQuality_propTick (s : State) (q : Nat) : (s.setQuality q).propTick = s.propTick := (setFld_propTick _ _ _ _).trans (setFld_propTick _ _ _ _)
@[simp] theorem setQuality_propFam (s : State) (q : Nat) : (s.setQuality q).propFam = s.propFam := (setFld_propFam _ _ _ _).trans (setFld_propFam _ _ _ _)
@[simp] theorem setQuality_propMask (s : State) (q : Nat) : (s.setQuality q).propMask = s.propMask := (setFld_propMask _ _ _ _).trans (setFld_propMask _ _ _ _)
@[simp] theorem setQuality_upStage (s : State) (q : Nat) : (s.setQuality q).upStage = s.upStage := (setFld_upStage _ _ _ _).trans (setFld_upStage _ _ _ _)
@[simp] theorem setQuality_free (s : State) (q : Nat) : (s.setQuality q).free = s.free := (setFld_free _ _ _ _).trans (setFld_free _ _ _ _)

/-! ## putByte -/

theorem putByte_eq (s : State) (a : Nat) (b : Byte) : s.putByte a b = { s with mem := Tbl.put (unlisted s.ms.fills a) s.mem a b } := rfl
@[simp] theorem putByte_pending (s : State) (a : Nat) (b : Byte) : (s.putByte a b).pending = s.pending := by rw [putByte_eq]
@[simp] theorem putByte_variant (s : State) (a : Nat) (b : Byte) : (s.putByte a b).variant = s.variant := by rw [putByte_eq]
@[simp] theorem putByte_slave (s : State) (a : Nat) (b : Byte) : (s.putByte a b).slave = s.slave := by rw [putByte_eq]
@[simp] theorem putByte_regs (s : State) (a : Nat) (b : Byte) : (s.putByte a b).regs = s.regs := by rw [putByte_eq]
@[simp] theorem putByte_inForce (s : State) (a : Nat) (b : Byte) : (s.putByte a b).inForce = s.inForce := by rw [putByte_eq]
@[simp] theorem putByte_latched (s : State) (a : Nat) (b : Byte) : (s.putByte a b).latched = s.latched := by rw [putByte_eq]
@[simp] theorem putByte_live (s : State) (a : Nat) (b : Byte) : (s.putByte a b).live = s.live := by rw [putByte_eq]
@[simp] theorem putByte_mem (s : State) (a : Nat) (b : Byte) : (s.putByte a b).mem = Tbl.put (unlisted s.ms.fills a) s.mem a b := by rw [putByte_eq]
@[simp] theorem putByte_ms (s : State) (a : Nat) (b : Byte) : (s.putByte a b).ms = s.ms := by rw [putByte_eq]
@[simp] theorem putByte_cores (s : State) (a : Nat) (b : Byte) : (s.putByte a b).cores = s.cores := by rw [putByte_eq]
@[simp] theorem putByte_clus (s : State) (a : Nat) (b : Byte) : (s.putByte a b).clus = s.clus := by rw [putByte_eq]
@[simp] theorem putByte_supState (s : State) (a : Nat) (b : Byte) : (s.putByte a b).supState = s.supState := by rw [putByte_eq]
@[simp] theorem putByte_lrx (s : State) (a : Nat) (b : Byte) : (s.putByte a b).lrx = s.lrx := by rw [putByte_eq]
@[simp] theorem putByte_ltx (s : State) (a : Nat) (b : Byte) : (s.putByte a b).ltx = s.ltx := by rw [putByte_eq]
@[simp] theorem putByte_ifec (s : State) (a : Nat) (b : Byte) : (s.putByte a b).ifec = s.ifec := by rw [putByte_eq]
@[simp] theorem putByte_port (s : State) (a : Nat) (b : Byte) : (s.putByte a b).port = s.port := by rw [putByte_eq]
@[simp] theorem putByte_hsl (s : State) (a : Nat) (b : Byte) : (s.putByte a b).hsl = s.hsl := by rw [putByte_eq]
@[simp] theorem putByte_cal (s : State) (a : Nat) (b : Byte) : (s.putByte a b).cal = s.cal := by rw [putByte_eq]
@[simp] theorem putByte_part (s : State) (a : Nat) (b : Byte) : (s.putByte a b).part = s.part := by rw [putByte_eq]
@[simp] theorem putByte_dawn (s : State) (a : Nat) (b : Byte) : (s.putByte a b).dawn = s.dawn := by rw [putByte_eq]
@[simp] theorem putByte_cap (s : State) (a : Nat) (b : Byte) : (s.putByte a b).cap = s.cap := by rw [putByte_eq]
@[simp] theorem putByte_rpl (s : State) (a : Nat) (b : Byte) : (s.putByte a b).rpl = s.rpl := by rw [putByte_eq]
@[simp] theorem putByte_trc (s : State) (a : Nat) (b : Byte) : (s.putByte a b).trc = s.trc := by rw [putByte_eq]
@[simp] theorem putByte_pwr (s : State) (a : Nat) (b : Byte) : (s.putByte a b).pwr = s.pwr := by rw [putByte_eq]
@[simp] theorem putByte_boot (s : State) (a : Nat) (b : Byte) : (s.putByte a b).boot = s.boot := by rw [putByte_eq]
@[simp] theorem putByte_casc (s : State) (a : Nat) (b : Byte) : (s.putByte a b).casc = s.casc := by rw [putByte_eq]
@[simp] theorem putByte_hk (s : State) (a : Nat) (b : Byte) : (s.putByte a b).hk = s.hk := by rw [putByte_eq]
@[simp] theorem putByte_cd (s : State) (a : Nat) (b : Byte) : (s.putByte a b).cd = s.cd := by rw [putByte_eq]
@[simp] theorem putByte_pw (s : State) (a : Nat) (b : Byte) : (s.putByte a b).pw = s.pw := by rw [putByte_eq]
@[simp] theorem putByte_unlocked (s : State) (a : Nat) (b : Byte) : (s.putByte a b).unlocked = s.unlocked := by rw [putByte_eq]
@[simp] theorem putByte_commits (s : State) (a : Nat) (b : Byte) : (s.putByte a b).commits = s.commits := by rw [putByte_eq]
@[simp] theorem putByte_marks (s : State) (a : Nat) (b : Byte) : (s.putByte a b).marks = s.marks := by rw [putByte_eq]
@[simp] theorem putByte_log (s : State) (a : Nat) (b : Byte) : (s.putByte a b).log = s.log := by rw [putByte_eq]
@[simp] theorem putByte_gathers (s : State) (a : Nat) (b : Byte) : (s.putByte a b).gathers = s.gathers := by rw [putByte_eq]
@[simp] theorem putByte_supHeld (s : State) (a : Nat) (b : Byte) : (s.putByte a b).supHeld = s.supHeld := by rw [putByte_eq]
@[simp] theorem putByte_spi (s : State) (a : Nat) (b : Byte) : (s.putByte a b).spi = s.spi := by rw [putByte_eq]
@[simp] theorem putByte_mdio (s : State) (a : Nat) (b : Byte) : (s.putByte a b).mdio = s.mdio := by rw [putByte_eq]
@[simp] theorem putByte_cascStatus (s : State) (a : Nat) (b : Byte) : (s.putByte a b).cascStatus = s.cascStatus := by rw [putByte_eq]
@[simp] theorem putByte_resp (s : State) (a : Nat) (b : Byte) : (s.putByte a b).resp = s.resp := by rw [putByte_eq]
@[simp] theorem putByte_tick (s : State) (a : Nat) (b : Byte) : (s.putByte a b).tick = s.tick := by rw [putByte_eq]
@[simp] theorem putByte_clock (s : State) (a : Nat) (b : Byte) : (s.putByte a b).clock = s.clock := by rw [putByte_eq]
@[simp] theorem putByte_time (s : State) (a : Nat) (b : Byte) : (s.putByte a b).time = s.time := by rw [putByte_eq]
@[simp] theorem putByte_propTick (s : State) (a : Nat) (b : Byte) : (s.putByte a b).propTick = s.propTick := by rw [putByte_eq]
@[simp] theorem putByte_propFam (s : State) (a : Nat) (b : Byte) : (s.putByte a b).propFam = s.propFam := by rw [putByte_eq]
@[simp] theorem putByte_propMask (s : State) (a : Nat) (b : Byte) : (s.putByte a b).propMask = s.propMask := by rw [putByte_eq]
@[simp] theorem putByte_upStage (s : State) (a : Nat) (b : Byte) : (s.putByte a b).upStage = s.upStage := by rw [putByte_eq]
@[simp] theorem putByte_free (s : State) (a : Nat) (b : Byte) : (s.putByte a b).free = s.free := by rw [putByte_eq]

/-! ## dropGather -/

theorem dropGather_eq (s : State) (m : Nat) : s.dropGather m = { s with gathers := Tbl.erase s.gathers m } := rfl
@[simp] theorem dropGather_pending (s : State) (m : Nat) : (s.dropGather m).pending = s.pending := by rw [dropGather_eq]
@[simp] theorem dropGather_variant (s : State) (m : Nat) : (s.dropGather m).variant = s.variant := by rw [dropGather_eq]
@[simp] theorem dropGather_slave (s : State) (m : Nat) : (s.dropGather m).slave = s.slave := by rw [dropGather_eq]
@[simp] theorem dropGather_regs (s : State) (m : Nat) : (s.dropGather m).regs = s.regs := by rw [dropGather_eq]
@[simp] theorem dropGather_inForce (s : State) (m : Nat) : (s.dropGather m).inForce = s.inForce := by rw [dropGather_eq]
@[simp] theorem dropGather_latched (s : State) (m : Nat) : (s.dropGather m).latched = s.latched := by rw [dropGather_eq]
@[simp] theorem dropGather_live (s : State) (m : Nat) : (s.dropGather m).live = s.live := by rw [dropGather_eq]
@[simp] theorem dropGather_mem (s : State) (m : Nat) : (s.dropGather m).mem = s.mem := by rw [dropGather_eq]
@[simp] theorem dropGather_ms (s : State) (m : Nat) : (s.dropGather m).ms = s.ms := by rw [dropGather_eq]
@[simp] theorem dropGather_cores (s : State) (m : Nat) : (s.dropGather m).cores = s.cores := by rw [dropGather_eq]
@[simp] theorem dropGather_clus (s : State) (m : Nat) : (s.dropGather m).clus = s.clus := by rw [dropGather_eq]
@[simp] theorem dropGather_supState (s : State) (m : Nat) : (s.dropGather m).supState = s.supState := by rw [dropGather_eq]
@[simp] theorem dropGather_lrx (s : State) (m : Nat) : (s.dropGather m).lrx = s.lrx := by rw [dropGather_eq]
@[simp] theorem dropGather_ltx (s : State) (m : Nat) : (s.dropGather m).ltx = s.ltx := by rw [dropGather_eq]
@[simp] theorem dropGather_ifec (s : State) (m : Nat) : (s.dropGather m).ifec = s.ifec := by rw [dropGather_eq]
@[simp] theorem dropGather_port (s : State) (m : Nat) : (s.dropGather m).port = s.port := by rw [dropGather_eq]
@[simp] theorem dropGather_hsl (s : State) (m : Nat) : (s.dropGather m).hsl = s.hsl := by rw [dropGather_eq]
@[simp] theorem dropGather_cal (s : State) (m : Nat) : (s.dropGather m).cal = s.cal := by rw [dropGather_eq]
@[simp] theorem dropGather_part (s : State) (m : Nat) : (s.dropGather m).part = s.part := by rw [dropGather_eq]
@[simp] theorem dropGather_dawn (s : State) (m : Nat) : (s.dropGather m).dawn = s.dawn := by rw [dropGather_eq]
@[simp] theorem dropGather_cap (s : State) (m : Nat) : (s.dropGather m).cap = s.cap := by rw [dropGather_eq]
@[simp] theorem dropGather_rpl (s : State) (m : Nat) : (s.dropGather m).rpl = s.rpl := by rw [dropGather_eq]
@[simp] theorem dropGather_trc (s : State) (m : Nat) : (s.dropGather m).trc = s.trc := by rw [dropGather_eq]
@[simp] theorem dropGather_pwr (s : State) (m : Nat) : (s.dropGather m).pwr = s.pwr := by rw [dropGather_eq]
@[simp] theorem dropGather_boot (s : State) (m : Nat) : (s.dropGather m).boot = s.boot := by rw [dropGather_eq]
@[simp] theorem dropGather_casc (s : State) (m : Nat) : (s.dropGather m).casc = s.casc := by rw [dropGather_eq]
@[simp] theorem dropGather_hk (s : State) (m : Nat) : (s.dropGather m).hk = s.hk := by rw [dropGather_eq]
@[simp] theorem dropGather_cd (s : State) (m : Nat) : (s.dropGather m).cd = s.cd := by rw [dropGather_eq]
@[simp] theorem dropGather_pw (s : State) (m : Nat) : (s.dropGather m).pw = s.pw := by rw [dropGather_eq]
@[simp] theorem dropGather_unlocked (s : State) (m : Nat) : (s.dropGather m).unlocked = s.unlocked := by rw [dropGather_eq]
@[simp] theorem dropGather_commits (s : State) (m : Nat) : (s.dropGather m).commits = s.commits := by rw [dropGather_eq]
@[simp] theorem dropGather_marks (s : State) (m : Nat) : (s.dropGather m).marks = s.marks := by rw [dropGather_eq]
@[simp] theorem dropGather_log (s : State) (m : Nat) : (s.dropGather m).log = s.log := by rw [dropGather_eq]
@[simp] theorem dropGather_gathers (s : State) (m : Nat) : (s.dropGather m).gathers = Tbl.erase s.gathers m := by rw [dropGather_eq]
@[simp] theorem dropGather_supHeld (s : State) (m : Nat) : (s.dropGather m).supHeld = s.supHeld := by rw [dropGather_eq]
@[simp] theorem dropGather_spi (s : State) (m : Nat) : (s.dropGather m).spi = s.spi := by rw [dropGather_eq]
@[simp] theorem dropGather_mdio (s : State) (m : Nat) : (s.dropGather m).mdio = s.mdio := by rw [dropGather_eq]
@[simp] theorem dropGather_cascStatus (s : State) (m : Nat) : (s.dropGather m).cascStatus = s.cascStatus := by rw [dropGather_eq]
@[simp] theorem dropGather_resp (s : State) (m : Nat) : (s.dropGather m).resp = s.resp := by rw [dropGather_eq]
@[simp] theorem dropGather_tick (s : State) (m : Nat) : (s.dropGather m).tick = s.tick := by rw [dropGather_eq]
@[simp] theorem dropGather_clock (s : State) (m : Nat) : (s.dropGather m).clock = s.clock := by rw [dropGather_eq]
@[simp] theorem dropGather_time (s : State) (m : Nat) : (s.dropGather m).time = s.time := by rw [dropGather_eq]
@[simp] theorem dropGather_propTick (s : State) (m : Nat) : (s.dropGather m).propTick = s.propTick := by rw [dropGather_eq]
@[simp] theorem dropGather_propFam (s : State) (m : Nat) : (s.dropGather m).propFam = s.propFam := by rw [dropGather_eq]
@[simp] theorem dropGather_propMask (s : State) (m : Nat) : (s.dropGather m).propMask = s.propMask := by rw [dropGather_eq]
@[simp] theorem dropGather_upStage (s : State) (m : Nat) : (s.dropGather m).upStage = s.upStage := by rw [dropGather_eq]
@[simp] theorem dropGather_free (s : State) (m : Nat) : (s.dropGather m).free = s.free := by rw [dropGather_eq]

/-! ## logOcc -/

theorem ite_log (c : Prop) [Decidable c] (s a b : State) (ha : ∃ l, a = { s with log := l }) (hb : ∃ l, b = { s with log := l }) :
    ∃ l, (if c then a else b) = { s with log := l } := by split <;> assumption
/-- Handing an occurrence to the log changes the log alone. -/
theorem logOcc_eq (s : State) (o : Occ) (r : Bool) : ∃ l, s.logOcc o r = { s with log := l } := by
  unfold State.logOcc
  exact ite_log _ s _ _ ⟨_, rfl⟩ (ite_log _ s _ _ ⟨_, rfl⟩ ⟨s.log, rfl⟩)
@[simp] theorem logOcc_pending (s : State) (o : Occ) (r : Bool) : (s.logOcc o r).pending = s.pending := by obtain ⟨_, h⟩ := logOcc_eq s o r; rw [h]
@[simp] theorem logOcc_variant (s : State) (o : Occ) (r : Bool) : (s.logOcc o r).variant = s.variant := by obtain ⟨_, h⟩ := logOcc_eq s o r; rw [h]
@[simp] theorem logOcc_slave (s : State) (o : Occ) (r : Bool) : (s.logOcc o r).slave = s.slave := by obtain ⟨_, h⟩ := logOcc_eq s o r; rw [h]
@[simp] theorem logOcc_regs (s : State) (o : Occ) (r : Bool) : (s.logOcc o r).regs = s.regs := by obtain ⟨_, h⟩ := logOcc_eq s o r; rw [h]
@[simp] theorem logOcc_inForce (s : State) (o : Occ) (r : Bool) : (s.logOcc o r).inForce = s.inForce := by obtain ⟨_, h⟩ := logOcc_eq s o r; rw [h]
@[simp] theorem logOcc_latched (s : State) (o : Occ) (r : Bool) : (s.logOcc o r).latched = s.latched := by obtain ⟨_, h⟩ := logOcc_eq s o r; rw [h]
@[simp] theorem logOcc_live (s : State) (o : Occ) (r : Bool) : (s.logOcc o r).live = s.live := by obtain ⟨_, h⟩ := logOcc_eq s o r; rw [h]
@[simp] theorem logOcc_mem (s : State) (o : Occ) (r : Bool) : (s.logOcc o r).mem = s.mem := by obtain ⟨_, h⟩ := logOcc_eq s o r; rw [h]
@[simp] theorem logOcc_ms (s : State) (o : Occ) (r : Bool) : (s.logOcc o r).ms = s.ms := by obtain ⟨_, h⟩ := logOcc_eq s o r; rw [h]
@[simp] theorem logOcc_cores (s : State) (o : Occ) (r : Bool) : (s.logOcc o r).cores = s.cores := by obtain ⟨_, h⟩ := logOcc_eq s o r; rw [h]
@[simp] theorem logOcc_clus (s : State) (o : Occ) (r : Bool) : (s.logOcc o r).clus = s.clus := by obtain ⟨_, h⟩ := logOcc_eq s o r; rw [h]
@[simp] theorem logOcc_supState (s : State) (o : Occ) (r : Bool) : (s.logOcc o r).supState = s.supState := by obtain ⟨_, h⟩ := logOcc_eq s o r; rw [h]
@[simp] theorem logOcc_lrx (s : State) (o : Occ) (r : Bool) : (s.logOcc o r).lrx = s.lrx := by obtain ⟨_, h⟩ := logOcc_eq s o r; rw [h]
@[simp] theorem logOcc_ltx (s : State) (o : Occ) (r : Bool) : (s.logOcc o r).ltx = s.ltx := by obtain ⟨_, h⟩ := logOcc_eq s o r; rw [h]
@[simp] theorem logOcc_ifec (s : State) (o : Occ) (r : Bool) : (s.logOcc o r).ifec = s.ifec := by obtain ⟨_, h⟩ := logOcc_eq s o r; rw [h]
@[simp] theorem logOcc_port (s : State) (o : Occ) (r : Bool) : (s.logOcc o r).port = s.port := by obtain ⟨_, h⟩ := logOcc_eq s o r; rw [h]
@[simp] theorem logOcc_hsl (s : State) (o : Occ) (r : Bool) : (s.logOcc o r).hsl = s.hsl := by obtain ⟨_, h⟩ := logOcc_eq s o r; rw [h]
@[simp] theorem logOcc_cal (s : State) (o : Occ) (r : Bool) : (s.logOcc o r).cal = s.cal := by obtain ⟨_, h⟩ := logOcc_eq s o r; rw [h]
@[simp] theorem logOcc_part (s : State) (o : Occ) (r : Bool) : (s.logOcc o r).part = s.part := by obtain ⟨_, h⟩ := logOcc_eq s o r; rw [h]
@[simp] theorem logOcc_dawn (s : State) (o : Occ) (r : Bool) : (s.logOcc o r).dawn = s.dawn := by obtain ⟨_, h⟩ := logOcc_eq s o r; rw [h]
@[simp] theorem logOcc_cap (s : State) (o : Occ) (r : Bool) : (s.logOcc o r).cap = s.cap := by obtain ⟨_, h⟩ := logOcc_eq s o r; rw [h]
@[simp] theorem logOcc_rpl (s : State) (o : Occ) (r : Bool) : (s.logOcc o r).rpl = s.rpl := by obtain ⟨_, h⟩ := logOcc_eq s o r; rw [h]
@[simp] theorem logOcc_trc (s : State) (o : Occ) (r : Bool) : (s.logOcc o r).trc = s.trc := by obtain ⟨_, h⟩ := logOcc_eq s o r; rw [h]
@[simp] theorem logOcc_pwr (s : State) (o : Occ) (r : Bool) : (s.logOcc o r).pwr = s.pwr := by obtain ⟨_, h⟩ := logOcc_eq s o r; rw [h]
@[simp] theorem logOcc_boot (s : State) (o : Occ) (r : Bool) : (s.logOcc o r).boot = s.boot := by obtain ⟨_, h⟩ := logOcc_eq s o r; rw [h]
@[simp] theorem logOcc_casc (s : State) (o : Occ) (r : Bool) : (s.logOcc o r).casc = s.casc := by obtain ⟨_, h⟩ := logOcc_eq s o r; rw [h]
@[simp] theorem logOcc_hk (s : State) (o : Occ) (r : Bool) : (s.logOcc o r).hk = s.hk := by obtain ⟨_, h⟩ := logOcc_eq s o r; rw [h]
@[simp] theorem logOcc_cd (s : State) (o : Occ) (r : Bool) : (s.logOcc o r).cd = s.cd := by obtain ⟨_, h⟩ := logOcc_eq s o r; rw [h]
@[simp] theorem logOcc_pw (s : State) (o : Occ) (r : Bool) : (s.logOcc o r).pw = s.pw := by obtain ⟨_, h⟩ := logOcc_eq s o r; rw [h]
@[simp] theorem logOcc_unlocked (s : State) (o : Occ) (r : Bool) : (s.logOcc o r).unlocked = s.unlocked := by obtain ⟨_, h⟩ := logOcc_eq s o r; rw [h]
@[simp] theorem logOcc_commits (s : State) (o : Occ) (r : Bool) : (s.logOcc o r).commits = s.commits := by obtain ⟨_, h⟩ := logOcc_eq s o r; rw [h]
@[simp] theorem logOcc_marks (s : State) (o : Occ) (r : Bool) : (s.logOcc o r).marks = s.marks := by obtain ⟨_, h⟩ := logOcc_eq s o r; rw [h]
@[simp] theorem logOcc_gathers (s : State) (o : Occ) (r : Bool) : (s.logOcc o r).gathers = s.gathers := by obtain ⟨_, h⟩ := logOcc_eq s o r; rw [h]
@[simp] theorem logOcc_supHeld (s : State) (o : Occ) (r : Bool) : (s.logOcc o r).supHeld = s.supHeld := by obtain ⟨_, h⟩ := logOcc_eq s o r; rw [h]
@[simp] theorem logOcc_spi (s : State) (o : Occ) (r : Bool) : (s.logOcc o r).spi = s.spi := by obtain ⟨_, h⟩ := logOcc_eq s o r; rw [h]
@[simp] theorem logOcc_mdio (s : State) (o : Occ) (r : Bool) : (s.logOcc o r).mdio = s.mdio := by obtain ⟨_, h⟩ := logOcc_eq s o r; rw [h]
@[simp] theorem logOcc_cascStatus (s : State) (o : Occ) (r : Bool) : (s.logOcc o r).cascStatus = s.cascStatus := by obtain ⟨_, h⟩ := logOcc_eq s o r; rw [h]
@[simp] theorem logOcc_resp (s : State) (o : Occ) (r : Bool) : (s.logOcc o r).resp = s.resp := by obtain ⟨_, h⟩ := logOcc_eq s o r; rw [h]
@[simp] theorem logOcc_tick (s : State) (o : Occ) (r : Bool) : (s.logOcc o r).tick = s.tick := by obtain ⟨_, h⟩ := logOcc_eq s o r; rw [h]
@[simp] theorem logOcc_clock (s : State) (o : Occ) (r : Bool) : (s.logOcc o r).clock = s.clock := by obtain ⟨_, h⟩ := logOcc_eq s o r; rw [h]
@[simp] theorem logOcc_time (s : State) (o : Occ) (r : Bool) : (s.logOcc o r).time = s.time := by obtain ⟨_, h⟩ := logOcc_eq s o r; rw [h]
@[simp] theorem logOcc_propTick (s : State) (o : Occ) (r : Bool) : (s.logOcc o r).propTick = s.propTick := by obtain ⟨_, h⟩ := logOcc_eq s o r; rw [h]
@[simp] theorem logOcc_propFam (s : State) (o : Occ) (r : Bool) : (s.logOcc o r).propFam = s.propFam := by obtain ⟨_, h⟩ := logOcc_eq s o r; rw [h]
@[simp] theorem logOcc_propMask (s : State) (o : Occ) (r : Bool) : (s.logOcc o r).propMask = s.propMask := by obtain ⟨_, h⟩ := logOcc_eq s o r; rw [h]
@[simp] theorem logOcc_upStage (s : State) (o : Occ) (r : Bool) : (s.logOcc o r).upStage = s.upStage := by obtain ⟨_, h⟩ := logOcc_eq s o r; rw [h]
@[simp] theorem logOcc_free (s : State) (o : Occ) (r : Bool) : (s.logOcc o r).free = s.free := by obtain ⟨_, h⟩ := logOcc_eq s o r; rw [h]

/-! ## raiseBy -/

@[simp] theorem raiseBy_pending (s : State) (e : Ev) (i m : Nat) : (s.raiseBy e i m).pending = s.pending := logOcc_pending _ _ _
@[simp] theorem raiseBy_variant (s : State) (e : Ev) (i m : Nat) : (s.raiseBy e i m).variant = s.variant := logOcc_variant _ _ _
@[simp] theorem raiseBy_slave (s : State) (e : Ev) (i m : Nat) : (s.raiseBy e i m).slave = s.slave := logOcc_slave _ _ _
@[simp] theorem raiseBy_regs (s : State) (e : Ev) (i m : Nat) : (s.raiseBy e i m).regs = (s.setRaw e i).regs := logOcc_regs _ _ _
@[simp] theorem raiseBy_inForce (s : State) (e : Ev) (i m : Nat) : (s.raiseBy e i m).inForce = s.inForce := logOcc_inForce _ _ _
@[simp] theorem raiseBy_latched (s : State) (e : Ev) (i m : Nat) : (s.raiseBy e i m).latched = s.latched := logOcc_latched _ _ _
@[simp] theorem raiseBy_live (s : State) (e : Ev) (i m : Nat) : (s.raiseBy e i m).live = s.live := logOcc_live _ _ _
@[simp] theorem raiseBy_mem (s : State) (e : Ev) (i m : Nat) : (s.raiseBy e i m).mem = s.mem := logOcc_mem _ _ _
@[simp] theorem raiseBy_ms (s : State) (e : Ev) (i m : Nat) : (s.raiseBy e i m).ms = s.ms := logOcc_ms _ _ _
@[simp] theorem raiseBy_cores (s : State) (e : Ev) (i m : Nat) : (s.raiseBy e i m).cores = s.cores := logOcc_cores _ _ _
@[simp] theorem raiseBy_clus (s : State) (e : Ev) (i m : Nat) : (s.raiseBy e i m).clus = s.clus := logOcc_clus _ _ _
@[simp] theorem raiseBy_supState (s : State) (e : Ev) (i m : Nat) : (s.raiseBy e i m).supState = s.supState := logOcc_supState _ _ _
@[simp] theorem raiseBy_lrx (s : State) (e : Ev) (i m : Nat) : (s.raiseBy e i m).lrx = s.lrx := logOcc_lrx _ _ _
@[simp] theorem raiseBy_ltx (s : State) (e : Ev) (i m : Nat) : (s.raiseBy e i m).ltx = s.ltx := logOcc_ltx _ _ _
@[simp] theorem raiseBy_ifec (s : State) (e : Ev) (i m : Nat) : (s.raiseBy e i m).ifec = s.ifec := logOcc_ifec _ _ _
@[simp] theorem raiseBy_port (s : State) (e : Ev) (i m : Nat) : (s.raiseBy e i m).port = s.port := logOcc_port _ _ _
@[simp] theorem raiseBy_hsl (s : State) (e : Ev) (i m : Nat) : (s.raiseBy e i m).hsl = s.hsl := logOcc_hsl _ _ _
@[simp] theorem raiseBy_cal (s : State) (e : Ev) (i m : Nat) : (s.raiseBy e i m).cal = s.cal := logOcc_cal _ _ _
@[simp] theorem raiseBy_part (s : State) (e : Ev) (i m : Nat) : (s.raiseBy e i m).part = s.part := logOcc_part _ _ _
@[simp] theorem raiseBy_dawn (s : State) (e : Ev) (i m : Nat) : (s.raiseBy e i m).dawn = s.dawn := logOcc_dawn _ _ _
@[simp] theorem raiseBy_cap (s : State) (e : Ev) (i m : Nat) : (s.raiseBy e i m).cap = s.cap := logOcc_cap _ _ _
@[simp] theorem raiseBy_rpl (s : State) (e : Ev) (i m : Nat) : (s.raiseBy e i m).rpl = s.rpl := logOcc_rpl _ _ _
@[simp] theorem raiseBy_trc (s : State) (e : Ev) (i m : Nat) : (s.raiseBy e i m).trc = s.trc := logOcc_trc _ _ _
@[simp] theorem raiseBy_pwr (s : State) (e : Ev) (i m : Nat) : (s.raiseBy e i m).pwr = s.pwr := logOcc_pwr _ _ _
@[simp] theorem raiseBy_boot (s : State) (e : Ev) (i m : Nat) : (s.raiseBy e i m).boot = s.boot := logOcc_boot _ _ _
@[simp] theorem raiseBy_casc (s : State) (e : Ev) (i m : Nat) : (s.raiseBy e i m).casc = s.casc := logOcc_casc _ _ _
@[simp] theorem raiseBy_hk (s : State) (e : Ev) (i m : Nat) : (s.raiseBy e i m).hk = s.hk := logOcc_hk _ _ _
@[simp] theorem raiseBy_cd (s : State) (e : Ev) (i m : Nat) : (s.raiseBy e i m).cd = s.cd := logOcc_cd _ _ _
@[simp] theorem raiseBy_pw (s : State) (e : Ev) (i m : Nat) : (s.raiseBy e i m).pw = s.pw := logOcc_pw _ _ _
@[simp] theorem raiseBy_unlocked (s : State) (e : Ev) (i m : Nat) : (s.raiseBy e i m).unlocked = s.unlocked := logOcc_unlocked _ _ _
@[simp] theorem raiseBy_commits (s : State) (e : Ev) (i m : Nat) : (s.raiseBy e i m).commits = s.commits := logOcc_commits _ _ _
@[simp] theorem raiseBy_marks (s : State) (e : Ev) (i m : Nat) : (s.raiseBy e i m).marks = s.marks := logOcc_marks _ _ _
@[simp] theorem raiseBy_gathers (s : State) (e : Ev) (i m : Nat) : (s.raiseBy e i m).gathers = s.gathers := logOcc_gathers _ _ _
@[simp] theorem raiseBy_supHeld (s : State) (e : Ev) (i m : Nat) : (s.raiseBy e i m).supHeld = s.supHeld := logOcc_supHeld _ _ _
@[simp] theorem raiseBy_spi (s : State) (e : Ev) (i m : Nat) : (s.raiseBy e i m).spi = s.spi := logOcc_spi _ _ _
@[simp] theorem raiseBy_mdio (s : State) (e : Ev) (i m : Nat) : (s.raiseBy e i m).mdio = s.mdio := logOcc_mdio _ _ _
@[simp] theorem raiseBy_cascStatus (s : State) (e : Ev) (i m : Nat) : (s.raiseBy e i m).cascStatus = s.cascStatus := logOcc_cascStatus _ _ _
@[simp] theorem raiseBy_resp (s : State) (e : Ev) (i m : Nat) : (s.raiseBy e i m).resp = s.resp := logOcc_resp _ _ _
@[simp] theorem raiseBy_tick (s : State) (e : Ev) (i m : Nat) : (s.raiseBy e i m).tick = s.tick := logOcc_tick _ _ _
@[simp] theorem raiseBy_clock (s : State) (e : Ev) (i m : Nat) : (s.raiseBy e i m).clock = s.clock := logOcc_clock _ _ _
@[simp] theorem raiseBy_time (s : State) (e : Ev) (i m : Nat) : (s.raiseBy e i m).time = s.time := logOcc_time _ _ _
@[simp] theorem raiseBy_propTick (s : State) (e : Ev) (i m : Nat) : (s.raiseBy e i m).propTick = s.propTick := logOcc_propTick _ _ _
@[simp] theorem raiseBy_propFam (s : State) (e : Ev) (i m : Nat) : (s.raiseBy e i m).propFam = s.propFam := logOcc_propFam _ _ _
@[simp] theorem raiseBy_propMask (s : State) (e : Ev) (i m : Nat) : (s.raiseBy e i m).propMask = s.propMask := logOcc_propMask _ _ _
@[simp] theorem raiseBy_upStage (s : State) (e : Ev) (i m : Nat) : (s.raiseBy e i m).upStage = s.upStage := logOcc_upStage _ _ _
@[simp] theorem raiseBy_free (s : State) (e : Ev) (i m : Nat) : (s.raiseBy e i m).free = s.free := logOcc_free _ _ _

/-! ## raise -/

@[simp] theorem raise_pending (s : State) (e : Ev) (i : Nat) : (s.raise e i).pending = s.pending := raiseBy_pending s e i 0
@[simp] theorem raise_variant (s : State) (e : Ev) (i : Nat) : (s.raise e i).variant = s.variant := raiseBy_variant s e i 0
@[simp] theorem raise_slave (s : State) (e : Ev) (i : Nat) : (s.raise e i).slave = s.slave := raiseBy_slave s e i 0
@[simp] theorem raise_regs (s : State) (e : Ev) (i : Nat) : (s.raise e i).regs = (s.setRaw e i).regs := raiseBy_regs s e i 0
@[simp] theorem raise_inForce (s : State) (e : Ev) (i : Nat) : (s.raise e i).inForce = s.inForce := raiseBy_inForce s e i 0
@[simp] theorem raise_latched (s : State) (e : Ev) (i : Nat) : (s.raise e i).latched = s.latched := raiseBy_latched s e i 0
@[simp] theorem raise_live (s : State) (e : Ev) (i : Nat) : (s.raise e i).live = s.live := raiseBy_live s e i 0
@[simp] theorem raise_mem (s : State) (e : Ev) (i : Nat) : (s.raise e i).mem = s.mem := raiseBy_mem s e i 0
@[simp] theorem raise_ms (s : State) (e : Ev) (i : Nat) : (s.raise e i).ms = s.ms := raiseBy_ms s e i 0
@[simp] theorem raise_cores (s : State) (e : Ev) (i : Nat) : (s.raise e i).cores = s.cores := raiseBy_cores s e i 0
@[simp] theorem raise_clus (s : State) (e : Ev) (i : Nat) : (s.raise e i).clus = s.clus := raiseBy_clus s e i 0
@[simp] theorem raise_supState (s : State) (e : Ev) (i : Nat) : (s.raise e i).supState = s.supState := raiseBy_supState s e i 0
@[simp] theorem raise_lrx (s : State) (e : Ev) (i : Nat) : (s.raise e i).lrx = s.lrx := raiseBy_lrx s e i 0
@[simp] theorem raise_ltx (s : State) (e : Ev) (i : Nat) : (s.raise e i).ltx = s.ltx := raiseBy_ltx s e i 0
@[simp] theorem raise_ifec (s : State) (e : Ev) (i : Nat) : (s.raise e i).ifec = s.ifec := raiseBy_ifec s e i 0
@[simp] theorem raise_port (s : State) (e : Ev) (i : Nat) : (s.raise e i).port = s.port := raiseBy_port s e i 0
@[simp] theorem raise_hsl (s : State) (e : Ev) (i : Nat) : (s.raise e i).hsl = s.hsl := raiseBy_hsl s e i 0
@[simp] theorem raise_cal (s : State) (e : Ev) (i : Nat) : (s.raise e i).cal = s.cal := raiseBy_cal s e i 0
@[simp] theorem raise_part (s : State) (e : Ev) (i : Nat) : (s.raise e i).part = s.part := raiseBy_part s e i 0
@[simp] theorem raise_dawn (s : State) (e : Ev) (i : Nat) : (s.raise e i).dawn = s.dawn := raiseBy_dawn s e i 0
@[simp] theorem raise_cap (s : State) (e : Ev) (i : Nat) : (s.raise e i).cap = s.cap := raiseBy_cap s e i 0
@[simp] theorem raise_rpl (s : State) (e : Ev) (i : Nat) : (s.raise e i).rpl = s.rpl := raiseBy_rpl s e i 0
@[simp] theorem raise_trc (s : State) (e : Ev) (i : Nat) : (s.raise e i).trc = s.trc := raiseBy_trc s e i 0
@[simp] theorem raise_pwr (s : State) (e : Ev) (i : Nat) : (s.raise e i).pwr = s.pwr := raiseBy_pwr s e i 0
@[simp] theorem raise_boot (s : State) (e : Ev) (i : Nat) : (s.raise e i).boot = s.boot := raiseBy_boot s e i 0
@[simp] theorem raise_casc (s : State) (e : Ev) (i : Nat) : (s.raise e i).casc = s.casc := raiseBy_casc s e i 0
@[simp] theorem raise_hk (s : State) (e : Ev) (i : Nat) : (s.raise e i).hk = s.hk := raiseBy_hk s e i 0
@[simp] theorem raise_cd (s : State) (e : Ev) (i : Nat) : (s.raise e i).cd = s.cd := raiseBy_cd s e i 0
@[simp] theorem raise_pw (s : State) (e : Ev) (i : Nat) : (s.raise e i).pw = s.pw := raiseBy_pw s e i 0
@[simp] theorem raise_unlocked (s : State) (e : Ev) (i : Nat) : (s.raise e i).unlocked = s.unlocked := raiseBy_unlocked s e i 0
@[simp] theorem raise_commits (s : State) (e : Ev) (i : Nat) : (s.raise e i).commits = s.commits := raiseBy_commits s e i 0
@[simp] theorem raise_marks (s : State) (e : Ev) (i : Nat) : (s.raise e i).marks = s.marks := raiseBy_marks s e i 0
@[simp] theorem raise_gathers (s : State) (e : Ev) (i : Nat) : (s.raise e i).gathers = s.gathers := raiseBy_gathers s e i 0
@[simp] theorem raise_supHeld (s : State) (e : Ev) (i : Nat) : (s.raise e i).supHeld = s.supHeld := raiseBy_supHeld s e i 0
@[simp] theorem raise_spi (s : State) (e : Ev) (i : Nat) : (s.raise e i).spi = s.spi := raiseBy_spi s e i 0
@[simp] theorem raise_mdio (s : State) (e : Ev) (i : Nat) : (s.raise e i).mdio = s.mdio := raiseBy_mdio s e i 0
@[simp] theorem raise_cascStatus (s : State) (e : Ev) (i : Nat) : (s.raise e i).cascStatus = s.cascStatus := raiseBy_cascStatus s e i 0
@[simp] theorem raise_resp (s : State) (e : Ev) (i : Nat) : (s.raise e i).resp = s.resp := raiseBy_resp s e i 0
@[simp] theorem raise_tick (s : State) (e : Ev) (i : Nat) : (s.raise e i).tick = s.tick := raiseBy_tick s e i 0
@[simp] theorem raise_clock (s : State) (e : Ev) (i : Nat) : (s.raise e i).clock = s.clock := raiseBy_clock s e i 0
@[simp] theorem raise_time (s : State) (e : Ev) (i : Nat) : (s.raise e i).time = s.time := raiseBy_time s e i 0
@[simp] theorem raise_propTick (s : State) (e : Ev) (i : Nat) : (s.raise e i).propTick = s.propTick := raiseBy_propTick s e i 0
@[simp] theorem raise_propFam (s : State) (e : Ev) (i : Nat) : (s.raise e i).propFam = s.propFam := raiseBy_propFam s e i 0
@[simp] theorem raise_propMask (s : State) (e : Ev) (i : Nat) : (s.raise e i).propMask = s.propMask := raiseBy_propMask s e i 0
@[simp] theorem raise_upStage (s : State) (e : Ev) (i : Nat) : (s.raise e i).upStage = s.upStage := raiseBy_upStage s e i 0
@[simp] theorem raise_free (s : State) (e : Ev) (i : Nat) : (s.raise e i).free = s.free := raiseBy_free s e i 0

/-! ## raiseRec -/

@[simp] theorem raiseRec_pending (s : State) (e : Ev) (i m : Nat) (d : List Word) : (s.raiseRec e i m d).pending = s.pending := logOcc_pending _ _ _
@[simp] theorem raiseRec_variant (s : State) (e : Ev) (i m : Nat) (d : List Word) : (s.raiseRec e i m d).variant = s.variant := logOcc_variant _ _ _
@[simp] theorem raiseRec_slave (s : State) (e : Ev) (i m : Nat) (d : List Word) : (s.raiseRec e i m d).slave = s.slave := logOcc_slave _ _ _
@[simp] theorem raiseRec_regs (s : State) (e : Ev) (i m : Nat) (d : List Word) : (s.raiseRec e i m d).regs = (s.setRaw e i).regs := logOcc_regs _ _ _
@[simp] theorem raiseRec_inForce (s : State) (e : Ev) (i m : Nat) (d : List Word) : (s.raiseRec e i m d).inForce = s.inForce := logOcc_inForce _ _ _
@[simp] theorem raiseRec_latched (s : State) (e : Ev) (i m : Nat) (d : List Word) : (s.raiseRec e i m d).latched = s.latched := logOcc_latched _ _ _
@[simp] theorem raiseRec_live (s : State) (e : Ev) (i m : Nat) (d : List Word) : (s.raiseRec e i m d).live = s.live := logOcc_live _ _ _
@[simp] theorem raiseRec_mem (s : State) (e : Ev) (i m : Nat) (d : List Word) : (s.raiseRec e i m d).mem = s.mem := logOcc_mem _ _ _
@[simp] theorem raiseRec_ms (s : State) (e : Ev) (i m : Nat) (d : List Word) : (s.raiseRec e i m d).ms = s.ms := logOcc_ms _ _ _
@[simp] theorem raiseRec_cores (s : State) (e : Ev) (i m : Nat) (d : List Word) : (s.raiseRec e i m d).cores = s.cores := logOcc_cores _ _ _
@[simp] theorem raiseRec_clus (s : State) (e : Ev) (i m : Nat) (d : List Word) : (s.raiseRec e i m d).clus = s.clus := logOcc_clus _ _ _
@[simp] theorem raiseRec_supState (s : State) (e : Ev) (i m : Nat) (d : List Word) : (s.raiseRec e i m d).supState = s.supState := logOcc_supState _ _ _
@[simp] theorem raiseRec_lrx (s : State) (e : Ev) (i m : Nat) (d : List Word) : (s.raiseRec e i m d).lrx = s.lrx := logOcc_lrx _ _ _
@[simp] theorem raiseRec_ltx (s : State) (e : Ev) (i m : Nat) (d : List Word) : (s.raiseRec e i m d).ltx = s.ltx := logOcc_ltx _ _ _
@[simp] theorem raiseRec_ifec (s : State) (e : Ev) (i m : Nat) (d : List Word) : (s.raiseRec e i m d).ifec = s.ifec := logOcc_ifec _ _ _
@[simp] theorem raiseRec_port (s : State) (e : Ev) (i m : Nat) (d : List Word) : (s.raiseRec e i m d).port = s.port := logOcc_port _ _ _
@[simp] theorem raiseRec_hsl (s : State) (e : Ev) (i m : Nat) (d : List Word) : (s.raiseRec e i m d).hsl = s.hsl := logOcc_hsl _ _ _
@[simp] theorem raiseRec_cal (s : State) (e : Ev) (i m : Nat) (d : List Word) : (s.raiseRec e i m d).cal = s.cal := logOcc_cal _ _ _
@[simp] theorem raiseRec_part (s : State) (e : Ev) (i m : Nat) (d : List Word) : (s.raiseRec e i m d).part = s.part := logOcc_part _ _ _
@[simp] theorem raiseRec_dawn (s : State) (e : Ev) (i m : Nat) (d : List Word) : (s.raiseRec e i m d).dawn = s.dawn := logOcc_dawn _ _ _
@[simp] theorem raiseRec_cap (s : State) (e : Ev) (i m : Nat) (d : List Word) : (s.raiseRec e i m d).cap = s.cap := logOcc_cap _ _ _
@[simp] theorem raiseRec_rpl (s : State) (e : Ev) (i m : Nat) (d : List Word) : (s.raiseRec e i m d).rpl = s.rpl := logOcc_rpl _ _ _
@[simp] theorem raiseRec_trc (s : State) (e : Ev) (i m : Nat) (d : List Word) : (s.raiseRec e i m d).trc = s.trc := logOcc_trc _ _ _
@[simp] theorem raiseRec_pwr (s : State) (e : Ev) (i m : Nat) (d : List Word) : (s.raiseRec e i m d).pwr = s.pwr := logOcc_pwr _ _ _
@[simp] theorem raiseRec_boot (s : State) (e : Ev) (i m : Nat) (d : List Word) : (s.raiseRec e i m d).boot = s.boot := logOcc_boot _ _ _
@[simp] theorem raiseRec_casc (s : State) (e : Ev) (i m : Nat) (d : List Word) : (s.raiseRec e i m d).casc = s.casc := logOcc_casc _ _ _
@[simp] theorem raiseRec_hk (s : State) (e : Ev) (i m : Nat) (d : List Word) : (s.raiseRec e i m d).hk = s.hk := logOcc_hk _ _ _
@[simp] theorem raiseRec_cd (s : State) (e : Ev) (i m : Nat) (d : List Word) : (s.raiseRec e i m d).cd = s.cd := logOcc_cd _ _ _
@[simp] theorem raiseRec_pw (s : State) (e : Ev) (i m : Nat) (d : List Word) : (s.raiseRec e i m d).pw = s.pw := logOcc_pw _ _ _
@[simp] theorem raiseRec_unlocked (s : State) (e : Ev) (i m : Nat) (d : List Word) : (s.raiseRec e i m d).unlocked = s.unlocked := logOcc_unlocked _ _ _
@[simp] theorem raiseRec_commits (s : State) (e : Ev) (i m : Nat) (d : List Word) : (s.raiseRec e i m d).commits = s.commits := logOcc_commits _ _ _
@[simp] theorem raiseRec_marks (s : State) (e : Ev) (i m : Nat) (d : List Word) : (s.raiseRec e i m d).marks = s.marks := logOcc_marks _ _ _
@[simp] theorem raiseRec_gathers (s : State) (e : Ev) (i m : Nat) (d : List Word) : (s.raiseRec e i m d).gathers = s.gathers := logOcc_gathers _ _ _
@[simp] theorem raiseRec_supHeld (s : State) (e : Ev) (i m : Nat) (d : List Word) : (s.raiseRec e i m d).supHeld = s.supHeld := logOcc_supHeld _ _ _
@[simp] theorem raiseRec_spi (s : State) (e : Ev) (i m : Nat) (d : List Word) : (s.raiseRec e i m d).spi = s.spi := logOcc_spi _ _ _
@[simp] theorem raiseRec_mdio (s : State) (e : Ev) (i m : Nat) (d : List Word) : (s.raiseRec e i m d).mdio = s.mdio := logOcc_mdio _ _ _
@[simp] theorem raiseRec_cascStatus (s : State) (e : Ev) (i m : Nat) (d : List Word) : (s.raiseRec e i m d).cascStatus = s.cascStatus := logOcc_cascStatus _ _ _
@[simp] theorem raiseRec_resp (s : State) (e : Ev) (i m : Nat) (d : List Word) : (s.raiseRec e i m d).resp = s.resp := logOcc_resp _ _ _
@[simp] theorem raiseRec_tick (s : State) (e : Ev) (i m : Nat) (d : List Word) : (s.raiseRec e i m d).tick = s.tick := logOcc_tick _ _ _
@[simp] theorem raiseRec_clock (s : State) (e : Ev) (i m : Nat) (d : List Word) : (s.raiseRec e i m d).clock = s.clock := logOcc_clock _ _ _
@[simp] theorem raiseRec_time (s : State) (e : Ev) (i m : Nat) (d : List Word) : (s.raiseRec e i m d).time = s.time := logOcc_time _ _ _
@[simp] theorem raiseRec_propTick (s : State) (e : Ev) (i m : Nat) (d : List Word) : (s.raiseRec e i m d).propTick = s.propTick := logOcc_propTick _ _ _
@[simp] theorem raiseRec_propFam (s : State) (e : Ev) (i m : Nat) (d : List Word) : (s.raiseRec e i m d).propFam = s.propFam := logOcc_propFam _ _ _
@[simp] theorem raiseRec_propMask (s : State) (e : Ev) (i m : Nat) (d : List Word) : (s.raiseRec e i m d).propMask = s.propMask := logOcc_propMask _ _ _
@[simp] theorem raiseRec_upStage (s : State) (e : Ev) (i m : Nat) (d : List Word) : (s.raiseRec e i m d).upStage = s.upStage := logOcc_upStage _ _ _
@[simp] theorem raiseRec_free (s : State) (e : Ev) (i m : Nat) (d : List Word) : (s.raiseRec e i m d).free = s.free := logOcc_free _ _ _

/-! ## raiseReq -/

@[simp] theorem raiseReq_pending (s : State) (e : Ev) (i : Nat) : (s.raiseReq e i).pending = s.pending := logOcc_pending _ _ _
@[simp] theorem raiseReq_variant (s : State) (e : Ev) (i : Nat) : (s.raiseReq e i).variant = s.variant := logOcc_variant _ _ _
@[simp] theorem raiseReq_slave (s : State) (e : Ev) (i : Nat) : (s.raiseReq e i).slave = s.slave := logOcc_slave _ _ _
@[simp] theorem raiseReq_regs (s : State) (e : Ev) (i : Nat) : (s.raiseReq e i).regs = (s.setRaw e i).regs := logOcc_regs _ _ _
@[simp] theorem raiseReq_inForce (s : State) (e : Ev) (i : Nat) : (s.raiseReq e i).inForce = s.inForce := logOcc_inForce _ _ _
@[simp] theorem raiseReq_latched (s : State) (e : Ev) (i : Nat) : (s.raiseReq e i).latched = s.latched := logOcc_latched _ _ _
@[simp] theorem raiseReq_live (s : State) (e : Ev) (i : Nat) : (s.raiseReq e i).live = s.live := logOcc_live _ _ _
@[simp] theorem raiseReq_mem (s : State) (e : Ev) (i : Nat) : (s.raiseReq e i).mem = s.mem := logOcc_mem _ _ _
@[simp] theorem raiseReq_ms (s : State) (e : Ev) (i : Nat) : (s.raiseReq e i).ms = s.ms := logOcc_ms _ _ _
@[simp] theorem raiseReq_cores (s : State) (e : Ev) (i : Nat) : (s.raiseReq e i).cores = s.cores := logOcc_cores _ _ _
@[simp] theorem raiseReq_clus (s : State) (e : Ev) (i : Nat) : (s.raiseReq e i).clus = s.clus := logOcc_clus _ _ _
@[simp] theorem raiseReq_supState (s : State) (e : Ev) (i : Nat) : (s.raiseReq e i).supState = s.supState := logOcc_supState _ _ _
@[simp] theorem raiseReq_lrx (s : State) (e : Ev) (i : Nat) : (s.raiseReq e i).lrx = s.lrx := logOcc_lrx _ _ _
@[simp] theorem raiseReq_ltx (s : State) (e : Ev) (i : Nat) : (s.raiseReq e i).ltx = s.ltx := logOcc_ltx _ _ _
@[simp] theorem raiseReq_ifec (s : State) (e : Ev) (i : Nat) : (s.raiseReq e i).ifec = s.ifec := logOcc_ifec _ _ _
@[simp] theorem raiseReq_port (s : State) (e : Ev) (i : Nat) : (s.raiseReq e i).port = s.port := logOcc_port _ _ _
@[simp] theorem raiseReq_hsl (s : State) (e : Ev) (i : Nat) : (s.raiseReq e i).hsl = s.hsl := logOcc_hsl _ _ _
@[simp] theorem raiseReq_cal (s : State) (e : Ev) (i : Nat) : (s.raiseReq e i).cal = s.cal := logOcc_cal _ _ _
@[simp] theorem raiseReq_part (s : State) (e : Ev) (i : Nat) : (s.raiseReq e i).part = s.part := logOcc_part _ _ _
@[simp] theorem raiseReq_dawn (s : State) (e : Ev) (i : Nat) : (s.raiseReq e i).dawn = s.dawn := logOcc_dawn _ _ _
@[simp] theorem raiseReq_cap (s : State) (e : Ev) (i : Nat) : (s.raiseReq e i).cap = s.cap := logOcc_cap _ _ _
@[simp] theorem raiseReq_rpl (s : State) (e : Ev) (i : Nat) : (s.raiseReq e i).rpl = s.rpl := logOcc_rpl _ _ _
@[simp] theorem raiseReq_trc (s : State) (e : Ev) (i : Nat) : (s.raiseReq e i).trc = s.trc := logOcc_trc _ _ _
@[simp] theorem raiseReq_pwr (s : State) (e : Ev) (i : Nat) : (s.raiseReq e i).pwr = s.pwr := logOcc_pwr _ _ _
@[simp] theorem raiseReq_boot (s : State) (e : Ev) (i : Nat) : (s.raiseReq e i).boot = s.boot := logOcc_boot _ _ _
@[simp] theorem raiseReq_casc (s : State) (e : Ev) (i : Nat) : (s.raiseReq e i).casc = s.casc := logOcc_casc _ _ _
@[simp] theorem raiseReq_hk (s : State) (e : Ev) (i : Nat) : (s.raiseReq e i).hk = s.hk := logOcc_hk _ _ _
@[simp] theorem raiseReq_cd (s : State) (e : Ev) (i : Nat) : (s.raiseReq e i).cd = s.cd := logOcc_cd _ _ _
@[simp] theorem raiseReq_pw (s : State) (e : Ev) (i : Nat) : (s.raiseReq e i).pw = s.pw := logOcc_pw _ _ _
@[simp] theorem raiseReq_unlocked (s : State) (e : Ev) (i : Nat) : (s.raiseReq e i).unlocked = s.unlocked := logOcc_unlocked _ _ _
@[simp] theorem raiseReq_commits (s : State) (e : Ev) (i : Nat) : (s.raiseReq e i).commits = s.commits := logOcc_commits _ _ _
@[simp] theorem raiseReq_marks (s : State) (e : Ev) (i : Nat) : (s.raiseReq e i).marks = s.marks := logOcc_marks _ _ _
@[simp] theorem raiseReq_gathers (s : State) (e : Ev) (i : Nat) : (s.raiseReq e i).gathers = s.gathers := logOcc_gathers _ _ _
@[simp] theorem raiseReq_supHeld (s : State) (e : Ev) (i : Nat) : (s.raiseReq e i).supHeld = s.supHeld := logOcc_supHeld _ _ _
@[simp] theorem raiseReq_spi (s : State) (e : Ev) (i : Nat) : (s.raiseReq e i).spi = s.spi := logOcc_spi _ _ _
@[simp] theorem raiseReq_mdio (s : State) (e : Ev) (i : Nat) : (s.raiseReq e i).mdio = s.mdio := logOcc_mdio _ _ _
@[simp] theorem raiseReq_cascStatus (s : State) (e : Ev) (i : Nat) : (s.raiseReq e i).cascStatus = s.cascStatus := logOcc_cascStatus _ _ _
@[simp] theorem raiseReq_resp (s : State) (e : Ev) (i : Nat) : (s.raiseReq e i).resp = s.resp := logOcc_resp _ _ _
@[simp] theorem raiseReq_tick (s : State) (e : Ev) (i : Nat) : (s.raiseReq e i).tick = s.tick := logOcc_tick _ _ _
@[simp] theorem raiseReq_clock (s : State) (e : Ev) (i : Nat) : (s.raiseReq e i).clock = s.clock := logOcc_clock _ _ _
@[simp] theorem raiseReq_time (s : State) (e : Ev) (i : Nat) : (s.raiseReq e i).time = s.time := logOcc_time _ _ _
@[simp] theorem raiseReq_propTick (s : State) (e : Ev) (i : Nat) : (s.raiseReq e i).propTick = s.propTick := logOcc_propTick _ _ _
@[simp] theorem raiseReq_propFam (s : State) (e : Ev) (i : Nat) : (s.raiseReq e i).propFam = s.propFam := logOcc_propFam _ _ _
@[simp] theorem raiseReq_propMask (s : State) (e : Ev) (i : Nat) : (s.raiseReq e i).propMask = s.propMask := logOcc_propMask _ _ _
@[simp] theorem raiseReq_upStage (s : State) (e : Ev) (i : Nat) : (s.raiseReq e i).upStage = s.upStage := logOcc_upStage _ _ _
@[simp] theorem raiseReq_free (s : State) (e : Ev) (i : Nat) : (s.raiseReq e i).free = s.free := logOcc_free _ _ _

/-! ## record -/

@[simp] theorem record_pending (s : State) (k n m : Nat) (d : List Word) : (s.record k n m d).pending = s.pending := logOcc_pending _ _ _
@[simp] theorem record_variant (s : State) (k n m : Nat) (d : List Word) : (s.record k n m d).variant = s.variant := logOcc_variant _ _ _
@[simp] theorem record_slave (s : State) (k n m : Nat) (d : List Word) : (s.record k n m d).slave = s.slave := logOcc_slave _ _ _
@[simp] theorem record_regs (s : State) (k n m : Nat) (d : List Word) : (s.record k n m d).regs = s.regs := logOcc_regs _ _ _
@[simp] theorem record_inForce (s : State) (k n m : Nat) (d : List Word) : (s.record k n m d).inForce = s.inForce := logOcc_inForce _ _ _
@[simp] theorem record_latched (s : State) (k n m : Nat) (d : List Word) : (s.record k n m d).latched = s.latched := logOcc_latched _ _ _
@[simp] theorem record_live (s : State) (k n m : Nat) (d : List Word) : (s.record k n m d).live = s.live := logOcc_live _ _ _
@[simp] theorem record_mem (s : State) (k n m : Nat) (d : List Word) : (s.record k n m d).mem = s.mem := logOcc_mem _ _ _
@[simp] theorem record_ms (s : State) (k n m : Nat) (d : List Word) : (s.record k n m d).ms = s.ms := logOcc_ms _ _ _
@[simp] theorem record_cores (s : State) (k n m : Nat) (d : List Word) : (s.record k n m d).cores = s.cores := logOcc_cores _ _ _
@[simp] theorem record_clus (s : State) (k n m : Nat) (d : List Word) : (s.record k n m d).clus = s.clus := logOcc_clus _ _ _
@[simp] theorem record_supState (s : State) (k n m : Nat) (d : List Word) : (s.record k n m d).supState = s.supState := logOcc_supState _ _ _
@[simp] theorem record_lrx (s : State) (k n m : Nat) (d : List Word) : (s.record k n m d).lrx = s.lrx := logOcc_lrx _ _ _
@[simp] theorem record_ltx (s : State) (k n m : Nat) (d : List Word) : (s.record k n m d).ltx = s.ltx := logOcc_ltx _ _ _
@[simp] theorem record_ifec (s : State) (k n m : Nat) (d : List Word) : (s.record k n m d).ifec = s.ifec := logOcc_ifec _ _ _
@[simp] theorem record_port (s : State) (k n m : Nat) (d : List Word) : (s.record k n m d).port = s.port := logOcc_port _ _ _
@[simp] theorem record_hsl (s : State) (k n m : Nat) (d : List Word) : (s.record k n m d).hsl = s.hsl := logOcc_hsl _ _ _
@[simp] theorem record_cal (s : State) (k n m : Nat) (d : List Word) : (s.record k n m d).cal = s.cal := logOcc_cal _ _ _
@[simp] theorem record_part (s : State) (k n m : Nat) (d : List Word) : (s.record k n m d).part = s.part := logOcc_part _ _ _
@[simp] theorem record_dawn (s : State) (k n m : Nat) (d : List Word) : (s.record k n m d).dawn = s.dawn := logOcc_dawn _ _ _
@[simp] theorem record_cap (s : State) (k n m : Nat) (d : List Word) : (s.record k n m d).cap = s.cap := logOcc_cap _ _ _
@[simp] theorem record_rpl (s : State) (k n m : Nat) (d : List Word) : (s.record k n m d).rpl = s.rpl := logOcc_rpl _ _ _
@[simp] theorem record_trc (s : State) (k n m : Nat) (d : List Word) : (s.record k n m d).trc = s.trc := logOcc_trc _ _ _
@[simp] theorem record_pwr (s : State) (k n m : Nat) (d : List Word) : (s.record k n m d).pwr = s.pwr := logOcc_pwr _ _ _
@[simp] theorem record_boot (s : State) (k n m : Nat) (d : List Word) : (s.record k n m d).boot = s.boot := logOcc_boot _ _ _
@[simp] theorem record_casc (s : State) (k n m : Nat) (d : List Word) : (s.record k n m d).casc = s.casc := logOcc_casc _ _ _
@[simp] theorem record_hk (s : State) (k n m : Nat) (d : List Word) : (s.record k n m d).hk = s.hk := logOcc_hk _ _ _
@[simp] theorem record_cd (s : State) (k n m : Nat) (d : List Word) : (s.record k n m d).cd = s.cd := logOcc_cd _ _ _
@[simp] theorem record_pw (s : State) (k n m : Nat) (d : List Word) : (s.record k n m d).pw = s.pw := logOcc_pw _ _ _
@[simp] theorem record_unlocked (s : State) (k n m : Nat) (d : List Word) : (s.record k n m d).unlocked = s.unlocked := logOcc_unlocked _ _ _
@[simp] theorem record_commits (s : State) (k n m : Nat) (d : List Word) : (s.record k n m d).commits = s.commits := logOcc_commits _ _ _
@[simp] theorem record_marks (s : State) (k n m : Nat) (d : List Word) : (s.record k n m d).marks = s.marks := logOcc_marks _ _ _
@[simp] theorem record_gathers (s : State) (k n m : Nat) (d : List Word) : (s.record k n m d).gathers = s.gathers := logOcc_gathers _ _ _
@[simp] theorem record_supHeld (s : State) (k n m : Nat) (d : List Word) : (s.record k n m d).supHeld = s.supHeld := logOcc_supHeld _ _ _
@[simp] theorem record_spi (s : State) (k n m : Nat) (d : List Word) : (s.record k n m d).spi = s.spi := logOcc_spi _ _ _
@[simp] theorem record_mdio (s : State) (k n m : Nat) (d : List Word) : (s.record k n m d).mdio = s.mdio := logOcc_mdio _ _ _
@[simp] theorem record_cascStatus (s : State) (k n m : Nat) (d : List Word) : (s.record k n m d).cascStatus = s.cascStatus := logOcc_cascStatus _ _ _
@[simp] theorem record_resp (s : State) (k n m : Nat) (d : List Word) : (s.record k n m d).resp = s.resp := logOcc_resp _ _ _
@[simp] theorem record_tick (s : State) (k n m : Nat) (d : List Word) : (s.record k n m d).tick = s.tick := logOcc_tick _ _ _
@[simp] theorem record_clock (s : State) (k n m : Nat) (d : List Word) : (s.record k n m d).clock = s.clock := logOcc_clock _ _ _
@[simp] theorem record_time (s : State) (k n m : Nat) (d : List Word) : (s.record k n m d).time = s.time := logOcc_time _ _ _
@[simp] theorem record_propTick (s : State) (k n m : Nat) (d : List Word) : (s.record k n m d).propTick = s.propTick := logOcc_propTick _ _ _
@[simp] theorem record_propFam (s : State) (k n m : Nat) (d : List Word) : (s.record k n m d).propFam = s.propFam := logOcc_propFam _ _ _
@[simp] theorem record_propMask (s : State) (k n m : Nat) (d : List Word) : (s.record k n m d).propMask = s.propMask := logOcc_propMask _ _ _
@[simp] theorem record_upStage (s : State) (k n m : Nat) (d : List Word) : (s.record k n m d).upStage = s.upStage := logOcc_upStage _ _ _
@[simp] theorem record_free (s : State) (k n m : Nat) (d : List Word) : (s.record k n m d).free = s.free := logOcc_free _ _ _

/-! ## raiseAct -/

@[simp] theorem raiseAct_pending (s : State) (e : Ev) (i : Nat) (d : List Word) : (s.raiseAct e i d).pending = s.pending := logOcc_pending _ _ _
@[simp] theorem raiseAct_variant (s : State) (e : Ev) (i : Nat) (d : List Word) : (s.raiseAct e i d).variant = s.variant := logOcc_variant _ _ _
@[simp] theorem raiseAct_slave (s : State) (e : Ev) (i : Nat) (d : List Word) : (s.raiseAct e i d).slave = s.slave := logOcc_slave _ _ _
@[simp] theorem raiseAct_regs (s : State) (e : Ev) (i : Nat) (d : List Word) : (s.raiseAct e i d).regs = (s.setRaw e i).regs := logOcc_regs _ _ _
@[simp] theorem raiseAct_inForce (s : State) (e : Ev) (i : Nat) (d : List Word) : (s.raiseAct e i d).inForce = s.inForce := logOcc_inForce _ _ _
@[simp] theorem raiseAct_latched (s : State) (e : Ev) (i : Nat) (d : List Word) : (s.raiseAct e i d).latched = s.latched := logOcc_latched _ _ _
@[simp] theorem raiseAct_live (s : State) (e : Ev) (i : Nat) (d : List Word) : (s.raiseAct e i d).live = s.live := logOcc_live _ _ _
@[simp] theorem raiseAct_mem (s : State) (e : Ev) (i : Nat) (d : List Word) : (s.raiseAct e i d).mem = s.mem := logOcc_mem _ _ _
@[simp] theorem raiseAct_ms (s : State) (e : Ev) (i : Nat) (d : List Word) : (s.raiseAct e i d).ms = s.ms := logOcc_ms _ _ _
@[simp] theorem raiseAct_cores (s : State) (e : Ev) (i : Nat) (d : List Word) : (s.raiseAct e i d).cores = s.cores := logOcc_cores _ _ _
@[simp] theorem raiseAct_clus (s : State) (e : Ev) (i : Nat) (d : List Word) : (s.raiseAct e i d).clus = s.clus := logOcc_clus _ _ _
@[simp] theorem raiseAct_supState (s : State) (e : Ev) (i : Nat) (d : List Word) : (s.raiseAct e i d).supState = s.supState := logOcc_supState _ _ _
@[simp] theorem raiseAct_lrx (s : State) (e : Ev) (i : Nat) (d : List Word) : (s.raiseAct e i d).lrx = s.lrx := logOcc_lrx _ _ _
@[simp] theorem raiseAct_ltx (s : State) (e : Ev) (i : Nat) (d : List Word) : (s.raiseAct e i d).ltx = s.ltx := logOcc_ltx _ _ _
@[simp] theorem raiseAct_ifec (s : State) (e : Ev) (i : Nat) (d : List Word) : (s.raiseAct e i d).ifec = s.ifec := logOcc_ifec _ _ _
@[simp] theorem raiseAct_port (s : State) (e : Ev) (i : Nat) (d : List Word) : (s.raiseAct e i d).port = s.port := logOcc_port _ _ _
@[simp] theorem raiseAct_hsl (s : State) (e : Ev) (i : Nat) (d : List Word) : (s.raiseAct e i d).hsl = s.hsl := logOcc_hsl _ _ _
@[simp] theorem raiseAct_cal (s : State) (e : Ev) (i : Nat) (d : List Word) : (s.raiseAct e i d).cal = s.cal := logOcc_cal _ _ _
@[simp] theorem raiseAct_part (s : State) (e : Ev) (i : Nat) (d : List Word) : (s.raiseAct e i d).part = s.part := logOcc_part _ _ _
@[simp] theorem raiseAct_dawn (s : State) (e : Ev) (i : Nat) (d : List Word) : (s.raiseAct e i d).dawn = s.dawn := logOcc_dawn _ _ _
@[simp] theorem raiseAct_cap (s : State) (e : Ev) (i : Nat) (d : List Word) : (s.raiseAct e i d).cap = s.cap := logOcc_cap _ _ _
@[simp] theorem raiseAct_rpl (s : State) (e : Ev) (i : Nat) (d : List Word) : (s.raiseAct e i d).rpl = s.rpl := logOcc_rpl _ _ _
@[simp] theorem raiseAct_trc (s : State) (e : Ev) (i : Nat) (d : List Word) : (s.raiseAct e i d).trc = s.trc := logOcc_trc _ _ _
@[simp] theorem raiseAct_pwr (s : State) (e : Ev) (i : Nat) (d : List Word) : (s.raiseAct e i d).pwr = s.pwr := logOcc_pwr _ _ _
@[simp] theorem raiseAct_boot (s : State) (e : Ev) (i : Nat) (d : List Word) : (s.raiseAct e i d).boot = s.boot := logOcc_boot _ _ _
@[simp] theorem raiseAct_casc (s : State) (e : Ev) (i : Nat) (d : List Word) : (s.raiseAct e i d).casc = s.casc := logOcc_casc _ _ _
@[simp] theorem raiseAct_hk (s : State) (e : Ev) (i : Nat) (d : List Word) : (s.raiseAct e i d).hk = s.hk := logOcc_hk _ _ _
@[simp] theorem raiseAct_cd (s : State) (e : Ev) (i : Nat) (d : List Word) : (s.raiseAct e i d).cd = s.cd := logOcc_cd _ _ _
@[simp] theorem raiseAct_pw (s : State) (e : Ev) (i : Nat) (d : List Word) : (s.raiseAct e i d).pw = s.pw := logOcc_pw _ _ _
@[simp] theorem raiseAct_unlocked (s : State) (e : Ev) (i : Nat) (d : List Word) : (s.raiseAct e i d).unlocked = s.unlocked := logOcc_unlocked _ _ _
@[simp] theorem raiseAct_commits (s : State) (e : Ev) (i : Nat) (d : List Word) : (s.raiseAct e i d).commits = s.commits := logOcc_commits _ _ _
@[simp] theorem raiseAct_marks (s : State) (e : Ev) (i : Nat) (d : List Word) : (s.raiseAct e i d).marks = s.marks := logOcc_marks _ _ _
@[simp] theorem raiseAct_gathers (s : State) (e : Ev) (i : Nat) (d : List Word) : (s.raiseAct e i d).gathers = s.gathers := logOcc_gathers _ _ _
@[simp] theorem raiseAct_supHeld (s : State) (e : Ev) (i : Nat) (d : List Word) : (s.raiseAct e i d).supHeld = s.supHeld := logOcc_supHeld _ _ _
@[simp] theorem raiseAct_spi (s : State) (e : Ev) (i : Nat) (d : List Word) : (s.raiseAct e i d).spi = s.spi := logOcc_spi _ _ _
@[simp] theorem raiseAct_mdio (s : State) (e : Ev) (i : Nat) (d : List Word) : (s.raiseAct e i d).mdio = s.mdio := logOcc_mdio _ _ _
@[simp] theorem raiseAct_cascStatus (s : State) (e : Ev) (i : Nat) (d : List Word) : (s.raiseAct e i d).cascStatus = s.cascStatus := logOcc_cascStatus _ _ _
@[simp] theorem raiseAct_resp (s : State) (e : Ev) (i : Nat) (d : List Word) : (s.raiseAct e i d).resp = s.resp := logOcc_resp _ _ _
@[simp] theorem raiseAct_tick (s : State) (e : Ev) (i : Nat) (d : List Word) : (s.raiseAct e i d).tick = s.tick := logOcc_tick _ _ _
@[simp] theorem raiseAct_clock (s : State) (e : Ev) (i : Nat) (d : List Word) : (s.raiseAct e i d).clock = s.clock := logOcc_clock _ _ _
@[simp] theorem raiseAct_time (s : State) (e : Ev) (i : Nat) (d : List Word) : (s.raiseAct e i d).time = s.time := logOcc_time _ _ _
@[simp] theorem raiseAct_propTick (s : State) (e : Ev) (i : Nat) (d : List Word) : (s.raiseAct e i d).propTick = s.propTick := logOcc_propTick _ _ _
@[simp] theorem raiseAct_propFam (s : State) (e : Ev) (i : Nat) (d : List Word) : (s.raiseAct e i d).propFam = s.propFam := logOcc_propFam _ _ _
@[simp] theorem raiseAct_propMask (s : State) (e : Ev) (i : Nat) (d : List Word) : (s.raiseAct e i d).propMask = s.propMask := logOcc_propMask _ _ _
@[simp] theorem raiseAct_upStage (s : State) (e : Ev) (i : Nat) (d : List Word) : (s.raiseAct e i d).upStage = s.upStage := logOcc_upStage _ _ _
@[simp] theorem raiseAct_free (s : State) (e : Ev) (i : Nat) (d : List Word) : (s.raiseAct e i d).free = s.free := logOcc_free _ _ _

/-! ## memErr -/

@[simp] theorem memErr_pending (s : State) (c i x m p : Nat) : (s.memErr c i x m p).pending = s.pending := by unfold State.memErr; rw [addSat_pending, wr_pending, wr_pending]
@[simp] theorem memErr_variant (s : State) (c i x m p : Nat) : (s.memErr c i x m p).variant = s.variant := by unfold State.memErr; rw [addSat_variant, wr_variant, wr_variant]
@[simp] theorem memErr_slave (s : State) (c i x m p : Nat) : (s.memErr c i x m p).slave = s.slave := by unfold State.memErr; rw [addSat_slave, wr_slave, wr_slave]
@[simp] theorem memErr_inForce (s : State) (c i x m p : Nat) : (s.memErr c i x m p).inForce = s.inForce := by unfold State.memErr; rw [addSat_inForce, wr_inForce, wr_inForce]
@[simp] theorem memErr_latched (s : State) (c i x m p : Nat) : (s.memErr c i x m p).latched = s.latched := by unfold State.memErr; rw [addSat_latched, wr_latched, wr_latched]
@[simp] theorem memErr_live (s : State) (c i x m p : Nat) : (s.memErr c i x m p).live = s.live := by unfold State.memErr; rw [addSat_live, wr_live, wr_live]
@[simp] theorem memErr_mem (s : State) (c i x m p : Nat) : (s.memErr c i x m p).mem = s.mem := by unfold State.memErr; rw [addSat_mem, wr_mem, wr_mem]
@[simp] theorem memErr_ms (s : State) (c i x m p : Nat) : (s.memErr c i x m p).ms = s.ms := by unfold State.memErr; rw [addSat_ms, wr_ms, wr_ms]
@[simp] theorem memErr_cores (s : State) (c i x m p : Nat) : (s.memErr c i x m p).cores = s.cores := by unfold State.memErr; rw [addSat_cores, wr_cores, wr_cores]
@[simp] theorem memErr_clus (s : State) (c i x m p : Nat) : (s.memErr c i x m p).clus = s.clus := by unfold State.memErr; rw [addSat_clus, wr_clus, wr_clus]
@[simp] theorem memErr_supState (s : State) (c i x m p : Nat) : (s.memErr c i x m p).supState = s.supState := by unfold State.memErr; rw [addSat_supState, wr_supState, wr_supState]
@[simp] theorem memErr_lrx (s : State) (c i x m p : Nat) : (s.memErr c i x m p).lrx = s.lrx := by unfold State.memErr; rw [addSat_lrx, wr_lrx, wr_lrx]
@[simp] theorem memErr_ltx (s : State) (c i x m p : Nat) : (s.memErr c i x m p).ltx = s.ltx := by unfold State.memErr; rw [addSat_ltx, wr_ltx, wr_ltx]
@[simp] theorem memErr_ifec (s : State) (c i x m p : Nat) : (s.memErr c i x m p).ifec = s.ifec := by unfold State.memErr; rw [addSat_ifec, wr_ifec, wr_ifec]
@[simp] theorem memErr_port (s : State) (c i x m p : Nat) : (s.memErr c i x m p).port = s.port := by unfold State.memErr; rw [addSat_port, wr_port, wr_port]
@[simp] theorem memErr_hsl (s : State) (c i x m p : Nat) : (s.memErr c i x m p).hsl = s.hsl := by unfold State.memErr; rw [addSat_hsl, wr_hsl, wr_hsl]
@[simp] theorem memErr_cal (s : State) (c i x m p : Nat) : (s.memErr c i x m p).cal = s.cal := by unfold State.memErr; rw [addSat_cal, wr_cal, wr_cal]
@[simp] theorem memErr_part (s : State) (c i x m p : Nat) : (s.memErr c i x m p).part = s.part := by unfold State.memErr; rw [addSat_part, wr_part, wr_part]
@[simp] theorem memErr_dawn (s : State) (c i x m p : Nat) : (s.memErr c i x m p).dawn = s.dawn := by unfold State.memErr; rw [addSat_dawn, wr_dawn, wr_dawn]
@[simp] theorem memErr_cap (s : State) (c i x m p : Nat) : (s.memErr c i x m p).cap = s.cap := by unfold State.memErr; rw [addSat_cap, wr_cap, wr_cap]
@[simp] theorem memErr_rpl (s : State) (c i x m p : Nat) : (s.memErr c i x m p).rpl = s.rpl := by unfold State.memErr; rw [addSat_rpl, wr_rpl, wr_rpl]
@[simp] theorem memErr_trc (s : State) (c i x m p : Nat) : (s.memErr c i x m p).trc = s.trc := by unfold State.memErr; rw [addSat_trc, wr_trc, wr_trc]
@[simp] theorem memErr_pwr (s : State) (c i x m p : Nat) : (s.memErr c i x m p).pwr = s.pwr := by unfold State.memErr; rw [addSat_pwr, wr_pwr, wr_pwr]
@[simp] theorem memErr_boot (s : State) (c i x m p : Nat) : (s.memErr c i x m p).boot = s.boot := by unfold State.memErr; rw [addSat_boot, wr_boot, wr_boot]
@[simp] theorem memErr_casc (s : State) (c i x m p : Nat) : (s.memErr c i x m p).casc = s.casc := by unfold State.memErr; rw [addSat_casc, wr_casc, wr_casc]
@[simp] theorem memErr_hk (s : State) (c i x m p : Nat) : (s.memErr c i x m p).hk = s.hk := by unfold State.memErr; rw [addSat_hk, wr_hk, wr_hk]
@[simp] theorem memErr_cd (s : State) (c i x m p : Nat) : (s.memErr c i x m p).cd = s.cd := by unfold State.memErr; rw [addSat_cd, wr_cd, wr_cd]
@[simp] theorem memErr_pw (s : State) (c i x m p : Nat) : (s.memErr c i x m p).pw = s.pw := by unfold State.memErr; rw [addSat_pw, wr_pw, wr_pw]
@[simp] theorem memErr_unlocked (s : State) (c i x m p : Nat) : (s.memErr c i x m p).unlocked = s.unlocked := by unfold State.memErr; rw [addSat_unlocked, wr_unlocked, wr_unlocked]
@[simp] theorem memErr_commits (s : State) (c i x m p : Nat) : (s.memErr c i x m p).commits = s.commits := by unfold State.memErr; rw [addSat_commits, wr_commits, wr_commits]
@[simp] theorem memErr_marks (s : State) (c i x m p : Nat) : (s.memErr c i x m p).marks = s.marks := by unfold State.memErr; rw [addSat_marks, wr_marks, wr_marks]
@[simp] theorem memErr_log (s : State) (c i x m p : Nat) : (s.memErr c i x m p).log = s.log := by unfold State.memErr; rw [addSat_log, wr_log, wr_log]
@[simp] theorem memErr_gathers (s : State) (c i x m p : Nat) : (s.memErr c i x m p).gathers = s.gathers := by unfold State.memErr; rw [addSat_gathers, wr_gathers, wr_gathers]
@[simp] theorem memErr_supHeld (s : State) (c i x m p : Nat) : (s.memErr c i x m p).supHeld = s.supHeld := by unfold State.memErr; rw [addSat_supHeld, wr_supHeld, wr_supHeld]
@[simp] theorem memErr_spi (s : State) (c i x m p : Nat) : (s.memErr c i x m p).spi = s.spi := by unfold State.memErr; rw [addSat_spi, wr_spi, wr_spi]
@[simp] theorem memErr_mdio (s : State) (c i x m p : Nat) : (s.memErr c i x m p).mdio = s.mdio := by unfold State.memErr; rw [addSat_mdio, wr_mdio, wr_mdio]
@[simp] theorem memErr_cascStatus (s : State) (c i x m p : Nat) : (s.memErr c i x m p).cascStatus = s.cascStatus := by unfold State.memErr; rw [addSat_cascStatus, wr_cascStatus, wr_cascStatus]
@[simp] theorem memErr_resp (s : State) (c i x m p : Nat) : (s.memErr c i x m p).resp = s.resp := by unfold State.memErr; rw [addSat_resp, wr_resp, wr_resp]
@[simp] theorem memErr_tick (s : State) (c i x m p : Nat) : (s.memErr c i x m p).tick = s.tick := by unfold State.memErr; rw [addSat_tick, wr_tick, wr_tick]
@[simp] theorem memErr_clock (s : State) (c i x m p : Nat) : (s.memErr c i x m p).clock = s.clock := by unfold State.memErr; rw [addSat_clock, wr_clock, wr_clock]
@[simp] theorem memErr_time (s : State) (c i x m p : Nat) : (s.memErr c i x m p).time = s.time := by unfold State.memErr; rw [addSat_time, wr_time, wr_time]
@[simp] theorem memErr_propTick (s : State) (c i x m p : Nat) : (s.memErr c i x m p).propTick = s.propTick := by unfold State.memErr; rw [addSat_propTick, wr_propTick, wr_propTick]
@[simp] theorem memErr_propFam (s : State) (c i x m p : Nat) : (s.memErr c i x m p).propFam = s.propFam := by unfold State.memErr; rw [addSat_propFam, wr_propFam, wr_propFam]
@[simp] theorem memErr_propMask (s : State) (c i x m p : Nat) : (s.memErr c i x m p).propMask = s.propMask := by unfold State.memErr; rw [addSat_propMask, wr_propMask, wr_propMask]
@[simp] theorem memErr_upStage (s : State) (c i x m p : Nat) : (s.memErr c i x m p).upStage = s.upStage := by unfold State.memErr; rw [addSat_upStage, wr_upStage, wr_upStage]
@[simp] theorem memErr_free (s : State) (c i x m p : Nat) : (s.memErr c i x m p).free = s.free := by unfold State.memErr; rw [addSat_free, wr_free, wr_free]

/-! ## fresh -/

@[simp] theorem fresh_pending (s : State) : s.fresh.2.pending = s.pending := rfl
@[simp] theorem fresh_variant (s : State) : s.fresh.2.variant = s.variant := rfl
@[simp] theorem fresh_slave (s : State) : s.fresh.2.slave = s.slave := rfl
@[simp] theorem fresh_regs (s : State) : s.fresh.2.regs = s.regs := rfl
@[simp] theorem fresh_inForce (s : State) : s.fresh.2.inForce = s.inForce := rfl
@[simp] theorem fresh_latched (s : State) : s.fresh.2.latched = s.latched := rfl
@[simp] theorem fresh_live (s : State) : s.fresh.2.live = s.live := rfl
@[simp] theorem fresh_mem (s : State) : s.fresh.2.mem = s.mem := rfl
@[simp] theorem fresh_ms (s : State) : s.fresh.2.ms = s.ms := rfl
@[simp] theorem fresh_cores (s : State) : s.fresh.2.cores = s.cores := rfl
@[simp] theorem fresh_clus (s : State) : s.fresh.2.clus = s.clus := rfl
@[simp] theorem fresh_supState (s : State) : s.fresh.2.supState = s.supState := rfl
@[simp] theorem fresh_lrx (s : State) : s.fresh.2.lrx = s.lrx := rfl
@[simp] theorem fresh_ltx (s : State) : s.fresh.2.ltx = s.ltx := rfl
@[simp] theorem fresh_ifec (s : State) : s.fresh.2.ifec = s.ifec := rfl
@[simp] theorem fresh_port (s : State) : s.fresh.2.port = s.port := rfl
@[simp] theorem fresh_hsl (s : State) : s.fresh.2.hsl = s.hsl := rfl
@[simp] theorem fresh_cal (s : State) : s.fresh.2.cal = s.cal := rfl
@[simp] theorem fresh_part (s : State) : s.fresh.2.part = s.part := rfl
@[simp] theorem fresh_dawn (s : State) : s.fresh.2.dawn = s.dawn := rfl
@[simp] theorem fresh_cap (s : State) : s.fresh.2.cap = s.cap := rfl
@[simp] theorem fresh_rpl (s : State) : s.fresh.2.rpl = s.rpl := rfl
@[simp] theorem fresh_trc (s : State) : s.fresh.2.trc = s.trc := rfl
@[simp] theorem fresh_pwr (s : State) : s.fresh.2.pwr = s.pwr := rfl
@[simp] theorem fresh_boot (s : State) : s.fresh.2.boot = s.boot := rfl
@[simp] theorem fresh_casc (s : State) : s.fresh.2.casc = s.casc := rfl
@[simp] theorem fresh_hk (s : State) : s.fresh.2.hk = s.hk := rfl
@[simp] theorem fresh_cd (s : State) : s.fresh.2.cd = s.cd := rfl
@[simp] theorem fresh_pw (s : State) : s.fresh.2.pw = s.pw := rfl
@[simp] theorem fresh_unlocked (s : State) : s.fresh.2.unlocked = s.unlocked := rfl
@[simp] theorem fresh_commits (s : State) : s.fresh.2.commits = s.commits := rfl
@[simp] theorem fresh_marks (s : State) : s.fresh.2.marks = s.marks := rfl
@[simp] theorem fresh_log (s : State) : s.fresh.2.log = s.log := rfl
@[simp] theorem fresh_gathers (s : State) : s.fresh.2.gathers = s.gathers := rfl
@[simp] theorem fresh_supHeld (s : State) : s.fresh.2.supHeld = s.supHeld := rfl
@[simp] theorem fresh_spi (s : State) : s.fresh.2.spi = s.spi := rfl
@[simp] theorem fresh_mdio (s : State) : s.fresh.2.mdio = s.mdio := rfl
@[simp] theorem fresh_cascStatus (s : State) : s.fresh.2.cascStatus = s.cascStatus := rfl
@[simp] theorem fresh_resp (s : State) : s.fresh.2.resp = s.resp := rfl
@[simp] theorem fresh_tick (s : State) : s.fresh.2.tick = s.tick := rfl
@[simp] theorem fresh_clock (s : State) : s.fresh.2.clock = s.clock := rfl
@[simp] theorem fresh_time (s : State) : s.fresh.2.time = s.time := rfl
@[simp] theorem fresh_propTick (s : State) : s.fresh.2.propTick = s.propTick := rfl
@[simp] theorem fresh_propFam (s : State) : s.fresh.2.propFam = s.propFam := rfl
@[simp] theorem fresh_propMask (s : State) : s.fresh.2.propMask = s.propMask := rfl
@[simp] theorem fresh_upStage (s : State) : s.fresh.2.upStage = s.upStage := rfl
@[simp] theorem fresh_free (s : State) : s.fresh.2.free = s.free + 1 := rfl

end Sys2Proof.Laws
end

