-- ==== Sys2Proof/Laws/Tbl.lean ====
section
/-! SUPPORT. The laws of sparse tables: a read after a write, and the canonical form that every write keeps. -/

namespace Sys2Proof.Laws

open Sys2Proof.Machine

variable {α : Type}

/-! ## Reads after writes -/

/-- A filter that keeps every entry of a key does not change what the key reads as. -/
theorem find_filter (p : Nat × α → Bool) (t : Tbl α) (b : Nat) (h : ∀ e ∈ t, e.1 = b → p e = true) :
    Tbl.find (List.filter p t) b = Tbl.find t b := by
  unfold Tbl.find
  rw [List.find?_filter]
  congr 1
  refine List.find?_congr fun e he => ?_
  by_cases hb : e.1 = b <;> simp [hb, h e he]

/-- A filter that keeps no entry of a key leaves it unlisted. -/
theorem find_filter_out (p : Nat × α → Bool) (t : Tbl α) (b : Nat) (h : ∀ e ∈ t, e.1 = b → p e = false) :
    Tbl.find (List.filter p t) b = none := by
  unfold Tbl.find
  rw [Option.map_eq_none_iff, List.find?_eq_none]
  intro e he hb
  rw [List.mem_filter] at he
  simp [h e he.1 (by simpa using hb)] at he

theorem find_insert (t : Tbl α) (a b : Nat) (x : α) : Tbl.find (Tbl.insert t a x) b = if b = a then some x else Tbl.find t b := by
  have app (l r : Tbl α) : Tbl.find (l ++ r) b = (Tbl.find l b).or (Tbl.find r b) := by
    unfold Tbl.find; rw [List.find?_append]; cases List.find? _ l <;> rfl
  have head (r : Tbl α) : Tbl.find ((a, x) :: r) b = if b = a then some x else Tbl.find r b := by
    unfold Tbl.find; rw [List.find?_cons]; by_cases h : b = a
    · simp [h]
    · simp [h, show (a == b) = false by simpa using Ne.symm h]
  rw [Tbl.insert, app, head]
  rcases lt_trichotomy b a with h | h | h
  · have := h.ne
    rw [find_filter _ t b (by rintro e - rfl; simpa using h), find_filter_out _ t b (by rintro e - rfl; simpa using h.le)]
    simp [this]
  · rw [find_filter_out _ t b (by rintro e - rfl; simpa using h.ge)]
    simp [h]
  · have := h.ne'
    rw [find_filter_out _ t b (by rintro e - rfl; simpa using h.le), find_filter _ t b (by rintro e - rfl; simpa using h)]
    simp [this]

theorem find_erase (t : Tbl α) (a b : Nat) : Tbl.find (Tbl.erase t a) b = if b = a then none else Tbl.find t b := by
  split
  · exact find_filter_out _ t b (by rintro e - rfl; simp_all)
  · exact find_filter _ t b (by rintro e - rfl; simpa)

theorem find_put [DecidableEq α] (d : Option α) (t : Tbl α) (a b : Nat) (x : α) :
    Tbl.find (Tbl.put d t a x) b = if b = a then (if d = some x then none else some x) else Tbl.find t b := by
  unfold Tbl.put
  split
  · rw [find_erase]
  · rw [find_insert]

/-- A key reads as what was written to it. -/
@[simp] theorem get_put_self [DecidableEq α] (d : α) (t : Tbl α) (a : Nat) (x : α) : Tbl.get d (Tbl.put (some d) t a x) a = x := by
  unfold Tbl.get
  rw [find_put, if_pos rfl]
  split <;> simp_all

/-- Every other key reads as before, whatever the default of the write. -/
theorem get_put_ne [DecidableEq α] (d : α) (d' : Option α) (t : Tbl α) (a b : Nat) (x : α) (h : b ≠ a) :
    Tbl.get d (Tbl.put d' t a x) b = Tbl.get d t b := by
  unfold Tbl.get
  rw [find_put, if_neg h]

theorem get_put [DecidableEq α] (d : α) (t : Tbl α) (a b : Nat) (x : α) :
    Tbl.get d (Tbl.put (some d) t a x) b = if b = a then x else Tbl.get d t b := by
  split
  · subst b; exact get_put_self d t a x
  · rename_i h; exact get_put_ne d _ t a b x h

@[simp] theorem find_nil (a : Nat) : Tbl.find ([] : Tbl α) a = none := rfl

@[simp] theorem get_nil (d : α) (a : Nat) : Tbl.get d [] a = d := rfl

/-! ## The canonical form -/

theorem mem_insert (t : Tbl α) (a : Nat) (x : α) (e : Nat × α) (h : e ∈ Tbl.insert t a x) : e = (a, x) ∨ e ∈ t := by
  simp only [Tbl.insert, List.mem_append, List.mem_cons, List.mem_filter] at h
  tauto

theorem mem_erase (t : Tbl α) (a : Nat) (e : Nat × α) (h : e ∈ Tbl.erase t a) : e ∈ t := (List.mem_filter.1 h).1

theorem sorted_iff (t : Tbl α) : Tbl.sorted t = true ↔ t.Pairwise (fun e f => e.1 < f.1) := by
  rw [Tbl.sorted, decide_eq_true_eq, List.pairwise_map]

/-- Taking entries out keeps the keys rising. -/
theorem sorted_filter (p : Nat × α → Bool) (t : Tbl α) (h : Tbl.sorted t = true) : Tbl.sorted (List.filter p t) = true :=
  (sorted_iff _).2 (((sorted_iff t).1 h).sublist List.filter_sublist)

theorem sorted_insert (t : Tbl α) (a : Nat) (x : α) (h : Tbl.sorted t = true) : Tbl.sorted (Tbl.insert t a x) = true := by
  have low := (sorted_iff _).1 (sorted_filter (fun e => decide (e.1 < a)) t h)
  have high := (sorted_iff _).1 (sorted_filter (fun e => decide (a < e.1)) t h)
  refine (sorted_iff _).2 (List.pairwise_append.2 ⟨low, List.pairwise_cons.2 ⟨fun e he => ?_, high⟩, fun e he f hf => ?_⟩)
  · simpa using (List.mem_filter.1 he).2
  · have he : e.1 < a := by simpa using (List.mem_filter.1 he).2
    rcases List.mem_cons.1 hf with rfl | hf
    · exact he
    · exact he.trans (by simpa using (List.mem_filter.1 hf).2)

theorem sorted_erase (t : Tbl α) (a : Nat) (h : Tbl.sorted t = true) : Tbl.sorted (Tbl.erase t a) = true := sorted_filter _ t h

theorem sorted_drop (p : Nat → Bool) (t : Tbl α) (h : Tbl.sorted t = true) : Tbl.sorted (Tbl.drop p t) = true := sorted_filter _ t h

/-- The canonical form as its two conditions. -/
theorem wf_iff [DecidableEq α] (d : Nat → Option α) (t : Tbl α) :
    Tbl.wf d t = true ↔ Tbl.sorted t = true ∧ ∀ e ∈ t, d e.1 ≠ some e.2 := by
  simp [Tbl.wf]

/-- A write keeps the canonical form. -/
theorem wf_put [DecidableEq α] (d : Nat → Option α) (t : Tbl α) (a : Nat) (x : α) (h : Tbl.wf d t = true) :
    Tbl.wf d (Tbl.put (d a) t a x) = true := by
  obtain ⟨hs, hd⟩ := (wf_iff d t).1 h
  unfold Tbl.put
  split
  · exact (wf_iff ..).2 ⟨sorted_erase t a hs, fun e he => hd e (mem_erase t a e he)⟩
  · rename_i hx
    refine (wf_iff ..).2 ⟨sorted_insert t a x hs, fun e he => ?_⟩
    rcases mem_insert t a x e he with rfl | he
    · exact hx
    · exact hd e he

/-- Dropping keys keeps the canonical form, also for another default on the keys that stay. -/
theorem wf_drop [DecidableEq α] (d d' : Nat → Option α) (p : Nat → Bool) (t : Tbl α) (h : Tbl.wf d t = true)
    (hp : ∀ a, p a = false → d' a = d a) : Tbl.wf d' (Tbl.drop p t) = true := by
  obtain ⟨hs, hd⟩ := (wf_iff d t).1 h
  refine (wf_iff ..).2 ⟨sorted_drop p t hs, fun e he => ?_⟩
  obtain ⟨hm, hk⟩ := List.mem_filter.1 he
  rw [hp e.1 (by simpa using hk)]
  exact hd e hm

theorem find_drop (p : Nat → Bool) (t : Tbl α) (a : Nat) :
    Tbl.find (Tbl.drop p t) a = if p a then none else Tbl.find t a := by
  split
  · exact find_filter_out _ t a (by rintro e - rfl; simpa)
  · exact find_filter _ t a (by rintro e - rfl; simp_all)

end Sys2Proof.Laws
end

