-- ==== Sys2Proof/Laws/Regs.lean ====
section
/-! SUPPORT. The laws of registers and their fields, and of the other tables of the state: a read after a write. -/

namespace Sys2Proof.Laws

open Sys2Proof.Machine

/-! ## Fields of a word -/

theorem testBit_getBits (w : Word) (lo n i : Nat) : (getBits w lo n).testBit i = (decide (i < n) && w.getLsbD (lo + i)) := by
  unfold getBits
  rw [Nat.testBit_mod_two_pow, Nat.testBit_shiftRight]
  rfl

theorem getLsbD_mask (lo n i : Nat) :
    (BitVec.ofNat 32 ((2 ^ n - 1) * 2 ^ lo)).getLsbD i = (decide (i < 32) && (decide (lo ≤ i) && decide (i < lo + n))) := by
  rw [BitVec.getLsbD_ofNat, Nat.testBit_mul_two_pow, Nat.testBit_two_pow_sub_one]
  by_cases h : lo ≤ i
  · have : i - lo < n ↔ i < lo + n := by omega
    simp [h, this]
  · simp [h]

theorem getLsbD_putBits (w : Word) (lo n v i : Nat) :
    (putBits w lo n v).getLsbD i = if lo ≤ i ∧ i < lo + n ∧ i < 32 then v.testBit (i - lo) else w.getLsbD i := by
  unfold putBits
  simp only [BitVec.getLsbD_or, BitVec.getLsbD_and, BitVec.getLsbD_not, getLsbD_mask]
  rw [BitVec.getLsbD_ofNat, Nat.testBit_mul_two_pow, Nat.testBit_mod_two_pow]
  by_cases h32 : i < 32
  · by_cases h1 : lo ≤ i
    · by_cases h2 : i < lo + n
      · have : i - lo < n := by omega
        simp [h32, h1, h2, this]
      · have : ¬ i - lo < n := by omega
        simp [h32, h1, h2, this]
    · simp [h32, h1]
  · have : w.getLsbD i = false := BitVec.getLsbD_of_ge w i (by omega)
    simp [h32, this]

/-- A field reads as what it was set to. -/
theorem getBits_putBits (w : Word) (lo n v : Nat) (h : lo + n ≤ 32) : getBits (putBits w lo n v) lo n = v % 2 ^ n := by
  apply Nat.eq_of_testBit_eq
  intro i
  rw [testBit_getBits, getLsbD_putBits, Nat.testBit_mod_two_pow]
  by_cases hi : i < n
  · have : lo ≤ lo + i ∧ lo + i < lo + n ∧ lo + i < 32 := by omega
    simp [hi, this]
  · simp [hi]

/-- Setting a field leaves a field beside it. -/
theorem getBits_putBits_ne (w : Word) (lo n v lo' n' : Nat) (h : lo' + n' ≤ lo ∨ lo + n ≤ lo') :
    getBits (putBits w lo n v) lo' n' = getBits w lo' n' := by
  apply Nat.eq_of_testBit_eq
  intro i
  rw [testBit_getBits, testBit_getBits, getLsbD_putBits]
  by_cases hi : i < n'
  · have : ¬ (lo ≤ lo' + i ∧ lo' + i < lo + n ∧ lo' + i < 32) := by omega
    simp [hi, this]
  · simp [hi]

theorem getBits_lt (w : Word) (lo n : Nat) : getBits w lo n < 2 ^ n := Nat.mod_lt _ (Nat.two_pow_pos n)

/-- A whole word as a field. -/
theorem getBits_whole (w : Word) : getBits w 0 32 = w.toNat := by
  simp [getBits, Nat.mod_eq_of_lt w.isLt]

/-! ## Registers -/

@[simp] theorem rd_wr_self (s : State) (a : Nat) (w : Word) : (s.wr a w).rd a = w := by
  rw [State.rd, wr_regs, get_put_self]

theorem rd_wr_ne (s : State) (a b : Nat) (w : Word) (h : b ≠ a) : (s.wr a w).rd b = s.rd b := by
  rw [State.rd, wr_regs, get_put_ne _ _ _ _ _ _ h, State.rd]

theorem rd_wr (s : State) (a b : Nat) (w : Word) : (s.wr a w).rd b = if b = a then w else s.rd b := by
  split
  · subst b; simp
  · rename_i h; exact rd_wr_ne s a b w h

theorem rd_clr (s : State) (a b : Nat) : (s.clr a).rd b = if b = a then regReset a else s.rd b := by
  unfold State.rd Tbl.get
  rw [clr_regs, find_erase]
  split
  · subst b; rfl
  · rfl

/-- A register depends on the table of registers alone. -/
theorem rd_congr {s t : State} (h : t.regs = s.regs) (a : Nat) : t.rd a = s.rd a := by rw [State.rd, State.rd, h]

theorem rd_setFld (s : State) (b : Nat) (f : Fld) (v a : Nat) :
    (s.setFld b f v).rd a = if a = b + f.off then putBits (s.rd (b + f.off)) f.lo f.width v else s.rd a := by
  rw [State.setFld, rd_wr]

/-- Setting a field of the page at `b` leaves every other register. -/
theorem rd_setFld_ne (s : State) (b : Nat) (f : Fld) (v a : Nat) (h : a ≠ b + f.off) : (s.setFld b f v).rd a = s.rd a := by
  rw [rd_setFld, if_neg h]

theorem rd_addSat_ne (s : State) (b : Nat) (f : Fld) (v a : Nat) (h : a ≠ b + f.off) : (s.addSat b f v).rd a = s.rd a :=
  rd_setFld_ne s b f _ a h

theorem rd_addWrap_ne (s : State) (b : Nat) (f : Fld) (v a : Nat) (h : a ≠ b + f.off) : (s.addWrap b f v).rd a = s.rd a :=
  rd_setFld_ne s b f _ a h

/-- A field reads as what it was set to. -/
theorem fld_setFld (s : State) (b : Nat) (f : Fld) (v : Nat) (h : f.lo + f.width ≤ 32) :
    (s.setFld b f v).fld b f = v % 2 ^ f.width := by
  rw [State.fld, rd_setFld, if_pos rfl, getBits_putBits _ _ _ _ h]

/-- Another register, or a field beside it, keeps its value. -/
theorem fld_setFld_ne (s : State) (b : Nat) (f : Fld) (v b' : Nat) (g : Fld)
    (h : b' + g.off ≠ b + f.off ∨ g.lo + g.width ≤ f.lo ∨ f.lo + f.width ≤ g.lo) :
    (s.setFld b f v).fld b' g = s.fld b' g := by
  unfold State.fld
  rw [rd_setFld]
  split
  · rename_i he
    rw [getBits_putBits_ne _ _ _ _ _ _ (by tauto), he]
  · rfl

theorem fld_wr_ne (s : State) (a : Nat) (w : Word) (b : Nat) (f : Fld) (h : b + f.off ≠ a) : (s.wr a w).fld b f = s.fld b f := by
  unfold State.fld; rw [rd_wr_ne _ _ _ _ h]

theorem fld_addSat (s : State) (b : Nat) (f : Fld) (n : Nat) (h : f.lo + f.width ≤ 32) :
    (s.addSat b f n).fld b f = min (s.fld b f + n) (2 ^ f.width - 1) := by
  unfold State.addSat
  rw [fld_setFld _ _ _ _ h]
  exact Nat.mod_eq_of_lt (lt_of_le_of_lt (min_le_right _ _) (Nat.sub_lt (Nat.two_pow_pos _) one_pos))

theorem fld_addWrap (s : State) (b : Nat) (f : Fld) (n : Nat) (h : f.lo + f.width ≤ 32) :
    (s.addWrap b f n).fld b f = (s.fld b f + n) % 2 ^ f.width := fld_setFld s b f _ h

theorem bit_setFld_one (s : State) (b : Nat) (f : Fld) (h : f.lo + f.width ≤ 32) (hw : 0 < f.width) :
    (s.setFld b f 1).bit b f = true := by
  unfold State.bit
  rw [fld_setFld _ _ _ _ h]
  have : 1 < 2 ^ f.width := Nat.one_lt_two_pow (by omega)
  simp [Nat.mod_eq_of_lt this]

theorem bit_setFld_zero (s : State) (b : Nat) (f : Fld) (h : f.lo + f.width ≤ 32) : (s.setFld b f 0).bit b f = false := by
  unfold State.bit
  rw [fld_setFld _ _ _ _ h]
  simp

/-! ## Cores, clusters, live counters and answers -/

@[simp] theorem core_setCore_self (s : State) (k : Nat) (c : Core) : (s.setCore k c).core k = c := by
  rw [State.core, setCore_cores, get_put_self]

theorem core_setCore_ne (s : State) (k j : Nat) (c : Core) (h : j ≠ k) : (s.setCore k c).core j = s.core j := by
  rw [State.core, setCore_cores, get_put_ne _ _ _ _ _ _ h, State.core]

@[simp] theorem core_modCore_self (s : State) (k : Nat) (f : Core → Core) : (s.modCore k f).core k = f (s.core k) :=
  core_setCore_self s k _

theorem core_modCore_ne (s : State) (k j : Nat) (f : Core → Core) (h : j ≠ k) : (s.modCore k f).core j = s.core j :=
  core_setCore_ne s k j _ h

/-- A core depends on the table of cores alone. -/
theorem core_congr {s t : State} (h : t.cores = s.cores) (k : Nat) : t.core k = s.core k := by rw [State.core, State.core, h]

@[simp] theorem lv_setLv_self (s : State) (a n : Nat) : (s.setLv a n).lv a = n := by
  rw [State.lv, setLv_live, get_put_self]

theorem lv_setLv_ne (s : State) (a b n : Nat) (h : b ≠ a) : (s.setLv a n).lv b = s.lv b := by
  rw [State.lv, setLv_live, get_put_ne _ _ _ _ _ _ h, State.lv]

/-- The answer of the last read of a key. -/
@[simp] theorem resp_deliver (s : State) (k v : Nat) : Tbl.get 0 (s.deliver k v).resp k = v := by
  rw [deliver_resp, get_put_self]

/-! ## Events -/

/-- Raising an event sets its EVT_RAW bit alone, and hands an occurrence to the log. -/
theorem raiseBy_eq (s : State) (e : Ev) (i m : Nat) : ∃ l, s.raiseBy e i m = { s.setRaw e i with log := l } := logOcc_eq _ _ _

theorem raiseRec_eq (s : State) (e : Ev) (i m : Nat) (d : List Word) : ∃ l, s.raiseRec e i m d = { s.setRaw e i with log := l } :=
  logOcc_eq _ _ _

theorem rd_logOcc (s : State) (o : Occ) (r : Bool) (a : Nat) : (s.logOcc o r).rd a = s.rd a := rd_congr (logOcc_regs s o r) a

theorem rd_setRaw_ne (s : State) (e : Ev) (i a : Nat) (h : a ≠ pageAt e.fam i + HDR.EVT_RAW) : (s.setRaw e i).rd a = s.rd a :=
  rd_setFld_ne s _ _ _ _ h

theorem rd_raiseBy_ne (s : State) (e : Ev) (i m a : Nat) (h : a ≠ pageAt e.fam i + HDR.EVT_RAW) : (s.raiseBy e i m).rd a = s.rd a :=
  (rd_logOcc _ _ _ a).trans (rd_setRaw_ne s e i a h)

theorem rd_raise_ne (s : State) (e : Ev) (i a : Nat) (h : a ≠ pageAt e.fam i + HDR.EVT_RAW) : (s.raise e i).rd a = s.rd a :=
  rd_raiseBy_ne s e i 0 a h

theorem rd_raiseRec_ne (s : State) (e : Ev) (i m a : Nat) (d : List Word) (h : a ≠ pageAt e.fam i + HDR.EVT_RAW) :
    (s.raiseRec e i m d).rd a = s.rd a := (rd_logOcc _ _ _ a).trans (rd_setRaw_ne s e i a h)

theorem rd_raiseReq_ne (s : State) (e : Ev) (i a : Nat) (h : a ≠ pageAt e.fam i + HDR.EVT_RAW) : (s.raiseReq e i).rd a = s.rd a :=
  (rd_logOcc _ _ _ a).trans (rd_setRaw_ne s e i a h)

theorem rd_record (s : State) (k n m : Nat) (d : List Word) (a : Nat) : (s.record k n m d).rd a = s.rd a := rd_logOcc _ _ _ a

theorem rd_raiseAct_ne (s : State) (e : Ev) (i a : Nat) (d : List Word) (h : a ≠ pageAt e.fam i + HDR.EVT_RAW) :
    (s.raiseAct e i d).rd a = s.rd a := (rd_logOcc _ _ _ a).trans (rd_setRaw_ne s e i a h)

/-- The EVT_RAW bit of an event that was raised. -/
theorem raw_raise (s : State) (e : Ev) (i : Nat) (h : e.bit < 32) :
    (s.raise e i).bit (pageAt e.fam i) (bitAt HDR.EVT_RAW e.bit) = true := by
  have : (s.raise e i).bit (pageAt e.fam i) (bitAt HDR.EVT_RAW e.bit) = (s.setRaw e i).bit (pageAt e.fam i) (bitAt HDR.EVT_RAW e.bit) := by
    unfold State.bit State.fld
    rw [State.raise, State.raiseBy, rd_logOcc]
  rw [this]
  exact bit_setFld_one _ _ _ (by simp [bitAt]; omega) (by simp [bitAt])

/-! ## Folds and conditions -/

/-- What holds of a state and is kept by each step of a fold holds at its end. -/
theorem each_ind {P : State → Prop} (l : List Nat) (s : State) (f : State → Nat → State) (h0 : P s) (h : ∀ s a, P s → P (f s a)) :
    P (s.each l f) := by
  unfold State.each
  induction l generalizing s with
  | nil => exact h0
  | cons a t ih => exact ih _ (h s a h0)

@[simp] theorem when_true (s : State) (f : State → State) : s.when true f = f s := rfl

@[simp] theorem when_false (s : State) (f : State → State) : s.when false f = s := rfl

theorem when_ind {P : State → Prop} (s : State) (c : Bool) (f : State → State) (h0 : P s) (h : P s → P (f s)) : P (s.when c f) := by
  cases c
  · exact h0
  · exact h h0

end Sys2Proof.Laws
end

