-- ==== Sys2Proof/Laws/Memory.lean ====
section
/-! SUPPORT. The laws of memory: a read of a byte after a write, the canonical form that every memory operation keeps, and the bytes of a
number. -/

namespace Sys2Proof.Laws

open Sys2Proof.Machine

/-! ## Bytes -/

@[simp] theorem byte_putByte_self (s : State) (a : Nat) (b : Byte) : (s.putByte a b).byte a = some b := by
  unfold State.byte
  rw [putByte_mem, find_put, if_pos rfl, putByte_ms]
  split
  · rename_i h; split at h <;> simp_all
  · rename_i h; split at h <;> simp_all

theorem byte_putByte_ne (s : State) (a x : Nat) (b : Byte) (h : x ≠ a) : (s.putByte a b).byte x = s.byte x := by
  unfold State.byte
  rw [putByte_mem, find_put, if_neg h, putByte_ms]

/-- A byte depends on the memory and the fills alone. -/
theorem byte_congr {s t : State} (h : t.mem = s.mem) (hf : t.ms.fills = s.ms.fills) (a : Nat) : t.byte a = s.byte a := by
  rw [State.byte, State.byte, h, hf]

theorem byte_congr_wr (s : State) (a : Nat) (w : Word) (x : Nat) : (s.wr a w).byte x = s.byte x :=
  byte_congr (wr_mem ..) (by rw [wr_ms]) x

/-- Everything but the memory is as before. -/
theorem putBytes_eq (s : State) (a : Nat) (l : List Byte) : ∃ m, s.putBytes a l = { s with mem := m } := by
  induction l generalizing s a with
  | nil => exact ⟨s.mem, rfl⟩
  | cons b t ih =>
    obtain ⟨m, h⟩ := ih (s.putByte a b) (a + 1)
    exact ⟨m, by rw [State.putBytes, h, putByte_eq]⟩

@[simp] theorem putBytes_ms (s : State) (a : Nat) (l : List Byte) : (s.putBytes a l).ms = s.ms := by
  obtain ⟨m, h⟩ := putBytes_eq s a l; rw [h]

@[simp] theorem putBytes_regs (s : State) (a : Nat) (l : List Byte) : (s.putBytes a l).regs = s.regs := by
  obtain ⟨m, h⟩ := putBytes_eq s a l; rw [h]

@[simp] theorem putBytes_cores (s : State) (a : Nat) (l : List Byte) : (s.putBytes a l).cores = s.cores := by
  obtain ⟨m, h⟩ := putBytes_eq s a l; rw [h]

@[simp] theorem putBytes_pending (s : State) (a : Nat) (l : List Byte) : (s.putBytes a l).pending = s.pending := by
  obtain ⟨m, h⟩ := putBytes_eq s a l; rw [h]

@[simp] theorem putBytes_variant (s : State) (a : Nat) (l : List Byte) : (s.putBytes a l).variant = s.variant := by
  obtain ⟨m, h⟩ := putBytes_eq s a l; rw [h]

/-- Outside the bytes written, memory reads as before. -/
theorem byte_putBytes_out (s : State) (a : Nat) (l : List Byte) (x : Nat) (h : x < a ∨ a + l.length ≤ x) :
    (s.putBytes a l).byte x = s.byte x := by
  induction l generalizing s a with
  | nil => rfl
  | cons b t ih =>
    rw [List.length_cons] at h
    rw [State.putBytes, ih (s.putByte a b) (a + 1) (by omega), byte_putByte_ne _ _ _ _ (by omega)]

/-- The bytes written read back. -/
theorem byte_putBytes (s : State) (a : Nat) (l : List Byte) (i : Nat) (h : i < l.length) :
    (s.putBytes a l).byte (a + i) = l[i]? := by
  induction l generalizing s a i with
  | nil => simp at h
  | cons b t ih =>
    rw [State.putBytes]
    cases i with
    | zero => rw [byte_putBytes_out _ _ _ _ (by omega)]; simp
    | succ i =>
      rw [List.length_cons] at h
      have := ih (s.putByte a b) (a + 1) i (by omega)
      rw [show a + (i + 1) = a + 1 + i by omega, this]
      simp

/-! ## Numbers -/

@[simp] theorem toBytes_length (n v : Nat) : (toBytes n v).length = n := by
  induction n generalizing v with
  | zero => rfl
  | succ n ih => simp [toBytes, ih]

theorem ofBytes_toBytes (n v : Nat) : ofBytes (toBytes n v) = v % 256 ^ n := by
  induction n generalizing v with
  | zero => simp [toBytes, ofBytes, Nat.mod_one]
  | succ n ih =>
    rw [toBytes, ofBytes, ih, BitVec.toNat_ofNat, show (256 : Nat) ^ (n + 1) = 256 * 256 ^ n by ring, Nat.mod_mul]

theorem ofBytes_lt (l : List Byte) : ofBytes l < 256 ^ l.length := by
  induction l with
  | nil => simp [ofBytes]
  | cons b t ih =>
    have := b.isLt
    rw [ofBytes, List.length_cons, pow_succ]
    omega

theorem toBytes_ofBytes (l : List Byte) : toBytes l.length (ofBytes l) = l := by
  induction l with
  | nil => rfl
  | cons b t ih =>
    have hb := b.isLt
    rw [List.length_cons, toBytes, ofBytes, show (b.toNat + 256 * ofBytes t) / 256 = ofBytes t by omega, ih]
    congr 1
    apply BitVec.eq_of_toNat_eq
    rw [BitVec.toNat_ofNat]
    omega

/-- One byte more: the number at an address from its lowest byte and the number above. -/
theorem number_succ (s : State) (a n v : Nat) (b : Byte) (hb : s.byte a = some b) (hv : s.number (a + 1) n = some v) :
    s.number a (n + 1) = some (b.toNat + 256 * v) := by rw [State.number, hb, hv]

/-- The number at an address, from its bytes. -/
theorem number_of_bytes (s : State) (a : Nat) (l : List Byte) (h : ∀ i, i < l.length → s.byte (a + i) = l[i]?) :
    s.number a l.length = some (ofBytes l) := by
  induction l generalizing a with
  | nil => rfl
  | cons lowest above rest =>
    refine number_succ s a above.length _ lowest (h 0 (Nat.succ_pos _)) (rest _ fun i hi => ?_)
    rw [Nat.add_right_comm, Nat.add_assoc, h (i + 1) (Nat.succ_lt_succ hi), List.getElem?_cons_succ]

/-- A number depends on its bytes alone. -/
theorem number_congr {s t : State} (a n : Nat) (h : ∀ x, a ≤ x → x < a + n → t.byte x = s.byte x) : t.number a n = s.number a n := by
  induction n generalizing a with
  | zero => rfl
  | succ n ih => rw [State.number, State.number, h a (by omega) (by omega), ih (a + 1) (fun x h1 h2 => h x (by omega) (by omega))]

/-- What was written is the number that stands there. -/
theorem number_putBytes (s : State) (a : Nat) (l : List Byte) : (s.putBytes a l).number a l.length = some (ofBytes l) :=
  number_of_bytes _ _ _ fun i hi => byte_putBytes s a l i hi

/-! ## The canonical form -/

/-- The canonical form depends on the memory and the fills alone. -/
theorem wf_congr {s t : State} (h : t.mem = s.mem) (hf : t.ms.fills = s.ms.fills) : Memory.wf t = Memory.wf s := by
  rw [Memory.wf, Memory.wf, h, hf]

theorem wf_putByte (s : State) (a : Nat) (b : Byte) (h : Memory.wf s = true) : Memory.wf (s.putByte a b) = true := by
  rw [Memory.wf, putByte_mem, putByte_ms]
  exact wf_put _ _ _ _ h

theorem wf_putBytes (s : State) (a : Nat) (l : List Byte) (h : Memory.wf s = true) : Memory.wf (s.putBytes a l) = true := by
  induction l generalizing s a with
  | nil => exact h
  | cons b t ih => exact ih _ _ (wf_putByte s a b h)

theorem wf_reset : Memory.wf State.reset = true := rfl

/-- What `writeBack` leaves: the bytes of the word, and its cells as its code. -/
theorem writeBack_eq (s : State) (inst idx d : Nat) :
    ∃ m, s.writeBack inst idx d = { s with mem := m, ms := { s.ms with flips := Tbl.erase s.ms.flips (wordKey inst idx) } } := by
  obtain ⟨m, h⟩ := putBytes_eq s (devAddr inst idx) (toBytes (wordLen inst) d)
  exact ⟨m, by rw [State.writeBack, h]⟩

theorem wf_writeBack (s : State) (inst idx d : Nat) (h : Memory.wf s = true) : Memory.wf (s.writeBack inst idx d) = true := by
  have := wf_putBytes s (devAddr inst idx) (toBytes (wordLen inst) d) h
  rw [← this]
  exact wf_congr rfl rfl

theorem unpoison_mem (s : State) (p : Nat → Bool) : (s.unpoison p).mem = s.mem ∧ (s.unpoison p).ms.fills = s.ms.fills := by
  unfold State.unpoison
  split
  · exact ⟨by rw [setFld_mem], by rw [setFld_ms]⟩
  · exact ⟨rfl, rfl⟩

theorem bwCount_mem (s : State) (inst : Nat) (w : Bool) : (s.bwCount inst w).mem = s.mem ∧ (s.bwCount inst w).ms.fills = s.ms.fills := by
  unfold State.bwCount
  split
  · exact ⟨rfl, rfl⟩
  · split <;> exact ⟨rfl, rfl⟩

/-- Every byte after the write of a code word, from the bytes after its write-back. -/
theorem writeWord_mem (s : State) (inst idx d : Nat) :
    (s.writeWord inst idx d).mem = (s.putBytes (devAddr inst idx) (toBytes (wordLen inst) d)).mem
      ∧ (s.writeWord inst idx d).ms.fills = s.ms.fills := by
  unfold State.writeWord
  constructor
  · rw [(bwCount_mem ..).1]
    exact (unpoison_mem ..).1
  · rw [(bwCount_mem ..).2]
    refine (unpoison_mem ..).2.trans ?_
    obtain ⟨m, h⟩ := writeBack_eq s inst idx d
    rw [h]

theorem byte_writeWord (s : State) (inst idx d x : Nat) :
    (s.writeWord inst idx d).byte x = (s.putBytes (devAddr inst idx) (toBytes (wordLen inst) d)).byte x :=
  byte_congr (writeWord_mem s inst idx d).1 (by rw [(writeWord_mem s inst idx d).2, putBytes_ms]) x

/-- A write of a code word leaves its data there. -/
theorem number_writeWord (s : State) (inst idx d : Nat) :
    (s.writeWord inst idx d).number (devAddr inst idx) (wordLen inst) = some (d % 256 ^ wordLen inst) := by
  rw [number_congr _ _ (fun x _ _ => byte_writeWord s inst idx d x)]
  have := number_putBytes s (devAddr inst idx) (toBytes (wordLen inst) d)
  rwa [toBytes_length, ofBytes_toBytes] at this

/-- Outside the code word, memory reads as before. -/
theorem byte_writeWord_out (s : State) (inst idx d x : Nat) (h : x < devAddr inst idx ∨ devAddr inst idx + wordLen inst ≤ x) :
    (s.writeWord inst idx d).byte x = s.byte x := by
  rw [byte_writeWord, byte_putBytes_out _ _ _ _ (by rwa [toBytes_length])]

theorem wf_writeWord (s : State) (inst idx d : Nat) (h : Memory.wf s = true) : Memory.wf (s.writeWord inst idx d) = true := by
  have := wf_putBytes s (devAddr inst idx) (toBytes (wordLen inst) d) h
  rw [← this]
  exact wf_congr (writeWord_mem s inst idx d).1 (by rw [(writeWord_mem s inst idx d).2, putBytes_ms])

theorem wf_writeWords (s : State) (inst idx : Nat) (l : List Byte) (h : Memory.wf s = true) :
    Memory.wf (s.writeWords inst idx l) = true :=
  each_ind (P := fun s => Memory.wf s = true) _ s _ h fun _ _ h => wf_writeWord _ _ _ _ h

/-! ## The bulk fill -/

/-- A longer fill from the same start reads the same where the shorter one stood. -/
theorem unlisted_extend (f : Fill) (t : List Fill) (n x : Nat) (h : x < f.base + f.len ∨ f.base + n ≤ x) (hn : f.len ≤ n) :
    unlisted (⟨f.base, n, f.pat⟩ :: t) x = unlisted (f :: t) x := by
  unfold unlisted
  split
  · rfl
  · by_cases hb : f.base ≤ x
    · by_cases hx : x < f.base + f.len
      · have : x < f.base + n := by omega
        simp [hb, hx, this]
      · have : ¬ x < f.base + n := by omega
        simp [hx, this]
    · simp [hb]

theorem unlisted_cons_out (f : Fill) (t : List Fill) (x : Nat) (h : x < f.base ∨ f.base + f.len ≤ x) :
    unlisted (f :: t) x = unlisted t x := by
  unfold unlisted
  split
  · rfl
  · have : ¬ (f.base ≤ x ∧ x < f.base + f.len) := by omega
    by_cases hb : f.base ≤ x
    · have : ¬ x < f.base + f.len := by omega
      simp [this]
    · simp [hb]

/-- The fills after a fill of `a` to `b − 1` read as before outside that range. -/
theorem fillRange_out (s : State) (start a b : Nat) (pat : BitVec 64) (hab : a ≤ b) (x : Nat) (h : x < a ∨ b ≤ x) :
    unlisted (s.fillRange start a b pat).ms.fills x = unlisted s.ms.fills x := by
  unfold State.fillRange
  dsimp only [State.unsuspect]
  rw [(unpoison_mem ..).2]
  dsimp only
  split
  · rename_i f t hf
    rw [hf]
    split
    · rename_i hc
      obtain ⟨h1, h2, h3, h4⟩ := hc
      subst h1 h3
      exact unlisted_extend f t (b - f.base) x (by omega) (by omega)
    · exact unlisted_cons_out ⟨a, b - a, pat⟩ (f :: t) x (by show x < a ∨ a + (b - a) ≤ x; omega)
  · rename_i hf
    rw [hf]
    exact unlisted_cons_out ⟨a, b - a, pat⟩ [] x (by show x < a ∨ a + (b - a) ≤ x; omega)

theorem fillRange_mem (s : State) (start a b : Nat) (pat : BitVec 64) :
    (s.fillRange start a b pat).mem = Tbl.drop (fun x => decide (a ≤ x) && decide (x < b)) s.mem := by
  unfold State.fillRange
  dsimp only [State.unsuspect]
  rw [(unpoison_mem ..).1]

theorem wf_fillRange (s : State) (start a b : Nat) (pat : BitVec 64) (hab : a ≤ b) (h : Memory.wf s = true) :
    Memory.wf (s.fillRange start a b pat) = true := by
  rw [Memory.wf, fillRange_mem]
  refine wf_drop _ _ _ _ h fun x hx => fillRange_out s start a b pat hab x ?_
  simp at hx
  omega

/-- Outside the range filled, memory reads as before. -/
theorem byte_fillRange_out (s : State) (start a b : Nat) (pat : BitVec 64) (hab : a ≤ b) (x : Nat) (h : x < a ∨ b ≤ x) :
    (s.fillRange start a b pat).byte x = s.byte x := by
  unfold State.byte
  rw [fillRange_mem, find_drop, fillRange_out s start a b pat hab x h, if_neg (by simp; omega)]

end Sys2Proof.Laws
end

