-- ==== Sys2Proof/Laws/Txn.lean ====
section
/-! SUPPORT. The laws of transactions: a write that reaches its register does exactly its register's effect, and a read that reaches one
answers its word. -/

namespace Sys2Proof.Laws

open Sys2Proof.Machine Sys2Proof.Safety

/-- A requester that has gathered nothing issues nothing. -/
theorem issueNarrow_idle (s : State) (r : Requester) (h : idleGather s r) : s.issueNarrow r = (s, false) := by
  obtain ⟨hg, hs⟩ := h
  have hh : (if r = .sup then s.supHeld else none) = none := by
    split
    · rename_i hr; exact hs hr
    · rfl
  unfold State.issueNarrow
  dsimp only
  rw [hh, hg]

/-- The gate lets through a write that reaches its register. -/
theorem gate_reaches (s : State) (r : Requester) (fam i off : Nat) (v : Word) (eff : State → Out) (h : reaches s r fam i off v) :
    s.gate (s.master r) fam i off v eff = eff s := by
  obtain ⟨_, _, _, hm, row, hr, hro, hv, hl, hd⟩ := h
  unfold State.gate
  dsimp only
  rw [hm, hr]
  simp only [Bool.not_true, Bool.false_eq_true, if_false]
  rw [if_neg, if_neg hro, if_neg, if_neg (by simpa using hv)]
  · rintro ⟨h1, h2⟩
    simp [hl h1] at h2
  · rintro ⟨h1, h2, h3, h4⟩
    simp [hd h1 h2 h3] at h4

/-- A write that reaches its register does the register's effect. -/
theorem wrGate_reaches (s : State) (r : Requester) (fam i off : Nat) (v : Word) (eff : State → Out) (h : reaches s r fam i off v)
    (ha : pageAt fam i % 4 = 0) : s.wrGate r (pageAt fam i + off) v eff = eff s := by
  have h4 : (pageAt fam i + off) % 4 = 0 := by have := h.2.1; omega
  unfold State.wrGate
  rw [if_neg (by omega), h.2.2.1]
  exact gate_reaches s r fam i off v eff h

/-- A command that is a register write, when the write reaches its register. -/
theorem txn_reaches (s : State) (r : Requester) (fam i off : Nat) (v : Word) (eff : State → Out) (h : reaches s r fam i off v)
    (ha : pageAt fam i % 4 = 0) : txn r (pageAt fam i + off) v eff s = finish r (pageAt fam i + off) (eff s) := by
  unfold txn
  rw [issueNarrow_idle s r h.1]
  dsimp only
  rw [if_neg (by simp), wrGate_reaches s r fam i off v eff h ha]

/-- Every page lies at a multiple of 4 KiB. -/
theorem pageAt_mod (fam i : Nat) : pageAt fam i % 0x1000 = 0 := by
  unfold pageAt
  split
  · rename_i p hp
    have hm := List.mem_of_find?_eq_some hp
    have : ∀ q ∈ pages, q.base % 0x1000 = 0 := by decide
    have := this p hm
    omega
  · rfl

theorem pageAt_mod4 (fam i : Nat) : pageAt fam i % 4 = 0 := by
  have := pageAt_mod fam i
  omega

/-- Success answers a next state. -/
@[simp] theorem finish_ok (r : Requester) (a : Nat) (s : State) : finish r a (.ok s) = .next (s.reportOk r) := rfl

@[simp] theorem finish_err (r : Requester) (a c : Nat) (s : State) : finish r a (.err c s) = .next (s.reportErr r c a) := rfl

/-- The report of a success changes at most the error that the next SPI frame leads with. -/
theorem reportOk_eq (s : State) (r : Requester) : ∃ x, s.reportOk r = { s with spi := x } := by
  unfold State.reportOk
  split
  · split
    · exact ⟨s.spi, rfl⟩
    · exact ⟨_, rfl⟩
  · exact ⟨s.spi, rfl⟩

@[simp] theorem rd_reportOk (s : State) (r : Requester) (a : Nat) : (s.reportOk r).rd a = s.rd a := by
  obtain ⟨x, h⟩ := reportOk_eq s r; rw [h]; rfl

@[simp] theorem core_reportOk (s : State) (r : Requester) (k : Nat) : (s.reportOk r).core k = s.core k := by
  obtain ⟨x, h⟩ := reportOk_eq s r; rw [h]; rfl

@[simp] theorem byte_reportOk (s : State) (r : Requester) (a : Nat) : (s.reportOk r).byte a = s.byte a := by
  obtain ⟨x, h⟩ := reportOk_eq s r; rw [h]; rfl

@[simp] theorem pending_reportOk (s : State) (r : Requester) : (s.reportOk r).pending = s.pending := by
  obtain ⟨x, h⟩ := reportOk_eq s r; rw [h]

@[simp] theorem fld_reportOk (s : State) (r : Requester) (b : Nat) (f : Fld) : (s.reportOk r).fld b f = s.fld b f := by
  obtain ⟨x, h⟩ := reportOk_eq s r; rw [h]; rfl

/-- The report of a success leaves everything but the host's interfaces. -/
theorem nothing_reportOk (s : State) (r : Requester) : nothing s (s.reportOk r) := by
  obtain ⟨x, h⟩ := reportOk_eq s r
  rw [h]
  exact ⟨rfl, fun _ => rfl, fun _ => rfl, fun _ _ => rfl⟩

/-- A plain write that reaches its register leaves the value there and nothing else. -/
theorem store_reaches (s : State) (r : Requester) (fam i off : Nat) (v : Word) (h : reaches s r fam i off v) :
    ∃ t, txn r (pageAt fam i + off) v (effStore (pageAt fam i + off) v) s = .next t ∧ t.rd (pageAt fam i + off) = v
      ∧ onlyRegs s t [pageAt fam i + off] := by
  refine ⟨(s.wr (pageAt fam i + off) v).reportOk r, by rw [txn_reaches _ _ _ _ _ _ _ h (pageAt_mod4 fam i)]; rfl, by simp, ?_⟩
  refine ⟨by simp, fun k => ?_, fun a => ?_, fun a ha => ?_⟩
  · rw [core_reportOk]; exact core_congr (wr_cores ..) k
  · rw [byte_reportOk]; exact byte_congr_wr s _ v a
  · rw [rd_reportOk]
    exact rd_wr_ne s _ _ v (by simpa using ha)

/-! ## Frames compose -/

theorem memSame_refl (s : State) : memSame s s := fun _ => rfl

theorem memSame_trans {s t u : State} (h : memSame s t) (g : memSame t u) : memSame s u := fun a => (g a).trans (h a)

theorem regsSame_trans {s t u : State} {p : Nat → Prop} (h : regsSame s t p) (g : regsSame t u p) : regsSame s u p :=
  fun a ha => (g a ha).trans (h a ha)

theorem regsSame_mono {s t : State} {p q : Nat → Prop} (h : regsSame s t p) (g : ∀ a, p a → q a) : regsSame s t q :=
  fun a ha => h a fun hp => ha (g a hp)

theorem coresSame_trans {s t u : State} (h : coresSame s t) (g : coresSame t u) : coresSame s u := fun k => (g k).trans (h k)

theorem onlyRegs_refl (s : State) (l : List Nat) : onlyRegs s s l := ⟨rfl, fun _ => rfl, fun _ => rfl, fun _ _ => rfl⟩

theorem onlyRegs_trans {s t u : State} {l : List Nat} (h : onlyRegs s t l) (g : onlyRegs t u l) : onlyRegs s u l :=
  ⟨g.1.trans h.1, coresSame_trans h.2.1 g.2.1, memSame_trans h.2.2.1 g.2.2.1, regsSame_trans h.2.2.2 g.2.2.2⟩

theorem onlyRegs_mono {s t : State} {l m : List Nat} (h : onlyRegs s t l) (g : ∀ a ∈ l, a ∈ m) : onlyRegs s t m :=
  ⟨h.1, h.2.1, h.2.2.1, regsSame_mono h.2.2.2 g⟩

theorem onlyPage_trans {s t u : State} {b : Nat} (h : onlyPage s t b) (g : onlyPage t u b) : onlyPage s u b :=
  ⟨g.1.trans h.1, coresSame_trans h.2.1 g.2.1, memSame_trans h.2.2.1 g.2.2.1, regsSame_trans h.2.2.2 g.2.2.2⟩

/-- What changes registers of one page alone. -/
theorem onlyPage_of_onlyRegs {s t : State} {l : List Nat} {b : Nat} (h : onlyRegs s t l) (g : ∀ a ∈ l, inPage b a) : onlyPage s t b :=
  ⟨h.1, h.2.1, h.2.2.1, regsSame_mono h.2.2.2 g⟩

theorem onlyPages_trans {s t u : State} {l : List Nat} (h : onlyPages s t l) (g : onlyPages t u l) : onlyPages s u l :=
  ⟨g.1.trans h.1, coresSame_trans h.2.1 g.2.1, memSame_trans h.2.2.1 g.2.2.1, regsSame_trans h.2.2.2 g.2.2.2⟩

theorem onlyRegs_wr (s : State) (a : Nat) (w : Word) : onlyRegs s (s.wr a w) [a] :=
  ⟨by simp, fun k => core_congr (wr_cores ..) k, fun x => byte_congr_wr s a w x, fun x hx => rd_wr_ne s a x w (by simpa using hx)⟩

theorem onlyRegs_setFld (s : State) (b : Nat) (f : Fld) (v : Nat) : onlyRegs s (s.setFld b f v) [b + f.off] := onlyRegs_wr s _ _

theorem onlyRegs_addSat (s : State) (b : Nat) (f : Fld) (n : Nat) : onlyRegs s (s.addSat b f n) [b + f.off] := onlyRegs_wr s _ _

/-- Raising an event touches its page's EVT_RAW alone. -/
theorem onlyRegs_raiseBy (s : State) (e : Ev) (i m : Nat) : onlyRegs s (s.raiseBy e i m) [rawAt e.fam i] := by
  obtain ⟨l, h⟩ := raiseBy_eq s e i m
  rw [h]
  exact onlyRegs_trans (onlyRegs_setFld s (pageAt e.fam i) (bitAt HDR.EVT_RAW e.bit) 1)
    ⟨rfl, fun _ => rfl, fun _ => rfl, fun _ _ => rfl⟩

theorem onlyRegs_raise (s : State) (e : Ev) (i : Nat) : onlyRegs s (s.raise e i) [rawAt e.fam i] := onlyRegs_raiseBy s e i 0

end Sys2Proof.Laws
end

