-- ==== Sys2Proof/Laws/Cores.lean ====
section
/-! SUPPORT. The laws of cores: what counting a performance event may touch, and what an instruction, a jump and a trap leave. -/

namespace Sys2Proof.Laws

open Sys2Proof.Machine Sys2Proof.Safety

/-! ## Performance events -/

/-- All that counting an event in cluster `h` may change: the registers of its PERF page, its live counters and what it owes, and
the PERF bit of IPEND. -/
structure Counted (h : Nat) (s t : State) : Prop where
  pending : t.pending = s.pending
  variant : t.variant = s.variant
  mem : t.mem = s.mem
  ms : t.ms = s.ms
  sup : t.supState = s.supState
  regs : ∀ a, ¬ inPage (pPERF h) a → t.rd a = s.rd a
  core : ∀ j, t.core j = s.core j ∨ t.core j = { s.core j with ipend := (s.core j).ipend ||| 0x20 }

theorem Counted.refl (h : Nat) (s : State) : Counted h s s := ⟨rfl, rfl, rfl, rfl, rfl, fun _ _ => rfl, fun _ => .inl rfl⟩

theorem Counted.trans {h : Nat} {s t u : State} (p : Counted h s t) (q : Counted h t u) : Counted h s u where
  pending := q.pending.trans p.pending
  variant := q.variant.trans p.variant
  mem := q.mem.trans p.mem
  ms := q.ms.trans p.ms
  sup := q.sup.trans p.sup
  regs a ha := (q.regs a ha).trans (p.regs a ha)
  core j := by
    rcases q.core j with hq | hq <;> rcases p.core j with hp | hp <;> rw [hq, hp]
    · exact .inl rfl
    · exact .inr rfl
    · exact .inr rfl
    · refine .inr ?_
      simp only [BitVec.or_assoc, BitVec.or_self]

theorem counted_foldl {h : Nat} (l : List Nat) (f : State → Nat → State) (hf : ∀ s a, Counted h s (f s a)) (s : State) :
    Counted h s (s.each l f) := each_ind (P := fun t => Counted h s t) l s f (.refl h s) fun t a p => p.trans (hf t a)

theorem counted_when {h : Nat} (s : State) (c : Bool) (f : State → State) (hf : Counted h s (f s)) : Counted h s (s.when c f) := by
  cases c
  · exact .refl h s
  · exact hf

theorem counted_setFld (h : Nat) (s : State) (f : Fld) (v : Nat) (hf : f.off < 0x1000) : Counted h s (s.setFld (pPERF h) f v) where
  pending := by simp
  variant := by simp
  mem := by simp
  ms := by simp
  sup := by simp
  regs a ha := rd_setFld_ne _ _ _ _ _ fun he => ha (by subst he; exact ⟨by omega, by omega⟩)
  core j := .inl (core_congr (setFld_cores ..) j)

theorem counted_perfIrq (h c : Nat) (s : State) : Counted h s (s.perfIrq c) := by
  unfold State.perfIrq
  refine counted_foldl _ _ (fun s k => ?_) s
  refine ⟨by simp, by simp, by simp, by simp, by simp, fun a _ => rd_congr (by simp) a, fun j => ?_⟩
  by_cases hj : j = k
  · subst hj; exact .inr (by rw [core_modCore_self])
  · exact .inl (core_modCore_ne _ _ _ _ hj)

theorem counted_raise (h : Nat) (s : State) (k : Nat) : Counted h s (s.raise (evAt PERF.evCNT_OVF k) h) := by
  have hp : pageAt (evAt PERF.evCNT_OVF k).fam h = pPERF h := rfl
  refine ⟨by simp, by simp, by simp, by simp, by simp, fun a ha => ?_, fun j => .inl (core_congr (by simp) j)⟩
  refine rd_raise_ne _ _ _ _ fun he => ha ?_
  rw [hp] at he
  subst he
  exact ⟨by omega, by show _ + 0x10 < _; omega⟩

theorem counted_perfWrap (h : Nat) (s : State) (k : Nat) : Counted h s (s.perfWrap h k) := by
  have h1 : Counted h s ((s.setFld (pPERF h) (bitAt PERF.PF_STAT k) 1).raise (evAt PERF.evCNT_OVF k) h) :=
    (counted_setFld h s _ _ (by show PERF.PF_STAT < 0x1000; decide)).trans (counted_raise h _ k)
  unfold State.perfWrap
  dsimp only
  split
  · exact h1.trans (counted_perfIrq ..)
  · exact h1

theorem counted_setLv (h : Nat) (s : State) (a n : Nat) : Counted h s (s.setLv a n) :=
  ⟨by simp, by simp, by simp, by simp, by simp, fun a _ => rd_congr (by simp) a, fun j => .inl (core_congr (by simp) j)⟩

theorem counted_modClu (h : Nat) (s : State) (c : Nat) (f : Clu → Clu) : Counted h s (s.modClu c f) :=
  ⟨by simp, by simp, by simp, by simp, by simp, fun a _ => rd_congr (by simp) a, fun j => .inl (core_congr (by simp) j)⟩

theorem counted_perfBump (h : Nat) (s : State) (k : Nat) (e : PerfEv) : Counted h s (s.perfBump h k e) := by
  have h1 : Counted h s ((s.setLv (perfCnt h k) ((s.lv (perfCnt h k) + e.n) % 2 ^ 48)).when
      (decide (2 ^ 48 ≤ s.lv (perfCnt h k) + e.n)) (fun s => s.perfWrap h k)) :=
    (counted_setLv h s _ _).trans (counted_when _ _ _ (counted_perfWrap h _ k))
  unfold State.perfBump
  dsimp only
  split
  · exact h1.trans (counted_modClu ..)
  · exact h1

/-- Offering an event to the counters of cluster `h`. -/
theorem counted_perf (h : Nat) (s : State) (e : PerfEv) : Counted h s (s.perf h e) := by
  unfold State.perf
  split
  · refine counted_foldl _ _ (fun s k => ?_) s
    split
    · exact counted_perfBump h s k e
    · exact .refl h s
  · exact .refl h s

theorem counted_perfBw (h c p n : Nat) (s : State) : Counted h s (s.perfBw c p n) := counted_modClu h s c _

/-- An engine counts in a cluster of the die. -/
theorem homeOf_lt (s : State) (k : Nat) (hk : k < 256) : s.homeOf k < 16 := by
  unfold State.homeOf
  dsimp only
  split
  · exact lt_of_lt_of_eq (getBits_lt _ _ _) rfl
  · omega

/-- Where an engine counts does not change by counting. -/
theorem homeOf_counted {h : Nat} (hh : h < 16) {s t : State} (p : Counted h s t) (k : Nat) (hk : k < 256) : t.homeOf k = s.homeOf k := by
  have hr : t.rd (pCLU (k / 16) + (eCtrl k CLU.E_CTRL.HOME).off) = s.rd (pCLU (k / 16) + (eCtrl k CLU.E_CTRL.HOME).off) := by
    refine p.regs _ fun ⟨hlo, _⟩ => ?_
    have : (eCtrl k CLU.E_CTRL.HOME).off < 0x1000 := by
      show CLU.E_CTRL.HOME.off + 4 * (k % 16) < 0x1000
      have : CLU.E_CTRL.HOME.off < 0xF00 := by decide
      omega
    have hp : pPERF h = 0x10070000 + 0x1000 * h := rfl
    have hq : pCLU (k / 16) = 0x10060000 + 0x1000 * (k / 16) := rfl
    omega
  have he : (eCtrl k CLU.E_CTRL.HOME_EN).off = (eCtrl k CLU.E_CTRL.HOME).off := rfl
  unfold State.homeOf State.bit State.fld
  dsimp only
  rw [he, hr]

/-- An event that an instruction of core `k` causes. -/
theorem counted_perfInstr (s : State) (k code : Nat) (addr : Option Nat) (n : Nat) (hk : k < 256) :
    Counted (s.homeOf k) s (s.perfInstr k code addr n) := by
  unfold State.perfInstr
  rw [if_pos hk]
  exact counted_perf _ s _

/-- The supervisor has no counters. -/
theorem perfInstr_sup (s : State) (code : Nat) (addr : Option Nat) (n : Nat) : s.perfInstr supId code addr n = s := by
  unfold State.perfInstr
  rw [if_neg (by decide)]

/-- Several events of one instruction count in one cluster. -/
theorem counted_retired (s : State) (k : Nat) (vec : Bool) (hk : k < 256) : Counted (s.homeOf k) s (s.retired k vec) := by
  have h1 := counted_perfInstr s k 0x01 none 1 hk
  unfold State.retired
  dsimp only
  refine h1.trans (counted_when _ _ _ ?_)
  have h2 := counted_perfInstr (s.perfInstr k 0x01 none 1) k 0x02 none 1 hk
  rwa [homeOf_counted (homeOf_lt s k hk) h1 k hk] at h2

theorem retired_sup (s : State) (vec : Bool) : s.retired supId vec = s := by
  unfold State.retired
  simp only [perfInstr_sup]
  cases vec
  · rfl
  · exact perfInstr_sup s 0x02 none 1

/-! ## Instructions -/

/-- The state code of a core that goes on from WAIT. -/
theorem awake_state (s : State) (k : Nat) (h : s.coreState k = 2) : (s.awake k).coreState k = 1 := by
  unfold State.awake
  rw [if_pos h]
  unfold State.setEng State.coreState
  split
  · rfl
  · rename_i hk
    rw [fld_setFld _ _ _ _ (by show CLU.E_STAT.STATE.lo + CLU.E_STAT.STATE.width ≤ 32; decide)]
    rfl

/-- A core that goes on changes its state code alone. -/
theorem awake_frame (s : State) (k : Nat) : (s.awake k).pending = s.pending ∧ (s.awake k).variant = s.variant
    ∧ (s.awake k).mem = s.mem ∧ (s.awake k).ms = s.ms ∧ (s.awake k).cores = s.cores
    ∧ (∀ a, a ≠ pCLU (k / 16) + CLU.E_STAT + 4 * (k % 16) → (s.awake k).rd a = s.rd a) := by
  unfold State.awake
  split
  · unfold State.setEng
    split
    · exact ⟨rfl, rfl, rfl, rfl, rfl, fun _ _ => rfl⟩
    · refine ⟨by simp, by simp, by simp, by simp, by simp, fun a ha => rd_setFld_ne _ _ _ _ _ fun he => ha ?_⟩
      have h1 : (eCtrl k CLU.E_STAT.STATE).off = CLU.E_STAT + 4 * (k % 16) := rfl
      omega
  · exact ⟨rfl, rfl, rfl, rfl, rfl, fun _ _ => rfl⟩

/-- A core that is at an instruction is in RUN once it goes on. -/
theorem runs_state (s : State) (k : Nat) (h : s.atInstr k = true) : (s.awake k).coreState k = 1 := by
  by_cases h2 : s.coreState k = 2
  · exact awake_state s k h2
  · unfold State.awake
    rw [if_neg h2]
    unfold State.atInstr State.wakes at h
    simp [h2] at h
    exact h.1.1

/-- The state code of core `k` after counting in a cluster of the die. -/
theorem coreState_counted {h : Nat} (hh : h < 16) {s t : State} (p : Counted h s t) (k : Nat) (hk : k < 257) :
    t.coreState k = s.coreState k := by
  unfold State.coreState
  split
  · exact p.sup
  · rename_i hs
    have hk' : k < 256 := by have : k ≠ 256 := hs; omega
    have hr : t.rd (pCLU (k / 16) + (eCtrl k CLU.E_STAT.STATE).off) = s.rd (pCLU (k / 16) + (eCtrl k CLU.E_STAT.STATE).off) := by
      refine p.regs _ fun ⟨hlo, _⟩ => ?_
      have : (eCtrl k CLU.E_STAT.STATE).off < 0x1000 := by
        show CLU.E_STAT.STATE.off + 4 * (k % 16) < 0x1000
        have : CLU.E_STAT.STATE.off < 0xF00 := by decide
        omega
      have hp : pPERF h = 0x10070000 + 0x1000 * h := rfl
      have hq : pCLU (k / 16) = 0x10060000 + 0x1000 * (k / 16) := rfl
      omega
    unfold State.fld
    rw [hr]

/-- What one instruction of core `k` may touch before its own effect: `t` is `s` but for its counting and its state code. -/
structure Began (k : Nat) (s t : State) : Prop where
  pending : t.pending = s.pending
  variant : t.variant = s.variant
  mem : t.mem = s.mem
  ms : t.ms = s.ms
  state : t.coreState k = 1
  regs : regsSame s t (perfRegs s k)
  core : ∀ j, t.core j = s.core j ∨ t.core j = { s.core j with ipend := (s.core j).ipend ||| 0x20 }

/-- A core that runs goes on and its instruction is counted. -/
theorem began_of_counted (s t : State) (k : Nat) (hk : k < 257) (h : s.atInstr k = true)
    (hc : k < 256 → Counted (s.homeOf k) (s.awake k) t) (hs : k = supId → t = s.awake k) : Began k s t := by
  obtain ⟨a1, a2, a3, a4, a5, a6⟩ := awake_frame s k
  by_cases hs' : k = supId
  · have ht := hs hs'
    subst ht
    refine ⟨a1, a2, a3, a4, runs_state s k h, fun a _ => ?_, fun j => .inl (core_congr a5 j)⟩
    subst hs'
    unfold State.awake State.setEng
    simp only [if_true]
    split <;> rfl
  · have hk' : k < 256 := by have : k ≠ 256 := hs'; omega
    have p := hc hk'
    refine ⟨p.pending.trans a1, p.variant.trans a2, p.mem.trans a3, p.ms.trans a4, ?_, fun a ha => ?_, fun j => ?_⟩
    · rw [coreState_counted (homeOf_lt s k hk') p k hk, runs_state s k h]
    · have hn : ¬ inPage (pPERF (s.homeOf k)) a ∧ a ≠ pCLU (k / 16) + CLU.E_STAT + 4 * (k % 16) := by
        constructor
        · exact fun hp => ha ⟨hk', .inl hp⟩
        · exact fun hp => ha ⟨hk', .inr hp⟩
      rw [p.regs a hn.1, a6 a hn.2]
    · rw [← core_congr a5 j]
      exact p.core j

theorem homeOf_awake (s : State) (k : Nat) : (s.awake k).homeOf k = s.homeOf k := by
  have hr : (s.awake k).rd (pCLU (k / 16) + (eCtrl k CLU.E_CTRL.HOME).off) = s.rd (pCLU (k / 16) + (eCtrl k CLU.E_CTRL.HOME).off) := by
    refine (awake_frame s k).2.2.2.2.2 _ fun he => ?_
    have h1 : (eCtrl k CLU.E_CTRL.HOME).off = CLU.E_CTRL.HOME.off + 4 * (k % 16) := rfl
    have h2 : CLU.E_CTRL.HOME.off ≠ CLU.E_STAT := by decide
    omega
  have he : (eCtrl k CLU.E_CTRL.HOME_EN).off = (eCtrl k CLU.E_CTRL.HOME).off := rfl
  unfold State.homeOf State.bit State.fld
  dsimp only
  rw [he, hr]

theorem began_retired (s : State) (k : Nat) (vec : Bool) (hk : k < 257) (h : s.atInstr k = true) :
    Began k s ((s.awake k).retired k vec) := by
  refine began_of_counted s _ k hk h (fun hk' => ?_) (fun hs => ?_)
  · have := counted_retired (s.awake k) k vec hk'
    rwa [homeOf_awake s k] at this
  · subst hs; exact retired_sup _ vec

/-- Setting core `k` after its instruction began leaves what the instruction says. -/
theorem ranOnly_of_began {k : Nat} {s t : State} (p : Began k s t) (c : Core) (c' : Core)
    (hc : c' = { c with ipend := c'.ipend }) (hi : c'.ipend = (s.core k).ipend ∨ c'.ipend = (s.core k).ipend ||| 0x20) :
    ranOnly k s (t.setCore k c') c := by
  refine ⟨⟨?_, ?_, fun j hj => ?_, fun j => ?_⟩, fun a => ?_, fun a ha => ?_⟩
  · rw [core_setCore_self]; exact hc
  · rw [← p.state]
    unfold State.coreState
    split
    · simp
    · unfold State.fld; rw [rd_congr (setCore_regs ..)]
  · rw [core_setCore_ne _ _ _ _ hj]
    rcases p.core j with h | h <;> rw [h]
    · rfl
    · rfl
  · by_cases hj : j = k
    · subst hj; rw [core_setCore_self]; exact hi
    · rw [core_setCore_ne _ _ _ _ hj]
      rcases p.core j with h | h <;> rw [h]
      · exact .inl rfl
      · exact .inr rfl
  · exact byte_congr (by rw [setCore_mem, p.mem]) (by rw [setCore_ms, p.ms]) a
  · rw [rd_congr (setCore_regs ..)]; exact p.regs a ha

theorem same_but_ipend {c c' : Core} {i : Word} (h : c' = { c with ipend := i }) : c' = { c with ipend := c'.ipend } := by
  subst h; rfl

/-- An instruction that changes only its own core: on a core that runs it leaves its result, the PC four on, and nothing else but its
counting. `f` neither reads nor writes IPEND. -/
theorem coreOp_ran (k : Nat) (vec : Bool) (s : State) (f : Core → Core) (hk : k < 257) (h : s.runs k = true)
    (hf : ∀ c i, f { c with ipend := i } = { f c with ipend := i }) (hi : ∀ c, (f c).ipend = c.ipend) :
    ranOnly k s (coreOp k vec s f) ((f (s.core k)).past) := by
  have ha : s.atInstr k = true := by unfold State.runs at h; simp at h; exact h.1
  have p := began_retired s k vec hk ha
  unfold coreOp
  rw [if_pos h]
  refine ranOnly_of_began p _ _ ?_ ?_
  · have h' (i : Word) : (f { s.core k with ipend := i }).past = { (f (s.core k)).past with ipend := i } := by rw [hf]; rfl
    rcases p.core k with hc | hc <;> rw [hc]
    exact same_but_ipend (h' _)
  · rcases p.core k with hc | hc <;> rw [hc]
    · exact .inl (hi _)
    · exact .inr (hi _)

/-- A core that does not run does nothing. -/
theorem coreOp_idle (k : Nat) (vec : Bool) (s : State) (f : Core → Core) (h : s.runs k = false) : coreOp k vec s f = s := by
  unfold coreOp
  rw [if_neg (by simp [h])]

/-- A trap of a core whose entry is not a double trap: the entry of R239 at the trap vector, and its counting. -/
theorem trap_enters (s : State) (k code : Nat) (addr : Word) (h : k = supId ∨ (s.core k).tbusy = false) :
    s.trap k code addr = (s.perfInstr k 0x05 none 1).modCore k fun x =>
      { x.enter (entryLevel k) x.pc (BitVec.ofNat 32 code) with taddr := addr, pc := x.tbase, stalled := false } := by
  unfold State.trap
  rw [if_neg]
  rintro ⟨h1, h2⟩
  rcases h with h | h
  · exact h1 h
  · simp [h] at h2

/-- What a trap that enters leaves of the rest. -/
theorem trap_frame (s : State) (k code : Nat) (addr : Word) (hk : k < 257) (h : k = supId ∨ (s.core k).tbusy = false) :
    (s.trap k code addr).mem = s.mem ∧ (s.trap k code addr).ms = s.ms ∧ (s.trap k code addr).pending = s.pending
      ∧ sameBut ((s.trap k code addr).core k) (entered k (s.core k) (BitVec.ofNat 32 code) addr (s.core k).tbase) := by
  rw [trap_enters s k code addr h]
  have hc : (s.perfInstr k 0x05 none 1).mem = s.mem ∧ (s.perfInstr k 0x05 none 1).ms = s.ms
      ∧ (s.perfInstr k 0x05 none 1).pending = s.pending ∧ ((s.perfInstr k 0x05 none 1).core k = s.core k
        ∨ (s.perfInstr k 0x05 none 1).core k = { s.core k with ipend := (s.core k).ipend ||| 0x20 }) := by
    by_cases hs : k = supId
    · subst hs; rw [perfInstr_sup]; exact ⟨rfl, rfl, rfl, .inl rfl⟩
    · have p := counted_perfInstr s k 0x05 none 1 (by have : k ≠ 256 := hs; omega)
      exact ⟨p.mem, p.ms, p.pending, p.core k⟩
  refine ⟨by rw [modCore_mem, hc.1], by rw [modCore_ms, hc.2.1], by rw [modCore_pending, hc.2.2.1], ?_⟩
  rw [core_modCore_self]
  have hlev (x : Word) : (x &&& 0xF0) ||| 0x8 ||| entryLevel k = (x &&& 0xF0) ||| (if k = supId then 0xA else 0x9) := by
    unfold entryLevel
    rw [BitVec.or_assoc]
    split <;> rfl
  rcases hc.2.2.2 with hc | hc <;> rw [hc] <;> simp only [sameBut, entered, Core.enter, hlev]

end Sys2Proof.Laws
end

