-- ==== Sys2Proof/Tests/Slice0.lean ====
section
/-! SUPPORT. The model's own tests: ill-formed commands are refused by the check of well-formedness, single steps do what the spec's words
say, and for every statement with hypotheses a concrete state and operands meet them. -/

namespace Sys2Proof.Tests

open Sys2Proof Sys2Proof.Machine Sys2Proof.Safety Sys2Proof.Laws

set_option Elab.async false

/-! ## Well-formedness -/

theorem test_wf_engine : (Instr.registerWrite (.engine 15 15) 0xFFFFFFFF 0).wf = true ∧ (Instr.registerWrite (.engine 0 16) 0 0).wf = false
    ∧ (Instr.registerWrite (.engine 16 0) 0 0).wf = false := by decide +kernel

theorem test_wf_dma : (Instr.registerWrite (.clusterDma 15 3) 0 0).wf = true ∧ (Instr.registerWrite (.clusterDma 0 4) 0 0).wf = false := by
  decide +kernel

theorem test_wf_address : (Instr.registerWrite .spi 0x100000000 0).wf = false := by decide +kernel

theorem test_wf_page : (Instr.pageEnable .spi 9 7).wf = true ∧ (Instr.pageEnable .spi 9 8).wf = false ∧ (Instr.pageEnable .spi 0 1).wf = false := by
  decide +kernel

theorem test_wf_bits : (Instr.memoryRead .spi 0x40000000 [287]).wf = true ∧ (Instr.memoryRead .spi 0x40000000 [288]).wf = false := by
  decide +kernel

theorem test_wf_frame : (Instr.cascWr ⟨1, 255, 255, 15, 15, 0, 255, 255, List.replicate 256 0⟩ 0).wf = true
    ∧ (Instr.cascWr ⟨1, 255, 255, 15, 15, 0, 256, 255, []⟩ 0).wf = false
    ∧ (Instr.cascWr ⟨1, 0, 0, 0, 0, 0, 0, 0, List.replicate 257 0⟩ 0).wf = false := by decide +kernel

theorem test_wf_samples : (Instr.tapSnapshotDone 0 (List.replicate 4095 0)).wf = false := by decide +kernel

/-! ## States and checks for the witnesses -/

/-- A die on which every island is out of reset. -/
def up : State := { State.reset with upStage := 4 }

/-- A state with registers set. -/
def wrs (s : State) (l : List (Nat × Word)) : State := l.foldl (fun s e => s.wr e.1 e.2) s

/-- A state with fields set. -/
def put (s : State) (l : List (Nat × Fld × Nat)) : State := l.foldl (fun s e => s.setFld e.1 e.2.1 e.2.2) s

theorem idle_of {s : State} {r : Requester}
    (h : ((Tbl.find s.gathers (s.master r)).isNone && (decide (r ≠ .sup) || s.supHeld.isNone)) = true) : idleGather s r := by
  simp only [Bool.and_eq_true, Bool.or_eq_true, decide_eq_true_eq, Option.isNone_iff_eq_none] at h
  exact ⟨h.1, fun hr => h.2.resolve_left fun hn => hn hr⟩

/-- The conditions of `reaches`, as one check. -/
def reachesB (s : State) (r : Requester) (fam i off : Nat) (v : Word) : Bool :=
  ((Tbl.find s.gathers (s.master r)).isNone && (decide (r ≠ .sup) || s.supHeld.isNone)) && off % 4 == 0
    && s.region r (pageAt fam i + off) == .page fam i off && s.mayWrite (s.master r) fam off
    && match findRow fam off with
      | none => false
      | some row => row.acc != .ro && v &&& ~~~row.mask == 0 && (row.acc != .rwl || !s.bit (pageAt fam i) HDR.LOCK)
          && (row.acc != .wo || off == HDR.SNAP || s.fstate (pageAt fam i) != 2 || drainExempt fam off v)

theorem reaches_of {s : State} {r : Requester} {fam i off : Nat} {v : Word} (h : reachesB s r fam i off v = true) :
    reaches s r fam i off v := by
  unfold reachesB at h
  cases hr : findRow fam off with
  | none => simp [hr] at h
  | some row =>
    rw [hr] at h
    dsimp only at h
    simp only [Bool.and_eq_true, Bool.or_eq_true, bne_iff_ne, beq_iff_eq, ne_eq, Bool.not_eq_true'] at h
    obtain ⟨⟨⟨⟨h1, h2⟩, h3⟩, h4⟩, ⟨⟨⟨h5, h6⟩, h7⟩, h8⟩⟩ := h
    refine ⟨idle_of (by simpa using h1), h2, h3, h4, row, hr, h5, h6, fun ha => ?_, fun ha ho hf => ?_⟩
    · exact h7.resolve_left fun hn => hn ha
    · rcases h8 with ((h8 | h8) | h8) | h8
      · exact absurd ha h8
      · exact absurd h8 ho
      · exact absurd hf h8
      · exact h8

/-- The conditions of `readable`, as one check. -/
def readableB (s : State) (r : Requester) (a : Nat) : Bool :=
  ((Tbl.find s.gathers (s.master r)).isNone && (decide (r ≠ .sup) || s.supHeld.isNone)) && a % 4 == 0
    && match s.region r a with | .page _ _ _ => true | _ => false

theorem readable_of {s : State} {r : Requester} {a : Nat} (h : readableB s r a = true) : readable s r a := by
  unfold readableB at h
  simp only [Bool.and_eq_true, beq_iff_eq] at h
  obtain ⟨⟨h1, h2⟩, h3⟩ := h
  refine ⟨idle_of (by simpa using h1), h2, ?_⟩
  split at h3
  · rename_i fam i off hp; exact ⟨fam, i, off, hp⟩
  · cases h3

theorem settled_of {s : State} (h : (s.boot.bist.isNone && (List.range 16).all fun u => s.phase u == 0 && (s.calSt u).wait == 0
    && (s.calSt u).suspect == 0 && (s.calSt u).retireCmd.isEmpty) = true) : settled s := by
  simp only [Bool.and_eq_true, List.all_eq_true, List.mem_range, beq_iff_eq, Option.isNone_iff_eq_none, List.isEmpty_iff] at h
  exact ⟨h.1, fun u hu => ⟨(h.2 u hu).1.1.1, (h.2 u hu).1.1.2, (h.2 u hu).1.2, (h.2 u hu).2⟩⟩

theorem clean_of {s : State} {inst idx v : Nat} (h : (!s.uninit inst idx && !s.poisoned inst idx && Tbl.get 0 s.ms.flips (wordKey inst idx) == 0
    && s.number (devAddr inst idx) (wordLen inst) == some v) = true) : clean s inst idx v := by
  simp only [Bool.and_eq_true, Bool.not_eq_true', beq_iff_eq] at h
  exact ⟨h.1.1.1, h.1.1.2, h.1.2, h.2⟩

/-- A cell with its CRC. -/
def cell (type seq tag : Nat) (payload : BitVec 80) : Cell :=
  ⟨BitVec.ofNat 16 seq, BitVec.ofNat 8 tag, payload, BitVec.ofNat 16 (crc16 112 (cellBits type seq tag payload.toNat))⟩

theorem arrives_of {s : State} {n type : Nat} {c : Cell}
    (h : (s.aligned n && (s.partSt n).asm.done == some (some (cellWhole c type)) && crc16 112 (cellBits type c.seq.toNat c.tag.toNat c.payload.toNat) == c.crc.toNat
      && ((s.partSt n).first || (c.seq.toNat + 2 ^ 16 - (s.partSt n).rxSeq) % 2 ^ 16 == 1)) = true) : arrives s n type c := by
  simp only [Bool.and_eq_true, Bool.or_eq_true, beq_iff_eq] at h
  exact ⟨h.1.1.1, h.1.1.2, h.1.2, h.2⟩

/-- Partner channel `n` has just assembled the cell `c` of a type. -/
def has (s : State) (n type : Nat) (c : Cell) : State :=
  s.modPart n fun x => { x with asm := { x.asm with done := some (some (cellWhole c type)) } }

theorem new_of {s : State} {n type : Nat} {c : Cell}
    (h : (match (s.partSt n).last with | none => true | some x => !(x.1 == type && x.2.1 == c.tag.toNat)) = true) : newRequest s n type c := by
  intro t g y hl ⟨ht, hg⟩
  rw [hl] at h
  simp [ht, hg] at h

/-- A state with core `k` changed. -/
def core (s : State) (k : Nat) (f : Core → Core) : State := s.modCore k f

/-- The map lets every class write every family. -/
def free : State := wrs up ((List.range 35).map fun f => (pPROT + PROT.MAP + 4 * f, (0xFFF : Word)))

/-- REFCLK is present. -/
def lit : State := put up [(pCLK, CLK.CLK_STAT.REFCLK_OK, 1)]

/-- Engine 0 of CL0 in RUN. -/
def run0 : State := put up [(pCLU 0, eCtrl 0 CLU.E_STAT.STATE, 1)]

/-- A descriptor list at 0 of CL0's shared SRAM: a load of one word by immediate to offset 64. -/
def dmaList : State := ((up.writeWord 8 0 (2 ^ 31 + 4 * 2 ^ 24 + 2 ^ 20 + 8 * 2 ^ 32)).writeWord 8 1 (8 * 2 ^ 35)).modClu 0
  fun u => { u with dma := [(3, ⟨0, false, 0, false, false⟩)] }

/-- Counter 0 of CL0 counts, and owes a sample. -/
def perf0 : State := (put up [(pPERF 0, PERF.PF_CTRL.EN, 1), (pPERF 0, fldAt PERF.EVSEL.EN 0, 1), (pPERF 0, PERF.SMP_CTRL.EN, 1)]).modClu 0
  fun u => { u with due := [⟨0, 0, 0, 1, 1, 0⟩] }

/-- What holds after a command that answers a next state. -/
def after (r : Host.Outcome State Fault Refusal) (p : State → Bool) : Bool := match r with | .next t => p t | _ => false

theorem witness_StepRunsTheFrontCommand : State.reset.pending = [] := by decide +kernel

theorem witness_ScalarArithmeticCompletes :
    (run0.runs 0 = true)
    ∧ (up.runs supId = true) :=
  ⟨by decide +kernel,
   by decide +kernel⟩

theorem witness_LogicShiftAndPredicatesComplete :
    (run0.runs 0 = true)
    ∧ (up.runs supId = true) :=
  ⟨by decide +kernel,
   by decide +kernel⟩

theorem witness_VectorInstructionsComplete :
    (run0.runs 0 = true)
    ∧ (up.runs supId = true)
    ∧ ((core run0 0 (fun c => c.setV 1 fun _ => 15)).runs 0 = true)
    ∧ ((((core run0 0 (fun c => c.setV 1 fun _ => 15)).core 0).lane 1 7).toNat < 16) :=
  ⟨by decide +kernel,
   by decide +kernel,
   by decide +kernel,
   by decide +kernel⟩

theorem witness_AccumulatorInstructionsComplete :
    (run0.runs 0 = true)
    ∧ (up.runs supId = true) :=
  ⟨by decide +kernel,
   by decide +kernel⟩

theorem witness_JumpsComplete :
    ((run0.runs 0 = true)
      ∧ ((run0.core 0).pred 0 = false))
    ∧ ((((core run0 0 (fun c => c.setPred 3 true)).core 0).pred 3 = true)
      ∧ ((core run0 0 (fun c => c.setPred 3 true)).runs 0 = true))
    ∧ ((((run0.core 0).pc + BitVec.ofInt 32 (4 * (0xFFF : BitVec 24).toInt)).toNat = 0x3FFC)
      ∧ (((run0.core 0).gr 0 + BitVec.ofInt 32 (0x3FFC : BitVec 16).toInt).toNat = 0x3FFC))
    ∧ ((((run0.core 0).pc + BitVec.ofInt 32 (4 * (0x1000 : BitVec 24).toInt)).toNat = 0x4000)
      ∧ (((run0.core 0).gr 0 + BitVec.ofInt 32 (2 : BitVec 16).toInt).toNat % 4 ≠ 0))
    ∧ ((run0.core 0).tbusy = false) :=
  ⟨by decide +kernel,
   by decide +kernel,
   by decide +kernel,
   by decide +kernel,
   by decide +kernel⟩

theorem witness_ControlRegisterInstructionsComplete :
    ((run0.runs 0 = true)
      ∧ (up.runs supId = true))
    ∧ (((run0.core 0).level ≠ 0)
      ∧ ((up.core supId).level = 2))
    ∧ ((((run0.core 0).tbusy = false))
      ∧ ((core run0 0 (fun c => { c with sr := 0 })).runs 0 = true))
    ∧ ((((core run0 0 (fun c => { c with sr := 0 })).core 0).level = 0)
      ∧ (((core run0 0 (fun c => { c with sr := 0, taskPerm := 0x10 })).core 0).taskPerm.getLsbD 4 = true)) :=
  ⟨by decide +kernel,
   by decide +kernel,
   by decide +kernel,
   by decide +kernel⟩

theorem witness_TrapAndInterruptEntry :
    ((run0.runs 0 = true)
      ∧ ((run0.core 0).tbusy = false)
      ∧ (((core run0 0 (fun c => { c with sr := 0 })).core 0).level = 0))
    ∧ (((core run0 0 (fun c => { c with sr := 0 })).runs 0 = true)
      ∧ (run0.fld pLCS LCS.LCS_STAT.STATE = 0)
      ∧ ((put run0 [(pLCS, LCS.LCS_STAT.STATE, 2)]).fld pLCS LCS.LCS_STAT.STATE = 2))
    ∧ (((put run0 [(pLCS, LCS.LCS_STAT.STATE, 2)]).runs 0 = true)
      ∧ (((core run0 0 (fun c => { c with sr := 5, imask := 0x30, ipend := 0x30 })).core 0).ie = true)
      ∧ ((core run0 0 (fun c => { c with sr := 5, imask := 0x30, ipend := 0x30 })).runs 0 = true))
    ∧ ((((core run0 0 (fun c => { c with sr := 5, imask := 0x30, ipend := 0x30 })).pend 0 &&& 0x30).getLsbD 4 = true)
      ∧ ((run0.core 0).tpc.toNat < 0x4000)
      ∧ (encListed 0xF0000000 = false))
    ∧ (idleGather up .sup) :=
  ⟨by decide +kernel,
   by decide +kernel,
   by decide +kernel,
   by decide +kernel,
   idle_of (by decide +kernel)⟩

theorem witness_WaitTimerAndDoubleTrap :
    ((run0.runs 0 = true)
      ∧ (up.fld pPWR PWR.PWR_STAT.ARMED = 0))
    ∧ (((core run0 0 (fun c => { c with imask := 0x10, ipend := 0x10 })).pend 0 &&& 0x10 ≠ 0)
      ∧ ((run0.pend 0 ||| 0x20) &&& (run0.core 0).imask = 0))
    ∧ (((put up [(pCLU 0, eCtrl 0 CLU.E_STAT.STATE, 2)]).coreState 0 = 2)
      ∧ ((put up [(pCLU 0, eCtrl 0 CLU.E_STAT.STATE, 2)]).pend 0 &&& ((put up [(pCLU 0, eCtrl 0 CLU.E_STAT.STATE, 2)]).core 0).imask = 0))
    ∧ ((((core run0 0 (fun c => { c with sr := 9 })).core 0).tbusy = true)
      ∧ ((core run0 0 (fun c => { c with sr := 9 })).runs 0 = true))
    ∧ ((put (core run0 0 (fun c => { c with sr := 9 })) [(pCLU 0, CLU.CL_CTRL.AUTO_RETIRE, 0)]).bit (pCLU 0) CLU.CL_CTRL.AUTO_RETIRE = false) :=
  ⟨by decide +kernel,
   by decide +kernel,
   by decide +kernel,
   by decide +kernel,
   by decide +kernel⟩

theorem witness_EngineStatesAndOwnership :
    (reaches up .sup 16 0 CLU.E_CTRL (up.rd (pCLU 0 + CLU.E_CTRL) &&& ~~~0x10 &&& ~~~1))
    ∧ (up.coreState 0 = 0)
    ∧ (up.enabled (pCLU 0) = true)
    ∧ (reaches run0 .sup 16 0 CLU.E_CTRL (run0.rd (pCLU 0 + CLU.E_CTRL) &&& ~~~0x10 ||| 1))
    ∧ (run0.coreState 0 = 1)
    ∧ (reaches (put up [(pCLU 15, eCtrl 255 CLU.E_STAT.STATE, 3)]) .spi 16 15 (CLU.E_CTRL + 60) 1)
    ∧ ((put up [(pCLU 15, eCtrl 255 CLU.E_STAT.STATE, 3)]).coreState 255 = 3)
    ∧ (reaches up .sup 16 0 CLU.E_CTRL (up.rd (pCLU 0 + CLU.E_CTRL) &&& ~~~0x10 ||| 0x10))
    ∧ ((put up [(pCLU 0, eCtrl 0 CLU.E_STAT.STATE, 5)]).coreState 0 = 5)
    ∧ ((put up [(pCLU 0, eCtrl 0 CLU.E_STAT.STATE, 5)]).drained 0 = true)
    ∧ ((put up [(pCLU 0, eCtrl 0 CLU.E_STAT.STATE, 5)]).held 0 = true)
    ∧ ((put up [(pCLU 0, eCtrl 0 CLU.E_STAT.STATE, 5), (pCLU 0, eCtrl 0 CLU.E_CTRL.HOLD, 0)]).held 0 = false)
    ∧ ((put run0 [(pCLU 0, CLU.CL_CTRL.WD_EN, 1), (pCLU 0, CLU.CL_CTRL.AUTO_RETIRE, 0)]).bit (pCLU 0) CLU.CL_CTRL.WD_EN = true)
    ∧ (reaches up .sup 16 0 CLU.CP_OWN 0x10F)
    ∧ ((targetPage 0 0).isSome = true)
    ∧ (up.cpOwner 0 0 = none)
    ∧ (getBits (0x10F : Word) 4 4 = 0)
    ∧ ((up.modClu 0 (fun u => { u with holdRun := [0] })).clu 0 = { up.clu 0 with holdRun := [0] }) :=
  ⟨reaches_of (by decide +kernel),
   by decide +kernel,
   by decide +kernel,
   reaches_of (by decide +kernel),
   by decide +kernel,
   reaches_of (by decide +kernel),
   by decide +kernel,
   reaches_of (by decide +kernel),
   by decide +kernel,
   by decide +kernel,
   by decide +kernel,
   by decide +kernel,
   by decide +kernel,
   reaches_of (by decide +kernel),
   by decide +kernel,
   by decide +kernel,
   by decide +kernel,
   by decide +kernel⟩

theorem witness_MailboxesDeliverInOrder :
    ((run0.core 0).mbox.length < 8)
    ∧ (8 ≤ ((core run0 0 (fun c => { c with mbox := List.replicate 8 0 })).core 0).mbox.length)
    ∧ ((run0.clu 0).supMb.length < 16)
    ∧ (16 ≤ ((up.modClu 0 (fun u => { u with supMb := List.replicate 16 0 })).clu 0).supMb.length)
    ∧ (reaches up .sup 16 0 CLU.MB_W1 0)
    ∧ (readable up .spi (pCLU 15 + CLU.SUP_MB_HI)) :=
  ⟨by decide +kernel,
   by decide +kernel,
   by decide +kernel,
   by decide +kernel,
   reaches_of (by decide +kernel),
   readable_of (by decide +kernel)⟩

theorem witness_DmaChannelsRunDescriptors :
    (Tbl.find (up.clu 0).dma 3 = none)
    ∧ (Tbl.find ((up.modClu 0 (fun u => { u with dma := [(3, ⟨0, false, 0, false, true⟩)] })).clu 0).dma 3 = some ⟨0, false, 0, false, true⟩)
    ∧ (Tbl.find ((up.modClu 0 (fun u => { u with dma := [(3, ⟨0, false, 0, false, false⟩)] })).clu 0).dma 3 = some ⟨0, false, 0, false, false⟩)
    ∧ (readable up .sup (pCLU 15 + CLU.DMA_STAT + 12))
    ∧ ((clean (up.modClu 0 (fun u => { u with dma := [(3, ⟨0, false, 0x3FFE0, false, false⟩)] })) 8 (0x3FFE0 / 8 + 3) 0))
    ∧ (0x3FFE0 % 32 = 0 ∧ 0x3FFE0 < 0x40000)
    ∧ (clean (dmaList) 8 0 (2 ^ 31 + 4 * 2 ^ 24 + 2 ^ 20 + 8 * 2 ^ 32))
    ∧ (clean (dmaList) 8 1 (8 * 2 ^ 35)) :=
  ⟨by decide +kernel,
   by decide +kernel,
   by decide +kernel,
   readable_of (by decide +kernel),
   (clean_of (by decide +kernel)),
   by decide +kernel,
   clean_of (by decide +kernel),
   clean_of (by decide +kernel)⟩

/-- Cluster 0 takes a snapshot whose reference instant was commit point 9, with the samples come so far. -/
def tapped (ctrl : Nat) (l : List (BitVec 32)) : State := up.modClu 0 (fun u => { u with tapStat := 0x40000000, tapRun := ⟨ctrl, some 9, 0, l⟩ })

theorem witness_TapAndCoefficientPort :
    (((up.clu 0).tapStat.getLsbD 30 = false ∧ (up.clu 0).tapCtrl.toNat % 8 < 6)
      ∧ (tapPage 0 0 = some (pLRX 0))
      ∧ ((put up [(pLRX 0, LRX.LN_STAT.STATE, 1)]).rxRuns (pLRX 0) = true))
    ∧ ((up.brownOut = false)
      ∧ (((tapped 0 [0]).clu 0).tapStat.getLsbD 30 = true ∧ ((tapped 0 [0]).clu 0).tapRun.ref = some 9)
      ∧ (let run := ((tapped 0 (List.replicate 4096 7)).clu 0).tapRun; run.ctrl / 2 ^ 20 + 4095 * (run.ctrl / 256 % 256 + 1) < run.words.length))
    ∧ ((let run := ((tapped 5 (List.replicate 2048 7)).clu 0).tapRun; run.ctrl % 8 = 5 ∧ run.ctrl / 2 ^ 20 + 2047 * (run.ctrl / 256 % 256 + 1) < run.words.length)
      ∧ (targetPage (up.homeOf 0) 0 = some (pLRX 0))
      ∧ (up.replica 0 = false))
    ∧ (((0x7F : Nat) ≤ commitMask (pLRX 0) ∧ commitMask (pLRX 0) < (0x80 : Word).toNat)
      ∧ ((wrs up [(pCLU 0 + CLU.CP_OWN, 0x100)]).cpOwner 0 0 = some 0)
      ∧ (up.cpOwner 0 0 ≠ some 0 ∧ (up.core 0).tbusy = false))
    ∧ (targetPage (up.homeOf 0) 7 = none) :=
  ⟨by decide +kernel,
   by decide +kernel,
   by decide +kernel,
   by decide +kernel,
   by decide +kernel⟩

theorem witness_PerformanceCountersAndSamples :
    (perf0.bit (pPERF 0) PERF.PF_CTRL.EN = true ∧ perf0.bit (pPERF 0) PERF.PF_CTRL.FREEZE = false ∧ perf0.enabled (pPERF 0) = true)
    ∧ (perf0.bit (pPERF 0) (fldAt PERF.EVSEL.EN 0) = true)
    ∧ ((perf0.clu 0).due = [⟨0, 0, 0, 1, 1, 0⟩] ∧ perf0.sampling 0 = true ∧ perf0.fld (pPERF 0) PERF.SMP_STAT.NEXT < 1023)
    ∧ (reaches up .sup 17 15 PERF.PF_STAT 0x1FF) :=
  ⟨by decide +kernel,
   by decide +kernel,
   by decide +kernel,
   reaches_of (by decide +kernel)⟩

/-- An engine that runs, an address in g1. -/
def runAt (a : Word) : State := core run0 0 (fun c => (c.setG 1 a).setG 2 0x12345678)

/-- The supervisor's address in g1. -/
def supAt (a : Word) : State := core up supId (fun c => c.setG 1 a)

theorem witness_EngineLoadsReadTheirMemories :
    ((runAt 0x13FFF).runs 0 = true)
    ∧ (engMay (runAt 0x13FFF) 0 0x13FFF 1)
    ∧ (engWord (runAt 0x13FFF) 0 0x13FFF = some (10, 0x7FF, 7))
    ∧ (clean (runAt 0x13FFF) 10 0x7FF 0)
    ∧ (engMay (runAt 0x5FFF8) 0 0x5FFF8 8)
    ∧ (engWord (runAt 0x5FFF8) 0 0x5FFF8 = some (8, 0x7FFF, 0))
    ∧ (clean (runAt 0x5FFF8) 8 0x7FFF 0)
    ∧ (((runAt 0x60000).core 0).tbusy = false ∧ eSpace 0x60000 = .none)
    ∧ (eSpace 0x3FFC = .iram)
    ∧ (∀ j, j < 8 → ∃ inst idx o v, (∃ q, eSpace ((0x1001C + 2 ^ 32 - 4 * j) % 2 ^ 32) = .ram q) ∧ engWord (runAt 0x1001C) 0 ((0x1001C + 2 ^ 32 - 4 * j) % 2 ^ 32) = some (inst, idx, o) ∧ clean (runAt 0x1001C) inst idx v ∧ (0 : Nat) = v / 2 ^ (8 * o) % 2 ^ 16) :=
  ⟨by decide +kernel,
   (⟨by decide, 0x3FFF, Or.inl (by decide)⟩),
   by decide +kernel,
   clean_of (by decide +kernel),
   (⟨by decide, 0x3FFF8, Or.inr ⟨by decide, by decide +kernel, Or.inl (by decide +kernel)⟩⟩),
   by decide +kernel,
   clean_of (by decide +kernel),
   by decide +kernel,
   by decide +kernel,
   (fun j hj => ⟨10, (0x1C - 4 * j) / 8, (0x1C - 4 * j) % 8, 0, by
     interval_cases j <;> exact ⟨⟨_, rfl⟩, by decide +kernel, clean_of (by decide +kernel), by decide⟩⟩)⟩

theorem witness_EngineStoresWriteTheirBytes :
    ((runAt 0x13FFC).runs 0 = true)
    ∧ (engWord (runAt 0x13FFC) 0 0x13FFC = some (10, 0x7FF, 4))
    ∧ (∃ q, eSpace 0x13FFC = .ram q)
    ∧ (clean (runAt 0x13FFC) 10 0x7FF 0)
    ∧ (engMay (runAt 0x5FFF0) 0 0x5FFF0 16)
    ∧ (engWord (runAt 0x5FFF0) 0 0x5FFF0 = some (8, 0x7FFE, 0))
    ∧ (∀ j, j < 2 → (runAt 0x5FFF0).poisoned 8 (0x7FFE + j) = false)
    ∧ (((runAt 0x5FFF0).core 0).tbusy = false)
    ∧ (∃ o, eSpace 0x20000 = .sram o) :=
  ⟨by decide +kernel,
   by decide +kernel,
   (⟨_, rfl⟩),
   clean_of (by decide +kernel),
   (⟨by decide, 0x3FFF0, Or.inr ⟨by decide, by decide +kernel, Or.inl (by decide +kernel)⟩⟩),
   by decide +kernel,
   by decide +kernel,
   by decide +kernel,
   (⟨_, rfl⟩)⟩

theorem witness_AtomicsAndSupervisorAccessesComplete :
    ((runAt 0x20008).runs 0 = true)
    ∧ (engMay (runAt 0x20008) 0 0x20008 8)
    ∧ (engWord (runAt 0x20008) 0 0x20008 = some (8, 1, 0))
    ∧ (clean (runAt 0x20008) 8 1 0)
    ∧ ((supAt 0x0807FFFC).runs supId = true)
    ∧ (((supAt 0x0807FFFC).core supId).level = 2)
    ∧ (idleGather (supAt 0x0807FFFC) .sup)
    ∧ ((supAt 0x0807FFFC).region .sup 0x0807FFFC = .mem 4 0x3FFF)
    ∧ (clean (supAt 0x0807FFFC) 4 0x3FFF 0)
    ∧ ((supAt 0x0807FFFC).mapAllows 2 32 = true)
    ∧ (idleGather up .spi)
    ∧ (up.pwr.hold = false ∧ up.windowUp 15 = true)
    ∧ ((wrs up [(pPROT + PROT.MAP + 4 * 33, 0xFFF)]).mapAllows (up.master .spi) 33 = true)
    ∧ (up.fld pCAP CAP.CP_STAT.STATE = 0) :=
  ⟨by decide +kernel,
   (⟨by decide, 8, Or.inr ⟨by decide, by decide +kernel, Or.inl (by decide +kernel)⟩⟩),
   by decide +kernel,
   clean_of (by decide +kernel),
   by decide +kernel,
   by decide +kernel,
   idle_of (by decide +kernel),
   by decide +kernel,
   clean_of (by decide +kernel),
   by decide +kernel,
   idle_of (by decide +kernel),
   by decide +kernel,
   by decide +kernel,
   by decide +kernel⟩

theorem witness_MemoryReadsDeliverAndCorrect :
    (idleGather up .sup)
    ∧ (up.region .sup 0x08000004 = .mem 1 0)
    ∧ (clean up 1 0 0)
    ∧ (idleGather { up with ms := { up.ms with poison := [(0, wordKey 1 0)] } } .spi)
    ∧ ({ up with ms := { up.ms with poison := [(0, wordKey 1 0)] } }.poisoned 1 0 = true)
    ∧ (up.spi.inFrame = false) :=
  ⟨idle_of (by decide +kernel),
   by decide +kernel,
   clean_of (by decide +kernel),
   idle_of (by decide +kernel),
   by decide +kernel,
   by decide +kernel⟩

theorem witness_MemoryWritesAreWholeOrNarrow :
    (idleGather up .part)
    ∧ (up.region .part 0x0807FFF8 = .mem 4 0x3FFF)
    ∧ (idleGather up .sup)
    ∧ (up.region .sup 0x0807FFF8 = .mem 4 0x3FFF)
    ∧ (up.mapAllows (up.master .sup) (memFam 4) = true)
    ∧ (up.windowTakes 4 0x3FFF = true)
    ∧ (up.fld pCAP CAP.CP_STAT.STATE = 0)
    ∧ (Tbl.find { up with gathers := [(0, ⟨0x08000000, 0, [1, 2]⟩)] }.gathers (up.master .spi) = some ⟨0x08000000, 0, [1, 2]⟩) :=
  ⟨idle_of (by decide +kernel),
   by decide +kernel,
   idle_of (by decide +kernel),
   by decide +kernel,
   by decide +kernel,
   by decide +kernel,
   by decide +kernel,
   by decide +kernel⟩

theorem witness_ScrubbingRepairAndBuckets :
    ((put up [(pSCRB, SCRB.SC_CTRL.D_EN, 1), (pSCRB, SCRB.SC_CTRL.S_EN, 1)]).scrubbing = true)
    ∧ ((put up [(pSCRB, SCRB.SC_CTRL.D_EN, 1)]).bit pSCRB SCRB.SC_CTRL.D_EN = true)
    ∧ (up.uninit 0 0 = true)
    ∧ ((put up [(pSCRB, SCRB.SC_CTRL.S_EN, 1)]).bit pSCRB SCRB.SC_CTRL.S_EN = true)
    ∧ (up.hasInst 4 = true ∧ up.hasInst 55 = true)
    ∧ (clean up 55 32767 0)
    ∧ (Tbl.find { up with ms := { up.ms with suspects := [(63, ⟨wordKey 4 0, 0, 0, 0⟩)] } }.ms.suspects 63 = some ⟨wordKey 4 0, 0, 0, 0⟩)
    ∧ (clean { up with ms := { up.ms with suspects := [(63, ⟨wordKey 4 0, 0, 0, 0⟩)] } } (wordKey 4 0 / 2 ^ 26) (wordKey 4 0 % 2 ^ 26) 0)
    ∧ (∀ w ∈ rowWords 4 0, up.uninit 4 w = true ∨ up.poisoned 4 w = true ∨ ∃ v, clean up 4 w v) :=
  ⟨by decide +kernel,
   by decide +kernel,
   by decide +kernel,
   by decide +kernel,
   by decide +kernel,
   clean_of (by decide +kernel),
   by decide +kernel,
   clean_of (by decide +kernel),
   (fun w hw => Or.inr (Or.inr ⟨0, clean_of
  (by have h : ∀ w ∈ rowWords 4 0, (!up.uninit 4 w && !up.poisoned 4 w && Tbl.get 0 up.ms.flips (wordKey 4 w) == 0
  && up.number (devAddr 4 w) (wordLen 4) == some 0) = true := by decide +kernel
      exact h w hw)⟩))⟩

/-- A fill of 64 bytes at the start of DRAM is asked for, and runs. -/
def fillAsk : State := wrs up [(pDRAM + DRAM.FILL_BASE, 0x40000000), (pDRAM + DRAM.FILL_LEN, 64)]
def fillRun : State :=
  put { up with ms := { up.ms with fillBase := 0x40000000, fillNext := 0x40000000, fillEnd := 0x40200000, fillPat := 5 } } [(pDRAM, DRAM.DR_STAT.FILL_BUSY, 1)]

theorem witness_BulkFillWritesItsPattern :
    (reaches fillAsk .sup 22 0 DRAM.FILL_CMD 0x1)
    ∧ (fillAsk.fld pCAP CAP.CP_STAT.STATE = 0)
    ∧ (fillAsk.enabled pDRAM = true ∧ fillAsk.filling = false)
    ∧ (0x40000000 + 64 ≤ 0x40000000 + fillAsk.dramSize)
    ∧ ((fillAsk.rd (pDRAM + DRAM.FILL_BASE)).toNat = 0x40000000 ∧ (fillAsk.rd (pDRAM + DRAM.FILL_LEN)).toNat = 64)
    ∧ (reaches (wrs fillAsk [(pDRAM + DRAM.FILL_BASE, 0x40000004)]) .sup 22 0 DRAM.FILL_CMD 0x1)
    ∧ (reaches fillRun .sup 22 0 DRAM.FILL_CMD 0x1)
    ∧ (reaches (wrs fillRun [(pPROT + PROT.MAP + 4 * 22, 0xFFF)]) .spi 22 0 DRAM.FILL_CMD 0x2)
    ∧ (fillRun.filling = true)
    ∧ ((fillRun.ms.fillNext / 0x100000 + 1) * 0x100000 < fillRun.ms.fillEnd)
    ∧ (fillRun.ms.fillNext + 32 * 32768 ≤ fillRun.ms.fillEnd ∧ fillRun.ms.fillEnd ≤ 0xC0000000) :=
  ⟨reaches_of (by decide +kernel),
   by decide +kernel,
   by decide +kernel,
   by decide +kernel,
   by decide +kernel,
   reaches_of (by decide +kernel),
   reaches_of (by decide +kernel),
   reaches_of (by decide +kernel),
   by decide +kernel,
   by decide +kernel,
   by decide +kernel⟩

theorem witness_InitAndTestPort :
    (2047 < up.granules)
    ∧ (reaches up .sup 22 0 DRAM.INIT_CMD (BitVec.ofNat 32 (0x10000 + 2047)))
    ∧ (reaches up .sup 22 0 DRAM.INIT_CMD (BitVec.ofNat 32 (0x20000 + 2047)))
    ∧ (reaches up .sup 22 0 DRAM.RPR_CMD (BitVec.ofNat 32 (0x80000000 + 7 * 2 ^ 26 + 15 * 2 ^ 22 + 8191)))
    ∧ (up.rowSpared 0 (8192 * 8191 + 512 * 15 + 7) = false ∧ up.freeSpare 0 (8192 * 8191 + 512 * 15 + 7) = some (512 * 7 + 32 * 15))
    ∧ ((put up [(pMEM, MEM.TEST_CTRL.EN, 1), (pMEM, MEM.TEST_CTRL.INSTANCE, 4)]).bit pMEM MEM.TEST_CTRL.EN = true)
    ∧ ((put up [(pMEM, MEM.TEST_CTRL.EN, 1), (pMEM, MEM.TEST_CTRL.INSTANCE, 4)]).fld pMEM MEM.TEST_CTRL.INSTANCE = 4)
    ∧ (up.hasInst 4 = true ∧ 16383 < up.instWords 4)
    ∧ (clean (put (wrs up [(pMEM + MEM.TEST_ADDR, 16383), (pMEM + MEM.TEST_DATA, 1)]) [(pMEM, MEM.TEST_CTRL.EN, 1), (pMEM, MEM.TEST_CTRL.INSTANCE, 4)]) 4 16383 0)
    ∧ ((reaches (put (wrs up [(pMEM + MEM.TEST_DATA, 1)]) [(pMEM, MEM.TEST_CTRL.EN, 1), (pMEM, MEM.TEST_CTRL.INSTANCE, 4)]) .sup 21 0 MEM.TEST_CMD 0x1))
    ∧ ((reaches (put up [(pMEM, MEM.TEST_CTRL.EN, 1), (pMEM, MEM.TEST_CTRL.INSTANCE, 4)]) .sup 21 0 MEM.TEST_CMD 0x2))
    ∧ (∀ n, n < 256 → (up.wr (pMEM + MEM.TEST_CHECK) (BitVec.ofNat 32 n)).rd (pMEM + MEM.TEST_CHECK) = BitVec.ofNat 32 n) :=
  ⟨by decide +kernel,
   reaches_of (by decide +kernel),
   reaches_of (by decide +kernel),
   reaches_of (by decide +kernel),
   by decide +kernel,
   by decide +kernel,
   by decide +kernel,
   by decide +kernel,
   clean_of (by decide +kernel),
   (reaches_of (by decide +kernel)),
   (reaches_of (by decide +kernel)),
   (fun n _ => rd_wr_self _ _ _)⟩

/-- The MDIO window with something in it. -/
def mdioAt (s : State) (a : Nat) (busy : Bool) (pend : Option (Word × Option Word)) : State :=
  { s with mdio := { s.mdio with regAddr := a, busy := busy, pend := pend } }

theorem witness_RegisterWritesLandOrAreRefused :
    (idleGather up .spi ∧ up.spi.inFrame = false)
    ∧ (reaches up .sup 9 7 HDR.EVT_MASK 1)
    ∧ (((0x10000004 : Nat) % 4 = 0 ∧ up.region .sup (pSUP + 0xFFC) = .page 0 0 0xFFC ∧ up.mayWrite (up.master .sup) 0 0xFFC = true ∧ findRow 0 0xFFC = none)
      ∧ (up.region .sup pLCS = .page 4 0 0 ∧ up.mayWrite (up.master .sup) 4 0 = true ∧ ((findRow 4 0).map fun row => row.acc) = some .ro))
    ∧ (((wrs up [(pPROT + PROT.MAP + 4 * 9, 0x4)]).region .spi (pageAt 9 7 + HDR.EVT_MASK) = .page 9 7 HDR.EVT_MASK)
      ∧ ((wrs up [(pPROT + PROT.MAP + 4 * 9, 0x4)]).mayWrite (up.master .spi) 9 HDR.EVT_MASK = false))
    ∧ ((up.region .spi 0x10FFFFFC = .none ∧ up.region .spi 0x80000000 = .mem 0 0x2000000)
      ∧ (up.region .spi 0xFFFFFFFC = .none))
    ∧ ((free.mayWrite (up.master .spi) 9 HDR.EVT_MASK = true ∧ up.region .spi (pageAt 9 7 + HDR.EVT_MASK) = .page 9 7 HDR.EVT_MASK)
      ∧ (((findRow 9 8).map fun row => (row.acc, (0xFFFFFFFF : Word) &&& ~~~row.mask != 0)) = some (.rw, true)))
    ∧ ((((findRow 21 128).map fun row => row.acc) = some .rwl)
      ∧ ((put free [(pMEM, HDR.LOCK, 1)]).bit (pageAt 21 0) HDR.LOCK = true ∧ (put free [(pMEM, HDR.LOCK, 1)]).region .spi (pageAt 21 0 + 128) = .page 21 0 128 ∧ (put free [(pMEM, HDR.LOCK, 1)]).mayWrite (free.master .spi) 21 128 = true)) :=
  ⟨(⟨idle_of (by decide +kernel), by decide +kernel⟩),
   reaches_of (by decide +kernel),
   by decide +kernel,
   by decide +kernel,
   by decide +kernel,
   by decide +kernel,
   by decide +kernel⟩

theorem witness_SpiLeadingStatusByte :
    (up.spi.inFrame = false)
    ∧ (∀ c, up.spi.prevErr = some c → c < 16)
    ∧ (∀ c, { up with spi := { up.spi with prevErr := some 15 } }.spi.prevErr = some c → c < 16)
    ∧ ((up.spiOpen).spi.inFrame = true ∧ Tbl.find up.spiOpen.gathers (up.master .spi) = none)
    ∧ (Tbl.find { up.spiOpen with gathers := [(0, ⟨0x08000000, 0, [1]⟩)] }.gathers (up.spiOpen.master .spi) = some ⟨0x08000000, 0, [1]⟩) :=
  ⟨by decide +kernel,
   (fun c hc => by cases hc),
   (fun c hc => by cases hc; decide),
   by decide +kernel,
   by decide +kernel⟩

theorem witness_SpiFramesCarryWordsUntilOneFails :
    (free.spi.inFrame = false)
    ∧ (idleGather free.spiOpen .spi)
    ∧ (reaches free.spiOpen .spi 9 7 HDR.EVT_MASK 1)
    ∧ (reaches free.spiOpen .spi 9 7 HDR.EVT_MASK 0)
    ∧ (free.spiOpen.region .spi (pageAt 9 7 + HDR.EVT_RAW) = .page 9 7 HDR.EVT_RAW)
    ∧ (free.spiOpen.region .spi (pageAt 9 7 + HDR.EVT_MASK) = .page 9 7 HDR.EVT_MASK)
    ∧ (pageAt 9 7 % 4 = 0 ∧ pageAt 9 7 + HDR.EVT_MASK < 2 ^ 32)
    ∧ (free.spiOpen.region .spi (0xFFFFFFFC : Word).toNat = .none) :=
  ⟨by decide +kernel,
   idle_of (by decide +kernel),
   reaches_of (by decide +kernel),
   reaches_of (by decide +kernel),
   by decide +kernel,
   by decide +kernel,
   by decide +kernel,
   by decide +kernel⟩

theorem witness_MdioWindowAndTimeouts :
    ((31 : Nat) ≠ up.boot.prtad)
    ∧ ((⟨up.boot.prtad, by decide +kernel⟩ : Fin 32).val = up.boot.prtad)
    ∧ (idleGather up .mdio ∧ up.mdio.busy = false)
    ∧ ((mdioAt up 5 true none).mdio.regAddr = 5 ∧ (mdioAt up 5 true none).mdio.busy = true)
    ∧ (∀ c, up.mdio.err = some c → c < 16)
    ∧ ((mdioAt up 3 true (some (BitVec.ofNat 32 (pLRX 7 + HDR.EVT_MASK), none))).region .mdio (pLRX 7 + HDR.EVT_MASK) = .page 9 7 HDR.EVT_MASK)
    ∧ ((BitVec.ofNat 32 (pLRX 7 + HDR.EVT_MASK) : Word).toNat = pageAt 9 7 + HDR.EVT_MASK)
    ∧ (idleGather (mdioAt up 3 true (some (BitVec.ofNat 32 (pLRX 7 + HDR.EVT_MASK), none))) .mdio)
    ∧ (reaches (mdioAt free 3 true (some (BitVec.ofNat 32 (pLRX 7 + HDR.EVT_MASK), some 1))) .mdio 9 7 HDR.EVT_MASK 1)
    ∧ ((mdioAt up 3 true (some (0xFFFFFFFC, none))).region .mdio (0xFFFFFFFC : Word).toNat = .none)
    ∧ (up.casc.fwds = [] ∧ up.spi.inFrame = false) :=
  ⟨by decide +kernel,
   by decide +kernel,
   (⟨idle_of (by decide +kernel), by decide +kernel⟩),
   by decide +kernel,
   (fun c hc => by cases hc),
   by decide +kernel,
   by decide +kernel,
   idle_of (by decide +kernel),
   reaches_of (by decide +kernel),
   by decide +kernel,
   by decide +kernel⟩

/-- A page drains. -/
def drains (s : State) (b : Nat) : State := put s [(b, HDR.FSTATE, 2)]

theorem witness_PageHeaderEnableDrainLockAndClear :
    (reaches up .sup 9 7 HDR.EVT_RAW 0x1)
    ∧ (settled up)
    ∧ (up.fstate (pageAt 9 7) = 1 ∧ up.bit (pageAt 9 7) HDR.ENABLE = true)
    ∧ (reaches up .sup 9 7 HDR.PAGE_CTRL (up.pageCtrl (pageAt 9 7) true true))
    ∧ (reaches up .sup 6 0 HDR.PAGE_CTRL 2)
    ∧ (fixedPage 6 = true)
    ∧ (up.fstate (pPERF 15) = 1)
    ∧ (reaches up .sup 17 15 HDR.PAGE_CTRL 0)
    ∧ ((put up [(pPERF 15, HDR.FSTATE, 0)]).fstate (pPERF 15) = 0)
    ∧ (reaches (put up [(pPERF 15, HDR.FSTATE, 0)]) .sup 17 15 HDR.PAGE_CTRL ((put up [(pPERF 15, HDR.FSTATE, 0)]).pageCtrl (pPERF 15) true false))
    ∧ ((drains up (pPERF 15)).fstate (pPERF 15) = 2 ∧ ((drains up (pPERF 15)).clu 15).due = [])
    ∧ (reaches (drains up (pPERF 15)) .sup 17 15 HDR.PAGE_CTRL ((drains up (pPERF 15)).pageCtrl (pPERF 15) true false))
    ∧ (reaches up .sup 10 7 HDR.SNAP 0)
    ∧ (reaches up .sup 4 0 HDR.SNAP 0)
    ∧ ((put up [(pIFEC 7, IFEC.IF_STAT.SNAP_PEND, 1)]).bit (pIFEC 7) IFEC.IF_STAT.SNAP_PEND = true ∧ up.fld (pLRX 7) LRX.LN_STAT.STATE = 0)
    ∧ ((put up [(pOFEC 7, OFEC.OF_STAT.SNAP_PEND, 1)]).bit (pOFEC 7) OFEC.OF_STAT.SNAP_PEND = true ∧ (up.portSt 7).run = false) :=
  ⟨reaches_of (by decide +kernel),
   settled_of (by decide +kernel),
   by decide +kernel,
   reaches_of (by decide +kernel),
   (reaches_of (by decide +kernel)),
   by decide +kernel,
   by decide +kernel,
   reaches_of (by decide +kernel),
   by decide +kernel,
   reaches_of (by decide +kernel),
   by decide +kernel,
   reaches_of (by decide +kernel),
   reaches_of (by decide +kernel),
   reaches_of (by decide +kernel),
   by decide +kernel,
   by decide +kernel⟩

/-- An occurrence of event 5. -/
def occ (tick : Nat) : Occ := ⟨tick, 1, 0, false, 5, 0, 0, 0, none⟩
def logged : State := { up with tick := 5000, log := { up.log with hold := [occ 9, occ 4, occ 7] } }
/-- The ring is open at the end of DRAM. -/
def ring (s : State) : State := { put (wrs s [(pEVT + EVT.LOG_BASE, 0xBC000000)]) [(pEVT, EVT.EV_CTRL.LOG_EN, 1)] with log := { s.log with base := 0xBC000000 } }
/-- The ring at the end of DRAM is initialised. -/
def ringInit : State := wrs up ((pEVT + EVT.LOG_BASE, (0xBC000000 : Word)) :: ((List.range 64).map fun g => (pDRAM + DRAM.INIT_MAP + 4 * g, (0xFFFFFFFF : Word))))

theorem witness_EventLogKeepsItsRecords :
    ((logged.log.hold = [occ 9] ++ occ 4 :: [occ 7] ∧ logged.log.lostSince = 0 ∧ logged.logEn = false ∧ logged.log.staging.length < 128)
      ∧ (∀ x ∈ [occ 9] ++ [occ 7], (occ 4).tick < x.tick))
    ∧ (((occ 4).tick + 2500 ≤ logged.tick ∧ ¬ (logged.logEn = true ∧ logged.noon = true ∧ logged.log.staging ≠ []))
      ∧ (128 ≤ ({ logged.log with staging := List.replicate 128 [] }).staging.length))
    ∧ (((ring logged).logEn = true ∧ (ring logged).noon = true ∧ (ring logged).log.staging = [] ∧ (ring logged).log.base.toNat = 0xBC000000)
      ∧ (({ (ring logged).log with staging := [[1, 2, 3, 4, 5, 6, 7, 8]] }).staging = [1, 2, 3, 4, 5, 6, 7, 8] :: []))
    ∧ (ofWords [1, 2, 3, 4, 5, 6, 7, 0xFFFFFFFF] < 2 ^ 256)
    ∧ (reaches ringInit .sup 5 0 EVT.EV_CTRL (ringInit.rd (pEVT + EVT.EV_CTRL) ||| 0x1))
    ∧ (ringInit.logEn = false ∧ (ringInit.rd (pEVT + EVT.LOG_BASE)).toNat = 0xBC000000 ∧ 0xBC000000 % 0x4000000 = 0)
    ∧ (0xBC000000 + 0x4000000 ≤ 0x40000000 + ringInit.dramSize)
    ∧ (∀ i, i < 64 → ringInit.initBit ((0xBC000000 - 0x40000000) / 0x100000 + i) = true)
    ∧ (¬ ((wrs up [(pEVT + EVT.LOG_BASE, 0x40100000)]).rd (pEVT + EVT.LOG_BASE)).toNat % 0x4000000 = 0)
    ∧ (reaches (ring up) .sup 5 0 EVT.EV_CTRL ((ring up).rd (pEVT + EVT.EV_CTRL) &&& ~~~0x1))
    ∧ (reaches (ring up) .sup 5 0 EVT.EV_CTRL ((ring up).rd (pEVT + EVT.EV_CTRL) ||| 0x1)) :=
  ⟨by decide +kernel,
   by decide +kernel,
   by decide +kernel,
   by decide +kernel,
   reaches_of (by decide +kernel),
   by decide +kernel,
   by decide +kernel,
   by decide +kernel,
   by decide +kernel,
   reaches_of (by decide +kernel),
   reaches_of (by decide +kernel)⟩

/-- A proposal of a mask for a family. -/
def proposed (s : State) (fam : Nat) (m : Word) : State := put (wrs s [(pPROT + PROT.PROP_MASK, m)]) [(pPROT, PROT.PROP_FAM.FAM, fam)]
/-- A proposal pends. -/
def pends : State := { put (proposed up 34 0x4) [(pPROT, PROT.PROP_STAT.STATE, 1), (pPROT, PROT.PROP_STAT.PROP_ID, 9)] with propFam := 34, propMask := 4 }

theorem witness_ProtectionMapChangesByTwoParties :
    (reaches (proposed up 34 0xFFF) .spi 6 0 PROT.PROP_CMD 0x1)
    ∧ ((proposed up 34 0xFFF).propState ≠ 1 ∧ (proposed up 34 0xFFF).bit pPROT HDR.LOCK = false)
    ∧ ((proposed up 34 0xFFF).fld pPROT PROT.PROP_FAM.FAM = 34 ∧ ((proposed up 34 0xFFF).rd (pPROT + PROT.PROP_MASK)).getLsbD 2 = true ∧ getBits ((proposed up 34 0xFFF).rd (pPROT + PROT.PROP_MASK)) 12 4 = 0)
    ∧ (reaches (proposed up 6 0xFFF) .spi 6 0 PROT.PROP_CMD 0x1)
    ∧ ((proposed up 6 0xFFF).fld pPROT PROT.PROP_FAM.FAM = 6 ∧ (proposed up 35 0xFFF).fld pPROT PROT.PROP_FAM.FAM = 35)
    ∧ (reaches pends .spi 6 0 PROT.PROP_CMD 0x1)
    ∧ (pends.propState = 1 ∧ pends.spi.inFrame = false ∧ pends.propFam ≤ 34 ∧ pends.fld pPROT PROT.PROP_STAT.PROP_ID = 9)
    ∧ (reaches pends .spi 6 0 PROT.PROP_CMD 0x2)
    ∧ (reaches up .spi 6 0 PROT.PROP_CMD 0x2)
    ∧ (reaches pends .sup 6 0 PROT.RATIFY 0x90001)
    ∧ (reaches pends .sup 6 0 PROT.RATIFY 0x90002)
    ∧ (reaches pends .sup 6 0 PROT.RATIFY 0x80001)
    ∧ (pends.propTick + 6250000 < { pends with tick := 6250001 }.tick ∧ ¬ pends.propTick + 6250000 < pends.tick)
    ∧ (reaches { pends with tick := 6250001 } .sup 6 0 PROT.RATIFY 0x90001)
    ∧ (reaches { pends with tick := 6250001 } .spi 6 0 PROT.PROP_CMD 0x1)
    ∧ (reaches { pends with tick := 6250001 } .spi 6 0 PROT.PROP_CMD 0x2)
    ∧ ({ pends with tick := 6250001 }.fld pPROT PROT.PROP_FAM.FAM = 34 ∧ ({ pends with tick := 6250001 }.rd (pPROT + PROT.PROP_MASK)).getLsbD 2 = true)
    ∧ (up.region .spi (pPROT + PROT.RATIFY) = .page 6 0 PROT.RATIFY ∧ up.spi.inFrame = false) :=
  ⟨reaches_of (by decide +kernel),
   by decide +kernel,
   by decide +kernel,
   reaches_of (by decide +kernel),
   by decide +kernel,
   reaches_of (by decide +kernel),
   by decide +kernel,
   reaches_of (by decide +kernel),
   reaches_of (by decide +kernel),
   reaches_of (by decide +kernel),
   reaches_of (by decide +kernel),
   reaches_of (by decide +kernel),
   by decide +kernel,
   reaches_of (by decide +kernel),
   reaches_of (by decide +kernel),
   reaches_of (by decide +kernel),
   by decide +kernel,
   by decide +kernel⟩

/-- A brown-out. -/
def brown : State := put up [(pPWR, PWR.BO_STAT.STATE, 1)]

theorem witness_CommitRequestsTakeTheShadow :
    (reaches up .sup 9 7 LRX.COMMIT ((0x7F : BitVec 7).setWidth 32))
    ∧ (reaches up .sup 10 7 LTX.COMMIT ((0x1F : BitVec 5).setWidth 32))
    ∧ (reaches up .sup 15 15 HSL.COMMIT ((0xF : BitVec 4).setWidth 32))
    ∧ ((∀ g ∈ groupsIn 0x7F, up.mark (pLRX 7) g &&& 2 = 0)
      ∧ (∀ g ∈ groupsIn 0x1F, up.mark (pLTX 7) g &&& 2 = 0))
    ∧ ((∀ g ∈ groupsIn 0xF, up.mark (pHSL 15) g &&& 2 = 0)
      ∧ (up.brownOut = false ∧ brown.brownOut = true ∧ brown.commits = []))
    ∧ ((∃ g ∈ groupsIn 0x7F, (up.setMark (pLRX 7) 6 2).mark (pLRX 7) g &&& 2 ≠ 0)
      ∧ (∃ g ∈ groupsIn 0x1F, (up.setMark (pLTX 7) 4 2).mark (pLTX 7) g &&& 2 ≠ 0))
    ∧ (∃ g ∈ groupsIn 0xF, (up.setMark (pHSL 15) 3 2).mark (pHSL 15) g &&& 2 ≠ 0)
    ∧ (reaches (up.setMark (pLRX 7) 6 2) .sup 9 7 LRX.COMMIT ((0x7F : BitVec 7).setWidth 32))
    ∧ (reaches (up.setMark (pLTX 7) 4 2) .sup 10 7 LTX.COMMIT ((0x1F : BitVec 5).setWidth 32))
    ∧ (reaches (up.setMark (pHSL 15) 3 2) .sup 15 15 HSL.COMMIT ((0xF : BitVec 4).setWidth 32))
    ∧ (reaches up .sup 9 7 LRX.COMMIT ((0 : BitVec 7).setWidth 32))
    ∧ (reaches up .sup 10 7 LTX.COMMIT ((0 : BitVec 5).setWidth 32))
    ∧ (reaches up .sup 15 15 HSL.COMMIT ((0 : BitVec 4).setWidth 32))
    ∧ (reaches brown .sup 9 7 LRX.COMMIT ((0x7F : BitVec 7).setWidth 32)) :=
  ⟨reaches_of (by decide +kernel),
   reaches_of (by decide +kernel),
   reaches_of (by decide +kernel),
   by decide +kernel,
   by decide +kernel,
   by decide +kernel,
   by decide +kernel,
   reaches_of (by decide +kernel),
   reaches_of (by decide +kernel),
   reaches_of (by decide +kernel),
   reaches_of (by decide +kernel),
   reaches_of (by decide +kernel),
   reaches_of (by decide +kernel),
   reaches_of (by decide +kernel)⟩

theorem witness_CommitPointsApplyRequestsInOrder :
    ((put up [(pLRX 7, LRX.LN_STAT.STATE, 1)]).lnState 7 ≠ 0)
    ∧ (settled { up with commits := [⟨pLRX 7, 1, [], none, 0⟩] })
    ∧ ((({ up with commits := [⟨pLRX 7, 1, [], none, 0⟩] }).commits = [⟨pLRX 7, 1, [], none, 0⟩] ∧ 1 &&& 0x7F ≠ 0)
      ∧ ((put up [(pLTX 7, LTX.TX_STAT.STATE, 3)]).txState 7 = 3))
    ∧ (((put up [(pHSL 15, HSL.RX_STAT.STATE, 5)]).hrxLive 15 = true ∧ (put up [(pHSL 15, HSL.RX_STAT.STATE, 4)]).hrx 15 = 4)
      ∧ ((put up [(pHSL 15, HSL.TX_STAT.STATE, 2)]).htx 15 = 2 ∧ ((put up [(pHSL 15, HSL.TX_STAT.STATE, 2)]).hslSt 15).stop = false))
    ∧ ((up.lnState 7 = 0)
      ∧ ((put up [(pCLK, CLK.CLK_STAT.REFCLK_OK, 0)]).refOk = false))
    ∧ ((up.hrx 15 = 0 ∧ (put up [(pHSL 15, HSL.RX_STAT.STATE, 6)]).hrx 15 = 6)
      ∧ (up.htx 15 ≤ 1)) :=
  ⟨by decide +kernel,
   settled_of (by decide +kernel),
   by decide +kernel,
   by decide +kernel,
   by decide +kernel,
   by decide +kernel⟩

/-- Lane 7 in a state, its signal present. -/
def rx (st : Nat) : State := put up [(pLRX 7, LRX.LN_STAT.STATE, st), (pLRX 7, LRX.LN_STAT.LOS, 0)]
/-- Engine 0 of CL7, the home of lane 7's engines, may write; GAIN, TIMING and EQ. -/
def rxEng (st : Nat) : State := put free [(pLRX 7, LRX.LN_STAT.STATE, st), (pLRX 7, LRX.LN_STAT.TR_LOCK, 1)]
/-- Lane 7 LOCKED: five frequencies and the windows' results stand, and the loop is at its range limit. -/
def rx6 : State := (rx 6).modLrx 7 fun x => { x with pipe := { x.pipe with trWin := [0, 0, 0, 0, 0], limit := true, lvlDone := [[]], adcDone := [(0, 0)] } }

theorem witness_LineReceiveLaneStates :
    (settled rx6)
    ∧ (((rx 6).lnState 7 = 6 ∧ (rx 6).bit (pLRX 7) LRX.LN_STAT.LOS = false)
      ∧ ((0 : Nat) < 4 * (put (rx 6) [(pLRX 7, LRX.LOS_CFG.LOS_ON, 255)]).fld (pLRX 7) LRX.LOS_CFG.LOS_ON)
      ∧ ((put up [(pLRX 7, LRX.LN_STAT.STATE, 1), (pLRX 7, LRX.LN_STAT.LOS, 1)]).bit (pLRX 7) LRX.LN_STAT.LOS = true))
    ∧ ((4 * up.fld (pLRX 7) LRX.LOS_CFG.LOS_OFF < 1023)
      ∧ (let v : Nat → Rat := fun _ => 0; rx6.trRuns 7 = true ∧ (rx6.lrxSt 7).pipe.trWin = (List.range 5).map v ∧ ∀ i, i < 4 → -500 < v i - v (i + 1) ∧ v i - v (i + 1) < 500)
      ∧ ((rx6.lrxSt 7).pipe.limit = true ∧ (rx6.lrxSt 7).pipe.lvlDone = [[]] ∧ (rx6.lrxSt 7).pipe.adcDone = [(0, 0)]))
    ∧ (((put (rx 6) [(pLRX 7, LRX.LN_STAT.TR_LOCK, 1)]).bit (pLRX 7) LRX.LN_STAT.TR_LOCK = true)
      ∧ (windowSnr [] < (put rx6 [(pLRX 7, LRX.SNR_CFG.SNR_LOSS, 1023)]).fld (pLRX 7) LRX.SNR_CFG.SNR_LOSS)
      ∧ ((put rx6 [(pLRX 7, LRX.SNR_CFG.SNR_LOSS, 0)]).fld (pLRX 7) LRX.SNR_CFG.SNR_LOSS ≤ windowSnr []))
    ∧ ((63 ≤ (((rx 6).modLrx 7 fun x => { x with low := 63 }).lrxSt 7).low ∧ ((rx 6).lrxSt 7).low < 63)
      ∧ ((wrs (rx 5) [(pLRX 7 + LRX.ACQ_TMO, 1)]).fld (pLRX 7) ⟨LRX.ACQ_TMO, 0, 16⟩ ≠ 0 ∧ (wrs (rx 5) [(pLRX 7 + LRX.ACQ_TMO, 1)]).lnState 7 = 5)
      ∧ ((rxEng 4).homeOf (16 * 7 + 15) = 7 ∧ (rxEng 4).lnState 7 = 4))
    ∧ (reaches (rxEng 4) (.engine 7 15) 9 7 LRX.ACQ_CMD 0x1)
    ∧ ((rxEng 3).bit (pLRX 7) LRX.LN_STAT.TR_LOCK = true ∧ (rxEng 3).lnState 7 = 3 ∧ (rxEng 2).lnState 7 = 2)
    ∧ ((put (rxEng 4) [(pLRX 7, LRX.SNR_EST.SNR, 1023), (pLRX 7, LRX.SNR_CFG.SNR_ACQ, 1)]).snrOk 7 = true)
    ∧ (reaches (rx 6) .sup 9 7 LRX.ACQ_CMD 0x2) :=
  ⟨settled_of (by decide +kernel),
   by decide +kernel,
   by decide +kernel,
   by decide +kernel,
   by decide +kernel,
   reaches_of (by decide +kernel),
   by decide +kernel,
   by decide +kernel,
   reaches_of (by decide +kernel)⟩

/-- Port 7, one lane wide, is defined, its enable as given. -/
def port7 (s : State) (en : Nat) : State := put s [(pPORT, fldAt PORT.PCFG.DEFINED 28, 1), (pPORT, bitAt PORT.PORT_EN 7, en)]
/-- Transmit lane 7 in a state. -/
def tx (s : State) (st : Nat) : State := put s [(pLTX 7, LTX.TX_STAT.STATE, st)]
/-- Port 7 runs and its transmit lane is ready. -/
def ready7 : State := ((tx (port7 lit 1) 1).modPort 7 fun p => { p with run := true }).modLtx 7 fun t => { t with sq := true }

theorem witness_LineTransmitLaneStates :
    (lit.noon = true ∧ lit.refOk = true ∧ 7 < lit.lines ∧ lit.txState 7 = 0)
    ∧ ((put up [(pLTX 7, LTX.TX_CTRL.BEACON, 1)]).bit (pLTX 7) LTX.TX_CTRL.BEACON = true)
    ∧ (((port7 up 1).portOfLine 7).isSome = true ∧ (up.portOfLine 7).isSome = false ∧ (tx up 1).txState 7 = 1)
    ∧ (reaches up .sup 10 7 LTX.TX_CTRL (up.rd (pLTX 7 + LTX.TX_CTRL) ||| 0x1))
    ∧ (reaches up .sup 10 7 LTX.TX_CTRL (up.rd (pLTX 7 + LTX.TX_CTRL) &&& ~~~0x1))
    ∧ (up.fld (pLTX 7) LTX.TX_CTRL.PAT ≤ 4)
    ∧ (settled ready7)
    ∧ (ready7.commits = [] ∧ ready7.txReady 7 = true ∧ ready7.portFits 7 = true)
    ∧ ((tx up 3).txState 7 = 3 ∧ (((tx up 3).modLtx 7 fun t => { t with stop := true }).ltxSt 7).stop = true)
    ∧ ((((tx up 2).modLtx 7 fun t => { t with skew := 63 }).ltxSt 7).skew = 63) :=
  ⟨by decide +kernel,
   by decide +kernel,
   by decide +kernel,
   reaches_of (by decide +kernel),
   reaches_of (by decide +kernel),
   by decide +kernel,
   settled_of (by decide +kernel),
   by decide +kernel,
   by decide +kernel,
   by decide +kernel⟩

/-- Receive lane 15 in a state. -/
def hx (s : State) (st : Nat) : State := put s [(pHSL 15, HSL.RX_STAT.STATE, st), (pHSL 15, HSL.RX_STAT.LOS, 0), (pHSL 15, HSL.RX_STAT.CDR_LOCK, 1)]
/-- In M400, port 7 is defined with its host lanes 14 and 15. -/
def hosted : State := put (port7 lit 1) [(pPORT, PORT.MODE.LINE, 1)]
/-- The first of them is UP and ACTIVE, and the time counter runs. -/
def stamps : State := let s := put hosted [(pHSL 14, HSL.RX_STAT.STATE, 5), (pHSL 14, HSL.TX_STAT.STATE, 2)]; { s with time := { s.time with running := true } }

theorem witness_HostLaneStates :
    (settled (hx up 5))
    ∧ (((hx up 5).hrxLive 15 = true ∧ (hx up 5).hrx 15 = 5 ∧ (hx up 5).bit (pHSL 15) HSL.RX_STAT.LOS = false)
      ∧ ((0 : Nat) < 4 * (wrs (hx up 5) [(pHSL 15 + HSL.LOS_CFG, 0xFF)]).fld (pHSL 15) ⟨HSL.LOS_CFG, 0, 8⟩)
      ∧ ((put (hx up 1) [(pHSL 15, HSL.RX_STAT.LOS, 1)]).bit (pHSL 15) HSL.RX_STAT.LOS = true ∧ 4 * up.fld (pHSL 15) ⟨HSL.LOS_CFG, 8, 8⟩ < 1023))
    ∧ ((let f : Nat → Int := fun i => -299999 + 999 * i; (hx up 2).hrx 15 = 2 ∧ (hx up 2).cdrHeld 15 = false ∧ (∀ i, i < 5 → (f i).natAbs < 300000) ∧ ∀ i, i < 4 → (f (i + 1) - f i).natAbs < 1000)
      ∧ ((hx (up.setInf (pHSL 15 + HSL.CDR_CFG) 0x10) 2).cdrHeld 15 = true ∧ (hx (up.setInf (pHSL 15 + HSL.CDR_CFG) 0x10) 2).hrx 15 = 2)
      ∧ ((put (hx up 5) [(pCLK, bitAt CLK.LOCK1 31, 1)]).bit pCLK (bitAt CLK.LOCK1 (if true then 16 + 15 else 15)) = true ∧ (put (hx up 5) [(pCLK, bitAt CLK.LOCK1 15, 1)]).bit pCLK (bitAt CLK.LOCK1 (if false then 16 + 15 else 15)) = true))
    ∧ (((hx up 5).bit (pHSL 15) HSL.RX_STAT.CDR_LOCK = true)
      ∧ (0 < (wrs (hx up 5) [(pHSL 15 + HSL.SNR_CFG, 0x03FF0000)]).fld (pHSL 15) ⟨HSL.SNR_CFG, 16, 10⟩)
      ∧ (63 ≤ (((hx up 5).modHsl 15 fun x => { x with low := 63 }).hslSt 15).low ∧ (hx up 5).fld (pHSL 15) ⟨HSL.SNR_CFG, 16, 10⟩ ≤ 1023))
    ∧ (((15 : Nat) < hosted.hosts ∧ hosted.refOk = true ∧ hosted.inNight = false ∧ hosted.htx 15 = 0)
      ∧ (free.homeOf (16 * 9 + 15) = 8 + 15 / 8))
    ∧ (reaches (hx free 3) (.engine 9 15) 15 15 HSL.RX_CMD 0x1)
    ∧ ((put (hx free 3) [(pHSL 15, HSL.RX_SNR.SNR, 1023)]).hostSnrOk 15 = true)
    ∧ (reaches (hx up 5) .sup 15 15 HSL.RX_CMD 0x2)
    ∧ (hosted.hostDefined (hosted.fld (pHSL 15) HSL.LANE_CFG.TX_LOG) = true ∧ hosted.hostDefined (hosted.fld (pHSL 15) HSL.LANE_CFG.RX_LOG) = true)
    ∧ (reaches up .sup 15 15 HSL.TX_CMD (BitVec.ofNat 32 (8 + 5)))
    ∧ (reaches up .sup 15 15 HSL.TX_CMD (BitVec.ofNat 32 (8 + 6)))
    ∧ (up.mark (pHSL 15) 0 &&& 2 = 0)
    ∧ ((ready7.portSt 7).run = true ∧ stamps.portOn 7 = true ∧ stamps.time.running = true)
    ∧ (stamps.physRx (stamps.firstHost 7) = some 14 ∧ stamps.hrx 14 = 5 ∧ stamps.physTx (stamps.firstHost 7) = some 14 ∧ stamps.htx 14 = 2)
    ∧ ((((hx up 5).modHsl 15 fun x => { x with chkPat := 7 }).hslSt 15).chkPat ≠ 0) :=
  ⟨settled_of (by decide +kernel),
   by decide +kernel,
   by decide +kernel,
   by decide +kernel,
   by decide +kernel,
   reaches_of (by decide +kernel),
   by decide +kernel,
   reaches_of (by decide +kernel),
   by decide +kernel,
   reaches_of (by decide +kernel),
   reaches_of (by decide +kernel),
   by decide +kernel,
   by decide +kernel,
   by decide +kernel,
   by decide +kernel⟩

/-- Frame state of lane 7, in M400 or M800. -/
def fl (m400 st ln : Nat) : State := put (rx ln) [(pPORT, PORT.MODE.LINE, m400), (pIFEC 7, IFEC.IF_STAT.FSTATE, st)]
/-- Port 7 runs in code word lock. -/
def cw : State := put ((port7 up 1).modPort 7 fun p => { p with run := true }) [(pOFEC 7, OFEC.OF_STAT.RX_CW_LOCK, 1), (pOFEC 7, OFEC.OF_STAT.TX_CW_LOCK, 1), (pPORT, PORT.MODE.LINE, 1)]
/-- Its lane has brought a code word's bits. -/
def brought : State := cw.modLrx 7 fun x => { x with dec := { x.dec with bits := List.replicate 5440 false } }
/-- A degrade interval of one unit has ended with DEG_SER set, with some symbols corrected against a limit of 5. -/
def judged (n : Nat) : State := (put cw [(pOFEC 7, OFEC.OF_STAT.DEG_SER, 1)]).modPort 7 fun p => { p with degSym := n, degCw := 8192, degCfg := (1, 9, 5) }

theorem witness_FramesHeadersAndOuterCodeWords :
    (settled (fl 1 3 6))
    ∧ (((fl 1 1 5).ifState 7 = 1 ∧ (fl 1 1 5).fawOk 7 (BitVec.ofNat 64 faw0) = true ∧ (fl 0 1 5).m400 = false)
      ∧ ((fl 1 2 5).ifState 7 = 2 ∧ (fl 1 2 5).lnState 7 = 5 ∧ (fl 1 2 5).commits = [] ∧ 3 ≤ (((fl 1 2 5).modIfec 7 fun x => { x with hits := 3 }).ifecSt 7).hits))
    ∧ (((fl 1 3 6).m400 = true ∧ (fl 1 3 6).ifState 7 = 3 ∧ (fl 1 3 6).fawOk 7 (BitVec.ofNat 64 faw0) = true ∧ (fl 1 3 6).fawOk 7 0 = false)
      ∧ (crc16 32 0x400 = (BitVec.ofNat 16 (crc16 32 0x400)).toNat ∧ crc16 32 0x400 ≠ (BitVec.ofNat 16 (crc16 32 0x400 + 1)).toNat))
    ∧ ((max 1 ((fl 1 3 6).fld (pIFEC 7) IFEC.IF_CTRL.LOSS_N) ≤ (((fl 1 3 6).modIfec 7 fun x => { x with miss := 14 }).ifecSt 7).miss + 1)
      ∧ (cw.portOn 7 = true ∧ cw.bit (pOFEC 7) OFEC.OF_STAT.RX_CW_LOCK = true ∧ cw.bit (pOFEC 7) OFEC.OF_STAT.TX_CW_LOCK = true))
    ∧ (cw.fromLanes 7 = none)
    ∧ (∃ w t, brought.fromLanes 7 = some (w, t))
    ∧ (brought.portOn 7 = true ∧ brought.bit (pOFEC 7) OFEC.OF_STAT.RX_CW_LOCK = true)
    ∧ (verdictOk (some ((List.finRange 15).map fun i => ((i.castLE (by decide) : Fin 544), (1023 : Fin 1024)))) = true ∧ verdictOk (some []) = true)
    ∧ ((List.replicate 544 (0 : BitVec 10)).length = 544)
    ∧ (((judged 0).portSt 7).run = true ∧ 8192 * ((judged 0).portSt 7).degCfg.1 ≤ ((judged 0).portSt 7).degCw)
    ∧ ((judged 0).bit (pOFEC 7) OFEC.OF_STAT.DEG_SER = true ∧ ((judged 5).portSt 7).degSym ≤ ((judged 5).portSt 7).degCfg.2.2 ∧ ((judged 6).portSt 7).degCfg.2.2 < ((judged 6).portSt 7).degSym) :=
  ⟨settled_of (by decide +kernel),
   by decide +kernel,
   by decide +kernel,
   by decide +kernel,
   by decide +kernel,
   (⟨_, _, by unfold State.fromLanes; rw [if_pos (by decide +kernel)]⟩),
   by decide +kernel,
   by decide +kernel,
   by decide +kernel,
   by decide +kernel,
   by decide +kernel⟩

/-- Two host lanes of port 7's octet carry one logical number. -/
def twice : State := put (port7 up 0) [(pHSL 6, HSL.LANE_CFG.RX_LOG, 7), (pHSL 15, HSL.LANE_CFG.RX_LOG, 14)]
/-- Port 7 LOCKED in M400, its lane's header seen. -/
def even : State := (put cw [(pLRX 7, LRX.LN_STAT.STATE, 6)]).modIfec 7 fun x => { x with hdr := true }

theorem witness_PortsStartStopAndDeskew :
    (settled (port7 up 1))
    ∧ ((port7 up 0).portFits 7 = true ∧ (port7 up 0).portDefined 7 = true ∧ (port7 up 0).portOn 7 = false)
    ∧ (reaches (port7 up 0) .sup 14 0 PORT.PORT_EN ((port7 up 0).portEnWord 7 true))
    ∧ (((port7 up 0).wr (pPORT + PORT.PORT_EN) ((port7 up 0).portEnWord 7 true)).portValid 7 = true)
    ∧ (twice.portFits 7 = true ∧ twice.portDefined 7 = true ∧ twice.portOn 7 = false ∧ (twice.wr (pPORT + PORT.PORT_EN) (twice.portEnWord 7 true)).portValid 7 = false)
    ∧ (reaches twice .sup 14 0 PORT.PORT_EN (twice.portEnWord 7 true))
    ∧ ((port7 lit 0).canRun = true ∧ (port7 lit 0).portUnlocked 7 = false ∧ 7 ∈ (port7 lit 0).portLanes 7 ∧ (port7 lit 0).rsTableOk 7 = true)
    ∧ (reaches (port7 up 1) .sup 14 0 PORT.PORT_EN ((port7 up 1).portEnWord 7 false))
    ∧ ((port7 up 1).portOn 7 = true ∧ (port7 up 1).portValid 7 = true)
    ∧ (reaches (port7 up 1) .sup 14 0 PORT.PORT_CMD (BitVec.ofNat 32 (2 ^ 7)))
    ∧ ((put cw [(pLRX 7, LRX.LN_STAT.STATE, 6)]).allLocked 7 = true ∧ (cw.portSt 7).lbPend = none ∧ cw.mismatch 7 = false)
    ∧ (even.allLocked 7 = true ∧ even.mismatch 7 = false ∧ even.m400 = true ∧ ∀ n ∈ even.portLanes 7, (even.ifecSt n).hdr = true ∧ even.fld (pIFEC n) IFEC.IF_STAT.RX_FRAME = even.fld (pIFEC 7) IFEC.IF_STAT.RX_FRAME)
    ∧ (cw.bit pPORT (psf 7 PORT.PSTAT.MISMATCH) = false ∧ cw.bit pPORT (psf 7 PORT.PSTAT.SKEW_ERR) = false) :=
  ⟨settled_of (by decide +kernel),
   by decide +kernel,
   reaches_of (by decide +kernel),
   by decide +kernel,
   by decide +kernel,
   reaches_of (by decide +kernel),
   by decide +kernel,
   reaches_of (by decide +kernel),
   by decide +kernel,
   reaches_of (by decide +kernel),
   by decide +kernel,
   by decide +kernel,
   by decide +kernel⟩

/-- A TXREQ of a code with its fields; the partner channel of lane 7 is aligned. -/
def txreq (code tap step preset : Nat) : Cell := cell 2 5 9 (BitVec.ofNat 80 (code * 2 ^ 77 + tap * 2 ^ 74 + step * 2 ^ 70 + preset * 2 ^ 68))
def rem (allow : Nat) : State := put (fl 1 3 6) [(pLTX 7, LTX.REM_CTRL.ALLOW, allow), (pLTX 7, LTX.REM_CTRL.SWING_ALLOW, allow)]

theorem witness_RemoteTransmitRequests :
    (arrives (has (rem 1) 7 2 (txreq 0 0 0 0)) 7 2 (txreq 0 0 0 0))
    ∧ (newRequest (rem 1) 7 2 (txreq 0 0 0 0))
    ∧ (((rem 1).ltxSt 7).rem = none ∧ (rem 1).quietOpen (8 + 7) = false)
    ∧ (pfield (txreq 0 0 0 0) 0 3 = 0 ∧ pfield (txreq 7 7 0 3) 0 3 = 7 ∧ pfield (txreq 7 7 9 3) 3 3 = 7 ∧ pfield (txreq 7 7 9 3) 6 4 = 9 ∧ pfield (txreq 1 0 0 3) 10 2 = 3)
    ∧ (arrives (has (rem 1) 7 2 (txreq 1 0 0 3)) 7 2 (txreq 1 0 0 3))
    ∧ (arrives (has (rem 0) 7 2 (txreq 1 0 0 3)) 7 2 (txreq 1 0 0 3))
    ∧ ((rem 0).bit (pLTX 7) LTX.REM_CTRL.ALLOW = false ∧ (rem 1).bit (pLTX 7) LTX.REM_CTRL.ALLOW = true ∧ (rem 1).brownOut = false)
    ∧ ((rem 1).firAllowed 7 (firPreset 0) = true)
    ∧ (arrives (has (rem 1) 7 2 (txreq 2 6 8 0)) 7 2 (txreq 2 6 8 0))
    ∧ (arrives (has (rem 1) 7 2 (txreq 5 0 0 0)) 7 2 (txreq 5 0 0 0))
    ∧ ((put (rem 1) [(pPWR, PWR.BO_STAT.STATE, 1)]).brownOut = true ∧ (rem 1).firAllowed 7 (List.replicate 7 0) = false)
    ∧ (arrives (has (put (rem 1) [(pPWR, PWR.BO_STAT.STATE, 1)]) 7 2 (txreq 0 0 0 0)) 7 2 (txreq 0 0 0 0))
    ∧ ((rem 1).bit (pLTX 7) LTX.REM_CTRL.SWING_ALLOW = true ∧ (put (rem 1) [(pLTX 7, LTX.AMP_CTRL.SWING, 63)]).fld (pLTX 7) LTX.AMP_CTRL.SWING = 63) :=
  ⟨arrives_of (by decide +kernel),
   new_of (by decide +kernel),
   by decide +kernel,
   by decide +kernel,
   arrives_of (by decide +kernel),
   arrives_of (by decide +kernel),
   by decide +kernel,
   by decide +kernel,
   arrives_of (by decide +kernel),
   arrives_of (by decide +kernel),
   by decide +kernel,
   arrives_of (by decide +kernel),
   by decide +kernel⟩

theorem witness_RemoteRequestsAcceptedOnlyWithinLimits : after (exec (.remPreset 7 (txreq 1 0 0 0)) (has (rem 1) 7 2 (txreq 1 0 0 0))) (fun t => t.commits.length == 1) = true
    ∧ after (exec (.remSwingInc 7 (txreq 4 0 0 0)) (has (rem 1) 7 2 (txreq 4 0 0 0))) (fun t => t.commits.length == 1) = true ∧ (rem 1).commits.length = 0 := by
  decide +kernel

theorem crcBits_lt (w poly : Nat) (hp : poly < 2 ^ w) : ∀ (n v r : Nat), r < 2 ^ w → crcBits w poly n v r < 2 ^ w
  | 0, _, _, h => h
  | n + 1, v, r, _ => by
    unfold crcBits
    refine crcBits_lt w poly hp n v _ (Nat.xor_lt_two_pow (Nat.mod_lt _ (Nat.two_pow_pos w)) ?_)
    split
    · exact hp
    · exact Nat.two_pow_pos w

theorem crc16_fits (n v : Nat) : crc16 n v = (BitVec.ofNat 16 (crc16 n v)).toNat := by
  rw [BitVec.toNat_ofNat]
  exact (Nat.mod_eq_of_lt (crcBits_lt 16 0x1021 (by decide) n v 0xFFFF (by decide))).symm

theorem crc8_fits (n v : Nat) : crc8 n v = (BitVec.ofNat 8 (crc8 n v)).toNat := by
  rw [BitVec.toNat_ofNat]
  exact (Nat.mod_eq_of_lt (crcBits_lt 8 7 (by decide) n v 0xFF (by decide))).symm

/-- The partner channel of lane 7 runs, aligned. -/
def pc : State := put (fl 1 3 6) [(pPART 7, PART.PC_CTRL.EN, 1), (pPART 7, PART.PC_CTRL.RREAD_EN, 1), (pPART 7, PART.PC_CTRL.RLB_ALLOW, 1),
  (pPART 7, PART.RREAD_MASK.MASK, 0xFF), (pCAL, CAL.QUIET_CFG.QUIET_GRANT_EN, 1)]
def pcWith (f : PartSt → PartSt) : State := pc.modPart 7 f
/-- Fields of a payload, counted from its first bit. -/
def pay (l : List (Nat × Nat × Nat)) : BitVec 80 := BitVec.ofNat 80 (l.foldl (fun n x => n + x.2.2 * 2 ^ (80 - x.1 - x.2.1)) 0)
def ask (tag payload tries : Nat) : Ask := ⟨tag, payload, tries, true⟩
def identOf (p : BitVec 80) : Cell := ⟨5, 9, p, BitVec.ofNat 16 (crc16 112 (cellBits 1 5 9 p.toNat))⟩

theorem partSt_modPart (s : State) (n : Nat) (f : PartSt → PartSt) : (s.modPart n f).partSt n = f (s.partSt n) :=
  Sys2Proof.Laws.get_put_self _ _ _ _

theorem witness_ident : arrives (has pc 7 1 (identOf (BitVec.ofNat 80 (Config.devId.toNat * 2 ^ 16)))) 7 1 (identOf (BitVec.ofNat 80 (Config.devId.toNat * 2 ^ 16)))
    ∧ pfield (identOf (BitVec.ofNat 80 (Config.devId.toNat * 2 ^ 16))) 0 64 = Config.devId.toNat := by
  have hp : ∀ p, (identOf p).payload = p := fun _ => rfl
  refine ⟨⟨by decide +kernel, ?_, crc16_fits _ _, Or.inl ?_⟩, ?_⟩
  · rw [has, partSt_modPart]
  · rw [has, partSt_modPart]; decide +kernel
  have h := Config.devId.isLt
  rw [pfield, hp, BitVec.toNat_ofNat]
  omega

theorem witness_PartnerCellsReceived :
    ((pc.m400 = true ∧ pc.aligned 7 = true)
      ∧ (((pcWith fun x => { x with asm := { x.asm with done := some none } }).partSt 7).asm.done = some none))
    ∧ ((((has pc 7 0 ⟨5, 9, 0, 0⟩).partSt 7).asm.done = some (some (cellWhole ⟨5, 9, 0, 0⟩ 0)) ∧ crc16 112 (cellWhole ⟨5, 9, 0, 0⟩ 0 / 2 ^ 16) ≠ cellWhole ⟨5, 9, 0, 0⟩ 0 % 2 ^ 16)
      ∧ ((has pc 7 0 ⟨5, 9, 0, 0⟩).aligned 7 = true))
    ∧ ((¬ crc16 112 (cellBits 0 5 9 0) = ((0 : BitVec 16)).toNat)
      ∧ ((pcWith fun x => { x with first := false, rxSeq := 5 }).aligned 7 = true ∧ ((pcWith fun x => { x with first := false, rxSeq := 5 }).partSt 7).first = false))
    ∧ ((crc16 112 (cellBits 0 5 9 0) = (cell 0 5 9 0).crc.toNat ∧ crc16 112 (cellBits 0 7 9 0) = (cell 0 7 9 0).crc.toNat)
      ∧ ((5 + 2 ^ 16 - 5) % 2 ^ 16 = 0 ∧ 1 < (7 + 2 ^ 16 - 5) % 2 ^ 16 ∧ 2 ^ 15 ≤ (4 + 2 ^ 16 - 5) % 2 ^ 16))
    ∧ (arrives (has (pcWith fun x => { x with first := false, rxSeq := 65535 }) 7 0 (cell 0 0 9 0)) 7 0 (cell 0 0 9 0))
    ∧ (reservedType 0x0C = true ∧ reservedType 0xFF = true)
    ∧ (arrives (has pc 7 0xFF (cell 0xFF 5 9 0)) 7 0xFF (cell 0xFF 5 9 0))
    ∧ (arrives (has pc 7 1 (cell 1 5 9 (pay [(0, 64, 5)]))) 7 1 (cell 1 5 9 (pay [(0, 64, 5)])))
    ∧ (arrives (has pc 7 1 (cell 1 5 9 (pay [(0, 64, 6)]))) 7 1 (cell 1 5 9 (pay [(0, 64, 6)])))
    ∧ (pfield (cell 1 5 9 (pay [(0, 64, 5)])) 0 64 = 5 ∧ pfield (cell 1 5 9 (pay [(0, 64, 6)])) 0 64 = 6)
    ∧ (5 ≠ Config.devId.toNat ∨ 6 ≠ Config.devId.toNat)
    ∧ (pc.bit (pPART 7) PART.FAR_INFO.VALID = false ∧ (pc.fld (pPART 7) PART.PC_CTRL.ID_CONFIRM ≤ 1 ∨ 2 ≤ pc.fld (pPART 7) PART.PC_CTRL.ID_CONFIRM))
    ∧ ((put pc [(pPART 7, PART.PC_CTRL.ID_CONFIRM, 1)]).fld (pPART 7) PART.PC_CTRL.ID_CONFIRM ≤ 1)
    ∧ (2 ≤ (put pc [(pPART 7, PART.PC_CTRL.ID_CONFIRM, 2)]).fld (pPART 7) PART.PC_CTRL.ID_CONFIRM ∧ (pc.partSt 7).pend ≠ 5)
    ∧ (arrives (has (pcWith fun x => { x with tx := some (ask 9 (2 ^ 77) 0) }) 7 3 (cell 3 5 9 (pay [(0, 3, 1)]))) 7 3 (cell 3 5 9 (pay [(0, 3, 1)])))
    ∧ (((pcWith fun x => { x with tx := some (ask 9 (2 ^ 77) 0) }).partSt 7).tx = some (ask 9 (2 ^ 77) 0))
    ∧ (arrives (has pc 7 4 (cell 4 5 9 (pay [(0, 8, 255)]))) 7 4 (cell 4 5 9 (pay [(0, 8, 255)])))
    ∧ (pc.bit pCAL CAL.QUIET_CFG.QUIET_GRANT_EN = true)
    ∧ (arrives (has (pc.modCal 7 fun x => { x with quiet := 2 }) 7 5 (cell 5 5 9 0)) 7 5 (cell 5 5 9 0))
    ∧ (((pc.modCal 7 fun x => { x with quiet := 2 }).calSt 7).quiet = 2)
    ∧ (arrives (has pc 7 6 (cell 6 5 9 0)) 7 6 (cell 6 5 9 0))
    ∧ (pc.bit (pPART 7) PART.PC_CTRL.EN = true)
    ∧ (arrives (has (pc.modTt 7 fun x => { x with tag := 9, peer := some (3, 1) }) 7 7 (cell 7 5 9 0)) 7 7 (cell 7 5 9 0))
    ∧ (((pc.modTt 7 fun x => { x with tag := 9, peer := some (3, 1) }).tt 7).tag = (cell 7 5 9 0).tag.toNat ∧ (cell 7 5 9 0).tag ≠ 0)
    ∧ (((pc.modTt 7 fun x => { x with tag := 9, peer := some (3, 1) }).tt 7).peer = some (3, 1))
    ∧ (arrives (has pc 7 8 (cell 8 5 9 (pay [(0, 32, pLRX 7)]))) 7 8 (cell 8 5 9 (pay [(0, 32, pLRX 7)])))
    ∧ (newRequest pc 7 8 (cell 8 5 9 (pay [(0, 32, pLRX 7)])))
    ∧ (((pcWith fun x => { x with serve := some (1, 0, false, false) }).partSt 7).serve.isSome = true ∧ (pc.partSt 7).serve = none)
    ∧ (pc.bit (pPART 7) PART.PC_CTRL.RREAD_EN = true ∧ pc.enabled (pPART 7) = true ∧ (BitVec.ofNat 32 (pfield (cell 8 5 9 (pay [(0, 32, pLRX 7)])) 0 32) : Word).toNat % 4 = 0)
    ∧ (∃ k, addrClass (pLRX 7) = some k ∧ (pc.fld (pPART 7) PART.RREAD_MASK.MASK).testBit k = true)
    ∧ (pfield (cell 8 5 9 (pay [(0, 32, pLRX 7)])) 33 1 = 0)
    ∧ (arrives (has (pcWith fun x => { x with rr := some (ask 9 0 0) }) 7 9 (cell 9 5 9 (pay [(8, 32, 1)]))) 7 9 (cell 9 5 9 (pay [(8, 32, 1)])))
    ∧ (((pcWith fun x => { x with rr := some (ask 9 0 0) }).partSt 7).rr = some (ask 9 0 0) ∧ pfield (cell 9 5 9 (pay [(8, 32, 1)])) 0 3 = 0)
    ∧ (arrives (has pc 7 10 (cell 10 5 9 (pay [(0, 1, 1)]))) 7 10 (cell 10 5 9 (pay [(0, 1, 1)])))
    ∧ (newRequest pc 7 10 (cell 10 5 9 (pay [(0, 1, 1)])))
    ∧ (pfield (cell 10 5 9 (pay [(0, 1, 1)])) 0 1 = 1 ∧ pfield (cell 10 5 9 0) 0 1 = 0 ∧ pc.loopPort 7 = 7)
    ∧ (pc.bit (pPART 7) PART.PC_CTRL.RLB_ALLOW = true ∧ (put pc [(pPART 7, PART.PC_CTRL.RLB_ALLOW, 0)]).bit (pPART 7) PART.PC_CTRL.RLB_ALLOW = false)
    ∧ ((put pc [(pPART 7, PART.PC_STAT.RLB_ACTIVE, 1)]).looped 7 = true ∧ pc.looped 7 = false ∧ pc.portState 7 ≠ 2)
    ∧ (pc.fld (pHSL (pc.firstHost 7)) HSL.PORT_LB.MODE = 0 ∧ pc.brownOut = false)
    ∧ ((put (port7 pc 1) [(pPORT, fldAt PORT.PSTAT.DESKEWED 28, 1), (pOFEC 7, OFEC.OF_STAT.RX_CW_LOCK, 1)]).portState 7 = 2)
    ∧ (arrives (has (pcWith fun x => { x with rlb := some (ask 9 1 0) }) 7 11 (cell 11 5 9 0)) 7 11 (cell 11 5 9 0))
    ∧ (((pcWith fun x => { x with rlb := some (ask 9 1 0) }).partSt 7).rlb = some (ask 9 1 0))
    ∧ (arrives (has pc 7 0x40 (cell 0x40 5 9 0)) 7 0x40 (cell 0x40 5 9 0))
    ∧ (arrives (has pc 7 0x7F (cell 0x7F 5 9 0)) 7 0x7F (cell 0x7F 5 9 0))
    ∧ ((pc.partSt 7).fwRx.length < 8 ∧ 8 ≤ ((pcWith fun x => { x with fwRx := List.replicate 8 (0, 0, 0) }).partSt 7).fwRx.length) :=
  ⟨by decide +kernel,
   by decide +kernel,
   by decide +kernel,
   by decide +kernel,
   arrives_of (by decide +kernel),
   by decide +kernel,
   arrives_of (by decide +kernel),
   arrives_of (by decide +kernel),
   arrives_of (by decide +kernel),
   by decide +kernel,
   (by omega),
   by decide +kernel,
   by decide +kernel,
   by decide +kernel,
   arrives_of (by decide +kernel),
   by decide +kernel,
   arrives_of (by decide +kernel),
   by decide +kernel,
   arrives_of (by decide +kernel),
   by decide +kernel,
   arrives_of (by decide +kernel),
   by decide +kernel,
   arrives_of (by decide +kernel),
   by decide +kernel,
   by decide +kernel,
   arrives_of (by decide +kernel),
   new_of (by decide +kernel),
   by decide +kernel,
   by decide +kernel,
   (⟨(addrClass (pLRX 7)).getD 0, by decide +kernel⟩),
   by decide +kernel,
   arrives_of (by decide +kernel),
   by decide +kernel,
   arrives_of (by decide +kernel),
   new_of (by decide +kernel),
   by decide +kernel,
   by decide +kernel,
   by decide +kernel,
   by decide +kernel,
   by decide +kernel,
   arrives_of (by decide +kernel),
   by decide +kernel,
   arrives_of (by decide +kernel),
   arrives_of (by decide +kernel),
   by decide +kernel⟩

theorem witness_PartnerRequestsAndSlots :
    (reaches pc .sup 18 7 PART.TXREQ 0x3871)
    ∧ ((pc.partSt 7).tx = none ∧ ((pcWith fun x => { x with tx := some (ask 255 0 0) }).partSt 7).tx.isSome = true)
    ∧ (reaches pc .sup 18 7 PART.RR_CMD 7)
    ∧ (pc.bit (pPART 7) PART.RR_STAT.BUSY = false ∧ (put pc [(pPART 7, PART.RR_STAT.BUSY, 1)]).bit (pPART 7) PART.RR_STAT.BUSY = true)
    ∧ (((pcWith fun x => { x with rr := some (ask 9 0 1) }).partSt 7).rr = some (ask 9 0 1) ∧ (ask 9 0 1).tries < 2 ∧ 2 ≤ (ask 9 0 2).tries)
    ∧ (((pcWith fun x => { x with rlb := some (ask 9 0 2) }).partSt 7).rlb = some (ask 9 0 2))
    ∧ (reaches pc .sup 18 7 PART.RLB_CMD 0x1)
    ∧ (reaches pc .sup 18 7 PART.RLB_CMD 0x2)
    ∧ ((put pc [(pPART 7, PART.PC_STAT.RLB_ACTIVE, 1), (pPART 7, PART.RLB_TMO.S, 1)]).looped 7 = true ∧ (put pc [(pPART 7, PART.RLB_TMO.S, 1)]).fld (pPART 7) PART.RLB_TMO.S ≠ 0)
    ∧ (reaches pc .sup 18 7 PART.PC_CTRL (pc.rd (pPART 7 + PART.PC_CTRL) &&& ~~~0x4))
    ∧ (reaches pc .sup 18 7 PART.FW_TX3 ((0xFFFF : BitVec 16).setWidth 32))
    ∧ (readable pc .sup (pPART 7 + PART.FW_RX + 12))
    ∧ (reaches pc .sup 18 7 PART.ID_CMD 0x1)
    ∧ ((((pcWith fun x => { x with serve := some (9, 0xFFFFFFFC, false, false) }).partSt 7).serve = some (9, 0xFFFFFFFC, false, false) ∧ pc.region .part (0xFFFFFFFC : Word).toNat = .none)
      ∧ (let s := pcWith fun x => { x with serve := some (9, 0xFFFFFFFC, false, false), order := 3 }; ∀ m, m < 8 → (s.partSt m).serve = none ∨ (s.partSt 7).order ≤ (s.partSt m).order))
    ∧ ((pc.region .part (pLRX 7 + HDR.EVT_MASK) = .page 9 7 HDR.EVT_MASK)
      ∧ (((pcWith fun x => { x with window := some (0, 0) }).partSt 7).window = some (0, 0) ∧ (put pc [(pCAL, uf (8 + 7) CAL.U_STAT.QUIET_OPEN, 1)]).quietOpen (8 + 7) = true))
    ∧ (((0 : Nat) ≤ ((pc.rd (pLTX 7 + LTX.FRAME_CNT)).toNat + 2 ^ 32 - 0) % 2 ^ 32)
      ∧ ((tx pc 3).cellsOn 7 = true ∧ ((tx pc 3).rd (pLTX 7 + LTX.FRAME_CNT)).toNat % 32 = 0 ∧ ((tx pc 3).ltxSt 7).rem = none))
    ∧ (((pcWith fun x => { x with rsp := [⟨9, 0, 0, 0, 0, false⟩] }).partSt 7).rsp = ⟨9, 0, 0, 0, 0, false⟩ :: [] ∧ (pc.partSt 7).leaving = none ∧ (pc.partSt 7).slot ≠ some 0) :=
  ⟨reaches_of (by decide +kernel),
   by decide +kernel,
   reaches_of (by decide +kernel),
   by decide +kernel,
   by decide +kernel,
   by decide +kernel,
   reaches_of (by decide +kernel),
   reaches_of (by decide +kernel),
   by decide +kernel,
   reaches_of (by decide +kernel),
   reaches_of (by decide +kernel),
   readable_of (by decide +kernel),
   reaches_of (by decide +kernel),
   by decide +kernel,
   by decide +kernel,
   by decide +kernel,
   by decide +kernel⟩

/-- The dawn channel of lane 7 may send. -/
def dw : State := (put (tx pc 2) [(pDAWN 7, DAWN.DW_CTRL.TX_EN, 1), (pDAWN 7, DAWN.DW_CTRL.AUTO_HELLO, 1)]).setInf (pLTX 7 + LTX.AMP_CTRL) 0x100
def hdr (type len rate : Nat) : State := wrs dw [(pDAWN 7 + DAWN.TX_HDR, BitVec.ofNat 32 (type + 256 * len + 65536 * rate))]
def dtx (sending : Bool) : State := dw.modDawn 7 fun x => { x with tx := some ⟨1, 0, 0, [], false, sending⟩ }

theorem witness_DawnTransmitter :
    ((dw.dawnSt 7).hello = false ∧ (dw.dawnSt 7).tx = none ∧ dw.dawnMay 7 = true)
    ∧ (reaches (hdr 255 64 2) .sup 19 7 DAWN.DW_CMD 0x01)
    ∧ (getBits ((hdr 255 64 2).rd (pDAWN 7 + DAWN.TX_HDR)) 0 8 ≠ 0 ∧ getBits ((hdr 255 64 2).rd (pDAWN 7 + DAWN.TX_HDR)) 8 8 ≤ 64 ∧ getBits ((hdr 255 64 2).rd (pDAWN 7 + DAWN.TX_HDR)) 16 2 ≠ 3)
    ∧ (getBits ((hdr 0 0 0).rd (pDAWN 7 + DAWN.TX_HDR)) 0 8 = 0 ∧ 64 < getBits ((hdr 1 65 0).rd (pDAWN 7 + DAWN.TX_HDR)) 8 8 ∧ getBits ((hdr 1 1 3).rd (pDAWN 7 + DAWN.TX_HDR)) 16 2 = 3)
    ∧ (((dtx false).dawnSt 7).tx.isSome = true ∧ (dtx true).pilotOn 7 = true)
    ∧ (reaches dw .sup 19 7 DAWN.DW_CMD 0x02)
    ∧ (reaches (dtx true) .sup 19 7 DAWN.DW_CMD 0x04)
    ∧ (reaches dw .sup 19 7 DAWN.DW_CMD 0x08)
    ∧ (reaches dw .sup 19 7 DAWN.DW_CMD 0x10)
    ∧ (((dtx false).dawnSt 7).tx = some ⟨1, 0, 0, [], false, false⟩)
    ∧ (dw.bit (pDAWN 7) DAWN.DW_CTRL.AUTO_HELLO = true ∧ dw.enabled (pDAWN 7) = true ∧ dw.fld (pDAWN 7) DAWN.DW_CTRL.HELLO_RATE ≠ 3) :=
  ⟨by decide +kernel,
   reaches_of (by decide +kernel),
   by decide +kernel,
   by decide +kernel,
   by decide +kernel,
   reaches_of (by decide +kernel),
   reaches_of (by decide +kernel),
   reaches_of (by decide +kernel),
   reaches_of (by decide +kernel),
   by decide +kernel,
   by decide +kernel⟩

/-- The receiver in a state, a packet of a metric before it, over a noise floor 63.75 dB below full depth. -/
def drx (st metric : Nat) : State := (put dw [(pDAWN 7, DAWN.DW_STAT.RX_STATE, st), (pDAWN 7, DAWN.DW_CTRL.RX_RATES, 7), (pDAWN 7, DAWN.NOISE.FLOOR, 769)]).modDawn 7
  fun x => { x with rx := { x.rx with metric := metric } }
/-- Full pilot depth at the highest rate. -/
def det : Detection := ⟨2, 1000000, 1, 2, false⟩
theorem witness_dawn_header :
    crc8 88 (dawnHead 1 64 0 5) = (BitVec.ofNat 8 (crc8 88 (dawnHead 1 64 0 5))).toNat
      ∧ crc8 88 (dawnHead 1 64 0 Config.devId) = (BitVec.ofNat 8 (crc8 88 (dawnHead 1 64 0 Config.devId))).toNat
      ∧ ∃ src, src ≠ Config.devId ∧ crc8 88 (dawnHead 1 64 0 src) = (BitVec.ofNat 8 (crc8 88 (dawnHead 1 64 0 src))).toNat := by
  have h : ∀ v, crc8 88 v = (BitVec.ofNat 8 (crc8 88 v)).toNat := crc8_fits 88
  refine ⟨h _, h _, ?_⟩
  by_cases hd : (5 : BitVec 64) = Config.devId
  · exact ⟨6, fun h6 => absurd (hd.trans h6.symm) (by decide), h _⟩
  · exact ⟨5, hd, h _⟩

theorem witness_DawnReceiver :
    (reaches dw .sup 19 7 DAWN.DW_CTRL (dw.rd (pDAWN 7 + DAWN.DW_CTRL) ||| 0x1))
    ∧ (dw.fld (pDAWN 7) DAWN.DW_CTRL.HELLO_RATE ≠ 3 ∧ dw.dawnState 7 = 0 ∧ dw.noon = true ∧ dw.enabled (pDAWN 7) = true ∧ 3 ≤ dw.upStage ∧ 7 < dw.lines)
    ∧ (reaches dw .sup 19 7 DAWN.DW_CTRL (dw.rd (pDAWN 7 + DAWN.DW_CTRL) &&& ~~~0x1))
    ∧ ((((drx 1 0).fld (pDAWN 7) DAWN.DW_CTRL.RX_RATES).testBit 2 = true ∧ (drx 1 0).dawnThr 7 2 ≤ (drx 1 0).dawnMetric 7 det ∧ (drx 1 0).dawnMetric 7 det = 255 ∧ det.own = false)
      ∧ ((drx 2 254).dawnMetric 7 det = 255 ∧ (drx 4 231).dawnMetric 7 det = 255 ∧ (drx 4 232).dawnMetric 7 det = 255)
      ∧ (ones 32 ((0x6D3A0E5C : Word).toNat ^^^ 0x6D3A0E5B) ≤ 3))
    ∧ (((drx 1 0).dawnState 7 = 1 ∧ (drx 2 254).dawnState 7 = 2 ∧ ((drx 2 254).dawnSt 7).rx.metric + 1 ≤ 255 ∧ ((drx 4 231).dawnSt 7).rx.metric + 24 ≤ 255)
      ∧ ((drx 4 232).dawnState 7 = 4 ∧ 255 < ((drx 4 232).dawnSt 7).rx.metric + 24 ∧ ((drx 4 232).dawnSt 7).cand = none ∧ (drx 3 0).dawnState 7 = 3)
      ∧ (¬ crc8 88 (dawnHead 1 64 0 5) = ((BitVec.ofNat 8 (crc8 88 (dawnHead 1 64 0 5) + 1)) : Byte).toNat))
    ∧ ((crc16 96 ((0 * 2 ^ 8 + crc8 88 0) * 256 ^ 0 + beNat []) = (BitVec.ofNat 16 (crc16 96 ((0 * 2 ^ 8 + crc8 88 0) * 256 ^ 0 + beNat []))).toNat)
      ∧ ((drx 4 0).dawnDup 7 ((drx 4 0).dawnSt 7).rx = false ∧ ((drx 4 0).dawnSt 7).queue.length < 4)
      ∧ (((drx 4 0).modDawn 7 fun x => { x with srcs := [(0, 0, 0)] }).dawnDup 7 ((drx 4 0).dawnSt 7).rx = true))
    ∧ ((4 ≤ (((drx 4 0).modDawn 7 fun x => { x with queue := List.replicate 4 x.rx }).dawnSt 7).queue.length)
      ∧ ((drx 1 0).brownOut = false)) :=
  ⟨reaches_of (by decide +kernel),
   by decide +kernel,
   reaches_of (by decide +kernel),
   by decide +kernel,
   by decide +kernel,
   by decide +kernel,
   by decide +kernel⟩

/-- The clock runs. -/
def ticking (s : State) : State := { s with time := { s.time with running := true } }
def quality (q : Nat) : State := put up [(pTIME, TIME.TM_STAT.QUALITY, q)]

theorem witness_TimeCounterAndSteering :
    ((ticking up).pending = [] ∧ (ticking up).pwr.hold = false ∧ (ticking up).time.running = true ∧ (ticking up).time.ops = [] ∧ (ticking up).ppsReady = false)
    ∧ (0 < (ticking up).incr ∧ (ticking up).time.now < 2 ^ 80)
    ∧ (up.cascTimed = false)
    ∧ (reaches up .sup 20 0 TIME.INCR_INT ((0 : BitVec 8).setWidth 32))
    ∧ (reaches up .sup 20 0 TIME.INCR_INT ((0xFF : BitVec 8).setWidth 32))
    ∧ (6868511700 ≤ (1 : Nat) * 2 ^ 32 + 2576980377 ∧ (1 : Nat) * 2 ^ 32 + 2576980377 ≤ 6875383647)
    ∧ (reaches up .sup 20 0 TIME.TM_CMD 0x1)
    ∧ (reaches up .sup 20 0 TIME.TM_CMD 0x2)
    ∧ (reaches up .sup 20 0 TIME.TM_CMD 0x4)
    ∧ ((quality 4).quality = 4 ∧ (quality 3).quality = 3 ∧ up.quality ≠ 3)
    ∧ (reaches up .sup 20 0 TIME.TM_CMD (BitVec.ofNat 32 (0x80 + 16 * 5)))
    ∧ (reaches up .sup 20 0 TIME.TM_CMD (BitVec.ofNat 32 (0x80 + 16 * 6)))
    ∧ (reaches (quality 3) .sup 20 0 TIME.TM_CTRL 0x10000)
    ∧ ({ lit with time := { lit.time with asleep := true } }.time.asleep = true ∧ { lit with time := { lit.time with asleep := true } }.refOk = true)
    ∧ (lit.fld pPWR PWR.PWR_STAT.STATE ≠ 2 ∧ lit.fld pPWR PWR.PWR_STAT.STATE ≠ 3) :=
  ⟨by decide +kernel,
   by decide +kernel,
   by decide +kernel,
   reaches_of (by decide +kernel),
   reaches_of (by decide +kernel),
   by decide +kernel,
   reaches_of (by decide +kernel),
   reaches_of (by decide +kernel),
   reaches_of (by decide +kernel),
   by decide +kernel,
   reaches_of (by decide +kernel),
   reaches_of (by decide +kernel),
   reaches_of (by decide +kernel),
   by decide +kernel,
   by decide +kernel⟩

def ppsUp : State := ticking (put up [(pTIME, TIME.TM_CTRL.PPS_OUT_EN, 1), (pTIME, TIME.TM_STAT.PPS_ARMED, 1), (pTIME, TIME.TM_CTRL.PPS_IN_EN, 1),
  (pTIME, TIME.TM_CTRL.SOURCE, 2), (pTIME, TIME.TM_STAT.QUALITY, 3)])
/-- Lane 7 asks for the time, and many cells have gone. -/
def ttUp : State := (put pc [(pTIME, bitAt TIME.TT_CTRL 7, 1)]).modTt 7 fun x => { x with cells := 2 ^ 19 }
def uart (tx rx : List Byte) : State := { up with time := { up.time with todTx := tx, todRx := rx } }

theorem witness_PpsTimeOfDayAndTransfer :
    (reaches up .sup 20 0 TIME.PPS_NEXT_WRAPS ((0xFFFF : BitVec 16).setWidth 32))
    ∧ (ppsUp.time.ops = [] ∧ 0 < ppsUp.incr ∧ { ppsUp with time := { ppsUp.time with ppsOut := true } }.time.ppsOut = true ∧ ppsUp.time.ppsOut = false)
    ∧ ({ up with time := { up.time with todArm := true } }.time.todArm = true ∧ up.time.todArm = false)
    ∧ (ppsUp.ppsReady = true ∧ ppsUp.bit pTIME TIME.TM_CTRL.PPS_IN_EN = true ∧ ppsUp.time.running = true)
    ∧ (ppsUp.fld pTIME TIME.TM_CTRL.SOURCE = 2 ∧ ppsUp.quality = 3)
    ∧ (readable up .sup (pTIME + TIME.PPS_IN_HI))
    ∧ (reaches up .sup 20 0 TIME.TOD_TX ((0xFF : Byte).setWidth 32))
    ∧ ((uart [] []).time.todTx.length < 64 ∧ 64 ≤ (uart (List.replicate 64 0) []).time.todTx.length)
    ∧ ((uart [] []).time.todRx.length < 64 ∧ 64 ≤ (uart [] (List.replicate 64 0)).time.todRx.length)
    ∧ (readable up .sup (pTIME + TIME.TOD_RX))
    ∧ ((uart [] [5]).time.todRx = 5 :: [] ∧ (uart [] []).time.todRx = [])
    ∧ ((ttUp.rd (pTIME + TIME.TT_CTRL)).getLsbD 7 = true ∧ ttUp.m400 = true ∧ 16 * 2 ^ getBits (ttUp.rd (pTIME + TIME.TT_CTRL)) 16 4 ≤ (ttUp.tt 7).cells)
    ∧ (((up.modTt 7 fun x => { x with awaiting := true }).tt 7).awaiting = true)
    ∧ (readable up .sup (pTIME + TIME.TT_INFO + 32 * 7)) :=
  ⟨reaches_of (by decide +kernel),
   by decide +kernel,
   by decide +kernel,
   by decide +kernel,
   by decide +kernel,
   readable_of (by decide +kernel),
   reaches_of (by decide +kernel),
   by decide +kernel,
   by decide +kernel,
   readable_of (by decide +kernel),
   by decide +kernel,
   by decide +kernel,
   by decide +kernel,
   readable_of (by decide +kernel)⟩

/-- Unit 0 may step: lane 0 at EQ, served by engine 0, CAL enabled. -/
def calib : State := put (wrs run0 [(pCLU 0 + CLU.CP_OWN, 0x100)]) [(pLRX 0, LRX.LN_STAT.STATE, 4), (pCAL, CAL.CAL_CTRL.EN, 1), (pCAL, CAL.CAL_CTRL.MON_EN, 1)]
def spare0 (s : State) (sp : Nat) : State := s.setFld (mapBase 0) smSpare sp
def step0 (phase passes : Nat) (todo : Nat) : State := (put calib [(pCAL, uf 0 CAL.U_STAT.PHASE, phase), (pCAL, uf 0 CAL.U_STAT.SLICE, 0)]).modCal 0
  fun x => { x with passes := passes, todo := todo }
/-- The two results of the offset lie far apart. -/
def apart0 : State := wrs (step0 4 2 15) [(pCAL + CAL.RES_OFS, 0x00640000)]

theorem witness_CalibrationSteps :
    (calib.canStep 0 = true)
    ∧ (reaches calib .sup 11 0 (CAL.U_CMD + 4 * 0) 0x1)
    ∧ (((spare0 calib 31).spare 0 = 31 ∧ (spare0 calib 31).canStep 0 = true)
      ∧ ((spare0 calib 16).spare 0 ≠ 31 ∧ ((calib.modCal 0 fun x => { x with revisit := 2 ^ 16 }).calSt 0).revisit.testBit 16 = true))
    ∧ ((((calib.modCal 0 fun x => { x with suspect := 2 ^ 16 }).calSt 0).suspect.testBit 16 = true ∧ (calib.calSt 0).revisit.testBit 16 = false)
      ∧ ((0 : Nat) ∈ calib.serving 0))
    ∧ (((step0 1 0 0).phase 0 = 1 ∧ ((step0 1 0 0).calSt 0).quiet = 0)
      ∧ ((step0 2 0 0).phase 0 = 2 ∧ ((step0 2 0 0).calSt 0).wait = 0))
    ∧ (((800 : Int).natAbs ≤ 800 ∧ (-300 : Int).natAbs ≤ 300 ∧ (24000 : Int).natAbs ≤ 24000 ∧ 800 < (-801 : Int).natAbs)
      ∧ ((step0 3 0 15).phase 0 = 3 ∧ ((step0 3 0 15).calSt 0).passes < 2 ∧ (step0 4 1 15).phase 0 = 4 ∧ ((step0 4 1 15).calSt 0).passes = 1))
    ∧ (reaches (step0 4 2 15) .sup 11 0 (CAL.U_CMD + 4 * 0) 0x2)
    ∧ ((step0 4 2 15).unitHere 0 = true ∧ (step0 4 2 15).phase 0 = 4 ∧ ((step0 4 2 15).calSt 0).passes = 2 ∧ ((step0 4 2 15).calSt 0).wait = 0)
    ∧ (((step0 4 2 15).calSt 0).failA = 0 ∧ ((step0 4 2 15).calSt 0).failB = 0 ∧ ((step0 4 2 15).calSt 0).bad = 0 ∧ ((step0 4 2 15).calSt 0).acc = [])
    ∧ (((step0 4 2 15).calSt 0).dead = false ∧ (step0 4 2 15).visited 0 < 17 ∧ (step0 4 2 15).brownOut = false ∧ ((step0 4 2 15).calSt 0).retireCmd = [])
    ∧ (∀ i, i < 4 → (((step0 4 2 15).results 0 i).1 - ((step0 4 2 15).results 0 i).2).natAbs ≤ [6, 15, 3, 5].getD i 0)
    ∧ (reaches apart0 .sup 11 0 (CAL.U_CMD + 4 * 0) 0x2)
    ∧ (∃ i, i < 4 ∧ (apart0.calSt 0).todo.testBit i = true ∧ ¬ ((apart0.results 0 i).1 - (apart0.results 0 i).2).natAbs ≤ [6, 15, 3, 5].getD i 0)
    ∧ ((put apart0 [(pCAL, CAL.RETRY_CFG.RETRIES, 1)]).fld pCAL (uf 0 CAL.U_STAT.RETRY) < (put apart0 [(pCAL, CAL.RETRY_CFG.RETRIES, 1)]).fld pCAL CAL.RETRY_CFG.RETRIES)
    ∧ ((put apart0 [(pCAL, CAL.RETRY_CFG.RETRIES, 0)]).fld pCAL CAL.RETRY_CFG.RETRIES ≤ (put apart0 [(pCAL, CAL.RETRY_CFG.RETRIES, 0)]).fld pCAL (uf 0 CAL.U_STAT.RETRY)) :=
  ⟨by decide +kernel,
   reaches_of (by decide +kernel),
   by decide +kernel,
   by decide +kernel,
   by decide +kernel,
   by decide +kernel,
   reaches_of (by decide +kernel),
   by decide +kernel,
   by decide +kernel,
   by decide +kernel,
   by decide +kernel,
   reaches_of (by decide +kernel),
   (⟨0, by decide +kernel⟩),
   by decide +kernel,
   by decide +kernel⟩

theorem witness_SparingMonitorAndReference :
    (reaches up .sup 11 0 (CAL.U_CMD + 4 * 15) (BitVec.ofNat 32 (0x10 + 256 * 16)))
    ∧ (up.unitHere 15 = true ∧ up.sliceRetired 15 16 = false ∧ (up.visited 15 = 16 → up.phase 15 = 0) ∧ up.calOut 15 ≠ 16)
    ∧ ({ up with variant := 2 }.unitHere 15 = false ∧ (up.setFld (mapBase 15) (smRet 16) 1).sliceRetired 15 16 = true)
    ∧ (up.spare 15 = 16)
    ∧ ((up.setFld (mapBase 15) smSpare 31).spare 15 = 31)
    ∧ (reaches up .sup 11 0 (CAL.U_CMD + 4 * 15) (BitVec.ofNat 32 (0x10 + 256 * 0)))
    ∧ (up.spare 15 ≠ 0 ∧ up.unitRuns 15 = false ∧ (tx up 3).unitRuns 15 = true ∧ up.sliceRetired 15 0 = false ∧ up.calOut 15 ≠ 0 ∧ up.phase 15 = 0)
    ∧ (reaches up .sup 11 0 (CAL.U_CMD + 4 * 15) 0x4)
    ∧ (reaches up .sup 11 0 (CAL.U_CMD + 4 * 15) 0x8)
    ∧ (calib.monitors 0 = true ∧ (tx calib 3).monitors (8 + 7) = true)
    ∧ ((16 : Nat) ∉ (tx calib 3).serving (8 + 7) ∧ (15 : Nat) ∈ (tx calib 3).serving (8 + 7) ∧ ((tx calib 3).calSt (8 + 7)).suspect.testBit 15 = false)
    ∧ (let bias := (List.range 17).map fun k => if k = 15 then 4 else 10; 4 * (bias.getD 15 0 : Int) < median2 (((List.range 17).filter fun k => k != 15 && ((tx calib 3).serving (8 + 7)).contains k).map fun k => (bias.getD k 0 : Int)))
    ∧ ((put calib [(pCAL, uf 15 CAL.U_STAT.EXHAUSTED, 1)]).bit pCAL (uf 15 CAL.U_STAT.EXHAUSTED) = true)
    ∧ ((put calib [(pCAL, uf 0 CAL.U_STAT.PHASE, 1)]).phase 0 = 1 ∧ ((calib.modCal 0 fun x => { x with quiet := 2 }).calSt 0).quiet = 2)
    ∧ (reaches up .sup 11 0 CAL.CAL_CMD 0x1)
    ∧ ((put up [(pCAL, CAL.CAL_CTRL.REF_MODE, 1)]).fld pCAL CAL.CAL_CTRL.REF_MODE ≠ 0 ∧ up.enabled pCAL = true ∧ up.brownOut = false)
    ∧ ((put up [(pCAL, CAL.CAL_CTRL.REF_MODE, 0)]).fld pCAL CAL.CAL_CTRL.REF_MODE = 0 ∧ (put up [(pCAL, CAL.CAL_STAT.REF_BUSY, 1)]).bit pCAL CAL.CAL_STAT.REF_BUSY = true)
    ∧ ((put up [(pCAL, CAL.CAL_STAT.REF_BUSY, 1), (pCAL, CAL.CAL_CTRL.REF_MODE, 1)]).fld pCAL CAL.CAL_CTRL.REF_MODE = 1 ∧ (put up [(pCAL, CAL.CAL_STAT.REF_BUSY, 1), (pCAL, CAL.CAL_CTRL.REF_MODE, 2)]).fld pCAL CAL.CAL_CTRL.REF_MODE ≠ 1) :=
  ⟨reaches_of (by decide +kernel),
   by decide +kernel,
   by decide +kernel,
   by decide +kernel,
   by decide +kernel,
   reaches_of (by decide +kernel),
   by decide +kernel,
   reaches_of (by decide +kernel),
   reaches_of (by decide +kernel),
   by decide +kernel,
   by decide +kernel,
   by decide +kernel,
   by decide +kernel,
   by decide +kernel,
   reaches_of (by decide +kernel),
   by decide +kernel,
   by decide +kernel,
   by decide +kernel⟩

/-- A capture configuration that passes every check, and a state of capture. -/
def cfg (st : Nat) : State := put (wrs (rx 6) [(pCAP + CAP.DBASE, 0x40000000), (pCAP + CAP.DLEN, 0x4000), (pCAP + CAP.IBASE, 0x40004000),
  (pCAP + CAP.ILEN, 0x4000), (pCAP + CAP.KBASE, 0x40100000), (pCAP + CAP.LBASE, 0x40008000), (pCAP + CAP.LLEN, 0x4000),
  (pDRAM + DRAM.INIT_MAP, 0xFFFFFFFF)]) [(pCAP, CAP.CP_CTRL.LANE, 7), (pCAP, CAP.CP_STAT.STATE, st), (pCAP, CAP.CP_CTRL.TRIG_EN, 0x1F)]
def cf : CapFrame := ⟨[], 0⟩

theorem witness_CaptureStates :
    (reaches (cfg 0) .sup 24 0 CAP.CP_CMD (BitVec.ofNat 32 1))
    ∧ (reaches (cfg 4) .sup 24 0 CAP.CP_CMD (BitVec.ofNat 32 2))
    ∧ ((cfg 0).enabled pCAP = true ∧ (cfg 0).capState = 0 ∧ (cfg 0).capError = 0 ∧ (cfg 4).capState = 4 ∧ (cfg 4).capError = 0)
    ∧ ((cfg 1).capState = 1 ∧ (cfg 1).capError = 0 ∧ (cfg 2).capState = 2 ∧ (cfg 3).capState = 3 ∧ (cfg 5).capState = 5 ∧ up.capError ≠ 0 ∧ up.capState = 0)
    ∧ ((put up [(pCAP, HDR.FSTATE, 0)]).enabled pCAP = false)
    ∧ (((cfg 2).fld pCAP CAP.CP_CTRL.TRIG_EN).testBit 4 = true ∧ (cfg 2).capPause = 0 ∧ (up.fld pCAP CAP.CP_CTRL.TRIG_EN).testBit 4 = false)
    ∧ (reaches (cfg 2) .sup 24 0 CAP.CP_CMD 0x04)
    ∧ (reaches (cfg 3) .sup 24 0 CAP.CP_CMD 0x08)
    ∧ (reaches (cfg 0) .sup 24 0 CAP.CP_CMD 0x08)
    ∧ ((cfg 3).fld pCAP CAP.POST.FRAMES ≤ { (cfg 3).cap with post := 2 ^ 32 }.post)
    ∧ (reaches (cfg 4) .sup 24 0 CAP.CP_CMD 0x10)
    ∧ ({ (cfg 2) with cap := { (cfg 2).cap with cfg := [(CAP.CP_CTRL, 7)], trig := 4 } }.capLane = 7)
    ∧ ((cfg 2).cap.start = false ∧ cf.late.toNat = 0) :=
  ⟨reaches_of (by decide +kernel),
   reaches_of (by decide +kernel),
   by decide +kernel,
   by decide +kernel,
   by decide +kernel,
   by decide +kernel,
   reaches_of (by decide +kernel),
   reaches_of (by decide +kernel),
   reaches_of (by decide +kernel),
   by decide +kernel,
   reaches_of (by decide +kernel),
   by decide +kernel,
   by decide +kernel⟩

def ckpt0 : Ckpt := ⟨0, 0, 0, [], false, [], [], false, 0, false, RxPipe.init, InnerDec.init⟩
/-- A recording of one frame is held, with its checkpoint. -/
def held1 : State := { (cfg 4) with cap := { (cfg 4).cap with frames := 1, cfg := [(CAP.CP_CTRL, 7), (CAP.DBASE, 0x40000000), (CAP.DLEN, 0x4000),
  (CAP.IBASE, 0x40004000), (CAP.ILEN, 0x4000), (0x1000, 32)], ckpts := [ckpt0] } }
def playing (st : Nat) : State := put (wrs held1 [(pRPL + RPL.END_FRAME, 1)]) [(pRPL, RPL.RP_STAT.STATE, st)]
def export1 (busy : Nat) : State := put (wrs (cfg 0) [(pTRC + TRC.EXP_SRC, 0x40000000), (pTRC + TRC.EXP_LEN, 32)])
  [(pTRC, TRC.EXP_STAT.BUSY, busy), (pTRC, TRC.TRC_CTRL.MODE, 1), (pTRC, TRC.TRC_CTRL.EN, 1)]

theorem witness_ReplayExportAndTrace :
    (reaches (playing 0) .sup 25 0 RPL.RP_CMD 0x1)
    ∧ (((playing 0).enabled pRPL = true ∧ (playing 0).rpState = 0 ∧ (playing 3).rpState = 3 ∧ (playing 1).rpState = 1 ∧ (playing 2).rpState = 2)
      ∧ ((playing 0).capState = 4 ∧ (playing 0).capCfg CAP.CP_CTRL / 16 % 4 = 0 ∧ up.capState ≠ 4))
    ∧ (((playing 0).bit pRPL RPL.RP_CTRL.MODE = false ∧ (wrs (playing 0) [(pRPL + RPL.START_FRAME, 5)]).cap.ckpts.find? (fun c => c.frame == 5) = none)
      ∧ ((playing 0).cap.ckpts.find? (fun c => c.frame == 0) = some ckpt0 ∧ ((playing 0).recOf 0).isSome = true))
    ∧ ((ckpt0.step = ((playing 0).rd (pID + ID.STEP)).toNat % 2 ^ 16 ∨ 0 < ((playing 0).rd (pID + ID.STEP)).toNat % 2 ^ 16)
      ∧ ((playing 0).bit pCAP CAP.CP_STAT.LOG_LOST = false ∧ (playing 0).rpInSpan 0 = true ∧ ((playing 0).rd (pRPL + RPL.START_FRAME)).toNat = 0))
    ∧ (reaches (playing 1) .sup 25 0 RPL.RP_CMD 0x1)
    ∧ (reaches (playing 2) .sup 25 0 RPL.RP_CMD 0x2)
    ∧ (((playing 1).capPause = 0 ∧ (playing 1).rpl.frame = 0 ∧ (playing 1).recOf 0 = some 0 ∧ (playing 1).rpReadFails 0 = false)
      ∧ ({ (playing 1) with rpl := { (playing 1).rpl with frame := 9 } }.recOf 9 = none ∧ (put (playing 1) [(pDRAM, whole DRAM.INIT_MAP, 0)]).rpReadFails 0 = true))
    ∧ (({ (playing 1) with rpl := { (playing 1).rpl with lane := some ckpt0 } }.rpl.lane = some ckpt0 ∧ (playing 1).bit pRPL RPL.RP_CTRL.MODE = false)
      ∧ (((playing 1).recWord 0 2).testBit 16 = false ∧ (playing 1).rpl.stop = false))
    ∧ (((playing 2).rpEngines.all (playing 2).rpQuiet = true)
      ∧ ((put (playing 2) [(pRPL, RPL.RP_CTRL.ENG_MASK, 1), (pCLU 7, eCtrl 112 CLU.E_STAT.STATE, 1)]).rpEngines.all (put (playing 2) [(pRPL, RPL.RP_CTRL.ENG_MASK, 1), (pCLU 7, eCtrl 112 CLU.E_STAT.STATE, 1)]).rpQuiet = false))
    ∧ (reaches (export1 0) .sup 26 0 TRC.EXP_CMD 0x1)
    ∧ ((export1 0).enabled pTRC = true ∧ (export1 0).exporting = false ∧ ((export1 0).rd (pTRC + TRC.EXP_SRC)).toNat % 32 = 0 ∧ ((export1 0).rd (pTRC + TRC.EXP_LEN)).toNat % 32 = 0)
    ∧ (((wrs (export1 0) [(pTRC + TRC.EXP_LEN, 33)]).rd (pTRC + TRC.EXP_LEN)).toNat % 32 ≠ 0)
    ∧ (reaches (export1 1) .sup 26 0 TRC.EXP_CMD 0x2)
    ∧ ((export1 1).exporting = true ∧ (export1 1).fld pTRC TRC.TRC_CTRL.MODE = 1 ∧ (export1 1).bit pTRC TRC.TRC_CTRL.EN = true)
    ∧ ({ (export1 1).trc with cancel := true }.cancel = true ∧ (export1 1).trc.cancel = false ∧ (wrs (export1 1) [(pTRC + TRC.EXP_LEN, 0)]).rd (pTRC + TRC.EXP_LEN) = 0)
    ∧ (0 < ((export1 1).rd (pTRC + TRC.EXP_LEN)).toNat - (export1 1).trc.ofs ∧ (export1 1).inDram 0x40000000 32 = true)
    ∧ (clean ((export1 1).writeWord 0 0 5) 0 ((0x40000000 - 0x40000000) / 32) 5)
    ∧ (reaches up .sup 26 0 TRC.ALIGN ((0xF : BitVec 4).setWidth 32))
    ∧ (reaches up .sup 26 0 TRC.ALIGN ((0xF : BitVec 4).setWidth 32 <<< 4))
    ∧ ((List.replicate 64 (specialGroup false .marker).1).getLast? = some (specialGroup false .marker).1 ∧ lastMarker (List.replicate 64 (specialGroup false .marker).1) = some 63)
    ∧ (((List.replicate 64 (specialGroup false .marker).1).drop (64 - 64)).all isGroup = true ∧ lastMarker [0] = none)
    ∧ ((put up [(pTRC, TRC.TRC_CTRL.MODE, 2), (pTRC, TRC.TRC_CTRL.EN, 1)]).trcRx = true ∧ up.casc.fwds = []) :=
  ⟨reaches_of (by decide +kernel),
   by decide +kernel,
   by decide +kernel,
   by decide +kernel,
   reaches_of (by decide +kernel),
   reaches_of (by decide +kernel),
   by decide +kernel,
   by decide +kernel,
   by decide +kernel,
   reaches_of (by decide +kernel),
   by decide +kernel,
   by decide +kernel,
   reaches_of (by decide +kernel),
   by decide +kernel,
   by decide +kernel,
   by decide +kernel,
   clean_of (by decide +kernel),
   reaches_of (by decide +kernel),
   reaches_of (by decide +kernel),
   by decide +kernel,
   by decide +kernel,
   by decide +kernel⟩

/-- A power state, with the phase of its entry. -/
def pow (st phase : Nat) : State := let s := put up [(pPWR, PWR.PWR_STAT.STATE, st)]; { s with pwr := { s.pwr with phase := phase } }
def powered (st latch : Nat) : State := let s := pow st 0; { s with pwr := { s.pwr with latch := latch } }
theorem levels_of {s : State} {w : Bool} (h : (s.rd (pPWR + PWR.WAKE_EN)).getLsbD 8 = false) :
    s.levels w = if w && (s.rd (pPWR + PWR.WAKE_EN)).getLsbD 0 then 1 else 0 := by
  simp only [State.levels, h, Bool.and_false, Bool.false_eq_true, if_false, Nat.add_zero]
def supply (n : Nat) : State := put up [(pPWR, PWR.BO_STAT.STATE, n)]

theorem witness_PowerStatesAndBrownOut :
    (reaches up .sup 1 0 PWR.MODE (BitVec.ofNat 32 2))
    ∧ (reaches (pow 3 0) .sup 1 0 PWR.MODE (BitVec.ofNat 32 0))
    ∧ (reaches (pow 1 2) .sup 1 0 PWR.MODE (BitVec.ofNat 32 0))
    ∧ (up.pst = 0 ∧ (pow 3 0).pst = 3 ∧ (pow 2 0).pst = 2 ∧ (pow 1 2).pst = 1 ∧ (pow 1 2).pwr.phase = 2 ∧ (pow 4 0).pst = 4)
    ∧ ((put (pow 1 2) [(pPWR, PWR.PWR_STAT.HELD_V, 1)]).bit pPWR PWR.PWR_STAT.HELD_V = true)
    ∧ ((wrs (pow 1 2) [(pPWR + PWR.WAKE_EN, 1)]).pwr.latch ||| (wrs (pow 1 2) [(pPWR + PWR.WAKE_EN, 1)]).levels true ≠ 0)
    ∧ ((wrs (pow 1 2) [(pPWR + PWR.WAKE_EN, 8)]).pwr.latch ||| (wrs (pow 1 2) [(pPWR + PWR.WAKE_EN, 8)]).levels false = 0)
    ∧ (((pow 1 2).pwr.phase ≠ 0 ∧ ((wrs (pow 1 2) [(pPWR + PWR.WAKE_EN, 8)]).rd (pPWR + PWR.WAKE_EN)).getLsbD 3 = true)
      ∧ ((pow 1 4).pst = 1 ∧ (pow 1 4).pwr.phase = 4 ∧ (pow 1 5).pst = 1 ∧ (pow 1 5).pwr.phase = 5 ∧ (pow 1 5).bit pPWR PWR.PWR_STAT.HELD_V = false))
    ∧ ((((wrs (pow 1 5) [(pPWR + PWR.WAKE_EN, 0)]).rd (pPWR + PWR.WAKE_EN)).getLsbD 8 = false)
      ∧ (2 ≤ (pow 3 0).pst ∧ ((wrs (pow 3 0) [(pPWR + PWR.WAKE_EN, 9)]).rd (pPWR + PWR.WAKE_EN)).getLsbD 3 = true))
    ∧ ((¬ (up.pwr.phase ≠ 0 ∨ 2 ≤ up.pst))
      ∧ ((wrs (pow 3 0) [(pPWR + PWR.WAKE_TMR, 1)]).rd (pPWR + PWR.WAKE_TMR) ≠ 0))
    ∧ (reaches up .sup 1 0 PWR.PAD_REL 0x1)
    ∧ (reaches (pow 2 0) .sup 1 0 PWR.PAD_REL 0x1)
    ∧ (up.fld pPWR PWR.BO_STAT.STATE = 0 ∧ (supply 1).fld pPWR PWR.BO_STAT.STATE = 1 ∧ (supply 2).fld pPWR PWR.BO_STAT.STATE = 2)
    ∧ ((put up [(pSUP, SUP.SUP_STAT.ACT_STATE, 1)]).act = 1 ∧ (put up [(pSUP, SUP.SUP_STAT.ACT_STATE, 3)]).act = 3) :=
  ⟨reaches_of (by decide +kernel),
   reaches_of (by decide +kernel),
   reaches_of (by decide +kernel),
   by decide +kernel,
   by decide +kernel,
   (by rw [levels_of (by decide +kernel)]; decide +kernel),
   (by rw [levels_of (by decide +kernel)]; decide +kernel),
   by decide +kernel,
   by decide +kernel,
   by decide +kernel,
   reaches_of (by decide +kernel),
   reaches_of (by decide +kernel),
   by decide +kernel,
   by decide +kernel⟩

def coldHeld : State := { up with pwr := { up.pwr with hold := true } }
def grp (l : List Nat) : State := { put up [(pRST, RST.GRP_STAT.BUSY, 1)] with pwr := { up.pwr with groups := l } }
def locked (f : Fld) : State := put lit [(pCLK, f, 1)]

theorem witness_ResetsClocksAndTemperature :
    (up.pwr.hold = false ∧ coldHeld.pwr.hold = true ∧ (put coldHeld [(pLCS, LCS.LCS_STAT.STATE, 4)]).lcs = 4 ∧ coldHeld.lcs ≠ 4)
    ∧ (reaches up .sup 3 0 RST.RST_CMD 0xA502)
    ∧ (reaches up .sup 3 0 RST.RST_CMD (BitVec.ofNat 32 (256 * (0xA4 : Byte).toNat + 2)))
    ∧ (reaches up .sup 3 0 RST.RST_CMD (BitVec.ofNat 32 (256 * (0xA4 : Byte).toNat + 1)))
    ∧ (reaches up .sup 3 0 RST.RST_CMD 0xA501)
    ∧ (up.pst = 0 ∧ up.casc.fwds = [] ∧ { up.pwr with warm := true }.warm = true)
    ∧ (reaches up .sup 3 0 RST.GRP_CMD 0x100)
    ∧ (reaches up .sup 3 0 RST.GRP_CMD 0x12A)
    ∧ (reaches (pow 2 0) .spi 3 0 RST.GRP_CMD 0x100)
    ∧ (((0x100 : Word).getLsbD 8 = true ∧ up.bit pRST RST.GRP_STAT.BUSY = false ∧ (pow 2 0).pst ≠ 0)
      ∧ (getBits (0x12A : Word) 0 6 = 42 ∧ up.groupHere 42 = true ∧ up.groupInUse 42 = false ∧ up.groupHere 43 = false))
    ∧ (((port7 up 1).groupHere 7 = true ∧ (port7 up 1).groupInUse 7 = true)
      ∧ ((grp [7]).pwr.groups ≠ [] ∧ ¬ (40 ∈ (grp [7]).pwr.groups ∧ (grp [7]).stage = 0)))
    ∧ ((lit.refOk = true ∧ (put up [(pCLK, CLK.CLK_STAT.REFCLK_OK, 0)]).refOk = false)
      ∧ ((locked (bitAt CLK.LOCK0 15)).bit pCLK (bitAt CLK.LOCK0 (8 + 7)) = true ∧ up.bit pCLK (bitAt CLK.LOCK0 (8 + 7)) = false))
    ∧ (({ lit with unlocked := 2 ^ 15 }.unlocked.testBit (8 + 7) = true ∧ lit.portOfLine 7 = none)
      ∧ ((locked CLK.LOCK0.TIME).bit pCLK CLK.LOCK0.TIME = true ∧ (locked CLK.LOCK0.TRACE).bit pCLK CLK.LOCK0.TRACE = true))
    ∧ ((up.hasCluster 15 = true ∧ ((wrs up [(pCLK + CLK.CG_CTRL, 0x8000)]).rd (pCLK + CLK.CG_CTRL)).getLsbD 15 = true ∧ up.idleCluster 15 = true)
      ∧ (run0.idleCluster 0 = false))
    ∧ (settled (put up [(pTHERM, THERM.TH_CTRL.XCHK_EN, 0)]))
    ∧ ((put up [(pTHERM, THERM.TH_CTRL.XCHK_EN, 0)]).bit pTHERM THERM.TH_CTRL.XCHK_EN = false)
    ∧ (∃ k, k < 24 ∧ (put up [(pTHERM, THERM.TH_CTRL.XCHK_EN, 0)]).broken k = false)
    ∧ (reaches up .sup 8 0 THERM.TS_CMD (BitVec.ofNat 32 (0x100 + 23))) :=
  ⟨by decide +kernel,
   reaches_of (by decide +kernel),
   reaches_of (by decide +kernel),
   reaches_of (by decide +kernel),
   reaches_of (by decide +kernel),
   by decide +kernel,
   reaches_of (by decide +kernel),
   reaches_of (by decide +kernel),
   reaches_of (by decide +kernel),
   by decide +kernel,
   by decide +kernel,
   by decide +kernel,
   by decide +kernel,
   by decide +kernel,
   settled_of (by decide +kernel),
   by decide +kernel,
   (⟨23, by decide +kernel⟩),
   reaches_of (by decide +kernel)⟩

/-- A state of the sequencer, with the fields of HK_CTRL it needs. -/
def hk (st : Nat) : State := put up [(pHKADC, HKADC.HK_STAT.STATE, st), (pHKADC, HKADC.HK_CTRL.CAL_EN, 1), (pHKADC, HKADC.HK_CTRL.REF_EN, 7),
  (pHKADC, bitAt HKADC.HK_STAT 20, 1), (pHKADC, bitAt HKADC.HK_STAT 21, 1), (pHKADC, bitAt HKADC.HK_STAT 22, 1), (pHKADC, bitAt HKADC.HK_STAT 24, 1),
  (pHKADC, bitAt HKADC.HK_STAT 27, 1)]
def refs : State := put (hk 2) [(pCAL, CAL.CAL_CTRL.HK_EN, 1)]
def hkWith (st : Nat) (f : HkSt → HkSt) : State := { hk st with hk := f (hk st).hk }

theorem witness_HousekeepingSequencer :
    (reaches (hk 0) .sup 28 0 HKADC.HK_CTRL ((hk 0).rd (pHKADC + HKADC.HK_CTRL) ||| 0x1))
    ∧ ((hk 0).hkState = 0 ∧ (hk 0).enabled pHKADC = true)
    ∧ (reaches (hk 3) .sup 28 0 HKADC.HK_CTRL ((hk 3).rd (pHKADC + HKADC.HK_CTRL) &&& ~~~0x1))
    ∧ ((hk 3).hkState = 3 ∧ (hk 3).seqIdle = true ∧ (hkWith 3 fun x => { x with busy := [(3, 31)] }).seqIdle = false)
    ∧ (reaches (hk 1) .sup 28 0 HKADC.HK_CMD 0x1)
    ∧ ((hk 1).hkState = 1 ∧ (hk 2).hkState = 2 ∧ (hk 4).hkState = 4 ∧ (hk 5).hkState = 5)
    ∧ ((hk 1).hkf HKADC.HK_TRIG.SRC ≠ 9 ∧ (put (hk 1) [(pHKADC, HKADC.HK_TRIG.SRC, 9)]).hkf HKADC.HK_TRIG.SRC = 9)
    ∧ ((hk 4).bit pHKADC HKADC.HK_STAT.TRIG_HELD = false ∧ (put (hk 4) [(pHKADC, HKADC.HK_STAT.TRIG_HELD, 1)]).bit pHKADC HKADC.HK_STAT.TRIG_HELD = true)
    ∧ (((put (hk 1) [(pHKADC, bitAt HKADC.TMR_CTRL 3, 1)]).rd (pHKADC + HKADC.TMR_CTRL)).getLsbD 3 = true ∧ (put (hk 1) [(pHKADC, HKADC.HK_TRIG.SRC, 4)]).hkf HKADC.HK_TRIG.SRC = 1 + 3)
    ∧ (reaches (hk 1) .sup 28 0 HKADC.HK_CMD 0x2)
    ∧ (reaches (hk 1) .sup 28 0 HKADC.HK_CMD 0x4)
    ∧ (((hkWith 4 fun x => { x with gap1 := false }).hk.gap1 = false ∧ (hkWith 4 fun x => { x with gap1 := true }).hk.gap1 = true ∧ (hk 4).brownOut = false)
      ∧ ({ (hk 4).hk with staged := [(pHKADC + HKADC.SLC_CORR, 5)] }.staged = [(pHKADC + HKADC.SLC_CORR, 5)])
      ∧ ((hkWith 3 fun x => { x with busy := [(3, 31)] }).subFree 3 = false ∧ (hk 3).subFree 3 = true))
    ∧ (((hkWith 3 fun x => { x with urg := some 0 }).urgDue = true ∧ (hkWith 3 fun x => { x with urg := some 0 }).subFree 0 = true)
      ∧ ((hk 3).urgDue = false ∧ (hk 3).seqDue = true ∧ (hk 1).subFree 0 = true ∧ (hk 1).seqDue = false ∧ (hk 1).urgDue = false)
      ∧ ((hk 1).bit pHKADC HKADC.HK_CTRL.CAL_EN = true))
    ∧ ((refs.hkState = 2 ∧ refs.subFree 0 = true ∧ refs.urgDue = false ∧ refs.seqDue = false ∧ refs.refDue = true)
      ∧ ((0 : Int) < 1 ∧ (hk 1).clockOf (clkHkRef 1) + 3125 ≤ { hk 1 with tick := 3125 }.tick)
      ∧ (Tbl.find (hkWith 3 fun x => { x with busy := [(3, 32)] }).hk.busy 3 = some 32 ∧ (hk 3).hk.stop = false ∧ Tbl.find (hk 3).hk.busy 3 = none))
    ∧ ((Tbl.find (hkWith 3 fun x => { x with busy := [(3, 0)] }).hk.busy 3 = some 0 ∧ (0 : Nat) = (hk 3).hkf HKADC.HK_CTRL.LAST)
      ∧ (avgOf ((hk 3).hkEntry 0) ≤ ((hk 3).hkRes 0).done + 1 ∧ ((hk 3).hkRes 0).sum + ((hk 3).hkConv 1 1).1.1 ≤ 4095 * avgOf ((hk 3).hkEntry 0) ∧ (hk 3).hk.queue.length < 256)
      ∧ (((hk 3).hkRes 0).done + 1 < avgOf ((wrs (hk 3) [(pHKADC + HKADC.SEQ, 0x300)]).hkEntry 0)))
    ∧ (reaches (hk 1) .sup 28 0 HKADC.URG_REQ (BitVec.ofNat 32 (31 + 32 * 2 + 256 * 3)))
    ∧ ((hk 1).hk.urg = none ∧ (hkWith 3 fun x => { x with urg := some 0 }).hk.urg ≠ none)
    ∧ (readable (hk 1) .sup (pHKADC + HKADC.RQ_HI))
    ∧ ((hkWith 1 fun x => { x with queue := [(1, 2)] }).hk.queue = (1, 2) :: [] ∧ (hk 1).hk.queue = [])
    ∧ ((hk 1).bit pHKADC (bitAt HKADC.HK_STAT (24 + 3)) = true ∧ (0x200 : BitVec 12).toInt.natAbs ≤ 512 ∧ (0xF38 : BitVec 12).toInt.natAbs ≤ 200)
    ∧ (512 < (0x201 : BitVec 12).toInt.natAbs ∧ 200 < (0xC9 : BitVec 12).toInt.natAbs)
    ∧ (((hk 1).hkf HKADC.HK_CTRL.REF_EN).testBit 2 = true ∧ ((hk 1).hkf HKADC.HK_CTRL.REF_EN).testBit 1 = true ∧ (hk 1).bit pHKADC (bitAt HKADC.HK_STAT 21) = true) :=
  ⟨reaches_of (by decide +kernel),
   by decide +kernel,
   reaches_of (by decide +kernel),
   by decide +kernel,
   reaches_of (by decide +kernel),
   by decide +kernel,
   by decide +kernel,
   by decide +kernel,
   by decide +kernel,
   reaches_of (by decide +kernel),
   reaches_of (by decide +kernel),
   by decide +kernel,
   by decide +kernel,
   by decide +kernel,
   by decide +kernel,
   reaches_of (by decide +kernel),
   by decide +kernel,
   readable_of (by decide +kernel),
   by decide +kernel,
   by decide +kernel,
   by decide +kernel,
   by decide +kernel⟩

/-- Channel 15 in a state, driving a code. -/
def cd (st out : Nat) : State := put up [(pCDAC, cdf 15 CDAC.CD_STAT.STATE, st), (pCDAC, cdf 15 CDAC.CD_STAT.OUT, out), (pCDAC, cdf 15 CDAC.CD_CTRL.EN, 1),
  (pCDAC, cdf 15 CDAC.CD_SLEW.STEP, 16)]
def cdOff : State := put (cd 0 0) [(pCDAC, cdf 15 CDAC.CD_CTRL.EN, 0)]
def cdEnds (out : Nat) : State := (cd 2 out).modCd 15 fun x => { x with target := 0, ending := true }

theorem witness_ControlDacDisableRampsAndEnableRestarts :
    (reaches (cd 1 100) .sup 29 0 (CDAC.CD_CTRL + 16 * 15) ((cd 1 100).rd (pCDAC + CDAC.CD_CTRL + 16 * 15) &&& ~~~0x1))
    ∧ (getBits ((cd 1 100).rd (pCDAC + CDAC.CD_CTRL + 16 * 15)) 16 10 ≤ 1000 ∧ ((cd 1 100).rd (pCDAC + CDAC.CD_CTRL + 16 * 15)).getLsbD 0 = true)
    ∧ ((cd 1 100).cdState 15 = 1 ∧ (cd 1 100).cdOut 15 ≠ 0 ∧ (cd 1 100).fld pCDAC (cdf 15 CDAC.CD_SLEW.STEP) ≠ 0)
    ∧ (3 ≤ (cd 3 0).cdState 15 ∧ (cd 1 0).cdOut 15 = 0)
    ∧ ((cdEnds 100).cdState 15 = 2 ∧ ((cdEnds 100).cdSt 15).target = 0 ∧ ((cdEnds 100).cdSt 15).ending = true)
    ∧ (16 < (cdInt ((cdEnds 17).cdSpan 15) ((cdEnds 17).cdOut 15)).natAbs ∧ (cdInt ((cdEnds 16).cdSpan 15) ((cdEnds 16).cdOut 15)).natAbs ≤ 16)
    ∧ (reaches cdOff .sup 29 0 (CDAC.CD_CTRL + 16 * 15) (cdOff.rd (pCDAC + CDAC.CD_CTRL + 16 * 15) ||| 0x1))
    ∧ (cdOff.cdState 15 = 0 ∧ cdOff.enabled pCDAC = true) :=
  ⟨reaches_of (by decide +kernel),
   by decide +kernel,
   by decide +kernel,
   by decide +kernel,
   by decide +kernel,
   by decide +kernel,
   reaches_of (by decide +kernel),
   by decide +kernel⟩

def cdQ (st : Nat) (l : List Nat) : State := (cd st 0).modCd 15 fun x => { x with queue := l }
def pwm (f : PwSt → PwSt) : State := (put up [(pPWM, bitAt PWM.PW_STAT 3, 1), (pPWM, pwf 3 PWM.PW_TRIG.TRIG_EN, 1), (pHKADC, HKADC.HK_TRIG.SRC, 8), (pHKADC, HKADC.HK_STAT.STATE, 1)]).modPw 3 f

theorem witness_ControlDacAndPwmOutputs :
    (reaches (cd 1 0) .sup 29 0 (CDAC.CD_CTRL + 16 * 15) (putBits ((cd 1 0).rd (pCDAC + CDAC.CD_CTRL + 16 * 15)) 4 2 3))
    ∧ (reaches cdOff .sup 29 0 (CDAC.CD_CTRL + 16 * 15) (putBits (cdOff.rd (pCDAC + CDAC.CD_CTRL + 16 * 15)) 4 2 3))
    ∧ (getBits (cdOff.rd (pCDAC + CDAC.CD_CTRL + 16 * 15)) 4 2 ≠ 3 ∧ cdOff.cdState 15 = 0 ∧ (cdOff.rd (pCDAC + CDAC.CD_CTRL + 16 * 15)).getLsbD 0 = false)
    ∧ (getBits ((cd 4 0).rd (pCDAC + CDAC.CD_CTRL + 16 * 15)) 4 2 ≠ 3 ∧ (cd 4 0).cdState 15 = 4 ∧ ((cd 4 0).cdSt 15).ending = false)
    ∧ (getBits ((cd 1 0).rd (pCDAC + CDAC.CD_CTRL + 16 * 15)) 4 2 = 0 ∧ (cd 1 0).cdState 15 ≠ 0 ∧ (cd 3 0).cdState 15 = 3)
    ∧ (reaches (cd 1 0) .sup 29 0 (CDAC.CD_Q + 16 * 15) ((0x3FFF : BitVec 14).setWidth 32))
    ∧ ((((cdQ 1 []).cdSt 15).queue.length < 16 ∧ 16 ≤ ((cdQ 1 (List.replicate 16 0)).cdSt 15).queue.length)
      ∧ (((cdQ 4 [16383]).cdSt 15).queue = 16383 :: [] ∧ (cdQ 4 [16383]).cdState 15 = 4 ∧ ((cdQ 1 []).cdSt 15).play = false))
    ∧ (((put (cdQ 1 []) [(pCDAC, cdf 15 CDAC.CD_CTRL.STREAM, 1)]).bit pCDAC (cdf 15 CDAC.CD_CTRL.STREAM) = true ∧ (cdQ 1 []).bit pCDAC (cdf 15 CDAC.CD_CTRL.STREAM) = false)
      ∧ ((cd 1 0).fld pCDAC (cdf 15 CDAC.CD_SLEW.STEP) ≠ 0))
    ∧ (((put (cd 1 0) [(pCDAC, bitAt CDAC.CD_SC 15, 1)]).bit pCDAC (bitAt CDAC.CD_SC 15) = true)
      ∧ ((put (cd 1 0) [(pCDAC, cdf 15 CDAC.CD_CTRL.SC_HIZ, 1)]).bit pCDAC (cdf 15 CDAC.CD_CTRL.SC_HIZ) = true))
    ∧ (reaches up .sup 30 0 (PWM.PW_DUTY + 16 * 3) ((0xFFFF : BitVec 16).setWidth 32))
    ∧ (((pwm id).pwRuns 3 = true ∧ up.pwRuns 3 = false ∧ up.pwPair 3 = false ∧ (up.pwSt (3 / 2 * 2)).pair = false ∧ (pwm id).pwPair 3 = false ∧ ((pwm id).pwSt (3 / 2 * 2)).pair = false)
      ∧ (((pwm fun x => { x with stop := true }).pwSt 3).stop = true ∧ ((pwm fun x => { x with next := some (5, 9) }).pwSt 3).next = some (5, 9)))
    ∧ ((((pwm fun x => { x with next := some (5, 9) }).pwSt 3).stop = false)
      ∧ (let s := pwm fun x => { x with per := 9 }; ¬ s.clockOf (clkPwm 3) + 4 * (s.pwSt 3).per < s.clockOf (clkDuty 3) + 8))
    ∧ ((let s := pwm fun x => { x with per := 1 }; s.clockOf (clkPwm 3) + 4 * (s.pwSt 3).per < s.clockOf (clkDuty 3) + 8)
      ∧ ((pwm id).bit pPWM (pwf 3 PWM.PW_TRIG.TRIG_EN) = true ∧ ((pwm fun x => { x with trig := 5 }).pwSt 3).trig < ((pwm fun x => { x with trig := 5 }).pwSt 3).per))
    ∧ ((pwm id).hkf HKADC.HK_TRIG.SRC = 5 + 3 ∧ (pwm id).hkState = 1 ∧ up.hkf HKADC.HK_TRIG.SRC ≠ 5 + 3)
    ∧ (reaches up .sup 30 0 PWM.PW_CTRL (up.rd (pPWM + PWM.PW_CTRL) ||| BitVec.ofNat 32 (2 ^ 3)))
    ∧ (up.enabled pPWM = true)
    ∧ (reaches up .sup 30 0 PWM.PW_CTRL (up.rd (pPWM + PWM.PW_CTRL) &&& ~~~(BitVec.ofNat 32 (2 ^ 3)))) :=
  ⟨reaches_of (by decide +kernel),
   reaches_of (by decide +kernel),
   by decide +kernel,
   by decide +kernel,
   by decide +kernel,
   reaches_of (by decide +kernel),
   by decide +kernel,
   by decide +kernel,
   by decide +kernel,
   reaches_of (by decide +kernel),
   by decide +kernel,
   by decide +kernel,
   by decide +kernel,
   by decide +kernel,
   reaches_of (by decide +kernel),
   by decide +kernel,
   reaches_of (by decide +kernel)⟩

/-- A container with one empty section and ENTRY at the start of bank 1: every check of R555 but the signature passes. -/
def container : List Byte := [0x54, 0x50, 0x46, 0x57, 1, 0, 0, 1, 0x40, 1, 0, 0, 9, 0, 0, 0, 0, 0, 0, 0, 0x0F, 0, 0x1F, 0, 0, 0, 1, 0, 0, 0, 2, 8]
  ++ List.replicate 288 0

theorem accept_of {s : State} {l : List Byte} (h : (l.take 4 == [0x54, 0x50, 0x46, 0x57] && leAt l 4 2 == 1 && leAt l 6 2 == 256 && lenOk l
      && decide (s.fld pLCS LCS.SECVER_FUSE.V ≤ leAt l 16 4) && (leAt l 20 1).testBit s.variant && decide (leAt l 21 1 ≤ 1)
      && (leAt l 22 1).testBit s.lcs && s.keyOk (leAt l 23 1) && (leAt l 26 2 != 0 && decide (leAt l 26 2 ≤ 12))
      && (decide (0x08020000 ≤ leAt l 28 4) && decide (leAt l 28 4 < 0x08080000))) = true)
    (hs : signed l (leAt l 8 4) (leAt l 23 1) = true) : s.accept l = 0 := by
  simp only [Bool.and_eq_true, beq_iff_eq, decide_eq_true_eq, bne_iff_ne, ne_eq] at h
  obtain ⟨⟨⟨⟨⟨⟨⟨⟨⟨⟨h1, h2⟩, h3⟩, h4⟩, h5⟩, h6⟩, h7⟩, h8⟩, h9⟩, h10, h11⟩, h12, h13⟩ := h
  simp [State.accept, h1, h2, h3, h4, h6, h8, h9, h10, hs, Nat.not_lt.mpr h5, Nat.not_lt.mpr h7, Nat.not_lt.mpr h11, Nat.not_lt.mpr h12, Nat.not_le.mpr h13]

/-- Firmware runs at an activation state, both banks holding the container. -/
def fw (act : Nat) : State := let s := put up [(pSUP, SUP.SUP_STAT.STAGE, 5), (pSUP, SUP.SUP_STAT.ACT_STATE, act), (pSUP, SUP.WD_CFG.TIMEOUT, 1), (pSUP, SUP.WD_CFG.WD_LIM, 2)]
  { s with boot := { s.boot with flash := { s.boot.flash with bankA := container, bankB := container } } }
def romWaits : State := put up [(pSUP, SUP.SUP_STAT.HOST_LOAD, 1)]
def supGroup : State := put { grp [40] with boot := { up.boot with work := some 0x40000000 } } [(pSUP, SUP.SUP_STAT.STAGE, 0)]
/-- A state whose DRAM holds the container at an address. -/
def holding (s : State) (a : Nat) : State := { s with mem := (List.range 320).map fun i => ⟨a + i, container.getD i 0⟩ }
/-- Stage 4, every engine in RUN. -/
def released : State := put up ((pSUP, SUP.SUP_STAT.STAGE, 4) :: (List.range 256).map fun k => (pCLU (k / 16), eCtrl k CLU.E_STAT.STATE, 1))
def downloaded (s : State) : State := wrs (holding s 0x42000000) [(pSUP + SUP.DL_LEN, 320)]

theorem witness_FirmwareDownloadsAndActivation :
    (reaches (fw 0) .spi 0 0 SUP.SUP_CMD 0x1)
    ∧ ((fw 3).act = 3 ∧ (fw 0).act = 0 ∧ (fw 2).act = 2 ∧ (fw 5).act = 5 ∧ (fw 1).act = 1)
    ∧ (romWaits.bit pSUP SUP.SUP_STAT.HOST_LOAD = true ∧ romWaits.accept romWaits.dlBytes ≠ 0 ∧ romWaits.act = 0)
    ∧ (signed container 320 0 = true → (downloaded romWaits).accept (downloaded romWaits).dlBytes = 0)
    ∧ ((fw 0).bit pSUP SUP.SUP_STAT.HOST_LOAD = false ∧ 2 ≤ (fw 0).stage ∧ (fw 0).stage ≤ 5 ∧ ¬ (2 ≤ up.stage ∧ up.stage ≤ 5) ∧ up.bit pSUP SUP.SUP_STAT.HOST_LOAD = false)
    ∧ ((put (fw 0) [(pPWR, PWR.BO_STAT.STATE, 1)]).brownOut = true ∧ (fw 0).brownOut = false)
    ∧ (reaches (fw 2) .spi 0 0 SUP.SUP_CMD 0x2)
    ∧ (signed container 320 0 = true → (fw 2).accept ((fw 2).boot.flash.bank (1 - (fw 2).boot.flash.active)) = 0)
    ∧ ((up.accept (up.boot.flash.bank (1 - up.boot.flash.active))) ≠ 0 ∧ (up.accept (up.boot.flash.bank up.boot.flash.prev)) ≠ 0)
    ∧ (reaches (fw 5) .spi 0 0 SUP.SUP_CMD 0x4)
    ∧ (reaches (fw 5) .spi 0 0 SUP.SUP_CMD 0x8)
    ∧ (signed container 320 0 = true → (fw 5).accept ((fw 5).boot.flash.bank (fw 5).boot.flash.prev) = 0)
    ∧ ((put up [(pSUP, SUP.SUP_STAT.ACT_STATE, 5)]).act = 5 ∧ (put up [(pSUP, SUP.SUP_STAT.ACT_STATE, 5)]).accept ((put up [(pSUP, SUP.SUP_STAT.ACT_STATE, 5)]).boot.flash.bank (put up [(pSUP, SUP.SUP_STAT.ACT_STATE, 5)]).boot.flash.prev) ≠ 0)
    ∧ ((fw 1).storeWork (fw 1).dlBytes ((fw 1).boot.flash.bank (fw 1).boot.flash.active) = .fail 1 true)
    ∧ (signed container 320 0 = true → (fw 1).storeWork container ((fw 1).boot.flash.bank (fw 1).boot.flash.active) = .image container)
    ∧ ((fw 0).wdOn = true ∧ (fw 0).boot.wdRun + 1 < (fw 0).wdLim ∧ (fw 0).wdLim ≤ { (fw 0).boot with wdRun := 1 }.wdRun + 1)
    ∧ (40 ∈ supGroup.pwr.groups ∧ supGroup.stage = 0 ∧ supGroup.boot.work = some 0x40000000)
    ∧ (signed container 320 0 = true → (holding supGroup 0x40000000).accept ((holding supGroup 0x40000000).containerAt 0x40000000) = 0)
    ∧ (2 ≤ released.stage ∧ released.stage ≤ 4 ∧ released.casc.loading = none ∧ ∀ k, k < 256 → released.hasCluster (k / 16) = true → released.coreState k ≠ 0) :=
  ⟨reaches_of (by decide +kernel),
   by decide +kernel,
   by decide +kernel,
   (fun h => by
  have e : (downloaded romWaits).dlBytes = container := by decide +kernel
  rw [e]
  exact accept_of (by decide +kernel) h),
   by decide +kernel,
   by decide +kernel,
   reaches_of (by decide +kernel),
   (fun h => accept_of (by decide +kernel) h),
   by decide +kernel,
   reaches_of (by decide +kernel),
   reaches_of (by decide +kernel),
   (fun h => accept_of (by decide +kernel) h),
   by decide +kernel,
   by decide +kernel,
   (fun h => by
  have e : (fw 1).accept container = 0 := accept_of (by decide +kernel) h
  rw [State.storeWork, if_neg (by decide), if_neg (by rw [e]; decide), show container.take (leAt container 8 4) = container by decide +kernel]),
   by decide +kernel,
   by decide +kernel,
   (fun h => by
  have e : (holding supGroup 0x40000000).containerAt 0x40000000 = container := by decide +kernel
  rw [e]
  exact accept_of (by decide +kernel) h),
   by decide +kernel⟩

/-- A life-cycle state, the key present or not. -/
def life (st key : Nat) : State := put up [(pLCS, LCS.LCS_STAT.STATE, st), (pLCS, LCS.LCS_STAT.KEY_PRESENT, key)]
def testing : State := { life 0 1 with boot := { up.boot with bist := some (3, 8) } }
def fusing (op : FuseOp) : State := { life 1 1 with boot := { up.boot with fuse := some op } }
def spared : State := { put (life 0 1) [(pBIST, BIST.FRPR_TGT.F24, 8), (pBIST, BIST.FRPR_TGT.V, 5)] with ms := { up.ms with spares := [(2 ^ 20 + 4 * 8, 5)] } }

theorem witness_IdentityLifeCycleFusesAndSelfTest :
    (reaches (life 0 1) .sup 7 0 ID.CH_CMD 0x1)
    ∧ ((put (life 0 1) [(pID, ID.CH_STAT.BUSY, 1)]).bit pID ID.CH_STAT.BUSY = true ∧ (life 0 1).bit pID ID.CH_STAT.BUSY = false ∧ (life 0 1).keyHere = true ∧ (life 0 0).keyHere = false)
    ∧ (reaches (life 1 1) .sup 7 0 ID.CERT_LEN ((1024 : BitVec 11).setWidth 32))
    ∧ ((life 1 1).lcs = 1 ∧ (life 1 1).rd (pID + ID.CERT_LEN) = 0 ∧ (life 0 1).lcs ≠ 1)
    ∧ (reaches (life 1 1) .sup 4 0 LCS.LCS_CMD (BitVec.ofNat 32 (256 * (0x5A : Byte).toNat + 4)))
    ∧ (reaches (life 1 1) .sup 4 0 LCS.LCS_CMD (BitVec.ofNat 32 (256 * (0x5B : Byte).toNat + 2)))
    ∧ ((life 1 1).lcsBar 4 = 0 ∧ (life 1 1).lcsBar 2 = 2 ∧ (wrs (life 1 1) [(pID + ID.CERT_LEN, 9)]).lcsBar 2 = 0 ∧ (life 1 1).lcsBar 3 = 1 ∧ (life 1 1).lcsBar 1 = 1)
    ∧ ((life 1 1).brownOut = false ∧ (life 1 1).boot.fuse = none ∧ (fusing (.lcs 4)).boot.fuse ≠ none ∧ (put (life 1 1) [(pPWR, PWR.BO_STAT.STATE, 1)]).brownOut = true)
    ∧ ((fusing (.lcs 4)).boot.fuse = some (.lcs 4) ∧ (fusing (.secver 32)).boot.fuse = some (.secver 32) ∧ (fusing (.repair 8 5 9)).boot.fuse = some (.repair 8 5 9))
    ∧ (reaches up .sup 4 0 LCS.SECVER_CMD ((32 : BitVec 6).setWidth 32))
    ∧ (up.master .sup = 2 ∧ up.fld pLCS LCS.SECVER_FUSE.V < 32 ∧ ¬ (33 : Nat) ≤ 32)
    ∧ (reaches (wrs up [(pPROT + PROT.MAP + 4 * 4, 0xFFF)]) .spi 4 0 LCS.SECVER_CMD ((32 : BitVec 6).setWidth 32))
    ∧ (up.master .spi ≠ 2)
    ∧ (reaches spared .sup 31 0 BIST.FRPR_CMD 0x1)
    ∧ (spared.lcsOpen = true ∧ spared.boot.fuse = none ∧ spared.frprSpare = (8, 5, some (2 ^ 20 + 4 * 8)) ∧ Tbl.find spared.boot.fused (2 ^ 20 + 4 * 8) = none ∧ spared.fusedSram < 16)
    ∧ (up.frprSpare.2.2 = none ∧ (life 1 1).lcsOpen = false)
    ∧ (reaches (life 0 1) .sup 31 0 BIST.BT_CMD (BitVec.ofNat 32 (0x10000 + 256 * 8 + 3)))
    ∧ (reaches (life 0 1) .sup 31 0 BIST.BT_CMD (BitVec.ofNat 32 (0x10000 + 256 * 0 + 7)))
    ∧ ((life 0 1).boot.bist = none ∧ (life 0 1).bistAllowed 3 = true ∧ (life 0 1).bistBarred 3 8 = false ∧ (life 0 1).bistBarred 3 9 = false ∧ (life 1 1).bistAllowed 3 = false)
    ∧ ((life 0 1).bistBarred 3 7 = true ∧ (life 0 1).bistBarred 2 40 = true ∧ testing.boot.bist ≠ none)
    ∧ (reaches testing .sup 31 0 BIST.BT_CMD 0x20000)
    ∧ (testing.boot.bist = some (3, 8) ∧ 1 ≤ 3 ∧ (8 - 8) % 3 = 0)
    ∧ ((5 : BitVec 64) = (wrs up [(pBIST + BIST.EXP_LO, 5), (pBIST + BIST.EXP_HI, 0)]).rd (pBIST + BIST.EXP_HI) ++ (wrs up [(pBIST + BIST.EXP_LO, 5), (pBIST + BIST.EXP_HI, 0)]).rd (pBIST + BIST.EXP_LO)) :=
  ⟨reaches_of (by decide +kernel),
   by decide +kernel,
   reaches_of (by decide +kernel),
   by decide +kernel,
   reaches_of (by decide +kernel),
   reaches_of (by decide +kernel),
   by decide +kernel,
   by decide +kernel,
   by decide +kernel,
   reaches_of (by decide +kernel),
   by decide +kernel,
   reaches_of (by decide +kernel),
   by decide +kernel,
   reaches_of (by decide +kernel),
   by decide +kernel,
   by decide +kernel,
   reaches_of (by decide +kernel),
   reaches_of (by decide +kernel),
   by decide +kernel,
   by decide +kernel,
   reaches_of (by decide +kernel),
   by decide +kernel,
   by decide +kernel⟩

/-- A cascade link on a master or a slave, up or not. -/
def link (slave : Bool) (linkUp : Nat) : State := { put up [(pTRC, TRC.TRC_CTRL.MODE, 2), (pTRC, TRC.TRC_CTRL.EN, 1), (pCASC, CASC.CC_CTRL.EN, 1), (pCASC, CASC.CC_STAT.LINK_UP, linkUp)]
  with slave := slave, casc := { up.casc with helloTx := true, rxSeq := 9, credit := 8 } }
def frame (addr : Nat) (l : List Byte) : CFrame := ⟨0, 9, 0, 8, 0, BitVec.ofNat 32 addr, 255, 5, l⟩
/-- The frame's own CRC. -/
def sealOf (f : CFrame) (n : Nat) : Word := BitVec.ofNat 32 (crc32 (frameBytes { f with type := n }))
def loads (s : State) : State := { s with casc := { s.casc with loading := some 255 } }
def forwards : State := { link false 1 with casc := { (link false 1).casc with fwds := [⟨255, .mdio, 0x18000000, true, none⟩] } }

theorem witness_CascadeFrames :
    (up.cascOn = false ∧ (link true 1).cascOn = true ∧ (link true 1).casc.unacked = [] ∧ (link true 1).casc.waiting = [] ∧ (link true 1).latchOpen = false)
    ∧ ((frame 0 []).credit ≠ 0 ∧ (0 : Word).toNat ≠ crc32 (frameBytes { frame 0 [] with type := 1 }))
    ∧ ((sealOf (frame 0 []) 9).toNat = crc32 (frameBytes { frame 0 [] with type := 9 }) ∧ (link true 1).linkUp = true ∧ ((frame 0 []).seq + 256 - (link true 1).casc.rxSeq) % 256 = 0)
    ∧ (idleGather (link false 1) .cascHost)
    ∧ (Tbl.get 0 (link false 1).cascStatus 5 = 0 ∧ (frame 0 []).master = 5)
    ∧ (reaches { link false 1 with regs := (wrs (link false 1) [(pPROT + PROT.MAP + 4 * 9, 0xFFF)]).regs } .cascHost 9 7 HDR.EVT_MASK 1)
    ∧ (((frame (pLRX 7 + HDR.EVT_MASK) (toBytes 4 1)).addr.toNat = pageAt 9 7 + HDR.EVT_MASK ∧ (frame (pLRX 7 + HDR.EVT_MASK) (toBytes 4 1)).payload = toBytes 4 (1 : Word).toNat)
      ∧ ((sealOf (frame (pLRX 7 + HDR.EVT_MASK) (toBytes 4 1)) 1).toNat = crc32 (frameBytes { frame (pLRX 7 + HDR.EVT_MASK) (toBytes 4 1) with type := 1 })))
    ∧ (((link false 1).region .cascHost (pLRX 7 + HDR.EVT_MASK) = .page 9 7 HDR.EVT_MASK)
      ∧ (forwards.casc.fwds.find? (fun x => x.tag == (frame 0 [1, 2, 3, 4]).tag) = some ⟨255, .mdio, 0x18000000, true, none⟩ ∧ (frame 0 [1, 2, 3, 4]).status = 0 ∧ forwards.casc.loading = none ∧ forwards.spi.inFrame = false))
    ∧ (((loads (link false 1)).slave = false ∧ (loads (link false 1)).casc.loading = some (frame 0 []).tag)
      ∧ ((link true 1).slave = true ∧ (frame 0x40000000 (List.replicate 32 7)).addr.toNat % 32 = 0 ∧ (link true 1).inDram 0x40000000 32 = true))
    ∧ ((link true 1).accept ((link true 1).containerAt 0x42000000) ≠ 0)
    ∧ (signed container 320 0 = true → (holding (link true 1) 0x42000000).accept ((holding (link true 1) 0x42000000).containerAt 0x42000000) = 0)
    ∧ (((link true 1).stage ≤ 1 ∧ { link true 1 with upStage := 3 }.upStage < 4)
      ∧ ((link true 0).linkUp = false ∧ (link true 0).casc.helloTx = true ∧ (sealOf (frame 0 []) 6).toNat = crc32 (frameBytes { frame 0 [] with type := 6 })))
    ∧ (({ (link true 1).casc with peerBoots := some 0 }.peerBoots = some (helloBoots (frame 0 (List.replicate 13 0))))
      ∧ (((frame 0 [1]).payload.headD 0).getLsbD 0 = true ∧ ((frame 0 [2]).payload.headD 0).getLsbD 0 = false))
    ∧ (((ticking (link true 1)).time.running = true ∧ (ticking (link true 1)).slave = true)
      ∧ ({ (link true 1).casc with unacked := [frame 0 []], resends := 14 }.unacked ≠ [] ∧ 14 + 1 < 16 ∧ 16 ≤ 15 + 1))
    ∧ ((wrs (link true 1) [(pLRX 0 + HDR.EVT_RAW, 0xFFFFFFFF), (pLRX 0 + HDR.EVT_MASK, 0)]).intA = true ∧ (link true 1).casc.unacked.length < 8 ∧ (link true 1).casc.credit ≠ 0) :=
  ⟨by decide +kernel,
   by decide +kernel,
   by decide +kernel,
   idle_of (by decide +kernel),
   by decide +kernel,
   reaches_of (by decide +kernel),
   by decide +kernel,
   by decide +kernel,
   by decide +kernel,
   by decide +kernel,
   (fun h => by
  have e : (holding (link true 1) 0x42000000).containerAt 0x42000000 = container := by decide +kernel
  rw [e]
  exact accept_of (by decide +kernel) h),
   by decide +kernel,
   by decide +kernel,
   by decide +kernel,
   by decide +kernel⟩

/-! ## Single steps

The expected values are those of the spec's worked examples and of its rules. -/

/-- The number that R161 gives over "123456789". -/
theorem test_crc16 : crc16 72 (beNat [0x31, 0x32, 0x33, 0x34, 0x35, 0x36, 0x37, 0x38, 0x39]) = 0x29B1 := by decide +kernel

/-- Event numbers named in R427: LOCK_LOST of LRX[3], SLICE_RETIRED of CAL; PROT_DENIED, HOST_BERR and PROP_PENDING in the example of
12_control_plane.md. -/
theorem test_event_numbers : evNum LRX.evLOCK_LOST 3 = 39 ∧ evNum CAL.evSLICE_RETIRED 0 = 321 ∧ evNum PROT.evPROT_DENIED 0 = 994
    ∧ evNum EVT.evHOST_BERR 0 = 988 ∧ evNum PROT.evPROP_PENDING 0 = 992 := by decide +kernel

/-- Frame 1 of the example of 12_control_plane.md: a write that the map refuses, with its record and both events at INT_A_N. -/
theorem test_refused_spi_write : after (exec (.spiWrite false 0x100A1054 [0x08000000]) up) (fun t =>
    t.rd (pEVT + EVT.HERR_ADDR) == 0x100A1054 && t.rd (pEVT + EVT.HERR_INFO) == 0x60000000) = true := by
  decide +kernel

/-- Frame 2 of that example: the leading status after the refused frame reads 0x59. -/
theorem test_leading_status : after (exec .spiStatus (wrs { up with spi := { up.spi with prevErr := some 6 } }
    [(pEVT + HDR.EVT_RAW, BitVec.ofNat 32 (2 ^ EVT.evHOST_BERR.bit))])) (fun t => t.spi.miso == [0x59]) = true := by decide +kernel

/-- The word of the example of 10_memory_ecc.md: channel 2, bank 1, row 1,679. -/
theorem test_dram_map : up.region .sup 0x5A3C7E40 = .mem 0 13755378 ∧ dramRow 13755378 = (2, 1, 1679) := by decide +kernel

/-- The taps of the example of 07_engines.md: G shifted right by 20, rounded; the tie goes away from zero. -/
theorem test_round : roundShift 11010048 20 = 11 ∧ roundShift 1258291 20 = 1 ∧ roundShift (-3073536) 20 = -3 := by decide +kernel

theorem test_add_wraps : after (exec (.add 0 1 2 (.imm 1)) (core run0 0 fun c => c.setG 2 0xFFFFFFFF)) (fun t =>
    (t.core 0).gr 1 == 0 && (t.core 0).pc == 4) = true := by decide +kernel

theorem test_adds_saturates : after (exec (.adds 0 1 2 (.imm 1)) (core run0 0 fun c => c.setG 2 0x7FFFFFFF)) (fun t =>
    (t.core 0).gr 1 == 0x7FFFFFFF) = true := by decide +kernel

theorem test_sra_sign : after (exec (.sra 0 2 2 (.imm 36)) (core run0 0 fun c => c.setG 2 0x80000000)) (fun t =>
    (t.core 0).gr 2 == 0xF8000000) = true := by decide +kernel

theorem test_cmp_signed : after (exec (.cmpLt 0 3 2 (.imm 0)) (core run0 0 fun c => c.setG 2 0xFFFFFFFF)) (fun t => (t.core 0).pred 3) = true
    ∧ after (exec (.cmpLtu 0 3 2 (.imm 0)) (core run0 0 fun c => c.setG 2 0xFFFFFFFF)) (fun t => (t.core 0).pred 3) = false := by decide +kernel

theorem test_vmul_saturates : after (exec (.vmul 0 0 1 (.vec 1)) (core run0 0 fun c => c.setV 1 fun _ => 0x8000)) (fun t =>
    (t.core 0).lane 0 7 == 0x7FFF) = true := by decide +kernel

theorem test_lb_extends : after (exec (.lb 0 2 1 0 []) ((runAt 0x13FFF).writeWord 10 0x7FF (0x80 * 2 ^ 56))) (fun t =>
    (t.core 0).gr 2 == 0xFFFFFF80) = true := by decide +kernel

theorem test_ld_low_first : after (exec (.ld 0 2 1 0 []) ((runAt 0x20008).writeWord 8 1 0x1111111122222222)) (fun t =>
    (t.core 0).gr 4 == 0x22222222 && (t.core 0).gr 5 == 0x11111111) = true := by decide +kernel

theorem test_branch_back : after (exec (.brT 0 0 0xFFFFFE) (core run0 0 fun c => { (c.setPred 0 true) with pc := 16 })) (fun t => (t.core 0).pc == 8) = true := by
  decide +kernel

theorem test_release : after (exec (.engineRelease .sup 17) up) (fun t => t.coreState 17 == 1 && (t.core 17).tbase == 0x200) = true := by
  decide +kernel

/-- One tick adds the nominal increment of 1.6 ns (R325: 0x01, 0x9999999A). -/
theorem test_tick : after (step (ticking up)) (fun t => t.time.now == 0x19999999A) = true := by decide +kernel

theorem test_event_clears_ones : after (exec (.evtClear .sup 9 3 0x8) (wrs up [(pLRX 3 + HDR.EVT_RAW, 0xC)])) (fun t =>
    t.rd (pLRX 3 + HDR.EVT_RAW) == 0x4) = true := by decide +kernel

theorem test_narrow_write : after (exec (.memoryWrite .sup 0x08000000 [1, 2, 3, 4]) up) (fun t =>
    t.byte 0x08000000 == some 0 && t.bit pMEM (bitAt HDR.EVT_RAW MEM.evNARROW_REJ.bit)) = true := by decide +kernel

/-- The CAL map of the example of 12_control_plane.md: RATIFY of proposal 7 puts the mask 0x0D into MAP[22]. -/
theorem test_ratify : after (exec (.ratify .sup 0x00070001) { put (proposed up 22 0xD) [(pPROT, PROT.PROP_STAT.STATE, 1), (pPROT, PROT.PROP_STAT.PROP_ID, 7)]
    with propFam := 22, propMask := 0xD }) (fun t => t.rd 0x10006158 == 0xD && t.rd (pPROT + PROT.PROP_STAT) == 0x00070002) = true := by
  decide +kernel

/-- The example of 09_time.md: TM_CMD.SYNCED reads LOCKED. -/
theorem test_synced : after (exec (.timeSynced .sup) up) (fun t => t.quality == 3) = true := by decide +kernel

theorem test_queue_overflow : after (exec (.cdQueueWrite .sup 15 1) (cdQ 1 (List.replicate 16 0))) (fun t =>
    t.bit pCDAC (bitAt CDAC.CD_QERR 15) && t.bit pCDAC (bitAt HDR.EVT_RAW CDAC.evQERR.bit)) = true := by decide +kernel

/-- SEQ[0] of the example of 14_housekeeping_converters.md: HK3, the internal reference, 4 conversions. -/
theorem test_sequence_entry : avgOf 0x0203 = 4 ∧ getBits (0x0203 : Word) 0 5 = 3 := by decide

theorem test_wrong_key : after (exec (.lcsToScrapped .sup 0x5B) (life 1 1)) (fun t => t.lcs == 1 && t.boot.fuse == none) = true := by decide +kernel

/-- FIPS 180-4's example of SHA-256: the digest of "abc". -/
theorem test_sha256 : beNat (sha256 [0x61, 0x62, 0x63]) = 0xba7816bf8f01cfea414140de5dae2223b00361a396177a9cb410ff61f20015ad := by decide +kernel

/-- Twice the base point of P-256, as published. -/
theorem test_point_doubled : ecAdd ecG ecG = some (0x7CF27B188D034F7E8A52380304B51AC3C08969E277F21B35A60B48FC47669978,
    0x07775510DB8ED040293D9AC69F7430DBBA7DADE63CE982299E04B79D227873D1) := by decide +kernel

/-- D21.5 and, at positive disparity, K28.5 of the published 8b/10b table. -/
theorem test_code_groups : dataGroup false 0xB5 = (0b1010101010, false) ∧ specialGroup true .idle = (0b1100000101, false) := by decide +kernel

/-- The output sample of the example of 03_line_transmitter.md: 84.0 codes and an entry of -1.5 give 83. -/
theorem test_output_sample : dacCode (fun k => [0, -16, 208, -32, 0, 0, 0].getD k 0) (fun i => if i = 15 then -6 else 0) false
    [some 0, some 0, some 0, some 0, some 3, some 3, some 0] = (83, false) := by decide +kernel

/-- TR_STEP at +41.300 ppm, and the SNR of a mean square error of 0.081, of the example of 02_line_receiver.md. -/
theorem test_lane_example : trStep 41300 = 0x43B31E73 ∧ snrOf (331776 / 1000) = 179 := by decide +kernel

/-- A host error is no stop: the reserved code 3 of PWR.MODE leaves its request untouched (R447). -/
theorem test_host_error : after (exec (.registerWrite .sup (pPWR + PWR.MODE) 3) up) (fun t => t.pwr == up.pwr) = true := by
  decide +kernel

/-- A register of a page of eight, without a special rule of its own. -/
theorem witness_ResetState : (match findPage (pLRX 7 + LRX.LOS_CFG) with
    | some (p, i, off) => i == 7 && decide (i < p.count) && (findRow p.fam off).isSome && (resetSpecial p.fam i off).isNone
    | none => false) = true := by decide +kernel

/-- A tie. -/
theorem witness_RoundingIsNearestTiesAway : 2 * (roundShift 11010048 20 * 2 ^ 20 - 11010048).natAbs = 2 ^ 20 := by decide +kernel

theorem witness_EveryStepKeepsMemoryCanonical : memoryOk run0 ∧ after (step { run0 with pending := [.nop 0] }) (fun _ => true) = true := by
  unfold memoryOk; decide +kernel

theorem witness_EveryStepConsumesOneCommand : after (step { run0 with pending := [.nop 0] }) (fun t => t.pending == []) = true := by
  decide +kernel

end Sys2Proof.Tests
end

namespace Sys2Proof.Proofs

open Sys2Proof Sys2Proof.Machine Sys2Proof.Safety Sys2Proof.Laws

/-! ## Where an address lies in the page table (R412, R414)

The pages of R414 lie apart, so an address names one row, one page of it and one offset. -/

/-- Two rows of the page table that share an address are the same row. -/
theorem pages_apart : ∀ p ∈ pages, ∀ q ∈ pages, p.base < q.base + 0x1000 * q.count → q.base < p.base + 0x1000 * p.count → p = q := by
  decide

/-- Every family of R414 has one row. -/
theorem pages_fam_inj : ∀ p ∈ pages, ∀ q ∈ pages, p.fam = q.fam → p = q := by decide

theorem pages_base_aligned : ∀ p ∈ pages, p.base % 0x1000 = 0 := by decide

/-- An address inside a page finds the page's row, its number and the offset. -/
theorem findPage_of_mem {p : PageRow} (hp : p ∈ pages) {i off : Nat} (hi : i < p.count) (ho : off < 0x1000) :
    findPage (p.base + 0x1000 * i + off) = some (p, i, off) := by
  have hin : (decide (p.base ≤ p.base + 0x1000 * i + off) && decide (p.base + 0x1000 * i + off < p.base + 0x1000 * p.count)) = true := by
    simp; omega
  unfold findPage
  cases hf : pages.find? (fun q => decide (q.base ≤ p.base + 0x1000 * i + off) && decide (p.base + 0x1000 * i + off < q.base + 0x1000 * q.count))
    with
  | none => exact absurd hin (by simpa using List.find?_eq_none.1 hf p hp)
  | some q =>
    have hq := List.find?_some hf
    simp only [Bool.and_eq_true, decide_eq_true_eq] at hq
    obtain rfl : p = q := pages_apart p hp q (List.mem_of_find?_eq_some hf) (by omega) (by omega)
    have h1 : (p.base + 0x1000 * i + off - p.base) / 0x1000 = i := by omega
    have h2 : (p.base + 0x1000 * i + off - p.base) % 0x1000 = off := by omega
    simp only [h1, h2]

/-- What `findPage` answers: a row of the table, one of its pages, an offset within the page, and together they are the address. -/
theorem findPage_some {a : Nat} {p : PageRow} {i off : Nat} (h : findPage a = some (p, i, off)) :
    p ∈ pages ∧ i < p.count ∧ off < 0x1000 ∧ a = p.base + 0x1000 * i + off := by
  unfold findPage at h
  split at h
  · rename_i q hf
    have hq := List.find?_some hf
    simp only [Bool.and_eq_true, decide_eq_true_eq] at hq
    simp only [Option.some.injEq, Prod.mk.injEq] at h
    obtain ⟨rfl, rfl, rfl⟩ := h
    exact ⟨List.mem_of_find?_eq_some hf, by omega, by omega, by omega⟩
  · exact absurd h (by simp)

/-- The base of a page, from its row. -/
theorem pageAt_of_mem {p : PageRow} (hp : p ∈ pages) (i : Nat) : pageAt p.fam i = p.base + 0x1000 * i := by
  unfold pageAt
  cases hf : pages.find? (fun q => q.fam == p.fam) with
  | none => exact absurd (List.find?_eq_none.1 hf p hp) (by simp)
  | some q =>
    obtain rfl : q = p := pages_fam_inj q (List.mem_of_find?_eq_some hf) p hp (by simpa using List.find?_some hf)
    rfl

theorem findPage_pageAt {p : PageRow} (hp : p ∈ pages) {i off : Nat} (hi : i < p.count) (ho : off < 0x1000) :
    findPage (pageAt p.fam i + off) = some (p, i, off) := by
  rw [pageAt_of_mem hp, findPage_of_mem hp hi ho]

theorem windowMem_ne_page (c o fam i off : Nat) : windowMem c o ≠ .page fam i off := by
  unfold windowMem
  dsimp only
  split_ifs <;> simp

/-- What a region that is a register page says: the address lies in the register space, in a page of the family's row. -/
theorem region_page {s : State} {r : Requester} {a fam i off : Nat} (h : s.region r a = .page fam i off) :
    ∃ p ∈ pages, p.fam = fam ∧ i < p.count ∧ off < 0x1000 ∧ a = pageAt fam i + off := by
  unfold State.region at h
  split_ifs at h
  case pos =>
    split at h
    · rename_i p j o hf
      split_ifs at h
      obtain ⟨rfl, rfl, rfl⟩ : p.fam = fam ∧ j = i ∧ o = off := by simpa using h
      obtain ⟨hp, hj, ho, ha⟩ := findPage_some hf
      exact ⟨p, hp, rfl, hj, ho, by rw [pageAt_of_mem hp, ha]⟩
    · exact absurd h (by simp)
  case pos =>
    dsimp only at h
    split_ifs at h
    exact (windowMem_ne_page _ _ _ _ _ h).elim

end Sys2Proof.Proofs

namespace Sys2Proof.Proofs

open Sys2Proof Sys2Proof.Machine Sys2Proof.Safety Sys2Proof.Laws

/-! ## Frames of single updates -/

/-- What leaves the queue, the cores, the memory and the registers alone changes nothing but the host's interfaces. -/
theorem nothing_of_eq {s t : State} (hp : t.pending = s.pending) (hc : t.cores = s.cores) (hm : t.mem = s.mem)
    (hf : t.ms = s.ms) (hr : t.regs = s.regs) : nothing s t :=
  ⟨hp, core_congr hc, byte_congr hm (by rw [hf]), fun a _ => rd_congr hr a⟩

/-- Nothing but registers of a list changes, so nothing outside a page that holds them all. -/
theorem onlyPage_of_nothing {s t : State} (h : nothing s t) (b : Nat) : onlyPage s t b :=
  onlyPage_of_onlyRegs h (by simp)

theorem onlyPage_wr (s : State) {b a : Nat} (w : Word) (h : inPage b a) : onlyPage s (s.wr a w) b :=
  onlyPage_of_onlyRegs (onlyRegs_wr s a w) (by simpa using h)

theorem onlyPage_setFld (s : State) (b : Nat) (f : Fld) (v : Nat) (h : f.off < 0x1000) : onlyPage s (s.setFld b f v) b :=
  onlyPage_wr s _ ⟨by omega, by omega⟩

/-- Raising an event changes its page alone. -/
theorem onlyPage_raiseBy (s : State) (e : Ev) (i m : Nat) : onlyPage s (s.raiseBy e i m) (pageAt e.fam i) :=
  onlyPage_of_onlyRegs (onlyRegs_raiseBy s e i m) (by simp [rawAt, inPage, HDR.EVT_RAW])

/-- The event that was raised is raised. -/
theorem raised_raiseBy (s : State) (e : Ev) (i m : Nat) (h : e.bit < 32) : raised (s.raiseBy e i m) e i := by
  have hb : (s.raiseBy e i m).rd (pageAt e.fam i + HDR.EVT_RAW) = (s.setRaw e i).rd (pageAt e.fam i + HDR.EVT_RAW) := rd_logOcc ..
  unfold raised State.bit State.fld
  rw [show (bitAt HDR.EVT_RAW e.bit).off = HDR.EVT_RAW from rfl, hb]
  exact bit_setFld_one s _ _ (by simp [bitAt]; omega) (by simp [bitAt])

/-- An event raised stays raised while its page's EVT_RAW is left. -/
theorem raised_congr {s t : State} {e : Ev} {i : Nat} (h : raised s e i) (hr : t.rd (rawAt e.fam i) = s.rd (rawAt e.fam i)) :
    raised t e i := by
  unfold raised State.bit State.fld at *
  rwa [show pageAt e.fam i + (bitAt HDR.EVT_RAW e.bit).off = rawAt e.fam i from rfl, hr]

/-! ## A host error's record (R424, R451, R452) -/

/-- The record of a failed host frame is on the page EVT. -/
theorem hostErr_onlyPage (s : State) (iface cause addr word : Nat) : onlyPage s (s.hostErr iface cause addr word) pEVT := by
  unfold State.hostErr
  dsimp only
  exact onlyPage_trans (onlyPage_trans (onlyPage_trans (onlyPage_wr s _ ⟨by decide, by decide⟩) (onlyPage_wr _ _ ⟨by decide, by decide⟩))
    (onlyPage_setFld _ _ _ _ (by decide))) (onlyPage_raiseBy _ EVT.evHOST_BERR 0 _)

@[simp] theorem hostErr_spi (s : State) (iface cause addr word : Nat) : (s.hostErr iface cause addr word).spi = s.spi := by
  simp [State.hostErr]

theorem raised_hostErr (s : State) (iface cause addr word : Nat) : raised (s.hostErr iface cause addr word) EVT.evHOST_BERR 0 :=
  raised_raiseBy _ _ _ _ (by decide)

/-- HERR_ADDR holds the address of the failure. -/
theorem hostErr_addr (s : State) (iface cause addr word : Nat) :
    (s.hostErr iface cause addr word).rd (pEVT + EVT.HERR_ADDR) = BitVec.ofNat 32 addr := by
  unfold State.hostErr
  rw [rd_raiseBy_ne _ _ _ _ _ (by decide), rd_addSat_ne _ _ _ _ _ (by decide), rd_wr_ne _ _ _ _ (by decide), rd_wr_self]

/-- HERR_INFO holds its cause, interface and word. -/
theorem hostErr_info (s : State) (iface cause addr word : Nat) :
    (s.hostErr iface cause addr word).rd (pEVT + EVT.HERR_INFO) = BitVec.ofNat 32 (cause * 2 ^ 28 + iface * 2 ^ 24 + word) := by
  unfold State.hostErr
  rw [rd_raiseBy_ne _ _ _ _ _ (by decide), rd_addSat_ne _ _ _ _ _ (by decide), rd_wr_self]

/-- The state after a write of its own by the SPI host has failed. -/
theorem reportErr_spi (s : State) (cause addr : Nat) (h : s.spi.inFrame = false) :
    s.reportErr .spi cause addr = ({ s with spi := { s.spi with prevErr := some cause } }).hostErr 0 cause addr 0 := by
  unfold State.reportErr
  simp [h]

/-- What a failed write of its own leaves: the page EVT with its record, HOST_BERR, and the cause for the next leading status. -/
theorem reportErr_spi_frame (s : State) (cause addr : Nat) (h : s.spi.inFrame = false) :
    onlyPage s (s.reportErr .spi cause addr) pEVT ∧ raised (s.reportErr .spi cause addr) EVT.evHOST_BERR 0
      ∧ (s.reportErr .spi cause addr).spi.prevErr = some cause
      ∧ (s.reportErr .spi cause addr).rd (pEVT + EVT.HERR_ADDR) = BitVec.ofNat 32 addr
      ∧ (s.reportErr .spi cause addr).rd (pEVT + EVT.HERR_INFO) = BitVec.ofNat 32 (cause * 2 ^ 28) := by
  rw [reportErr_spi s cause addr h]
  refine ⟨onlyPage_trans (onlyPage_of_nothing (nothing_of_eq rfl rfl rfl rfl rfl) pEVT) (hostErr_onlyPage _ _ _ _ _), raised_hostErr .., ?_,
    hostErr_addr .., ?_⟩
  · rw [hostErr_spi]
  · rw [hostErr_info, Nat.zero_mul, Nat.add_zero]

/-! ## A register write as a transaction (R11, R420) -/

/-- A 32-bit word survives its passage as four bytes. -/
theorem ofNat_ofBytes_toBytes (v : Word) : BitVec.ofNat 32 (ofBytes (toBytes 4 v.toNat)) = v := by
  rw [ofBytes_toBytes]
  apply BitVec.eq_of_toNat_eq
  have := v.isLt
  rw [BitVec.toNat_ofNat]
  omega

/-- With nothing gathered and no failed SPI frame open, a write is performed at once. -/
theorem startTxn_idle (s : State) (r : Requester) (a : Nat) (h : idleGather s r) (hs : r = .spi → s.spi.inFrame = false) :
    s.startTxn r a true = (s, true) := by
  have hc : s.continues r a = false := by unfold State.continues; rw [h.1]
  have hf : (r == .spi && s.spi.inFrame) = false := by
    by_cases hr : r = .spi
    · simp [hs hr]
    · simp [hr]
  unfold State.startTxn
  rw [hc, issueNarrow_idle s r h]
  simp [hf]

/-- REGISTER_WRITE of an aligned address, by a requester with nothing before it: the write is placed and its requester told. -/
theorem exec_registerWrite_idle (s : State) (r : Requester) (a : Nat) (v : Word) (h : idleGather s r) (hs : r = .spi → s.spi.inFrame = false) :
    exec (.registerWrite r a v) s = finish r a (s.place r a (toBytes 4 v.toNat) 0) := by
  show execRegisterWrite r a v s = _
  unfold execRegisterWrite
  rw [startTxn_idle s r a h hs]
  rfl

/-- A write to a register page comes to the gate. -/
theorem place_page {s : State} {r : Requester} {a fam i off : Nat} (v : Word) (ha : a % 4 = 0) (h : s.region r a = .page fam i off) :
    s.place r a (toBytes 4 v.toNat) 0 = s.gate (s.master r) fam i off v (effReg r fam i off v) := by
  unfold State.place
  rw [if_neg (by omega), h]
  dsimp only
  rw [ofNat_ofBytes_toBytes]

theorem place_none {s : State} {r : Requester} {a : Nat} (l : List Byte) (ha : a % 4 = 0) (h : s.region r a = .none) :
    s.place r a l 0 = .err 5 s := by
  unfold State.place
  rw [if_neg (by omega), h]

theorem place_misaligned {s : State} {r : Requester} {a : Nat} (l : List Byte) (ha : a % 4 ≠ 0) : s.place r a l 0 = .err 10 s := by
  unfold State.place
  rw [if_pos ha]

/-! ## The gate of a register write (R11, R13, R442, R447) -/

section gate
variable {s : State} {m fam i off : Nat} {v : Word} {eff : State → Out} {row : RegRow}

/-- The map refuses: PROT_DENIED is raised, the cause is PERM. -/
theorem gate_denied (h : s.mayWrite m fam off = false) : s.gate m fam i off v eff = .err 6 (s.raiseBy PROT.evPROT_DENIED 0 m) := by
  unfold State.gate
  simp [h]

/-- An offset that no table lists ignores writes. -/
theorem gate_unlisted (h : s.mayWrite m fam off = true) (hr : findRow fam off = none) : s.gate m fam i off v eff = .ok s := by
  unfold State.gate
  simp [h, hr]

/-- A read-only register ignores writes. -/
theorem gate_ro (h : s.mayWrite m fam off = true) (hr : findRow fam off = some row) (ha : row.acc = .ro) : s.gate m fam i off v eff = .ok s := by
  unfold State.gate
  simp [h, hr, ha]

/-- A locked RWL register refuses with LOCKED. -/
theorem gate_locked (h : s.mayWrite m fam off = true) (hr : findRow fam off = some row) (ha : row.acc = .rwl)
    (hl : s.bit (pageAt fam i) HDR.LOCK = true) : s.gate m fam i off v eff = .err 7 s := by
  unfold State.gate
  simp [h, hr, ha, hl]

/-- A reserved bit written 1 is a host error confined to the page. -/
theorem gate_reserved (h : s.mayWrite m fam off = true) (hr : findRow fam off = some row)
    (ha : row.acc = .rw ∨ row.acc = .rws ∨ row.acc = .w1c) (hv : v &&& ~~~row.mask ≠ 0) :
    s.gate m fam i off v eff = hostError [pageAt fam i] s := by
  unfold State.gate
  rcases ha with ha | ha | ha <;> simp [h, hr, ha, show (v &&& ~~~row.mask = 0#32) = False from eq_false hv]

end gate

end Sys2Proof.Proofs

namespace Sys2Proof.Proofs

open Sys2Proof Sys2Proof.Machine Sys2Proof.Safety Sys2Proof.Laws

/-! ## What a host error leaves (R447, log entry 90) -/

/-- The family of a page's base is its row's. -/
theorem famOf_pageAt {p : PageRow} (hp : p ∈ pages) {i : Nat} (hi : i < p.count) : famOf (pageAt p.fam i) = p.fam := by
  unfold famOf
  rw [← Nat.add_zero (pageAt p.fam i), findPage_pageAt hp hi (by decide)]

/-- The registers that a host error leaves free stand on the page. -/
theorem unsettledRegs_lt : ∀ p ∈ pages, ∀ e ∈ unsettledRegs p.fam, e.1 < 0x1000 := by decide +kernel

/-- A host error on PROT keeps the protection map (R447). -/
theorem unsettledRegs_prot : ∀ e ∈ unsettledRegs 6, e.1 < PROT.MAP := by decide +kernel

theorem onlyRegs_setInf (s : State) (a : Nat) (w : Word) (l : List Nat) : onlyRegs s (s.setInf a w) l :=
  ⟨rfl, fun _ => rfl, fun _ => rfl, fun _ _ => rfl⟩

/-- A host error changes only the registers that its page leaves free. -/
theorem unsettlePage_onlyRegs (s : State) (page : Nat) :
    onlyRegs s (s.unsettlePage page) ((unsettledRegs (famOf page)).map fun e => page + e.1) := by
  unfold State.unsettlePage
  dsimp only
  refine onlyRegs_trans (List.foldlRecOn (motive := fun t => onlyRegs s t ((unsettledRegs (famOf page)).map fun e => page + e.1))
    _ _ (onlyRegs_refl s _) fun t ht e he => ?_) ⟨rfl, fun _ => rfl, fun _ => rfl, fun _ _ => rfl⟩
  have hw : onlyRegs s (t.wr (page + e.1) (Config.freeReg t.free (page + e.1) &&& e.2)) ((unsettledRegs (famOf page)).map fun e => page + e.1) :=
    onlyRegs_trans ht (onlyRegs_mono (onlyRegs_wr t _ _) (by simpa using ⟨_, he⟩))
  split
  · exact onlyRegs_trans hw (onlyRegs_setInf ..)
  · exact hw

/-- A host error on one page: the queue, the cores, the memory and every register of another page stay, and so does the protection map. -/
theorem unsettlePage_frame (s : State) {p : PageRow} (hp : p ∈ pages) {i : Nat} (hi : i < p.count) :
    onlyPage s (s.unsettlePage (pageAt p.fam i)) (pageAt p.fam i)
      ∧ ∀ n, n ≤ 34 → (s.unsettlePage (pageAt p.fam i)).rd (pPROT + PROT.MAP + 4 * n) = s.rd (pPROT + PROT.MAP + 4 * n) := by
  have h := unsettlePage_onlyRegs s (pageAt p.fam i)
  rw [famOf_pageAt hp hi] at h
  have hpage := pageAt_mod p.fam i
  refine ⟨onlyPage_of_onlyRegs h fun a ha => ?_, fun n hn => h.2.2.2 _ fun ha => ?_⟩
  · obtain ⟨e, he, rfl⟩ := List.mem_map.1 ha
    exact ⟨by omega, by have := unsettledRegs_lt p hp e he; omega⟩
  · obtain ⟨e, he, heq⟩ := List.mem_map.1 ha
    have hlt := unsettledRegs_lt p hp e he
    have hm : PROT.MAP = 0x100 := rfl
    have hp0 : pPROT = 0x10006000 := rfl
    have hbase : pageAt p.fam i = pPROT := by omega
    have hfam : p.fam = 6 := by
      rw [← famOf_pageAt hp hi, hbase]; decide
    rw [hfam] at he
    have := unsettledRegs_prot e he
    omega

/-! ## O27: the outcomes of a register write -/

/-- The row of EVT_MASK on every page (R415). -/
theorem findRow_evtMask (fam : Nat) : findRow fam HDR.EVT_MASK = some ⟨0x014, 1, 0, .rw, 0x00000000, 0xFFFFFFFF⟩ := rfl

/-- A write of EVT_MASK is a plain write on every page. -/
theorem effReg_evtMask (r : Requester) (fam i : Nat) (v : Word) (s : State) :
    effReg r fam i HDR.EVT_MASK v s = effStore (pageAt fam i + HDR.EVT_MASK) v s := by
  have hcode : reservedCode fam HDR.EVT_MASK v = false := by simp [reservedCode, elemOf, PERF.EVSEL, HDR.EVT_MASK]
  show effPlain fam i HDR.EVT_MASK v s = _
  unfold effPlain
  rw [hcode, findRow_evtMask]
  rfl

/-- An address of a page of another family lies outside a page. -/
theorem not_inPage_of_findPage {a b : Nat} {p q : PageRow} {i j off : Nat} (ha : findPage a = some (p, i, off)) (hb : findPage b = some (q, j, 0))
    (h : p.fam ≠ q.fam) : ¬ inPage b a := by
  rintro ⟨h1, h2⟩
  obtain ⟨hq, hj, -, rfl⟩ := findPage_some hb
  obtain ⟨c, rfl⟩ := Nat.exists_eq_add_of_le h1
  rw [Nat.add_zero, findPage_of_mem hq hj (by omega)] at ha
  simp only [Option.some.injEq, Prod.mk.injEq] at ha
  exact h (by rw [ha.1])

theorem findPage_pEVT : findPage pEVT = some (⟨5, 0x10005000, 1, 988, 4, 0x040F⟩, 0, 0) := rfl

theorem findPage_pPROT : findPage pPROT = some (⟨6, 0x10006000, 1, 992, 4, 0x0004⟩, 0, 0) := rfl

section write
variable {s : State} {r : Requester} {a : Nat} {v : Word} (hg : idleGather s r) (hs : r = .spi → s.spi.inFrame = false)
include hg hs

/-- A write of EVT_MASK that reaches it leaves the value there and nothing else. -/
theorem write_evtMask_lands {fam i : Nat} (h : reaches s r fam i HDR.EVT_MASK v) (ha : a = pageAt fam i + HDR.EVT_MASK) :
    completes (.registerWrite r a v) s (fun t => t.rd a = v ∧ onlyRegs s t [a]) := by
  have h4 : a % 4 = 0 := by rw [ha]; have := pageAt_mod4 fam i; have := h.2.1; omega
  refine ⟨(s.wr a v).reportOk r, ?_, by simp, onlyRegs_trans (onlyRegs_wr s a v) (onlyRegs_mono (nothing_reportOk _ r) (by simp))⟩
  rw [exec_registerWrite_idle s r a v hg hs, place_page v h4 (ha ▸ h.2.2.1), gate_reaches s r _ _ _ _ _ h, effReg_evtMask, ← ha]
  rfl

/-- A read-only register and an unlisted offset ignore a write. -/
theorem write_ignored {fam i off : Nat} (h4 : a % 4 = 0) (hreg : s.region r a = .page fam i off) (hm : s.mayWrite (s.master r) fam off = true)
    (hrow : findRow fam off = none ∨ ∃ row, findRow fam off = some row ∧ row.acc = .ro) :
    completes (.registerWrite r a v) s (fun t => nothing s t) := by
  refine ⟨s.reportOk r, ?_, nothing_reportOk s r⟩
  rw [exec_registerWrite_idle s r a v hg hs, place_page v h4 hreg]
  rcases hrow with hrow | ⟨row, hrow, hro⟩
  · rw [gate_unlisted hm hrow, finish_ok]
  · rw [gate_ro hm hrow hro, finish_ok]

/-- A write with a reserved bit set leaves free values on its page alone. -/
theorem write_reserved_confined {fam i off : Nat} {row : RegRow} (h4 : a % 4 = 0) (hreg : s.region r a = .page fam i off)
    (hm : s.mayWrite (s.master r) fam off = true) (hrow : findRow fam off = some row)
    (hacc : row.acc = .rw ∨ row.acc = .rws ∨ row.acc = .w1c) (hv : v &&& ~~~row.mask ≠ 0) :
    completes (.registerWrite r a v) s (fun t => t.pending = s.pending ∧ memSame s t ∧ coresSame s t ∧ regsSame s t (inPage (pageAt fam i))
      ∧ ∀ n, n ≤ 34 → t.rd (pPROT + PROT.MAP + 4 * n) = s.rd (pPROT + PROT.MAP + 4 * n)) := by
  obtain ⟨p, hp, rfl, hi, -, -⟩ := region_page hreg
  obtain ⟨hframe, hmap⟩ := unsettlePage_frame s hp hi
  obtain ⟨hpend, hcores, hmem, hregs⟩ := onlyPage_trans hframe (onlyPage_of_nothing (nothing_reportOk _ r) _)
  refine ⟨(s.unsettlePage (pageAt p.fam i)).reportOk r, ?_, hpend, hmem, hcores, hregs, fun n hn => by rw [rd_reportOk, hmap n hn]⟩
  rw [exec_registerWrite_idle s r a v hg hs, place_page v h4 hreg, gate_reserved hm hrow hacc hv]
  rfl

end write

section spi
variable {s : State} {a : Nat} {v : Word} (hg : idleGather s .spi) (hs : s.spi.inFrame = false)
include hg hs

/-- A write that its block refuses with a cause, changing nothing: the failure record alone on the page EVT. -/
theorem write_refused {cause : Nat} (h : s.place .spi a (toBytes 4 v.toNat) 0 = .err cause s) :
    completes (.registerWrite .spi a v) s (fun t => memSame s t ∧ coresSame s t ∧ t.spi.prevErr = some cause
      ∧ raised t EVT.evHOST_BERR 0 ∧ regsSame s t (inPage pEVT)) := by
  obtain ⟨⟨-, hcores, hmem, hregs⟩, hraised, hprev, -, -⟩ := reportErr_spi_frame s cause a hs
  refine ⟨s.reportErr .spi cause a, ?_, hmem, hcores, hprev, hraised, hregs⟩
  rw [exec_registerWrite_idle s .spi a v hg fun _ => hs, h, finish_err]

/-- A class without write permission: the register stays, PROT_DENIED is raised, the failure is recorded with cause 6. -/
theorem write_denied {fam i off : Nat} (h4 : a % 4 = 0) (hreg : s.region .spi a = .page fam i off)
    (hm : s.mayWrite (s.master .spi) fam off = false) (h5 : fam ≠ 5) (h6 : fam ≠ 6) :
    completes (.registerWrite .spi a v) s (fun t => t.rd a = s.rd a ∧ memSame s t ∧ coresSame s t ∧ raised t PROT.evPROT_DENIED 0
      ∧ raised t EVT.evHOST_BERR 0 ∧ t.rd (pEVT + EVT.HERR_ADDR) = BitVec.ofNat 32 a ∧ t.rd (pEVT + EVT.HERR_INFO) = 0x60000000
      ∧ t.spi.prevErr = some 6) := by
  obtain ⟨p, hp, rfl, hi, hoff, haddr⟩ := region_page hreg
  have hfind : findPage a = some (p, i, off) := by rw [haddr, findPage_pageAt hp hi hoff]
  have hevt : ¬ inPage pEVT a := not_inPage_of_findPage hfind findPage_pEVT h5
  have hprot : ¬ inPage pPROT a := not_inPage_of_findPage hfind findPage_pPROT h6
  have hspi : (s.raiseBy PROT.evPROT_DENIED 0 (s.master .spi)).spi.inFrame = false := by rw [raiseBy_spi]; exact hs
  obtain ⟨-, hc1, hm1, hr1⟩ := onlyPage_raiseBy s PROT.evPROT_DENIED 0 (s.master .spi)
  obtain ⟨⟨-, hc2, hm2, hr2⟩, hberr, hprev, haddr', hinfo⟩ := reportErr_spi_frame (s.raiseBy PROT.evPROT_DENIED 0 (s.master .spi)) 6 a hspi
  refine ⟨(s.raiseBy PROT.evPROT_DENIED 0 (s.master .spi)).reportErr .spi 6 a, ?_, (hr2 a hevt).trans (hr1 a hprot), memSame_trans hm1 hm2,
    coresSame_trans hc1 hc2, ?_, hberr, haddr', hinfo, hprev⟩
  · rw [exec_registerWrite_idle s .spi a v hg fun _ => hs, place_page v h4 hreg, gate_denied hm, finish_err]
  · exact raised_congr (raised_raiseBy _ _ _ _ (by decide)) (hr2 _ fun ⟨_, hlt⟩ => absurd hlt (by decide))

/-- A locked RWL register keeps its value; the cause is 7. -/
theorem write_locked {fam i off : Nat} {row : RegRow} (h4 : a % 4 = 0) (hreg : s.region .spi a = .page fam i off)
    (hm : s.mayWrite (s.master .spi) fam off = true) (hrow : findRow fam off = some row) (hacc : row.acc = .rwl)
    (hl : s.bit (pageAt fam i) HDR.LOCK = true) (h5 : fam ≠ 5) :
    completes (.registerWrite .spi a v) s (fun t => t.rd a = s.rd a ∧ memSame s t ∧ coresSame s t ∧ raised t EVT.evHOST_BERR 0
      ∧ t.spi.prevErr = some 7) := by
  obtain ⟨p, hp, rfl, hi, hoff, haddr⟩ := region_page hreg
  have hfind : findPage a = some (p, i, off) := by rw [haddr, findPage_pageAt hp hi hoff]
  have hevt : ¬ inPage pEVT a := not_inPage_of_findPage hfind findPage_pEVT h5
  obtain ⟨t, hexec, hmem, hcores, hprev, hraised, hregs⟩ :=
    write_refused (v := v) hg hs ((place_page v h4 hreg).trans (gate_locked hm hrow hacc hl))
  exact ⟨t, hexec, hregs a hevt, hmem, hcores, hraised, hprev⟩

end spi

/-- Settles O27: each clause is one outcome of the gate (R11, R13, R442, R447) with the report to its requester. -/
theorem registerWritesLandOrAreRefused : Obligations.RegisterWritesLandOrAreRefused := by
  unfold Obligations.RegisterWritesLandOrAreRefused
  intro s r a v hg hs
  refine ⟨fun fam i h ha => write_evtMask_lands hg hs h ha, fun fam i off h4 hreg hm hrow => write_ignored hg hs h4 hreg hm hrow, ?_, ?_, ?_, ?_,
    fun fam i off row h4 hreg hm hrow hacc hv => write_reserved_confined hg hs h4 hreg hm hrow hacc hv⟩
  · rintro fam i off h4 hreg hm rfl - h5 h6 -
    exact write_denied hg (hs rfl) h4 hreg hm h5 h6
  · rintro fam i off row h4 hreg hm hrow hacc hl rfl - h5
    exact write_locked hg (hs rfl) h4 hreg hm hrow hacc hl h5
  · rintro h4 hreg rfl
    exact write_refused hg (hs rfl) (place_none _ h4 hreg)
  · rintro h4 rfl
    exact write_refused hg (hs rfl) (place_misaligned _ h4)

end Sys2Proof.Proofs

namespace Sys2Proof.Proofs

open Sys2Proof Sys2Proof.Machine Sys2Proof.Safety Sys2Proof.Laws

/-! ## O19: the state after a cold reset -/

/-- After reset no register is listed, so each holds its reset value. -/
theorem rd_reset (a : Nat) : State.reset.rd a = regReset a := rfl

/-- The reset value of a register, from the page table and the register tables. -/
theorem regReset_of_findPage {a : Nat} {p : PageRow} {i off : Nat} {row : RegRow} (ha : findPage a = some (p, i, off))
    (hr : findRow p.fam off = some row) : regReset a = (resetSpecial p.fam i off).getD row.reset := by
  unfold regReset
  rw [ha]
  dsimp only
  rw [hr]

/-- The header of every page after reset: ENABLE 1, FSTATE ENABLED, no event raised (R415). -/
theorem header_reset {p : PageRow} (hp : p ∈ pages) {i : Nat} (hi : i < p.count) :
    regReset (p.base + 0x1000 * i + HDR.PAGE_CTRL) = 1 ∧ regReset (p.base + 0x1000 * i + HDR.PAGE_STAT) = 0x00010000
      ∧ regReset (p.base + 0x1000 * i + HDR.EVT_RAW) = 0 := by
  have hs : ∀ q ∈ pages, ∀ off ∈ [HDR.PAGE_CTRL, HDR.PAGE_STAT, HDR.EVT_RAW], ∀ j < q.count, resetSpecial q.fam j off = none := by
    decide +kernel
  refine ⟨?_, ?_, ?_⟩ <;>
    rw [regReset_of_findPage (findPage_of_mem hp hi (by decide)) rfl, hs p hp _ (by decide) i hi] <;> rfl

/-- An engine's state word and control word after reset: OFF, HOLD 1 (R235, R236). -/
theorem engine_words_reset (k : Nat) (hk : k < 256) :
    regReset (pCLU (k / 16) + CLU.E_STAT + 4 * (k % 16)) = 0 ∧ regReset (pCLU (k / 16) + CLU.E_CTRL + 4 * (k % 16)) = 1 := by
  have key : ∀ c < 16, ∀ e < 16, regReset (pCLU c + CLU.E_STAT + 4 * e) = 0 ∧ regReset (pCLU c + CLU.E_CTRL + 4 * e) = 1 := by
    decide +kernel
  exact key _ (by omega) _ (by omega)

/-- The protection map after reset admits the supervisor to every family (R443). -/
theorem map_reset : ∀ f < 35, (regReset (pPROT + PROT.MAP + 4 * f)).getLsbD 2 = true := by decide +kernel

/-- The main taps after reset. -/
theorem main_taps_reset : ∀ n < 8, regReset (pLRX n + LRX.FFE + 80) = 0x800 ∧ regReset (pLTX n + LTX.FIR + 8) = 0x100 := by decide +kernel

theorem masks_reset : regReset (pTIME + HDR.EVT_MASK) = 1 ∧ regReset (pSCRB + HDR.EVT_MASK) = 5 ∧ regReset (pEVT + HDR.EVT_MASK) = 4 := by
  decide +kernel

/-- No byte is listed after reset, and no fill stands: SRAM reads 0 and DRAM as never written (R361, log entry 57). -/
theorem byte_reset (a : Nat) : State.reset.byte a = if a < 0x40000000 then some 0 else none := by
  unfold State.byte unlisted
  rfl

theorem evtPend_zero (s : State) (b : Nat) (h : s.rd (b + HDR.EVT_RAW) = 0) : s.evtPend b = 0 := by
  unfold State.evtPend
  rw [h]
  exact BitVec.zero_and

/-- The state of an engine after reset. -/
theorem engine_reset (k : Nat) (hk : k < 256) :
    let s := State.reset
    s.coreState k = 0 ∧ s.bit (pCLU (k / 16)) (eCtrl k CLU.E_CTRL.HOLD) = true ∧ s.core k = Core.init := by
  obtain ⟨hstat, hctrl⟩ := engine_words_reset k hk
  have hsup : k ≠ supId := by show k ≠ 256; omega
  refine ⟨?_, ?_, ?_⟩
  · unfold State.coreState State.fld
    rw [if_neg hsup, rd_reset,
      show pCLU (k / 16) + (eCtrl k CLU.E_STAT.STATE).off = pCLU (k / 16) + CLU.E_STAT + 4 * (k % 16) from (Nat.add_assoc ..).symm, hstat]
    rfl
  · unfold State.bit State.fld
    rw [rd_reset, show pCLU (k / 16) + (eCtrl k CLU.E_CTRL.HOLD).off = pCLU (k / 16) + CLU.E_CTRL + 4 * (k % 16) from (Nat.add_assoc ..).symm, hctrl]
    rfl
  · show coreReset k = _
    exact if_neg hsup

/-- Settles O19: registers from their reset column, cores from `Core.init`, an empty memory. -/
theorem resetState : Obligations.ResetState := by
  simp only [Obligations.ResetState, rd_reset]
  refine ⟨rfl, rfl, rfl, rfl, by decide +kernel, fun k hk => ?_, fun p hp i hi => ?_, fun a p i off row ha hr hs => ?_, fun f hf => map_reset f hf,
    fun n hn => main_taps_reset n hn, masks_reset.1, masks_reset.2.1, masks_reset.2.2, wf_reset, rfl, fun a ha => ?_, fun a ha => ?_⟩
  · obtain ⟨hstate, hhold, hcore⟩ := engine_reset k hk
    rw [hcore]
    exact ⟨hstate, hhold, rfl, rfl, rfl, rfl, rfl, rfl, rfl⟩
  · obtain ⟨hctrl, hstat, hraw⟩ := header_reset hp hi
    exact ⟨hctrl, hstat, hraw, evtPend_zero _ _ hraw⟩
  · rw [regReset_of_findPage ha hr, hs]
    rfl
  · rw [byte_reset, if_pos ha]
  · rw [byte_reset, if_neg (by omega)]

end Sys2Proof.Proofs

namespace Sys2Proof.Proofs

open Sys2Proof Sys2Proof.Machine Sys2Proof.Safety Sys2Proof.Laws

/-! ## PAGE_CTRL and PAGE_STAT stay

What sets off the work of a page, or ends it, never writes a PAGE_CTRL or PAGE_STAT: one lemma for each operation of the model that does so,
built along its definition. -/

/-- The address of PAGE_CTRL or PAGE_STAT of some page (R415). -/
def ctlAddr (a : Nat) : Prop := a % 0x1000 = 0x008 ∨ a % 0x1000 = 0x00C

/-- PAGE_CTRL and PAGE_STAT of every page hold what they held. -/
structure ctlSame (s t : State) : Prop where
  rd : ∀ a, ctlAddr a → t.rd a = s.rd a

/-- A register beside the common page header's first words is neither PAGE_CTRL nor PAGE_STAT. -/
theorem not_ctlAddr {b off : Nat} (hb : b % 0x1000 = 0) (hlo : 0x10 ≤ off) (hhi : off < 0x1000) : ¬ ctlAddr (b + off) := by
  unfold ctlAddr
  omega

namespace ctlSame
variable {s t u : State}

theorem refl (s : State) : ctlSame s s := ⟨fun _ _ => rfl⟩

theorem trans (h : ctlSame s t) (g : ctlSame t u) : ctlSame s u := ⟨fun a ha => (g.rd a ha).trans (h.rd a ha)⟩

/-- What leaves the table of registers. -/
theorem regs (h : ctlSame s t) (hr : u.regs = t.regs) : ctlSame s u := ⟨fun a ha => (rd_congr hr a).trans (h.rd a ha)⟩

theorem modCal (h : ctlSame s t) (u : Nat) (f : CalSt → CalSt) : ctlSame s (t.modCal u f) := h.regs rfl

theorem modCore (h : ctlSame s t) (k : Nat) (f : Core → Core) : ctlSame s (t.modCore k f) := h.regs rfl

theorem modClu (h : ctlSame s t) (c : Nat) (f : Clu → Clu) : ctlSame s (t.modClu c f) := h.regs rfl

theorem modPart (h : ctlSame s t) (n : Nat) (f : PartSt → PartSt) : ctlSame s (t.modPart n f) := h.regs rfl

theorem modDawn (h : ctlSame s t) (n : Nat) (f : DawnSt → DawnSt) : ctlSame s (t.modDawn n f) := h.regs rfl

theorem modPw (h : ctlSame s t) (k : Nat) (f : PwSt → PwSt) : ctlSame s (t.modPw k f) := h.regs rfl

theorem startClock (h : ctlSame s t) (k : Nat) : ctlSame s (t.startClock k) := h.regs rfl

theorem commits (h : ctlSame s t) (l : List CommitReq) : ctlSame s { t with commits := l } := h.regs rfl

theorem boot (h : ctlSame s t) (b : BootSt) : ctlSame s { t with boot := b } := h.regs rfl

theorem hk (h : ctlSame s t) (x : HkSt) : ctlSame s { t with hk := x } := h.regs rfl

theorem cd (h : ctlSame s t) (x : Tbl CdSt) : ctlSame s { t with cd := x } := h.regs rfl

theorem cap (h : ctlSame s t) (x : CapSt) : ctlSame s { t with cap := x } := h.regs rfl

theorem wr (h : ctlSame s t) {a : Nat} (w : Word) (ha : ¬ ctlAddr a) : ctlSame s (t.wr a w) :=
  ⟨fun x hx => (rd_wr_ne t a x w fun he => ha (he ▸ hx)).trans (h.rd x hx)⟩

theorem setFld (h : ctlSame s t) {b : Nat} {f : Fld} (v : Nat) (hb : b % 0x1000 = 0 := by decide) (hlo : 0x10 ≤ f.off := by decide)
    (hhi : f.off < 0x1000 := by decide) : ctlSame s (t.setFld b f v) := h.wr _ (not_ctlAddr hb hlo hhi)

/-- Setting one bit of a register with a bit for each of its parts. -/
theorem setBit (h : ctlSame s t) {b : Nat} (off i v : Nat) (hb : b % 0x1000 = 0 := by decide) (hlo : 0x10 ≤ off := by decide)
    (hhi : off < 0x1000 := by decide) : ctlSame s (t.setFld b (bitAt off i) v) := h.setFld v hb hlo hhi

theorem setRaw (h : ctlSame s t) (e : Ev) (i : Nat) : ctlSame s (t.setRaw e i) :=
  h.setBit _ _ _ (pageAt_mod e.fam i)

theorem raise (h : ctlSame s t) (e : Ev) (i : Nat) : ctlSame s (t.raise e i) := (h.setRaw e i).regs (raise_regs t e i)

theorem record (h : ctlSame s t) (k n m : Nat) (d : List Word) : ctlSame s (t.record k n m d) := h.regs (logOcc_regs ..)

theorem raiseAct (h : ctlSame s t) (e : Ev) (i : Nat) (d : List Word) : ctlSame s (t.raiseAct e i d) := (h.setRaw e i).regs (logOcc_regs ..)

theorem when (h : ctlSame s t) {c : Bool} {f : State → State} (hf : ctlSame t (f t)) : ctlSame s (t.when c f) :=
  when_ind (P := ctlSame s) t c f h fun _ => h.trans hf

theorem foldl {α : Type} {l : List α} {f : State → α → State} (h : ctlSame s t) (hf : ∀ u, ∀ a ∈ l, ctlSame u (f u a)) :
    ctlSame s (l.foldl f t) :=
  List.foldlRecOn (motive := ctlSame s) l f h fun u hu a ha => hu.trans (hf u a ha)

theorem each {l : List Nat} {f : State → Nat → State} (h : ctlSame s t) (hf : ∀ u, ∀ a ∈ l, ctlSame u (f u a)) : ctlSame s (t.each l f) :=
  h.foldl hf

end ctlSame

/-! ### Calibration: what a pause sets off (R140, R142) -/

/-- A unit's page is a page. -/
theorem unitPage_mod (u : Nat) : unitPage u % 0x1000 = 0 := by
  unfold unitPage
  split <;> simp

/-- A unit's slice map stands beside its page's header. -/
theorem ctlSame_setMap (s : State) (u : Nat) (f : Fld) (v : Nat) (h : f.off = 0) : ctlSame s (s.setFld (mapBase u) f v) := by
  refine (ctlSame.refl s).wr _ ?_
  rw [h, Nat.add_zero]
  unfold mapBase
  exact not_ctlAddr (unitPage_mod u) (by split <;> decide) (by split <;> decide)

/-- COMMIT_STAT of a page is rewritten. -/
theorem ctlSame_showPending (s : State) {page : Nat} (hp : page % 0x1000 = 0) : ctlSame s (s.showPending page) := by
  have hoff : 0x10 ≤ commitStatOff page ∧ commitStatOff page < 0x1000 := by unfold commitStatOff; split <;> decide
  exact (ctlSame.refl s).setFld _ hp hoff.1 hoff.2

theorem ctlSame_dropReturn (s : State) (u : Nat) : ctlSame s (s.dropReturn u) := by
  have hp := unitPage_mod u
  have hc : s.visited u < 32 := getBits_lt _ _ 5
  have hoff : ∀ d < 8, ¬ ctlAddr (unitPage u + (if u < 8 then LRX.MC_A else LTX.MC_A) + 8 * s.visited u + d) := fun d hd => by
    rw [show (if u < 8 then LRX.MC_A else LTX.MC_A) = 0x100 from ite_self _]
    unfold ctlAddr
    omega
  exact .trans ((((ctlSame.refl s).commits _).wr _ (hoff 0 (by omega))).wr _ (hoff 4 (by omega))) (ctlSame_showPending _ hp)

section calibration
variable (s : State) {u : Nat} (hu : u < 16)
include hu

/-- Setting a field of a unit's own register of the page CAL. -/
theorem ctlSame_setUnitFld (f : Fld) (v : Nat) (hlo : 0x10 ≤ f.off := by decide) (hhi : f.off < 0xF00 := by decide) :
    ctlSame s (s.setFld pCAL (uf u f) v) :=
  (ctlSame.refl s).setFld v (hlo := by simp [uf, fldAt]; omega) (hhi := by simp [uf, fldAt]; omega)

theorem ctlSame_degrade : ctlSame s (s.degrade u) := (ctlSame_setUnitFld s hu _ _).raise _ _

theorem ctlSame_exhaustCheck : ctlSame s (s.exhaustCheck u) := by
  unfold State.exhaustCheck
  split
  · exact ((ctlSame_setUnitFld s hu _ _).raise _ _).when (ctlSame_degrade _ hu)
  · exact .refl s

theorem ctlSame_endStep : ctlSame s (s.endStep u) := by
  unfold State.endStep
  refine .trans ?_ (ctlSame_exhaustCheck _ hu)
  refine .trans ?_ (ctlSame_setUnitFld _ hu _ _)
  refine .trans ?_ (ctlSame_setUnitFld _ hu _ _)
  refine .trans ?_ (ctlSame_setUnitFld _ hu _ _)
  exact .trans ((ctlSame.refl s).modCal _ _) (ctlSame_setUnitFld _ hu _ _)

theorem ctlSame_setMarks (a b : Nat) : ctlSame s (s.setMarks u a b) :=
  .trans ((ctlSame.refl s).modCal _ _) (ctlSame_setUnitFld _ hu CAL.U_STAT.SUSPECT _)

theorem ctlSame_retireSlice (sl cause : Nat) : ctlSame s (s.retireSlice u sl cause) := by
  unfold State.retireSlice
  split
  · exact .refl s
  · refine .trans ?_ (ctlSame_exhaustCheck _ hu)
    refine ((ctlSame.when ?_ (ctlSame_setMap _ u smSpare 31 rfl)).when (ctlSame_setMap _ u smCal 31 rfl)).raiseAct _ _ _
    exact (ctlSame_setMap s u (smRet sl) 1 rfl).trans (ctlSame_setMarks _ hu _ _)

theorem ctlSame_retireNamed (sl : Nat) : ctlSame s (s.retireNamed u sl) := by
  exact (ctlSame.refl s).when (.trans ((ctlSame.refl s).modCal _ _) (ctlSame_retireSlice _ hu sl 3))

theorem ctlSame_abandon : ctlSame s (s.abandon u) := by
  unfold State.abandon
  dsimp only
  split
  · exact ctlSame_endStep s hu
  split
  · exact .refl s
  have h : ctlSame s ((s.when (s.phase u == 5) fun s => s.dropReturn u).toRevisit u (s.visited u)) :=
    .trans ((ctlSame.refl s).when (ctlSame_dropReturn s u)) (ctlSame_setMarks _ hu _ _)
  split
  · split
    · exact h.trans (ctlSame_endStep _ hu)
    · exact (h.trans (ctlSame_endStep _ hu)).trans (ctlSame_retireNamed _ hu _)
  · exact (h.trans (ctlSame_endStep _ hu)).modCal _ _

end calibration

/-! ### What a change sets off (R198, R278, R578) -/

theorem ctlSame_bistEnd (s : State) (res : Nat) : ctlSame s (s.bistEnd res) := by
  unfold State.bistEnd
  have h : ctlSame s ({ s with boot := { s.boot with bist := none } }.wr (pBIST + BIST.BT_STAT) (BitVec.ofNat 32 (2 ^ 31 + res * 2 ^ 24))) :=
    ((ctlSame.refl s).boot _).wr _ (not_ctlAddr (by decide) (by decide) (by decide))
  split
  · exact h.raise _ _
  · exact h.raise _ _

theorem ctlSame_watch (s0 s : State) : ctlSame s (watch s0 s) := by
  unfold watch
  dsimp only
  refine .each (.each ((ctlSame.refl s).when (ctlSame_bistEnd s 3)) fun t p _ => ?_) fun t u hu => ?_
  · exact (((ctlSame.refl t).when ((ctlSame.refl t).raise _ _)).when ((ctlSame.refl _).raise _ _)).when ((ctlSame.refl _).raise _ _)
  · exact (ctlSame.refl t).when (ctlSame_abandon t (List.mem_range.1 hu))

theorem ctlSame_serveWatch (s0 s : State) : ctlSame s (State.serveWatch s0 s) :=
  (ctlSame.refl s).each fun t c _ => (ctlSame.refl t).each fun u k _ => by
    split
    · exact (ctlSame.refl u).raise _ _
    · exact .refl u

/-! ### Engines (R235, R262, R630) -/

theorem ctlSame_setEng (s : State) (k st : Nat) : ctlSame s (s.setEng k st) := by
  unfold State.setEng
  split
  · exact (ctlSame.refl s).regs rfl
  · exact (ctlSame.refl s).setFld _ (by simp) (by simp [eCtrl, fldAt]; omega) (by simp [eCtrl, fldAt]; omega)

/-- No header register is boundary-applied. -/
theorem groupOf_header (fam : Nat) {off : Nat} (h : off < 0x40) : groupOf fam off = none := by
  have h9 : ∀ off < 0x40, groupOf 9 off = none := by decide
  have h10 : ∀ off < 0x40, groupOf 10 off = none := by decide
  have h15 : ∀ off < 0x40, groupOf 15 off = none := by decide
  by_cases hf : fam = 9 ∨ fam = 10 ∨ fam = 15
  · rcases hf with rfl | rfl | rfl
    · exact h9 off h
    · exact h10 off h
    · exact h15 off h
  · unfold groupOf
    simp only [not_or] at hf
    simp [hf]

/-- A group's shadows return to the values in force. -/
theorem ctlSame_revertGroup (s : State) {page : Nat} (hp : page % 0x1000 = 0) (g : Nat) : ctlSame s (s.revertGroup page g) := by
  refine .regs (.foldl (.refl s) fun t a ha => (ctlSame.refl t).wr _ ?_) rfl
  simp only [groupAddrs, List.mem_filterMap, List.mem_map, List.mem_range, Option.ite_none_right_eq_some, Option.some.injEq] at ha
  obtain ⟨off, ⟨j, hj, rfl⟩, hg, rfl⟩ := ha
  refine not_ctlAddr hp ?_ (by omega)
  by_contra hlt
  rw [groupOf_header _ (by omega)] at hg
  exact absurd hg (by simp)

theorem ctlSame_endWork (s : State) (k : Nat) : ctlSame s (s.endWork k) := by
  refine .each (.regs (.foldl (.refl s) fun t d _ => ctlSame_revertGroup t ?_ _) rfl) fun t c _ => (ctlSame.refl t).modClu _ _
  omega

theorem ctlSame_leaveRun (s : State) (k : Nat) : ctlSame s (s.leaveRun k) :=
  .foldl (.refl s) fun t p _ => by
    split
    · exact .refl t
    · exact (ctlSame.refl t).modClu _ _

theorem ctlSame_enterRun (s : State) (k : Nat) : ctlSame s (s.enterRun k) :=
  .foldl (.refl s) fun t _ _ => (ctlSame.refl t).modClu _ _

theorem ctlSame_drainEng (s : State) (k : Nat) : ctlSame s (s.drainEng k) := by
  unfold State.drainEng
  split
  · exact ((ctlSame_leaveRun s k).trans (ctlSame_endWork _ k)).trans (ctlSame_setEng _ k 5)
  · exact .refl s

theorem ctlSame_startEng (s : State) (k : Nat) : ctlSame s (s.startEng k) := by
  unfold State.startEng
  dsimp only
  refine .each (.when (.trans (.trans ?_ (ctlSame_setEng _ k 1)) (ctlSame_enterRun _ k)) ((ctlSame.refl _).record _ _ _ _)) fun t old _ => ?_
  · exact (ctlSame.refl s).regs rfl
  · exact ((ctlSame.refl t).modCore _ _).record _ _ _ _

theorem ctlSame_releaseEng (s : State) (k : Nat) : ctlSame s (s.releaseEng k) := by
  unfold State.releaseEng
  split
  · exact ctlSame_startEng s k
  · exact .refl s

/-! ### Links (R301, R306, R317) -/

theorem ctlSame_fwShow (s : State) (n : Nat) : ctlSame s (s.fwShow n) := by
  have hw (j : Nat) (hj : j < 16) : ¬ ctlAddr (pPART n + PART.FW_RX + j) := by
    rw [Nat.add_assoc]
    exact not_ctlAddr (by simp) (by show 0x10 ≤ 0xD0 + j; omega) (by show 0xD0 + j < 0x1000; omega)
  unfold State.fwShow
  exact (((((ctlSame.refl s).setFld _ (by simp)).setFld _ (by simp)).wr _ (hw 0 (by omega))).wr _ (hw 4 (by omega))).wr _ (hw 8 (by omega))
    |>.wr _ (hw 12 (by omega))

theorem ctlSame_dawnEnd (s : State) (n res : Nat) : ctlSame s (s.dawnEnd n res) := by
  unfold State.dawnEnd
  have h : ctlSame s (((((s.modDawn n fun x => { x with tx := none }).setFld (pDAWN n) DAWN.TX_STAT.RESULT res).setFld (pDAWN n)
      ⟨DAWN.TX_STAT, 30, 2⟩ 2).setFld (pDAWN n) DAWN.DW_STAT.TX_BUSY 0).setFld (pDAWN n) DAWN.DW_STAT.TX_BLOCKED 0) :=
    (((((ctlSame.refl s).modDawn _ _).setFld _ (by simp)).setFld _ (by simp)).setFld _ (by simp)).setFld _ (by simp)
  split
  · exact (h.setFld _ (by simp)).raise _ _
  · exact h.raise _ _

theorem ctlSame_dawnBegin (s : State) (n : Nat) (p : DawnTx) : ctlSame s (s.dawnBegin n p) := by
  unfold State.dawnBegin
  exact (((((ctlSame.refl s).modDawn _ _).setFld _ (by simp)).setFld _ (by simp)).setFld _ (by simp)).setFld _ (by simp)

theorem ctlSame_dawnSettle (s : State) (n : Nat) : ctlSame s (s.dawnSettle n) := by
  have hello (t : State) (h : ctlSame s t) : ctlSame s (if (t.dawnSt n).hello && (t.dawnSt n).tx.isNone then
      let t := t.modDawn n fun x => { x with hello := false }
      if t.dawnMay n && t.enabled (pDAWN n) && t.bit (pDAWN n) DAWN.DW_CTRL.AUTO_HELLO && t.fld (pDAWN n) DAWN.DW_CTRL.HELLO_RATE != 3 then
        t.dawnBegin n ⟨1, 20, t.fld (pDAWN n) DAWN.DW_CTRL.HELLO_RATE, t.helloPayload n, false, false⟩
      else t
    else t) := by
    split
    · dsimp only
      split
      · exact .trans (h.modDawn _ _) (ctlSame_dawnBegin _ n _)
      · exact h.modDawn _ _
    · exact h
  unfold State.dawnSettle
  refine hello _ ?_
  split
  · split
    · exact ctlSame_dawnEnd s n 1
    · split
      · exact ctlSame_dawnBegin s n _
      · exact .refl s
  · exact .refl s

theorem ctlSame_dawnRxSettle (s : State) (n : Nat) : ctlSame s (s.dawnRxSettle n) := by
  unfold State.dawnRxSettle
  dsimp only
  split
  · split
    · exact (ctlSame.refl s).setFld _ (by simp)
    · exact .refl s
  · split
    · exact .refl s
    · exact ((((ctlSame.refl s).modDawn _ _).setFld _ (by simp)).setFld _ (by simp)).setFld _ (by simp) |>.setFld _ (by simp)

/-! ### Housekeeping (R509, R522, R528, R533) -/

theorem ctlSame_setHk (s : State) (st : Nat) : ctlSame s (s.setHk st) := by
  have h : ctlSame s (s.setFld pHKADC HKADC.HK_STAT.STATE st) := (ctlSame.refl s).setFld _
  unfold State.setHk
  dsimp only
  split
  · exact h.regs rfl
  · split
    · exact (h.setFld _).startClock _
    · exact h

theorem ctlSame_seqOn (s : State) : ctlSame s s.seqOn := by
  unfold State.seqOn
  dsimp only
  split
  · exact .trans ((ctlSame.refl s).hk _) (ctlSame_setHk _ 4)
  · exact (ctlSame.refl s).regs rfl

theorem ctlSame_hkDrain (s : State) : ctlSame s s.hkDrain := by
  unfold State.hkDrain
  have h : ctlSame s ((s.setFld pHKADC HKADC.HK_STAT.TRIG_HELD 0).setHk 5) := .trans ((ctlSame.refl s).setFld _) (ctlSame_setHk _ 5)
  exact (h.hk _).when (((ctlSame.refl _).hk _).setFld _)

theorem ctlSame_hkDrained (s : State) : ctlSame s s.hkDrained := by
  unfold State.hkDrained
  exact ((ctlSame_setHk s 0).setFld _).hk _

section cdac
variable (s : State) {c : Nat} (hc : c < 16)
include hc

/-- Setting a field of a channel's registers. -/
theorem ctlSame_setCdFld (f : Fld) (v : Nat) (hlo : 0x10 ≤ f.off := by decide) (hhi : f.off < 0xF00 := by decide) :
    ctlSame s (s.setFld pCDAC (cdf c f) v) :=
  (ctlSame.refl s).setFld v (hlo := by simp [cdf, fldAt]; omega) (hhi := by simp [cdf, fldAt]; omega)

theorem ctlSame_modCd (f : CdSt → CdSt) : ctlSame s (s.modCd c f) :=
  .trans ((ctlSame.refl s).cd _) (ctlSame_setCdFld _ hc CDAC.CD_STAT.QCOUNT _)

theorem ctlSame_cdStart : ctlSame s (s.cdStart c) := by
  unfold State.cdStart
  refine .trans (.trans (.trans (.trans ?_ (ctlSame_setCdFld _ hc CDAC.CD_STAT.STATE 1)) (ctlSame_setCdFld _ hc _ _)) (ctlSame_setCdFld _ hc _ _))
    (ctlSame_modCd _ hc _)
  exact ((ctlSame.refl s).startClock _).startClock _

theorem ctlSame_cdHiz : ctlSame s (s.cdHiz c) := by
  unfold State.cdHiz
  exact .trans (.setBit (.trans (ctlSame_setCdFld s hc CDAC.CD_STAT.STATE 0) (ctlSame_setCdFld _ hc _ _)) _ _ _) (ctlSame_modCd _ hc _)

theorem ctlSame_cdSettle : ctlSame s (s.cdSettle c) := by
  have h : ctlSame s (s.when ((s.cdState c == 1 || s.cdState c == 2) && s.fld pCDAC (cdf c CDAC.CD_SLEW.STEP) == 0) fun s => s.cdMove c 0) :=
    (ctlSame.refl s).when (ctlSame_setCdFld s hc _ _)
  unfold State.cdSettle
  dsimp only
  split
  · split
    · exact h.trans (ctlSame_cdHiz _ hc)
    · exact (h.trans (ctlSame_setCdFld _ hc CDAC.CD_STAT.STATE 3)).startClock _
  · exact h

theorem ctlSame_cdRamp : ctlSame s (s.cdRamp c) :=
  ((ctlSame_setCdFld s hc CDAC.CD_STAT.STATE 2).trans (ctlSame_modCd _ hc _)).trans (ctlSame_cdSettle _ hc)

theorem ctlSame_cdEnd : ctlSame s (s.cdEnd c) := by
  unfold State.cdEnd
  split
  · exact .refl s
  · dsimp only
    split
    · exact (ctlSame_modCd s hc _).trans (ctlSame_cdHiz _ hc)
    · exact (ctlSame_modCd s hc _).trans (ctlSame_cdRamp _ hc)

end cdac

theorem ctlSame_cdDrain (s : State) : ctlSame s s.cdDrain :=
  (ctlSame.refl s).each fun t c hc => by
    have hc := List.mem_range.1 hc
    split
    · exact .refl t
    · split
      · exact ctlSame_modCd t hc _
      · exact ctlSame_cdEnd t hc

theorem ctlSame_cdResume (s : State) : ctlSame s s.cdResume :=
  (ctlSame.refl s).each fun t _ hc => (ctlSame.refl t).when (ctlSame_cdStart t (List.mem_range.1 hc))

theorem ctlSame_setRun (s : State) (k v : Nat) : ctlSame s (s.setRun k v) := by
  unfold State.setRun
  exact .when ((ctlSame.refl s).setBit _ _ _) ((ctlSame.refl _).setBit _ _ _)

theorem ctlSame_pwStop (s : State) (k : Nat) : ctlSame s (s.pwStop k) := .trans ((ctlSame.refl s).modPw _ _) (ctlSame_setRun _ k 0)

theorem ctlSame_pwClamp (s : State) (k : Nat) : ctlSame s (s.pwClamp k) := by
  unfold State.pwClamp
  dsimp only
  split
  · exact ((ctlSame.refl s).setBit _ _ _).raise _ _
  · exact .refl s

theorem ctlSame_pwStart (s : State) (k : Nat) : ctlSame s (s.pwStart k) := by
  unfold State.pwStart
  exact .trans (.trans ((((ctlSame.refl s).startClock _).modPw _ _).modPw _ _) (ctlSame_setRun _ k 1)) (ctlSame_pwClamp _ k)

theorem ctlSame_pwDrain (s : State) : ctlSame s s.pwDrain :=
  (ctlSame.refl s).each fun t k _ => by
    split
    · split
      · exact ctlSame_pwStop t k
      · exact (ctlSame.refl t).modPw _ _
    · exact .refl t

theorem ctlSame_pwResume (s : State) : ctlSame s s.pwResume :=
  (ctlSame.refl s).each fun t k _ => (ctlSame.refl t).when (ctlSame_pwStart t k)

/-! ### Pages (R438 to R441) -/

/-- A fill cancelled where it stands writes no granule more. -/
theorem ctlSame_fillCancel (s : State) : ctlSame s (s.fillCancel 0) := by
  have hto : s.fillTo (s.ms.fillNext + 32 * 0) = s := by
    unfold State.fillTo
    exact if_pos (min_le_left _ _)
  unfold State.fillCancel State.fillEndWith
  rw [hto]
  split
  · exact ((((ctlSame.refl s).wr _ (not_ctlAddr (by decide) (by decide) (by decide))).wr _
      (not_ctlAddr (by decide) (by decide) (by decide))).setFld _).raise _ _
  · exact .refl s

/-- What ENABLE 0 does to a page's work leaves every PAGE_CTRL and PAGE_STAT. -/
theorem ctlSame_drainPage (s : State) (fam i : Nat) : ctlSame s (s.drainPage fam i) := by
  unfold State.drainPage
  dsimp only
  split
  · exact (ctlSame.refl s).each fun t e _ => ctlSame_drainEng t _
  · exact (ctlSame.refl s).when (.trans ((ctlSame.refl s).modPart _ _) (ctlSame_fwShow _ i))
  · exact .when (ctlSame_dawnRxSettle s i) (ctlSame_dawnEnd _ i 4)
  · exact (ctlSame.refl s).when (ctlSame_fillCancel s)
  · exact (ctlSame.refl s).when (((ctlSame.refl s).cap _).setFld _)
  · exact (ctlSame.refl s).when ((ctlSame.refl s).regs rfl)
  · exact (ctlSame.refl s).when ((ctlSame.refl s).regs rfl)
  · exact (ctlSame.refl s).when (ctlSame_hkDrain s)
  · exact ctlSame_cdDrain s
  · exact ctlSame_pwDrain s
  · exact .refl s

/-- Opening a page writes FSTATE, and then no PAGE_CTRL or PAGE_STAT. -/
theorem ctlSame_openPage (s : State) (fam i : Nat) : ctlSame (s.setFld (pageAt fam i) HDR.FSTATE 1) (s.openPage fam i) := by
  unfold State.openPage
  dsimp only
  generalize s.setFld (pageAt fam i) HDR.FSTATE 1 = t
  split
  · exact (ctlSame.refl t).each fun t e _ => ctlSame_releaseEng t _
  · exact (ctlSame_dawnRxSettle t i).trans (ctlSame_dawnSettle _ i)
  · exact (ctlSame.refl t).when (ctlSame_seqOn t)
  · exact ctlSame_cdResume t
  · exact ctlSame_pwResume t
  · exact .refl t

end Sys2Proof.Proofs

namespace Sys2Proof.Proofs

open Sys2Proof Sys2Proof.Machine Sys2Proof.Safety Sys2Proof.Laws

/-! ## The effect of a write of PAGE_CTRL (R12, R438) -/

/-- What `ctlSame` says of one page: its PAGE_CTRL and its PAGE_STAT. -/
theorem ctlSame.page {s t : State} (h : ctlSame s t) {b : Nat} (hb : b % 0x1000 = 0) :
    t.rd (b + HDR.PAGE_CTRL) = s.rd (b + HDR.PAGE_CTRL) ∧ t.rd (b + HDR.PAGE_STAT) = s.rd (b + HDR.PAGE_STAT) := by
  have h8 : HDR.PAGE_CTRL = 0x008 := rfl
  have hc : HDR.PAGE_STAT = 0x00C := rfl
  exact ⟨h.rd _ (.inl (by omega)), h.rd _ (.inr (by omega))⟩

/-- A field of a page depends on its register alone. -/
theorem fld_congr {s t : State} {b : Nat} {f : Fld} (h : t.rd (b + f.off) = s.rd (b + f.off)) : t.fld b f = s.fld b f := by
  unfold State.fld
  rw [h]

theorem bit_congr {s t : State} {b : Nat} {f : Fld} (h : t.rd (b + f.off) = s.rd (b + f.off)) : t.bit b f = s.bit b f := by
  unfold State.bit
  rw [fld_congr h]

/-- A drain that ends leaves FSTATE as ENABLE says, and PAGE_CTRL as it was (R438). -/
theorem closePage_ctl (s : State) (fam i : Nat) :
    (s.closePage fam i).fstate (pageAt fam i) = (if s.bit (pageAt fam i) HDR.ENABLE then 1 else 0)
      ∧ (s.closePage fam i).rd (pageAt fam i + HDR.PAGE_CTRL) = s.rd (pageAt fam i + HDR.PAGE_CTRL) := by
  have hb := pageAt_mod fam i
  obtain ⟨hctl, -⟩ := ((ctlSame.refl s).when (c := fam == 28) (ctlSame_hkDrained s)).page hb
  unfold State.closePage
  dsimp only
  generalize s.when (fam == 28) State.hkDrained = t at hctl
  have hctl0 (v : Nat) : (t.setFld (pageAt fam i) HDR.FSTATE v).rd (pageAt fam i + HDR.PAGE_CTRL) = s.rd (pageAt fam i + HDR.PAGE_CTRL) := by
    rw [rd_setFld_ne _ _ _ _ _ (by simp [HDR.PAGE_CTRL]), hctl]
  rw [bit_congr (f := HDR.ENABLE) (hctl0 0)]
  split
  · obtain ⟨hc, hf⟩ := (ctlSame_openPage (t.setFld (pageAt fam i) HDR.FSTATE 0) fam i).page hb
    refine ⟨?_, ?_⟩
    · exact (fld_congr (f := HDR.FSTATE) hf).trans (fld_setFld _ _ _ _ (by decide))
    · rw [hc, rd_setFld_ne _ _ _ _ _ (by simp [HDR.PAGE_CTRL]), hctl0]
  · exact ⟨fld_setFld _ _ _ _ (by decide), hctl0 0⟩

/-- PAGE_CTRL as written: LOCK stays set, DRAIN and ENABLE are taken. -/
def ctrlTaken (s : State) (b : Nat) (v : Word) (en : Bool) : State :=
  ((s.when (v.getLsbD 31) fun s => s.setFld b HDR.LOCK 1).setFld b HDR.DRAIN (getBits v 1 1)).setFld b HDR.ENABLE (if en then 1 else 0)

/-- A change of ENABLE acts on the page's function. -/
def enableActs (s : State) (fam i : Nat) (en : Bool) : State :=
  if !en && s.fstate (pageAt fam i) == 1 then
    let s := (s.setFld (pageAt fam i) HDR.FSTATE 2).drainPage fam i
    if s.pageBusy fam i then s else s.closePage fam i
  else if en && s.fstate (pageAt fam i) == 0 then s.openPage fam i
  else s

/-- A write of PAGE_CTRL is taken, acts, and sets off what the change sets off. -/
theorem effPageCtrl_eq (fam i : Nat) (v : Word) (s : State) :
    effPageCtrl fam i v s = .ok (watch s (State.serveWatch s
      (enableActs (ctrlTaken s (pageAt fam i) v (v.getLsbD 0 || fixedPage fam)) fam i (v.getLsbD 0 || fixedPage fam)))) := rfl

theorem onlyRegs_ctrlTaken (s : State) (b : Nat) (v : Word) (en : Bool) : onlyRegs s (ctrlTaken s b v en) [b + HDR.PAGE_CTRL] := by
  have h : onlyRegs s (s.when (v.getLsbD 31) fun s => s.setFld b HDR.LOCK 1) [b + HDR.PAGE_CTRL] :=
    when_ind (P := fun t => onlyRegs s t [b + HDR.PAGE_CTRL]) s _ _ (onlyRegs_refl s _) fun _ => onlyRegs_setFld s b HDR.LOCK 1
  exact onlyRegs_trans (onlyRegs_trans h (onlyRegs_setFld _ b HDR.DRAIN _)) (onlyRegs_setFld _ b HDR.ENABLE _)

/-- ENABLE, LOCK and FSTATE once PAGE_CTRL is written. -/
theorem ctrlTaken_fields (s : State) (b : Nat) (v : Word) (en : Bool) :
    (ctrlTaken s b v en).bit b HDR.ENABLE = en ∧ (v.getLsbD 31 = true → (ctrlTaken s b v en).bit b HDR.LOCK = true)
      ∧ (ctrlTaken s b v en).fstate b = s.fstate b := by
  refine ⟨?_, fun hv => ?_, ?_⟩
  · unfold ctrlTaken
    cases en
    · exact bit_setFld_zero _ _ _ (by decide)
    · exact bit_setFld_one _ _ _ (by decide) (by decide)
  · have h1 : (s.setFld b HDR.LOCK 1).bit b HDR.LOCK = true := bit_setFld_one s b HDR.LOCK (by decide) (by decide)
    unfold ctrlTaken
    rw [hv, when_true]
    unfold State.bit at *
    rw [fld_setFld_ne _ _ _ _ _ _ (.inr (by decide)), fld_setFld_ne _ _ _ _ _ _ (.inr (by decide))]
    exact h1
  · exact fld_congr (f := HDR.FSTATE) ((onlyRegs_ctrlTaken s b v en).2.2.2 _ (by simp [HDR.PAGE_CTRL]))

/-- What a change of ENABLE leaves: PAGE_CTRL, and FSTATE by the rules of R438. -/
theorem enableActs_ctl (s : State) (fam i : Nat) (en : Bool) (he : s.bit (pageAt fam i) HDR.ENABLE = en) :
    (enableActs s fam i en).rd (pageAt fam i + HDR.PAGE_CTRL) = s.rd (pageAt fam i + HDR.PAGE_CTRL)
      ∧ (en = true → (enableActs s fam i en).fstate (pageAt fam i) = if s.fstate (pageAt fam i) = 0 then 1 else s.fstate (pageAt fam i))
      ∧ (en = false → s.fstate (pageAt fam i) = 1 →
          (enableActs s fam i en).fstate (pageAt fam i) = 0 ∨ (enableActs s fam i en).fstate (pageAt fam i) = 2)
      ∧ (en = false → s.fstate (pageAt fam i) ≠ 1 → (enableActs s fam i en).fstate (pageAt fam i) = s.fstate (pageAt fam i)) := by
  have hb := pageAt_mod fam i
  unfold enableActs
  cases en
  · by_cases h1 : s.fstate (pageAt fam i) = 1
    · obtain ⟨hc, hf⟩ := (ctlSame_drainPage (s.setFld (pageAt fam i) HDR.FSTATE 2) fam i).page hb
      rw [rd_setFld_ne _ _ _ _ _ (by simp [HDR.PAGE_CTRL])] at hc
      have hdrain : ((s.setFld (pageAt fam i) HDR.FSTATE 2).drainPage fam i).fstate (pageAt fam i) = 2 :=
        (fld_congr (f := HDR.FSTATE) hf).trans (fld_setFld _ _ _ _ (by decide))
      simp only [h1, Bool.not_false, beq_self_eq_true, Bool.and_self, if_true]
      generalize (s.setFld (pageAt fam i) HDR.FSTATE 2).drainPage fam i = t at hc hdrain
      split
      · exact ⟨hc, by simp, fun _ _ => .inr hdrain, by simp⟩
      · obtain ⟨hf', hc'⟩ := closePage_ctl t fam i
        rw [bit_congr (f := HDR.ENABLE) hc, he] at hf'
        exact ⟨hc'.trans hc, by simp, fun _ _ => .inl hf', by simp⟩
    · simp [h1]
  · by_cases h0 : s.fstate (pageAt fam i) = 0
    · obtain ⟨hc, hf⟩ := (ctlSame_openPage s fam i).page hb
      rw [rd_setFld_ne _ _ _ _ _ (by simp [HDR.PAGE_CTRL])] at hc
      have hopen : (s.openPage fam i).fstate (pageAt fam i) = 1 :=
        (fld_congr (f := HDR.FSTATE) hf).trans (fld_setFld _ _ _ _ (by decide))
      simp [h0, hc, hopen]
    · simp [h0]

end Sys2Proof.Proofs

namespace Sys2Proof.Proofs

open Sys2Proof Sys2Proof.Machine Sys2Proof.Safety Sys2Proof.Laws

/-! ## A change of one page's header sets nothing off elsewhere (R142, R170, R198) -/

/-- `t` is `s` but for PAGE_CTRL and PAGE_STAT of the page at `b`. -/
structure headerOnly (b : Nat) (s t : State) : Prop where
  same : t = { s with regs := t.regs }
  rd : ∀ a, a ≠ b + HDR.PAGE_CTRL → a ≠ b + HDR.PAGE_STAT → t.rd a = s.rd a

namespace headerOnly
variable {b : Nat} {s t : State}

theorem refl (b : Nat) (s : State) : headerOnly b s s := ⟨rfl, fun _ _ _ => rfl⟩

theorem setFld (h : headerOnly b s t) (f : Fld) (v : Nat) (hf : f.off = HDR.PAGE_CTRL ∨ f.off = HDR.PAGE_STAT) :
    headerOnly b s (t.setFld b f v) where
  same := by
    rw [State.setFld, wr_eq]
    exact congrArg (fun x : State =>
      { x with regs := Tbl.put (some (regReset (b + f.off))) t.regs (b + f.off) (putBits (t.rd (b + f.off)) f.lo f.width v) }) h.same
  rd a h1 h2 := by
    rw [rd_setFld_ne _ _ _ _ _ (by rcases hf with hf | hf <;> rw [hf] <;> assumption), h.rd a h1 h2]

theorem pending (h : headerOnly b s t) : t.pending = s.pending := by rw [h.same]

theorem cores (h : headerOnly b s t) : t.cores = s.cores := by rw [h.same]

theorem mem (h : headerOnly b s t) : t.mem = s.mem := by rw [h.same]

theorem ms (h : headerOnly b s t) : t.ms = s.ms := by rw [h.same]

theorem hosts (h : headerOnly b s t) : t.hosts = s.hosts := by rw [h.same]; rfl

theorem supState (h : headerOnly b s t) : t.supState = s.supState := by rw [h.same]

theorem clu (h : headerOnly b s t) (c : Nat) : t.clu c = s.clu c := by rw [h.same]; rfl

theorem boot (h : headerOnly b s t) : t.boot = s.boot := by rw [h.same]

/-- The frame of such a change. -/
theorem onlyRegs (h : headerOnly b s t) : onlyRegs s t [b + HDR.PAGE_CTRL, b + HDR.PAGE_STAT] := by
  refine ⟨h.pending, core_congr h.cores, byte_congr h.mem (by rw [h.ms]), fun a ha => ?_⟩
  · simp only [List.mem_cons, List.not_mem_nil, or_false, not_or] at ha
    exact h.rd a ha.1 ha.2

/-- A field of a page's own registers stays. -/
theorem fld (h : headerOnly b s t) (hb : b % 0x1000 = 0) {b' : Nat} (f : Fld) (hb' : b' % 0x1000 = 0 := by simp) (hlo : 0x40 ≤ f.off := by decide)
    (hhi : f.off < 0x1000 := by decide) : t.fld b' f = s.fld b' f := by
  have h1 : HDR.PAGE_CTRL = 0x008 := rfl
  have h2 : HDR.PAGE_STAT = 0x00C := rfl
  exact fld_congr (h.rd _ (by omega) (by omega))

theorem bit (h : headerOnly b s t) (hb : b % 0x1000 = 0) {b' : Nat} (f : Fld) (hb' : b' % 0x1000 = 0 := by simp) (hlo : 0x40 ≤ f.off := by decide)
    (hhi : f.off < 0x1000 := by decide) : t.bit b' f = s.bit b' f := by
  unfold State.bit
  rw [h.fld hb f hb' hlo hhi]

end headerOnly

/-- A coefficient port has eight targets. -/
theorem targetOf_lt {page c k : Nat} (hp : targetOf page = some (c, k)) : k < 8 := by
  unfold targetOf at hp
  split_ifs at hp <;> simp only [Option.some.injEq, Prod.mk.injEq] at hp <;> omega

section quiet
variable {b : Nat} {s t : State} (h : headerOnly b s t) (hb : b % 0x1000 = 0)
include h hb

theorem portOn_headerOnly {p : Nat} (hp : p < 8) : t.portOn p = s.portOn p := by
  have h1 : HDR.PAGE_CTRL = 0x008 := rfl
  have h2 : HDR.PAGE_STAT = 0x00C := rfl
  have h3 : pPORT + PORT.PORT_EN = 0x10040044 := rfl
  unfold State.portOn State.portDefined State.portBit
  rw [h.bit hb _ (by decide) (by simp [fldAt]; omega) (by simp [fldAt]; omega), h.rd _ (by omega) (by omega)]

theorem portK_headerOnly {p : Nat} (hp : p < 8) : t.portK p = s.portK p := by
  unfold State.portK
  rw [h.fld hb _ (by decide) (by simp [fldAt]; omega) (by simp [fldAt]; omega)]

theorem portLanes_headerOnly {p : Nat} (hp : p < 8) : t.portLanes p = s.portLanes p := by
  unfold State.portLanes
  rw [portK_headerOnly h hb hp]

theorem portHasHost_headerOnly {p : Nat} (hp : p < 8) (m : Nat) : t.portHasHost p m = s.portHasHost p m := by
  unfold State.portHasHost State.portHosts State.m400 State.halfRate
  rw [portK_headerOnly h hb hp, h.bit hb PORT.MODE.LINE (by decide), h.bit hb PORT.MODE.HRATE (by decide), h.fld hb HSL.LANE_CFG.RX_LOG,
    h.fld hb HSL.LANE_CFG.TX_LOG]

theorem portState_headerOnly {p : Nat} (hp : p < 8) : t.portState p = s.portState p := by
  have hl (n : Nat) : t.locked n = s.locked n := by
    unfold State.locked
    rw [h.fld hb LRX.LN_STAT.STATE]
  have hf : t.hostFault p = s.hostFault p := by
    have hrx (m : Nat) : t.fld (pHSL m) HSL.RX_STAT.STATE = s.fld (pHSL m) HSL.RX_STAT.STATE := h.fld hb _
    unfold State.hostFault
    simp only [portHasHost_headerOnly h hb hp, h.hosts, hrx]
  unfold State.portState State.allLocked
  rw [portOn_headerOnly h hb hp, portLanes_headerOnly h hb hp, hf, funext hl,
    h.bit hb _ (by decide) (by simp [fldAt]; omega) (by simp [fldAt]; omega),
    h.bit hb OFEC.OF_STAT.RX_CW_LOCK]

theorem coreState_headerOnly (k : Nat) : t.coreState k = s.coreState k := by
  unfold State.coreState
  split
  · exact h.supState
  · exact h.fld hb _ (by simp) (by simp [eCtrl, fldAt]; omega) (by simp [eCtrl, fldAt]; omega)

theorem served_headerOnly (c : Nat) {k : Nat} (hk : k < 8) : t.served c k = s.served c k := by
  have hfld (f : Fld) (hlo : 0x40 ≤ f.off) (hhi : f.off < 0xF00) : t.fld (pCLU c) (fldAt f (4 * k)) = s.fld (pCLU c) (fldAt f (4 * k)) :=
    h.fld hb _ (by simp) (by simp [fldAt]; omega) (by simp [fldAt]; omega)
  have ho : t.cpOwner c k = s.cpOwner c k := by
    unfold State.cpOwner State.bit
    rw [hfld CLU.CP_OWN.VALID (by decide) (by decide), hfld CLU.CP_OWN.CLUSTER (by decide) (by decide),
      hfld CLU.CP_OWN.ENGINE (by decide) (by decide)]
  have hc : t.clu c = s.clu c := h.clu c
  unfold State.served
  simp only [ho, hc, coreState_headerOnly h hb]

theorem servedPage_headerOnly (page : Nat) : t.servedPage page = s.servedPage page := by
  unfold State.servedPage
  split
  · rename_i c k hp
    exact served_headerOnly h hb c (targetOf_lt hp)
  · rfl

theorem frozen_headerOnly {p : Nat} (hp : p < 8) : t.frozen p = s.frozen p := by
  unfold State.frozen
  simp only [portOn_headerOnly h hb hp, portLanes_headerOnly h hb hp, h.hosts, portHasHost_headerOnly h hb hp,
    servedPage_headerOnly h hb]

end quiet

/-- Steps that each leave the state leave it together. -/
theorem each_eq_self (l : List Nat) (s : State) (f : State → Nat → State) (h : ∀ a ∈ l, f s a = s) : s.each l f = s := by
  unfold State.each
  induction l with
  | nil => rfl
  | cons a l ih =>
    rw [List.foldl_cons, h a List.mem_cons_self]
    exact ih fun a ha => h a (List.mem_cons_of_mem _ ha)

/-- A change of one page's header ends no service of a coefficient port. -/
theorem serveWatch_headerOnly {b : Nat} {s t : State} (h : headerOnly b s t) (hb : b % 0x1000 = 0) : State.serveWatch s t = t :=
  each_eq_self _ _ _ fun c _ => each_eq_self _ _ _ fun k hk => by
    rw [served_headerOnly h hb c (List.mem_range.1 hk)]
    simp

/-- With no self-test and no visit of a calibration unit under way, a change of one page's header sets nothing off. -/
theorem watch_headerOnly {b : Nat} {s t : State} (h : headerOnly b s t) (hb : b % 0x1000 = 0) (hq : settled s) : watch s t = t := by
  obtain ⟨hbist, hunits⟩ := hq
  have hloop : t.loopStarted = false := by
    unfold State.loopStarted
    rw [h.boot, hbist]
  unfold watch
  dsimp only
  rw [hloop, when_false, each_eq_self (List.range 8) t, each_eq_self]
  · intro u hu
    have hu := List.mem_range.1 hu
    have hphase : t.phase u = 0 := by
      rw [← (hunits u hu).1]
      exact h.fld hb _ (by decide) (by simp [uf, fldAt]; omega) (by simp [uf, fldAt]; omega)
    simp [hphase]
  · intro p hp
    have hp := List.mem_range.1 hp
    simp [portState_headerOnly h hb hp, frozen_headerOnly h hb hp]

end Sys2Proof.Proofs

namespace Sys2Proof.Proofs

open Sys2Proof Sys2Proof.Machine Sys2Proof.Safety Sys2Proof.Laws

/-! ## Writes of PAGE_CTRL (R12, R438, R439, R441) -/

/-- The word that PAGE_ENABLE and PAGE_LOCK write has ENABLE and LOCK as they ask. -/
theorem pageCtrl_bits (s : State) (b : Nat) (en lock : Bool) :
    (s.pageCtrl b en lock).getLsbD 0 = en ∧ (s.pageCtrl b en lock).getLsbD 31 = lock := by
  have hd : s.fld b HDR.DRAIN < 2 := getBits_lt _ _ 1
  unfold State.pageCtrl
  generalize s.fld b HDR.DRAIN = d at hd
  have : d = 0 ∨ d = 1 := by omega
  rcases this with rfl | rfl <;> revert en lock <;> decide

/-- PAGE_CTRL is taken and the page's function has acted on it. -/
def ctrlActed (s : State) (fam i : Nat) (v : Word) : State :=
  enableActs (ctrlTaken s (pageAt fam i) v (v.getLsbD 0 || fixedPage fam)) fam i (v.getLsbD 0 || fixedPage fam)

/-- What a write of PAGE_CTRL leaves once the requester is told. -/
def ctrlDone (s : State) (r : Requester) (fam i : Nat) (v : Word) : State :=
  (watch s (State.serveWatch s (ctrlActed s fam i v))).reportOk r

theorem txn_pageCtrl {s : State} {r : Requester} {fam i : Nat} {v : Word} (h : reaches s r fam i HDR.PAGE_CTRL v) :
    txn r (pageAt fam i + HDR.PAGE_CTRL) v (effPageCtrl fam i v) s = .next (ctrlDone s r fam i v) := by
  rw [txn_reaches _ _ _ _ _ _ _ h (pageAt_mod4 fam i), effPageCtrl_eq]
  rfl

/-- What a change sets off leaves the page's header as it was written. -/
theorem ctlSame_ctrlDone (s : State) (r : Requester) (fam i : Nat) (v : Word) : ctlSame (ctrlActed s fam i v) (ctrlDone s r fam i v) :=
  ((ctlSame_serveWatch s _).trans (ctlSame_watch s _)).trans ⟨fun _ _ => rd_reportOk ..⟩

/-- The page's header after a write of PAGE_CTRL that makes ENABLE `en`. -/
theorem ctrlDone_fields (s : State) (r : Requester) (fam i : Nat) (v : Word) {en : Bool} (he : (v.getLsbD 0 || fixedPage fam) = en) :
    (ctrlDone s r fam i v).bit (pageAt fam i) HDR.ENABLE = en
      ∧ (v.getLsbD 31 = true → (ctrlDone s r fam i v).bit (pageAt fam i) HDR.LOCK = true)
      ∧ (en = true → (ctrlDone s r fam i v).fstate (pageAt fam i) = if s.fstate (pageAt fam i) = 0 then 1 else s.fstate (pageAt fam i))
      ∧ (en = false → s.fstate (pageAt fam i) = 1 →
          (ctrlDone s r fam i v).fstate (pageAt fam i) = 0 ∨ (ctrlDone s r fam i v).fstate (pageAt fam i) = 2)
      ∧ (en = false → s.fstate (pageAt fam i) ≠ 1 → (ctrlDone s r fam i v).fstate (pageAt fam i) = s.fstate (pageAt fam i)) := by
  obtain ⟨hctl, hstat⟩ := (ctlSame_ctrlDone s r fam i v).page (pageAt_mod fam i)
  rw [show (ctrlDone s r fam i v).fstate (pageAt fam i) = (ctrlActed s fam i v).fstate (pageAt fam i) from fld_congr (f := HDR.FSTATE) hstat,
    bit_congr (f := HDR.ENABLE) hctl, bit_congr (f := HDR.LOCK) hctl, ctrlActed, he]
  obtain ⟨hen, hlock, hst⟩ := ctrlTaken_fields s (pageAt fam i) v en
  obtain ⟨hkeep, hon, hoff, hoff'⟩ := enableActs_ctl _ fam i en hen
  rw [hst] at hon hoff hoff'
  rw [bit_congr (f := HDR.ENABLE) hkeep, bit_congr (f := HDR.LOCK) hkeep]
  exact ⟨hen, hlock, hon, hoff, hoff'⟩

/-- The word that PAGE_DISABLE writes has ENABLE 0. -/
theorem disableWord_bit (c : Bool) : (if c then 2 else 0 : Word).getLsbD 0 = false := by
  cases c <;> rfl

/-- A page of any family is enabled, disabled, locked, and ends its drain by R438. -/
theorem pageHeader_general (s : State) (r : Requester) (fam : Fin 32) (i : Fin 16) :
    (reaches s r fam i HDR.PAGE_CTRL (s.pageCtrl (pageAt fam i) (s.bit (pageAt fam i) HDR.ENABLE) true) →
        completes (.pageLock r fam i) s (fun t => t.bit (pageAt fam i) HDR.LOCK = true))
      ∧ (∀ c : Bool, reaches s r fam i HDR.PAGE_CTRL (if c then 2 else 0) → fixedPage fam = false →
        completes (.pageDisable r fam i c) s (fun t => t.bit (pageAt fam i) HDR.ENABLE = false
          ∧ (s.fstate (pageAt fam i) = 1 → t.fstate (pageAt fam i) = 0 ∨ t.fstate (pageAt fam i) = 2)
          ∧ (s.fstate (pageAt fam i) ≠ 1 → t.fstate (pageAt fam i) = s.fstate (pageAt fam i))))
      ∧ (reaches s r fam i HDR.PAGE_CTRL (s.pageCtrl (pageAt fam i) true false) →
        completes (.pageEnable r fam i) s (fun t => t.bit (pageAt fam i) HDR.ENABLE = true
          ∧ t.fstate (pageAt fam i) = (if s.fstate (pageAt fam i) = 0 then 1 else s.fstate (pageAt fam i))))
      ∧ (s.fstate (pageAt fam i) = 2 → s.pageBusy fam i = false →
        completes (.pageDrainDone fam i) s (fun t => t.fstate (pageAt fam i) = (if s.bit (pageAt fam i) HDR.ENABLE then 1 else 0))) := by
  refine ⟨fun h => ?_, fun c h hfix => ?_, fun h => ?_, fun hst hbusy => ?_⟩
  · obtain ⟨-, hlock, -⟩ := ctrlDone_fields s r fam i _ rfl
    exact ⟨_, txn_pageCtrl h, hlock (pageCtrl_bits ..).2⟩
  · obtain ⟨hen, -, -, hoff, hoff'⟩ := ctrlDone_fields s r fam i (if c then 2 else 0) (en := false) (by rw [disableWord_bit, hfix]; rfl)
    exact ⟨_, txn_pageCtrl h, hen, hoff rfl, hoff' rfl⟩
  · obtain ⟨hen, -, hon, -⟩ := ctrlDone_fields s r fam i (s.pageCtrl (pageAt fam i) true false) (en := true) (by rw [(pageCtrl_bits ..).1]; rfl)
    exact ⟨_, txn_pageCtrl h, hen, hon rfl⟩
  · refine ⟨watch s (s.closePage fam i), if_pos ⟨hst, by rw [hbusy]; rfl⟩, ?_⟩
    obtain ⟨-, hstat⟩ := (ctlSame_watch s (s.closePage fam i)).page (pageAt_mod fam i)
    exact (fld_congr (f := HDR.FSTATE) hstat).trans (closePage_ctl s fam i).1

/-! ### With nothing under way -/

/-- PAGE_CTRL taken changes no register but it. -/
theorem ctrlTaken_headerOnly (s : State) (b : Nat) (v : Word) (en : Bool) : headerOnly b s (ctrlTaken s b v en) :=
  ((when_ind (P := headerOnly b s) s _ _ (.refl b s) fun _ => (headerOnly.refl b s).setFld HDR.LOCK 1 (.inl rfl)).setFld
    HDR.DRAIN _ (.inl rfl)).setFld HDR.ENABLE _ (.inl rfl)

/-- Where a write changes its page's header alone, it sets nothing off. -/
theorem ctrlDone_settled {s : State} {fam i : Nat} {v : Word} (r : Requester) (h : headerOnly (pageAt fam i) s (ctrlActed s fam i v))
    (hq : settled s) : ctrlDone s r fam i v = (ctrlActed s fam i v).reportOk r := by
  unfold ctrlDone
  rw [serveWatch_headerOnly h (pageAt_mod fam i), watch_headerOnly h (pageAt_mod fam i) hq]

theorem onlyRegs_reportOk {s t : State} {l : List Nat} (h : onlyRegs s t l) (r : Requester) : onlyRegs s (t.reportOk r) l :=
  onlyRegs_trans h (onlyRegs_mono (nothing_reportOk t r) fun _ h => absurd h List.not_mem_nil)

/-- On an enabled page a write with ENABLE 1 in effect changes PAGE_CTRL alone. -/
theorem ctrlDone_enabled {s : State} {fam i : Nat} {v : Word} (r : Requester) (he : (v.getLsbD 0 || fixedPage fam) = true)
    (hst : s.fstate (pageAt fam i) = 1) (hq : settled s) : onlyRegs s (ctrlDone s r fam i v) [pageAt fam i + HDR.PAGE_CTRL] := by
  have hact : ctrlActed s fam i v = ctrlTaken s (pageAt fam i) v true := by
    obtain ⟨-, -, hst'⟩ := ctrlTaken_fields s (pageAt fam i) v true
    rw [ctrlActed, he, enableActs, hst', hst]
    rfl
  rw [ctrlDone_settled r (hact ▸ ctrlTaken_headerOnly ..) hq, hact]
  exact onlyRegs_reportOk (onlyRegs_ctrlTaken ..) r

/-- LOCK, and ENABLE 0 on a page whose ENABLE is fixed, change PAGE_CTRL alone. -/
theorem pageHeader_enabled (s : State) (r : Requester) (fam : Fin 32) (i : Fin 16) (hq : settled s) (hst : s.fstate (pageAt fam i) = 1)
    (hen : s.bit (pageAt fam i) HDR.ENABLE = true) :
    (reaches s r fam i HDR.PAGE_CTRL (s.pageCtrl (pageAt fam i) true true) →
        completes (.pageLock r fam i) s (fun t => t.bit (pageAt fam i) HDR.LOCK = true ∧ t.fstate (pageAt fam i) = 1
          ∧ onlyRegs s t [pageAt fam i + HDR.PAGE_CTRL]))
      ∧ (∀ b : Bool, reaches s r fam i HDR.PAGE_CTRL (if b then 2 else 0) → fixedPage fam = true →
        completes (.pageDisable r fam i b) s (fun t => t.fstate (pageAt fam i) = 1 ∧ t.bit (pageAt fam i) HDR.ENABLE = true
          ∧ onlyRegs s t [pageAt fam i + HDR.PAGE_CTRL])) := by
  refine ⟨fun h => ?_, fun b h hfix => ?_⟩
  · have he : ((s.pageCtrl (pageAt fam i) true true).getLsbD 0 || fixedPage fam) = true := by rw [(pageCtrl_bits ..).1]; rfl
    obtain ⟨-, hlock, hon, -⟩ := ctrlDone_fields s r fam i _ he
    refine ⟨_, ?_, hlock (pageCtrl_bits ..).2, (hon rfl).trans (by simp [hst]), ctrlDone_enabled r he hst hq⟩
    show execPageLock r fam i s = _
    rw [execPageLock, hen]
    exact txn_pageCtrl h
  · have he : ((if b then 2 else 0 : Word).getLsbD 0 || fixedPage fam) = true := by rw [hfix, Bool.or_true]
    obtain ⟨hen', -, hon, -⟩ := ctrlDone_fields s r fam i _ he
    exact ⟨_, txn_pageCtrl h, (hon rfl).trans (by simp [hst]), hen', ctrlDone_enabled r he hst hq⟩

/-! ### PERF pages: a sample record in flight keeps the page draining (R439) -/

section perf
variable {s t : State} {i : Nat} (h : headerOnly (pageAt 17 i) s t)
include h

theorem openPage_perf_headerOnly : headerOnly (pageAt 17 i) s (t.openPage 17 i) := h.setFld HDR.FSTATE 1 (.inr rfl)

theorem closePage_perf_headerOnly : headerOnly (pageAt 17 i) s (t.closePage 17 i) := by
  have h0 : headerOnly (pageAt 17 i) s (t.setFld (pageAt 17 i) HDR.FSTATE 0) := h.setFld HDR.FSTATE 0 (.inr rfl)
  show headerOnly _ _ (if (t.setFld (pageAt 17 i) HDR.FSTATE 0).bit (pageAt 17 i) HDR.ENABLE then _ else _)
  split
  · exact openPage_perf_headerOnly h0
  · exact h0

theorem enableActs_perf_headerOnly (en : Bool) : headerOnly (pageAt 17 i) s (enableActs t 17 i en) := by
  have h2 : headerOnly (pageAt 17 i) s ((t.setFld (pageAt 17 i) HDR.FSTATE 2).drainPage 17 i) := h.setFld HDR.FSTATE 2 (.inr rfl)
  unfold enableActs
  split
  · dsimp only
    split
    · exact h2
    · exact closePage_perf_headerOnly h2
  · split
    · exact openPage_perf_headerOnly h
    · exact h

/-- A disabled PERF page is DISABLED at once where no sample record is in flight. -/
theorem enableActs_perf_fstate (hst : t.fstate (pageAt 17 i) = 1) (hen : t.bit (pageAt 17 i) HDR.ENABLE = false) :
    (enableActs t 17 i false).fstate (pageAt 17 i) = if (s.clu i).due = [] then 0 else 2 := by
  have h2 : headerOnly (pageAt 17 i) s ((t.setFld (pageAt 17 i) HDR.FSTATE 2).drainPage 17 i) := h.setFld HDR.FSTATE 2 (.inr rfl)
  have hbusy : ((t.setFld (pageAt 17 i) HDR.FSTATE 2).drainPage 17 i).pageBusy 17 i = !(s.clu i).due.isEmpty := by
    rw [← h2.clu i]
    rfl
  have hdue : (s.clu i).due = [] ↔ (s.clu i).due.isEmpty = true := List.isEmpty_iff.symm
  unfold enableActs
  dsimp only
  rw [hst, if_pos (by rfl), hbusy]
  by_cases hd : (s.clu i).due.isEmpty = true
  · rw [if_neg (by simp [hd]), if_pos (hdue.2 hd), (closePage_ctl _ 17 i).1, bit_congr (t := State.drainPage _ 17 i) (s := t) (f := HDR.ENABLE), hen]
    · rfl
    · exact rd_setFld_ne _ _ _ _ _ (by simp)
  · rw [if_pos (by simp [hd]), if_neg (hdue.not.2 hd)]
    exact fld_setFld _ _ _ _ (by decide)

end perf

theorem pageHeader_perf (s : State) (r : Requester) (i : Fin 16) (hq : settled s) :
    (∀ c : Bool, s.fstate (pPERF i) = 1 → reaches s r 17 i HDR.PAGE_CTRL (if c then 2 else 0) →
        completes (.pageDisable r 17 i c) s (fun t => t.fstate (pPERF i) = (if (s.clu i).due = [] then 0 else 2)
          ∧ t.bit (pPERF i) HDR.ENABLE = false ∧ onlyRegs s t [pPERF i + HDR.PAGE_CTRL, pPERF i + HDR.PAGE_STAT]))
      ∧ (s.fstate (pPERF i) = 0 → reaches s r 17 i HDR.PAGE_CTRL (s.pageCtrl (pPERF i) true false) →
        completes (.pageEnable r 17 i) s (fun t => t.fstate (pPERF i) = 1 ∧ t.bit (pPERF i) HDR.ENABLE = true
          ∧ onlyRegs s t [pPERF i + HDR.PAGE_CTRL, pPERF i + HDR.PAGE_STAT]))
      ∧ (s.fstate (pPERF i) = 2 → reaches s r 17 i HDR.PAGE_CTRL (s.pageCtrl (pPERF i) true false) →
        completes (.pageEnable r 17 i) s (fun t => t.fstate (pPERF i) = 2 ∧ t.bit (pPERF i) HDR.ENABLE = true
          ∧ onlyRegs s t [pPERF i + HDR.PAGE_CTRL, pPERF i + HDR.PAGE_STAT]))
      ∧ (s.fstate (pPERF i) = 2 → (s.clu i).due = [] → completes (.pageDrainDone 17 i) s (fun t =>
          t.fstate (pPERF i) = (if s.bit (pPERF i) HDR.ENABLE then 1 else 0) ∧ onlyRegs s t [pPERF i + HDR.PAGE_STAT])) := by
  rw [show pPERF i = pageAt 17 i from rfl]
  have hdone (v : Word) : headerOnly (pageAt 17 i) s (ctrlActed s 17 i v) := enableActs_perf_headerOnly (ctrlTaken_headerOnly ..) _
  have honly (v : Word) : onlyRegs s (ctrlDone s r 17 i v) [pageAt 17 i + HDR.PAGE_CTRL, pageAt 17 i + HDR.PAGE_STAT] := by
    rw [ctrlDone_settled r (hdone v) hq]
    exact onlyRegs_reportOk (hdone v).onlyRegs r
  have henable : ((s.pageCtrl (pageAt 17 i) true false).getLsbD 0 || fixedPage 17) = true := by rw [(pageCtrl_bits ..).1]; rfl
  obtain ⟨hen, -, hon, -⟩ := ctrlDone_fields s r 17 i _ henable
  refine ⟨fun c hst h => ?_, fun hst h => ?_, fun hst h => ?_, fun hst hdue => ?_⟩
  · have hoff : ((if c then 2 else 0 : Word).getLsbD 0 || fixedPage 17) = false := by rw [disableWord_bit]; rfl
    refine ⟨_, txn_pageCtrl h, ?_, (ctrlDone_fields s r 17 i _ hoff).1, honly _⟩
    obtain ⟨hen0, -, hst'⟩ := ctrlTaken_fields s (pageAt 17 i) (if c then 2 else 0) false
    obtain ⟨-, hstat⟩ := (ctlSame_ctrlDone s r 17 i (if c then 2 else 0)).page (pageAt_mod 17 i)
    refine (fld_congr (f := HDR.FSTATE) hstat).trans ?_
    rw [ctrlActed, hoff]
    exact enableActs_perf_fstate (ctrlTaken_headerOnly ..) (hst'.trans hst) hen0
  · exact ⟨_, txn_pageCtrl h, (hon rfl).trans (if_pos hst), hen, honly _⟩
  · exact ⟨_, txn_pageCtrl h, (hon rfl).trans (by rw [hst]; rfl), hen, honly _⟩
  · have hclose : headerOnly (pageAt 17 i) s (s.closePage 17 i) := closePage_perf_headerOnly (.refl ..)
    obtain ⟨hf, hctl⟩ := closePage_ctl s 17 i
    have hbusy : s.pageBusy 17 i = false := by show (!(s.clu i).due.isEmpty) = false; rw [hdue]; rfl
    refine ⟨s.closePage 17 i, ?_, hf, ?_⟩
    · show execPageDrainDone 17 i s = _
      rw [execPageDrainDone, if_pos ⟨hst, congrArg (!·) hbusy⟩]
      exact congrArg _ (watch_headerOnly hclose (pageAt_mod 17 i) hq)
    · obtain ⟨hp, hc, hm, hr⟩ := hclose.onlyRegs
      refine ⟨hp, hc, hm, fun a ha => ?_⟩
      by_cases hac : a = pageAt 17 i + HDR.PAGE_CTRL
      · rw [hac, hctl]
      · exact hr a fun hmem => ha (by simpa [hac] using hmem)

end Sys2Proof.Proofs

namespace Sys2Proof.Proofs

open Sys2Proof Sys2Proof.Machine Sys2Proof.Safety Sys2Proof.Laws

/-! ## Latches (R180, R181, R417) -/

/-- A write of EVT_RAW clears the bits written 1 (R429). -/
theorem evtClear_clears_ones (s : State) (r : Requester) (fam : Fin 32) (i : Fin 16) (v : Word) (h : reaches s r fam i HDR.EVT_RAW v) :
    completes (.evtClear r fam i v) s (fun t => t.rd (rawAt fam i) = s.rd (rawAt fam i) &&& ~~~v ∧ onlyRegs s t [rawAt fam i]) := by
  refine ⟨(s.wr (rawAt fam i) (s.rd (rawAt fam i) &&& ~~~v)).reportOk r, ?_, by simp, onlyRegs_reportOk (onlyRegs_wr ..) r⟩
  exact txn_reaches s r fam i HDR.EVT_RAW v _ h (pageAt_mod4 fam i)

/-! ### Registers written one after another -/

/-- Words put into registers of the page at `b`, each named by its offset. -/
def putWords (s : State) (b : Nat) (l : List (Nat × Word)) : State := l.foldl (fun s p => s.wr (b + p.1) p.2) s

theorem putWords_append (s : State) (b : Nat) (l m : List (Nat × Word)) : putWords s b (l ++ m) = putWords (putWords s b l) b m :=
  List.foldl_append

theorem onlyRegs_putWords (s : State) (b : Nat) (l : List (Nat × Word)) : onlyRegs s (putWords s b l) (l.map fun p => b + p.1) := by
  refine List.foldlRecOn (motive := fun t => onlyRegs s t (l.map fun p => b + p.1)) l (fun s p => s.wr (b + p.1) p.2) (onlyRegs_refl s _)
    fun t h p hp => onlyRegs_trans h (onlyRegs_mono (onlyRegs_wr t _ _) fun a ha => ?_)
  rw [List.mem_singleton.1 ha]
  exact List.mem_map_of_mem (f := fun p => b + p.1) hp

theorem live_putWords (s : State) (b : Nat) (l : List (Nat × Word)) : (putWords s b l).live = s.live :=
  List.foldlRecOn (motive := fun t : State => t.live = s.live) l _ rfl fun _ h _ _ => (wr_live ..).trans h

theorem rd_putWords_ne (s : State) (b : Nat) (l : List (Nat × Word)) {off : Nat} (h : off ∉ l.map Prod.fst) :
    (putWords s b l).rd (b + off) = s.rd (b + off) :=
  (onlyRegs_putWords s b l).2.2.2 _ fun hm => h (by simpa using hm)

/-- Each register holds the word put there, where each is named once. -/
theorem rd_putWords (s : State) (b : Nat) {l : List (Nat × Word)} (hn : (l.map Prod.fst).Nodup) {off : Nat} {w : Word} (h : (off, w) ∈ l) :
    (putWords s b l).rd (b + off) = w := by
  induction l generalizing s with
  | nil => exact absurd h List.not_mem_nil
  | cons p l ih =>
    rw [List.map_cons, List.nodup_cons] at hn
    rcases List.mem_cons.1 h with rfl | h
    · exact (rd_putWords_ne _ b l hn.1).trans (rd_wr_self ..)
    · exact ih _ hn.2 h

/-- What a latch shows of the 64-bit live counters at the offsets `f k`. -/
def words64 (s : State) (b : Nat) (f : Nat → Nat) (l : List Nat) : List (Nat × Word) :=
  l.flatMap fun k => [(f k, BitVec.ofNat 32 (s.lv (b + f k))), (f k + 4, BitVec.ofNat 32 (s.lv (b + f k) / 2 ^ 32))]

/-- What a latch shows of the 32-bit live counters at the offsets `l`. -/
def words32 (s : State) (b : Nat) (l : List Nat) : List (Nat × Word) := l.map fun o => (o, BitVec.ofNat 32 (s.lv (b + o)))

theorem lv_congr {s t : State} (h : t.live = s.live) (a : Nat) : t.lv a = s.lv a := by rw [State.lv, State.lv, h]

theorem foldl_show64 (s : State) (b : Nat) (f : Nat → Nat) (l : List Nat) :
    l.foldl (fun s k => s.show64 (b + f k)) s = putWords s b (words64 s b f l) := by
  suffices ∀ t : State, t.live = s.live → l.foldl (fun s k => s.show64 (b + f k)) t = putWords t b (words64 s b f l) from this s rfl
  induction l with
  | nil => exact fun t _ => rfl
  | cons k l ih =>
    intro t ht
    rw [List.foldl_cons, ih _ (by simp [State.show64, ht]), State.show64, lv_congr ht, Nat.add_assoc]
    rfl

theorem foldl_show32 (s : State) (b : Nat) (l : List Nat) : l.foldl (fun s o => s.show32 (b + o)) s = putWords s b (words32 s b l) := by
  suffices ∀ t : State, t.live = s.live → l.foldl (fun s o => s.show32 (b + o)) t = putWords t b (words32 s b l) from this s rfl
  induction l with
  | nil => exact fun t _ => rfl
  | cons k l ih =>
    intro t ht
    rw [List.foldl_cons, ih _ (by simp [State.show32, ht]), State.show32, lv_congr ht]
    rfl

theorem words64_fst (s : State) (b : Nat) (f : Nat → Nat) (l : List Nat) : (words64 s b f l).map Prod.fst = l.flatMap fun k => [f k, f k + 4] :=
  List.map_flatMap

theorem words32_fst (s : State) (b : Nat) (l : List Nat) : (words32 s b l).map Prod.fst = l := by
  simp [words32, Function.comp_def]

/-- The two words shown of a 64-bit counter. -/
theorem mem_words64 (s : State) (b : Nat) (f : Nat → Nat) {l : List Nat} {k : Nat} (h : k ∈ l) :
    (f k, BitVec.ofNat 32 (s.lv (b + f k))) ∈ words64 s b f l ∧ (f k + 4, BitVec.ofNat 32 (s.lv (b + f k) / 2 ^ 32)) ∈ words64 s b f l :=
  ⟨List.mem_flatMap.2 ⟨k, h, List.mem_cons_self⟩, List.mem_flatMap.2 ⟨k, h, List.mem_cons_of_mem _ List.mem_cons_self⟩⟩

theorem mem_words32 (s : State) (b : Nat) {l : List Nat} {o : Nat} (h : o ∈ l) : (o, BitVec.ofNat 32 (s.lv (b + o))) ∈ words32 s b l :=
  List.mem_map_of_mem (f := fun o => (o, BitVec.ofNat 32 (s.lv (b + o)))) h

/-! ### The latch that copies -/

/-- Copies of the registers at the addresses `l` beside the live values. -/
def copyRegs (s : State) (l : List Nat) : State := l.foldl (fun s a => { s with latched := Tbl.insert s.latched a (s.rd a) }) s

theorem nothing_copyRegs (s : State) (l : List Nat) : nothing s (copyRegs s l) :=
  List.foldlRecOn (motive := nothing s) l _ ⟨rfl, fun _ => rfl, fun _ => rfl, fun _ _ => rfl⟩ fun _ h _ _ => h

theorem regs_copyRegs (s : State) (l : List Nat) : (copyRegs s l).regs = s.regs :=
  List.foldlRecOn (motive := fun t : State => t.regs = s.regs) l _ rfl fun _ h _ _ => h

/-- A register copied is found among the copies, and one not copied stays as it was there. -/
theorem latched_copyRegs (s : State) (l : List Nat) (a : Nat) :
    Tbl.find (copyRegs s l).latched a = if a ∈ l then some (s.rd a) else Tbl.find s.latched a := by
  suffices ∀ t : State, t.regs = s.regs →
      Tbl.find (copyRegs t l).latched a = if a ∈ l then some (s.rd a) else Tbl.find t.latched a from this s rfl
  induction l with
  | nil => exact fun t _ => rfl
  | cons x l ih =>
    intro t ht
    refine (ih { t with latched := Tbl.insert t.latched x (t.rd x) } ht).trans ?_
    dsimp only
    rw [find_insert, rd_congr ht]
    by_cases hl : a ∈ l
    · simp [hl]
    · by_cases hx : a = x
      · simp [hx]
      · simp [hl, hx]

theorem latchWide_eq (s : State) (b : Nat) (offs : List Nat) : s.latchWide b offs = copyRegs s (offs.map (b + ·)) := by
  rw [copyRegs, List.foldl_map]
  rfl

end Sys2Proof.Proofs

namespace Sys2Proof.Proofs

open Sys2Proof Sys2Proof.Machine Sys2Proof.Safety Sys2Proof.Laws

/-! ## The end of a latch (R180 to R182) -/

theorem onlyPage_putWords (s : State) (b : Nat) {l : List (Nat × Word)} (h : ∀ o ∈ l.map Prod.fst, o < 0x1000) : onlyPage s (putWords s b l) b :=
  onlyPage_of_onlyRegs (onlyRegs_putWords s b l) fun a ha => by
    obtain ⟨p, hp, rfl⟩ := List.mem_map.1 ha
    have := h p.1 (List.mem_map_of_mem hp)
    exact ⟨by omega, by omega⟩

/-- Live counters set to 0 read 0, and the others as they were. -/
theorem lv_foldl_clear (s : State) (b : Nat) (l : List Nat) (o : Nat) :
    (l.foldl (fun s o => s.setLv (b + o) 0) s).lv (b + o) = if o ∈ l then 0 else s.lv (b + o) := by
  induction l generalizing s with
  | nil => rfl
  | cons x l ih =>
    rw [List.foldl_cons, ih]
    by_cases hx : o = x
    · simp [hx]
    · simp [hx, lv_setLv_ne s (b + x) (b + o) 0 (by omega)]

theorem nothing_setLv (s : State) (a n : Nat) : nothing s (s.setLv a n) :=
  nothing_of_eq (by simp) (by simp) (by simp) (by simp) (by simp)

theorem nothing_clears (s : State) (b : Nat) (l : List Nat) : nothing s (l.foldl (fun s o => s.setLv (b + o) 0) s) :=
  List.foldlRecOn (motive := nothing s) l _ (onlyRegs_refl s []) fun t h o _ => onlyRegs_trans (l := []) h (nothing_setLv t (b + o) 0)

theorem onlyRegs_of_nothing {s t : State} (h : nothing s t) (l : List Nat) : onlyRegs s t l :=
  onlyRegs_mono h fun _ h => absurd h List.not_mem_nil

/-- The wrap flags of a latch, with WRAPPED where one sets. -/
def wrapsShown (s : State) (b statFlags : Nat) (wrapped : Ev) (inst : Nat) : State :=
  s.when (s.lv (b + statFlags) != 0) fun t =>
    ((t.wr (b + statFlags) (t.rd (b + statFlags) ||| BitVec.ofNat 32 (s.lv (b + statFlags)))).setLv (b + statFlags) 0).raise wrapped inst

/-- What a latch leaves before the live counters restart: SNAP_FRAME, the wrap flags, and SNAP_PEND 0. -/
def latchShown (s : State) (b snapFrame statFlags frame : Nat) (pend : Fld) (wrapped : Ev) (inst : Nat) : State :=
  ((wrapsShown (s.wr (b + snapFrame) (BitVec.ofNat 32 frame)) b statFlags wrapped inst).setFld b pend 0).setFld b HDR.SNAP_PEND 0

theorem latchEnd_eq (s : State) (b snapFrame statFlags frame : Nat) (pend clr : Fld) (wrapped : Ev) (inst : Nat) (live : List Nat) :
    s.latchEnd b snapFrame statFlags frame pend clr wrapped inst live = (latchShown s b snapFrame statFlags frame pend wrapped inst).when
      ((latchShown s b snapFrame statFlags frame pend wrapped inst).bit b clr) fun s => live.foldl (fun s o => s.setLv (b + o) 0) s := rfl

section latch
variable (s : State) {b : Nat} (snapFrame statFlags frame : Nat) (pend clr : Fld) {wrapped : Ev} {inst : Nat} (live : List Nat)

theorem onlyRegs_wrapsShown (hw : pageAt wrapped.fam inst = b) :
    onlyRegs s (wrapsShown s b statFlags wrapped inst) [b + statFlags, b + HDR.EVT_RAW] := by
  refine when_ind (P := fun t => onlyRegs s t [b + statFlags, b + HDR.EVT_RAW]) s _ _ (onlyRegs_refl s _) fun _ => ?_
  have hflags : onlyRegs s (s.wr (b + statFlags) (s.rd (b + statFlags) ||| BitVec.ofNat 32 (s.lv (b + statFlags))))
      [b + statFlags, b + HDR.EVT_RAW] := onlyRegs_mono (onlyRegs_wr ..) (by simp)
  refine onlyRegs_trans (onlyRegs_trans hflags (onlyRegs_of_nothing (nothing_setLv _ (b + statFlags) 0) _)) ?_
  refine onlyRegs_mono (onlyRegs_raise _ wrapped inst) ?_
  rw [rawAt, hw]
  simp

theorem lv_wrapsShown {o : Nat} (ho : o ≠ statFlags) : (wrapsShown s b statFlags wrapped inst).lv (b + o) = s.lv (b + o) :=
  when_ind (P := fun t => t.lv (b + o) = s.lv (b + o)) s _ _ rfl fun _ => by
    rw [lv_congr (raise_live ..), lv_setLv_ne _ _ _ _ (by omega), lv_congr (wr_live ..)]

/-- The registers that the end of a latch writes. -/
theorem onlyRegs_latchShown (hw : pageAt wrapped.fam inst = b) : onlyRegs s (latchShown s b snapFrame statFlags frame pend wrapped inst)
    [b + snapFrame, b + statFlags, b + HDR.EVT_RAW, b + pend.off, b + HDR.PAGE_STAT] := by
  have hframe : onlyRegs s (s.wr (b + snapFrame) (BitVec.ofNat 32 frame))
      [b + snapFrame, b + statFlags, b + HDR.EVT_RAW, b + pend.off, b + HDR.PAGE_STAT] := onlyRegs_mono (onlyRegs_wr ..) (by simp)
  have hflags := onlyRegs_trans hframe (onlyRegs_mono (onlyRegs_wrapsShown _ statFlags hw) (by simp))
  have hpend := onlyRegs_trans hflags (onlyRegs_mono (onlyRegs_setFld _ b pend 0) (by simp))
  exact onlyRegs_trans hpend (onlyRegs_mono (onlyRegs_setFld _ b HDR.SNAP_PEND 0) (by simp))

/-- The live counters beside the wrap flags stay until then. -/
theorem lv_latchShown {o : Nat} (ho : o ≠ statFlags) :
    (latchShown s b snapFrame statFlags frame pend wrapped inst).lv (b + o) = s.lv (b + o) := by
  rw [latchShown, lv_congr (setFld_live ..), lv_congr (setFld_live ..), lv_wrapsShown _ _ ho, lv_congr (wr_live ..)]

theorem onlyRegs_latchEnd (hw : pageAt wrapped.fam inst = b) :
    onlyRegs s (s.latchEnd b snapFrame statFlags frame pend clr wrapped inst live)
      [b + snapFrame, b + statFlags, b + HDR.EVT_RAW, b + pend.off, b + HDR.PAGE_STAT] := by
  have h := onlyRegs_latchShown s snapFrame statFlags frame pend hw
  rw [latchEnd_eq]
  refine when_ind (P := fun t => onlyRegs s t [b + snapFrame, b + statFlags, b + HDR.EVT_RAW, b + pend.off, b + HDR.PAGE_STAT]) _ _ _ h fun _ => ?_
  exact onlyRegs_trans h (onlyRegs_of_nothing (nothing_clears _ b live) _)

/-- A register that the end of a latch does not write. -/
theorem rd_latchEnd_ne (hw : pageAt wrapped.fam inst = b) {o : Nat} (ho : o ∉ [snapFrame, statFlags, HDR.EVT_RAW, pend.off, HDR.PAGE_STAT]) :
    (s.latchEnd b snapFrame statFlags frame pend clr wrapped inst live).rd (b + o) = s.rd (b + o) :=
  (onlyRegs_latchEnd s snapFrame statFlags frame pend clr live hw).2.2.2 _ (by simpa using ho)

theorem regs_latchEnd :
    (s.latchEnd b snapFrame statFlags frame pend clr wrapped inst live).regs = (latchShown s b snapFrame statFlags frame pend wrapped inst).regs := by
  rw [latchEnd_eq]
  exact when_ind (P := fun t : State => t.regs = _) _ _ _ rfl fun _ =>
    List.foldlRecOn (motive := fun t : State => t.regs = _) live _ rfl fun _ ht _ _ => (setLv_regs ..).trans ht

/-- The latch is no longer pending. -/
theorem pend_latchEnd (hp : 0x10 ≤ pend.off) (h32 : pend.lo + pend.width ≤ 32) :
    (s.latchEnd b snapFrame statFlags frame pend clr wrapped inst live).bit b pend = false := by
  have h : HDR.SNAP_PEND.off = 0x00C := rfl
  rw [bit_congr (rd_congr (regs_latchEnd ..) _)]
  rw [latchShown, bit_congr (rd_setFld_ne _ _ _ _ _ (by omega)), bit_setFld_zero _ _ _ h32]

/-- With CLR_ON_SNAP the live counters restart at 0. -/
theorem lv_latchEnd (hw : pageAt wrapped.fam inst = b) (hc : clr.off ∉ [snapFrame, statFlags, HDR.EVT_RAW, pend.off, HDR.PAGE_STAT])
    {o : Nat} (ho : o ∈ live) (hf : o ≠ statFlags) :
    (s.latchEnd b snapFrame statFlags frame pend clr wrapped inst live).lv (b + o) = if s.bit b clr then 0 else s.lv (b + o) := by
  have hclr : (latchShown s b snapFrame statFlags frame pend wrapped inst).bit b clr = s.bit b clr :=
    bit_congr ((onlyRegs_latchShown s snapFrame statFlags frame pend hw).2.2.2 _ (by simpa using hc))
  rw [latchEnd_eq, hclr]
  cases s.bit b clr
  · exact lv_latchShown s snapFrame statFlags frame pend hf
  · exact (lv_foldl_clear ..).trans (if_pos ho)

end latch

/-! ## IFEC and OFEC -/

/-- The words that the latch of an IFEC page shows. -/
def ifecWords (s : State) (b : Nat) : List (Nat × Word) := words64 s b (fun o => o) ifecWide ++ words32 s b (ifecNarrow ++ ifecLvl)

/-- The words that the latch of an OFEC page shows. -/
def ofecWords (s : State) (b : Nat) : List (Nat × Word) := words64 s b (fun o => o) (ofecWide ++ ofecStamps) ++ words32 s b [OFEC.TX_UNCORR]

theorem words32_congr {s t : State} (h : t.live = s.live) (b : Nat) (l : List Nat) : words32 t b l = words32 s b l := by
  unfold words32
  simp only [lv_congr h]

theorem latchIfec_eq (s : State) (n : Nat) :
    s.latchIfec n = (putWords s (pIFEC n) (ifecWords s (pIFEC n))).latchEnd (pIFEC n) IFEC.SNAP_FRAME IFEC.STAT_FLAGS
      ((putWords s (pIFEC n) (ifecWords s (pIFEC n))).rd (pLRX n + LRX.FRAME_CNT)).toNat IFEC.IF_STAT.SNAP_PEND IFEC.IF_CTRL.CLR_ON_SNAP
      IFEC.evWRAPPED n (ifecWide ++ ifecNarrow) := by
  rw [ifecWords, putWords_append, ← words32_congr (live_putWords s (pIFEC n) (words64 s (pIFEC n) (fun o => o) ifecWide)),
    ← foldl_show32, ← foldl_show64]
  rfl

theorem latchOfec_eq (s : State) (p : Nat) :
    s.latchOfec p = (putWords s (pOFEC p) (ofecWords s (pOFEC p))).latchEnd (pOFEC p) OFEC.SNAP_FRAME OFEC.STAT_FLAGS
      ((putWords s (pOFEC p) (ofecWords s (pOFEC p))).portSt p).frames OFEC.OF_STAT.SNAP_PEND OFEC.OF_CTRL.CLR_ON_SNAP
      OFEC.evWRAPPED p (ofecWide ++ [OFEC.TX_UNCORR, OFEC.TSF_NS]) := by
  rw [ofecWords, putWords_append, ← words32_congr (live_putWords s (pOFEC p) (words64 s (pOFEC p) (fun o => o) (ofecWide ++ ofecStamps))),
    ← foldl_show32, ← foldl_show64]
  rfl

/-- The offsets of an IFEC page's latch, and of an OFEC page's. -/
def ifecShown : List Nat := (ifecWide.flatMap fun o => [o, o + 4]) ++ (ifecNarrow ++ ifecLvl)

def ofecShown : List Nat := ((ofecWide ++ ofecStamps).flatMap fun o => [o, o + 4]) ++ [OFEC.TX_UNCORR]

theorem ifecWords_fst (s : State) (b : Nat) : (ifecWords s b).map Prod.fst = ifecShown := by
  rw [ifecWords, List.map_append, words64_fst, words32_fst]
  rfl

theorem ofecWords_fst (s : State) (b : Nat) : (ofecWords s b).map Prod.fst = ofecShown := by
  rw [ofecWords, List.map_append, words64_fst, words32_fst]
  rfl

/-- The registers that the end of a latch writes, by their offsets, the same on IFEC and OFEC pages. -/
def latchRegs : List Nat := [0x048, 0x04C, HDR.EVT_RAW, 0x044, HDR.PAGE_STAT]

theorem ifecShown_facts :
    ifecShown.Nodup ∧ (∀ o ∈ ifecShown, o < 0x1000) ∧ (∀ o ∈ ifecShown, o ∉ latchRegs) ∧ 0x040 ∉ ifecShown := by
  decide +kernel

theorem ofecShown_facts : ofecShown.Nodup ∧ (∀ o ∈ ofecShown, o < 0x1000) ∧ (∀ o ∈ ofecShown, o ∉ latchRegs) := by decide +kernel

/-- The registers that the end of a latch writes are in its page. -/
theorem latchRegs_inPage (b : Nat) : ∀ a ∈ [b + 0x048, b + 0x04C, b + HDR.EVT_RAW, b + 0x044, b + HDR.PAGE_STAT], inPage b a := by
  simp [inPage, HDR.EVT_RAW, HDR.PAGE_STAT]

theorem latchIfec_frame (s : State) (n : Nat) :
    onlyPage s (s.latchIfec n) (pIFEC n) ∧ (s.latchIfec n).bit (pIFEC n) IFEC.IF_STAT.SNAP_PEND = false := by
  obtain ⟨-, hlt, -⟩ := ifecShown_facts
  rw [latchIfec_eq]
  refine ⟨onlyPage_trans (onlyPage_putWords s _ (by rw [ifecWords_fst]; exact hlt)) (onlyPage_of_onlyRegs (onlyRegs_latchEnd (hw := rfl) ..)
    (latchRegs_inPage _)), pend_latchEnd _ _ _ _ _ _ _ (by decide) (by decide)⟩

/-- A register shown by the latch of an IFEC page. -/
theorem rd_latchIfec (s : State) (n : Nat) {o : Nat} {w : Word} (h : (o, w) ∈ ifecWords s (pIFEC n)) : (s.latchIfec n).rd (pIFEC n + o) = w := by
  obtain ⟨hnodup, -, hout, -⟩ := ifecShown_facts
  have ho := hout o (ifecWords_fst s (pIFEC n) ▸ List.mem_map_of_mem (f := Prod.fst) h)
  rw [latchIfec_eq, rd_latchEnd_ne (b := pIFEC n) (wrapped := IFEC.evWRAPPED) (hw := rfl) (ho := ho)]
  exact rd_putWords s _ (by rw [ifecWords_fst]; exact hnodup) h

theorem lv_latchIfec (s : State) (n : Nat) {o : Nat} (h : o ∈ ifecWide ++ ifecNarrow) :
    (s.latchIfec n).lv (pIFEC n + o) = if s.bit (pIFEC n) IFEC.IF_CTRL.CLR_ON_SNAP then 0 else s.lv (pIFEC n + o) := by
  have hflags : ∀ o ∈ ifecWide ++ ifecNarrow, o ≠ IFEC.STAT_FLAGS := by decide +kernel
  have hclr : (putWords s (pIFEC n) (ifecWords s (pIFEC n))).bit (pIFEC n) IFEC.IF_CTRL.CLR_ON_SNAP
      = s.bit (pIFEC n) IFEC.IF_CTRL.CLR_ON_SNAP :=
    bit_congr (rd_putWords_ne _ _ _ (by rw [ifecWords_fst]; exact ifecShown_facts.2.2.2))
  rw [latchIfec_eq, lv_latchEnd (b := pIFEC n) (wrapped := IFEC.evWRAPPED) (hw := rfl) (hc := by decide) (ho := h) (hf := hflags o h), hclr,
    lv_congr (live_putWords ..)]

theorem latchOfec_frame (s : State) (p : Nat) :
    onlyPage s (s.latchOfec p) (pOFEC p) ∧ (s.latchOfec p).bit (pOFEC p) OFEC.OF_STAT.SNAP_PEND = false := by
  obtain ⟨-, hlt, -⟩ := ofecShown_facts
  rw [latchOfec_eq]
  refine ⟨onlyPage_trans (onlyPage_putWords s _ (by rw [ofecWords_fst]; exact hlt)) (onlyPage_of_onlyRegs (onlyRegs_latchEnd (hw := rfl) ..)
    (latchRegs_inPage _)), pend_latchEnd _ _ _ _ _ _ _ (by decide) (by decide)⟩

theorem rd_latchOfec (s : State) (p : Nat) {o : Nat} {w : Word} (h : (o, w) ∈ ofecWords s (pOFEC p)) : (s.latchOfec p).rd (pOFEC p + o) = w := by
  obtain ⟨hnodup, -, hout⟩ := ofecShown_facts
  have ho := hout o (ofecWords_fst s (pOFEC p) ▸ List.mem_map_of_mem (f := Prod.fst) h)
  rw [latchOfec_eq, rd_latchEnd_ne (b := pOFEC p) (wrapped := OFEC.evWRAPPED) (hw := rfl) (ho := ho)]
  exact rd_putWords s _ (by rw [ofecWords_fst]; exact hnodup) h

/-- A latch pending on an IFEC page whose lane is OFF is taken. -/
theorem idleLatch_ifec (s : State) (n : Fin 8) (hp : s.bit (pIFEC n) IFEC.IF_STAT.SNAP_PEND = true) (hl : s.fld (pLRX n) LRX.LN_STAT.STATE = 0) :
    exec (.idleLatchTimeout false n) s = .next (s.latchIfec n) := by
  show execIdleLatchTimeout false n s = _
  simp [execIdleLatchTimeout, hp, hl]

/-- A latch pending on an OFEC page whose port does not run is taken. -/
theorem idleLatch_ofec (s : State) (n : Fin 8) (hp : s.bit (pOFEC n) OFEC.OF_STAT.SNAP_PEND = true) (hl : (s.portSt n).run = false) :
    exec (.idleLatchTimeout true n) s = .next (s.latchOfec n) := by
  show execIdleLatchTimeout true n s = _
  simp [execIdleLatchTimeout, hp, hl]

end Sys2Proof.Proofs

namespace Sys2Proof.Proofs

open Sys2Proof Sys2Proof.Machine Sys2Proof.Safety Sys2Proof.Laws

/-! ## A write of SNAP (R180, R268, R346, R417) -/

theorem completes_pageSnap {s : State} {r : Requester} {fam : Fin 32} {i : Fin 16} (h : reaches s r fam i HDR.SNAP 0) :
    exec (.pageSnap r fam i) s = .next ((s.snapPage fam i).reportOk r) :=
  txn_reaches s r fam i HDR.SNAP 0 _ h (pageAt_mod4 fam i)

/-- The words that the latch of a PERF page shows of its counters. -/
def perfWords (s : State) (c : Nat) : List (Nat × Word) := words64 s (pPERF c) (fun k => PERF.CNT_LO + 32 * k) (List.range 8)

theorem perfCnt_eq (c k : Nat) : perfCnt c k = pPERF c + (PERF.CNT_LO + 32 * k) := Nat.add_assoc ..

theorem latchPerf_eq (s : State) (c : Nat) : s.latchPerf c = (putWords s (pPERF c) (perfWords s c)).freshWords (pPERF c + PERF.CYC_LO) 2 := by
  unfold State.latchPerf perfWords
  simp only [perfCnt_eq]
  rw [foldl_show64 s (pPERF c) (fun k => PERF.CNT_LO + 32 * k)]

/-- The offsets of the counters that the latch of a PERF page shows. -/
theorem perfShown_facts : let l := (List.range 8).flatMap fun k => [PERF.CNT_LO + 32 * k, PERF.CNT_LO + 32 * k + 4]
    l.Nodup ∧ ∀ o ∈ l, o < 0x1000 := by decide +kernel

theorem onlyRegs_fresh (s : State) (l : List Nat) : onlyRegs s s.fresh.2 l :=
  onlyRegs_of_nothing (nothing_of_eq rfl rfl rfl rfl rfl) l

/-- Two words of values that the model leaves free. -/
theorem onlyRegs_freshWords_two (s : State) (a : Nat) : onlyRegs s (s.freshWords a 2) [a, a + 4] := by
  have hone (t : State) (x : Nat) (hx : x = a ∨ x = a + 4) : onlyRegs t (t.fresh.2.wr x (BitVec.ofNat 32 t.fresh.1)) [a, a + 4] :=
    onlyRegs_trans (onlyRegs_fresh t _) (onlyRegs_mono (onlyRegs_wr ..) (by simpa using hx))
  exact onlyRegs_trans (hone s _ (.inl rfl)) (hone _ _ (.inr rfl))

theorem onlyPage_latchPerf (s : State) (c : Nat) : onlyPage s (s.latchPerf c) (pPERF c) := by
  rw [latchPerf_eq]
  refine onlyPage_trans (onlyPage_putWords s _ ?_) (onlyPage_of_onlyRegs (onlyRegs_freshWords_two _ _) (by simp [inPage, PERF.CYC_LO]; omega))
  rw [perfWords, words64_fst]
  exact perfShown_facts.2

/-- The latch of a PERF page shows a counter's two words. -/
theorem rd_latchPerf (s : State) (c : Nat) {o : Nat} {w : Word} (h : (o, w) ∈ perfWords s c) (ho : 0x50 ≤ o) :
    (s.latchPerf c).rd (pPERF c + o) = w := by
  have hcyc : PERF.CYC_LO = 0x048 := rfl
  rw [latchPerf_eq, (onlyRegs_freshWords_two _ _).2.2.2 _ (by simp; omega)]
  refine rd_putWords s _ ?_ h
  rw [perfWords, words64_fst]
  exact perfShown_facts.1

theorem latchPerf_shows (s : State) (c : Nat) {k : Nat} (hk : k < 8) :
    (s.latchPerf c).rd (perfCnt c k) = BitVec.ofNat 32 (s.lv (perfCnt c k))
      ∧ (s.latchPerf c).rd (perfCnt c k + 4) = BitVec.ofNat 32 (s.lv (perfCnt c k) / 2 ^ 32) := by
  obtain ⟨hlo, hhi⟩ := mem_words64 s (pPERF c) (fun k => PERF.CNT_LO + 32 * k) (List.mem_range.2 hk)
  have hcnt : 0x50 ≤ PERF.CNT_LO := by decide
  have h1 := rd_latchPerf s c hlo (by omega)
  have h2 := rd_latchPerf s c hhi (by omega)
  rw [perfCnt_eq, Nat.add_assoc (pPERF c) (PERF.CNT_LO + 32 * k) 4]
  exact ⟨h1, h2⟩

/-- The registers that the latch of TIME shows before its copies. -/
def timeShown (s : State) : State :=
  ((((s.wr (pTIME + TIME.NOW_NS) (stampNs s.time.now)).setFld pTIME TIME.WRAPS.V (stampWraps s.time.now)).wr (pTIME + TIME.NOW_FRAC)
    (BitVec.ofNat 32 s.time.now)).wr (pTIME + TIME.SLEEP_LO) (BitVec.ofNat 32 s.time.sleep)).setFld pTIME TIME.SLEEP_HI.V (s.time.sleep / 2 ^ 32)

theorem latchTime_eq (s : State) : s.latchTime = copyRegs (timeShown s)
    ((List.range 32).map (fun i => pTIME + TIME.TS_TX_NS + 4 * i) ++ (List.range 16).map (fun i => pTIME + TIME.AMC_TX + 4 * i)) := by
  unfold State.latchTime timeShown
  simp only [State.setFld, wr_eq]
  rfl

/-- One more register of the page written. -/
theorem onlyPage_then_wr {s t : State} {b o : Nat} (h : onlyPage s t b) (ho : o < 0x1000) (w : Word) : onlyPage s (t.wr (b + o) w) b :=
  onlyPage_trans h (onlyPage_wr t w ⟨by omega, by omega⟩)

theorem onlyPage_then_setFld {s t : State} {b : Nat} (h : onlyPage s t b) (f : Fld) (v : Nat) (ho : f.off < 0x1000) :
    onlyPage s (t.setFld b f v) b := onlyPage_then_wr h ho _

theorem onlyPage_latchTime (s : State) : onlyPage s s.latchTime pTIME := by
  rw [latchTime_eq]
  refine onlyPage_trans ?_ (onlyPage_of_nothing (nothing_copyRegs _ _) _)
  have hwraps := onlyPage_then_setFld (onlyPage_then_wr (o := TIME.NOW_NS) (onlyPage_of_nothing (onlyRegs_refl s []) pTIME) (by decide)
    (stampNs s.time.now)) TIME.WRAPS.V (stampWraps s.time.now) (by decide)
  have hsleep := onlyPage_then_wr (o := TIME.SLEEP_LO) (onlyPage_then_wr (o := TIME.NOW_FRAC) hwraps (by decide) (BitVec.ofNat 32 s.time.now))
    (by decide) (BitVec.ofNat 32 s.time.sleep)
  exact onlyPage_then_setFld hsleep TIME.SLEEP_HI.V _ (by decide)

theorem latchTime_shows (s : State) : s.latchTime.rd (pTIME + TIME.NOW_NS) = stampNs s.time.now
    ∧ s.latchTime.rd (pTIME + TIME.NOW_FRAC) = BitVec.ofNat 32 s.time.now := by
  rw [latchTime_eq, rd_congr (regs_copyRegs ..), rd_congr (regs_copyRegs ..), timeShown]
  refine ⟨?_, ?_⟩
  · rw [rd_setFld_ne _ _ _ _ _ (by decide), rd_wr_ne _ _ _ _ (by decide), rd_wr_ne _ _ _ _ (by decide), rd_setFld_ne _ _ _ _ _ (by decide),
      rd_wr_self]
  · rw [rd_setFld_ne _ _ _ _ _ (by decide), rd_wr_ne _ _ _ _ (by decide), rd_wr_self]

/-- A pending latch shows in the page's status and in PAGE_STAT. -/
theorem snapPend_set (s : State) (b : Nat) (f : Fld) (hf : 0x10 ≤ f.off) (hlt : f.off < 0x1000) (h32 : f.lo + f.width ≤ 32) (hw : 0 < f.width) :
    onlyPage s ((s.setFld b f 1).setFld b HDR.SNAP_PEND 1) b ∧ ((s.setFld b f 1).setFld b HDR.SNAP_PEND 1).bit b f = true
      ∧ ((s.setFld b f 1).setFld b HDR.SNAP_PEND 1).bit b HDR.SNAP_PEND = true := by
  have h : HDR.SNAP_PEND.off = 0x00C := rfl
  refine ⟨onlyPage_trans (onlyPage_setFld _ _ _ _ hlt) (onlyPage_setFld _ _ _ _ (by decide)), ?_, bit_setFld_one _ _ _ (by decide) (by decide)⟩
  rw [bit_congr (rd_setFld_ne _ _ _ _ _ (by omega)), bit_setFld_one _ _ _ h32 hw]

theorem snapIfec_pends (s : State) (n : Nat) : onlyPage s (s.snapIfec n) (pIFEC n)
    ∧ (s.snapIfec n).bit (pIFEC n) IFEC.IF_STAT.SNAP_PEND = true ∧ (s.snapIfec n).bit (pIFEC n) HDR.SNAP_PEND = true :=
  snapPend_set s (pIFEC n) IFEC.IF_STAT.SNAP_PEND (by decide) (by decide) (by decide) (by decide)

theorem snapOfec_pends (s : State) (p : Nat) : onlyPage s (s.snapOfec p) (pOFEC p)
    ∧ (s.snapOfec p).bit (pOFEC p) OFEC.OF_STAT.SNAP_PEND = true ∧ (s.snapOfec p).bit (pOFEC p) HDR.SNAP_PEND = true :=
  snapPend_set s (pOFEC p) OFEC.OF_STAT.SNAP_PEND (by decide) (by decide) (by decide) (by decide)

/-- On every other page the latch copies each wide value beside the live one. -/
theorem snapPage_wide (s : State) (i : Nat) {fam : Nat} (h : fam ∉ [12, 13, 17, 20]) :
    s.snapPage fam i = copyRegs s ((wideRegs fam).map (pageAt fam i + ·)) := by
  simp only [List.mem_cons, List.not_mem_nil, or_false, not_or] at h
  obtain ⟨h12, h13, h17, h20⟩ := h
  rw [← latchWide_eq]
  unfold State.snapPage
  split
  · exact absurd rfl h12
  · exact absurd rfl h13
  · exact absurd rfl h17
  · exact absurd rfl h20
  · rfl

/-- A latch changes registers of its own page alone. -/
theorem onlyPage_snapPage (s : State) {fam i : Nat} (hi : fam = 20 → i = 0) : onlyPage s (s.snapPage fam i) (pageAt fam i) := by
  by_cases h : fam ∉ [12, 13, 17, 20]
  · rw [snapPage_wide s i h]
    exact onlyPage_of_nothing (nothing_copyRegs ..) _
  · simp only [not_not, List.mem_cons, List.not_mem_nil, or_false] at h
    rcases h with rfl | rfl | rfl | rfl
    · exact (snapIfec_pends s i).1
    · exact (snapOfec_pends s i).1
    · exact onlyPage_latchPerf s i
    · rw [hi rfl]
      exact onlyPage_latchTime s

/-- There is one TIME page. -/
theorem reaches_time_zero {s : State} {r : Requester} {i off : Nat} {v : Word} (h : reaches s r 20 i off v) : i = 0 := by
  obtain ⟨-, -, hreg, -⟩ := h
  obtain ⟨p, hp, hfam, hi, -⟩ := region_page hreg
  have hcount : ∀ p ∈ pages, p.fam = 20 → p.count = 1 := by decide
  rw [hcount p hp hfam] at hi
  omega

/-- What a write of SNAP leaves on each page. -/
theorem pageSnap_latches (s : State) (r : Requester) (fam : Fin 32) (i : Fin 16) (h : reaches s r fam i HDR.SNAP 0) :
    completes (.pageSnap r fam i) s (fun t => onlyPage s t (pageAt fam i)
      ∧ (fam.val = 12 → t.bit (pageAt fam i) IFEC.IF_STAT.SNAP_PEND = true ∧ t.bit (pageAt fam i) HDR.SNAP_PEND = true)
      ∧ (fam.val = 13 → t.bit (pageAt fam i) OFEC.OF_STAT.SNAP_PEND = true ∧ t.bit (pageAt fam i) HDR.SNAP_PEND = true)
      ∧ (fam.val = 17 → ∀ k, k < 8 → t.rd (perfCnt i k) = BitVec.ofNat 32 (s.lv (perfCnt i k))
          ∧ t.rd (perfCnt i k + 4) = BitVec.ofNat 32 (s.lv (perfCnt i k) / 2 ^ 32))
      ∧ (fam.val = 20 → t.rd (pTIME + TIME.NOW_NS) = stampNs s.time.now ∧ t.rd (pTIME + TIME.NOW_FRAC) = BitVec.ofNat 32 s.time.now)
      ∧ (fam.val ∉ [12, 13, 17, 20] → nothing s t
          ∧ ∀ o ∈ wideRegs fam, Tbl.find t.latched (pageAt fam i + o) = some (s.rd (pageAt fam i + o)))) := by
  have htold : nothing (s.snapPage fam i) ((s.snapPage fam i).reportOk r) := nothing_reportOk _ r
  have hbit (f : Fld) : ((s.snapPage fam i).reportOk r).bit (pageAt fam i) f = (s.snapPage fam i).bit (pageAt fam i) f := bit_congr (rd_reportOk ..)
  have hlatched : ((s.snapPage fam i).reportOk r).latched = (s.snapPage fam i).latched := by
    obtain ⟨x, hx⟩ := reportOk_eq (s.snapPage fam i) r
    rw [hx]
  refine ⟨_, completes_pageSnap h, ?_⟩
  simp only [rd_reportOk, hbit, hlatched]
  generalize (s.snapPage fam i).reportOk r = t at htold
  refine ⟨?_, fun hf => ?_, fun hf => ?_, fun hf k hk => ?_, fun hf => ?_, fun hf => ?_⟩
  · exact onlyPage_trans (onlyPage_snapPage s fun hf => reaches_time_zero (hf ▸ h)) (onlyPage_of_nothing htold _)
  · rw [hf]
    exact (snapIfec_pends s i).2
  · rw [hf]
    exact (snapOfec_pends s i).2
  · rw [hf]
    exact latchPerf_shows s i hk
  · rw [hf]
    exact latchTime_shows s
  · rw [snapPage_wide s i hf] at htold ⊢
    refine ⟨onlyRegs_trans (l := []) (nothing_copyRegs ..) htold, fun o ho => ?_⟩
    rw [latched_copyRegs, if_pos (List.mem_map_of_mem ho)]

/-- Settles O31: PAGE_CTRL by what its write acts on and sets off, the latches by the words they put. -/
theorem pageHeaderEnableDrainLockAndClear : Obligations.PageHeaderEnableDrainLockAndClear := by
  unfold Obligations.PageHeaderEnableDrainLockAndClear
  refine ⟨evtClear_clears_ones, pageHeader_general, pageHeader_enabled, pageHeader_perf, pageSnap_latches, fun s n hp hl => ?_,
    fun s n hp hl => ?_⟩
  · obtain ⟨honly, hpend⟩ := latchIfec_frame s n
    refine ⟨_, idleLatch_ifec s n hp hl, hpend, fun o ho => ?_, fun o ho => ?_, fun o ho => lv_latchIfec s n ho, honly⟩
    · obtain ⟨hlo, hhi⟩ := mem_words64 s (pIFEC n) (fun o => o) ho
      exact Prod.ext (rd_latchIfec s n (List.mem_append_left _ hlo)) (rd_latchIfec s n (List.mem_append_left _ hhi))
    · exact rd_latchIfec s n (List.mem_append_right _ (mem_words32 s (pIFEC n) ho))
  · obtain ⟨honly, hpend⟩ := latchOfec_frame s n
    exact ⟨_, idleLatch_ofec s n hp hl, hpend, honly,
      rd_latchOfec s n (List.mem_append_right _ (mem_words32 s (pOFEC n) (List.mem_singleton.2 rfl)))⟩

end Sys2Proof.Proofs

namespace Sys2Proof.Proofs

open Sys2Proof Sys2Proof.Machine Sys2Proof.Safety Sys2Proof.Laws

-- One declaration after another, as the tests are: a thread for every proof would not fit the memory of the check.
set_option Elab.async false

/-! ## Footprints: which parts of the state a change may touch

A footprint is a list of zones; a change stays within it when every part outside keeps what it held. One lemma per operation of the model
gives its footprint; what a command leaves is then read off the footprints of its steps. -/

/-- A part of the state that the claims speak of. `set a i` says less than `bit a i`: the bit, once set, is not cleared. `fewer` says less than
`commits`: no request waits that did not before. -/
inductive Part where
  | bit (a i : Nat)
  | set (a i : Nat)
  | fixed
  | mem
  | commits
  | fewer
  | inForce
  | cal
  | hsl
  | stop (n : Nat)
  | port (p : Nat)

/-- What no change of lanes, ports or commits touches: the queue, the variant, power, the PLLs, and which words of a resampler table were
written; and no self-test begins. -/
structure sameFixed (s t : State) : Prop where
  pending : t.pending = s.pending
  variant : t.variant = s.variant
  pwr : t.pwr = s.pwr
  unlocked : t.unlocked = s.unlocked
  written : ∀ n, (t.lrxSt n).written = (s.lrxSt n).written
  bist : s.boot.bist = none → t.boot.bist = none

theorem sameFixed.refl (s : State) : sameFixed s s := ⟨rfl, rfl, rfl, rfl, fun _ => rfl, id⟩

/-- A part holds in `t` what it held in `s`. -/
def Part.same (s t : State) : Part → Prop
  | .bit a i => (t.rd a).getLsbD i = (s.rd a).getLsbD i
  | .set a i => (s.rd a).getLsbD i = true → (t.rd a).getLsbD i = true
  | .fixed => sameFixed s t
  | .mem => t.mem = s.mem ∧ t.ms = s.ms
  | .commits => t.commits = s.commits
  | .fewer => t.commits ⊆ s.commits
  | .inForce => t.inForce = s.inForce
  | .cal => t.cal = s.cal
  | .hsl => t.hsl = s.hsl
  | .stop n => (t.ltxSt n).stop = (s.ltxSt n).stop
  | .port p => (t.portSt p).run = (s.portSt p).run ∧ (t.portSt p).frames = (s.portSt p).frames ∧ (t.portSt p).lbPend = (s.portSt p).lbPend

theorem Part.same_refl (s : State) (x : Part) : x.same s s := by
  cases x with
  | set a i => exact id
  | fixed => exact .refl s
  | fewer => exact List.Subset.refl _
  | mem => exact ⟨rfl, rfl⟩
  | port p => exact ⟨rfl, rfl, rfl⟩
  | _ => rfl

/-- A set of parts. -/
abbrev Zone := Part → Prop

/-- The bits of registers at which `p` holds of address and number. -/
@[simp] def bitsAt (p : Nat → Nat → Prop) : Zone
  | .bit x i => p x i
  | .set x i => p x i
  | _ => False

/-- Whole registers. -/
abbrev regsAt (p : Nat → Prop) : Zone := bitsAt fun x _ => p x

/-- The register at `a`. -/
abbrev regAt (a : Nat) : Zone := regsAt (· = a)

/-- A field of the page at `b`. -/
abbrev fieldAt (b : Nat) (f : Fld) : Zone := bitsAt fun x i => x = b + f.off ∧ f.lo ≤ i ∧ i < f.lo + f.width

/-- Events may be raised: bits of EVT_RAW of any page set, and none clears. -/
@[simp] def events : Zone
  | .bit x _ => x % 0x1000 = HDR.EVT_RAW
  | _ => False

/-- The pages PERF. -/
abbrev perfs : Zone := regsAt fun x => ∃ c, inPage (pPERF c) x

/-- The shadow bank of a page: its boundary-applied registers. -/
abbrev shadow (page : Nat) : Zone := regsAt fun x => ∃ g, x ∈ groupAddrs page g

/-- One part by itself. -/
@[simp] def just (x : Part) : Zone := fun y => y = x

/-- The requests waiting. -/
@[simp] def asks : Zone
  | .commits => True
  | .fewer => True
  | _ => False

/-- `t` differs from `s` in the zones `l` alone. -/
structure Frame (l : List Zone) (s t : State) : Prop where
  same : ∀ x, (∀ z ∈ l, ¬ z x) → x.same s t

/-! ### The tables beside the registers -/

theorem lrxSt_modLrx (s : State) (n : Nat) (f : LrxSt → LrxSt) (k : Nat) :
    (s.modLrx n f).lrxSt k = if k = n then f (s.lrxSt n) else s.lrxSt k := get_put ..

theorem ltxSt_modLtx (s : State) (n : Nat) (f : LtxSt → LtxSt) (k : Nat) :
    (s.modLtx n f).ltxSt k = if k = n then f (s.ltxSt n) else s.ltxSt k := get_put ..

theorem portSt_modPort (s : State) (p : Nat) (f : PortSt → PortSt) (k : Nat) :
    (s.modPort p f).portSt k = if k = p then f (s.portSt p) else s.portSt k := get_put ..

theorem calSt_modCal (s : State) (u : Nat) (f : CalSt → CalSt) (k : Nat) :
    (s.modCal u f).calSt k = if k = u then f (s.calSt u) else s.calSt k := get_put ..

/-- A field of one bit, as a bit of its register. -/
theorem bit_bitAt (s : State) (b off i : Nat) : s.bit b (bitAt off i) = (s.rd (b + off)).getLsbD i := by
  have h : s.fld b (bitAt off i) = ((s.rd (b + off)).getLsbD i).toNat := by
    rw [show s.fld b (bitAt off i) = getBits (s.rd (b + off)) i 1 from rfl, getBits, BitVec.getLsbD, Nat.pow_one, Nat.shiftRight_eq_div_pow,
      Nat.testBit_eq_decide_div_mod_eq]
    rcases Nat.mod_two_eq_zero_or_one ((s.rd (b + off)).toNat / 2 ^ i) with h | h <;> simp [h]
  unfold State.bit
  rw [h]
  cases (s.rd (b + off)).getLsbD i <;> rfl

theorem raised_iff (s : State) (e : Ev) (i : Nat) :
    raised s e i ↔ (s.rd (pageAt e.fam i + HDR.EVT_RAW)).getLsbD e.bit = true := by
  unfold raised
  rw [bit_bitAt]

namespace Frame
variable {l m : List Zone} {s t u : State}

theorem refl (l : List Zone) (s : State) : Frame l s s := ⟨fun x _ => x.same_refl s⟩

theorem trans (h : Frame l s t) (g : Frame l t u) : Frame l s u where
  same x hx := by
    have hs := h.same x hx
    have ht := g.same x hx
    cases x with
    | set a i => exact fun hb => ht (hs hb)
    | fixed => exact ⟨ht.pending.trans hs.pending, ht.variant.trans hs.variant, ht.pwr.trans hs.pwr, ht.unlocked.trans hs.unlocked,
        fun n => (ht.written n).trans (hs.written n), fun hb => ht.bist (hs.bist hb)⟩
    | fewer => exact List.Subset.trans ht hs
    | mem => exact ⟨ht.1.trans hs.1, ht.2.trans hs.2⟩
    | port p => exact ⟨ht.1.trans hs.1, ht.2.1.trans hs.2.1, ht.2.2.trans hs.2.2⟩
    | _ => exact Eq.trans ht hs

/-- A footprint may name more zones. -/
theorem mono (h : Frame l s t) (hl : l ⊆ m) : Frame m s t := ⟨fun x hx => h.same x fun z hz => hx z (hl hz)⟩

/-- A footprint may name wider zones. -/
theorem cover (h : Frame l s t) (hl : ∀ z ∈ l, ∃ w ∈ m, z ≤ w) : Frame m s t :=
  ⟨fun x hx => h.same x fun z hz hzx =>
    let ⟨w, hw, hzw⟩ := hl z hz
    hx w hw (hzw x hzx)⟩

/-- One more step, whose zones are among those named. -/
theorem next (h : Frame l s t) (g : Frame m t u) (hl : m ⊆ l := by simp) : Frame l s u := h.trans (g.mono hl)

/-! ### What a footprint says -/

theorem fixed (h : Frame l s t) (hl : ∀ z ∈ l, ¬ z .fixed) : sameFixed s t := h.same .fixed hl

/-- A register outside the footprint. -/
theorem rd (h : Frame l s t) {a : Nat} (hl : ∀ i, i < 32 → ∀ z ∈ l, ¬ z (.bit a i)) : t.rd a = s.rd a :=
  BitVec.eq_of_getLsbD_eq fun i hi => h.same (.bit a i) (hl i hi)

/-- A field outside the footprint. -/
theorem fld (h : Frame l s t) {b : Nat} {f : Fld} (hl : ∀ i, f.lo ≤ i → i < f.lo + f.width → ∀ z ∈ l, ¬ z (.bit (b + f.off) i)) :
    t.fld b f = s.fld b f := by
  apply Nat.eq_of_testBit_eq
  intro i
  unfold State.fld
  rw [testBit_getBits, testBit_getBits]
  by_cases hi : i < f.width
  · rw [show (t.rd (b + f.off)).getLsbD (f.lo + i) = _ from h.same (.bit _ _) (hl (f.lo + i) (by omega) (by omega))]
  · simp [hi]

theorem bit (h : Frame l s t) {b : Nat} {f : Fld} (hl : ∀ i, f.lo ≤ i → i < f.lo + f.width → ∀ z ∈ l, ¬ z (.bit (b + f.off) i)) :
    t.bit b f = s.bit b f := by
  unfold State.bit
  rw [h.fld hl]

/-- An event raised before stays raised. -/
theorem raised (h : Frame l s t) {e : Ev} {i : Nat} (he : Safety.raised s e i)
    (hl : ∀ z ∈ l, ¬ z (.set (pageAt e.fam i + HDR.EVT_RAW) e.bit)) : Safety.raised t e i := by
  rw [raised_iff] at he ⊢
  exact h.same (.set _ _) hl he

theorem bytes (h : Frame l s t) (hl : ∀ z ∈ l, ¬ z .mem) : memSame s t := by
  obtain ⟨hmem, hms⟩ := h.same .mem hl
  exact byte_congr hmem (by rw [hms])

theorem inf (h : Frame l s t) (hl : ∀ z ∈ l, ¬ z .inForce) (a : Nat) : t.inf a = s.inf a := by
  unfold State.inf
  rw [show t.inForce = s.inForce from h.same .inForce hl]

/-! ### Steps -/

/-- A step that leaves the registers: what it touches beside them is named. -/
theorem step (h : Frame l s t) (regs : u.regs = t.regs := by rfl)
    (fixed : sameFixed t u := by exact ⟨rfl, rfl, rfl, rfl, fun _ => rfl, id⟩)
    (mem : (∀ z ∈ l, ¬ z .mem) → u.mem = t.mem ∧ u.ms = t.ms := by exact fun _ => ⟨rfl, rfl⟩)
    (commits : (∀ z ∈ l, ¬ z .commits) → u.commits = t.commits := by exact fun _ => rfl)
    (fewer : (∀ z ∈ l, ¬ z .fewer) → u.commits ⊆ t.commits := by exact fun _ => List.Subset.refl _)
    (inForce : (∀ z ∈ l, ¬ z .inForce) → u.inForce = t.inForce := by exact fun _ => rfl)
    (cal : (∀ z ∈ l, ¬ z .cal) → u.cal = t.cal := by exact fun _ => rfl)
    (hsl : (∀ z ∈ l, ¬ z .hsl) → u.hsl = t.hsl := by exact fun _ => rfl)
    (stop : ∀ n, (∀ z ∈ l, ¬ z (.stop n)) → (u.ltxSt n).stop = (t.ltxSt n).stop := by exact fun _ _ => rfl)
    (port : ∀ p, (∀ z ∈ l, ¬ z (.port p)) → (u.portSt p).run = (t.portSt p).run ∧ (u.portSt p).frames = (t.portSt p).frames
      ∧ (u.portSt p).lbPend = (t.portSt p).lbPend := by exact fun _ _ => ⟨rfl, rfl, rfl⟩) : Frame l s u :=
  h.trans <| .mk fun x hx => by
    cases x with
    | bit a i => exact congrArg (fun w : Word => w.getLsbD i) (rd_congr regs a)
    | set a i => exact fun hb => (congrArg (fun w : Word => w.getLsbD i) (rd_congr regs a)).trans hb
    | fixed => exact fixed
    | mem => exact mem hx
    | commits => exact commits hx
    | fewer => exact fewer hx
    | inForce => exact inForce hx
    | cal => exact cal hx
    | hsl => exact hsl hx
    | stop n => exact stop n hx
    | port p => exact port p hx

/-- A register written where the footprint names every bit that may change. -/
theorem wrBits (h : Frame l s t) {a : Nat} (w : Word)
    (hw : ∀ i, i < 32 → w.getLsbD i = (t.rd a).getLsbD i ∨ ((∃ z ∈ l, z (.bit a i)) ∧ ((∃ z ∈ l, z (.set a i)) ∨ w.getLsbD i = true))) :
    Frame l s (t.wr a w) :=
  h.trans <| .mk fun x hx => by
    have hbig (v : Word) (i : Nat) (hi : ¬ i < 32) : v.getLsbD i = false := BitVec.getLsbD_of_ge _ _ (by omega)
    cases x with
    | bit b i =>
      show ((t.wr a w).rd b).getLsbD i = (t.rd b).getLsbD i
      by_cases hb : b = a
      · subst hb
        rw [rd_wr_self]
        by_cases hi : i < 32
        · rcases hw i hi with he | ⟨⟨z, hz, hzx⟩, _⟩
          · exact he
          · exact absurd hzx (hx z hz)
        · rw [hbig _ _ hi, hbig _ _ hi]
      · rw [rd_wr_ne t a b w hb]
    | set b i =>
      intro hset
      by_cases hb : b = a
      · subst hb
        rw [rd_wr_self]
        have hi : i < 32 := by
          by_contra hi
          rw [hbig _ _ hi] at hset
          exact absurd hset (by simp)
        rcases hw i hi with he | ⟨_, ⟨z, hz, hzx⟩ | he⟩
        · rw [he]; exact hset
        · exact absurd hzx (hx z hz)
        · exact he
      · rw [rd_wr_ne t a b w hb]
        exact hset
    | fixed => exact ⟨rfl, rfl, rfl, rfl, fun _ => rfl, id⟩
    | fewer => exact List.Subset.refl _
    | mem => exact ⟨rfl, rfl⟩
    | port p => exact ⟨rfl, rfl, rfl⟩
    | _ => rfl

/-- A register that the footprint names. -/
theorem wr (h : Frame l s t) {a : Nat} {p : Nat → Nat → Prop} (w : Word) (hz : bitsAt p ∈ l) (hp : ∀ i, p a i) : Frame l s (t.wr a w) :=
  h.wrBits w fun i _ => .inr ⟨⟨_, hz, hp i⟩, .inl ⟨_, hz, hp i⟩⟩

/-- A field that the footprint names. -/
theorem setFld (h : Frame l s t) {b : Nat} {f : Fld} {p : Nat → Nat → Prop} (v : Nat) (hz : bitsAt p ∈ l)
    (hp : ∀ i, f.lo ≤ i → i < f.lo + f.width → p (b + f.off) i) : Frame l s (t.setFld b f v) :=
  h.wrBits _ fun i _ => by
    rw [getLsbD_putBits]
    split
    next hi => exact .inr ⟨⟨_, hz, hp i hi.1 hi.2.1⟩, .inl ⟨_, hz, hp i hi.1 hi.2.1⟩⟩
    next => exact .inl rfl

/-- A field that the footprint names as such. -/
theorem setField (h : Frame l s t) {b : Nat} {f : Fld} (v : Nat) (hz : fieldAt b f ∈ l := by simp) : Frame l s (t.setFld b f v) :=
  h.setFld v hz fun _ hlo hhi => ⟨rfl, hlo, hhi⟩

/-- A field of a register that the footprint names. -/
theorem setIn (h : Frame l s t) {b : Nat} {f : Fld} (p : Nat → Prop) (v : Nat) (hp : p (b + f.off)) (hz : regsAt p ∈ l := by simp) :
    Frame l s (t.setFld b f v) :=
  h.setFld v hz fun _ _ _ => hp

/-- A field of the one register that the footprint names. -/
theorem setAt (h : Frame l s t) {b : Nat} {f : Fld} (v : Nat) (hz : regAt (b + f.off) ∈ l := by simp) : Frame l s (t.setFld b f v) :=
  h.setFld v hz fun _ _ _ => rfl

/-- A register that the footprint names. -/
theorem wrIn (h : Frame l s t) {a : Nat} (p : Nat → Prop) (w : Word) (hp : p a) (hz : regsAt p ∈ l := by simp) : Frame l s (t.wr a w) :=
  h.wr w hz fun _ => hp

/-- An event is raised. -/
theorem setRaw (h : Frame l s t) (e : Ev) (i : Nat) (hz : events ∈ l) : Frame l s (t.setRaw e i) :=
  h.wrBits _ fun j _ => by
    rw [getLsbD_putBits]
    split
    next hj =>
      have hj' : j = e.bit := by have := hj.1; have := hj.2.1; simp [bitAt] at *; omega
      refine .inr ⟨⟨_, hz, ?_⟩, .inr ?_⟩
      · show (pageAt e.fam i + HDR.EVT_RAW) % 0x1000 = HDR.EVT_RAW
        rw [Nat.add_mod, pageAt_mod]
        rfl
      · simp [hj', bitAt]
    next => exact .inl rfl

theorem logOcc (h : Frame l s t) (o : Occ) (r : Bool) : Frame l s (t.logOcc o r) := by
  obtain ⟨_, he⟩ := logOcc_eq t o r
  rw [he]
  exact h.step

theorem raiseBy (h : Frame l s t) (e : Ev) (i m : Nat) (hz : events ∈ l := by simp) : Frame l s (t.raiseBy e i m) := (h.setRaw e i hz).logOcc _ _

theorem raise (h : Frame l s t) (e : Ev) (i : Nat) (hz : events ∈ l := by simp) : Frame l s (t.raise e i) := h.raiseBy e i 0 hz

theorem raiseAct (h : Frame l s t) (e : Ev) (i : Nat) (d : List Word) (hz : events ∈ l := by simp) : Frame l s (t.raiseAct e i d) :=
  (h.setRaw e i hz).logOcc ((t.setRaw e i).occ (evNum e i) 1 0 (some d)) true

theorem when (h : Frame l s t) (c : Bool) {f : State → State} (hf : c = true → Frame l t (f t)) : Frame l s (t.when c f) := by
  cases c
  · exact h
  · exact h.trans (hf rfl)

theorem foldl {α : Type} (h : Frame l s t) (xs : List α) {f : State → α → State} (hf : ∀ u, ∀ x ∈ xs, Frame l u (f u x)) :
    Frame l s (xs.foldl f t) := by
  induction xs generalizing t with
  | nil => exact h
  | cons x xs ih => exact ih (h.trans (hf t x (by simp))) fun u y hy => hf u y (by simp [hy])

theorem each (h : Frame l s t) (xs : List Nat) {f : State → Nat → State} (hf : ∀ u, ∀ x ∈ xs, Frame l u (f u x)) :
    Frame l s (t.each xs f) := h.foldl xs hf

theorem modLrx (h : Frame l s t) (n : Nat) (f : LrxSt → LrxSt) (hf : ∀ x, (f x).written = x.written := by intro; rfl) :
    Frame l s (t.modLrx n f) :=
  h.step (fixed := ⟨rfl, rfl, rfl, rfl, fun k => by rw [lrxSt_modLrx]; split <;> simp_all, id⟩)

theorem modLtx (h : Frame l s t) (n : Nat) (f : LtxSt → LtxSt) (hf : ∀ x, (f x).stop = x.stop := by intro; rfl) :
    Frame l s (t.modLtx n f) :=
  h.step (stop := fun k _ => by rw [ltxSt_modLtx]; split <;> simp_all)

/-- A stop of a transmit lane is set or falls. -/
theorem modStop (h : Frame l s t) (n : Nat) (f : LtxSt → LtxSt) (hz : ∃ z ∈ l, z (.stop n) := by simp) : Frame l s (t.modLtx n f) :=
  h.step (stop := fun k hk => by
    rw [ltxSt_modLtx, if_neg]
    rintro rfl
    exact hz.elim fun z hz => hk z hz.1 hz.2)

/-- A port starts, stops or counts its frames. -/
theorem modRun (h : Frame l s t) (p : Nat) (f : PortSt → PortSt) (hz : ∃ z ∈ l, z (.port p) := by simp) : Frame l s (t.modPort p f) :=
  h.step (port := fun k hk => by
    rw [portSt_modPort, if_neg]
    · exact ⟨rfl, rfl, rfl⟩
    · rintro rfl
      exact hz.elim fun z hz => hk z hz.1 hz.2)

theorem modPort (h : Frame l s t) (p : Nat) (f : PortSt → PortSt)
    (hf : ∀ x, (f x).run = x.run ∧ (f x).frames = x.frames ∧ (f x).lbPend = x.lbPend := by intro; exact ⟨rfl, rfl, rfl⟩) :
    Frame l s (t.modPort p f) :=
  h.step (port := fun k _ => by rw [portSt_modPort]; split <;> simp_all)

theorem setLv (h : Frame l s t) (a n : Nat) : Frame l s (t.setLv a n) := h.step

theorem setMark (h : Frame l s t) (page g m : Nat) : Frame l s (t.setMark page g m) := h.step

theorem modCore (h : Frame l s t) (k : Nat) (f : Core → Core) : Frame l s (t.modCore k f) := h.step

theorem modClu (h : Frame l s t) (c : Nat) (f : Clu → Clu) : Frame l s (t.modClu c f) := h.step

theorem modIfec (h : Frame l s t) (n : Nat) (f : IfecSt → IfecSt) : Frame l s (t.modIfec n f) := h.step

theorem modPart (h : Frame l s t) (n : Nat) (f : PartSt → PartSt) : Frame l s (t.modPart n f) := h.step

theorem modDawn (h : Frame l s t) (n : Nat) (f : DawnSt → DawnSt) : Frame l s (t.modDawn n f) := h.step

theorem modCal (h : Frame l s t) (n : Nat) (f : CalSt → CalSt) (hz : ∃ z ∈ l, z .cal := by simp) : Frame l s (t.modCal n f) :=
  h.step (cal := fun hn => hz.elim fun z hz => absurd hz.2 (hn z hz.1))

theorem modHsl (h : Frame l s t) (n : Nat) (f : HslSt → HslSt) (hz : ∃ z ∈ l, z .hsl := by simp) : Frame l s (t.modHsl n f) :=
  h.step (hsl := fun hn => hz.elim fun z hz => absurd hz.2 (hn z hz.1))

theorem setMem (h : Frame l s t) (x : List Host.Cell) (hz : ∃ z ∈ l, z .mem := by simp) : Frame l s { t with mem := x } :=
  h.step (mem := fun hn => hz.elim fun z hz => absurd hz.2 (hn z hz.1))

theorem setMs (h : Frame l s t) (x : MemSt) (hz : ∃ z ∈ l, z .mem := by simp) : Frame l s { t with ms := x } :=
  h.step (mem := fun hn => hz.elim fun z hz => absurd hz.2 (hn z hz.1))

theorem setCap (h : Frame l s t) (x : CapSt) : Frame l s { t with cap := x } := h.step

theorem setInf (h : Frame l s t) (a : Nat) (w : Word) (hz : ∃ z ∈ l, z .inForce := by simp) : Frame l s (t.setInf a w) :=
  h.step (inForce := fun hn => hz.elim fun z hz => absurd hz.2 (hn z hz.1))

theorem setCommits (h : Frame l s t) (c : List CommitReq) (hz : asks ∈ l := by simp) : Frame l s { t with commits := c } :=
  h.step (commits := fun hn => (hn _ hz trivial).elim) (fewer := fun hn => (hn _ hz trivial).elim)

/-- Some requests wait no longer. -/
theorem dropCommits (h : Frame l s t) {c : List CommitReq} (hc : c ⊆ t.commits) (hz : ∃ z ∈ l, z .commits := by simp) :
    Frame l s { t with commits := c } :=
  h.step (commits := fun hn => hz.elim fun z hz => absurd hz.2 (hn z hz.1)) (fewer := fun _ => hc)

end Frame

/-! ## Commit groups, requests and their footprints (R30 to R36, R59, R60) -/

/-- The registers of a group stand above the page header, at multiples of 4. -/
theorem mem_groupAddrs {page g a : Nat} (h : a ∈ groupAddrs page g) :
    ∃ off, a = page + off ∧ groupOf (famOf page) off = some g ∧ HDR.EVT_RAW < off ∧ off < 0x400 := by
  unfold groupAddrs at h
  obtain ⟨off, hoff, hsome⟩ := List.mem_filterMap.1 h
  obtain ⟨j, hj, rfl⟩ := List.mem_map.1 hoff
  rw [List.mem_range] at hj
  split at hsome
  next hg =>
    refine ⟨4 * j, (Option.some.inj hsome).symm, hg, ?_, by omega⟩
    by_contra hlt
    rw [groupOf_header _ (by have : HDR.EVT_RAW < 0x40 := by decide
                             omega)] at hg
    exact absurd hg (by simp)
  next => exact absurd hsome (by simp)

/-- A register is of one group. -/
theorem groupAddrs_inj {page g g' a : Nat} (h : a ∈ groupAddrs page g) (h' : a ∈ groupAddrs page g') : g = g' := by
  obtain ⟨off, rfl, hg, -⟩ := mem_groupAddrs h
  obtain ⟨off', he, hg', -⟩ := mem_groupAddrs h'
  obtain rfl : off = off' := by omega
  exact Option.some.inj (hg.symm.trans hg')

/-- COMMIT_STAT is not boundary-applied. -/
theorem commitStat_not_shadow (page g : Nat) : page + commitStatOff page ∉ groupAddrs page g := by
  intro h
  obtain ⟨off, he, hg, -⟩ := mem_groupAddrs h
  obtain rfl : commitStatOff page = off := by omega
  unfold commitStatOff at hg
  split at hg
  next hf => rw [hf, show groupOf 9 LRX.COMMIT_STAT = none by decide] at hg; cases hg
  next hf => rw [hf, show groupOf 10 LTX.COMMIT_STAT = none by decide] at hg; cases hg
  next h9 h10 =>
    have hn : groupOf (famOf page) HSL.COMMIT_STAT = none := by
      unfold groupOf
      rw [if_neg (by decide), if_neg h9, if_neg h10]
      split
      · decide
      · rfl
    exact absurd (hn.symm.trans hg) (by simp)

/-- The registers of the groups that a mask names. -/
def maskAddrs (page mask : Nat) : List Nat := (groupsIn mask).flatMap (groupAddrs page)

theorem mem_groupsIn {mask g : Nat} : g ∈ groupsIn mask ↔ g < 7 ∧ mask.testBit g = true := by
  simp [groupsIn]

/-- A register of group `g` is named by a mask exactly if the group is. -/
theorem mem_maskAddrs {page mask g a : Nat} (hg : g < 7) (ha : a ∈ groupAddrs page g) :
    a ∈ maskAddrs page mask ↔ mask.testBit g = true := by
  unfold maskAddrs
  rw [List.mem_flatMap]
  constructor
  · rintro ⟨g', hg', ha'⟩
    rw [groupAddrs_inj ha ha']
    exact (mem_groupsIn.1 hg').2
  · exact fun hm => ⟨g, mem_groupsIn.2 ⟨hg, hm⟩, ha⟩

/-! ### Counting -/

theorem perfIrq_touches (s : State) (c : Nat) : Frame [] s (s.perfIrq c) := (Frame.refl [] s).each _ fun u _ _ => (Frame.refl [] u).step

theorem perfWrap_touches (s : State) (c k : Nat) : Frame [perfs] s (s.perfWrap c k) := by
  have h1 : Frame [perfs] s ((s.setFld (pPERF c) (bitAt PERF.PF_STAT k) 1).raise (evAt PERF.evCNT_OVF k) c) :=
    (((Frame.refl _ s).setFld 1 (List.mem_singleton_self _) fun _ _ _ => ⟨c, by simp [bitAt, inPage, PERF.PF_STAT]⟩).setFld 1
      (List.mem_singleton_self _) fun _ _ _ => ⟨c, show inPage (pPERF c) (pPERF c + HDR.EVT_RAW) by simp [inPage, HDR.EVT_RAW]⟩).logOcc _ _
  unfold State.perfWrap
  dsimp only
  split
  · exact h1.next (perfIrq_touches ..)
  · exact h1

theorem perfBump_touches (s : State) (c k : Nat) (e : PerfEv) : Frame [perfs] s (s.perfBump c k e) := by
  unfold State.perfBump
  dsimp only
  split
  · refine .modClu (.when (.setLv (.refl _ s) _ _) _ fun _ => ?_) _ _
    exact perfWrap_touches ..
  · refine .when (.setLv (.refl _ s) _ _) _ fun _ => ?_
    exact perfWrap_touches ..

/-- Counting an event touches the PERF pages alone. -/
theorem perf_touches (s : State) (c : Nat) (e : PerfEv) : Frame [perfs] s (s.perf c e) := by
  unfold State.perf
  split
  · refine (Frame.refl _ s).each _ fun u k _ => ?_
    split
    · exact perfBump_touches ..
    · exact .refl _ u
  · exact .refl _ s

theorem perfCommit_touches (s : State) (page code : Nat) (core : Option Nat) (src : Nat) :
    Frame [perfs] s (s.perfCommit page code core src) := by
  unfold State.perfCommit
  split
  · split
    · unfold State.perfInstr
      split
      · exact perf_touches ..
      · exact .refl _ s
    · exact perf_touches ..
  · split
    · exact perf_touches ..
    · exact .refl _ s

theorem perfCommits_touches (s : State) (code : Nat) (l : List CommitReq) : Frame [perfs] s (s.perfCommits code l) :=
  (Frame.refl _ s).foldl l fun u r _ => perfCommit_touches u r.page code r.core r.src

theorem commitIrq_touches (s : State) (page : Nat) : Frame [] s (s.commitIrq page) := by
  unfold State.commitIrq
  split
  · split
    · exact (Frame.refl _ s).step
    · exact .refl _ s
  · exact .refl _ s

theorem showPending_touches (s : State) (page : Nat) : Frame [regAt (page + commitStatOff page)] s (s.showPending page) :=
  (Frame.refl _ s).setFld _ (List.mem_singleton_self _) fun _ _ _ => rfl

/-! ### Discarding -/

theorem revertGroup_touches (s : State) (page g : Nat) : Frame [shadow page] s (s.revertGroup page g) :=
  ((Frame.refl _ s).foldl _ fun u a ha => (Frame.refl _ u).wr _ (List.mem_singleton_self _) fun _ => ⟨g, ha⟩).step

theorem discard_touches (s : State) (page mask : Nat) :
    Frame [shadow page, regAt (page + commitStatOff page), events, perfs, asks, just .cal] s (s.discard page mask) := by
  unfold State.discard
  dsimp only
  split
  · exact .refl _ s
  · refine .next (.next (.raise (.setFld (.next ?_ (showPending_touches ..)) 1 (p := fun x _ => x = page + commitStatOff page) (by simp)
      fun _ _ _ => rfl) _ _) (commitIrq_touches ..)) (perfCommits_touches ..)
    refine .when (.when (.setCommits (.foldl (.refl _ s) _ fun u g _ => ?_) _) _ fun _ => ?_) _ fun _ => ?_
    · exact (revertGroup_touches u page g).mono (by simp)
    · exact .modLtx (.refl _ _) _ _
    · exact .modCal (.refl _ _) _ _

/-! ### Requests -/

/-- The values that the shadows of the groups of a mask hold. -/
def shadowVals (s : State) (page mask : Nat) : Tbl Word :=
  (groupsIn mask).foldl (fun t g => (groupAddrs page g).foldl (fun t a => Tbl.insert t a (s.rd a)) t) ([] : Tbl Word)

theorem find_insert_foldl {α : Type} (f : Nat → α) (l : List Nat) (t : Tbl α) (b : Nat) :
    Tbl.find (l.foldl (fun t a => Tbl.insert t a (f a)) t) b = if b ∈ l then some (f b) else Tbl.find t b := by
  induction l generalizing t with
  | nil => rfl
  | cons a l ih =>
    rw [List.foldl_cons, ih, find_insert]
    by_cases hb : b = a
    · subst hb; simp
    · simp [hb]

theorem find_shadowVals (s : State) {page mask g a : Nat} (hg : g < 7) (hm : mask.testBit g = true) (ha : a ∈ groupAddrs page g) :
    Tbl.find (shadowVals s page mask) a = some (s.rd a) := by
  unfold shadowVals
  rw [← List.foldl_flatMap, find_insert_foldl]
  exact if_pos ((mem_maskAddrs hg ha).2 hm)

/-- A request has joined those waiting, COMMIT_STAT shows it, and it is counted (R59, R60). -/
def requested (s : State) (page mask : Nat) (core : Option Nat) (src : Nat) : State :=
  let s := { s with commits := s.commits ++ [CommitReq.mk page mask (shadowVals s page mask) core src] }
  let s := match core with
    | some k =>
      let named := (groupsIn mask).map (page + ·)
      s.modCore k (fun x => { x with dirty := x.dirty.filter (fun d => !named.contains d) })
    | none => s
  (s.showPending page).perfCommit page 0x60 core src

theorem commitRequest_zero (s : State) (page : Nat) (core : Option Nat) (src : Nat) : s.commitRequest page 0 core src = s := rfl

theorem commitRequest_eq (s : State) (page : Nat) {mask : Nat} (hm : mask ≠ 0) (core : Option Nat) (src : Nat) :
    s.commitRequest page mask core src = if (requested s page mask core src).brownOut then (requested s page mask core src).discard page mask
      else requested s page mask core src := by
  unfold State.commitRequest
  rw [if_neg hm]
  rfl

/-- Accepting a request changes the requests waiting, COMMIT_STAT and the counters. -/
theorem requested_touches (s : State) (page mask : Nat) (core : Option Nat) (src : Nat) :
    Frame [regAt (page + commitStatOff page), perfs, asks] s (requested s page mask core src) := by
  have h1 := (Frame.refl [regAt (page + commitStatOff page), perfs, asks] s).setCommits
    (s.commits ++ [CommitReq.mk page mask (shadowVals s page mask) core src])
  unfold requested
  cases core with
  | none => exact (h1.next (showPending_touches _ page)).next (perfCommit_touches _ page 0x60 none src)
  | some k => exact (h1.step.next (showPending_touches _ page)).next (perfCommit_touches _ page 0x60 (some k) src)

theorem requested_commits (s : State) (page mask : Nat) (core : Option Nat) (src : Nat) :
    (requested s page mask core src).commits = s.commits ++ [CommitReq.mk page mask (shadowVals s page mask) core src] := by
  have h (u : State) : ((u.showPending page).perfCommit page 0x60 core src).commits = u.commits := by
    have hf : Frame [regAt (page + commitStatOff page), perfs] u ((u.showPending page).perfCommit page 0x60 core src) :=
      .next (.next (.refl _ u) (showPending_touches ..)) (perfCommit_touches ..)
    exact hf.same .commits (by simp)
  unfold requested
  cases core with
  | none => exact h _
  | some k => exact h _

/-! ### What acceptance and discarding leave (R33, R59, R60) -/

/-- A lane direction's page, its COMMIT_STAT, its COMMIT_DISCARDED and its number. -/
structure laneDir (page stat : Nat) (e : Ev) (i : Nat) : Prop where
  stat_eq : commitStatOff page = stat
  ev_eq : commitDiscardedEv page = e
  inst_eq : instOf page = i
  base : pageAt e.fam i = page
  ev_lt : e.bit < 32
  low : pLRX 0 ≤ page
  high : page + 0x1000 ≤ pPERF 0

theorem laneDir_lrx (n : Fin 8) : laneDir (pLRX n) LRX.COMMIT_STAT LRX.evCOMMIT_DISCARDED n := by
  have h : ∀ n : Fin 8, commitStatOff (pLRX n) = LRX.COMMIT_STAT ∧ commitDiscardedEv (pLRX n) = LRX.evCOMMIT_DISCARDED
      ∧ instOf (pLRX n) = n ∧ pLRX 0 ≤ pLRX n ∧ pLRX n + 0x1000 ≤ pPERF 0 := by decide
  obtain ⟨hs, he, hi, hlo, hhi⟩ := h n
  exact ⟨hs, he, hi, rfl, by decide, hlo, hhi⟩

theorem laneDir_ltx (n : Fin 8) : laneDir (pLTX n) LTX.COMMIT_STAT LTX.evCOMMIT_DISCARDED n := by
  have h : ∀ n : Fin 8, commitStatOff (pLTX n) = LTX.COMMIT_STAT ∧ commitDiscardedEv (pLTX n) = LTX.evCOMMIT_DISCARDED
      ∧ instOf (pLTX n) = n ∧ pLRX 0 ≤ pLTX n ∧ pLTX n + 0x1000 ≤ pPERF 0 := by decide
  obtain ⟨hs, he, hi, hlo, hhi⟩ := h n
  exact ⟨hs, he, hi, rfl, by decide, hlo, hhi⟩

theorem laneDir_hsl (m : Fin 16) : laneDir (pHSL m) HSL.COMMIT_STAT HSL.evCOMMIT_DISCARDED m := by
  have h : ∀ m : Fin 16, commitStatOff (pHSL m) = HSL.COMMIT_STAT ∧ commitDiscardedEv (pHSL m) = HSL.evCOMMIT_DISCARDED
      ∧ instOf (pHSL m) = m ∧ pLRX 0 ≤ pHSL m ∧ pHSL m + 0x1000 ≤ pPERF 0 := by decide
  obtain ⟨hs, he, hi, hlo, hhi⟩ := h m
  exact ⟨hs, he, hi, rfl, by decide, hlo, hhi⟩

section
variable {page stat : Nat} {e : Ev} {i : Nat} (hd : laneDir page stat e i)
include hd

/-- A shadow register is neither COMMIT_STAT nor on a PERF page. -/
theorem shadow_apart {g a : Nat} (ha : a ∈ groupAddrs page g) : a ≠ page + commitStatOff page ∧ ¬ ∃ c, inPage (pPERF c) a := by
  refine ⟨fun he => commitStat_not_shadow page g (he ▸ ha), ?_⟩
  rintro ⟨c, hc, -⟩
  obtain ⟨off, rfl, -, -, hoff⟩ := mem_groupAddrs ha
  have := hd.high
  simp only [pPERF] at *
  omega

theorem requested_brownOut (s : State) (mask : Nat) (core : Option Nat) (src : Nat) :
    (requested s page mask core src).brownOut = s.brownOut := by
  unfold State.brownOut
  refine (requested_touches s page mask core src).bit fun j _ _ => ?_
  have := hd.low
  simp only [List.forall_mem_cons, bitsAt, asks, not_false_eq_true, List.not_mem_nil, false_implies, implies_true, and_true,
    inPage, pLRX, pPERF, pPWR, not_exists] at *
  exact ⟨by omega, fun c => by omega⟩

/-- Accepting a request leaves the shadow bank. -/
theorem requested_shadow (s : State) (mask : Nat) (core : Option Nat) (src : Nat) {g a : Nat} (ha : a ∈ groupAddrs page g) :
    (requested s page mask core src).rd a = s.rd a :=
  (requested_touches s page mask core src).rd fun j _ => by
    obtain ⟨hstat, hperf⟩ := shadow_apart hd ha
    simpa [hstat] using hperf

/-- Outside the brown-out a request is accepted with the values of the shadows, and nothing comes into force (R33, R59). -/
theorem commitRequest_accepts (s : State) {mask : Nat} (hm : mask ≠ 0) (hb : s.brownOut = false) :
    accepted s (s.commitRequest page mask none 0) page mask 0 ∧ (∀ a, (s.commitRequest page mask none 0).inf a = s.inf a)
      ∧ memSame s (s.commitRequest page mask none 0) ∧ (s.commitRequest page mask none 0).pending = s.pending
      ∧ regsSame s (s.commitRequest page mask none 0) (fun a => a = page + stat ∨ ∃ c, inPage (pPERF c) a) := by
  rw [commitRequest_eq _ _ hm, requested_brownOut hd, hb, if_neg (by simp)]
  have hf := requested_touches s page mask none 0
  refine ⟨⟨_, requested_commits .., rfl, rfl, rfl, fun g a hg hbit ha => ?_⟩, hf.inf (by simp), hf.bytes (by simp),
    (hf.fixed (by simp)).pending, fun a ha => hf.rd fun j _ => ?_⟩
  · rw [requested_shadow hd s mask none 0 ha]
    exact find_shadowVals s hg hbit ha
  · rw [not_or, ← hd.stat_eq] at ha
    simpa using ha

end

/-- The shadows of some groups return to the values in force. -/
theorem rd_revertGroups (s : State) (page a : Nat) (gs : List Nat) :
    (gs.foldl (fun s g => s.revertGroup page g) s).rd a = if a ∈ gs.flatMap (groupAddrs page) then s.inf a else s.rd a := by
  have one (l : List Nat) (s : State) : (l.foldl (fun s a => s.wr a (s.inf a)) s).rd a = if a ∈ l then s.inf a else s.rd a := by
    induction l generalizing s with
    | nil => rfl
    | cons x l ih =>
      rw [List.foldl_cons, ih]
      by_cases hx : a = x
      · subst hx; simp [show (s.wr a (s.inf a)).inf a = s.inf a from rfl]
      · simp [hx, rd_wr_ne s x a _ hx, show (s.wr x (s.inf x)).inf a = s.inf a from rfl]
  induction gs generalizing s with
  | nil => rfl
  | cons g gs ih =>
    have hr : (s.revertGroup page g).rd a = if a ∈ groupAddrs page g then s.inf a else s.rd a := one _ s
    rw [List.foldl_cons, ih, (revertGroup_touches s page g).inf (by simp), hr]
    by_cases h1 : a ∈ groupAddrs page g <;> by_cases h2 : a ∈ gs.flatMap (groupAddrs page) <;> simp_all

/-- The shadows of the groups that end discarded are back, and the requests that named them dropped. -/
def dropped (s : State) (page mask : Nat) : State :=
  let s := (groupsIn (s.pendingGroups page &&& mask)).foldl (fun s g => s.revertGroup page g) s
  { s with commits := dropGroups page mask s.commits }

/-- The event of a discard, and COMMIT_STAT (R60). -/
def discardShown (s : State) (page : Nat) : State :=
  ((s.showPending page).setFld page ⟨commitStatOff page, 7, 1⟩ 1).raise (commitDiscardedEv page) (instOf page)

theorem discard_eq (s : State) (page mask : Nat) (h : s.pendingGroups page &&& mask ≠ 0) :
    s.discard page mask = ((discardShown (((dropped s page mask).when (hasSrc s.commits page mask 1) fun s => s.remEnd page false 0).when
      (hasSrc s.commits page mask 2) fun s => s.calEnd page false) page).commitIrq page).perfCommits 0x62
        (s.commits.filter fun r => r.page == page && (r.groups &&& mask) != 0) := by
  unfold State.discard
  rw [if_neg h]
  rfl

theorem discardShown_touches (s : State) (page : Nat) : Frame [regAt (page + commitStatOff page), events] s (discardShown s page) :=
  .raise (.setFld (.next (.refl _ s) (showPending_touches ..)) 1 (p := fun x _ => x = page + commitStatOff page) (by simp) fun _ _ _ => rfl) _ _

/-- A request alone among those waiting ends discarded: nothing waits, and its shadows hold the values in force (R60). -/
theorem discard_only (s : State) {page stat : Nat} {e : Ev} {i : Nat} (hd : laneDir page stat e i) {q : CommitReq} (hq : s.commits = [q])
    (hp : q.page = page) (hg : q.groups ≠ 0) (hsrc : q.src = 0) :
    let t := s.discard page q.groups
    t.commits = [] ∧ raised t e i ∧ ∀ g a, g < 7 → q.groups.testBit g = true → a ∈ groupAddrs page g → t.rd a = s.inf a := by
  have hpend : s.pendingGroups page &&& q.groups = q.groups := by simp [State.pendingGroups, hq, hp]
  have hno (src : Nat) (h : src ≠ 0) : hasSrc [q] page q.groups src = false := by simp [hasSrc, hsrc, h.symm]
  have hu : (dropped s page q.groups).commits = [] := by
    have hrev : (dropped s page q.groups).commits = dropGroups page q.groups s.commits :=
      congrArg (dropGroups page q.groups) ((Frame.foldl (.refl [shadow page] s) _ fun u g _ => revertGroup_touches u page g).same .commits (by simp))
    rw [hrev, hq]
    simp [dropGroups, hp]
  intro t
  let u := dropped s page q.groups
  let v := discardShown u page
  have ht : ∃ gone, t = (v.commitIrq page).perfCommits 0x62 gone := by
    refine ⟨s.commits.filter fun r => r.page == page && (r.groups &&& q.groups) != 0, (discard_eq s page q.groups (hpend.symm ▸ hg)).trans ?_⟩
    rw [hq, hno 1 (by decide), hno 2 (by decide), when_false, when_false]
  obtain ⟨gone, ht⟩ := ht
  have hvt : Frame [perfs] v t := by
    rw [ht]
    exact .next (.next (.refl _ v) (commitIrq_touches ..)) (perfCommits_touches ..)
  have hut : Frame [regAt (page + commitStatOff page), events, perfs] u t :=
    .next (.next (.refl _ u) (discardShown_touches ..)) hvt
  refine ⟨(hut.same .commits (by simp)).trans hu, hvt.raised ?_ ?_, fun g a hg hbit ha => ?_⟩
  · show raised (((u.showPending page).setFld page ⟨commitStatOff page, 7, 1⟩ 1).raise (commitDiscardedEv page) (instOf page)) e i
    rw [hd.ev_eq, hd.inst_eq]
    exact raised_raiseBy _ e i 0 hd.ev_lt
  · have := hd.high
    rw [hd.base]
    simp only [List.forall_mem_cons, bitsAt, List.not_mem_nil, false_implies, implies_true, and_true, inPage, pPERF, not_exists, HDR.EVT_RAW] at *
    omega
  · obtain ⟨hstat, hperf⟩ := shadow_apart hd ha
    have hraw : a % 0x1000 ≠ HDR.EVT_RAW := by
      obtain ⟨off, rfl, -, hlo, hhi⟩ := mem_groupAddrs ha
      have := pageAt_mod e.fam i
      rw [hd.base] at this
      unfold HDR.EVT_RAW at *
      omega
    rw [hut.rd fun j _ => by simp [hstat, hraw]; simpa using hperf]
    refine (rd_revertGroups s page a _).trans (if_pos ?_)
    rw [hpend]
    exact (mem_maskAddrs hg ha).2 hbit

/-- In the brown-out a request is discarded as it comes, with none waiting before it (R60). -/
theorem commitRequest_discards (s : State) {page stat : Nat} {e : Ev} {i : Nat} (hd : laneDir page stat e i) {mask : Nat} (hm : mask ≠ 0)
    (hb : s.brownOut = true) (hc : s.commits = []) :
    let t := s.commitRequest page mask none 0
    t.commits = [] ∧ raised t e i ∧ memSame s t ∧ (∀ a, t.inf a = s.inf a)
      ∧ ∀ g a, g < 7 → mask.testBit g = true → a ∈ groupAddrs page g → t.rd a = s.inf a := by
  intro t
  let u := requested s page mask none 0
  have hsu := requested_touches s page mask none 0
  have hut := discard_touches u page mask
  have ht : t = u.discard page mask := by
    show s.commitRequest page mask none 0 = _
    rw [commitRequest_eq _ _ hm, requested_brownOut hd, hb, if_pos rfl]
  have hu : u.commits = [CommitReq.mk page mask (shadowVals s page mask) none 0] := by
    rw [show u.commits = _ from requested_commits .., hc]
    rfl
  obtain ⟨hcom, hr, hsh⟩ := discard_only u hd hu rfl hm rfl
  rw [ht]
  refine ⟨hcom, hr, memSame_trans (hsu.bytes (by simp)) (hut.bytes (by simp)), fun a => ?_, fun g a hg hbit ha => ?_⟩
  · rw [hut.inf (by simp), hsu.inf (by simp)]
  · rw [hsh g a hg hbit ha, hsu.inf (by simp)]

/-! ### A COMMIT write -/

/-- A host error on a page changes the values in force, but no request. -/
theorem unsettlePage_commits (s : State) (page : Nat) : (s.unsettlePage page).commits = s.commits := by
  unfold State.unsettlePage
  dsimp only
  refine List.foldlRecOn (motive := fun t : State => t.commits = s.commits) _ _ rfl fun t ht x _ => ?_
  split <;> exact ht

/-- A COMMIT that names a group in which the owner's values stand is a host error on its page (R59, R447). -/
theorem effCommit_owned {s : State} {page mask : Nat} (h : ∃ g ∈ groupsIn mask, s.mark page g &&& 2 ≠ 0) {v : Word} (hv : v.toNat = mask) :
    effCommit page v s = .ok (s.unsettlePage page) := by
  unfold effCommit
  rw [hv, if_pos (by simpa using h)]
  rfl

/-- Any other COMMIT asks for its commit (R59). -/
theorem effCommit_requests {s : State} {page mask : Nat} (h : ∀ g ∈ groupsIn mask, s.mark page g &&& 2 = 0) {v : Word} (hv : v.toNat = mask) :
    effCommit page v s = .ok (s.commitRequest page mask none 0) := by
  unfold effCommit
  rw [hv, if_neg (by simpa using h)]

section
variable {s : State} {r : Requester} {fam i off stat mask : Nat} {e : Ev} {v : Word} {eff : State → Out}
  (h : reaches s r fam i off v) (hd : laneDir (pageAt fam i) stat e i) (hv : v.toNat = mask)
include h hd hv

/-- The outcomes of a COMMIT that names no group of the owner's. -/
theorem commitWrite_takes (hm : mask ≠ 0 ∧ ∀ g ∈ groupsIn mask, s.mark (pageAt fam i) g &&& 2 = 0) :
    ∃ t, txn r (pageAt fam i + off) v (effCommit (pageAt fam i) v) s = .next t
      ∧ (s.brownOut = false → accepted s t (pageAt fam i) mask 0 ∧ (∀ a, t.inf a = s.inf a) ∧ memSame s t ∧ t.pending = s.pending
        ∧ regsSame s t (fun a => a = pageAt fam i + stat ∨ ∃ c, inPage (pPERF c) a))
      ∧ (s.brownOut = true → s.commits = [] → t.commits = [] ∧ raised t e i ∧ memSame s t ∧ (∀ a, t.inf a = s.inf a)
        ∧ ∀ g a, g < 7 → mask.testBit g = true → a ∈ groupAddrs (pageAt fam i) g → t.rd a = s.inf a) := by
  rw [txn_reaches s r fam i off v _ h (pageAt_mod4 fam i), effCommit_requests hm.2 hv, finish_ok]
  obtain ⟨x, hx⟩ := reportOk_eq (s.commitRequest (pageAt fam i) mask none 0) r
  rw [hx]
  exact ⟨_, rfl, fun hb => commitRequest_accepts hd s hm.1 hb, fun hb hc => commitRequest_discards s hd hm.1 hb hc⟩

/-- The outcome of a COMMIT that names a group of the owner's, and of one that names none. -/
theorem commitWrite_leaves {p : PageRow} (hp : p ∈ pages) (hfam : p.fam = fam) (hi : i < p.count) :
    ∃ t, txn r (pageAt fam i + off) v (effCommit (pageAt fam i) v) s = .next t
      ∧ ((∃ g ∈ groupsIn mask, s.mark (pageAt fam i) g &&& 2 ≠ 0) → t.commits = s.commits ∧ onlyPage s t (pageAt fam i))
      ∧ (mask = 0 → nothing s t) := by
  subst hfam
  rw [txn_reaches s r p.fam i off v _ h (pageAt_mod4 p.fam i)]
  by_cases hm : ∃ g ∈ groupsIn mask, s.mark (pageAt p.fam i) g &&& 2 ≠ 0
  · rw [effCommit_owned hm hv, finish_ok]
    refine ⟨_, rfl, fun _ => ⟨?_, ?_⟩, fun h0 => ?_⟩
    · obtain ⟨x, hx⟩ := reportOk_eq (s.unsettlePage (pageAt p.fam i)) r
      rw [hx]
      exact unsettlePage_commits ..
    · exact onlyPage_trans (unsettlePage_frame s hp hi).1 (onlyPage_of_nothing (nothing_reportOk ..) _)
    · subst h0
      obtain ⟨g, hg, -⟩ := hm
      exact absurd hg (by simp [groupsIn])
  · rw [effCommit_requests (by push Not at hm; exact hm) hv, finish_ok]
    refine ⟨_, rfl, fun hm' => absurd hm' hm, fun h0 => ?_⟩
    rw [h0, commitRequest_zero]
    exact nothing_reportOk s r

end

/-- Settles O34: acceptance with the shadows' values, discarding in the brown-out, the host error and the empty mask, for each of
the three directions. -/
theorem commitRequestsTakeTheShadow : Obligations.CommitRequestsTakeTheShadow := by
  intro s r
  have width {w : Nat} (m : BitVec w) (h : w ≤ 32) : (m.setWidth 32).toNat = m.toNat := by
    rw [BitVec.toNat_setWidth]
    exact Nat.mod_eq_of_lt (lt_of_lt_of_le m.isLt (Nat.pow_le_pow_right (by decide) h))
  refine ⟨fun n m h hm => ?_, fun n m h => ?_, fun n m h hm => ?_, fun n m h => ?_, fun n m h hm => ?_, fun n m h => ?_⟩
  · obtain ⟨t, he, hok, hgone⟩ := commitWrite_takes h (laneDir_lrx n) (width m (by decide)) hm
    exact ⟨fun hb => ⟨t, he, hok hb⟩, fun hb hc => ⟨t, he, hgone hb hc⟩⟩
  · obtain ⟨t, he, howned, hzero⟩ := commitWrite_leaves h (laneDir_lrx n) (width m (by decide)) (p := pages[9]) (by decide) rfl n.isLt
    exact ⟨fun hm => ⟨t, he, howned hm⟩, fun h0 => ⟨t, he, hzero (by rw [h0]; rfl)⟩⟩
  · obtain ⟨t, he, hok, hgone⟩ := commitWrite_takes h (laneDir_ltx n) (width m (by decide)) hm
    exact ⟨fun hb => ⟨t, he, hok hb⟩, fun hb hc => ⟨t, he, hgone hb hc⟩⟩
  · obtain ⟨t, he, howned, hzero⟩ := commitWrite_leaves h (laneDir_ltx n) (width m (by decide)) (p := pages[10]) (by decide) rfl n.isLt
    exact ⟨fun hm => ⟨t, he, howned hm⟩, fun h0 => ⟨t, he, hzero (by rw [h0]; rfl)⟩⟩
  · obtain ⟨t, he, hok, hgone⟩ := commitWrite_takes h (laneDir_hsl n) (width m (by decide)) hm
    exact ⟨fun hb => ⟨t, he, hok hb⟩, fun hb hc => ⟨t, he, hgone hb hc⟩⟩
  · obtain ⟨t, he, howned, hzero⟩ := commitWrite_leaves h (laneDir_hsl n) (width m (by decide)) (p := pages[15]) (by decide) rfl n.isLt
    exact ⟨fun hm => ⟨t, he, howned hm⟩, fun h0 => ⟨t, he, hzero (by rw [h0]; rfl)⟩⟩

end Sys2Proof.Proofs

namespace Sys2Proof.Proofs

open Sys2Proof Sys2Proof.Machine Sys2Proof.Safety Sys2Proof.Laws

-- One declaration after another, as the tests are: a thread for every proof would not fit the memory of the check.
set_option Elab.async false

/-! ## A commit point (R30 to R33, R61) -/

theorem inf_setInf (s : State) (a : Nat) (w : Word) (b : Nat) : (s.setInf a w).inf b = if b = a then w else s.inf b := by
  unfold State.inf State.setInf
  by_cases hb : b = a
  · subst hb
    rw [if_pos rfl]
    exact get_put_self ..
  · rw [if_neg hb]
    exact get_put_ne _ _ _ _ _ _ hb

/-- Values of a request come into force, and marks fall. -/
theorem applyReq_touches (s : State) (dir : Nat) (r : CommitReq) : Frame [just .inForce] s (s.applyReq dir r) := by
  unfold State.applyReq
  refine .foldl (.foldl (.refl _ s) _ fun u g _ => .foldl (.refl _ u) _ fun v a _ => .setInf (.refl _ v) _ _) _ fun u g _ => ?_
  split
  · exact .setMark (.refl _ u) _ _ _
  · exact .refl _ u

/-- The value in force once a request has been applied: the request's where it names the register's group (R33). -/
theorem inf_applyReq (s : State) (dir : Nat) (r : CommitReq) (b : Nat) : (s.applyReq dir r).inf b =
    if b ∈ maskAddrs r.page (r.groups &&& dir) then (Tbl.find r.vals b).getD (s.inf b) else s.inf b := by
  have marks (gs : List Nat) (u : State) : Frame [] u (gs.foldl (fun s g =>
      if (groupAddrs r.page g).all (fun a => s.rd a == s.inf a) then s.setMark r.page g 0 else s) u) := by
    refine .foldl (.refl _ u) _ fun v g _ => ?_
    split
    · exact .setMark (.refl _ v) _ _ _
    · exact .refl _ v
  have values (l : List Nat) (u : State) : (l.foldl (fun s a => s.setInf a ((Tbl.find r.vals a).getD (s.inf a))) u).inf b =
      if b ∈ l then (Tbl.find r.vals b).getD (u.inf b) else u.inf b := by
    induction l generalizing u with
    | nil => rfl
    | cons a l ih =>
      rw [List.foldl_cons, ih, inf_setInf]
      by_cases hb : b = a
      · subst hb
        cases Tbl.find r.vals b <;> simp
      · simp [hb]
  unfold State.applyReq
  dsimp only
  rw [(marks _ _).inf (by simp), ← List.foldl_flatMap, values]
  rfl

/-- What is left of a mask without the bits of another has none of them. -/
theorem sub_and_and (x d : Nat) : (x - (x &&& d)) &&& d = 0 := by
  induction x using Nat.strongRecOn generalizing d with
  | ind x ih =>
    by_cases hx : x = 0
    · subst hx
      simp
    · have hle : x &&& d ≤ x := Nat.and_le_left
      have hhalf : (x &&& d) / 2 = x / 2 &&& d / 2 := Nat.and_div_two
      have hbit : (x &&& d) % 2 = 1 ↔ x % 2 = 1 ∧ d % 2 = 1 := Nat.and_mod_two_eq_one
      have hodd : ((x - (x &&& d)) &&& d) % 2 = 1 ↔ (x - (x &&& d)) % 2 = 1 ∧ d % 2 = 1 := Nat.and_mod_two_eq_one
      have hhigh : ((x - (x &&& d)) &&& d) / 2 = 0 := by
        rw [Nat.and_div_two, show (x - (x &&& d)) / 2 = x / 2 - (x / 2 &&& d / 2) by omega]
        exact ih (x / 2) (by omega) (d / 2)
      omega

section
variable (page dir : Nat)

/-- A request of the page names a group of the direction. -/
def names (r : CommitReq) : Bool := r.page == page && (r.groups &&& dir) != 0

/-- With room for all, every request of the direction is due, and none of what remains names it. -/
theorem takeDue_all (l : List CommitReq) (n : Nat) (hn : (l.filter (names page dir)).length ≤ n) :
    (takeDue page dir n l).1 = l.filter (names page dir) ∧ ∀ r ∈ (takeDue page dir n l).2, r.page = page → r.groups &&& dir = 0 := by
  induction l generalizing n with
  | nil => simp [takeDue]
  | cons r l ih =>
    by_cases hr : r.page = page ∧ r.groups &&& dir ≠ 0
    · have hf : (r :: l).filter (names page dir) = r :: l.filter (names page dir) := List.filter_cons_of_pos (by simpa [names] using hr)
      rw [hf, List.length_cons] at hn
      obtain ⟨hdue, hrest⟩ := ih (n - 1) (by omega)
      rw [takeDue, if_pos ⟨hr.1, hr.2, by omega⟩, hf]
      refine ⟨congrArg _ hdue, fun x hx hp => ?_⟩
      dsimp only at hx
      split at hx
      next => exact hrest x hx hp
      next =>
        rcases List.mem_cons.1 hx with rfl | hx
        · exact sub_and_and r.groups dir
        · exact hrest x hx hp
    · have hf : (r :: l).filter (names page dir) = l.filter (names page dir) := List.filter_cons_of_neg (by simpa [names] using hr)
      rw [hf] at hn ⊢
      obtain ⟨hdue, hrest⟩ := ih n hn
      rw [takeDue, if_neg (by tauto)]
      refine ⟨hdue, fun x hx hp => ?_⟩
      rcases List.mem_cons.1 hx with rfl | hx
      · by_contra h
        exact hr ⟨hp, h⟩
      · exact hrest x hx hp

theorem takeDue_none (l : List CommitReq) : takeDue page dir 0 l = ([], l) := by
  induction l with
  | nil => rfl
  | cons r l ih => rw [takeDue, if_neg (by omega), ih]

end

/-- The requests applied one after another leave each register what `inForceAfter` says. -/
theorem inf_applyReqs (page dir : Nat) {g a : Nat} (hg : g < 7) (ha : a ∈ groupAddrs page g) (l : List CommitReq) (s : State) :
    ((l.filter (names page dir)).foldl (fun s r => s.applyReq dir r) s).inf a = inForceAfter page dir g a l (s.inf a) := by
  unfold inForceAfter
  induction l generalizing s with
  | nil => rfl
  | cons r l ih =>
    rw [List.foldl_cons]
    by_cases hr : r.page = page ∧ r.groups &&& dir ≠ 0
    · rw [List.filter_cons_of_pos (by simpa [names] using hr), List.foldl_cons, ih, inf_applyReq, hr.1]
      congr 1
      exact if_congr ((mem_maskAddrs hg ha).trans (by simp)) rfl rfl
    · rw [List.filter_cons_of_neg (by simpa [names] using hr), ih, if_neg]
      rintro ⟨hp, hb⟩
      exact hr ⟨hp, fun h0 => by simp [h0] at hb⟩

/-- COMMIT_STAT, the interrupt and the counts of the requests that have taken effect. -/
def appliedShown (s : State) (page frame : Nat) (due : List CommitReq) (rem cal : Bool) : State :=
  let s := s.when rem (fun s => s.remEnd page true frame)
  let s := s.when cal (fun s => s.calEnd page true)
  let s := (s.showPending page).setFld page ⟨commitStatOff page, 7, 1⟩ 0
  let s := s.setFld page ⟨commitStatOff page, 16, 16⟩ frame
  (s.commitIrq page).perfCommits 0x61 due

theorem appliedShown_touches (s : State) (page frame : Nat) (due : List CommitReq) (rem cal : Bool) :
    Frame [regAt (page + commitStatOff page), perfs, just .cal] s (appliedShown s page frame due rem cal) := by
  unfold appliedShown
  refine .next (.next (.setAt (.setAt (.next (.when (.when (.refl _ s) _ fun _ => .modLtx (.refl _ _) _ _) _ fun _ => .modCal (.refl _ _) _ _)
    (showPending_touches ..)) 0) frame) (commitIrq_touches ..)) (perfCommits_touches ..)

/-- The requests that are due have been applied, and no longer wait. -/
def applied (s : State) (page dir late : Nat) : State :=
  let x := takeDue page dir ((s.commits.filter (names page dir)).length - late) s.commits
  { x.1.foldl (fun s r => s.applyReq dir r) s with commits := x.2 }

theorem applyCommits_eq (s : State) (page dir late frame : Nat) : s.applyCommits page dir late frame =
    if (takeDue page dir ((s.commits.filter (names page dir)).length - late) s.commits).1 = [] then s
    else
      let due := (takeDue page dir ((s.commits.filter (names page dir)).length - late) s.commits).1
      appliedShown (applied s page dir late) page frame due (hasSrc due page dir 1) (hasSrc due page dir 2) := by
  unfold State.applyCommits
  rfl

theorem applied_touches (s : State) (page dir late : Nat) : Frame [asks, just .inForce] s (applied s page dir late) :=
  .setCommits (.foldl (.refl _ s) _ fun u r _ => (applyReq_touches u dir r).mono (by simp)) _

/-- What a commit point leaves beside the values in force: COMMIT_STAT, the requests and the counters; a visit may go on. -/
theorem applyCommits_touches (s : State) (page dir late frame : Nat) :
    Frame [regAt (page + commitStatOff page), perfs, asks, just .inForce, just .cal] s (s.applyCommits page dir late frame) := by
  rw [applyCommits_eq]
  split
  · exact .refl _ s
  · exact .next (.next (.refl _ s) (applied_touches ..)) (appliedShown_touches ..)

/-- With none late, every request of the direction takes effect (R30, R33). -/
theorem applyCommits_tookEffect (s : State) (page dir frame : Nat) : tookEffect s (s.applyCommits page dir 0 frame) page dir := by
  obtain ⟨hdue, hrest⟩ := takeDue_all page dir s.commits ((s.commits.filter (names page dir)).length - 0) (le_refl _)
  have hinf {g a : Nat} (hg : g < 7) (ha : a ∈ groupAddrs page g) := inf_applyReqs page dir hg ha s.commits s
  rw [applyCommits_eq]
  split
  next hnone =>
    rw [hdue] at hnone
    refine ⟨fun r hr hp => ?_, fun g a hg ha => ?_⟩
    · by_contra h
      exact List.filter_eq_nil_iff.1 hnone r hr (by simpa [names] using ⟨hp, h⟩)
    · rw [← hinf hg ha, hnone]
      rfl
  next =>
    have hf (rem cal : Bool) := appliedShown_touches (applied s page dir 0) page frame
      (takeDue page dir ((s.commits.filter (names page dir)).length - 0) s.commits).1 rem cal
    refine ⟨fun r hr hp => hrest r ?_ hp, fun g a hg ha => ?_⟩
    · rwa [(hf _ _).same .commits (by simp)] at hr
    · rw [(hf _ _).inf (by simp), ← hinf hg ha, ← hdue]
      rfl

/-- A request that came too late, alone: it waits on (R32). -/
theorem applyCommits_late (s : State) (page dir late frame : Nat) {q : CommitReq} (hq : s.commits = [q]) (hl : 0 < late) :
    s.applyCommits page dir late frame = s := by
  have hn : (s.commits.filter (names page dir)).length - late = 0 := by
    have := List.length_filter_le (names page dir) s.commits
    rw [hq, List.length_singleton] at this
    rw [hq]
    omega
  rw [applyCommits_eq, hn, takeDue_none, if_pos rfl]

section
variable {s s' t t' : State} {page dir : Nat}

/-- What came before a commit point, if it left the requests and the values in force, does not matter to it. -/
theorem tookEffect_of_before (h : tookEffect s' t page dir) (hc : s'.commits = s.commits) (hi : ∀ a, s'.inf a = s.inf a) :
    tookEffect s t page dir := by
  refine ⟨h.1, fun g a hg ha => ?_⟩
  rw [h.2 g a hg ha, hc, hi]

/-- Nor does what comes after it, if no request joins and the values in force stay. -/
theorem tookEffect_of_after (h : tookEffect s t page dir) (hc : t'.commits ⊆ t.commits) (hi : ∀ a, t'.inf a = t.inf a) :
    tookEffect s t' page dir :=
  ⟨fun r hr => h.1 r (hc hr), fun g a hg ha => (hi a).trans (h.2 g a hg ha)⟩

end

/-- A commit point between changes that leave the requests and the values in force. -/
theorem tookEffect_of_frames {l m : List Zone} {s u t : State} {page dir frame : Nat} (h1 : Frame l s u)
    (h2 : Frame m (u.applyCommits page dir 0 frame) t) (hc1 : ∀ z ∈ l, ¬ z .commits := by simp) (hi1 : ∀ z ∈ l, ¬ z .inForce := by simp)
    (hc2 : ∀ z ∈ m, ¬ z .fewer := by simp) (hi2 : ∀ z ∈ m, ¬ z .inForce := by simp) : tookEffect s t page dir :=
  tookEffect_of_before (tookEffect_of_after (applyCommits_tookEffect u page dir frame) (h2.same .fewer hc2) (h2.inf hi2))
    (h1.same .commits hc1) (h1.inf hi1)

/-! ## The zones of lanes, ports and units -/

/-- The counts that commit points keep, and the states of host lanes. -/
def counter (x : Nat) : Prop :=
  (pLRX 0 ≤ x ∧ x < pLTX 0 ∧ x % 0x1000 = LRX.FRAME_CNT)
    ∨ (pLTX 0 ≤ x ∧ x < pCAL ∧ (x % 0x1000 = LTX.FRAME_CNT ∨ x % 0x1000 = LTX.CLIP_CNT))
    ∨ (pHSL 0 ≤ x ∧ x < pCLU 0 ∧ (x % 0x1000 = HSL.CP_CNT ∨ x % 0x1000 = HSL.RX_STAT ∨ x % 0x1000 = HSL.TX_STAT))

/-- EVT_RAW of a page below PERF. -/
def lowRaw (x : Nat) : Prop := x < pPERF 0 ∧ x % 0x1000 = HDR.EVT_RAW

/-- The page CAL, but for EVT_RAW. -/
def calAt (x : Nat) : Prop := pCAL ≤ x ∧ x < pCAL + 0x1000 ∧ x % 0x1000 ≠ HDR.EVT_RAW

/-- Every register but those. -/
def free (x : Nat) : Prop := ¬ counter x ∧ ¬ lowRaw x ∧ ¬ calAt x

abbrev others : Zone := regsAt free

/-- Everything beside the registers that a commit point does not judge. -/
@[simp] def beside : Zone
  | .hsl => True
  | .stop _ => True
  | .port _ => True
  | _ => False

abbrev cals : Zone := regsAt calAt

/-- The footprint of what goes on around a commit point. -/
abbrev around : List Zone := [others, events, beside]

/-- The same with capture, which writes memory. -/
abbrev recording : List Zone := just .mem :: around

/-- The same, with what the calibration units do: a RETURN may be withdrawn. -/
abbrev visiting : List Zone := [cals, just .commits, just .cal, others, events, beside]

/-- The pages from PERF up. -/
abbrev highs : Zone := regsAt (pPERF 0 ≤ ·)

/-- The pages IFEC, but for EVT_RAW. -/
def ifecAt (x : Nat) : Prop := pIFEC 0 ≤ x ∧ x < pOFEC 0 ∧ x % 0x1000 ≠ HDR.EVT_RAW

/-- The pages OFEC, but for EVT_RAW. -/
def ofecAt (x : Nat) : Prop := pOFEC 0 ≤ x ∧ x < pPORT ∧ x % 0x1000 ≠ HDR.EVT_RAW

/-- The pages HSL, but for EVT_RAW. -/
def hslAt (x : Nat) : Prop := pHSL 0 ≤ x ∧ x < pCLU 0 ∧ x % 0x1000 ≠ HDR.EVT_RAW

/-- The lock bits of the lanes' PLLs. -/
def lockAt (x : Nat) : Prop := x = pCLK + CLK.LOCK0 ∨ x = pCLK + CLK.LOCK1

abbrev ifecs : Zone := regsAt ifecAt
abbrev ofecs : Zone := regsAt ofecAt
abbrev hsls : Zone := regsAt hslAt
abbrev locks : Zone := regsAt lockAt

/-- A field of PSTAT of any port. -/
abbrev pstats (f : Fld) : Zone := bitsAt fun x i => pPORT + f.off ≤ x ∧ x < pPORT + f.off + 32 ∧ f.lo ≤ i ∧ i < f.lo + f.width

/-- QUIET_OPEN of any unit. -/
abbrev quiets : Zone := bitsAt fun x i => pCAL + CAL.U_STAT ≤ x ∧ x < pCAL + CAL.U_STAT + 64 ∧ i = CAL.U_STAT.QUIET_OPEN.lo

/-- The pages OFEC, and of OF_STAT only SNAP_PEND. -/
def latchAt (x i : Nat) : Prop := ofecAt x ∧ (x % 0x1000 = OFEC.OF_STAT → i = OFEC.OF_STAT.SNAP_PEND.lo)

abbrev latches : Zone := bitsAt latchAt

theorem free_iff (x : Nat) : free x ↔
    ¬ ((0x10010000 ≤ x ∧ x < 0x10018000 ∧ x % 0x1000 = 0xC0) ∨ (0x10018000 ≤ x ∧ x < 0x10020000 ∧ (x % 0x1000 = 0x7C ∨ x % 0x1000 = 0x68))
      ∨ (0x10050000 ≤ x ∧ x < 0x10060000 ∧ (x % 0x1000 = 0x90 ∨ x % 0x1000 = 0x44 ∨ x % 0x1000 = 0x6C)))
    ∧ ¬ (x < 0x10070000 ∧ x % 0x1000 = 0x10) ∧ ¬ (0x10020000 ≤ x ∧ x < 0x10021000 ∧ x % 0x1000 ≠ 0x10) := Iff.rfl

theorem bitsAt_le {p q : Nat → Nat → Prop} (h : ∀ x i, p x i → q x i) : bitsAt p ≤ bitsAt q := fun x hx => by
  cases x with
  | bit a i => exact h a i hx
  | set a i => exact h a i hx
  | _ => exact hx

section
variable {n off : Nat}

theorem free_lrx (hn : n < 8) (h : off < 0x1000 ∧ off ≠ 0x10 ∧ off ≠ 0xC0 := by decide) : free (pLRX n + off) := by
  rw [free_iff, pLRX]
  omega

theorem free_ltx (hn : n < 8) (h : off < 0x1000 ∧ off ≠ 0x10 ∧ off ≠ 0x7C ∧ off ≠ 0x68 := by decide) : free (pLTX n + off) := by
  rw [free_iff, pLTX]
  omega

theorem calAt_page (h : off < 0x1000 ∧ off ≠ 0x10 := by decide) : calAt (pCAL + off) := by
  unfold calAt
  simp only [pCAL, HDR.EVT_RAW]
  omega

theorem free_hsl (h : off < 0x1000 ∧ off ≠ 0x10 ∧ off ≠ 0x90 ∧ off ≠ 0x44 ∧ off ≠ 0x6C := by decide) : free (pHSL n + off) := by
  rw [free_iff, pHSL]
  omega

theorem ifecAt_page (hn : n < 8) (h : off < 0x1000 ∧ off ≠ 0x10 := by decide) : ifecAt (pIFEC n + off) := by
  unfold ifecAt
  simp only [pIFEC, pOFEC, HDR.EVT_RAW]
  omega

theorem ofecAt_page (hn : n < 8) (h : off < 0x1000 ∧ off ≠ 0x10 := by decide) : ofecAt (pOFEC n + off) := by
  unfold ofecAt
  simp only [pOFEC, pPORT, HDR.EVT_RAW]
  omega

theorem hslAt_page (hn : n < 16) (h : off < 0x1000 ∧ off ≠ 0x10 := by decide) : hslAt (pHSL n + off) := by
  unfold hslAt
  simp only [pHSL, pCLU, HDR.EVT_RAW]
  omega

/-! ### Zones within the registers that are free -/

theorem highs_le : highs ≤ others := bitsAt_le fun x _ h => by
  rw [free_iff]
  simp only [pPERF] at h
  omega

theorem ifecs_le : ifecs ≤ others := bitsAt_le fun x _ h => by
  unfold ifecAt at h
  rw [free_iff]
  simp only [pIFEC, pOFEC, HDR.EVT_RAW] at h
  omega

theorem ofecs_le : ofecs ≤ others := bitsAt_le fun x _ h => by
  unfold ofecAt at h
  rw [free_iff]
  simp only [pPORT, pOFEC, HDR.EVT_RAW] at h
  omega

theorem latches_le : latches ≤ ofecs := bitsAt_le fun _ _ h => h.1

theorem locks_le : locks ≤ others := bitsAt_le fun x _ h => by
  rcases h with rfl | rfl <;> rw [free_iff] <;> decide

theorem perfs_le : perfs ≤ highs := bitsAt_le fun x _ h => by
  obtain ⟨c, hc, -⟩ := h
  simp only [pPERF] at *
  omega

theorem pstats_le (f : Fld) (hf : f.off = PORT.PSTAT := by rfl) : pstats f ≤ others := bitsAt_le fun x _ h => by
  rw [free_iff]
  simp only [hf, pPORT, PORT.PSTAT] at h
  omega

theorem quiets_le : quiets ≤ cals := bitsAt_le fun x _ h => by
  unfold calAt
  simp only [pCAL, CAL.U_STAT, HDR.EVT_RAW] at *
  omega

theorem fieldAt_le {b : Nat} {f : Fld} (h : free (b + f.off)) : fieldAt b f ≤ others := bitsAt_le fun x _ hx => by
  rw [hx.1]
  exact h

end

/-! ### Steps in these zones -/

namespace Frame
variable {l m : List Zone} {s t u : State}

/-- A field of a register that is free. -/
theorem setFree (h : Frame l s t) {b : Nat} {f : Fld} (v : Nat) (hx : free (b + f.off)) (hz : others ∈ l := by simp) :
    Frame l s (t.setFld b f v) := h.setIn free v hx hz

theorem wrFree (h : Frame l s t) {a : Nat} (w : Word) (hx : free a) (hz : others ∈ l := by simp) : Frame l s (t.wr a w) := h.wrIn free w hx hz

theorem setHigh (h : Frame l s t) {b : Nat} {f : Fld} (v : Nat) (hx : pPERF 0 ≤ b) (hz : highs ∈ l := by simp) :
    Frame l s (t.setFld b f v) := h.setIn (pPERF 0 ≤ ·) v (Nat.le_add_right_of_le hx) hz

theorem wrHigh (h : Frame l s t) {a : Nat} (w : Word) (hx : pPERF 0 ≤ a) (hz : highs ∈ l := by simp) : Frame l s (t.wr a w) :=
  h.wrIn (pPERF 0 ≤ ·) w hx hz

theorem setIfec (h : Frame l s t) {n : Nat} {f : Fld} (v : Nat) (hn : n < 8) (hf : f.off < 0x1000 ∧ f.off ≠ 0x10 := by decide)
    (hz : ifecs ∈ l := by simp) : Frame l s (t.setFld (pIFEC n) f v) := h.setIn ifecAt v (ifecAt_page hn hf) hz

theorem setOfec (h : Frame l s t) {n : Nat} {f : Fld} (v : Nat) (hn : n < 8) (hf : f.off < 0x1000 ∧ f.off ≠ 0x10 := by decide)
    (hz : ofecs ∈ l := by simp) : Frame l s (t.setFld (pOFEC n) f v) := h.setIn ofecAt v (ofecAt_page hn hf) hz

theorem setHsl (h : Frame l s t) {n : Nat} {f : Fld} (v : Nat) (hn : n < 16) (hf : f.off < 0x1000 ∧ f.off ≠ 0x10 := by decide)
    (hz : hsls ∈ l := by simp) : Frame l s (t.setFld (pHSL n) f v) := h.setIn hslAt v (hslAt_page hn hf) hz

theorem setPstat (h : Frame l s t) {p : Nat} {f : Fld} (v : Nat) (hp : p < 8) (hz : pstats f ∈ l := by simp) :
    Frame l s (t.setFld pPORT (psf p f) v) := h.setFld v hz fun _ hlo hhi => by
      refine ⟨?_, ?_, hlo, hhi⟩ <;> simp only [psf, fldAt, pPORT] <;> omega

/-- A lock bit. -/
theorem setLock (h : Frame l s t) {i : Nat} (v : Nat) {a : Nat} (ha : a = CLK.LOCK0 ∨ a = CLK.LOCK1 := by simp) (hz : locks ∈ l := by simp) :
    Frame l s (t.setFld pCLK (bitAt a i) v) :=
  h.setIn lockAt v (ha.elim (fun h => .inl (congrArg (pCLK + ·) h)) fun h => .inr (congrArg (pCLK + ·) h)) hz

/-- What is named zone by zone, around a commit point. -/
theorem toAround (h : Frame l s t) (hl : ∀ z ∈ l, z ≤ others ∨ z = events ∨ z ≤ beside) : Frame around s t :=
  h.cover fun z hz => by
    rcases hl z hz with h | rfl | h
    · exact ⟨others, by simp, h⟩
    · exact ⟨events, by simp, le_rfl⟩
    · exact ⟨beside, by simp, h⟩

/-- A register or value of the calibration units. -/
theorem setCal (h : Frame l s t) {f : Fld} (v : Nat) (hx : calAt (pCAL + f.off)) (hz : cals ∈ l := by simp) : Frame l s (t.setFld pCAL f v) :=
  h.setIn calAt v hx hz

/-- A count that commit points keep. -/
theorem count (h : Frame l s t) {a : Nat} (ha : counter a) (hl : l ⊆ just .mem :: visiting := by simp) : t.rd a = s.rd a :=
  (h.mono hl).rd fun i _ => by
    have hr : ¬ a % 0x1000 = HDR.EVT_RAW ∧ ¬ calAt a := by
      unfold counter at ha
      unfold calAt
      simp only [pLRX, pLTX, pHSL, pCLU, pCAL, LRX.FRAME_CNT, LTX.FRAME_CNT, LTX.CLIP_CNT, HSL.CP_CNT, HSL.RX_STAT, HSL.TX_STAT, HDR.EVT_RAW] at *
      omega
    simp [hr, free, ha]

theorem visits (h : Frame around s t) : Frame visiting s t := h.mono (by simp)

end Frame

/-- The lane a port's number is found for is one of the eight. -/
theorem portOfLine_lt {s : State} {n p : Nat} (h : s.portOfLine n = some p) : p < 8 := List.mem_range.1 (List.mem_of_find?_eq_some h)

theorem portOfHost_lt {s : State} {n p : Nat} (h : s.portOfHost n = some p) : p < 8 := List.mem_range.1 (List.mem_of_find?_eq_some h)

/-! ## Footprints of the shared operations of lanes -/

theorem tapEnd_touches (s : State) (c res : Nat) : Frame [] s (s.tapEnd c res) := by
  unfold State.tapEnd
  exact .modCore (.modClu (.refl _ s) _ _) _ _

theorem tapStop_touches (s : State) (page : Nat) : Frame [] s (s.tapStop page) := by
  refine .each (.refl _ s) _ fun u c _ => ?_
  split
  · exact tapEnd_touches ..
  · exact .refl _ u

theorem tapMark_touches (s : State) (page : Nat) (rep : Bool) (frame : Nat) : Frame [] s (s.tapMark page rep frame) :=
  .each (.refl _ s) _ fun u _ _ => .when (.refl _ u) _ fun _ => .modClu (.refl _ u) _ _

theorem tapFeed_touches (s : State) (page : Nat) (rep : Bool) (f : Nat → List (BitVec 32)) : Frame [] s (s.tapFeed page rep f) :=
  .each (.refl _ s) _ fun u _ _ => .when (.refl _ u) _ fun _ => .modClu (.refl _ u) _ _

theorem bump_touches (s : State) (a width n flags flag : Nat) : Frame [] s (s.bump a width n flags flag) := by
  unfold State.bump
  exact .when (.setLv (.refl _ s) _ _) _ fun _ => .setLv (.refl _ _) _ _

theorem bumpSat_touches (s : State) (a n : Nat) : Frame [] s (s.bumpSat a n) := .setLv (.refl _ s) _ _

theorem cwLock_touches (s : State) {p : Nat} (hp : p < 8) (f : Fld) (on : Bool) (hf : f.off < 0x1000 ∧ f.off ≠ 0x10 := by decide) :
    Frame [ofecs, events] s (s.cwLock p f on) := by
  unfold State.cwLock
  exact .when (.setOfec (.refl _ s) _ hp hf) _ fun _ => .raise (.refl _ _) _ _

theorem toHoldover_touches (s : State) : Frame [highs, events] s s.toHoldover := by
  have hb : pPERF 0 ≤ pTIME := by decide
  unfold State.toHoldover State.setQuality
  split
  · exact .raise (.setHigh (.setHigh (.refl _ s) _ hb) _ hb) _ _
  · exact .refl _ s

theorem sourceLost_touches (s : State) (source : Nat) : Frame [highs, events] s (s.sourceLost source) :=
  .when (.refl _ s) _ fun _ => toHoldover_touches s

/-- The end of frame lock touches the lane's IFEC page, its FRAME_LOCK and the page TIME (R162, R330). -/
theorem frameLoss_touches (s : State) {n : Nat} (hn : n < 8) (fs : Nat) :
    Frame [ifecs, fieldAt (pLRX n) LRX.LN_STAT.FRAME_LOCK, highs, events] s (s.frameLoss n fs) := by
  unfold State.frameLoss
  dsimp only
  split
  · refine .when (.raise (.next (.modPart (.modIfec (.setField (.setIfec (.setIfec (.refl _ s) _ hn) _ hn) _) _ _) _ _)
      (bumpSat_touches ..)) _ _) _ fun _ => ?_
    exact (sourceLost_touches ..).mono (by simp)
  · exact .modIfec (.setIfec (.refl _ s) _ hn) _ _

theorem undeskew_touches (s : State) (n : Nat) : Frame [pstats PORT.PSTAT.DESKEWED, ofecs, events] s (s.undeskew n) := by
  unfold State.undeskew
  split
  next p hp => exact .next (.setPstat (.refl _ s) 0 (portOfLine_lt hp)) (cwLock_touches _ (portOfLine_lt hp) _ _)
  next => exact .refl _ s

/-- What hangs on a receive lane's state, after it has changed (R64). -/
def lnLeft (s : State) (n st old : Nat) : State :=
  let s := s.when (decide (st < 5) && decide (5 ≤ old)) (fun s => s.frameLoss n 0)
  let s := s.when (st == 5 && decide (old < 5)) (fun s => s.frameLoss n 1)
  let s := s.when (old == 6 && st != 6) (fun s => s.undeskew n)
  s.when (st == 6 && old != 6) (fun s => s.raise LRX.evLOCKED n)

theorem setLn_eq (s : State) (n st : Nat) : s.setLn n st = lnLeft (s.setFld (pLRX n) LRX.LN_STAT.STATE st) n st (s.lnState n) := rfl

/-- It touches FRAME_LOCK, and what depends on frame lock and on LOCKED. -/
theorem lnLeft_touches (s : State) {n : Nat} (hn : n < 8) (st old : Nat) :
    Frame [fieldAt (pLRX n) LRX.LN_STAT.FRAME_LOCK, ifecs, highs, events, pstats PORT.PSTAT.DESKEWED, ofecs] s (lnLeft s n st old) := by
  unfold lnLeft
  refine .when (.when (.when (.when (.refl _ s) _ fun _ => ?_) _ fun _ => ?_) _ fun _ => ?_) _ fun _ => .raise (.refl _ _) _ _
  · exact (frameLoss_touches _ hn _).mono (by simp)
  · exact (frameLoss_touches _ hn _).mono (by simp)
  · exact (undeskew_touches _ n).mono (by simp)

theorem setLn_touches (s : State) {n : Nat} (hn : n < 8) (st : Nat) :
    Frame [fieldAt (pLRX n) LRX.LN_STAT.STATE, fieldAt (pLRX n) LRX.LN_STAT.FRAME_LOCK, ifecs, highs, events,
      pstats PORT.PSTAT.DESKEWED, ofecs] s (s.setLn n st) := by
  rw [setLn_eq]
  exact .next (.setField (.refl _ s) _) (lnLeft_touches _ hn ..)

/-- The last part of a latch touches its own page (R180). -/
theorem latchEnd_touches {p : Nat → Nat → Prop} {b snapFrame statFlags frame : Nat} {pend clr : Fld} {wrapped : Ev} {inst : Nat} {live : List Nat}
    (s : State) (h1 : ∀ i, p (b + snapFrame) i) (h2 : ∀ i, p (b + statFlags) i)
    (h3 : ∀ i, pend.lo ≤ i → i < pend.lo + pend.width → p (b + pend.off) i) (h4 : ∀ i, p (b + HDR.SNAP_PEND.off) i) :
    Frame [bitsAt p, events] s (s.latchEnd b snapFrame statFlags frame pend clr wrapped inst live) := by
  unfold State.latchEnd
  refine .when (.setFld (.setFld (.when (.wr (.refl _ s) _ (List.mem_cons_self ..) h1) _ fun _ => ?_) _ (List.mem_cons_self ..) h3) _
    (List.mem_cons_self ..) fun i _ _ => h4 i) _ fun _ => .foldl (.refl _ _) _ fun u _ _ => .setLv (.refl _ u) _ _
  exact .raise (.setLv (.wr (.refl _ _) _ (List.mem_cons_self ..) h2) _ _) _ _

theorem latchIfec_touches (s : State) {n : Nat} (hn : n < 8) : Frame [ifecs, events] s (s.latchIfec n) := by
  have hw : ∀ o ∈ ifecWide, (o < 0x1000 ∧ o ≠ 0x10) ∧ o + 4 < 0x1000 ∧ o + 4 ≠ 0x10 := by decide
  have hs : ∀ o ∈ ifecNarrow ++ ifecLvl, o < 0x1000 ∧ o ≠ 0x10 := by decide
  unfold State.latchIfec
  refine .next (.foldl (.foldl (.refl _ s) _ fun u o ho => ?_) _ fun u o ho => ?_)
    (latchEnd_touches (p := fun x _ => ifecAt x) _ (fun _ => ifecAt_page hn)
    (fun _ => ifecAt_page hn) (fun _ _ _ => ifecAt_page hn) fun _ => ifecAt_page hn)
  · exact .wrIn (.wrIn (.refl _ u) ifecAt _ (ifecAt_page hn (hw o ho).1)) ifecAt _ (Nat.add_assoc .. ▸ ifecAt_page hn (hw o ho).2)
  · exact .wrIn (.refl _ u) ifecAt _ (ifecAt_page hn (hs o ho))

/-- A latch of an outer code changes no bit of OF_STAT but SNAP_PEND. -/
theorem latchOfec_latches (s : State) {p : Nat} (hp : p < 8) : Frame [latches, events] s (s.latchOfec p) := by
  have hw : ∀ o ∈ ofecWide ++ ofecStamps, (o < 0x1000 ∧ o ≠ 0x10 ∧ o ≠ OFEC.OF_STAT) ∧ o + 4 < 0x1000 ∧ o + 4 ≠ 0x10 ∧ o + 4 ≠ OFEC.OF_STAT :=
    by decide
  have hat {off : Nat} (h : off < 0x1000 ∧ off ≠ 0x10 ∧ off ≠ OFEC.OF_STAT) (i : Nat) :
      latchAt (pOFEC p + off) i :=
    ⟨ofecAt_page hp ⟨h.1, h.2.1⟩, fun he => by simp only [pOFEC, OFEC.OF_STAT] at *; omega⟩
  unfold State.latchOfec
  refine .next (.wr (.foldl (.refl _ s) _ fun u o ho => ?_) _ (List.mem_cons_self ..) (hat (by decide)))
    (latchEnd_touches (p := latchAt) _ (hat (by decide))
    (hat (by decide)) (fun i hlo hhi => ⟨ofecAt_page hp, fun _ => by simp at *; omega⟩) (hat (by decide)))
  exact .wr (.wr (.refl _ u) _ (List.mem_cons_self ..) (hat (hw o ho).1)) _ (List.mem_cons_self ..) (Nat.add_assoc .. ▸ hat (hw o ho).2)

theorem latchOfec_touches (s : State) {p : Nat} (hp : p < 8) : Frame [ofecs, events] s (s.latchOfec p) :=
  (latchOfec_latches s hp).cover (by simp [latches_le])

/-! ### Transmit lanes -/

theorem dawnEnd_touches (s : State) (n result : Nat) : Frame [highs, events] s (s.dawnEnd n result) := by
  have hb : pPERF 0 ≤ pDAWN n := by simp only [pPERF, pDAWN]; omega
  unfold State.dawnEnd
  dsimp only
  have h : Frame [highs, events] s ((((((s.modDawn n fun x => { x with tx := none }).setFld (pDAWN n) DAWN.TX_STAT.RESULT result).setFld (pDAWN n)
      ⟨DAWN.TX_STAT, 30, 2⟩ 2).setFld (pDAWN n) DAWN.DW_STAT.TX_BUSY 0).setFld (pDAWN n) DAWN.DW_STAT.TX_BLOCKED 0)) :=
    .setHigh (.setHigh (.setHigh (.setHigh (.modDawn (.refl _ s) _ _) _ hb) _ hb) _ hb) _ hb
  split
  · exact .raise (.setHigh h _ hb) _ _
  · exact .raise h _ _

theorem dawnBegin_touches (s : State) (n : Nat) (p : DawnTx) : Frame [highs, events] s (s.dawnBegin n p) := by
  have hb : pPERF 0 ≤ pDAWN n := by simp only [pPERF, pDAWN]; omega
  exact .setHigh (.setHigh (.setHigh (.setHigh (.modDawn (.refl _ s) _ _) _ hb) _ hb) _ hb) _ hb

/-- The packet in hand, as the conditions of R301 now ask. -/
def dawnTurn (s : State) (n : Nat) : State :=
  match (s.dawnSt n).tx with
  | some p => if p.sending && !s.dawnMay n then s.dawnEnd n 1 else if !p.sending && s.dawnMay n then s.dawnBegin n p else s
  | none => s

/-- A HELLO that is due. -/
def dawnHello (s : State) (n : Nat) : State :=
  let s := s.modDawn n fun x => { x with hello := false }
  if s.dawnMay n && s.enabled (pDAWN n) && s.bit (pDAWN n) DAWN.DW_CTRL.AUTO_HELLO && s.fld (pDAWN n) DAWN.DW_CTRL.HELLO_RATE != 3 then
    s.dawnBegin n ⟨1, 20, s.fld (pDAWN n) DAWN.DW_CTRL.HELLO_RATE, s.helloPayload n, false, false⟩
  else s

theorem dawnSettle_eq (s : State) (n : Nat) : s.dawnSettle n =
    if ((dawnTurn s n).dawnSt n).hello && ((dawnTurn s n).dawnSt n).tx.isNone then dawnHello (dawnTurn s n) n else dawnTurn s n := rfl

theorem dawnTurn_touches (s : State) (n : Nat) : Frame [highs, events] s (dawnTurn s n) := by
  unfold dawnTurn
  split
  · split
    · exact dawnEnd_touches ..
    · split
      · exact dawnBegin_touches ..
      · exact .refl _ s
  · exact .refl _ s

theorem dawnHello_touches (s : State) (n : Nat) : Frame [highs, events] s (dawnHello s n) := by
  unfold dawnHello
  dsimp only
  split
  · exact .next (.modDawn (.refl _ s) _ _) (dawnBegin_touches ..)
  · exact .modDawn (.refl _ s) _ _

/-- The dawn transmitter touches its own page (R301, R313). -/
theorem dawnSettle_touches (s : State) (n : Nat) : Frame [highs, events] s (s.dawnSettle n) := by
  rw [dawnSettle_eq]
  split
  · exact (dawnTurn_touches s n).next (dawnHello_touches ..)
  · exact dawnTurn_touches s n

theorem partStart_touches (s : State) (n : Nat) : Frame [] s (s.partStart n) := .modPart (.refl _ s) _ _

theorem partStop_touches (s : State) {n : Nat} (hn : n < 8) : Frame [quiets] s (s.partStop n) :=
  .setFld (.modLtx (.modPart (.refl _ s) _ _) _ _) 0 (List.mem_singleton_self _) fun i hlo hhi => by
    simp only [uf, fldAt, pCAL, CAL.U_STAT] at *
    omega

/-- A change of a transmit lane's state touches its STATE, its PLL's lock bit and the stop that waits; a granted quiet window ends (R97, R99). -/
theorem setTx_touches (s : State) {n : Nat} (hn : n < 8) (st : Nat) :
    Frame [fieldAt (pLTX n) LTX.TX_STAT.STATE, locks, quiets, highs, events, just (.stop n)] s (s.setTx n st) := by
  unfold State.setTx
  refine .next (.when (.when (.when (.setLock (.setField (.refl _ s) _) _) _ fun _ => ?_) _ fun _ => ?_) _ fun _ => .modLtx (.refl _ _) _ _)
    (dawnSettle_touches ..)
  · exact .raise (.next (.modStop (.refl _ _) _ _) (partStop_touches _ hn)) _ _
  · exact .raise (.next (.refl _ _) (partStart_touches ..)) _ _

theorem settleTx_touches (s : State) {n : Nat} (hn : n < 8) :
    Frame [fieldAt (pLTX n) LTX.TX_STAT.STATE, locks, quiets, highs, events, just (.stop n)] s (s.settleTx n) := by
  unfold State.settleTx
  dsimp only
  split
  · exact setTx_touches _ hn _
  · split
    · exact setTx_touches _ hn _
    · split
      · exact setTx_touches _ hn _
      · exact .refl _ s

/-! ## Footprints around a commit point: received frames and capture -/

theorem laneField_le {n : Nat} (hn : n < 8) (f : Fld) (h : f.off < 0x1000 ∧ f.off ≠ 0x10 ∧ f.off ≠ 0xC0 := by decide) :
    fieldAt (pLRX n) f ≤ others := fieldAt_le (free_lrx hn h)

theorem setLn_around (s : State) {n : Nat} (hn : n < 8) (st : Nat) : Frame around s (s.setLn n st) :=
  (setLn_touches s hn st).toAround
    (by simp [ifecs_le, ofecs_le, highs_le, pstats_le, laneField_le hn LRX.LN_STAT.STATE, laneField_le hn LRX.LN_STAT.FRAME_LOCK])

theorem frameLoss_around (s : State) {n : Nat} (hn : n < 8) (fs : Nat) : Frame around s (s.frameLoss n fs) :=
  (frameLoss_touches s hn fs).toAround (by simp [ifecs_le, highs_le, laneField_le hn LRX.LN_STAT.FRAME_LOCK])

theorem dawnSettle_around (s : State) (n : Nat) : Frame around s (s.dawnSettle n) :=
  (dawnSettle_touches s n).toAround (by simp [highs_le])

theorem free_high {b off : Nat} (hb : pPERF 0 ≤ b) : free (b + off) := by
  rw [free_iff]
  simp only [pPERF] at hb
  omega

theorem capMissed_around (s : State) : Frame around s s.capMissed := .setFree (.refl _ s) _ (free_high (by decide))

theorem capForget_around (s : State) : Frame around s s.capForget := by
  unfold State.capForget
  split
  · exact .refl _ s
  · exact .next (.setCap (.refl _ s) _) (capMissed_around _)

theorem capTrig_around (s : State) (n c : Nat) : Frame around s (s.capTrig n c) := by
  unfold State.capTrig
  split
  · split
    · exact .setCap (.refl _ s) _
    · exact capMissed_around s
  · exact .refl _ s

theorem laneLoss_around (s : State) {n : Nat} (hn : n < 8) (cause st : Nat) : Frame around s (s.laneLoss n cause st) := by
  unfold State.laneLoss
  refine .when (.next (.when (.modLrx (.setFree (.refl _ s) _ (free_lrx hn)) _ _) _ fun _ => .setFree (.refl _ _) _ (free_lrx hn))
    (setLn_around _ hn st)) _ fun _ => .next (.raise (.refl _ _) _ _) (capTrig_around ..)

theorem free_ifec {n off : Nat} (hn : n < 8) (h : off < 0x1000 ∧ off ≠ 0x10 := by decide) : free (pIFEC n + off) := by
  rw [free_iff, pIFEC]
  omega

theorem alignment_around (s : State) {n : Nat} (hn : n < 8) (hit : Bool) : Frame around s (s.alignment n hit) := by
  unfold State.alignment
  split
  · split
    · exact .modIfec (.refl _ s) _ _
    · exact .modIfec (.setFree (.refl _ s) _ (free_ifec hn)) _ _
  · split
    · exact .modIfec (.refl _ s) _ _
    · split
      · exact .modIfec (.refl _ s) _ _
      · split
        · exact laneLoss_around s hn _ _
        · exact frameLoss_around s hn _
  · exact .refl _ s

theorem countFrame_around (s : State) (n : Nat) (x : FrameStats) : Frame around s (s.countFrame n x) := by
  have hb (u : State) (a w k f g : Nat) : Frame around u (u.bump a w k f g) := (bump_touches u a w k f g).mono (by simp)
  unfold State.countFrame
  refine .when (.when (.foldl (.next (.next (.next (.setLv (.refl _ s) _ _) (hb ..)) (hb ..)) (hb ..)) _ fun u i _ => hb ..) _ fun _ =>
    .foldl (.refl _ _) _ fun u i _ => hb ..) _ fun _ => .raise (.refl _ _) _ _

theorem showFreq_around (s : State) {n : Nat} (hn : n < 8) : Frame around s (s.showFreq n) :=
  .wrFree (.setFree (.refl _ s) _ (free_lrx hn)) _ (free_lrx hn)

theorem rxSamples_around (s : State) {n : Nat} (hn : n < 8) (raw : List (BitVec 8)) : Frame around s (s.rxSamples n raw).1 := by
  unfold State.rxSamples
  dsimp only
  refine .next (.wrFree (.next ?_ (showFreq_around _ hn)) _ (free_lrx hn)) (tapFeed_touches ..)
  split
  · exact .next (.modLrx (.refl _ s) _ _) (countFrame_around ..)
  · exact .modLrx (.refl _ s) _ _

/-! ### Capture -/

theorem putBytes_recording (s : State) (a : Nat) (l : List Byte) : Frame recording s (s.putBytes a l) := by
  induction l generalizing s a with
  | nil => exact .refl _ s
  | cons b l ih => exact .next (.setMem (.refl _ s) _) (ih _ _)

theorem writeWord_recording (s : State) (inst idx data : Nat) : Frame recording s (s.writeWord inst idx data) := by
  have hun (u : State) (p : Nat → Bool) : Frame recording u (u.unpoison p) := by
    unfold State.unpoison
    split
    · exact .setFree (.setMs (.refl _ u) _) _ (free_high (by decide))
    · exact .refl _ u
  have hbw (u : State) : Frame recording u (u.bwCount inst true) := by
    unfold State.bwCount
    split
    · exact .refl _ u
    · exact .setMs (.refl _ u) _
  unfold State.writeWord
  exact .next (.setMs (.next (.setMs (putBytes_recording ..) _) (hun ..)) _) (hbw _)

theorem ringPut_recording (s : State) (base len ofs : Nat) (l : List Byte) : Frame recording s (s.ringPut base len ofs l) := by
  unfold State.ringPut
  split
  · exact .refl _ s
  · exact .foldl (.refl _ s) _ fun u i _ => writeWord_recording ..

theorem free_cap (off : Nat) : free (pCAP + off) := free_high (by decide)

theorem capClose_recording (s : State) (r : CapRec) (f : RxFrame) : Frame recording s (s.capClose r f) := by
  unfold State.capClose
  exact .setFree (.wrFree (.wrFree (.setCap (.next (.next (.refl _ s) (ringPut_recording ..)) (ringPut_recording ..)) _) _ (free_cap _)) _
    (free_cap _))
    _ (free_cap _)

theorem capCkpt_recording (s : State) (slot frame : Nat) (cf : CapFrame) : Frame recording s (s.capCkpt slot frame cf) := by
  unfold State.capCkpt
  exact .setCap (.next (.refl _ s) (ringPut_recording ..)) _

theorem logGone_recording (s : State) : Frame recording s s.logGone := by
  unfold State.logGone
  split
  · exact .refl _ s
  · exact .raise (.setFree (.refl _ s) _ (free_cap _)) _ _

theorem capLog_recording (s : State) (frame kind ofs : Nat) (v : Word) : Frame recording s (s.capLog frame kind ofs v) := by
  unfold State.capLog
  dsimp only
  split
  · exact logGone_recording s
  · exact .setCap (.next (.when (.refl _ s) _ fun _ => logGone_recording _) (writeWord_recording ..)) _

theorem capFire_recording (s : State) (frame causes : Nat) : Frame recording s (s.capFire frame causes) := by
  unfold State.capFire
  exact .raise (.setCap (.wrFree (.wrFree (.wrFree (.wrFree (.setFree (.refl _ s) _ (free_cap _)) _ (free_cap _)) _ (free_cap _)) _ (free_cap _))
    _ (free_cap _)) _) _ _

/-- The recording begins, or the frame in progress ends. -/
def capOpened (s : State) (f : RxFrame) : State :=
  if s.cap.start then
    { s with cap := { s.cap with start := false, cur := none, frames := 0, dofs := 0, logs := 0, gap := false, gapAt := none, post := 0,
                                 uncorr := 0, ckpts := [] } }
  else match s.cap.cur with
    | some r => s.capClose r f
    | none => s

/-- The next frame begins: trigger, checkpoints, commit log and gap. -/
def capBegun (s s0 : State) (n : Nat) (cf : CapFrame) (fresh : Bool) : State :=
  let frame := (s.rd (pLRX n + LRX.FRAME_CNT)).toNat
  let causes := s.cap.trig - (s.cap.trig &&& cf.late.toNat)
  let fires := s.capState == 2 && causes != 0
  let s := s.when fires fun s => { s with cap := { s.cap with trig := s.cap.trig &&& cf.late.toNat } }.capFire frame causes
  let k := s.capCfg CAP.KCFG
  let kint := k / 2 ^ 16 % 16
  let due := fresh || frame % 2 ^ kint == 0
  let s := s.when due fun s => s.capCkpt (frame / 2 ^ kint % kslots k) frame cf
  let s := s.when fires fun s => s.capCkpt (kslots k) frame cf
  let ch := if fresh then [] else capChanges s0 s n
  let s := ch.foldl (fun s e => s.capLog frame e.1 e.2.1 e.2.2) s
  let gap := s.cap.gap
  let s := s.when gap fun s => (s.addSat pCAP CAP.CNT.GAPS 1).raise CAP.evCAP_GAP 0
  let b (c : Bool) (i : Nat) := if c then 2 ^ i else 0
  let w2 := stampWraps s.time.now + b gap 16 + b (!ch.isEmpty) 17 + b fires 18 + b (due || fires) 19
    + b (s.fld (pIFEC n) IFEC.IF_STAT.FSTATE == 3) 20
  { s with cap := { s.cap with cur := some ⟨frame, stampNs s.time.now, w2, s.cap.dofs⟩, gap := false,
                               gapAt := if gap then some s.cap.frames else s.cap.gapAt } }

theorem capPoint_eq (s s0 : State) (n : Nat) (cf : CapFrame) (f : RxFrame) : s.capPoint s0 n cf f =
    if !s.capRuns ∨ s.capLane ≠ n then s
    else if s.capPause ≠ 0 then
      { s.capForget with cap := { s.capForget.cap with cur := none, gap := s.capForget.cap.gap || !s.capForget.cap.start } }
    else if (capOpened s f).capState = 3 ∧ (capOpened s f).fld pCAP CAP.POST.FRAMES ≤ (capOpened s f).cap.post then capOpened s f
    else capBegun (capOpened s f) s0 n cf s.cap.start := rfl

theorem capOpened_recording (s : State) (f : RxFrame) : Frame recording s (capOpened s f) := by
  unfold capOpened
  split
  · exact .setCap (.refl _ s) _
  · split
    · exact capClose_recording ..
    · exact .refl _ s

theorem capBegun_recording (s s0 : State) (n : Nat) (cf : CapFrame) (fresh : Bool) : Frame recording s (capBegun s s0 n cf fresh) := by
  unfold capBegun
  refine .setCap (.when (.foldl (.when (.when (.when (.refl _ s) _ fun _ => ?_) _ fun _ => capCkpt_recording ..) _ fun _ => capCkpt_recording ..) _
    fun u e _ => capLog_recording ..) _ fun _ => .raise (.setFree (.refl _ _) _ (free_cap _)) _ _) _
  exact .next (.setCap (.refl _ s) _) (capFire_recording ..)

/-- Capture touches memory and its page (R391 to R396). -/
theorem capPoint_recording (s s0 : State) (n : Nat) (cf : CapFrame) (f : RxFrame) : Frame recording s (s.capPoint s0 n cf f) := by
  rw [capPoint_eq]
  split
  · exact .refl _ s
  · split
    · exact .setCap (((capForget_around s).mono (by simp))) _
    · split
      · exact capOpened_recording s f
      · exact .next (capOpened_recording s f) (capBegun_recording ..)

/-! ## Footprints around a commit point: slices, pauses and what a change sets off -/

section
variable {u : Nat} (hu : u < 16)
include hu

theorem calAt_unitReg (f : Fld) (h : f.off < 0xF00 ∧ 0x10 < f.off := by decide) : calAt (pCAL + (uf u f).off) :=
  calAt_page (by simp only [uf, fldAt]; omega)

/-- The slice map of a unit: SLICE_MAP and three POS_MAPs (R49, R77, R92). -/
theorem free_map {off : Nat} (h : off ≤ 12) : free (mapBase u + off) := by
  unfold mapBase unitPage
  split
  · rw [Nat.add_assoc]
    exact free_lrx (by assumption) (by unfold LRX.SLICE_MAP; omega)
  · rw [Nat.add_assoc]
    exact free_ltx (by omega) (by unfold LTX.SLICE_MAP; omega)

omit hu in
theorem posOf_lt (s : State) (sl : Nat) : (s.posOf u sl).getD 0 < 16 := by
  unfold State.posOf
  cases h : (List.range 16).find? fun p => s.posSlice u p == sl with
  | none => decide
  | some p => exact List.mem_range.1 (List.mem_of_find?_eq_some h)

theorem setPos_visiting (s : State) {p : Nat} (hp : p < 16) (sl : Nat) : Frame visiting s (s.setPos u p sl) :=
  .setFree (.refl _ s) _ (free_map hu (by simp only [smPos]; omega))

theorem setSpareSlice_visiting (s : State) (sl : Nat) : Frame visiting s (s.setSpareSlice u sl) := .setFree (.refl _ s) _ (free_map hu (by decide))

theorem setCalOut_visiting (s : State) (sl : Nat) : Frame visiting s (s.setCalOut u sl) := .setFree (.refl _ s) _ (free_map hu (by decide))

theorem setMarks_visiting (s : State) (a b : Nat) : Frame visiting s (s.setMarks u a b) := by
  unfold State.setMarks
  exact .setCal (.modCal (.refl _ s) _ _) _ (calAt_unitReg hu _)

theorem toRevisit_visiting (s : State) (sl : Nat) : Frame visiting s (s.toRevisit u sl) := setMarks_visiting hu ..

theorem unmark_visiting (s : State) (sl : Nat) : Frame visiting s (s.unmark u sl) := setMarks_visiting hu ..

theorem exhaustCheck_visiting (s : State) : Frame visiting s (s.exhaustCheck u) := by
  unfold State.exhaustCheck
  split
  · refine .when (.raise (.setCal (.refl _ s) _ (calAt_unitReg hu _)) _ _) _ fun _ => ?_
    unfold State.degrade
    exact .raise (.setCal (.refl _ _) _ (calAt_unitReg hu _)) _ _
  · exact .refl _ s

theorem retireSlice_visiting (s : State) (sl cause : Nat) : Frame visiting s (s.retireSlice u sl cause) := by
  unfold State.retireSlice
  split
  · exact .refl _ s
  · exact .next (.raiseAct (.when (.when (.next (.setFree (.refl _ s) _ (free_map hu (by simp [smRet]))) (unmark_visiting hu ..)) _
      fun _ => setSpareSlice_visiting hu ..) _ fun _ => setCalOut_visiting hu ..) _ _ _) (exhaustCheck_visiting hu _)

theorem retireNamed_visiting (s : State) (sl : Nat) : Frame visiting s (s.retireNamed u sl) := by
  unfold State.retireNamed
  exact .when (.refl _ s) _ fun _ => .next (.modCal (.refl _ s) _ _) (retireSlice_visiting hu ..)

theorem endStep_visiting (s : State) : Frame visiting s (s.endStep u) := by
  unfold State.endStep
  exact .next (.setCal (.setCal (.setCal (.setCal (.modCal (.refl _ s) _ _) _ (calAt_unitReg hu _)) _ (calAt_unitReg hu _)) _
    (calAt_unitReg hu _)) _ (calAt_unitReg hu _)) (exhaustCheck_visiting hu _)

/-- A unit's lane direction. -/
theorem unitPage_cases : (u < 8 ∧ unitPage u = pLRX u) ∨ (u - 8 < 8 ∧ unitPage u = pLTX (u - 8) ∧ ¬ u < 8) := by
  unfold unitPage
  split
  · exact .inl ⟨by assumption, rfl⟩
  · exact .inr ⟨by omega, rfl, by assumption⟩

theorem showPending_visiting (s : State) : Frame visiting s (s.showPending (unitPage u)) := by
  refine ((showPending_touches s (unitPage u)).toAround ?_).visits
  have h : free (unitPage u + commitStatOff (unitPage u)) := by
    rcases unitPage_cases hu with ⟨hu, hp⟩ | ⟨hu, hp, -⟩ <;> rw [hp]
    · rw [(laneDir_lrx ⟨u, hu⟩).stat_eq]
      exact free_lrx hu
    · rw [(laneDir_ltx ⟨u - 8, hu⟩).stat_eq]
      exact free_ltx hu
  simp only [List.mem_singleton, forall_eq]
  exact .inl (bitsAt_le fun x _ hx => hx ▸ h)

theorem dropReturn_visiting (s : State) : Frame visiting s (s.dropReturn u) := by
  have hc : s.visited u < 32 := getBits_lt ..
  unfold State.dropReturn
  refine .next (.wrFree (.wrFree (.dropCommits (.refl _ s) (List.filter_subset_self _)) _ ?_) _ ?_) (showPending_visiting hu _)
  all_goals
    rcases unitPage_cases hu with ⟨hu, hp⟩ | ⟨hu, hp, hn⟩ <;> rw [hp]
  · rw [if_pos hu, Nat.add_assoc]
    exact free_lrx hu (by unfold LRX.MC_A; omega)
  · rw [if_neg hn, Nat.add_assoc]
    exact free_ltx hu (by unfold LTX.MC_A; omega)
  · rw [if_pos hu, Nat.add_assoc, Nat.add_assoc]
    exact free_lrx hu (by unfold LRX.MC_A; omega)
  · rw [if_neg hn, Nat.add_assoc, Nat.add_assoc]
    exact free_ltx hu (by unfold LTX.MC_A; omega)

theorem abandon_visiting (s : State) : Frame visiting s (s.abandon u) := by
  unfold State.abandon
  dsimp only
  split
  · exact endStep_visiting hu s
  · split
    · exact .refl _ s
    · have h : Frame visiting s ((s.when (s.phase u == 5) (fun s => s.dropReturn u)).toRevisit u (s.visited u)) :=
        .next (.when (.refl _ s) _ fun _ => dropReturn_visiting hu s) (toRevisit_visiting hu ..)
      split
      · split
        · exact h.next (endStep_visiting hu _)
        · exact (h.next (endStep_visiting hu _)).next (retireNamed_visiting hu ..)
      · exact .modCal (h.next (endStep_visiting hu _)) _ _

theorem emergency_visiting (s : State) : Frame visiting s (s.emergency u) := by
  unfold State.emergency
  split
  · exact .refl _ s
  next c _ =>
    have h (s : State) : Frame visiting s (((s.setPos u ((s.posOf u c).getD 0) (s.spare u)).setSpareSlice u c).addSat pCAL
        (uf u CAL.U_STAT.EMERG) 1) :=
      .setCal (.next (setPos_visiting hu s (posOf_lt s c) _) (setSpareSlice_visiting hu ..)) _ (calAt_unitReg hu _)
    dsimp only
    split
    · exact .next (.raiseAct (.next (.when (.refl _ s) _ fun _ => endStep_visiting hu s) (h _)) _ _ _) (retireNamed_visiting hu ..)
    · exact .next (.raiseAct (.next (.when (.refl _ s) _ fun _ => endStep_visiting hu s) (h _)) _ _ _) (toRevisit_visiting hu ..)

theorem retireSpare_visiting (s : State) : Frame visiting s (s.retireSpare u) := by
  unfold State.retireSpare
  exact .when (.when (.refl _ s) _ fun _ => .next (.when (.refl _ s) _ fun _ => endStep_visiting hu s) (retireNamed_visiting hu ..)) _ fun _ =>
    .modCal (.refl _ _) _ _

theorem handOver_visiting (s : State) : Frame visiting s (s.handOver u) := by
  unfold State.handOver State.measure State.setPhase
  exact .setCal (.modCal (.modCal (.next (.next (setPos_visiting hu s (posOf_lt s _) _) (setSpareSlice_visiting hu ..)) (setCalOut_visiting hu ..))
    _ _) _ _) _ (calAt_unitReg hu _)

theorem giveBack_visiting (s : State) : Frame visiting s (s.giveBack u) := by
  unfold State.giveBack
  exact .next (.next (.next (.next (setCalOut_visiting hu s _) (setSpareSlice_visiting hu ..)) (toRevisit_visiting hu ..)) (endStep_visiting hu _))
    (retireNamed_visiting hu ..)

/-- The visit's corrections are in force: its slice becomes the spare, and its results are kept (R124, R134). -/
def visitKept (s : State) (u : Nat) : State :=
  let x := s.calSt u
  let c := s.visited u
  let s := s.when (!x.spareVisit) (fun s => (s.setCalOut u 31).setSpareSlice u c)
  let s := s.addWrap pCAL (uf u CAL.U_CNT.STEPS) 1
  let s := s.modCal u fun x => if x.acc = [] then x else { x with order := x.order + 1, last := Tbl.insert x.last c (x.order + 1) }
  let n := Tbl.get 0 x.dis c + 1
  let s := if x.bad ≠ 0 then (s.toRevisit u c).modCal u fun x => { x with dis := Tbl.put (some 0) x.dis c n }
    else (s.unmark u c).modCal u fun x => { x with dis := Tbl.erase x.dis c }
  (s.rotated u c).endStep u

omit hu in
theorem endVisit_eq (s : State) : s.endVisit u =
    if (s.calSt u).dead then
      ((visitKept s u).modCal u fun x => { x with retireCmd := x.retireCmd.filter (· != s.visited u) }).retireSlice u (s.visited u) 1
    else if (s.calSt u).bad ≠ 0 ∧ max 1 ((visitKept s u).fld pCAL CAL.RETRY_CFG.DIS_LIM) ≤ Tbl.get 0 (s.calSt u).dis (s.visited u) + 1 then
      ((visitKept s u).modCal u fun x => { x with retireCmd := x.retireCmd.filter (· != s.visited u) }).retireSlice u (s.visited u) 2
    else (visitKept s u).retireNamed u (s.visited u) := rfl

theorem visitKept_visiting (s : State) : Frame visiting s (visitKept s u) := by
  unfold visitKept State.rotated
  refine .next (.modCal ?_ _ _) (endStep_visiting hu _)
  have h : Frame visiting s (((s.when (!(s.calSt u).spareVisit) (fun t => (t.setCalOut u 31).setSpareSlice u (s.visited u))).addWrap pCAL
      (uf u CAL.U_CNT.STEPS) 1).modCal u fun x => if x.acc = [] then x else
        { x with order := x.order + 1, last := Tbl.insert x.last (s.visited u) (x.order + 1) }) :=
    .modCal (.setCal (.when (.refl _ s) _ fun _ => .next (setCalOut_visiting hu ..) (setSpareSlice_visiting hu ..)) _ (calAt_unitReg hu _)) _ _
  split
  · exact .modCal (h.next (toRevisit_visiting hu ..)) _ _
  · exact .modCal (h.next (unmark_visiting hu ..)) _ _

theorem endVisit_visiting (s : State) : Frame visiting s (s.endVisit u) := by
  rw [endVisit_eq]
  split
  · exact .next (.modCal (visitKept_visiting hu s) _ _) (retireSlice_visiting hu ..)
  · split
    · exact .next (.modCal (visitKept_visiting hu s) _ _) (retireSlice_visiting hu ..)
    · exact .next (visitKept_visiting hu s) (retireNamed_visiting hu ..)

/-- What the slices of a lane do at a commit point touches no count, no request and no value in force. -/
theorem calPoint_visiting (s : State) : Frame visiting s (s.calPoint u) := by
  have h : Frame visiting s ((s.emergency u).retireSpare u) := .next (emergency_visiting hu s) (retireSpare_visiting hu _)
  unfold State.calPoint
  dsimp only
  split
  · split
    · exact h
    · exact h.next (handOver_visiting hu _)
  · exact h.next (giveBack_visiting hu _)
  · exact h.next (endVisit_visiting hu _)
  · exact h

end

/-- A self-test ends: the page BIST, and no self-test runs (R577). -/
theorem bistEnd_visiting (s : State) (res : Nat) : Frame visiting s (s.bistEnd res) := by
  have h0 : Frame visiting s { s with boot := { s.boot with bist := none } } :=
    .step (.refl _ s) (fixed := ⟨rfl, rfl, rfl, rfl, fun _ => rfl, fun _ => rfl⟩)
  have h : Frame visiting s ({ s with boot := { s.boot with bist := none } }.wr (pBIST + BIST.BT_STAT) (BitVec.ofNat 32 (2 ^ 31 + res * 2 ^ 24))) :=
    h0.wrFree _ (free_high (b := pBIST) (by decide))
  unfold State.bistEnd
  dsimp only
  split
  · exact .raise h _ _
  · exact .raise h _ _

/-- The port events of a change (R198). -/
def portEvents (s0 s : State) (p : Nat) : State :=
  let u0 := s0.portState p == 2
  let u1 := s.portState p == 2
  let s := s.when (u1 && !u0) (fun s => s.raise (evAt PORT.evPORT_UP p) 0)
  let s := s.when (u0 && !u1) (fun s => s.raise (evAt PORT.evPORT_DOWN p) 0)
  s.when (s0.frozen p != s.frozen p) (fun s => s.raise (evAt PORT.evFROZEN_CHANGE p) 0)

/-- The pauses of a change (R142). -/
def pauses (s : State) : State :=
  s.each (List.range 16) fun s u => s.when (s.phase u != 0 && s.calStops u) (fun s => s.abandon u)

theorem watch_eq (s0 s : State) : watch s0 s = pauses ((s.when s.loopStarted fun s => s.bistEnd 3).each (List.range 8) (portEvents s0)) := rfl

theorem portEvents_touches (s0 s : State) (p : Nat) : Frame [events] s (portEvents s0 s p) := by
  unfold portEvents
  exact .when (.when (.when (.refl _ s) _ fun _ => .raise (.refl _ _) _ _) _ fun _ => .raise (.refl _ _) _ _) _ fun _ => .raise (.refl _ _) _ _

theorem pauses_visiting (s : State) : Frame visiting s (pauses s) :=
  .each (.refl _ s) _ fun u _ hk => .when (.refl _ u) _ fun _ => abandon_visiting (List.mem_range.1 hk) u

/-- What a change sets off touches no count and no value in force, and no request joins (R142, R198, R578). -/
theorem watch_visiting (s0 s : State) : Frame visiting s (watch s0 s) := by
  rw [watch_eq]
  exact .next (.each (.when (.refl _ s) _ fun _ => bistEnd_visiting ..) _ fun u p _ => (portEvents_touches s0 u p).mono (by simp))
    (pauses_visiting _)

/-- With no visit under way nothing pauses. -/
theorem pauses_settled {s : State} (h : ∀ u < 16, s.phase u = 0) : pauses s = s :=
  each_eq_self _ _ _ fun u hu => by rw [h u (List.mem_range.1 hu)]; rfl

/-! ## The commit points of line lanes (R61, R101) -/

/-- A register set whole. -/
theorem putBits_whole (w : Word) (v : Nat) : putBits w 0 32 v = BitVec.ofNat 32 v :=
  BitVec.eq_of_getLsbD_eq fun i hi => by
    rw [getLsbD_putBits, if_pos ⟨Nat.zero_le i, by omega, hi⟩, BitVec.getLsbD_ofNat]
    simp [hi]

theorem rd_setWhole (s : State) (b off v : Nat) : (s.setFld b (whole off) v).rd (b + off) = BitVec.ofNat 32 v := by
  exact (rd_setFld ..).trans ((if_pos rfl).trans (putBits_whole _ v))

/-- A count goes one on. -/
theorem rd_countOn (s : State) (b off : Nat) : (s.addWrap b (whole off) 1).rd (b + off) = s.rd (b + off) + 1 := by
  have h : s.fld b (whole off) = (s.rd (b + off)).toNat := getBits_whole _
  rw [State.addWrap, rd_setWhole, h]
  exact BitVec.eq_of_toNat_eq (by simp)

/-- A count that saturates. -/
theorem rd_countSat (s : State) (b off n : Nat) :
    (s.addSat b (whole off) n).rd (b + off) = BitVec.ofNat 32 (min ((s.rd (b + off)).toNat + n) (2 ^ 32 - 1)) := by
  have h : s.fld b (whole off) = (s.rd (b + off)).toNat := getBits_whole _
  rw [State.addSat, rd_setWhole, h]
  rfl

/-- An event below PERF stays raised around a commit point. -/
theorem Frame.raisedLow {l : List Zone} {s t : State} (h : Frame l s t) {e : Ev} {i : Nat} (he : Safety.raised s e i)
    (hp : pageAt e.fam i < pPERF 0) (hl : l ⊆ just .mem :: visiting := by simp) : Safety.raised t e i :=
  (h.mono hl).raised he (by
    have hm := pageAt_mod e.fam i
    have hr : lowRaw (pageAt e.fam i + HDR.EVT_RAW) ∧ ¬ calAt (pageAt e.fam i + HDR.EVT_RAW) := by
      unfold lowRaw calAt
      simp only [pPERF, HDR.EVT_RAW] at *
      omega
    simp [hr, free])

section
variable {page : Nat} (hp : page % 0x1000 = 0)
include hp

/-- COMMIT_STAT is neither a count nor EVT_RAW. -/
theorem commitStat_apart : ¬ counter (page + commitStatOff page) ∧ (page + commitStatOff page) % 0x1000 ≠ HDR.EVT_RAW := by
  have h : commitStatOff page = 0xA4 ∨ commitStatOff page = 0x70 ∨ commitStatOff page = 0x84 := by
    unfold commitStatOff
    split <;> simp
  unfold counter
  simp only [pLRX, pLTX, pHSL, pCLU, pCAL, LRX.FRAME_CNT, LTX.FRAME_CNT, LTX.CLIP_CNT, HSL.CP_CNT, HSL.RX_STAT, HSL.TX_STAT, HDR.EVT_RAW]
  omega

/-- A commit point keeps the counts. -/
theorem applyCommits_count (s : State) (dir late frame : Nat) {a : Nat} (ha : counter a) : (s.applyCommits page dir late frame).rd a = s.rd a :=
  (applyCommits_touches s page dir late frame).rd fun i _ => by
    have hs : a ≠ page + commitStatOff page := fun h => (commitStat_apart hp).1 (h ▸ ha)
    have hperf : ∀ c, ¬ inPage (pPERF c) a := fun c h => by
      unfold counter at ha
      unfold inPage at h
      simp only [pLRX, pLTX, pHSL, pCLU, pCAL, pPERF] at *
      omega
    simp [hs, hperf]

/-- It clears no event below PERF. -/
theorem applyCommits_raised (s : State) (dir late frame : Nat) {e : Ev} {i : Nat} (he : raised s e i) (hlow : pageAt e.fam i < pPERF 0) :
    raised (s.applyCommits page dir late frame) e i :=
  (applyCommits_touches s page dir late frame).raised he (by
    have hm := pageAt_mod e.fam i
    have hs : pageAt e.fam i + HDR.EVT_RAW ≠ page + commitStatOff page := fun h => (commitStat_apart hp).2 (by
      rw [← h, Nat.add_mod, hm]
      rfl)
    have hperf : ∀ c, ¬ inPage (pPERF c) (pageAt e.fam i + HDR.EVT_RAW) := fun c h => by
      unfold inPage at h
      simp only [pPERF, HDR.EVT_RAW] at *
      omega
    simp [hs, hperf])

end

/-! ### Receive lanes -/

section
variable {n : Nat} (hn : n < 8)
include hn

theorem counter_lrx : counter (pLRX n + LRX.FRAME_CNT) := by
  unfold counter
  simp only [pLRX, pLTX, LRX.FRAME_CNT]
  omega

omit hn in
/-- A commit point once the slices have changed: the sampled conditions, a tap's reference, a latch (R51, R180, R256). -/
def rxSampled (s : State) (n : Nat) : State :=
  let s := s.setFld (pLRX n) LRX.LN_STAT.DCB_FROZEN (if s.dcFrozen n then 1 else 0)
  let s := s.tapMark (pLRX n) false (s.rd (pLRX n + LRX.FRAME_CNT)).toNat
  s.when (s.bit (pIFEC n) IFEC.IF_STAT.SNAP_PEND) (fun s => s.latchIfec n)

omit hn in
/-- The count goes one on, and the requests apply. -/
def rxApplied (s : State) (n late : Nat) : State :=
  let s := s.addWrap (pLRX n) (whole LRX.FRAME_CNT) 1
  s.applyCommits (pLRX n) 0x7F late ((s.rd (pLRX n + LRX.FRAME_CNT)).toNat % 2 ^ 16)

omit hn in
theorem rxPoint_eq (s : State) (late : Nat) : s.rxPoint n late = rxSampled ((rxApplied s n late).calPoint n) n := rfl

theorem rxSampled_around (s : State) : Frame around s (rxSampled s n) := by
  unfold rxSampled
  refine .when (.next (.setFree (.refl _ s) _ (free_lrx hn)) (tapMark_touches ..)) _ fun _ => ?_
  exact (latchIfec_touches _ hn).toAround (by simp [ifecs_le])

/-- The frame that ends, before the commit point itself: its samples and, in M200, the alignment indication. -/
def rxEnded (s : State) (n : Nat) (raw : List (BitVec 8)) : State :=
  ((s.rxSamples n raw).1.when (!(s.rxSamples n raw).1.m400) fun t =>
    t.alignment n (Config.ieeeAligned ((s.rxSamples n raw).2.syms.map fun e => e.1.d)))

theorem rxEnded_around (s : State) (raw : List (BitVec 8)) : Frame around s (rxEnded s n raw) :=
  .when (rxSamples_around s hn raw) _ fun _ => alignment_around _ hn _

omit hn in
theorem exec_lineRxCommitPoint (s : State) (n : Fin 8) (late : Nat) (raw : List (BitVec 8)) (cf : CapFrame) (h : s.lnState n ≠ 0) :
    exec (.lineRxCommitPoint n late raw cf) s =
      .next (watch s (((rxEnded s n raw).rxPoint n late).capPoint (rxEnded s n raw) n cf (s.rxSamples n raw).2)) := by
  show execLineRxCommitPoint n late raw cf s = _
  unfold execLineRxCommitPoint rxEnded
  rw [if_pos h]

end

/-- A boundary of a running receive lane: the requests apply, its frame count goes one on (R61). -/
theorem lineRx_applies (s : State) (n : Fin 8) (raw : List (BitVec 8)) (cf : CapFrame) (h : s.lnState n ≠ 0) :
    completes (.lineRxCommitPoint n 0 raw cf) s (fun t => tookEffect s t (pLRX n) 0x7F
      ∧ t.rd (pLRX n + LRX.FRAME_CNT) = s.rd (pLRX n + LRX.FRAME_CNT) + 1 ∧ t.pending = s.pending) := by
  have hn := n.isLt
  refine ⟨_, exec_lineRxCommitPoint s n 0 raw cf h, ?_⟩
  have hcount := counter_lrx hn
  let u := rxEnded s n raw
  let v := u.addWrap (pLRX n) (whole LRX.FRAME_CNT) 1
  have hu : Frame around s u := rxEnded_around hn s raw
  have hv : Frame [others, events, beside, regAt (pLRX n + LRX.FRAME_CNT)] s v := (hu.mono (by simp)).setIn (· = pLRX n + LRX.FRAME_CNT) _ rfl
  have hpoint : Frame visiting (rxApplied u n 0) (u.rxPoint n 0) := .next (calPoint_visiting (by omega) _) (rxSampled_around hn _)
  have hafter := ((hpoint.mono (by simp)).next (m := recording) (capPoint_recording _ u n cf (s.rxSamples n raw).2)
    (l := just .mem :: visiting)).next (watch_visiting s _)
  refine ⟨tookEffect_of_frames hv hafter, ?_, ?_⟩
  · have happ := applyCommits_count (page := pLRX n) (by simp only [pLRX]; omega) v 0x7F 0 ((v.rd (pLRX n + LRX.FRAME_CNT)).toNat % 2 ^ 16) hcount
    exact (hafter.count hcount).trans (happ.trans ((rd_countOn u _ _).trans (by rw [hu.visits.count hcount])))
  · exact ((hafter.fixed (by simp)).pending.trans ((applyCommits_touches ..).fixed (by simp)).pending).trans (hv.fixed (by simp)).pending

/-- With nothing flagged, waiting or to be retired, a commit point changes no slice (R138, R142). -/
theorem calPoint_settled {s : State} {u : Nat} (hw : (s.calSt u).wait = 0) (hs : (s.calSt u).suspect = 0) (hr : (s.calSt u).retireCmd = []) :
    Frame [just .cal] s (s.calPoint u) := by
  have he : s.emergency u = s := by
    have hnone : s.emergencySlice u = none := by
      unfold State.emergencySlice State.suspectSlice
      simp [hr, hs]
    unfold State.emergency
    rw [hnone]
  have hret : ∃ b, s.retireSpare u = s.when b fun s => s.modCal u fun x => { x with retireCmd := [] } := by
    unfold State.retireSpare
    rw [hr]
    exact ⟨_, rfl⟩
  obtain ⟨b, hret⟩ := hret
  have hwait : ((s.retireSpare u).calSt u).wait = 0 := by
    rw [hret]
    cases b
    · exact hw
    · rw [when_true, calSt_modCal, if_pos rfl]
      exact hw
  unfold State.calPoint
  rw [he]
  dsimp only
  rw [hwait, hret]
  exact .when (.refl _ s) _ fun _ => .modCal (.refl _ _) _ _

theorem raw_not_cal {x : Nat} (h : x % 0x1000 = HDR.EVT_RAW) : ¬ calAt x := fun hx => hx.2.2 h

theorem counter_not_cal {x : Nat} (h : counter x) : ¬ calAt x := by
  unfold counter at h
  unfold calAt
  simp only [pLRX, pLTX, pHSL, pCLU, pCAL] at *
  omega

/-- The phase of a unit is on the page CAL. -/
theorem Frame.phase {l : List Zone} {s t : State} (h : Frame l s t) {u : Nat} (hu : u < 16)
    (hl : ∀ z ∈ l, ∀ x i, z (.bit x i) → ¬ calAt x := by simp +contextual [free, raw_not_cal]) : t.phase u = s.phase u :=
  h.fld fun i _ _ z hz hi => hl z hz _ i hi (calAt_page (by simp [uf, fldAt]; omega))

/-- With no self-test and no visit under way a change sets off events alone (R198). -/
theorem watch_settled (s0 : State) {s : State} (hb : s.boot.bist = none) (hp : ∀ u < 16, s.phase u = 0) : Frame [events] s (watch s0 s) := by
  have hloop : s.loopStarted = false := by
    unfold State.loopStarted
    rw [hb]
  have h := Frame.each (.refl [events] s) (List.range 8) fun u p _ => portEvents_touches s0 u p
  rw [watch_eq, hloop, when_false, pauses_settled fun u hu => (h.phase hu).trans (hp u hu)]
  exact h

/-- The single request that came too late for a boundary waits on, and nothing comes into force (R32). -/
theorem lineRx_late (s : State) (n : Fin 8) (raw : List (BitVec 8)) (cf : CapFrame) (h : s.lnState n ≠ 0) {q : CommitReq} (k : Nat)
    (hq : settled s) (hc : s.commits = [q]) :
    completes (.lineRxCommitPoint n (k + 1) raw cf) s (fun t => t.commits = [q] ∧ ∀ a, t.inf a = s.inf a) := by
  have hn := n.isLt
  have hcount := counter_lrx hn
  obtain ⟨hbist, hunits⟩ := hq
  refine ⟨_, exec_lineRxCommitPoint s n (k + 1) raw cf h, ?_⟩
  let u := rxEnded s n raw
  let v := u.addWrap (pLRX n) (whole LRX.FRAME_CNT) 1
  have hu : Frame around s u := rxEnded_around hn s raw
  have hv : Frame [others, events, beside, regAt (pLRX n + LRX.FRAME_CNT)] s v :=
    (hu.mono (by simp)).setIn (· = pLRX n + LRX.FRAME_CNT) _ rfl
  have hcal : v.calSt n = s.calSt n := congrArg (fun c => Tbl.get CalSt.init c n.val) (hv.same .cal (by simp))
  obtain ⟨-, hwait, hsus, hret⟩ := hunits n (by omega)
  have happ : rxApplied u n (k + 1) = v := applyCommits_late v _ _ _ _ ((hv.same .commits (by simp)).trans hc) (by omega)
  have hpoint : Frame [just .cal, others, events, beside] v (u.rxPoint n (k + 1)) := by
    rw [rxPoint_eq, happ]
    refine .next (.next (.refl _ v) (calPoint_settled ?_ ?_ ?_)) (rxSampled_around hn _) <;> rw [hcal] <;> assumption
  have hall : Frame [just .mem, just .cal, others, events, beside, regAt (pLRX n + LRX.FRAME_CNT)] s
      ((u.rxPoint n (k + 1)).capPoint u n cf (s.rxSamples n raw).2) :=
    ((hv.mono (by simp)).next hpoint).next (capPoint_recording ..)
  have hphase (w : Nat) (hw : w < 16) := (hall.phase hw (by simp +contextual [free, raw_not_cal, counter_not_cal hcount])).trans (hunits w hw).1
  have hfinal := hall.next (watch_settled s ((hall.fixed (by simp)).bist hbist) hphase)
  exact ⟨(hfinal.same .commits (by simp)).trans hc, hfinal.inf (by simp)⟩

/-! ### Transmit lanes (R89, R101, R103) -/

theorem just_le_beside {x : Part} (h : beside x) : just x ≤ beside := fun _ hy => hy ▸ h

section
variable {n : Nat} (hn : n < 8)
include hn

theorem setTx_visiting (s : State) (st : Nat) : Frame visiting s (s.setTx n st) :=
  (setTx_touches s hn st).cover (by
    have hs : fieldAt (pLTX n) LTX.TX_STAT.STATE ≤ others := fieldAt_le (free_ltx hn)
    have hstop : just (.stop n) ≤ beside := just_le_beside trivial
    simp [visiting, locks_le, highs_le, quiets_le, hs, hstop])

theorem settleTx_visiting (s : State) : Frame visiting s (s.settleTx n) :=
  (settleTx_touches s hn).cover (by
    have hs : fieldAt (pLTX n) LTX.TX_STAT.STATE ≤ others := fieldAt_le (free_ltx hn)
    have hstop : just (.stop n) ≤ beside := just_le_beside trivial
    simp [visiting, locks_le, highs_le, quiets_le, hs, hstop])

theorem counter_ltx : counter (pLTX n + LTX.FRAME_CNT) ∧ counter (pLTX n + LTX.CLIP_CNT) := by
  unfold counter
  simp only [pLRX, pLTX, pCAL, LTX.FRAME_CNT, LTX.CLIP_CNT]
  omega

omit hn in
/-- The frame that ends has been sent, and the lane's count goes one on. -/
def txCounted (s : State) (n : Nat) : State := (s.txSend n).addWrap (pLTX n) (whole LTX.FRAME_CNT) 1

omit hn in
/-- The requests apply at the boundary. -/
def txApplied (s : State) (n late : Nat) : State :=
  (txCounted s n).applyCommits (pLTX n) 0x1F late (((txCounted s n).rd (pLTX n + LTX.FRAME_CNT)).toNat % 2 ^ 16)

omit hn in
/-- What a boundary does once the requests have been applied: a broken quiet window, the slices, the dawn transmitter (R145). -/
def txSettled (s t : State) (n : Nat) : State :=
  let others (s : State) := s.commits.filter fun r => r.page == pLTX n && r.src == 0
  let t := t.when (s.quietOpen (8 + n) && decide (others t ≠ others s)) (fun t => t.setFld pCAL (uf (8 + n) CAL.U_STAT.QUIET_BROKEN) 1)
  (t.calPoint (8 + n)).dawnSettle n

omit hn in
/-- A quiet window that opens, and a stop that takes effect. -/
def txEnded (s t : State) (n : Nat) (opens : Bool) : State :=
  let t := t.when opens fun s => s.setFld pCAL (uf (8 + n) CAL.U_STAT.QUIET_OPEN) 1
  watch s (t.when (t.ltxSt n).stop fun s => (s.setTx n 1).settleTx n)

omit hn in
theorem exec_lineTxFrameBoundary (s : State) (n : Fin 8) (late : Nat) (h : s.txState n = 3) :
    ∃ opens, exec (.lineTxFrameBoundary n late) s = .next (txEnded s (txSettled (txCounted s n) (txApplied s n late) n) n opens) := by
  have he : exec (.lineTxFrameBoundary n late) s = execLineTxFrameBoundary n late s := rfl
  unfold execLineTxFrameBoundary at he
  rw [if_pos h] at he
  exact ⟨_, he⟩

theorem txSettled_visiting (s t : State) : Frame visiting t (txSettled s t n) := by
  have hu : 8 + n < 16 := by omega
  unfold txSettled
  exact .next (.next (.when (.refl _ t) _ fun _ => .setCal (.refl _ t) _ (calAt_unitReg hu _)) (calPoint_visiting hu _))
    ((dawnSettle_around _ n).visits)

theorem txEnded_visiting (s t : State) (opens : Bool) : Frame visiting t (txEnded s t n opens) := by
  have hu : 8 + n < 16 := by omega
  unfold txEnded
  dsimp only
  exact .next (.when (.when (.refl _ t) _ fun _ => .setCal (.refl _ t) _ (calAt_unitReg hu _)) _ fun _ =>
    .next (setTx_visiting hn _ 1) (settleTx_visiting hn _)) (watch_visiting ..)

omit hn in
/-- The saturated symbols of the frame are counted (R89). -/
theorem txSend_eq (s : State) (n : Nat) : ∃ f : LtxSt → LtxSt, (∀ x, (f x).stop = x.stop) ∧
    s.txSend n = (s.modLtx n f).when ((s.txShape n (s.txLevels n).1).countP (·.2) != 0) fun t =>
      (t.addSat (pLTX n) (whole LTX.CLIP_CNT) ((s.txShape n (s.txLevels n).1).countP (·.2))).raise LTX.evCLIP n := by
  unfold State.txSend
  cases h : s.txLevels n with
  | mk levels e => exact ⟨_, by intro; rfl, rfl⟩

omit hn in
/-- The symbols saturated in the frame sent. -/
def txClips (s : State) (n : Nat) : Nat := (s.txShape n (s.txLevels n).1).countP (·.2)

omit hn in
theorem txSend_touches (s : State) (n : Nat) : Frame [regAt (pLTX n + LTX.CLIP_CNT), events] s (s.txSend n) := by
  obtain ⟨f, hf, he⟩ := txSend_eq s n
  rw [he]
  exact .when (.modLtx (.refl _ s) n f hf) _ fun _ => .raise (.setIn (.refl _ _) (· = pLTX n + LTX.CLIP_CNT) _ rfl) _ _

omit hn in
theorem txSend_clips (s : State) : (s.txSend n).rd (pLTX n + LTX.CLIP_CNT) =
    BitVec.ofNat 32 (min ((s.rd (pLTX n + LTX.CLIP_CNT)).toNat + txClips s n) (2 ^ 32 - 1)) := by
  obtain ⟨f, -, he⟩ := txSend_eq s n
  rw [he]
  by_cases h : txClips s n = 0
  · rw [show ((s.txShape n (s.txLevels n).1).countP (·.2) != 0) = false by simpa [txClips] using h, when_false, h]
    have hlt := (s.rd (pLTX n + LTX.CLIP_CNT)).isLt
    exact BitVec.eq_of_toNat_eq (by simp [show (s.modLtx n f).rd _ = s.rd (pLTX n + LTX.CLIP_CNT) from rfl]; omega)
  · rw [show ((s.txShape n (s.txLevels n).1).countP (·.2) != 0) = true by simpa [txClips] using h, when_true]
    have hraise (t : State) : (t.raise LTX.evCLIP n).rd (pLTX n + LTX.CLIP_CNT) = t.rd (pLTX n + LTX.CLIP_CNT) :=
      (Frame.raise (.refl [events] t) LTX.evCLIP n).rd fun i _ => by
        simp [pLTX, LTX.CLIP_CNT, HDR.EVT_RAW]
        omega
    rw [hraise, rd_countSat]
    rfl

omit hn in
theorem txSend_raised (s : State) (h : txClips s n ≠ 0) : raised (s.txSend n) LTX.evCLIP n := by
  obtain ⟨f, -, he⟩ := txSend_eq s n
  rw [he, show ((s.txShape n (s.txLevels n).1).countP (·.2) != 0) = true by simpa [txClips] using h, when_true]
  exact raised_raiseBy (h := by decide) ..

end

/-- A frame boundary of an ACTIVE transmit lane (R89, R101). -/
theorem lineTx_applies (s : State) (n : Fin 8) (h : s.txState n = 3) : completes (.lineTxFrameBoundary n 0) s (fun t =>
    tookEffect s t (pLTX n) 0x1F ∧ t.rd (pLTX n + LTX.FRAME_CNT) = s.rd (pLTX n + LTX.FRAME_CNT) + 1
      ∧ t.rd (pLTX n + LTX.CLIP_CNT) = BitVec.ofNat 32 (min ((s.rd (pLTX n + LTX.CLIP_CNT)).toNat + txClips s n) (2 ^ 32 - 1))
      ∧ (txClips s n ≠ 0 → raised t LTX.evCLIP n)) := by
  have hn := n.isLt
  obtain ⟨opens, he⟩ := exec_lineTxFrameBoundary s n 0 h
  refine ⟨_, he, ?_⟩
  obtain ⟨hframe, hclip⟩ := counter_ltx hn
  have hpage : pLTX n % 0x1000 = 0 := by simp only [pLTX]; omega
  have hraw : pageAt LTX.evCLIP.fam n < pPERF 0 := by
    rw [show pageAt LTX.evCLIP.fam n = pLTX n from rfl]
    simp only [pLTX, pPERF]
    omega
  let v := txCounted s n
  have hsent := txSend_touches s n
  have hcount : Frame [regAt (pLTX n + LTX.FRAME_CNT)] (s.txSend n) v := .setIn (.refl _ _) (· = pLTX n + LTX.FRAME_CNT) _ rfl
  have hafter : Frame visiting (txApplied s n 0) (txEnded s (txSettled v (txApplied s n 0) n) n opens) :=
    (txSettled_visiting hn v _).next (txEnded_visiting hn s _ opens)
  have hkept {a : Nat} (ha : counter a) := (hafter.count ha).trans
    (applyCommits_count hpage v 0x1F 0 ((v.rd (pLTX n + LTX.FRAME_CNT)).toNat % 2 ^ 16) ha)
  refine ⟨tookEffect_of_frames (l := [regAt (pLTX n + LTX.CLIP_CNT), events, regAt (pLTX n + LTX.FRAME_CNT)])
    ((hsent.mono (by simp)).next hcount) hafter, ?_, ?_, fun hc => ?_⟩
  · rw [hkept hframe, show v.rd _ = _ from rd_countOn .., hsent.rd fun i _ => by simp [pLTX, LTX.FRAME_CNT, LTX.CLIP_CNT, HDR.EVT_RAW]; omega]
  · rw [hkept hclip, hcount.rd fun i _ => by simp [LTX.FRAME_CNT, LTX.CLIP_CNT], txSend_clips]
  · refine hafter.raisedLow (applyCommits_raised hpage _ _ _ _ (hcount.raised (txSend_raised s hc) ?_) hraw) hraw
    simp [show pageAt LTX.evCLIP.fam n = pLTX n from rfl, LTX.FRAME_CNT, HDR.EVT_RAW]

/-! ## The commit points of host lanes (R209, R211, R215, R216) -/

theorem hostApply_shows (s : State) (m : Nat) (dir late : Nat) (tx : Bool) (frame : Nat) :
    Frame [regAt (pHSL m + HSL.COMMIT_STAT)] (s.applyCommits (pHSL m) dir late frame) (s.hostApply m dir late tx frame) := by
  unfold State.hostApply
  exact .when (.refl _ _) _ fun _ => .setAt (.refl _ _) _

theorem counter_hsl {m : Nat} (hm : m < 16) : counter (pHSL m + HSL.CP_CNT) ∧ counter (pHSL m + HSL.RX_STAT) ∧ counter (pHSL m + HSL.TX_STAT) := by
  unfold counter
  simp only [pLRX, pLTX, pCAL, pHSL, pCLU, HSL.CP_CNT, HSL.RX_STAT, HSL.TX_STAT]
  omega

section
variable (m : Fin 16)

theorem hslPage_mod : pHSL m % 0x1000 = 0 := by
  simp only [pHSL]
  omega

theorem hostApply_touches (s : State) (dir late : Nat) (tx : Bool) (frame : Nat) :
    Frame [regAt (pHSL m + HSL.COMMIT_STAT), perfs, asks, just .inForce, just .cal] s (s.hostApply m dir late tx frame) := by
  have h := applyCommits_touches s (pHSL m) dir late frame
  rw [(laneDir_hsl m).stat_eq] at h
  exact h.next (hostApply_shows ..)

/-- Requests that apply keep the counts and states of host lanes. -/
theorem hostApply_count (s : State) (dir late : Nat) (tx : Bool) (frame : Nat) {a : Nat} (ha : counter a) :
    (s.hostApply m dir late tx frame).rd a = s.rd a :=
  ((hostApply_shows s m dir late tx frame).rd fun i _ => by
    have h := (commitStat_apart (hslPage_mod m)).1
    rw [(laneDir_hsl m).stat_eq] at h
    have hne : a ≠ pHSL m + HSL.COMMIT_STAT := fun he => h (he ▸ ha)
    simpa using hne).trans (applyCommits_count (hslPage_mod m) s dir late frame ha)

/-- With none late, the requests of a host direction take effect between changes that leave them. -/
theorem hostApply_tookEffect {l k : List Zone} {s u t : State} {dir frame : Nat} {tx : Bool} (h1 : Frame l s u)
    (h2 : Frame k (u.hostApply m dir 0 tx frame) t) (hc1 : ∀ z ∈ l, ¬ z .commits := by simp) (hi1 : ∀ z ∈ l, ¬ z .inForce := by simp)
    (hc2 : ∀ z ∈ k, ¬ z .fewer := by simp) (hi2 : ∀ z ∈ k, ¬ z .inForce := by simp) : tookEffect s t (pHSL m) dir :=
  tookEffect_of_frames (m := regAt (pHSL m + HSL.COMMIT_STAT) :: k) h1
    (.trans ((hostApply_shows u m dir 0 tx frame).mono (by simp)) (h2.mono (by simp))) hc1 hi1 (by simpa using hc2) (by simpa using hi2)

/-! ### Receivers -/

theorem cdrFreq_around (s : State) (freq : Int) : Frame around s (s.cdrFreq m freq) :=
  .when (.refl _ s) _ fun _ => .setFree (.refl _ s) _ free_hsl

theorem hostDeskew_around (s : State) {p : Nat} (hp : p < 8) (skew lane : Nat) : Frame around s (s.hostDeskew p skew lane) := by
  have up (t : State) (v : Nat) (on : Bool) : Frame around t ((t.setFld pPORT (psf p PORT.PSTAT.HOST_UP) v).cwLock p OFEC.OF_STAT.TX_CW_LOCK on) :=
    (Frame.next (l := [pstats PORT.PSTAT.HOST_UP, ofecs, events]) (.setPstat (.refl _ t) v hp) (cwLock_touches _ hp _ on)).toAround
      (by simp [pstats_le, ofecs_le])
  have shown (v w : Nat) : Frame around s ((s.setFld (pHSL (s.firstHost p)) HSL.HSKEW.SKEW v).setFld (pHSL (s.firstHost p)) HSL.HSKEW.LATE w) :=
    .setFree (.setFree (.refl _ s) v free_hsl) w free_hsl
  unfold State.hostDeskew
  dsimp only
  split
  · split
    · exact .when (.next (.modPort (.setFree (shown ..) _ free_hsl) _ _) (up ..)) _ fun _ => .raise (.refl _ _) _ _
    · split
      · split
        · exact .setFree (shown ..) _ free_hsl
        · exact .next (.setFree (shown ..) _ free_hsl) (up ..)
      · split
        · exact .modPort (shown ..) _ _
        · exact .next (.modPort (shown ..) _ _) (up ..)
  · exact .refl _ s

theorem comp_touches (s : State) (p : Nat) {off : Nat} (mode : Fld) (n : Int)
    (h : off < 0x1000 ∧ off ≠ 0x10 ∧ off ≠ 0x90 ∧ off ≠ 0x44 ∧ off ≠ 0x6C := by decide) : Frame [others] s (s.comp p off mode n) := by
  unfold State.comp
  split
  · exact .refl _ s
  · exact .wrFree (.refl _ s) _ (free_hsl h)

/-- The count goes one on and the requests apply. -/
def hostRxApplied (s : State) (late : Nat) : State :=
  let s := s.addWrap (pHSL m) HSL.CP_CNT.RX 1
  s.hostApply m 0xE late false (s.fld (pHSL m) HSL.CP_CNT.RX)

/-- The counts and states of host lanes, around a commit point. -/
theorem Frame.hostFld {l : List Zone} {s t : State} (h : Frame l s t) {f : Fld}
    (hf : f.off = HSL.CP_CNT ∨ f.off = HSL.RX_STAT ∨ f.off = HSL.TX_STAT := by decide) (hl : l ⊆ just .mem :: visiting := by simp) :
    t.fld (pHSL m) f = s.fld (pHSL m) f := by
  obtain ⟨hcnt, hrx, htx⟩ := counter_hsl m.isLt
  refine fld_congr (h.count ?_ hl)
  rcases hf with hf | hf | hf <;> rw [hf] <;> assumption

theorem hostRxPoint_eq (s : State) (late : Nat) : s.hostRxPoint m late =
    (hostRxApplied m s late).tapMark (pHSL m) false ((s.addWrap (pHSL m) HSL.CP_CNT.RX 1).fld (pHSL m) HSL.CP_CNT.RX) := rfl

/-- The count of a host direction's commit points goes one on. -/
theorem hostApply_counted (s : State) (dir late : Nat) (tx : Bool) (frame : Nat) {f : Fld} (hf : f.off = HSL.CP_CNT) (hw : f.lo + f.width ≤ 32) :
    ((s.addWrap (pHSL m) f 1).hostApply m dir late tx frame).fld (pHSL m) f = (s.fld (pHSL m) f + 1) % 2 ^ f.width := by
  have ha : counter (pHSL m + f.off) := by rw [hf]; exact (counter_hsl m.isLt).1
  exact (fld_congr (hostApply_count m _ dir late tx frame ha)).trans (fld_setFld s (pHSL m) f _ hw)

/-- The port's skew and compensation, judged on its reference lane. -/
def hostJudged (s0 s : State) (skew lane : Nat) (n : Int) : State :=
  match s.rxPort m with
  | some p =>
    if s.fld (pHSL m) HSL.LANE_CFG.RX_LOG = s.firstHost p ∧ s.hrx m = 5 then
      watch s0 ((s.hostDeskew p skew lane).comp p HSL.COMP_H2L OFEC.OF_STAT.TX_MODE_ACT n)
    else s
  | none => s

theorem hostJudged_visiting (s0 s : State) (skew lane : Nat) (n : Int) : Frame visiting s (hostJudged m s0 s skew lane n) := by
  unfold hostJudged
  split
  next p hp =>
    split
    · exact .next ((hostDeskew_around s (portOfHost_lt hp) skew lane).next (comp_touches ..)).visits (watch_visiting ..)
    · exact .refl _ s
  next => exact .refl _ s

/-- The offset that the CDR tracks, once the requests have applied. -/
def hostTracked (s0 s : State) (frame : Nat) (freq : Int) : State :=
  (s.tapMark (pHSL m) false frame).when (decide (2 ≤ s0.hrx m) && !s0.bit (pHSL m) HSL.RX_STAT.LOS) fun s => s.cdrFreq m freq

theorem hostTracked_around (s0 s : State) (frame : Nat) (freq : Int) : Frame around s (hostTracked m s0 s frame freq) :=
  .when (.next (.refl _ s) (tapMark_touches ..)) _ fun _ => cdrFreq_around ..

theorem exec_hostRxCommitPoint (s : State) (late skew : Nat) (lane : Fin 16) (comp freq : Int) (h : s.hrxLive m = true) :
    ∃ frame, exec (.hostRxCommitPoint m late skew lane comp freq) s =
      .next (hostJudged m s (hostTracked m s (hostRxApplied m s late) frame freq) skew lane comp) := by
  have he : exec (.hostRxCommitPoint m late skew lane comp freq) s = execHostRxCommitPoint m late skew lane comp freq s := rfl
  refine ⟨(s.addWrap (pHSL m) HSL.CP_CNT.RX 1).fld (pHSL m) HSL.CP_CNT.RX, he.trans ?_⟩
  unfold execHostRxCommitPoint hostJudged hostTracked
  rw [if_pos h, hostRxPoint_eq]
  dsimp only
  generalize (State.when _ _ _) = t
  cases t.rxPort m with
  | none => rfl
  | some p => exact (apply_ite Host.Outcome.next ..).symm

/-- A commit point of a host receiver at work (R215). -/
theorem hostRx_applies (s : State) (skew : Nat) (lane : Fin 16) (comp freq : Int) (h : s.hrxLive m = true) :
    completes (.hostRxCommitPoint m 0 skew lane comp freq) s (fun t =>
      tookEffect s t (pHSL m) 0xE ∧ t.fld (pHSL m) HSL.CP_CNT.RX = (s.fld (pHSL m) HSL.CP_CNT.RX + 1) % 2 ^ 16 ∧ memSame s t) := by
  obtain ⟨frame, he⟩ := exec_hostRxCommitPoint m s 0 skew lane comp freq h
  refine ⟨_, he, ?_⟩
  let u := s.addWrap (pHSL m) HSL.CP_CNT.RX 1
  have hu : Frame [fieldAt (pHSL m) HSL.CP_CNT.RX] s u := .setField (.refl _ s) _
  have happ := hostApply_touches m u 0xE 0 false (u.fld (pHSL m) HSL.CP_CNT.RX)
  have hafter := (hostTracked_around m s (hostRxApplied m s 0) frame freq).visits.next (hostJudged_visiting m s _ skew lane comp)
  refine ⟨hostApply_tookEffect m hu hafter, ?_, ?_⟩
  · exact (hafter.hostFld m).trans (hostApply_counted m s 0xE 0 false _ rfl (by decide))
  · exact fun a => (hafter.bytes (by simp) a).trans ((happ.bytes (by simp) a).trans (hu.bytes (by simp) a))

/-- AM lock is a commit point: the lane enters UP (R211, R216). -/
theorem amLock_applies (s : State) (h : s.hrx m = 4) : completes (.amLock m 0) s (fun t => tookEffect s t (pHSL m) 0xE ∧ t.hrx m = 5
    ∧ t.bit (pHSL m) HSL.RX_STAT.AM_LOCK = true ∧ raised t HSL.evRX_UP m ∧ memSame s t) := by
  have he : exec (.amLock m 0) s = execAmLock m 0 s := rfl
  unfold execAmLock at he
  rw [if_pos h] at he
  refine ⟨_, he, ?_⟩
  let locked := (s.setFld (pHSL m) HSL.RX_STAT.AM_LOCK 1).setFld (pHSL m) HSL.RX_STAT.STATE 5
  let up := locked.raise HSL.evRX_UP m
  let u := up.addWrap (pHSL m) HSL.CP_CNT.RX 1
  have hpage : pHSL m + HSL.RX_STAT ≠ pHSL m + HSL.CP_CNT := by simp [HSL.RX_STAT, HSL.CP_CNT]
  have hlocked : Frame [regAt (pHSL m + HSL.RX_STAT)] s locked :=
    .setIn (.setIn (.refl _ s) (· = pHSL m + HSL.RX_STAT) _ rfl) (· = pHSL m + HSL.RX_STAT) _ rfl
  have hu : Frame [events, fieldAt (pHSL m) HSL.CP_CNT.RX] locked u := .setField (.raise (.refl _ locked) _ _) _
  have happ := hostApply_touches m u 0xE 0 false (u.fld (pHSL m) HSL.CP_CNT.RX)
  have hafter : Frame [] (hostRxApplied m up 0) (up.hostRxPoint m 0) := tapMark_touches ..
  have hrd : (up.hostRxPoint m 0).rd (pHSL m + HSL.RX_STAT) = locked.rd (pHSL m + HSL.RX_STAT) :=
    (hafter.count (counter_hsl m.isLt).2.1).trans ((hostApply_count m u _ _ _ _ (counter_hsl m.isLt).2.1).trans (hu.rd fun i _ => by
      simp [HSL.RX_STAT, HDR.EVT_RAW, pHSL]
      omega))
  refine ⟨hostApply_tookEffect m (l := [regAt (pHSL m + HSL.RX_STAT), events, fieldAt (pHSL m) HSL.CP_CNT.RX])
    ((hlocked.mono (by simp)).next hu) hafter, ?_, ?_, ?_, ?_⟩
  · exact (fld_congr (f := HSL.RX_STAT.STATE) hrd).trans (fld_setFld _ _ _ _ (by decide))
  · refine (bit_congr (f := HSL.RX_STAT.AM_LOCK) hrd).trans ?_
    unfold State.bit
    rw [fld_setFld_ne _ _ _ _ _ _ (.inr (.inr (by decide)))]
    exact bit_setFld_one s _ _ (by decide) (by decide)
  · have hraised : raised up HSL.evRX_UP m := raised_raiseBy (h := by decide) ..
    have hraw : pageAt HSL.evRX_UP.fam m = pHSL m := rfl
    have hlow : pageAt HSL.evRX_UP.fam m < pPERF 0 := by
      rw [hraw]
      simp only [pHSL, pPERF]
      omega
    have hcount : raised u HSL.evRX_UP m := (Frame.setField (.refl [fieldAt (pHSL m) HSL.CP_CNT.RX] up) _).raised hraised (by
      simp [hraw, HDR.EVT_RAW])
    have hstat := (hostApply_shows u m 0xE 0 false (u.fld (pHSL m) HSL.CP_CNT.RX)).raised
      (applyCommits_raised (hslPage_mod m) _ _ _ _ hcount hlow) (by simp [hraw, HSL.COMMIT_STAT, HDR.EVT_RAW])
    exact hafter.raised hstat (by simp)
  · exact fun a => (hafter.bytes (by simp) a).trans ((happ.bytes (by simp) a).trans ((hu.bytes (by simp) a).trans (hlocked.bytes (by simp) a)))

end

/-! ### Transmitters -/

section
variable (m : Fin 16)

/-- The count goes one on and the requests apply. -/
def hostTxApplied (s : State) (late : Nat) : State :=
  let s := s.addWrap (pHSL m) HSL.CP_CNT.TX 1
  s.hostApply m 0x1 late true (s.fld (pHSL m) HSL.CP_CNT.TX)

/-- CLIP, and the blocks compensated, once the requests have applied. -/
def hostTxShown (s : State) (n : Int) : State :=
  let s := s.showClip m
  match s.txPort m with
  | some p => s.when (s.fld (pHSL m) HSL.LANE_CFG.TX_LOG == s.firstHost p) (fun s => s.comp p HSL.COMP_L2H OFEC.OF_STAT.RX_MODE_ACT n)
  | none => s

theorem showClip_touches (s : State) (m : Nat) : Frame [fieldAt (pHSL m) HSL.TX_STAT.CLIP] s (s.showClip m) :=
  .when (.refl _ s) _ fun _ => .setField (.refl _ s) _

theorem hostTxShown_touches (s : State) (n : Int) : Frame [fieldAt (pHSL m) HSL.TX_STAT.CLIP, others] s (hostTxShown m s n) := by
  unfold hostTxShown
  dsimp only
  split
  · exact .when ((showClip_touches s m).mono (by simp)) _ fun _ => (comp_touches ..).mono (by simp)
  · exact (showClip_touches s m).mono (by simp)

/-- A stop that takes effect, and what the transmitter goes over to. -/
theorem startHostTx_touches (s : State) : Frame [hsls, just .hsl] s (s.startHostTx m) := by
  unfold State.startHostTx State.showClip
  dsimp only
  exact .when (.setHsl (.setHsl (.setHsl (.modHsl (.refl _ s) _ _) _ m.isLt) _ m.isLt) _ m.isLt) _ fun _ => .setHsl (.refl _ _) _ m.isLt

theorem hostTxOff_touches (s : State) (h : s.htx m ≠ 2) : Frame [hsls, locks, just .hsl] s (s.hostTxOff m) := by
  unfold State.hostTxOff State.hostLock
  rw [show (s.htx m == 2) = false by simpa using h, when_false]
  exact .setHsl (.setLock (.modHsl (.setHsl (.refl _ s) _ m.isLt) _ _) _) _ m.isLt

theorem settleHostTx_touches (s : State) (h : s.htx m ≠ 2) : Frame [hsls, locks, just .hsl] s (s.settleHostTx m) := by
  unfold State.settleHostTx
  dsimp only
  split
  · exact hostTxOff_touches m s h
  · split
    · exact (startHostTx_touches m s).mono (by simp)
    · exact .refl _ s

/-- A stop that takes effect (R209). -/
def hostTxStopped (s : State) : State :=
  (((s.setFld (pHSL m) HSL.TX_STAT.STATE 1).modHsl m fun x => { x with stop := false }).settleHostTx m)

theorem hostTxStopped_touches (s : State) : Frame [hsls, locks, just .hsl] s (hostTxStopped m s) := by
  have hstate : ((s.setFld (pHSL m) HSL.TX_STAT.STATE 1).modHsl m fun x => { x with stop := false }).htx m = 1 :=
    (fld_congr (s := s.setFld (pHSL m) HSL.TX_STAT.STATE 1) (f := HSL.TX_STAT.STATE) rfl).trans (fld_setFld _ _ _ _ (by decide))
  exact .next (.modHsl (.setHsl (.refl _ s) _ m.isLt) _ _) (settleHostTx_touches m _ (by rw [hstate]; decide))

theorem exec_hostTxCommitPoint (s : State) (late : Nat) (comp : Int) (h : s.htx m = 2) :
    exec (.hostTxCommitPoint m late comp) s = .next
      (let t := hostTxShown m (hostTxApplied m s late) comp
      if (t.hslSt m).stop then hostTxStopped m t else t) := by
  show execHostTxCommitPoint m late comp s = _
  unfold execHostTxCommitPoint
  rw [if_pos h]
  exact (apply_ite Host.Outcome.next ..).symm

/-- A commit point of an ACTIVE host transmitter (R209, R215). -/
theorem hostTx_applies (s : State) (comp : Int) (h : s.htx m = 2) : completes (.hostTxCommitPoint m 0 comp) s (fun t =>
    tookEffect s t (pHSL m) 0x1 ∧ memSame s t ∧ ((s.hslSt m).stop = false →
      t.fld (pHSL m) HSL.CP_CNT.TX = (s.fld (pHSL m) HSL.CP_CNT.TX + 1) % 2 ^ 16 ∧ t.htx m = 2)) := by
  refine ⟨_, exec_hostTxCommitPoint m s 0 comp h, ?_⟩
  let u := s.addWrap (pHSL m) HSL.CP_CNT.TX 1
  let t := hostTxShown m (hostTxApplied m s 0) comp
  have hu : Frame [fieldAt (pHSL m) HSL.CP_CNT.TX] s u := .setField (.refl _ s) _
  have happ := hostApply_touches m u 0x1 0 true (u.fld (pHSL m) HSL.CP_CNT.TX)
  have hshown : Frame [fieldAt (pHSL m) HSL.TX_STAT.CLIP, others] (hostTxApplied m s 0) t := hostTxShown_touches m _ comp
  have hafter : Frame [hsls, locks, just .hsl, fieldAt (pHSL m) HSL.TX_STAT.CLIP, others] (hostTxApplied m s 0)
      (if (t.hslSt m).stop then hostTxStopped m t else t) := by
    split
    · exact (hshown.mono (by simp)).next (hostTxStopped_touches m t)
    · exact hshown.mono (by simp)
  refine ⟨hostApply_tookEffect m hu hafter, ?_, fun hstop => ?_⟩
  · exact fun a => (hafter.bytes (by simp) a).trans ((happ.bytes (by simp) a).trans (hu.bytes (by simp) a))
  · have hnot {f : Fld} (hf : f.off = HSL.CP_CNT ∨ f = HSL.TX_STAT.STATE) : t.fld (pHSL m) f = (hostTxApplied m s 0).fld (pHSL m) f :=
      hshown.fld fun i hlo hhi => by
        obtain ⟨hcnt, -, hstat⟩ := counter_hsl m.isLt
        rcases hf with hf | rfl
        · simp [hf, free, hcnt, HSL.CP_CNT]
        · have hi : i < 2 := hhi
          simp [free, hstat]
          omega
    have hsame : (t.hslSt m).stop = (s.hslSt m).stop := by
      have h2 := (hshown.same .hsl (by simp)).trans ((happ.same .hsl (by simp)).trans (hu.same .hsl (by simp)))
      exact congrArg (fun l => (Tbl.get HslSt.init l m.val).stop) h2
    show (if (t.hslSt m).stop then hostTxStopped m t else t).fld _ _ = _ ∧ (if (t.hslSt m).stop then hostTxStopped m t else t).htx m = _
    rw [hsame, hstop, if_neg (by simp)]
    refine ⟨(hnot (.inl rfl)).trans (hostApply_counted m s 0x1 0 true _ rfl (by decide)), ?_⟩
    exact (hnot (.inr rfl)).trans ((fld_congr (hostApply_count m u 0x1 0 true _ (counter_hsl m.isLt).2.2)).trans ((hu.fld (by
      simp)).trans h))

end

/-! ### A direction that does not run (R31) -/

/-- What a commit point leaves when it is all that happens. -/
def appliesAlone (s t : State) (page stat dir : Nat) : Prop :=
  tookEffect s t page dir ∧ memSame s t ∧ regsSame s t (fun a => a = page + stat ∨ ∃ c, inPage (pPERF c) a)

theorem regsSame_of_touches {s t : State} {page stat : Nat}
    (h : Frame [regAt (page + stat), perfs, asks, just .inForce, just .cal] s t) :
    memSame s t ∧ regsSame s t (fun a => a = page + stat ∨ ∃ c, inPage (pPERF c) a) :=
  ⟨h.bytes (by simp), fun a ha => h.rd fun i _ => by simpa [not_or] using ha⟩

theorem applyCommits_alone {page stat i : Nat} {e : Ev} (hd : laneDir page stat e i) (s : State) (dir frame : Nat) :
    appliesAlone s (s.applyCommits page dir 0 frame) page stat dir :=
  ⟨applyCommits_tookEffect .., regsSame_of_touches (hd.stat_eq ▸ applyCommits_touches s page dir 0 frame)⟩

theorem hostApply_alone (m : Fin 16) (s : State) (dir : Nat) (tx : Bool) (frame : Nat) :
    appliesAlone s (s.hostApply m dir 0 tx frame) (pHSL m) HSL.COMMIT_STAT dir :=
  ⟨hostApply_tookEffect m (.refl [] s) (.refl [] _), regsSame_of_touches (hostApply_touches m s dir 0 tx frame)⟩

theorem idleLine_applies (s : State) (n : Fin 8) :
    (s.lnState n = 0 → completes (.idleCommitApply (.lineRx n)) s (fun t => appliesAlone s t (pLRX n) LRX.COMMIT_STAT 0x7F))
      ∧ (s.refOk = false → completes (.idleCommitApply (.lineTx n)) s (fun t => appliesAlone s t (pLTX n) LTX.COMMIT_STAT 0x1F)) := by
  have he (d : LaneDir) : exec (.idleCommitApply d) s = execIdleCommitApply d s := rfl
  refine ⟨fun h => ⟨_, (he _).trans (if_pos h), applyCommits_alone (laneDir_lrx n) s _ _⟩,
    fun h => ⟨_, (he _).trans (if_neg (by simp [h])), applyCommits_alone (laneDir_ltx n) s _ _⟩⟩

theorem idleHost_applies (s : State) (m : Fin 16) :
    (s.hrx m = 0 ∨ s.hrx m = 6 → completes (.idleCommitApply (.hostRx m)) s (fun t => appliesAlone s t (pHSL m) HSL.COMMIT_STAT 0xE))
      ∧ (s.htx m ≤ 1 → completes (.idleCommitApply (.hostTx m)) s (fun t => appliesAlone s t (pHSL m) HSL.COMMIT_STAT 0x1)) := by
  have he (d : LaneDir) : exec (.idleCommitApply d) s = execIdleCommitApply d s := rfl
  exact ⟨fun h => ⟨_, (he _).trans (if_pos h), hostApply_alone m s _ _ _⟩, fun h => ⟨_, (he _).trans (if_pos h), hostApply_alone m s _ _ _⟩⟩

/-- Settles O35, by the footprints of what happens around the one operation that applies the requests. -/
theorem commitPointsApplyRequestsInOrder : Obligations.CommitPointsApplyRequestsInOrder :=
  ⟨fun s n raw cf h => ⟨lineRx_applies s n raw cf h, fun _ k hs hc _ _ => lineRx_late s n raw cf h k hs hc⟩,
    lineTx_applies, fun s m skew lane comp freq => hostRx_applies m s skew lane comp freq, fun s m comp => hostTx_applies m s comp,
    fun s m => amLock_applies m s, idleLine_applies, idleHost_applies⟩

end Sys2Proof.Proofs

namespace Sys2Proof.Proofs

open Sys2Proof Sys2Proof.Machine Sys2Proof.Safety Sys2Proof.Laws

-- One declaration after another, as the tests are: a thread for every proof would not fit the memory of the check.
set_option Elab.async false

/-! ## Footprints of a port's start and stop (R35, R36, R170) -/

/-- The pages LRX but that of lane `k`; all of them with `k = 8`. -/
def lrxAt (k x : Nat) : Prop := pLRX 0 ≤ x ∧ x < pLTX 0 ∧ ¬ inPage (pLRX k) x

/-- The same without what decides whether a resampler table may be loaded (R54). -/
def lrxFewAt (k x : Nat) : Prop := lrxAt k x ∧ x % 0x1000 ≠ LRX.RS_CTRL ∧ x % 0x1000 < LRX.RS_TAB

/-- The pages LTX but for TX_STAT. -/
def ltxAt (x : Nat) : Prop := pLTX 0 ≤ x ∧ x < pCAL ∧ x % 0x1000 ≠ LTX.TX_STAT

/-- PSTAT and PSKEW. -/
def portAt (x : Nat) : Prop := pPORT + PORT.PSTAT ≤ x ∧ x < pPORT + PORT.PSKEW + 32

abbrev lrxs (k : Nat) : Zone := regsAt (lrxAt k)
abbrev lrxFew (k : Nat) : Zone := regsAt (lrxFewAt k)
abbrev ltxs : Zone := regsAt ltxAt
abbrev portRegs : Zone := regsAt portAt

/-- The states of the line transmitters but that of lane `k`. -/
abbrev txs (k : Nat) : Zone :=
  bitsAt fun x i => (pLTX 0 ≤ x ∧ x < pCAL ∧ x % 0x1000 = LTX.TX_STAT) ∧ ¬ inPage (pLTX k) x ∧ i < 3

/-- The stops that wait, but for that of lane `k`. -/
@[simp] def stops (k : Nat) : Zone
  | .stop n => n ≠ k
  | _ => False

/-- Where lanes settle. -/
abbrev settling (k : Nat) : List Zone := [txs k, stops k, quiets, locks, highs, events, hsls, just .hsl, asks, just .cal]

/-- Where the lanes of a port start. -/
abbrev starting (k : Nat) : List Zone := lrxs k :: ifecs :: ofecs :: pstats PORT.PSTAT.DESKEWED :: just .inForce :: settling 8

/-- Where the lanes of port `p` stop. -/
abbrev stopping (p k j : Nat) : List Zone :=
  lrxFew k :: ltxs :: ifecs :: ofecs :: portRegs :: just (.port p) :: settling j

/-- Whatever a change of port `p` touches, but for receive lane `k`, the state of transmit lane `j` and its stop. -/
abbrev porting (p k j : Nat) : List Zone :=
  lrxs k :: ltxs :: ifecs :: ofecs :: portRegs :: just (.port p) :: just .inForce :: settling j

/-- The same with a write of PORT_EN. -/
abbrev enabling (p k j : Nat) : List Zone := regAt (pPORT + PORT.PORT_EN) :: porting p k j

theorem lrxFew_le (k : Nat) : lrxFew k ≤ lrxs k := bitsAt_le fun _ _ h => h.1

theorem pstats_le_portRegs (f : Fld) (hf : f.off = PORT.PSTAT := by rfl) : pstats f ≤ portRegs := bitsAt_le fun x _ h => by
  unfold portAt
  simp only [hf, pPORT, PORT.PSTAT, PORT.PSKEW] at *
  omega

theorem hslAt_le {m : Nat} (hm : m < 16) : shadow (pHSL m) ≤ hsls := bitsAt_le fun x _ h => by
  obtain ⟨g, hg⟩ := h
  obtain ⟨off, rfl, -, hlo, hhi⟩ := mem_groupAddrs hg
  exact hslAt_page hm ⟨by omega, by unfold HDR.EVT_RAW at hlo; omega⟩

/-! ### Discarding -/

theorem discardHsl_touches (s : State) {m : Nat} (hm : m < 16) (mask : Nat) :
    Frame [hsls, events, highs, asks, just .cal] s (s.discard (pHSL m) mask) :=
  (discard_touches s (pHSL m) mask).cover (by
    have hstat : regAt (pHSL m + commitStatOff (pHSL m)) ≤ hsls := bitsAt_le fun x _ h => by
      subst h
      rw [(laneDir_hsl ⟨m, hm⟩).stat_eq]
      exact hslAt_page hm
    simp [hslAt_le hm, hstat, perfs_le])

theorem discardLtx_touches (s : State) {n : Nat} (hn : n < 8) (mask : Nat) :
    Frame [ltxs, events, highs, asks, just .cal] s (s.discard (pLTX n) mask) :=
  (discard_touches s (pLTX n) mask).cover (by
    have hfam : famOf (pLTX n) = 10 := (by decide : ∀ n : Fin 8, famOf (pLTX n) = 10) ⟨n, hn⟩
    have hat {off : Nat} (h : off < 0x1000 ∧ off ≠ LTX.TX_STAT) : ltxAt (pLTX n + off) := by
      unfold ltxAt
      simp only [pLTX, pCAL, LTX.TX_STAT] at *
      omega
    have hshadow : shadow (pLTX n) ≤ ltxs := bitsAt_le fun x _ h => by
      obtain ⟨g, hg⟩ := h
      obtain ⟨off, rfl, hoff, -, hhi⟩ := mem_groupAddrs hg
      refine hat ⟨by omega, fun he => ?_⟩
      rw [hfam, he, show groupOf 10 LTX.TX_STAT = none by decide] at hoff
      cases hoff
    have hstat : regAt (pLTX n + commitStatOff (pLTX n)) ≤ ltxs := bitsAt_le fun x _ h => by
      subst h
      rw [(laneDir_ltx ⟨n, hn⟩).stat_eq]
      exact hat (by decide)
    simp [hshadow, hstat, perfs_le])

/-- The page LRX of lane `n` without what decides whether its table may be loaded, and without its STATE and LOSS_CAUSE. -/
def rxMarkAt (n x i : Nat) : Prop :=
  inPage (pLRX n) x ∧ x % 0x1000 ≠ LRX.RS_CTRL ∧ x % 0x1000 < LRX.RS_TAB ∧ (x % 0x1000 = LRX.LN_STAT → 3 ≤ i ∧ i < 16)

abbrev rxMarks (n : Nat) : Zone := bitsAt (rxMarkAt n)

theorem rxMarks_le {n k : Nat} (hn : n < 8) (hk : n ≠ k) : rxMarks n ≤ lrxFew k := bitsAt_le fun x i h => by
  obtain ⟨hpage, hctl, htab, -⟩ := h
  refine ⟨?_, hctl, htab⟩
  unfold lrxAt
  unfold inPage at *
  simp only [pLRX, pLTX] at *
  omega

theorem rxMarkAt_page {n off i : Nat} (h : off < LRX.RS_TAB ∧ off ≠ LRX.RS_CTRL ∧ (off = LRX.LN_STAT → 3 ≤ i ∧ i < 16)) :
    rxMarkAt n (pLRX n + off) i := by
  unfold rxMarkAt inPage
  simp only [pLRX, LRX.RS_CTRL, LRX.RS_TAB, LRX.LN_STAT] at *
  omega

theorem discardLrx_touches (s : State) {n : Nat} (hn : n < 8) (mask : Nat) :
    Frame [rxMarks n, events, highs, asks, just .cal] s (s.discard (pLRX n) mask) :=
  (discard_touches s (pLRX n) mask).cover (by
    have hfam : famOf (pLRX n) = 9 := (by decide : ∀ n : Fin 8, famOf (pLRX n) = 9) ⟨n, hn⟩
    have hshadow : shadow (pLRX n) ≤ rxMarks n := bitsAt_le fun x _ h => by
      obtain ⟨g, hg⟩ := h
      obtain ⟨off, rfl, hoff, -, hhi⟩ := mem_groupAddrs hg
      have hnot {o : Nat} (ho : groupOf 9 o = none) : off ≠ o := fun he => by
        rw [hfam, he, ho] at hoff
        cases hoff
      exact rxMarkAt_page ⟨by unfold LRX.RS_TAB; omega, hnot (by decide), fun he => absurd he (hnot (by decide))⟩
    have hstat : regAt (pLRX n + commitStatOff (pLRX n)) ≤ rxMarks n := bitsAt_le fun x _ h => by
      subst h
      rw [(laneDir_lrx ⟨n, hn⟩).stat_eq]
      exact rxMarkAt_page ⟨by decide, by decide, fun he => absurd he (by decide)⟩
    simp [hshadow, hstat, perfs_le])

/-! ### Lanes settle -/

/-- A fold all of whose steps stay within a footprint, as they are taken one after another. -/
theorem Frame.foldl_from {l : List Zone} {α : Type} {s t : State} (h : Frame l s t) (xs : List α) {f : State → α → State}
    (hf : ∀ u, Frame l s u → ∀ x ∈ xs, Frame l u (f u x)) : Frame l s (xs.foldl f t) := by
  induction xs generalizing t with
  | nil => exact h
  | cons x xs ih => exact ih (h.trans (hf t h x (by simp))) fun u hu y hy => hf u hu y (by simp [hy])

theorem lines_le (s : State) : s.lines ≤ 8 := by
  unfold State.lines
  split <;> omega

theorem hosts_le (s : State) : s.hosts ≤ 16 := by
  unfold State.hosts
  split <;> omega

/-- Transmit lane `k`, ACTIVE while lanes can run, stays; for `k = 8` nothing is said. -/
def txStays (s : State) (k : Nat) : Prop := k < 8 → s.txState k = 3 ∧ s.noon = true ∧ s.refOk = true

theorem settleTx_settling (s : State) {n k : Nat} (hn : n < 8) (hk : txStays s k) : Frame (settling k) s (s.settleTx n) := by
  by_cases hnk : n = k
  · subst hnk
    obtain ⟨hst, hnoon, href⟩ := hk hn
    have hnight : s.inNight = false := by
      unfold State.noon at hnoon
      unfold State.inNight
      by_contra h
      simp_all
    unfold State.settleTx
    simp [hst, href, hnight]
    exact .refl _ s
  · refine (settleTx_touches s hn).cover ?_
    have hs : fieldAt (pLTX n) LTX.TX_STAT.STATE ≤ txs k := bitsAt_le fun x i h => by
      obtain ⟨rfl, -, hi⟩ := h
      unfold inPage
      simp only [pLTX, pCAL, LTX.TX_STAT] at *
      omega
    have hstop : just (.stop n) ≤ stops k := fun y hy => by subst hy; exact hnk
    simp [hs, hstop]

theorem hostLock_touches (s : State) {m : Nat} (hm : m < 16) (rx on : Bool) : Frame [hsls, locks] s (s.hostLock m rx on) := by
  unfold State.hostLock
  dsimp only
  split
  · exact .setLock (.refl _ s) _
  · exact .setHsl (.setLock (.refl _ s) _) _ hm

theorem settleHostTx_settling (s : State) {m : Nat} (hm : m < 16) (k : Nat) : Frame (settling k) s (s.settleHostTx m) := by
  unfold State.settleHostTx
  dsimp only
  split
  · unfold State.hostTxOff
    exact .next (.modHsl (.setHsl (.when (.refl _ s) _ fun _ => (discardHsl_touches s hm 1).mono (by simp)) _ hm) _ _) (hostLock_touches _ hm ..)
  · split
    · exact (startHostTx_touches ⟨m, hm⟩ s).mono (by simp)
    · exact .refl _ s

theorem settleHostRx_settling (s : State) {m : Nat} (hm : m < 16) (k : Nat) : Frame (settling k) s (s.settleHostRx m) :=
  .when (.refl _ s) _ fun _ => (hostLock_touches s hm ..).mono (by simp)

/-! ## What a change of a port leaves -/

/-- The footprints of settling, starting and stopping, in the one that says least. -/
theorem Frame.ofStarting {s t : State} {k : Nat} (h : Frame (starting k) s t) (p : Nat) : Frame (porting p k 8) s t :=
  h.cover (by
    have := pstats_le_portRegs PORT.PSTAT.DESKEWED
    simp [this])

theorem Frame.ofStopping {s t : State} {p k j : Nat} (h : Frame (stopping p k j) s t) : Frame (porting p k j) s t :=
  h.cover (by simp [lrxFew_le])

/-- The bits of registers that a change of a port may touch. -/
def touched (k j x i : Nat) : Prop :=
  x % 0x1000 = HDR.EVT_RAW ∨ x = pPORT + PORT.PORT_EN ∨ lockAt x ∨ lrxAt k x ∨
    (pLTX 0 ≤ x ∧ x < pCAL ∧ (x % 0x1000 = LTX.TX_STAT → ¬ inPage (pLTX j) x ∧ i < 3))
    ∨ (pCAL + CAL.U_STAT ≤ x ∧ x < pCAL + CAL.U_STAT + 64 ∧ i = CAL.U_STAT.QUIET_OPEN.lo) ∨ (pIFEC 0 ≤ x ∧ x < pPORT) ∨ portAt x ∨ pHSL 0 ≤ x

theorem touched_iff (k j x i : Nat) : touched k j x i ↔
    x % 0x1000 = 0x10 ∨ x = 0x10040044 ∨ (x = 0x10002048 ∨ x = 0x1000204C)
      ∨ (0x10010000 ≤ x ∧ x < 0x10018000 ∧ ¬ (0x10010000 + 0x1000 * k ≤ x ∧ x < 0x10010000 + 0x1000 * k + 0x1000))
      ∨ (0x10018000 ≤ x ∧ x < 0x10020000 ∧ (x % 0x1000 = 0x44 → ¬ (0x10018000 + 0x1000 * j ≤ x ∧ x < 0x10018000 + 0x1000 * j + 0x1000) ∧ i < 3))
      ∨ (0x10020080 ≤ x ∧ x < 0x100200C0 ∧ i = 19) ∨ (0x10030000 ≤ x ∧ x < 0x10040000) ∨ (0x100400A0 ≤ x ∧ x < 0x100400E0) ∨ 0x10050000 ≤ x :=
  Iff.rfl

theorem enabling_touched {p k j x i : Nat} (h : ¬ touched k j x i) : ∀ z ∈ enabling p k j, ¬ z (.bit x i) := by
  have hlock : lockAt x ↔ x = 0x10002048 ∨ x = 0x1000204C := Iff.rfl
  rw [touched_iff] at h
  simp [lrxAt, ltxAt, ifecAt, ofecAt, portAt, hslAt, hlock]
  simp only [pLRX, pLTX, pIFEC, pOFEC, pPORT, pHSL, pCLU, pCAL, pPERF, CAL.U_STAT, PORT.PORT_EN, PORT.PSTAT, PORT.PSKEW, LTX.TX_STAT, HDR.EVT_RAW,
    inPage]
  omega

section
variable {s t : State} {p k j : Nat} {l : List Zone} (h : Frame l s t) (hl : l ⊆ enabling p k j)
include h hl

theorem Frame.rdUntouched {a : Nat} (ha : ∀ i, i < 32 → ¬ touched k j a i) : t.rd a = s.rd a := (h.mono hl).rd fun i hi => enabling_touched (ha i hi)

theorem Frame.fldUntouched {b : Nat} {f : Fld} (hf : ∀ i, f.lo ≤ i → i < f.lo + f.width → ¬ touched k j (b + f.off) i) : t.fld b f = s.fld b f :=
  (h.mono hl).fld fun i hlo hhi => enabling_touched (hf i hlo hhi)

/-- PCFG. -/
theorem Frame.portRd {a : Nat} (ha : pPORT + PORT.PCFG ≤ a ∧ a < pPORT + PORT.PSTAT) : t.rd a = s.rd a :=
  h.rdUntouched hl fun i _ => by
    rw [touched_iff]
    simp only [pPORT, PORT.PCFG, PORT.PSTAT] at ha
    omega

/-- The page LRX of lane `k`. -/
theorem Frame.laneRd (hk : k < 8) {off : Nat} (ho : off < 0x1000 ∧ off ≠ 0x10 := by decide) : t.rd (pLRX k + off) = s.rd (pLRX k + off) :=
  h.rdUntouched hl fun i _ => by
    rw [touched_iff, pLRX]
    omega

/-- The state of transmit lane `k`. -/
theorem Frame.txState (hj : j < 8) : t.txState j = s.txState j :=
  h.fldUntouched hl fun i _ hi => by
    have hi : i < 3 := hi
    rw [touched_iff, show LTX.TX_STAT.STATE.off = 0x44 from rfl, pLTX]
    omega

theorem Frame.noon : t.noon = s.noon := by
  have hstate : t.fld pPWR PWR.PWR_STAT.STATE = s.fld pPWR PWR.PWR_STAT.STATE := h.fldUntouched hl fun i _ _ => by
    rw [touched_iff, show pPWR + PWR.PWR_STAT.STATE.off = 0x10001044 from rfl]
    omega
  have hfixed := (h.mono hl).fixed (by simp)
  unfold State.noon
  rw [hstate, hfixed.pwr]

theorem Frame.refOk : t.refOk = s.refOk := bit_congr (h.rdUntouched hl fun i _ => by
  rw [touched_iff, show pCLK + CLK.CLK_STAT.REFCLK_OK.off = 0x10002040 from rfl]
  omega)

theorem Frame.txStays (hs : txStays s j) : txStays t j := fun hj => by
  obtain ⟨hst, hnoon, href⟩ := hs hj
  exact ⟨(h.txState hl hj).trans hst, (h.noon hl).trans hnoon, (h.refOk hl).trans href⟩

/-- The definition of a port, and whether it is enabled. -/
theorem Frame.portDefined {q : Nat} (hq : q < 8) : t.portDefined q = s.portDefined q :=
  bit_congr (h.portRd hl (by simp only [fldAt, pPORT, PORT.PCFG, PORT.PSTAT]; omega))

theorem Frame.portK {q : Nat} (hq : q < 8) : t.portK q = s.portK q :=
  congrArg (2 ^ ·) (fld_congr (h.portRd hl (by simp only [fldAt, pPORT, PORT.PCFG, PORT.PSTAT]; omega)))

theorem Frame.portLanes {q : Nat} (hq : q < 8) : t.portLanes q = s.portLanes q := by
  unfold State.portLanes
  rw [h.portK hl hq]

/-- No visit of a calibration unit begins. -/
theorem Frame.phases {u : Nat} (hu : u < 16) : t.phase u = s.phase u :=
  h.fldUntouched hl fun i _ hi => by
    have hi : i < 3 := hi
    rw [touched_iff]
    simp only [uf, fldAt, pCAL]
    omega

omit hl in
theorem Frame.portOn (hl : l ⊆ porting p k j) {q : Nat} (hq : q < 8) : t.portOn q = s.portOn q := by
  have hen : t.rd (pPORT + PORT.PORT_EN) = s.rd (pPORT + PORT.PORT_EN) := (h.mono hl).rd fun i _ => by
    simp [lrxAt, ltxAt, ifecAt, ofecAt, portAt, hslAt, lockAt, HDR.EVT_RAW]
    simp only [pLRX, pLTX, pIFEC, pOFEC, pPORT, pHSL, pCAL, pPERF, pCLK, CLK.LOCK0, CLK.LOCK1, CAL.U_STAT, PORT.PORT_EN, PORT.PSTAT]
    omega
  unfold State.portOn State.portBit
  rw [h.portDefined (List.subset_cons_of_subset _ hl) hq, hen]

end

/-- Every lane of the device settles. -/
theorem settleLanes_settling (s : State) {k : Nat} (hk : txStays s k) : Frame (settling k) s s.settleLanes := by
  unfold State.settleLanes
  dsimp only
  refine .foldl (.foldl_from (.refl _ s) _ fun u hu n hn => ?_) _ fun u m hm => ?_
  · have hn8 : n < 8 := lt_of_lt_of_le (List.mem_range.1 hn) (lines_le s)
    exact .next (settleTx_settling u hn8 (hu.txStays (p := 0) (k := 8) (by simp) hk)) (dawnSettle_touches ..)
  · have hm16 : m < 16 := lt_of_lt_of_le (List.mem_range.1 hm) (hosts_le _)
    exact .next (settleHostTx_settling u hm16 k) (settleHostRx_settling _ hm16 k)

/-! ## Receive lanes start and stop (R36, R64, R73) -/

section
variable {n k : Nat} (hn : n < 8)
include hn

theorem lrxAt_page (hk : n ≠ k) {off : Nat} (h : off < 0x1000 := by decide) : lrxAt k (pLRX n + off) := by
  unfold lrxAt inPage
  simp only [pLRX, pLTX]
  omega

theorem clearIfec_touches (s : State) : Frame [ifecs] s (s.clearIfec n) := by
  unfold State.clearIfec
  refine .foldl (.refl _ s) _ fun u i hi => .setLv (.wrIn (.refl _ u) ifecAt _ ?_) _ _
  rw [Nat.add_assoc]
  exact ifecAt_page hn (by have := List.mem_range.1 hi; simp only [IFEC.SNAP_FRAME]; omega)

theorem clearOfec_touches (s : State) : Frame [ofecs] s (s.clearOfec n) := by
  have ho : ∀ o ∈ (List.range 46).map (fun i => OFEC.SNAP_FRAME + 4 * i) ++ [OFEC.TX_UNCORR, OFEC.TX_SYM_LO, OFEC.TX_SYM_HI],
      o < 0x1000 ∧ o ≠ 0x10 := by decide
  unfold State.clearOfec
  exact .foldl (.refl _ s) _ fun u o h => .setLv (.wrIn (.refl _ u) ofecAt _ (ofecAt_page hn (ho o h))) _ _

omit hn in
/-- A host error on a page sets its registers free, and their values in force. -/
theorem unsettlePage_touches (s : State) (page : Nat) (q : Nat → Prop) (hq : ∀ e ∈ unsettledRegs (famOf page), q (page + e.1)) :
    Frame [regsAt q, just .inForce] s (s.unsettlePage page) := by
  have h : Frame [regsAt q, just .inForce] s ((unsettledRegs (famOf page)).foldl (fun s e =>
      let s := s.wr (page + e.1) (Config.freeReg s.free (page + e.1) &&& e.2)
      if (groupOf (famOf page) e.1).isSome then s.setInf (page + e.1) (Config.freeReg (s.free + 1) (page + e.1) &&& e.2) else s) s) :=
    .foldl (.refl _ s) _ fun u e he => by
      have hw : Frame [regsAt q, just .inForce] u (u.wr (page + e.1) (Config.freeReg u.free (page + e.1) &&& e.2)) :=
        .wrIn (.refl _ u) q _ (hq e he)
      dsimp only
      split
      · exact .setInf hw _ _
      · exact hw
  exact .step h

theorem unsettleLrx_touches (hk : n ≠ k) (s : State) : Frame [lrxs k, just .inForce] s (s.unsettlePage (pLRX n)) :=
  unsettlePage_touches s (pLRX n) (lrxAt k) fun e he => by
    have h9 : ∀ e ∈ unsettledRegs 9, e.1 < 0x1000 := by decide +kernel
    rw [(by decide : ∀ n : Fin 8, famOf (pLRX n) = 9) ⟨n, hn⟩] at he
    exact lrxAt_page hn hk (h9 e he)

/-- Receive lane `n` starts, up to the state that it takes. -/
def rxStarted (s : State) (n : Nat) : State :=
  let b := pLRX n
  let dflt := s.bit b LRX.RS_CTRL.TAB_DEFAULT
  let tab := if dflt then ([] : Tbl Word) else (List.range 512).map (fun i => (i, s.rsWord n i))
  let s := s.modLrx n fun x =>
    { x with low := 0, pol := s.bit b LRX.LN_CTRL.POL_INV, table := tab, pipe := RxPipe.init, dec := InnerDec.init }
  let s := (s.setFld b LRX.LN_STAT.LOS 1).setFld b LRX.LN_STAT.TR_LOCK 0
  let s := (s.setFld b LRX.LN_STAT.DCB_FROZEN 1).wr (b + LRX.DCB_EST) 0
  let s := ((s.setFreq n 0).setFld b LRX.SNR_EST.SNR 0).wr (b + LRX.FRAME_CNT) 0
  let s := (s.setFld b LRX.RS_STAT.RUN 1).setFld b LRX.RS_STAT.TAB_PENDING 0
  let s := (s.setFld b LRX.RS_STAT.DEFAULT_ACTIVE (if dflt then 1 else 0)).setFld pCLK (bitAt CLK.LOCK0 n) 1
  (s.wr (pPART n + PART.CNT_CELL) 0).wr (pPART n + PART.CNT_SEQ) 0

omit hn in
theorem startRx_eq (s : State) : s.startRx n = ((rxStarted s n).setLn n 1).when (!s.rsTableOk n) fun s => s.unsettlePage (pLRX n) := rfl

theorem rxStarted_touches (hk : n ≠ k) (s : State) : Frame [lrxs k, locks, highs] s (rxStarted s n) := by
  have hreg (u : State) (f : Fld) (v : Nat) (h : f.off < 0x1000 := by decide) : Frame [lrxs k, locks, highs] u (u.setFld (pLRX n) f v) :=
    .setIn (.refl _ u) (lrxAt k) v (lrxAt_page hn hk h)
  have hwr (u : State) (off : Nat) (w : Word) (h : off < 0x1000 := by decide) : Frame [lrxs k, locks, highs] u (u.wr (pLRX n + off) w) :=
    .wrIn (.refl _ u) (lrxAt k) w (lrxAt_page hn hk h)
  have hpart (off : Nat) : pPERF 0 ≤ pPART n + off := by simp only [pPERF, pPART]; omega
  unfold rxStarted State.setFreq
  dsimp only
  exact .wrHigh (.wrHigh (.setLock (.next (.next (.next (.next (.next (.next (.next (.next (.next (.next (.next (.modLrx (.refl _ s) _ _)
    (hreg ..)) (hreg ..)) (hreg ..)) (hwr ..)) (hreg ..)) (hwr ..)) (hreg ..)) (hwr ..)) (hreg ..)) (hreg ..)) (hreg ..)) _) _ (hpart _)) _ (hpart _)

/-- A lane's page in the zones of `setLn`. -/
theorem setLn_starting (hk : n ≠ k) (s : State) (st : Nat) :
    Frame [lrxs k, ifecs, ofecs, highs, events, pstats PORT.PSTAT.DESKEWED] s (s.setLn n st) :=
  (setLn_touches s hn st).cover (by
    have h (f : Fld) (hf : f.off < 0x1000 := by decide) : fieldAt (pLRX n) f ≤ lrxs k := bitsAt_le fun _ _ hx => hx.1 ▸ lrxAt_page hn hk hf
    simp [h LRX.LN_STAT.STATE, h LRX.LN_STAT.FRAME_LOCK])

theorem startRx_starting (hk : n ≠ k) (s : State) : Frame (starting k) s (s.startRx n) := by
  rw [startRx_eq]
  exact .when (.next (.next (.refl _ s) (rxStarted_touches hn hk s)) (setLn_starting hn hk _ 1)) _ fun _ =>
    (unsettleLrx_touches hn hk _).mono (by simp)

theorem lnState_setLn (s : State) {st : Nat} (hst : st < 8) : (s.setLn n st).lnState n = st := by
  rw [setLn_eq]
  exact ((lnLeft_touches _ hn ..).fld fun i _ hi => by
    have hi : i < 3 := hi
    simp [ifecAt, ofecAt, HDR.EVT_RAW]
    simp only [pLRX, pPORT]
    omega).trans ((fld_setFld _ _ _ _ (by decide)).trans (Nat.mod_eq_of_lt hst))

/-- A lane that starts with a table that R54 admits is in SIGNAL with its count at 0. -/
theorem startRx_signal (s : State) (h : s.rsTableOk n = true) :
    (s.startRx n).lnState n = 1 ∧ (s.startRx n).rd (pLRX n + LRX.FRAME_CNT) = 0 := by
  rw [startRx_eq, h, Bool.not_true, when_false]
  have hcount : (rxStarted s n).rd (pLRX n + LRX.FRAME_CNT) = 0 := by
    have hpart (off : Nat) : pLRX n + LRX.FRAME_CNT ≠ pPART n + off := by simp only [pLRX, pPART, LRX.FRAME_CNT]; omega
    have hlock : pLRX n + LRX.FRAME_CNT ≠ pCLK + CLK.LOCK0 := by simp only [pLRX, pCLK, LRX.FRAME_CNT, CLK.LOCK0]; omega
    have hrs : pLRX n + LRX.FRAME_CNT ≠ pLRX n + LRX.RS_STAT := by simp [LRX.FRAME_CNT, LRX.RS_STAT]
    unfold rxStarted
    dsimp only
    rw [rd_wr_ne _ _ _ _ (hpart _), rd_wr_ne _ _ _ _ (hpart _), rd_setFld_ne _ _ _ _ _ hlock, rd_setFld_ne _ _ _ _ _ hrs,
      rd_setFld_ne _ _ _ _ _ hrs, rd_setFld_ne _ _ _ _ _ hrs, rd_wr_self]
  refine ⟨lnState_setLn hn _ (by decide), ((setLn_touches _ hn 1).rd fun i _ => ?_).trans hcount⟩
  simp [ifecAt, ofecAt, HDR.EVT_RAW]
  simp only [pLRX, pIFEC, pOFEC, pPORT, pPERF, LRX.FRAME_CNT]
  omega

/-! ### A receive lane stops -/

omit hn in
/-- The rest of a stop, once the lane is DOWN. -/
def rxHalted (s : State) (n : Nat) : State :=
  let b := pLRX n
  let s := (s.setFld b LRX.LN_STAT.LOS 1).setFld b LRX.LN_STAT.DCB_FROZEN 0
  let s := (s.setFld b LRX.LN_STAT.TR_LOCK 0).setFld b LRX.SNR_EST.SNR 0
  let s := (s.setFld b LRX.RS_STAT.RUN 0).modLrx n fun x => { x with low := 0 }
  let s := s.when (s.bit (pIFEC n) IFEC.IF_STAT.SNAP_PEND) (fun s => s.latchIfec n)
  ((s.discard b 0x7F).tapStop b).capLaneStop n

omit hn in
theorem stopRx_eq (s : State) : s.stopRx n =
    rxHalted ((s.when (s.lnState n != 0) fun s => s.setFld (pLRX n) LRX.LN_STAT.LOSS_CAUSE 6).setLn n 0) n := rfl

omit hn in
theorem capLaneStop_touches (s : State) : Frame [highs, events] s (s.capLaneStop n) := by
  have hforget : Frame [highs, events] s s.capForget := by
    unfold State.capForget State.capMissed
    split
    · exact .refl _ s
    · exact .setHigh (.setCap (.refl _ s) _) _ (by decide)
  unfold State.capLaneStop State.capHold
  split
  · exact .raise (.setCap (.when (.setHigh hforget _ (by decide)) _ fun _ => .setHigh (.refl _ _) _ (by decide)) _) _ _
  · exact .refl _ s

theorem rxHalted_touches (s : State) : Frame [rxMarks n, ifecs, highs, events, asks, just .cal] s (rxHalted s n) := by
  have hfld {u : State} (f : Fld) (v : Nat)
      (hf : f.off < LRX.RS_TAB ∧ f.off ≠ LRX.RS_CTRL ∧ (f.off = LRX.LN_STAT → 3 ≤ f.lo ∧ f.lo + f.width ≤ 16) := by decide)
      (h : Frame [rxMarks n, ifecs, highs, events, asks, just .cal] s u) :
      Frame [rxMarks n, ifecs, highs, events, asks, just .cal] s (u.setFld (pLRX n) f v) :=
    h.setFld v (List.mem_cons_self ..) fun i hlo hhi => rxMarkAt_page ⟨hf.1, hf.2.1, fun he => by have := hf.2.2 he; omega⟩
  unfold rxHalted
  exact .next (.next (.next (.when (.modLrx (hfld LRX.RS_STAT.RUN 0 (h := hfld LRX.SNR_EST.SNR 0 (h := hfld LRX.LN_STAT.TR_LOCK 0
    (h := hfld LRX.LN_STAT.DCB_FROZEN 0 (h := hfld LRX.LN_STAT.LOS 1 (h := .refl _ s)))))) _ _) _ fun _ => (latchIfec_touches _ hn).mono (by simp))
    (discardLrx_touches _ hn _)) (tapStop_touches ..)) (capLaneStop_touches ..)

theorem lrxFewAt_page (hk : n ≠ k) {off : Nat} (h : off < LRX.RS_TAB ∧ off ≠ LRX.RS_CTRL := by decide) : lrxFewAt k (pLRX n + off) := by
  refine ⟨lrxAt_page hn hk (lt_of_lt_of_le h.1 (by decide)), ?_⟩
  simp only [pLRX, LRX.RS_CTRL, LRX.RS_TAB] at *
  omega

theorem stopRx_stopping (hk : n ≠ k) (p j : Nat) (s : State) : Frame (stopping p k j) s (s.stopRx n) := by
  have hdown : ∀ u : State, Frame (stopping p k j) u (u.setLn n 0) := fun u => (setLn_touches u hn 0).cover (by
    have h (f : Fld) (hf : f.off = LRX.LN_STAT) : fieldAt (pLRX n) f ≤ lrxFew k := bitsAt_le fun _ _ hx => by
      rw [hx.1, hf]
      exact lrxFewAt_page hn hk
    simp [h LRX.LN_STAT.STATE rfl, h LRX.LN_STAT.FRAME_LOCK rfl, pstats_le_portRegs])
  rw [stopRx_eq]
  refine .trans (.trans (.when (.refl _ s) _ fun _ => .setIn (.refl _ s) (lrxFewAt k) _ (lrxFewAt_page hn hk)) (hdown _))
    ((rxHalted_touches hn _).cover ?_)
  simp [rxMarks_le hn hk]

/-- A lane that has stopped is DOWN, with cause 6 if it ran. -/
theorem stopRx_down (s : State) : (s.stopRx n).lnState n = 0 ∧ (s.lnState n ≠ 0 → (s.stopRx n).fld (pLRX n) LRX.LN_STAT.LOSS_CAUSE = 6) := by
  let u := s.when (s.lnState n != 0) fun s => s.setFld (pLRX n) LRX.LN_STAT.LOSS_CAUSE 6
  have hkept {f : Fld} (hoff : f.off = LRX.LN_STAT) (hf : f.lo + f.width ≤ 3 ∨ 16 ≤ f.lo) :
      (rxHalted (u.setLn n 0) n).fld (pLRX n) f = (u.setLn n 0).fld (pLRX n) f :=
    (rxHalted_touches hn _).fld fun i hlo hhi => by
      simp [rxMarkAt, ifecAt, HDR.EVT_RAW, hoff, inPage]
      simp only [pLRX, pIFEC, pPERF, LRX.LN_STAT]
      omega
  have hcause : (u.setLn n 0).fld (pLRX n) LRX.LN_STAT.LOSS_CAUSE = u.fld (pLRX n) LRX.LN_STAT.LOSS_CAUSE :=
    (setLn_touches u hn 0).fld fun i hlo _ => by
      have hlo : 16 ≤ i := hlo
      simp [ifecAt, ofecAt, HDR.EVT_RAW]
      simp only [pLRX, pPORT]
      omega
  have hran (h : s.lnState n ≠ 0) : u = s.setFld (pLRX n) LRX.LN_STAT.LOSS_CAUSE 6 := by
    show s.when _ _ = _
    rw [show (s.lnState n != 0) = true by simpa using h, when_true]
  rw [stopRx_eq]
  refine ⟨(hkept rfl (by decide)).trans (lnState_setLn hn _ (by decide)), fun h => ?_⟩
  rw [hkept rfl (by decide), hcause, hran h]
  exact fld_setFld _ _ _ _ (by decide)

end

/-! ## Host lanes and the host side of a port (R209, R211, R217) -/

theorem sendHost_touches (s : State) (p : Nat) (word : List (BitVec 10)) : Frame [just .hsl] s (s.sendHost p word) := by
  unfold State.sendHost
  refine .each (.modPort (.refl _ s) _ _) _ fun u m _ => ?_
  split
  · refine .when (.refl _ u) _ fun _ => ?_
    unfold State.hostSend
    exact .modHsl (.refl _ u) _ _
  · exact .refl _ u

theorem hostDown_touches (s : State) (m : Nat) : Frame [pstats PORT.PSTAT.HOST_UP, ofecs, events] s (s.hostDown m) := by
  unfold State.hostDown
  split
  next p hp => exact .next (.modPort (.setPstat (.refl _ s) 0 (portOfHost_lt hp)) _ _) (cwLock_touches _ (portOfHost_lt hp) _ _)
  next => exact .refl _ s

section
variable {m : Nat} (hm : m < 16)
include hm

theorem startHostRx_touches (s : State) : Frame [hsls, just .hsl] s (s.startHostRx m) := by
  unfold State.startHostRx
  dsimp only
  split
  · exact .setHsl (.setHsl (.wrIn (.setHsl (.setHsl (.setHsl (.setHsl (.modHsl (.refl _ s) _ _) _ hm) _ hm) _ hm) _ hm) hslAt _
      (hslAt_page hm)) _ hm) _ hm
  · exact .refl _ s

theorem setHrx_touches (s : State) (st : Nat) : Frame [hsls, pstats PORT.PSTAT.HOST_UP, ofecs, events] s (s.setHrx m st) := by
  unfold State.setHrx
  exact .when (.setHsl (.refl _ s) _ hm) _ fun _ => .raise (.next (.setHsl (.refl _ _) _ hm) (hostDown_touches _ m)) _ _

theorem hostRxEnd_touches (s : State) : Frame [hsls, just .hsl, events, highs, asks, just .cal] s (s.hostRxEnd m) := by
  unfold State.hostRxEnd
  exact .next (.next (.modHsl (.setHsl (.setHsl (.setHsl (.setHsl (.refl _ s) _ hm) _ hm) _ hm) _ hm) _ _) (discardHsl_touches _ hm _))
    (tapStop_touches ..)

theorem stopHostRx_touches (s : State) :
    Frame [hsls, just .hsl, pstats PORT.PSTAT.HOST_UP, ofecs, events, highs, asks, just .cal] s (s.stopHostRx m) := by
  unfold State.stopHostRx
  split
  · exact (discardHsl_touches s hm _).mono (by simp)
  · exact .next (.next (.setHsl (.refl _ s) _ hm) (setHrx_touches hm _ 0)) (hostRxEnd_touches hm _)

end

/-! ## A port is cleared, runs, and halts (R35, R36, R170) -/

theorem firstHost_lt (s : State) {p : Nat} (hp : p < 8) : s.firstHost p < 16 := by
  unfold State.firstHost
  split <;> omega

/-- The line lanes of port `p` are among the eight. -/
def lanesFit (s : State) (p : Nat) : Prop := ∀ n ∈ s.portLanes p, n < 8

section
variable {p : Nat} (hp : p < 8)
include hp

theorem Frame.lanesFit {s t : State} {k j q : Nat} {l : List Zone} (h : Frame l s t) (hl : l ⊆ enabling q k j) (hs : lanesFit s p) :
    lanesFit t p := by
  unfold Proofs.lanesFit
  rw [h.portLanes hl hp]
  exact hs

/-- What an enable clears, up to the modes of the outer code. -/
def portFresh (s : State) (p : Nat) : State :=
  let h := pHSL (s.firstHost p)
  let s := s.modPort p fun _ =>
    { PortSt.init with iter := s.fld pPORT (fldAt PORT.PCFG.ITER (4 * p)), lb := s.fld h HSL.PORT_LB.MODE }
  let s := s.degLoad p
  let s := s.wr (pPORT + PORT.PSKEW + 4 * p) 0
  let s := s.wr (pPORT + PORT.PSTAT + 4 * p) 0
  let s := (s.setFld pPORT (psf p PORT.PSTAT.LF_HOST) 1).setFld pPORT (psf p PORT.PSTAT.LF_LINE) 1
  let b := pOFEC p
  let s := s.setFld b OFEC.OF_STAT.RX_MODE_ACT (s.fld b OFEC.OF_CTRL.RX_MODE)
  s.setFld b OFEC.OF_STAT.TX_MODE_ACT (s.fld b OFEC.OF_CTRL.TX_MODE)

omit hp in
theorem portClear_eq (s : State) : s.portClear p =
    let h := pHSL (s.firstHost p)
    let u := (portFresh s p).portLanes p |>.foldl State.clearIfec ((portFresh s p).clearOfec p)
    let u := (((u.wr (h + HSL.COMP_H2L) 0).wr (h + HSL.COMP_L2H) 0).wr (h + HSL.PORT_COMP) 0).wr (h + HSL.HSKEW) 0
    (u.wr (pTIME + TIME.AMC_TX + 8 * p) 0).wr (pTIME + TIME.AMC_RX + 8 * p) 0 := rfl

theorem portAt_reg {off : Nat} (h : PORT.PSTAT ≤ off ∧ off + 32 ≤ PORT.PSKEW + 32 := by decide) : portAt (pPORT + off + 4 * p) := by
  unfold portAt
  omega

theorem portFresh_touches (s : State) : Frame [just (.port p), portRegs, ofecs] s (portFresh s p) := by
  have hps (u : State) (f : Fld) (v : Nat) (hf : f.off = PORT.PSTAT := by rfl) :
      Frame [just (.port p), portRegs, ofecs] u (u.setFld pPORT (psf p f) v) :=
    .setIn (.refl _ u) portAt v (by
      simp only [psf, fldAt, hf, ← Nat.add_assoc]
      exact portAt_reg hp)
  unfold portFresh State.degLoad
  exact .setOfec (.setOfec (.next (.next (.wrIn (.wrIn (.modPort (.modRun (.refl _ s) _ _) _ _) portAt _ (portAt_reg hp)) portAt _ (portAt_reg hp))
    (hps ..)) (hps ..)) _ hp) _ hp

/-- Where a port is cleared: no line lane's page, and no request. -/
abbrev clearing (p : Nat) : List Zone := [just (.port p), portRegs, ofecs, ifecs, hsls, highs]

theorem portClear_touches (s : State) (hs : lanesFit s p) : Frame (clearing p) s (s.portClear p) := by
  have hfresh := portFresh_touches hp s
  have hlanes : ∀ n ∈ (portFresh s p).portLanes p, n < 8 := hfresh.lanesFit hp (k := 8) (j := 8) (q := p) (by simp) hs
  have hh (u : State) (off : Nat) (h : off < 0x1000 ∧ off ≠ 0x10 := by decide) : Frame (clearing p) u (u.wr (pHSL (s.firstHost p) + off) 0) :=
    .wrIn (.refl _ u) hslAt 0 (hslAt_page (firstHost_lt s hp) h)
  have ht (a : Nat) : pPERF 0 ≤ pTIME + a + 8 * p := by simp only [pPERF, pTIME]; omega
  rw [portClear_eq]
  refine .wrHigh (.wrHigh (.next (.next (.next (.next (.foldl ?_ _ fun u n hn => ?_) (hh ..)) (hh ..)) (hh ..)) (hh ..)) _ (ht _)) _ (ht _)
  · exact .next (hfresh.mono (by simp)) (clearOfec_touches hp _)
  · exact (clearIfec_touches (hlanes n hn) u).mono (by simp)

end

/-! ## A port starts and stops -/

/-- A fold that comes to `n` once: what came before, and what comes after, stays within the footprint of the others' steps. -/
theorem foldl_once {l : List Nat} (hl : l.Nodup) {n : Nat} (hn : n ∈ l) {f : State → Nat → State} {z : List Zone}
    (hf : ∀ u, ∀ x ∈ l, x ≠ n → Frame z u (f u x)) (s : State) : ∃ u, Frame z s u ∧ Frame z (f u n) (l.foldl f s) := by
  obtain ⟨a, b, rfl⟩ := List.append_of_mem hn
  obtain ⟨-, hb, hdis⟩ := List.nodup_append.1 hl
  have hnb : n ∉ b := (List.nodup_cons.1 hb).1
  rw [List.foldl_append, List.foldl_cons]
  refine ⟨a.foldl f s, .foldl (.refl _ s) a fun u x hx => hf u x (by simp [hx]) ?_, .foldl (.refl _ _) b fun u x hx => hf u x (by simp [hx]) ?_⟩
  · exact hdis x hx n (by simp)
  · exact fun h => hnb (h ▸ hx)

theorem portLanes_nodup (s : State) (p : Nat) : (s.portLanes p).Nodup := List.nodup_range.map fun _ _ h => Nat.add_right_cancel h

theorem all_range_congr {m : Nat} {f g : Nat → Bool} (h : ∀ i < m, f i = g i) : (List.range m).all f = (List.range m).all g := by
  rw [Bool.eq_iff_iff]
  simp +contextual [h]

/-- A table that may be loaded depends on RS_CTRL, the staging copy and what has been written of it alone (R54). -/
theorem rsTableOk_congr {s t : State} {n : Nat} (hw : (t.lrxSt n).written = (s.lrxSt n).written)
    (hrd : ∀ off, off = LRX.RS_CTRL ∨ LRX.RS_TAB ≤ off ∧ off < 0x1000 → t.rd (pLRX n + off) = s.rd (pLRX n + off)) :
    t.rsTableOk n = s.rsTableOk n := by
  have hcoef : ∀ i < 64, ∀ k < 16, t.rsCoef n i k = s.rsCoef n i k := fun i hi k hk => by
    unfold State.rsCoef State.rsWord
    rw [Nat.add_assoc, hrd _ (.inr (by simp only [LRX.RS_TAB]; omega))]
  have hctl : t.bit (pLRX n) LRX.RS_CTRL.TAB_DEFAULT = s.bit (pLRX n) LRX.RS_CTRL.TAB_DEFAULT := bit_congr (hrd _ (.inl rfl))
  have htaps : ((List.range 63).all fun i => (List.range 16).all fun k => t.rsCoef n (i + 1) k == t.rsCoef n (63 - i) (15 - k)) =
      (List.range 63).all fun i => (List.range 16).all fun k => s.rsCoef n (i + 1) k == s.rsCoef n (63 - i) (15 - k) :=
    all_range_congr fun i hi => all_range_congr fun k hk => by rw [hcoef (i + 1) (by omega) k hk, hcoef (63 - i) (by omega) (15 - k) (by omega)]
  have hfirst : ((List.range 15).all fun k => t.rsCoef n 0 k == t.rsCoef n 0 (14 - k)) =
      (List.range 15).all fun k => s.rsCoef n 0 k == s.rsCoef n 0 (14 - k) :=
    all_range_congr fun k hk => by rw [hcoef 0 (by decide) k (by omega), hcoef 0 (by decide) (14 - k) (by omega)]
  unfold State.rsTableOk
  rw [hw, hctl, htaps, hfirst, hcoef 0 (by decide) 15 (by decide)]

section
variable {p : Nat} (hp : p < 8)
include hp

/-- The transmit lanes of a port and its host lanes, as it starts. -/
def othersStart (s : State) (p : Nat) : State :=
  let s := (s.portLanes p).foldl (fun s n => (s.modLtx n fun t => { t with sq := false }).settleTx n) s
  let ms := (List.range s.hosts).filter (s.portHasHost p)
  ms.foldl (fun s m => (s.when (s.rxPort m == some p) (fun s => s.startHostRx m)).settleHostTx m) s

omit hp in
theorem portRun_eq (s : State) : s.portRun p = if s.portOn p && s.canRun && !s.portUnlocked p then
    othersStart ((s.modPort p fun x => { x with run := true }).portLanes p |>.foldl State.startRx (s.modPort p fun x => { x with run := true })) p
  else s := rfl

omit hp in
theorem othersStart_settling (s : State) (hs : lanesFit s p) : Frame (settling 8) s (othersStart s p) := by
  have hstay (u : State) : txStays u 8 := fun h => absurd h (by decide)
  unfold othersStart
  refine .foldl (.foldl (.refl _ s) _ fun u n hn => ?_) _ fun u m hm => ?_
  · exact .next (.modLtx (.refl _ u) _ _) (settleTx_settling _ (hs n hn) (hstay _))
  · have hm16 : m < 16 := lt_of_lt_of_le (List.mem_range.1 (List.mem_filter.1 hm).1) (hosts_le _)
    exact .next (.when (.refl _ u) _ fun _ => (startHostRx_touches hm16 u).mono (by simp)) (settleHostTx_settling _ hm16 8)

omit hp in
/-- The transmit lanes of a port settle. -/
theorem settleTxs_settling (s : State) (hs : lanesFit s p) : Frame (settling 8) s ((s.portLanes p).foldl State.settleTx s) :=
  .foldl (.refl _ s) _ fun u n hn => settleTx_settling u (hs n hn) fun h => absurd h (by decide)

/-- Whether a port may run. -/
def mayRun (s : State) (p : Nat) : Prop := s.portOn p = true ∧ s.canRun = true ∧ s.portUnlocked p = false

omit hp in
theorem Frame.canRun {s t : State} {q k j : Nat} {l : List Zone} (h : Frame l s t) (hl : l ⊆ enabling q k j) : t.canRun = s.canRun := by
  unfold State.canRun
  rw [h.noon hl, h.refOk hl]

theorem Frame.portUnlocked {s t : State} {q k j : Nat} {l : List Zone} (h : Frame l s t) (hl : l ⊆ enabling q k j) :
    t.portUnlocked p = s.portUnlocked p := by
  unfold State.portUnlocked
  rw [h.portLanes hl hp, ((h.mono hl).fixed (by simp)).unlocked]

theorem Frame.mayRun {s t : State} {q k j : Nat} {l : List Zone} (h : Frame l s t) (hl : l ⊆ porting q k j) (hs : mayRun s p) : mayRun t p := by
  obtain ⟨hon, hcan, hlock⟩ := hs
  have hl' : l ⊆ enabling q k j := List.subset_cons_of_subset _ hl
  exact ⟨(h.portOn hl hp).trans hon, (h.canRun hl').trans hcan, (h.portUnlocked hp hl').trans hlock⟩

/-- A port that may run starts each of its receive lanes once, and runs. -/
theorem portRun_starts (s : State) (hs : lanesFit s p) {n : Nat} (hn : n ∈ s.portLanes p)
    (hrun : mayRun s p) :
    ∃ v, Frame (just (.port p) :: starting n) s v ∧ (v.portSt p).run = true ∧ Frame (starting n) (v.startRx n) (s.portRun p) := by
  let u := s.modPort p fun x => { x with run := true }
  obtain ⟨hon, hcan, hlock⟩ := hrun
  have hu : Frame [just (.port p)] s u := .modRun (.refl _ s) _ _
  have hlanes : ∀ x ∈ u.portLanes p, x < 8 := hs
  obtain ⟨v, hv, hafter⟩ := foldl_once (portLanes_nodup u p) hn (fun w x hx hne => startRx_starting (hlanes x hx) hne w) u
  have hall : Frame (starting 8) u ((u.portLanes p).foldl State.startRx u) :=
    .foldl (.refl _ u) _ fun w x hx => startRx_starting (hlanes x hx) (by have := hlanes x hx; omega) w
  have hfit : lanesFit ((u.portLanes p).foldl State.startRx u) p :=
    (hall.ofStarting p).lanesFit hp (List.subset_cons_self ..) hs
  refine ⟨v, (hu.mono (by simp)).next hv, ?_, ?_⟩
  · rw [(hv.same (.port p) (by simp)).1, portSt_modPort, if_pos rfl]
  · rw [portRun_eq, if_pos (by simp [hon, hcan, hlock])]
    exact hafter.next (othersStart_settling _ hfit)

/-- Without the conditions of a start, the port is cleared and no more. -/
theorem portRun_porting (s : State) (hs : lanesFit s p) : Frame (porting p 8 8) s (s.portRun p) := by
  rw [portRun_eq]
  split
  · have hlanes : ∀ x ∈ (s.modPort p fun x => { x with run := true }).portLanes p, x < 8 := hs
    have hall := Frame.foldl (.refl (starting 8) (s.modPort p fun x => { x with run := true })) _ fun w x hx =>
      startRx_starting (hlanes x hx) (by have := hlanes x hx; omega) w
    have hrun : Frame (porting p 8 8) s _ := .trans (.modRun (.refl _ s) _ _) (hall.ofStarting p)
    exact hrun.next (othersStart_settling _ (hrun.lanesFit hp (List.subset_cons_self ..) hs))
  · exact .refl _ s

theorem portStart_porting (s : State) (hs : lanesFit s p) : Frame (porting p 8 8) s (s.portStart p) := by
  have hclear := (portClear_touches hp s hs)
  have hrun : Frame (porting p 8 8) s ((s.portClear p).portRun p) :=
    (hclear.mono (by simp)).trans (portRun_porting hp _ (hclear.lanesFit hp (q := p) (k := 8) (j := 8) (by simp) hs))
  exact hrun.next (settleTxs_settling _ (hrun.lanesFit hp (List.subset_cons_self ..) hs))

omit hp in
theorem Frame.tableOk {s t : State} {q n j : Nat} {l : List Zone} (h : Frame l s t) (hl : l ⊆ enabling q n j) (hn : n < 8) :
    t.rsTableOk n = s.rsTableOk n :=
  rsTableOk_congr (((h.mono hl).fixed (by simp)).written n) fun off ho => h.laneRd hl hn (by
    have : LRX.RS_CTRL = 0x84 := rfl
    have : LRX.RS_TAB = 0x800 := rfl
    omega)

omit hp in
theorem self_mem_portLanes (s : State) : p ∈ s.portLanes p := by
  have h : 0 < s.portK p := Nat.two_pow_pos _
  simpa [State.portLanes] using h

/-- A port that may run: its receive lanes are in SIGNAL with count 0, where their tables may be loaded (R54, R64, R170). -/
theorem portStart_starts (s : State) (hs : lanesFit s p) (hrun : mayRun s p) :
    ((s.portStart p).portSt p).run = true ∧ ∀ n ∈ s.portLanes p, s.rsTableOk n = true →
      (s.portStart p).lnState n = 1 ∧ (s.portStart p).rd (pLRX n + LRX.FRAME_CNT) = 0 := by
  have hclear := portClear_touches hp s hs
  have hstrict : clearing p ⊆ porting p 8 8 := by simp
  have hsub (k j : Nat) : clearing p ⊆ enabling p k j := by simp
  have hlanes := hclear.portLanes (hsub 8 8) hp
  have hfit : lanesFit (s.portClear p) p := hclear.lanesFit hp (hsub 8 8) hs
  have hend : lanesFit ((s.portClear p).portRun p) p := (portRun_porting hp _ hfit).lanesFit hp (List.subset_cons_self ..) hfit
  have lane {n : Nat} (hn : n ∈ s.portLanes p) : ∃ v, Frame (just (.port p) :: starting n) (s.portClear p) v ∧ (v.portSt p).run = true
      ∧ Frame (starting n) (v.startRx n) (s.portStart p) := by
    obtain ⟨v, hv, hr, hafter⟩ := portRun_starts hp _ hfit (hlanes ▸ hn) (hclear.mayRun hp hstrict hrun)
    exact ⟨v, hv, hr, hafter.next (settleTxs_settling _ hend)⟩
  refine ⟨?_, fun n hn hok => ?_⟩
  · obtain ⟨v, -, hr, hafter⟩ := lane (self_mem_portLanes s)
    rw [(hafter.same (.port p) (by simp)).1, ((startRx_starting hp (k := 8) (by omega) v).same (.port p) (by simp)).1, hr]
  · have hn8 := hs n hn
    obtain ⟨v, hv, -, hafter⟩ := lane hn
    have hv' : Frame (porting p n 8) (s.portClear p) v := hv.cover (by
      have := pstats_le_portRegs PORT.PSTAT.DESKEWED
      simp [this])
    have htable : v.rsTableOk n = true := by rw [hv'.tableOk (List.subset_cons_self ..) hn8, hclear.tableOk (hsub n 8) hn8, hok]
    obtain ⟨hstate, hcount⟩ := startRx_signal hn8 v htable
    have hkept {off : Nat} (ho : off < 0x1000 ∧ off ≠ 0x10) := (hafter.ofStarting p).laneRd (List.subset_cons_self ..) hn8 ho
    exact ⟨(fld_congr (f := LRX.LN_STAT.STATE) (hkept (by decide))).trans hstate, (hkept (by decide)).trans hcount⟩

end

/-! ### A port stops (R35, R36) -/

section
variable {p : Nat} (hp : p < 8)
include hp

/-- A transmit lane of a port that stops: it waits to leave ACTIVE. -/
def txHalted (s : State) (n : Nat) : State :=
  (s.discard (pLTX n) 0x1F).modLtx n fun t => { t with sq := false, stop := t.stop || s.txState n == 3 }

/-- The line lanes of a port stop. -/
def linesHalted (s : State) (p : Nat) : State :=
  let s := (s.portLanes p).foldl State.stopRx s
  (s.portLanes p).foldl txHalted s

/-- The port runs no more. -/
def portIdle (s : State) (p : Nat) : State := s.modPort p fun x => { x with run := false, lb := 0, lbPend := none }

/-- What a port that runs no more shows: the fills, and the loopback. -/
def haltShown (s : State) (p : Nat) : State :=
  let s := s.when (s.portOn p) fun s => s.faultToHost p
  let s := s.when (s.bit (pPART p) PART.PC_STAT.RLB_ACTIVE) fun s =>
    ((s.setFld (pPART p) PART.PC_STAT.RLB_ACTIVE 0).setFld (pHSL (s.firstHost p)) HSL.PORT_LB.MODE 0).raise PART.evRLB_CHANGE p
  let on := if s.portOn p then 1 else 0
  (s.setFld pPORT (psf p PORT.PSTAT.LF_HOST) on).setFld pPORT (psf p PORT.PSTAT.LF_LINE) on

/-- The end of a halt, once DESKEWED is clear. -/
def haltLatched (s : State) (p : Nat) : State :=
  let s := s.cwLock p OFEC.OF_STAT.RX_CW_LOCK false
  s.when (s.bit (pOFEC p) OFEC.OF_STAT.SNAP_PEND) (fun s => s.latchOfec p)

/-- The host lanes of a port stop. -/
def hostsHalted (s : State) (p : Nat) (ms mt : List Nat) : State :=
  let s := ms.foldl State.stopHostRx s
  let s := mt.foldl (fun s m => (s.discard (pHSL m) 0x1).modHsl m fun x => { x with stop := x.stop || s.htx m == 2 }) s
  (s.setFld pPORT (psf p PORT.PSTAT.HOST_UP) 0).cwLock p OFEC.OF_STAT.TX_CW_LOCK false

/-- A port that stops, up to DESKEWED. -/
def portDown (s : State) (p : Nat) : State := haltShown (portIdle (linesHalted s p) p) p

omit hp in
theorem portStop_eq (s : State) : ∃ ms mt : List Nat, (∀ m ∈ ms, m < 16) ∧ (∀ m ∈ mt, m < 16) ∧ s.portStop p =
    hostsHalted (haltLatched ((portDown s p).setFld pPORT (psf p PORT.PSTAT.DESKEWED) 0) p) p ms mt :=
  ⟨_, _, fun _ h => lt_of_lt_of_le (List.mem_range.1 (List.mem_filter.1 h).1) (hosts_le s),
    fun _ h => lt_of_lt_of_le (List.mem_range.1 (List.mem_filter.1 h).1) (hosts_le s), rfl⟩

omit hp in
theorem txHalted_touches {n : Nat} (hn : n < 8) (s : State) : Frame [ltxs, events, highs, asks, just .cal, just (.stop n)] s (txHalted s n) :=
  .modStop ((discardLtx_touches s hn 0x1F).mono (by simp)) _ _

omit hp in
theorem txHalted_stopping {n j : Nat} (hn : n < 8) (hj : n ≠ j) (s : State) (k : Nat) : Frame (stopping p k j) s (txHalted s n) :=
  (txHalted_touches hn s).cover (by
    have h : just (.stop n) ≤ stops j := fun y hy => by subst hy; exact hj
    simp [h])

theorem haltShown_touches (s : State) : Frame [portRegs, just .hsl, hsls, highs, events] s (haltShown s p) := by
  have hpart : pPERF 0 ≤ pPART p := by simp only [pPERF, pPART]; omega
  have hps (u : State) (f : Fld) (v : Nat) (hf : f.off = PORT.PSTAT := by rfl) :
      Frame [portRegs, just .hsl, hsls, highs, events] u (u.setFld pPORT (psf p f) v) :=
    .setIn (.refl _ u) portAt v (by
      simp only [psf, fldAt, hf, ← Nat.add_assoc]
      exact portAt_reg hp)
  unfold haltShown
  refine .next (.next (.when (.when (.refl _ s) _ fun _ => ?_) _ fun _ => ?_) (hps ..)) (hps ..)
  · exact (sendHost_touches ..).mono (by simp)
  · exact .raise (.setHsl (.setHigh (.refl _ _) _ hpart) _ (firstHost_lt _ hp)) _ _

/-- What a port's stop touches once DESKEWED is clear. -/
abbrev undeskewed : List Zone := [hsls, just .hsl, pstats PORT.PSTAT.HOST_UP, ofecs, events, highs, asks, just .cal]

theorem haltLatched_touches (s : State) : Frame undeskewed s (haltLatched s p) := by
  unfold haltLatched
  exact .when (.next (.refl _ s) (cwLock_touches s hp _ _)) _ fun _ => (latchOfec_touches _ hp).mono (by simp)

theorem hostsHalted_touches (s : State) {ms mt : List Nat} (hms : ∀ m ∈ ms, m < 16) (hmt : ∀ m ∈ mt, m < 16) :
    Frame undeskewed s (hostsHalted s p ms mt) := by
  unfold hostsHalted
  exact .next (.setPstat (.foldl (.foldl (.refl _ s) _ fun u m hm => (stopHostRx_touches (hms m hm) u).mono (by simp)) _ fun u m hm =>
    .modHsl ((discardHsl_touches u (hmt m hm) 1).mono (by simp)) _ _) _ hp) (cwLock_touches _ hp _ _)

theorem linesHalted_stopping (s : State) (hs : lanesFit s p) : Frame (stopping p 8 8) s (linesHalted s p) := by
  have hrx : Frame (stopping p 8 8) s ((s.portLanes p).foldl State.stopRx s) :=
    .foldl (.refl _ s) _ fun u n hn => stopRx_stopping (hs n hn) (by have := hs n hn; omega) p 8 u
  have hfit := hrx.ofStopping.lanesFit hp (List.subset_cons_self ..) hs
  exact .foldl hrx _ fun u n hn => txHalted_stopping (hfit n hn) (by have := hfit n hn; omega) u 8

/-- The line lanes of a port stop, each once. -/
theorem linesHalted_stops (s : State) (hs : lanesFit s p) {n : Nat} (hn : n ∈ s.portLanes p) :
    ∃ u v, Frame (stopping p n n) s u ∧ Frame (stopping p n n) (u.stopRx n) v ∧ Frame (stopping p n n) (txHalted v n) (linesHalted s p) := by
  let w := (s.portLanes p).foldl State.stopRx s
  have hw : Frame (stopping p 8 8) s w := .foldl (.refl _ s) _ fun u x hx => stopRx_stopping (hs x hx) (by have := hs x hx; omega) p 8 u
  have hlanes : w.portLanes p = s.portLanes p := hw.ofStopping.portLanes (List.subset_cons_self ..) hp
  have hfit : lanesFit w p := hw.ofStopping.lanesFit hp (List.subset_cons_self ..) hs
  obtain ⟨u, hu, hrx⟩ := foldl_once (portLanes_nodup s p) hn (fun u x hx hne => stopRx_stopping (hs x hx) hne p n u) s
  obtain ⟨v, hv, htx⟩ := foldl_once (portLanes_nodup w p) (hlanes ▸ hn) (fun u x hx hne => txHalted_stopping (p := p) (hfit x hx) hne u n) w
  exact ⟨u, v, hu, hrx.trans hv, htx⟩

/-- The rest of a port's stop. -/
theorem portStop_rest (s : State) (k j : Nat) :
    ∃ u, Frame [portRegs, just .hsl, hsls, highs, events] (portIdle (linesHalted s p) p) u
      ∧ Frame undeskewed (u.setFld pPORT (psf p PORT.PSTAT.DESKEWED) 0) (s.portStop p) ∧ Frame (stopping p k j) (linesHalted s p) (s.portStop p) := by
  obtain ⟨ms, mt, hms, hmt, he⟩ := portStop_eq (p := p) s
  have hshown := haltShown_touches hp (portIdle (linesHalted s p) p)
  have hend := (haltLatched_touches hp ((portDown s p).setFld pPORT (psf p PORT.PSTAT.DESKEWED) 0)).next (hostsHalted_touches hp _ hms hmt)
  rw [← he] at hend
  refine ⟨_, hshown, hend, ?_⟩
  have hidle : Frame (stopping p k j) (linesHalted s p) (portIdle (linesHalted s p) p) := .modRun (.refl _ _) _ _
  exact ((hidle.next hshown).setIn portAt 0 (by
    simp only [psf, fldAt, ← Nat.add_assoc]
    exact portAt_reg hp)).trans (hend.cover (by simp [pstats_le_portRegs]))

theorem portStop_stopping (s : State) (hs : lanesFit s p) : Frame (stopping p 8 8) s (s.portStop p) := by
  obtain ⟨-, -, -, hrest⟩ := portStop_rest hp s 8 8
  exact (linesHalted_stopping hp s hs).trans hrest

/-- A port that has stopped runs no more and is not deskewed. -/
theorem portStop_idle (s : State) : ((s.portStop p).portSt p).run = false ∧ (s.portStop p).bit pPORT (psf p PORT.PSTAT.DESKEWED) = false := by
  obtain ⟨u, hu, hend, -⟩ := portStop_rest hp s 8 8
  refine ⟨?_, (hend.bit fun i hlo hhi => ?_).trans (bit_setFld_zero u _ _ (show 8 + 1 ≤ 32 by decide))⟩
  · rw [(hend.same (.port p) (by simp)).1]
    refine (hu.same (.port p) (by simp)).1.trans ?_
    unfold portIdle
    rw [portSt_modPort, if_pos rfl]
  · have hlo : 8 ≤ i := hlo
    simp [ofecAt, hslAt, HDR.EVT_RAW, psf, fldAt]
    simp only [pPORT, pHSL, pPERF]
    omega

/-- The line lanes of a port that has stopped: DOWN with cause 6, an ACTIVE transmitter waiting to stop (R36, R73, R99). -/
theorem portStop_lanes (s : State) (hs : lanesFit s p) {n : Nat} (hn : n ∈ s.portLanes p) :
    (s.portStop p).lnState n = 0 ∧ (s.lnState n ≠ 0 → (s.portStop p).fld (pLRX n) LRX.LN_STAT.LOSS_CAUSE = 6)
      ∧ (s.txState n = 3 → (s.portStop p).txState n = 3 ∧ ((s.portStop p).ltxSt n).stop = true) := by
  have hn8 := hs n hn
  obtain ⟨u, v, hu, hrx, htx⟩ := linesHalted_stops hp s hs hn
  obtain ⟨-, -, -, hrest⟩ := portStop_rest hp s n n
  have hend := htx.trans hrest
  have hsub {k j : Nat} : porting p k j ⊆ enabling p k j := List.subset_cons_self ..
  have hpage : (s.portStop p).rd (pLRX n + LRX.LN_STAT) = (u.stopRx n).rd (pLRX n + LRX.LN_STAT) :=
    (hend.ofStopping.laneRd hsub hn8).trans (((txHalted_stopping (p := p) (j := 8) hn8 (by omega) v n).ofStopping.laneRd hsub hn8).trans
      (hrx.ofStopping.laneRd hsub hn8))
  obtain ⟨hdown, hcause⟩ := stopRx_down hn8 u
  have hu0 : u.lnState n = s.lnState n := fld_congr (f := LRX.LN_STAT.STATE) (hu.ofStopping.laneRd hsub hn8)
  refine ⟨(fld_congr (f := LRX.LN_STAT.STATE) hpage).trans hdown, fun h => ?_, fun h => ?_⟩
  · exact (fld_congr (f := LRX.LN_STAT.LOSS_CAUSE) hpage).trans (hcause (by rwa [hu0]))
  · have hv : v.txState n = 3 := by
      rw [hrx.ofStopping.txState hsub hn8, (stopRx_stopping hn8 (k := 8) (by omega) p n u).ofStopping.txState hsub hn8,
        hu.ofStopping.txState hsub hn8, h]
    have hkept : (txHalted v n).txState n = v.txState n := (txHalted_touches hn8 v).fld fun i _ _ => by
      simp [ltxAt, LTX.TX_STAT, HDR.EVT_RAW]
      simp only [pLTX]
      omega
    have hstop : ((txHalted v n).ltxSt n).stop = true := by
      unfold txHalted
      rw [ltxSt_modLtx, if_pos rfl, hv]
      simp
    exact ⟨(hend.ofStopping.txState hsub hn8).trans (hkept.trans hv), (hend.same (.stop n) (by simp)).trans hstop⟩

end

/-! ## Writes of PORT_EN and PORT_CMD (R29, R170, R196) -/

/-- What a change of a port sets off, with no visit under way and no self-test, is its events. -/
theorem settled_watch {s u : State} {p k j : Nat} {l : List Zone} (hq : settled s) (h : Frame l s u) (hl : l ⊆ enabling p k j) :
    Frame [events] u (watch s u) :=
  watch_settled s (((h.mono hl).fixed (by simp)).bist hq.1) fun w hw => (h.phases hl hw).trans (hq.2 w hw).1

/-- The lanes of a port that fits are among the eight (R27). -/
theorem lanesFit_of_portFits {s : State} {p : Nat} (h : s.portFits p = true) : lanesFit s p := fun n hn => by
  have hlines := lines_le s
  unfold State.portFits at h
  unfold State.portLanes at hn
  simp only [Bool.and_eq_true, decide_eq_true_eq, List.mem_map, List.mem_range] at h hn
  omega

/-- A port goes DOWN by being disabled: PORT_DOWN (R198). -/
theorem watch_portDown {s0 s : State} {p : Nat} (hp : p < 8) (hb : s.boot.bist = none) (hph : ∀ u < 16, s.phase u = 0)
    (hup : s0.portState p = 2) (hoff : s.portOn p = false) : raised (watch s0 s) (evAt PORT.evPORT_DOWN p) 0 := by
  obtain ⟨u, hu, hafter⟩ := foldl_once (z := [events]) List.nodup_range (List.mem_range.2 hp) (fun w x _ _ => portEvents_touches s0 w x) s
  have hwatch : watch s0 s = (List.range 8).foldl (portEvents s0) s := by
    have hloop : s.loopStarted = false := by
      unfold State.loopStarted
      rw [hb]
    have hframe : Frame [events] s (s.each (List.range 8) (portEvents s0)) := .each (.refl _ s) _ fun w x _ => portEvents_touches s0 w x
    rw [watch_eq, hloop, when_false, pauses_settled fun w hw => (hframe.phase hw).trans (hph w hw)]
    rfl
  have hdown : u.portState p = 0 := by
    unfold State.portState
    rw [hu.portOn (p := p) (k := 8) (j := 8) (by simp) hp, hoff]
    rfl
  rw [hwatch]
  refine hafter.raised ?_ (by simp)
  unfold portEvents
  dsimp only
  rw [hup, hdown]
  have hraised : raised (u.raise (evAt PORT.evPORT_DOWN p) 0) (evAt PORT.evPORT_DOWN p) 0 :=
    raised_raiseBy u _ 0 0 (by simp only [evAt]; omega)
  exact (Frame.when (.refl [events] _) _ fun _ => .raise (.refl _ _) _ _).raised hraised (by simp)

/-- A port that starts, once every lane has settled. -/
theorem portStart_runs {s u : State} {p : Nat} {l : List Zone} (hp : p < 8) (hq : settled s) (h : Frame l s u) (hl : l ⊆ enabling p 8 8)
    (hs : lanesFit u p) (hon : u.portOn p = true) :
    let t := watch s (u.portStart p).settleLanes
    t.portOn p = true ∧ t.pending = s.pending ∧ (u.canRun = true → u.portUnlocked p = false → (t.portSt p).run = true
      ∧ ∀ n ∈ u.portLanes p, u.rsTableOk n = true → t.lnState n = 1 ∧ t.rd (pLRX n + LRX.FRAME_CNT) = 0) := by
  intro t
  have hstart := portStart_porting hp u hs
  have hset (k : Nat) : Frame (porting p k 8) (u.portStart p) (u.portStart p).settleLanes :=
    (settleLanes_settling _ (k := 8) fun h => absurd h (by decide)).mono (by simp)
  have hall : Frame (enabling p 8 8) s (u.portStart p).settleLanes :=
    ((h.mono hl).next hstart (List.subset_cons_self ..)).next (hset 8) (List.subset_cons_self ..)
  have hwatch : Frame [events] (u.portStart p).settleLanes t := settled_watch hq hall (List.Subset.refl _)
  have hend (k : Nat) : Frame (porting p k 8) (u.portStart p) t := (hset k).next hwatch
  refine ⟨?_, ?_, fun hcan hlock => ?_⟩
  · rw [(hend 8).portOn (List.Subset.refl _) hp, hstart.portOn (List.Subset.refl _) hp, hon]
  · exact ((hwatch.fixed (by simp)).pending).trans (hall.fixed (by simp)).pending
  · obtain ⟨hrun, hlanes⟩ := portStart_starts hp u hs ⟨hon, hcan, hlock⟩
    refine ⟨?_, fun n hn hok => ?_⟩
    · have hport : Frame (events :: settling 8) (u.portStart p) t :=
        ((settleLanes_settling _ (k := 8) fun h => absurd h (by decide)).mono (by simp)).next hwatch
      exact (hport.same (.port p) (by simp)).1.trans hrun
    · obtain ⟨hstate, hcount⟩ := hlanes n hn hok
      have hkept {off : Nat} (ho : off < 0x1000 ∧ off ≠ 0x10) := (hend n).laneRd (List.subset_cons_self ..) (hs n hn) ho
      exact ⟨(fld_congr (f := LRX.LN_STAT.STATE) (hkept (by decide))).trans hstate, (hkept (by decide)).trans hcount⟩

/-- PORT_EN as a write of one port's bit leaves it. -/
theorem portOn_wr (s : State) (p : Nat) (b : Bool) {q : Nat} (hq : q < 8) :
    (s.wr (pPORT + PORT.PORT_EN) (s.portEnWord p b)).portOn q = if q = p then s.portDefined p && b else s.portOn q := by
  have hdef : (s.wr (pPORT + PORT.PORT_EN) (s.portEnWord p b)).portDefined q = s.portDefined q :=
    bit_congr (rd_wr_ne _ _ _ _ (by simp only [fldAt, pPORT, PORT.PORT_EN]; omega))
  unfold State.portOn State.portBit State.portEnWord
  unfold State.portEnWord at hdef
  rw [hdef, rd_wr_self, getLsbD_putBits]
  by_cases h : q = p
  · subst h
    rw [if_pos ⟨le_rfl, by omega, by omega⟩, if_pos rfl]
    cases b <;> simp
  · rw [if_neg (by omega), if_neg h]

theorem filter_range_one {p : Nat} (hp : p < 8) {f : Nat → Bool} (hf : ∀ q < 8, f q = decide (q = p)) : (List.range 8).filter f = [p] := by
  rw [List.filter_congr fun q hq => hf q (List.mem_range.1 hq)]
  exact (by decide : ∀ p : Fin 8, (List.range 8).filter (fun q => decide (q = p.val)) = [p.val]) ⟨p, hp⟩

theorem filter_range_none {f : Nat → Bool} (hf : ∀ q < 8, f q = false) : (List.range 8).filter f = [] :=
  List.filter_eq_nil_iff.2 fun q hq => by simp [hf q (List.mem_range.1 hq)]

section
variable {s : State} {p : Nat} (hp : p < 8)
include hp

/-- Setting the bit of a defined port enables it: one that fits starts, any other is a host error (R29, R170). -/
theorem effPortEn_enables (hdef : s.portDefined p = true) (hoff : s.portOn p = false) :
    let u := s.wr (pPORT + PORT.PORT_EN) (s.portEnWord p true)
    effPortEn (s.portEnWord p true) s = if u.portValid p then .ok (watch s (u.portStart p).settleLanes)
      else .ok ((watch s u.settleLanes).unsettle (u.portErrorPages [p])) := by
  intro u
  have hon (q : Nat) (hq : q < 8) : u.portOn q = if q = p then true else s.portOn q := by
    rw [show u.portOn q = _ from portOn_wr s p true hq, hdef]
    rfl
  have hup : (List.range 8).filter (fun q => u.portOn q && !s.portOn q) = [p] := filter_range_one hp fun q hq => by
    rw [hon q hq]
    by_cases h : q = p <;> simp [h, hoff]
  have hdown : (List.range 8).filter (fun q => s.portOn q && !u.portOn q) = [] := filter_range_none fun q hq => by
    rw [hon q hq]
    by_cases h : q = p <;> simp [h]
  show portChange s u = _
  unfold portChange
  rw [hup, hdown]
  cases h : u.portValid p <;> simp [h, hostError]

/-- Clearing the bit of an enabled port stops it (R36, R170). -/
theorem effPortEn_disables (hon : s.portOn p = true) :
    effPortEn (s.portEnWord p false) s =
      .ok (watch s ((s.wr (pPORT + PORT.PORT_EN) (s.portEnWord p false)).portStop p).settleLanes) := by
  let u := s.wr (pPORT + PORT.PORT_EN) (s.portEnWord p false)
  have hafter (q : Nat) (hq : q < 8) : u.portOn q = if q = p then false else s.portOn q := by
    rw [show u.portOn q = _ from portOn_wr s p false hq, Bool.and_false]
  have hup : (List.range 8).filter (fun q => u.portOn q && !s.portOn q) = [] := filter_range_none fun q hq => by
    rw [hafter q hq]
    by_cases h : q = p <;> simp [h]
  have hdown : (List.range 8).filter (fun q => s.portOn q && !u.portOn q) = [p] := filter_range_one hp fun q hq => by
    rw [hafter q hq]
    by_cases h : q = p <;> simp [h, hon]
  show portChange s u = _
  unfold portChange
  rw [hup, hdown]
  rfl

/-- PORT_CMD resets an enabled port (R196). -/
theorem effPortCmd_resets (hon : s.portOn p = true) (hv : s.portValid p = true) :
    effPortCmd (BitVec.ofNat 32 (2 ^ p)) s = .ok (watch s ((s.portStop p).portStart p).settleLanes) := by
  have hl : (List.range 8).filter (fun q => (BitVec.ofNat 32 (2 ^ p)).getLsbD q && s.portOn q) = [p] := filter_range_one hp fun q hq => by
    rw [BitVec.getLsbD_ofNat, Nat.testBit_two_pow]
    by_cases h : q = p
    · subst h
      simp [hon]
      omega
    · simp [h, Ne.symm h]
  unfold effPortCmd
  rw [hl]
  simp [hv, State.portRestart, hon]

end

/-! ## A port is enabled, disabled and reset (R35, R36, R170, R196) -/

/-- A write of the page PORT that reaches its register and is taken: its requester is told, and no more. -/
theorem portWrite_taken {s t : State} {r : Requester} {off : Nat} {v : Word} {eff : Word → State → Out} (h : reaches s r 14 0 off v)
    (he : eff v s = .ok t) : ∃ t', txn r (pPORT + off) v (eff v) s = .next t' ∧ Frame [] t t' := by
  obtain ⟨x, hx⟩ := reportOk_eq t r
  refine ⟨t.reportOk r, (txn_reaches s r 14 0 off v (eff v) h (by decide)).trans (by rw [he, finish_ok]), ?_⟩
  rw [hx]
  exact .step (.refl _ t)

section
variable {s : State} {r : Requester} {p : Fin 8} (hq : settled s) (hfit : s.portFits p = true)
include hq

/-- What a port that starts comes to, as the state `u` from which it starts has its lanes. -/
def portRuns (u t : State) (p : Nat) : Prop :=
  t.portOn p = true ∧ (u.canRun = true → u.portUnlocked p = false → (t.portSt p).run = true
    ∧ ∀ n ∈ u.portLanes p, u.rsTableOk n = true → t.lnState n = 1 ∧ t.rd (pLRX n + LRX.FRAME_CNT) = 0)

omit hq in
/-- The same for a state before it whose lanes, tables and clocks are those of `u`. -/
theorem portRuns_of_before {u t : State} {p : Nat} (h : portRuns u t p) (hcan : u.canRun = s.canRun) (hlock : u.portUnlocked p = s.portUnlocked p)
    (hlanes : u.portLanes p = s.portLanes p) (htab : ∀ n ∈ s.portLanes p, u.rsTableOk n = s.rsTableOk n) : portRuns s t p := by
  obtain ⟨hon, hrun⟩ := h
  refine ⟨hon, fun hc hl => ?_⟩
  obtain ⟨hr, hn⟩ := hrun (hcan.trans hc) (hlock.trans hl)
  exact ⟨hr, fun n hn' hok => hn n (hlanes ▸ hn') ((htab n hn').trans hok)⟩

omit hq in
theorem portRuns_of_after {u t t' : State} {p : Nat} (hp : p < 8) (h : portRuns u t p) (ht : Frame [] t t') : portRuns u t' p := by
  obtain ⟨hon, hrun⟩ := h
  refine ⟨(ht.portOn (p := 0) (k := 8) (j := 8) (by simp) hp).trans hon, fun hc hl => ?_⟩
  obtain ⟨hr, hn⟩ := hrun hc hl
  refine ⟨(ht.same (.port p) (by simp)).1.trans hr, fun n hn' hok => ?_⟩
  obtain ⟨hst, hcnt⟩ := hn n hn' hok
  exact ⟨(fld_congr (f := LRX.LN_STAT.STATE) (ht.rd (by simp))).trans hst, (ht.rd (by simp)).trans hcnt⟩

include hfit

theorem portEnable_starts (h : reaches s r 14 0 PORT.PORT_EN (s.portEnWord p true)) (hdef : s.portDefined p = true) (hoff : s.portOn p = false)
    (hv : (s.wr (pPORT + PORT.PORT_EN) (s.portEnWord p true)).portValid p = true) :
    completes (.portEnable r p) s (fun t => portRuns s t p ∧ t.pending = s.pending) := by
  let u := s.wr (pPORT + PORT.PORT_EN) (s.portEnWord p true)
  have hu : Frame [regAt (pPORT + PORT.PORT_EN)] s u := .wrIn (.refl _ s) (· = pPORT + PORT.PORT_EN) _ rfl
  have hsub (k j : Nat) : [regAt (pPORT + PORT.PORT_EN)] ⊆ enabling p k j := by simp
  have hon : u.portOn p = true := by rw [show u.portOn p = _ from portOn_wr s p true p.isLt, if_pos rfl, hdef]; rfl
  have hs := lanesFit_of_portFits hfit
  have hus : lanesFit u p := hu.lanesFit p.isLt (hsub 8 8) hs
  obtain ⟨t', hx, ht⟩ := portWrite_taken h ((effPortEn_enables p.isLt hdef hoff).trans (if_pos hv))
  obtain ⟨hton, hpend, hruns⟩ := portStart_runs p.isLt hq hu (hsub 8 8) hus hon
  exact ⟨_, hx, portRuns_of_before (portRuns_of_after p.isLt ⟨hton, hruns⟩ ht) (hu.canRun (hsub 8 8)) (hu.portUnlocked p.isLt (hsub 8 8))
    (hu.portLanes (hsub 8 8) p.isLt)
    (fun n hn => hu.tableOk (hsub n 8) (hs n hn)), (ht.fixed (by simp)).pending.trans hpend⟩

omit hfit in
/-- A port that does not meet its conditions does not start. -/
theorem portEnable_refuses (h : reaches s r 14 0 PORT.PORT_EN (s.portEnWord p true)) (hdef : s.portDefined p = true) (hoff : s.portOn p = false)
    (hv : (s.wr (pPORT + PORT.PORT_EN) (s.portEnWord p true)).portValid p = false) :
    completes (.portEnable r p) s (fun t => memSame s t ∧ t.pending = s.pending ∧ (t.portSt p).run = (s.portSt p).run) := by
  let u := s.wr (pPORT + PORT.PORT_EN) (s.portEnWord p true)
  obtain ⟨t', hx, ht⟩ := portWrite_taken h ((effPortEn_enables p.isLt hdef hoff).trans (if_neg (by simp [hv])))
  have hset : Frame (enabling p 8 8) s u.settleLanes :=
    .next (.wrIn (.refl _ s) (· = pPORT + PORT.PORT_EN) _ rfl) (settleLanes_settling u (k := 8) fun h => absurd h (by decide))
  have hset' : Frame (regAt (pPORT + PORT.PORT_EN) :: settling 8) s u.settleLanes :=
    .next (.wrIn (.refl _ s) (· = pPORT + PORT.PORT_EN) _ rfl) (settleLanes_settling u (k := 8) fun h => absurd h (by decide))
  have hwatch := settled_watch hq hset (List.Subset.refl _)
  have hfree : Frame [regsAt fun _ => True, just .inForce] (watch s u.settleLanes)
      ((watch s u.settleLanes).unsettle (u.portErrorPages [p])) :=
    .foldl (.refl _ _) _ fun w page _ => unsettlePage_touches w page _ fun _ _ => trivial
  have hall : Frame ((regsAt fun _ => True) :: just .inForce :: regAt (pPORT + PORT.PORT_EN) :: settling 8) s
      ((watch s u.settleLanes).unsettle (u.portErrorPages [p])) :=
    .next (.next (hset'.mono (by simp)) (hwatch.mono (m := settling 8) (by simp))) hfree
  have hend := hall.next ht
  exact ⟨_, hx, hend.bytes (by simp), (hend.fixed (by simp)).pending, (hend.same (.port p) (by simp)).1⟩

theorem portReset_restarts (h : reaches s r 14 0 PORT.PORT_CMD (BitVec.ofNat 32 (2 ^ p.val))) (hon : s.portOn p = true)
    (hv : s.portValid p = true) : completes (.portReset r p) s (fun t => portRuns s t p) := by
  have hs := lanesFit_of_portFits hfit
  have hstop := portStop_stopping p.isLt s hs
  have hu : Frame (porting p 8 8) s (s.portStop p) := hstop.ofStopping
  have hsub : porting p 8 8 ⊆ enabling p 8 8 := List.subset_cons_self ..
  obtain ⟨t', hx, ht⟩ := portWrite_taken h (effPortCmd_resets p.isLt hon hv)
  obtain ⟨hton, -, hruns⟩ := portStart_runs p.isLt hq hu hsub (hu.lanesFit p.isLt hsub hs) ((hu.portOn (List.Subset.refl _) p.isLt).trans hon)
  refine ⟨_, hx, portRuns_of_before (portRuns_of_after p.isLt ⟨hton, hruns⟩ ht) (hu.canRun hsub) (hu.portUnlocked p.isLt hsub)
    (hu.portLanes hsub p.isLt) fun n hn => ?_⟩
  refine rsTableOk_congr ((hu.fixed (by simp)).written n) fun off ho => hstop.rd fun i _ => ?_
  have hn8 := hs n hn
  simp [lrxFewAt, lrxAt, ltxAt, ifecAt, ofecAt, portAt, hslAt, lockAt, HDR.EVT_RAW]
  simp only [pLRX, pLTX, pIFEC, pOFEC, pPORT, pHSL, pCAL, pPERF, pCLK, CLK.LOCK0, CLK.LOCK1, CAL.U_STAT, PORT.PSTAT, LRX.RS_CTRL, LRX.RS_TAB] at *
  omega

theorem portDisable_stops (h : reaches s r 14 0 PORT.PORT_EN (s.portEnWord p false)) (hon : s.portOn p = true) :
    completes (.portDisable r p) s (fun t => t.portOn p = false ∧ (t.portSt p).run = false ∧ t.bit pPORT (psf p PORT.PSTAT.DESKEWED) = false
      ∧ (∀ n ∈ s.portLanes p, t.lnState n = 0 ∧ (s.lnState n ≠ 0 → t.fld (pLRX n) LRX.LN_STAT.LOSS_CAUSE = 6)
        ∧ (s.txState n = 3 → s.noon = true → s.refOk = true → t.txState n = 3 ∧ (t.ltxSt n).stop = true))
      ∧ (s.portState p = 2 → raised t (evAt PORT.evPORT_DOWN p) 0)) := by
  let u := s.wr (pPORT + PORT.PORT_EN) (s.portEnWord p false)
  let v := u.portStop p
  let w := v.settleLanes
  have hs := lanesFit_of_portFits hfit
  have hsub (k j : Nat) : [regAt (pPORT + PORT.PORT_EN)] ⊆ enabling p k j := by simp
  have hu : Frame [regAt (pPORT + PORT.PORT_EN)] s u := .wrIn (.refl _ s) (· = pPORT + PORT.PORT_EN) _ rfl
  have hus : lanesFit u p := hu.lanesFit p.isLt (hsub 8 8) hs
  have hv : Frame (porting p 8 8) u v := (portStop_stopping p.isLt u hus).ofStopping
  have huoff : u.portOn p = false := by rw [show u.portOn p = _ from portOn_wr s p false p.isLt, if_pos rfl, Bool.and_false]
  have hset (j : Nat) (hj : txStays v j) : Frame (settling j) v w := settleLanes_settling v hj
  have hset8 := hset 8 fun h => absurd h (by decide)
  have hw : Frame (enabling p 8 8) s w := .next (.next (hu.mono (hsub 8 8)) hv (List.subset_cons_self ..)) hset8
  have hwatch := settled_watch hq hw (List.Subset.refl _)
  have hwoff : w.portOn p = false :=
    (hset8.portOn (p := p) (k := 8) (j := 8) (by simp) p.isLt).trans ((hv.portOn (List.Subset.refl _) p.isLt).trans huoff)
  obtain ⟨hidle, hdesk⟩ := portStop_idle p.isLt u
  obtain ⟨t', hx, ht⟩ := portWrite_taken h (effPortEn_disables p.isLt hon)
  have hlast : Frame [events] w t' := hwatch.next ht
  have hend (j : Nat) (hj : txStays v j) : Frame (settling j) v t' := (hset j hj).next hlast
  have hend8 := hend 8 fun h => absurd h (by decide)
  refine ⟨_, hx, ?_, ?_, ?_, fun n hn => ?_, fun hup => ?_⟩
  · exact (hlast.portOn (p := p) (k := 8) (j := 8) (by simp) p.isLt).trans hwoff
  · exact (hend8.same (.port p) (by simp)).1.trans hidle
  · refine (hend8.bit fun i _ _ => ?_).trans hdesk
    simp [hslAt, lockAt, HDR.EVT_RAW, psf, fldAt]
    simp only [pPORT, pHSL, pPERF, pCLK, CLK.LOCK0, CLK.LOCK1, pLTX, pCAL, CAL.U_STAT]
    omega
  · have hn8 := hs n hn
    obtain ⟨hdown, hcause, htx⟩ := portStop_lanes p.isLt u hus (n := n) ((hu.portLanes (hsub 8 8) p.isLt).symm ▸ hn)
    have hln : u.rd (pLRX n + LRX.LN_STAT) = s.rd (pLRX n + LRX.LN_STAT) := hu.laneRd (hsub n 8) hn8
    have hkept := hend8.laneRd (p := p) (k := n) (j := 8) (by simp) hn8 (off := LRX.LN_STAT)
    refine ⟨(fld_congr (f := LRX.LN_STAT.STATE) hkept).trans hdown, fun hrun => ?_, fun h3 hnoon href => ?_⟩
    · exact (fld_congr (f := LRX.LN_STAT.LOSS_CAUSE) hkept).trans (hcause (by rwa [show u.lnState n = s.lnState n from fld_congr hln]))
    · obtain ⟨hst, hstop⟩ := htx ((hu.txState (hsub 8 n) hn8).trans h3)
      have hstay : txStays v n := fun _ => ⟨hst, (hv.noon (List.subset_cons_self ..)).trans ((hu.noon (hsub 8 8)).trans hnoon),
        (hv.refOk (List.subset_cons_self ..)).trans ((hu.refOk (hsub 8 8)).trans href)⟩
      have hn' := hend n hstay
      exact ⟨(hn'.txState (p := p) (k := 8) (by simp) hn8).trans hst, (hn'.same (.stop n) (by simp)).trans hstop⟩
  · exact ht.raised (watch_portDown p.isLt ((hw.fixed (by simp)).bist hq.1)
      (fun i hi => (hw.phases (List.Subset.refl _) hi).trans (hq.2 i hi).1) hup hwoff) (by simp)

end

/-! ## A frame boundary judges the skew (R169, R171, R175) -/

/-- PSKEW. -/
def pskewAt (x : Nat) : Prop := pPORT + PORT.PSKEW ≤ x ∧ x < pPORT + PORT.PSKEW + 32

abbrev pskews : Zone := regsAt pskewAt

theorem pskews_le : pskews ≤ portRegs := bitsAt_le fun x _ h => by
  unfold pskewAt at h
  unfold portAt
  simp only [PORT.PSTAT, PORT.PSKEW] at *
  omega

/-- The skew shows. -/
def skewShown (s : State) (p skew lane : Nat) : State :=
  (s.setFld pPORT (fldAt PORT.PSKEW.SKEW (4 * p)) (min skew 0xFFFF)).setFld pPORT (fldAt PORT.PSKEW.LATE (4 * p)) lane

/-- The skew of a port all of whose lanes are LOCKED is judged. -/
def skewJudged (s : State) (p skew : Nat) : State :=
  if 1600 < skew then (s.portFlag p PORT.PSTAT.SKEW_ERR).modPort p fun x => { x with skewOk := 0 }
  else if 15 ≤ (s.portSt p).skewOk then s.setFld pPORT (psf p PORT.PSTAT.SKEW_ERR) 0
  else s.modPort p fun x => { x with skewOk := x.skewOk + 1 }

/-- Headers that fit are counted. -/
def headersFit (s : State) (p : Nat) : State :=
  if 15 ≤ (s.portSt p).misOk then s.setFld pPORT (psf p PORT.PSTAT.MISMATCH) 0
  else s.modPort p fun x => { x with misOk := x.misOk + 1 }

/-- The headers of a port's lanes are judged. -/
def headersJudged (s : State) (p : Nat) (all : Bool) : State :=
  if s.mismatch p then (s.portFlag p PORT.PSTAT.MISMATCH).modPort p fun x => { x with misOk := 0 }
  else if !all then s
  else headersFit s p

/-- SKEW_ERR or MISMATCH stands. -/
def deskewBad (s : State) (p : Nat) : Bool := s.bit pPORT (psf p PORT.PSTAT.SKEW_ERR) || s.bit pPORT (psf p PORT.PSTAT.MISMATCH)

/-- The port is deskewed, or no longer. -/
def deskewEnded (s : State) (p : Nat) (all : Bool) : State :=
  if deskewBad s p then (s.setFld pPORT (psf p PORT.PSTAT.DESKEWED) 0).cwLock p OFEC.OF_STAT.RX_CW_LOCK false
  else s.when (all && !deskewBad s p && (s.bit pPORT (psf p PORT.PSTAT.DESKEWED) || s.framesEqual p)) fun s => s.aligns p

theorem deskew_eq (s : State) (p skew lane : Nat) : s.deskew p skew lane =
    deskewEnded (headersJudged (if s.allLocked p then skewJudged (s.when (s.allLocked p) fun s => skewShown s p skew lane) p skew
      else s.when (s.allLocked p) fun s => skewShown s p skew lane) p (s.allLocked p)) p (s.allLocked p) := rfl

/-- With all lanes LOCKED and every header fitting. -/
theorem deskew_locked {s : State} {p : Nat} (skew lane : Nat) (hall : s.allLocked p = true)
    (hm : (skewJudged (skewShown s p skew lane) p skew).mismatch p = false) :
    s.deskew p skew lane = deskewEnded (headersFit (skewJudged (skewShown s p skew lane) p skew) p) p true := by
  rw [deskew_eq, hall, if_pos rfl, when_true]
  unfold headersJudged
  rw [hm]
  rfl

section
variable {p : Nat} (hp : p < 8)
include hp

theorem skewShown_touches (s : State) (skew lane : Nat) : Frame [pskews] s (skewShown s p skew lane) := by
  have h (f : Fld) (hf : f.off = PORT.PSKEW) : pskewAt (pPORT + (fldAt f (4 * p)).off) := by
    unfold pskewAt
    simp only [fldAt, hf]
    omega
  exact .setIn (.setIn (.refl _ s) pskewAt _ (h _ rfl)) pskewAt _ (h _ rfl)

theorem portFlag_touches (s : State) (f : Fld) : Frame [pstats f, events] s (s.portFlag p f) := by
  unfold State.portFlag
  split
  · exact .refl _ s
  · exact .raise (.setPstat (.refl _ s) _ hp) _ _

theorem skewJudged_touches (s : State) (skew : Nat) : Frame [pstats PORT.PSTAT.SKEW_ERR, events] s (skewJudged s p skew) := by
  unfold skewJudged
  split
  · exact .modPort (portFlag_touches hp s _) _ _
  · split
    · exact .setPstat (.refl _ s) _ hp
    · exact .modPort (.refl _ s) _ _

theorem headersFit_touches (s : State) : Frame [pstats PORT.PSTAT.MISMATCH] s (headersFit s p) := by
  unfold headersFit
  split
  · exact .setPstat (.refl _ s) _ hp
  · exact .modPort (.refl _ s) _ _

theorem aligns_touches (s : State) : Frame [pstats PORT.PSTAT.DESKEWED, ofecs, events] s (s.aligns p) := by
  unfold State.aligns
  dsimp only
  split
  · exact (cwLock_touches s hp _ _).mono (by simp)
  · exact .next (.setPstat (.each (.refl _ s) _ fun u n _ => .modLrx (.refl _ u) _ _) _ hp) (cwLock_touches _ hp _ _)

theorem deskewEnded_touches (s : State) (all : Bool) : Frame [pstats PORT.PSTAT.DESKEWED, ofecs, events] s (deskewEnded s p all) := by
  unfold deskewEnded
  split
  · exact .next (.setPstat (.refl _ s) _ hp) (cwLock_touches _ hp _ _)
  · exact .when (.refl _ s) _ fun _ => aligns_touches hp s

end

/-! ### The frame lock of lanes -/

theorem ifec_raise (s : State) (e : Ev) (i : Nat) : (s.raise e i).ifec = s.ifec := by
  obtain ⟨_, h⟩ := logOcc_eq (s.setRaw e i) (s.occ (evNum e i) 0 0 none) false
  unfold State.raise State.raiseBy
  rw [h]
  rfl

theorem ifec_skewJudged (s : State) (p skew : Nat) : (skewJudged s p skew).ifec = s.ifec := by
  unfold skewJudged State.portFlag
  split
  · split
    · rfl
    · exact ifec_raise ..
  · split <;> rfl

theorem ifec_headersFit (s : State) (p : Nat) : (headersFit s p).ifec = s.ifec := by
  unfold headersFit
  split <;> rfl

/-- What the headers and frame numbers of a port's lanes are judged by. -/
theorem headers_kept {s t : State} {p : Nat} (h : Frame [just (.port p), portRegs, events] s t) (hi : t.ifec = s.ifec) (hp : p < 8) :
    t.mismatch p = s.mismatch p ∧ t.framesEqual p = s.framesEqual p := by
  have hrd {b off : Nat} (hb : b % 0x1000 = 0) (ho : off = 0x40 ∨ off = 0x44) : t.rd (b + off) = s.rd (b + off) := h.rd fun i _ => by
    simp [portAt, HDR.EVT_RAW]
    simp only [pPORT, PORT.PSTAT, PORT.PSKEW]
    omega
  have hlrx (n : Nat) : pLRX n % 0x1000 = 0 := by simp only [pLRX]; omega
  have hifec (n : Nat) : pIFEC n % 0x1000 = 0 := by simp only [pIFEC]; omega
  have hm400 : t.m400 = s.m400 := bit_congr (hrd (by decide) (.inl rfl))
  have hsub : [just (.port p), portRegs, events] ⊆ enabling p 8 8 := by simp
  have hlanes : t.portLanes p = s.portLanes p := h.portLanes hsub hp
  have hk : t.portK p = s.portK p := h.portK hsub hp
  have hsize : t.fld pPORT (fldAt PORT.PCFG.SIZE (4 * p)) = s.fld pPORT (fldAt PORT.PCFG.SIZE (4 * p)) :=
    fld_congr (h.portRd hsub (by simp only [fldAt, pPORT, PORT.PCFG, PORT.PSTAT]; omega))
  have hlocked : t.locked = s.locked := funext fun n =>
    congrArg (· == 6) (fld_congr (f := LRX.LN_STAT.STATE) (hrd (hlrx n) (.inr rfl)))
  have hst : t.ifecSt = s.ifecSt := funext fun n => congrArg (fun l => Tbl.get (⟨0, 0, false⟩ : IfecSt) l n) hi
  have hfld (n : Nat) {f : Fld} (hf : f.off = 0x44) : t.fld (pIFEC n) f = s.fld (pIFEC n) f := fld_congr (hf ▸ hrd (hifec n) (.inr rfl))
  have hlane (n : Nat) := hfld n (f := IFEC.IF_STAT.FAR_LANE) rfl
  have hfar (n : Nat) := hfld n (f := IFEC.IF_STAT.FAR_SIZE) rfl
  have hframe (n : Nat) := hfld n (f := IFEC.IF_STAT.RX_FRAME) rfl
  unfold State.mismatch State.framesEqual
  simp only [hm400, hlanes, hk, hsize, hlocked, hst, hlane, hfar, hframe, and_self]

section
variable {p : Nat} (hp : p < 8)
include hp

/-- A bit of PSTAT outside a footprint. -/
theorem Frame.pstatBit {l : List Zone} {s t : State} (h : Frame l s t) {f : Fld} (hf : f.off = PORT.PSTAT ∧ f.width = 1 := by decide)
    (hl : ∀ x, 0x100400A0 ≤ x → x < 0x100400C0 → ∀ z ∈ l, ¬ z (.bit x f.lo) := by
      intro x hlo hhi
      simp [pskewAt, PORT.PSKEW, hslAt, lockAt, ofecAt, latchAt, HDR.EVT_RAW, pOFEC, pPORT, pHSL, pPERF, pCLK, CLK.LOCK0, CLK.LOCK1, pLTX,
        pCAL]
      <;> omega) :
    t.bit pPORT (psf p f) = s.bit pPORT (psf p f) :=
  h.bit fun i hlo hhi z hz => by
    have hi : i = f.lo := by
      have hlo : f.lo ≤ i := hlo
      have hhi : i < f.lo + f.width := hhi
      omega
    subst hi
    exact hl _ (by simp only [psf, fldAt, hf.1, pPORT, PORT.PSTAT]; omega) (by simp only [psf, fldAt, hf.1, pPORT, PORT.PSTAT]; omega) z hz

omit hp in
theorem bit_pstat_set (s : State) {f : Fld} (hf : f.width = 1 ∧ f.lo < 32 := by decide) : (s.setFld pPORT (psf p f) 1).bit pPORT (psf p f) = true :=
  bit_setFld_one s _ _ (by simp only [psf, fldAt]; omega) (by simp only [psf, fldAt]; omega)

omit hp in
theorem bit_pstat_clear (s : State) {f : Fld} (hf : f.width = 1 ∧ f.lo < 32 := by decide) :
    (s.setFld pPORT (psf p f) 0).bit pPORT (psf p f) = false :=
  bit_setFld_zero s _ _ (by simp only [psf, fldAt]; omega)

/-- A flag of R169 that sets stands, and raises SKEW_FAULT if it did not stand before. -/
theorem portFlag_sets (s : State) {f : Fld} (hf : f.off = PORT.PSTAT ∧ f.width = 1 ∧ f.lo < 32 := by decide) :
    (s.portFlag p f).bit pPORT (psf p f) = true
      ∧ (s.bit pPORT (psf p f) = false → raised (s.portFlag p f) (evAt PORT.evSKEW_FAULT p) 0) := by
  unfold State.portFlag
  split
  next h => exact ⟨h, fun h' => absurd h (by simp [h'])⟩
  next =>
    refine ⟨?_, fun _ => raised_raiseBy _ _ 0 0 (by simp only [evAt]; omega)⟩
    have hr : Frame [events] (s.setFld pPORT (psf p f) 1) _ := .raise (.refl _ _) (evAt PORT.evSKEW_FAULT p) 0
    exact (hr.pstatBit hp ⟨hf.1, hf.2.1⟩).trans (bit_pstat_set s hf.2)

end

/-! ### The judgement of the skew -/

section
variable {p : Nat} (hp : p < 8)
include hp

/-- SKEW_ERR as the skew is judged (R169). -/
theorem skewJudged_sets (s : State) {skew : Nat} (h : 1600 < skew) : (skewJudged s p skew).bit pPORT (psf p PORT.PSTAT.SKEW_ERR) = true
    ∧ (s.bit pPORT (psf p PORT.PSTAT.SKEW_ERR) = false → raised (skewJudged s p skew) (evAt PORT.evSKEW_FAULT p) 0) := by
  obtain ⟨hset, hraised⟩ := portFlag_sets hp s (f := PORT.PSTAT.SKEW_ERR)
  have hm : Frame [] (s.portFlag p PORT.PSTAT.SKEW_ERR) (skewJudged s p skew) := by
    unfold skewJudged
    rw [if_pos h]
    exact .modPort (.refl _ _) _ _
  exact ⟨(hm.pstatBit hp).trans hset, fun h0 => hm.raised (hraised h0) (by simp)⟩

/-- A skew within the limit sets no error. -/
theorem skewJudged_keeps (s : State) {skew : Nat} (h : skew ≤ 1600) (h0 : s.bit pPORT (psf p PORT.PSTAT.SKEW_ERR) = false) :
    (skewJudged s p skew).bit pPORT (psf p PORT.PSTAT.SKEW_ERR) = false := by
  unfold skewJudged
  rw [if_neg (by omega)]
  split
  · exact bit_pstat_clear s
  · exact ((Frame.modPort (.refl [] s) p _).pstatBit hp).trans h0

theorem headersFit_keeps (s : State) (h0 : s.bit pPORT (psf p PORT.PSTAT.MISMATCH) = false) :
    (headersFit s p).bit pPORT (psf p PORT.PSTAT.MISMATCH) = false := by
  unfold headersFit
  split
  · exact bit_pstat_clear s
  · exact ((Frame.modPort (.refl [] s) p _).pstatBit hp).trans h0

/-- An error that stands ends the deskew. -/
theorem deskewEnded_bad (s : State) (all : Bool) (h : s.bit pPORT (psf p PORT.PSTAT.SKEW_ERR) = true) :
    (deskewEnded s p all).bit pPORT (psf p PORT.PSTAT.DESKEWED) = false := by
  unfold deskewEnded deskewBad
  rw [if_pos (by simp [h])]
  exact ((cwLock_touches (s.setFld pPORT (psf p PORT.PSTAT.DESKEWED) 0) hp OFEC.OF_STAT.RX_CW_LOCK false).pstatBit hp).trans (bit_pstat_clear s)

omit hp in
/-- RX_CW_LOCK sets without an event. -/
theorem cwLock_sets (s : State) : (s.cwLock p OFEC.OF_STAT.RX_CW_LOCK true).bit (pOFEC p) OFEC.OF_STAT.RX_CW_LOCK = true := by
  unfold State.cwLock
  simp only [Bool.not_true, Bool.and_false, Bool.false_and, when_false, if_true]
  exact bit_setFld_one s _ _ (by decide) (by decide)

/-- A port whose frames are equal, with no error standing, is deskewed with RX_CW_LOCK (R169, R175). -/
theorem deskewEnded_aligns (s : State) (hbad : deskewBad s p = false) (hf : s.framesEqual p = true) :
    (deskewEnded s p true).bit pPORT (psf p PORT.PSTAT.DESKEWED) = true
      ∧ (deskewEnded s p true).bit (pOFEC p) OFEC.OF_STAT.RX_CW_LOCK = true := by
  have he : deskewEnded s p true = s.aligns p := by
    unfold deskewEnded
    rw [hbad, hf]
    simp
  rw [he]
  unfold State.aligns
  dsimp only
  split
  next h => exact ⟨((cwLock_touches s hp OFEC.OF_STAT.RX_CW_LOCK true).pstatBit hp).trans h, cwLock_sets s⟩
  next => exact ⟨((cwLock_touches _ hp OFEC.OF_STAT.RX_CW_LOCK true).pstatBit hp).trans (bit_pstat_set _), cwLock_sets _⟩

/-! ### The rest of a frame boundary -/

/-- What follows the deskew at a frame boundary: fills, a latch, and every lane settles. -/
abbrev boundary : List Zone := pstats PORT.PSTAT.LF_HOST :: pstats PORT.PSTAT.LF_LINE :: latches :: settling 8

theorem portFills_touches (s : State) : Frame [pstats PORT.PSTAT.LF_HOST, pstats PORT.PSTAT.LF_LINE, just .hsl] s (s.portFills p) := by
  unfold State.portFills
  refine .when (.modPort (.setPstat (.setPstat (.refl _ s) _ hp) _ hp) _ _) _ fun _ => ?_
  exact (sendHost_touches ..).mono (by simp)

/-- The fills and the latch. -/
def boundaryShown (s : State) (p : Nat) : State :=
  let s := s.portFills p
  s.when (s.bit (pOFEC p) OFEC.OF_STAT.SNAP_PEND) (fun s => s.latchOfec p)

theorem boundaryShown_touches (s : State) : Frame boundary s (boundaryShown s p) := by
  unfold boundaryShown
  exact .when (.next (.refl _ s) (portFills_touches hp s)) _ fun _ => (latchOfec_latches _ hp).mono (by simp)

end

/-- A frame boundary of a port that runs, with no loopback to change. -/
theorem exec_portFrameBoundary (s : State) (p : Fin 8) (skew : Nat) (lane : Fin 8) (hon : s.portOn p = true) (hrun : (s.portSt p).run = true) :
    exec (.portFrameBoundary p skew lane) s =
      .next (watch s ((boundaryShown ((s.modPort p fun x => { x with frames := x.frames + 1 }).deskew p skew lane) p).loopChange p).settleLanes) := by
  show execPortFrameBoundary p skew lane s = _
  unfold execPortFrameBoundary
  exact if_pos ⟨hon, hrun⟩

theorem loopChange_none {s : State} {p : Nat} (h : (s.portSt p).lbPend = none) : s.loopChange p = s := by
  unfold State.loopChange
  rw [h]

/-- A frame more, the skew shown and judged. -/
def portSkewed (s : State) (p skew lane : Nat) : State :=
  skewJudged (skewShown (s.modPort p fun x => { x with frames := x.frames + 1 }) p skew lane) p skew

/-- A port with every lane LOCKED and every header fitting, once the boundary has judged its skew. -/
def portJudged (s : State) (p skew lane : Nat) : State := deskewEnded (headersFit (portSkewed s p skew lane) p) p true

section
variable {s : State} {p : Nat} (hp : p < 8) (skew lane : Nat)
include hp

theorem portSkewed_touches (s : State) : Frame [just (.port p), portRegs, events] s (portSkewed s p skew lane) :=
  .next (.next (.modRun (.refl _ s) _ _) ((skewShown_touches hp _ skew lane).cover (m := [portRegs]) (by simp [pskews_le])))
    ((skewJudged_touches hp _ skew).cover (m := [portRegs, events]) (by simp [pstats_le_portRegs]))

theorem headersFit_portRegs (s : State) : Frame [portRegs] s (headersFit s p) :=
  (headersFit_touches hp s).cover (by simp [pstats_le_portRegs])

theorem portJudged_touches (s : State) : Frame [just (.port p), portRegs, ofecs, events] s (portJudged s p skew lane) :=
  .next (.next ((portSkewed_touches hp skew lane s).mono (by simp)) (headersFit_portRegs hp _))
    ((deskewEnded_touches hp _ true).cover (m := [portRegs, ofecs, events]) (by simp [pstats_le_portRegs]))

omit hp in
theorem ifec_portSkewed (s : State) : (portSkewed s p skew lane).ifec = s.ifec := ifec_skewJudged ..

/-- The headers are judged as they stood. -/
theorem deskew_judges (hall : s.allLocked p = true) (hmis : s.mismatch p = false) :
    (s.modPort p fun x => { x with frames := x.frames + 1 }).deskew p skew lane = portJudged s p skew lane :=
  deskew_locked skew lane hall ((headers_kept (portSkewed_touches hp skew lane s) (ifec_portSkewed skew lane s) hp).1.trans hmis)

/-- What the skew's judgement leaves of the frames and the loopback. -/
theorem portJudged_port (s : State) : ((portJudged s p skew lane).portSt p).frames = (s.portSt p).frames + 1
    ∧ ((portJudged s p skew lane).portSt p).lbPend = (s.portSt p).lbPend := by
  let u := s.modPort p fun x => { x with frames := x.frames + 1 }
  have h : Frame [portRegs, ofecs, events] u (portJudged s p skew lane) :=
    .next (.next (.next (.refl _ u) ((skewShown_touches hp u skew lane).cover (m := [portRegs]) (by simp [pskews_le])))
      ((skewJudged_touches hp _ skew).cover (m := [portRegs, events]) (by simp [pstats_le_portRegs])))
      (.trans ((headersFit_portRegs hp _).mono (by simp))
        ((deskewEnded_touches hp _ true).cover (m := [portRegs, ofecs, events]) (by simp [pstats_le_portRegs])))
  obtain ⟨-, hframes, hlb⟩ := h.same (.port p) (by simp)
  rw [hframes, hlb, portSt_modPort, if_pos rfl]
  exact ⟨rfl, rfl⟩

/-- PSKEW shows the skew and the latest lane. -/
theorem portJudged_skew (s : State) (hlane : lane < 8) :
    (portJudged s p skew lane).fld pPORT (fldAt PORT.PSKEW.SKEW (4 * p)) = min skew 0xFFFF
      ∧ (portJudged s p skew lane).fld pPORT (fldAt PORT.PSKEW.LATE (4 * p)) = lane := by
  let u := s.modPort p fun x => { x with frames := x.frames + 1 }
  have h : Frame [pstats PORT.PSTAT.SKEW_ERR, pstats PORT.PSTAT.MISMATCH, pstats PORT.PSTAT.DESKEWED, ofecs, events] (skewShown u p skew lane)
      (portJudged s p skew lane) :=
    .next (.next ((skewJudged_touches hp _ skew).mono (by simp)) (headersFit_touches hp _)) (deskewEnded_touches hp _ true)
  have hrd : (portJudged s p skew lane).rd (pPORT + (PORT.PSKEW + 4 * p)) = (skewShown u p skew lane).rd (pPORT + (PORT.PSKEW + 4 * p)) :=
    h.rd fun i _ => by
      simp [ofecAt, HDR.EVT_RAW]
      simp only [pPORT, PORT.PSKEW]
      omega
  refine ⟨(fld_congr (f := fldAt PORT.PSKEW.SKEW (4 * p)) hrd).trans ?_, (fld_congr (f := fldAt PORT.PSKEW.LATE (4 * p)) hrd).trans ?_⟩
  · refine (fld_setFld_ne _ _ _ _ _ _ (.inr (.inl ?_))).trans ((fld_setFld _ _ _ _ ?_).trans ?_) <;> simp only [fldAt] <;> omega
  · exact (fld_setFld _ _ _ _ (by simp only [fldAt]; omega)).trans (Nat.mod_eq_of_lt hlane)

/-- A skew above 160.0 ns (R169). -/
theorem portJudged_faults (s : State) (h : 1600 < skew) : (portJudged s p skew lane).bit pPORT (psf p PORT.PSTAT.SKEW_ERR) = true
    ∧ (portJudged s p skew lane).bit pPORT (psf p PORT.PSTAT.DESKEWED) = false
    ∧ (s.bit pPORT (psf p PORT.PSTAT.SKEW_ERR) = false → raised (portJudged s p skew lane) (evAt PORT.evSKEW_FAULT p) 0) := by
  have hshown : Frame [just (.port p), pskews] s (skewShown (s.modPort p fun x => { x with frames := x.frames + 1 }) p skew lane) :=
    .next (.modRun (.refl _ s) _ _) (skewShown_touches hp _ skew lane)
  obtain ⟨hset, hraised⟩ := skewJudged_sets hp (skewShown (s.modPort p fun x => { x with frames := x.frames + 1 }) p skew lane) h
  have hc := headersFit_touches hp (portSkewed s p skew lane)
  have hd := deskewEnded_touches hp (headersFit (portSkewed s p skew lane) p) true
  have hcset := (hc.pstatBit hp (f := PORT.PSTAT.SKEW_ERR)).trans hset
  refine ⟨(hd.pstatBit hp).trans hcset, deskewEnded_bad hp _ true hcset, fun h0 => ?_⟩
  exact hd.raised (hc.raised (hraised ((hshown.pstatBit hp).trans h0)) (by
    have hm := pageAt_mod (evAt PORT.evSKEW_FAULT p).fam 0
    simp [HDR.EVT_RAW, show pageAt (evAt PORT.evSKEW_FAULT p).fam 0 = pPORT from rfl])) (by
    simp [ofecAt, HDR.EVT_RAW, show pageAt (evAt PORT.evSKEW_FAULT p).fam 0 = pPORT from rfl])

/-- A skew within the limit, with no error standing and equal frames (R169, R175). -/
theorem portJudged_aligns (s : State) (h : skew ≤ 1600) (hskew : s.bit pPORT (psf p PORT.PSTAT.SKEW_ERR) = false)
    (hmis : s.bit pPORT (psf p PORT.PSTAT.MISMATCH) = false) (hframes : s.framesEqual p = true) :
    (portJudged s p skew lane).bit pPORT (psf p PORT.PSTAT.DESKEWED) = true
      ∧ (portJudged s p skew lane).bit (pOFEC p) OFEC.OF_STAT.RX_CW_LOCK = true := by
  have hshown : Frame [just (.port p), pskews] s (skewShown (s.modPort p fun x => { x with frames := x.frames + 1 }) p skew lane) :=
    .next (.modRun (.refl _ s) _ _) (skewShown_touches hp _ skew lane)
  have hjudged : Frame [just (.port p), pskews, pstats PORT.PSTAT.SKEW_ERR, events] s (portSkewed s p skew lane) :=
    .next (hshown.mono (by simp)) (skewJudged_touches hp _ skew)
  have hfit := headersFit_touches hp (portSkewed s p skew lane)
  have hbad : deskewBad (headersFit (portSkewed s p skew lane) p) p = false := by
    unfold deskewBad
    rw [headersFit_keeps hp _ ((hjudged.pstatBit hp).trans hmis), hfit.pstatBit hp (f := PORT.PSTAT.SKEW_ERR),
      show (portSkewed s p skew lane).bit _ _ = false from skewJudged_keeps hp _ h ((hshown.pstatBit hp).trans hskew)]
    rfl
  refine deskewEnded_aligns hp _ hbad (.trans ?_ hframes)
  exact (headers_kept ((portSkewed_touches hp skew lane s).next (headersFit_portRegs hp _))
    ((ifec_headersFit ..).trans (ifec_portSkewed skew lane s)) hp).2

end

/-- A frame boundary, its judgement apart, changes nothing that it judges. -/
theorem portFrameBoundary_judges {s : State} {p : Fin 8} (hq : settled s) (skew : Nat) (lane : Fin 8) (hon : s.portOn p = true)
    (hrun : (s.portSt p).run = true) (hlb : (s.portSt p).lbPend = none) (hall : s.allLocked p = true) (hmis : s.mismatch p = false) :
    completes (.portFrameBoundary p skew lane) s (Frame boundary (portJudged s p skew lane)) := by
  have hp := p.isLt
  have hjudged := portJudged_touches hp skew lane s
  have hshown := boundaryShown_touches hp (portJudged s p skew lane)
  have hpend : ((boundaryShown (portJudged s p skew lane) p).portSt p).lbPend = none := by
    rw [(hshown.same (.port p) (by simp)).2.2, (portJudged_port hp skew lane s).2, hlb]
  have hset := hshown.next (settleLanes_settling _ (k := 8) fun h => absurd h (by decide))
  have hall' : Frame (porting p 8 8) s (boundaryShown (portJudged s p skew lane) p).settleLanes :=
    .next (hjudged.mono (by simp)) (hset.cover (m := portRegs :: ofecs :: settling 8) (by simp [pstats_le_portRegs, latches_le]))
  refine ⟨_, ?_, hset.next (settled_watch hq hall' (List.subset_cons_self ..))⟩
  rw [exec_portFrameBoundary s p skew lane hon hrun, deskew_judges hp skew lane hall hmis, loopChange_none hpend]

/-- What the judgement leaves, the rest of the boundary leaves. -/
theorem portFrameBoundary_shows {s : State} {p : Fin 8} (hq : settled s) (skew : Nat) (lane : Fin 8) (hon : s.portOn p = true)
    (hrun : (s.portSt p).run = true) (hlb : (s.portSt p).lbPend = none) (hall : s.allLocked p = true) (hmis : s.mismatch p = false)
    (hflag : s.bit pPORT (psf p PORT.PSTAT.MISMATCH) = false) :
    completes (.portFrameBoundary p skew lane) s (fun t => t.fld pPORT (fldAt PORT.PSKEW.SKEW (4 * p.val)) = min skew 0xFFFF
      ∧ t.fld pPORT (fldAt PORT.PSKEW.LATE (4 * p.val)) = lane.val ∧ (t.portSt p).frames = (s.portSt p).frames + 1
      ∧ (1600 < skew → t.bit pPORT (psf p PORT.PSTAT.SKEW_ERR) = true ∧ t.bit pPORT (psf p PORT.PSTAT.DESKEWED) = false
          ∧ (s.bit pPORT (psf p PORT.PSTAT.SKEW_ERR) = false → raised t (evAt PORT.evSKEW_FAULT p) 0))
      ∧ (skew ≤ 1600 → s.bit pPORT (psf p PORT.PSTAT.SKEW_ERR) = false →
          (s.m400 = true → ∀ n ∈ s.portLanes p, (s.ifecSt n).hdr = true
            ∧ s.fld (pIFEC n) IFEC.IF_STAT.RX_FRAME = s.fld (pIFEC p) IFEC.IF_STAT.RX_FRAME) →
          t.bit pPORT (psf p PORT.PSTAT.DESKEWED) = true ∧ t.bit (pOFEC p) OFEC.OF_STAT.RX_CW_LOCK = true)) := by
  have hp := p.isLt
  obtain ⟨t, he, ht⟩ := portFrameBoundary_judges hq skew lane hon hrun hlb hall hmis
  have hpskew : t.rd (pPORT + (PORT.PSKEW + 4 * p)) = (portJudged s p skew lane).rd (pPORT + (PORT.PSKEW + 4 * p)) := ht.rd fun i _ => by
    simp [hslAt, lockAt, latchAt, ofecAt, HDR.EVT_RAW]
    simp only [pPORT, PORT.PSKEW, pHSL, pPERF, pCLK, CLK.LOCK0, CLK.LOCK1, pLTX, pCAL, CAL.U_STAT]
    omega
  have hlock : t.bit (pOFEC p) OFEC.OF_STAT.RX_CW_LOCK = (portJudged s p skew lane).bit (pOFEC p) OFEC.OF_STAT.RX_CW_LOCK := ht.bit fun i _ hi => by
    have hi : i < 1 := hi
    simp [hslAt, lockAt, latchAt, ofecAt, HDR.EVT_RAW]
    simp only [pPORT, pOFEC, pCLK, CLK.LOCK0, CLK.LOCK1, pLTX, pCAL, CAL.U_STAT, LTX.TX_STAT, OFEC.OF_STAT]
    omega
  obtain ⟨hskew, hlate⟩ := portJudged_skew hp skew lane s lane.isLt
  refine ⟨t, he, (fld_congr (f := fldAt PORT.PSKEW.SKEW (4 * p)) hpskew).trans hskew,
    (fld_congr (f := fldAt PORT.PSKEW.LATE (4 * p)) hpskew).trans hlate,
    (ht.same (.port p) (by simp)).2.1.trans (portJudged_port hp skew lane s).1, fun h => ?_, fun h h0 hframes => ?_⟩
  · obtain ⟨herr, hdesk, hraised⟩ := portJudged_faults hp skew lane s h
    refine ⟨(ht.pstatBit hp).trans herr, (ht.pstatBit hp).trans hdesk, fun h0 => ht.raised (hraised h0) ?_⟩
    simp [hslAt, lockAt, latchAt, ofecAt, HDR.EVT_RAW, show pageAt (evAt PORT.evSKEW_FAULT p).fam 0 = pPORT from rfl, pPORT, pCAL, pHSL, pPERF,
      pCLK, CLK.LOCK0, CLK.LOCK1, CAL.U_STAT, LTX.TX_STAT]
  · have hequal : s.framesEqual p = true := by
      unfold State.framesEqual
      cases hm : s.m400 with
      | false => rfl
      | true => simpa using hframes hm
    obtain ⟨hdesk, hcw⟩ := portJudged_aligns hp skew lane s h h0 hflag hequal
    exact ⟨(ht.pstatBit hp).trans hdesk, hlock.trans hcw⟩

/-- Settles O40, by the footprints of starting, stopping and settling, and by what each lane's own step leaves. -/
theorem portsStartStopAndDeskew : Obligations.PortsStartStopAndDeskew := fun _ _ _ hq hfit =>
  ⟨fun h hdef hoff => ⟨portEnable_starts hq hfit h hdef hoff, portEnable_refuses hq h hdef hoff⟩, portDisable_stops hq hfit,
    portReset_restarts hq hfit,
    fun skew lane => portFrameBoundary_shows hq skew lane⟩

end Sys2Proof.Proofs

namespace Sys2Proof.Proofs

open Sys2Proof Sys2Proof.Machine Sys2Proof.Safety Sys2Proof.Laws

-- One declaration after another, as the tests are: a thread for every proof would not fit the memory of the check.
set_option Elab.async false

/-! ## Changes within pages

`Frame` says which parts of registers a change may touch, wherever an event is raised; `Within` says on which pages. The two are proved
side by side along the steps of a receive lane. -/

/-- `t` differs from `s` in registers of the pages `l` alone. The stages of the receive lanes stay too, and the live level statistics. -/
structure Within (l : List Nat) (s t : State) : Prop where
  pages : onlyPages s t l
  lrx : t.lrx = s.lrx
  lvl : ∀ n i, i < 4 → t.lv (pIFEC n + IFEC.LVL + 4 * i) = s.lv (pIFEC n + IFEC.LVL + 4 * i)

/-- The stages of a lane are no registers. -/
theorem onlyPages_modLrx (s : State) (n : Nat) (f : LrxSt → LrxSt) (l : List Nat) : onlyPages s (s.modLrx n f) l :=
  ⟨rfl, fun _ => rfl, fun _ => rfl, fun _ _ => rfl⟩

theorem onlyPage_of_onlyPages {s t : State} {b : Nat} (h : onlyPages s t [b]) : onlyPage s t b := by
  obtain ⟨hp, hc, hm, hr⟩ := h
  exact ⟨hp, hc, hm, regsSame_mono hr (by simp)⟩

namespace Within
variable {l : List Nat} {s t u : State}

theorem refl (l : List Nat) (s : State) : Within l s s := ⟨⟨rfl, fun _ => rfl, fun _ => rfl, fun _ _ => rfl⟩, rfl, fun _ _ _ => rfl⟩

theorem trans (h : Within l s t) (g : Within l t u) : Within l s u :=
  ⟨onlyPages_trans h.pages g.pages, g.lrx.trans h.lrx, fun n i hi => (g.lvl n i hi).trans (h.lvl n i hi)⟩

/-- The stages of a lane. -/
theorem lrxSt (h : Within l s t) (n : Nat) : t.lrxSt n = s.lrxSt n := by
  unfold State.lrxSt
  rw [h.lrx]

/-- A step that leaves registers, cores, memory and receive stages. -/
theorem step (h : Within l s t) (regs : u.regs = t.regs := by rfl) (pending : u.pending = t.pending := by rfl)
    (cores : u.cores = t.cores := by rfl) (mem : u.mem = t.mem := by rfl) (ms : u.ms = t.ms := by rfl) (lrx : u.lrx = t.lrx := by rfl)
    (lvl : ∀ n i, i < 4 → u.lv (pIFEC n + IFEC.LVL + 4 * i) = t.lv (pIFEC n + IFEC.LVL + 4 * i) := by exact fun _ _ _ => rfl) :
    Within l s u :=
  h.trans ⟨⟨pending, core_congr cores, byte_congr mem (by rw [ms]), fun a _ => rd_congr regs a⟩, lrx, lvl⟩

/-- A register of one of the pages is written. -/
theorem wr (h : Within l s t) {b off : Nat} (w : Word) (hb : b ∈ l) (ho : off < 0x1000 := by decide) : Within l s (t.wr (b + off) w) := by
  obtain ⟨hp, hc, hm, hr⟩ := onlyRegs_wr t (b + off) w
  exact h.trans ⟨⟨hp, hc, hm, regsSame_mono hr fun a ha => ⟨b, hb, by rw [List.mem_singleton.1 ha]; exact ⟨by omega, by omega⟩⟩⟩, wr_lrx ..,
    fun _ _ _ => lv_congr (wr_live ..) _⟩

theorem setFld (h : Within l s t) {b : Nat} {f : Fld} (v : Nat) (hb : b ∈ l) (hf : f.off < 0x1000 := by decide) : Within l s (t.setFld b f v) :=
  h.wr _ hb hf

theorem addSat (h : Within l s t) {b : Nat} {f : Fld} (k : Nat) (hb : b ∈ l) (hf : f.off < 0x1000 := by decide) : Within l s (t.addSat b f k) :=
  h.setFld _ hb hf

/-- An event of one of the pages is raised. -/
theorem raise (h : Within l s t) (e : Ev) (i : Nat) {b : Nat} (hb : b ∈ l) (he : pageAt e.fam i = b := by rfl) :
    Within l s (t.raise e i) := by
  subst he
  obtain ⟨x, hx⟩ := raiseBy_eq t e i 0
  rw [State.raise, hx]
  exact (h.setFld (f := bitAt HDR.EVT_RAW e.bit) 1 hb (show HDR.EVT_RAW < 0x1000 by decide)).step

theorem when (h : Within l s t) (c : Bool) {f : State → State} (hf : c = true → Within l t (f t)) : Within l s (t.when c f) := by
  cases c
  · exact h
  · exact h.trans (hf rfl)

theorem each (h : Within l s t) (xs : List Nat) {f : State → Nat → State} (hf : ∀ u, ∀ x ∈ xs, Within l u (f u x)) : Within l s (t.each xs f) := by
  unfold State.each
  induction xs generalizing t with
  | nil => exact h
  | cons x xs ih => exact ih (h.trans (hf t x (by simp))) fun u y hy => hf u y (by simp [hy])

theorem modIfec (h : Within l s t) (n : Nat) (f : IfecSt → IfecSt) : Within l s (t.modIfec n f) := h.step

theorem modPart (h : Within l s t) (n : Nat) (f : PartSt → PartSt) : Within l s (t.modPart n f) := h.step

/-- The stages of a lane change in both. -/
theorem modLrx (h : Within l s t) (n : Nat) (f : LrxSt → LrxSt) : Within l (s.modLrx n f) (t.modLrx n f) where
  pages := h.pages
  lrx := by
    show Tbl.put (some LrxSt.init) t.lrx n (f (t.lrxSt n)) = Tbl.put (some LrxSt.init) s.lrx n (f (s.lrxSt n))
    rw [h.lrxSt n, h.lrx]
  lvl := h.lvl

/-- The pages of a change after the stages of a lane have changed. -/
theorem pagesOfMod {n : Nat} {f : LrxSt → LrxSt} (h : Within l (s.modLrx n f) t) : onlyPages s t l :=
  onlyPages_trans (onlyPages_modLrx s n f l) h.pages

theorem setCap (h : Within l s t) (x : CapSt) : Within l s { t with cap := x } := h.step

/-- The count of frame locks lost is no level statistic. -/
theorem bumpLoss (h : Within l s t) (n k : Nat) : Within l s (t.bumpSat (pIFEC n + IFEC.FLOCK_LOSS) k) :=
  h.step (lvl := fun m i hi => lv_setLv_ne _ _ _ _ (by simp only [pIFEC, IFEC.LVL, IFEC.FLOCK_LOSS]; omega))

end Within

/-! ### The operations of a receive lane, on its pages -/

theorem mem_lanePages_ofec (n : Nat) {p : Nat} (hp : p < 8) : pOFEC p ∈ lanePages n :=
  List.mem_append_right _ (List.mem_map.2 ⟨p, List.mem_range.2 hp, rfl⟩)

theorem mem_lanePages (n : Nat) : pLRX n ∈ lanePages n ∧ pIFEC n ∈ lanePages n ∧ pPORT ∈ lanePages n ∧ pTIME ∈ lanePages n ∧ pCAP ∈ lanePages n := by
  simp [lanePages]

section
variable (n : Nat)

theorem sourceLost_within (s : State) (source : Nat) : Within (lanePages n) s (s.sourceLost source) := by
  obtain ⟨-, -, -, htime, -⟩ := mem_lanePages n
  refine .when (.refl _ s) _ fun _ => ?_
  unfold State.toHoldover State.setQuality
  split
  · exact .raise (.setFld (.setFld (.refl _ s) _ htime) _ htime) _ _ htime
  · exact .refl _ s

theorem frameLoss_within (s : State) (fs : Nat) : Within (lanePages n) s (s.frameLoss n fs) := by
  obtain ⟨hlrx, hifec, -, -, -⟩ := mem_lanePages n
  unfold State.frameLoss
  dsimp only
  split
  · refine .when (.raise (.bumpLoss (.modPart (.modIfec (.setFld (.setFld (.setFld (.refl _ s) _ hifec) _ hifec) _ hlrx) _ _) _ _) _ _) _ _
      hifec) _ fun _ => sourceLost_within n _ _
  · exact .modIfec (.setFld (.refl _ s) _ hifec) _ _

theorem undeskew_within (s : State) : Within (lanePages n) s (s.undeskew n) := by
  obtain ⟨-, -, hport, -, -⟩ := mem_lanePages n
  unfold State.undeskew
  split
  next p hp =>
    have hp := portOfLine_lt hp
    have hofec := mem_lanePages_ofec n hp
    unfold State.cwLock
    exact .when (.setFld (.setFld (.refl _ s) _ hport (by simp only [fldAt]; omega)) _ hofec) _ fun _ => .raise (.refl _ _) _ _ hofec
  next => exact .refl _ s

theorem lnLeft_within (s : State) (st old : Nat) : Within (lanePages n) s (lnLeft s n st old) := by
  obtain ⟨hlrx, -⟩ := mem_lanePages n
  unfold lnLeft
  exact .when (.when (.when (.when (.refl _ s) _ fun _ => frameLoss_within n s 0) _ fun _ => frameLoss_within n _ 1) _ fun _ =>
    undeskew_within n _) _ fun _ => .raise (.refl _ _) _ _ hlrx

theorem setLn_within (s : State) (st : Nat) : Within (lanePages n) s (s.setLn n st) := by
  obtain ⟨hlrx, -⟩ := mem_lanePages n
  rw [setLn_eq]
  exact .trans (.setFld (.refl _ s) _ hlrx) (lnLeft_within n _ st _)

theorem capTrig_within (s : State) (c : Nat) : Within (lanePages n) s (s.capTrig n c) := by
  obtain ⟨-, -, -, -, hcap⟩ := mem_lanePages n
  unfold State.capTrig
  split
  · split
    · exact .setCap (.refl _ s) _
    · exact .addSat (.refl _ s) 1 hcap
  · exact .refl _ s

theorem capSnr_within (s : State) (snr : Nat) : Within (lanePages n) s (s.capSnr n snr) := by
  unfold State.capSnr
  exact .setCap (.when (.refl _ s) _ fun _ => capTrig_within n s 1) _

theorem portEvents_within (s0 s : State) (p : Nat) : Within (lanePages n) s (portEvents s0 s p) := by
  obtain ⟨-, -, hport, -⟩ := mem_lanePages n
  unfold portEvents
  exact .when (.when (.when (.refl _ s) _ fun _ => .raise (.refl _ _) _ _ hport) _ fun _ => .raise (.refl _ _) _ _ hport) _ fun _ =>
    .raise (.refl _ _) _ _ hport

end

/-- With no self-test and no visit under way a change sets off the ports' events alone (R198). -/
theorem watch_portEvents (s0 : State) {s : State} (hb : s.boot.bist = none) (hp : ∀ u < 16, s.phase u = 0) :
    watch s0 s = s.each (List.range 8) (portEvents s0) := by
  have hloop : s.loopStarted = false := by
    unfold State.loopStarted
    rw [hb]
  have h := Frame.each (.refl [events] s) (List.range 8) fun u p _ => portEvents_touches s0 u p
  rw [watch_eq, hloop, when_false, pauses_settled fun u hu => (h.phase hu).trans (hp u hu)]

end Sys2Proof.Proofs

namespace Sys2Proof.Proofs

open Sys2Proof Sys2Proof.Machine Sys2Proof.Safety Sys2Proof.Laws

-- One declaration after another, as the tests are: a thread for every proof would not fit the memory of the check.
set_option Elab.async false

/-! ## The parts that a receive lane's state touches -/

/-- What hangs on a lane's state outside its page LRX (R162, R169, R175, R330). -/
abbrev laneTail : List Zone := [ifecs, highs, events, pstats PORT.PSTAT.DESKEWED, ofecs]

/-- Fields of the page LRX of lane `n`, and what hangs on the lane's state. -/
abbrev laneParts (n : Nat) (gs : List Fld) : List Zone := gs.map (fieldAt (pLRX n)) ++ laneTail

/-- Two fields of a page share no bit. -/
abbrev apart (f g : Fld) : Prop := g.off ≠ f.off ∨ f.lo + f.width ≤ g.lo ∨ g.lo + g.width ≤ f.lo

/-- What holds of each part of a lane holds of its fields and of what hangs on it. -/
theorem forall_laneParts {n : Nat} {gs : List Fld} {q : Zone → Prop} (hf : ∀ g ∈ gs, q (fieldAt (pLRX n) g)) (ht : ∀ z ∈ laneTail, q z) :
    ∀ z ∈ laneParts n gs, q z :=
  List.forall_mem_append.2 ⟨List.forall_mem_map.2 hf, ht⟩

section
variable {n : Nat} (hn : n < 8) {gs : List Fld} {s t : State}
include hn

/-- Beside the fields named, what hangs on a lane's state touches no bit of its page but EVT_RAW. -/
theorem laneParts_apart {off i : Nat} (ho : off < 0x1000 ∧ off ≠ 0x10) (hg : ∀ g ∈ gs, g.off = off → ¬ (g.lo ≤ i ∧ i < g.lo + g.width)) :
    ∀ z ∈ laneParts n gs, ¬ z (.bit (pLRX n + off) i) :=
  forall_laneParts (fun g hgs hx => hg g hgs (by have := hx.1; omega) hx.2) (by
    simp [ifecAt, ofecAt, HDR.EVT_RAW]
    simp only [pLRX, pIFEC, pOFEC, pPORT, pPERF]
    omega)

/-- A field of the page that is not named. -/
theorem Frame.lrxFld (h : Frame (laneParts n gs) s t) (f : Fld) (hf : f.off < 0x1000 ∧ f.off ≠ 0x10 := by decide)
    (hg : ∀ g ∈ gs, apart f g := by decide) :
    t.fld (pLRX n) f = s.fld (pLRX n) f :=
  h.fld fun i hlo hhi => laneParts_apart hn hf fun g hgs ho => by have := hg g hgs; omega

theorem Frame.lrxBit (h : Frame (laneParts n gs) s t) (f : Fld) (hf : f.off < 0x1000 ∧ f.off ≠ 0x10 := by decide)
    (hg : ∀ g ∈ gs, apart f g := by decide) :
    t.bit (pLRX n) f = s.bit (pLRX n) f := by
  unfold State.bit
  rw [h.lrxFld hn f hf hg]

theorem Frame.lrxState (h : Frame (laneParts n gs) s t) (hg : ∀ g ∈ gs, apart LRX.LN_STAT.STATE g := by decide) : t.lnState n = s.lnState n :=
  h.lrxFld hn LRX.LN_STAT.STATE (by decide) hg

/-- A register of the page no field of which is named. -/
theorem Frame.lrxReg (h : Frame (laneParts n gs) s t) (off : Nat) (ho : off < 0x1000 ∧ off ≠ 0x10 := by decide)
    (hg : ∀ g ∈ gs, g.off ≠ off := by decide) : t.rd (pLRX n + off) = s.rd (pLRX n + off) :=
  h.rd fun _ _ => laneParts_apart hn ho fun g hgs he => absurd he (hg g hgs)

/-- An event of the lane stays raised. -/
theorem Frame.lrxRaised (h : Frame (laneParts n gs) s t) {e : Ev} (he : Safety.raised s e n) (hfam : e.fam = 9 := by rfl)
    (hg : ∀ g ∈ gs, g.off ≠ HDR.EVT_RAW := by decide) : Safety.raised t e n :=
  h.raised he (by
    rw [hfam, show pageAt 9 n = pLRX n from rfl]
    refine forall_laneParts (fun g hgs hx => hg g hgs (by have := hx.1; omega)) ?_
    simp [ifecAt, ofecAt, HDR.EVT_RAW]
    simp only [pLRX, pPORT]
    omega)

omit hn in
/-- A register that is named whole. -/
theorem Frame.wrWhole {l : List Zone} (h : Frame l s t) {b off : Nat} (w : Word) (hz : fieldAt b (whole off) ∈ l := by simp) :
    Frame l s (t.wr (b + off) w) :=
  h.wrBits w fun i hi => .inr ⟨⟨_, hz, rfl, Nat.zero_le i, by simpa [whole] using hi⟩, .inl ⟨_, hz, rfl, Nat.zero_le i, by simpa [whole] using hi⟩⟩

theorem setLn_parts (s : State) (st : Nat) : Frame (laneParts n [LRX.LN_STAT.STATE, LRX.LN_STAT.FRAME_LOCK]) s (s.setLn n st) :=
  (setLn_touches s hn st).mono (by simp)

omit hn in
theorem capTrig_touches (s : State) (c : Nat) : Frame [highs] s (s.capTrig n c) := by
  unfold State.capTrig
  split
  · split
    · exact .setCap (.refl _ s) _
    · exact .setHigh (.refl _ s) _ (by decide)
  · exact .refl _ s

omit hn in
theorem capSnr_touches (s : State) (snr : Nat) : Frame [highs] s (s.capSnr n snr) := by
  unfold State.capSnr
  exact .setCap (.when (.refl _ s) _ fun _ => capTrig_touches s 1) _

omit hn in
theorem showFreq_parts (s : State) : Frame (laneParts n [LRX.TR_FREQ.DELTA, whole LRX.TR_STEP]) s (s.showFreq n) :=
  .wrWhole (.setField (.refl _ s) _) _

/-! ### Frame lock with the lane's state (R162) -/

/-- Frame lock's state as a lane's change leaves it. -/
theorem ifState_frameLoss (s : State) {fs : Nat} (hfs : fs < 4) : (s.frameLoss n fs).ifState n = fs := by
  have hset : (s.setFld (pIFEC n) IFEC.IF_STAT.FSTATE fs).ifState n = fs := (fld_setFld _ _ _ _ (by decide)).trans (Nat.mod_eq_of_lt hfs)
  have hleft : Frame [fieldAt (pIFEC n) IFEC.IF_STAT.FRAME_LOCK, fieldAt (pLRX n) LRX.LN_STAT.FRAME_LOCK, highs, events]
      (s.setFld (pIFEC n) IFEC.IF_STAT.FSTATE fs) (s.frameLoss n fs) := by
    unfold State.frameLoss
    dsimp only
    split
    · refine .when (.raise (.next (.modPart (.modIfec (.setField (.setField (.refl _ _) _) _) _ _) _ _) (bumpSat_touches ..)) _ _) _ fun _ => ?_
      exact (sourceLost_touches ..).mono (by simp)
    · exact .modIfec (.refl _ _) _ _
  refine (hleft.fld fun i _ hi => ?_).trans hset
  have hi : i < 2 := hi
  simp [HDR.EVT_RAW]
  simp only [pIFEC]
  omega

/-- What else hangs on a lane's state, once frame lock has followed it. -/
def lnEnd (s : State) (n st old : Nat) : State :=
  (s.when (old == 6 && st != 6) fun s => s.undeskew n).when (st == 6 && old != 6) fun s => s.raise LRX.evLOCKED n

/-- Frame lock ends as a lane falls below FRAME, and its search begins at FRAME. -/
theorem ifState_setLn (s : State) : (∀ st < 5, 5 ≤ s.lnState n → (s.setLn n st).ifState n = 0)
    ∧ (s.lnState n < 5 → (s.setLn n 5).ifState n = 1) := by
  have hkept (u : State) (st : Nat) : (lnEnd u n st (s.lnState n)).ifState n = u.ifState n := by
    have h : Frame [pstats PORT.PSTAT.DESKEWED, ofecs, events] u (lnEnd u n st (s.lnState n)) :=
      .when (.when (.refl _ u) _ fun _ => undeskew_touches u n) _ fun _ => .raise (.refl _ _) _ _
    refine h.fld fun i _ _ => ?_
    simp [ofecAt, HDR.EVT_RAW]
    simp only [pIFEC, pPORT]
    omega
  refine ⟨fun st hst hold => ?_, fun hold => ?_⟩
  · have he : s.setLn n st = lnEnd ((s.setFld (pLRX n) LRX.LN_STAT.STATE st).frameLoss n 0) n st (s.lnState n) := by
      rw [setLn_eq, lnLeft, decide_eq_true hst, decide_eq_true hold, show (st == 5) = false by simp; omega]
      rfl
    rw [he, hkept, ifState_frameLoss hn _ (by decide)]
  · have he : s.setLn n 5 = lnEnd ((s.setFld (pLRX n) LRX.LN_STAT.STATE 5).frameLoss n 1) n 5 (s.lnState n) := by
      rw [setLn_eq, lnLeft, decide_eq_true hold]
      rfl
    rw [he, hkept, ifState_frameLoss hn _ (by decide)]

end

/-! ## Losses (R66) -/

/-- What a lane that falls from LOCKED reports. -/
def lockLost (s : State) (n : Nat) : State := (s.raise LRX.evLOCK_LOST n).capTrig n 2

/-- The cause of a loss, and from LOCKED its count. -/
def lossMarked (s : State) (n cause : Nat) : State :=
  let was := s.lnState n == 6
  let s := (s.setFld (pLRX n) LRX.LN_STAT.LOSS_CAUSE cause).modLrx n fun x => { x with low := 0 }
  s.when was (fun s => s.addSat (pLRX n) (whole LRX.CNT_LOCK_LOSS) 1)

theorem laneLoss_eq (s : State) (n cause st : Nat) :
    s.laneLoss n cause st = ((lossMarked s n cause).setLn n st).when (s.lnState n == 6) fun s => lockLost s n := rfl

/-- The fields of its page that a lane's loss touches. -/
abbrev lossFields : List Fld := [LRX.LN_STAT.LOSS_CAUSE, whole LRX.CNT_LOCK_LOSS, LRX.LN_STAT.STATE, LRX.LN_STAT.FRAME_LOCK]

/-- From LOCKED: LOCK_LOST, and its count. -/
def lockCounted (s t : State) (n : Nat) : Prop := s.lnState n = 6 → raised t LRX.evLOCK_LOST n
  ∧ t.rd (pLRX n + LRX.CNT_LOCK_LOSS) = BitVec.ofNat 32 (min ((s.rd (pLRX n + LRX.CNT_LOCK_LOSS)).toNat + 1) (2 ^ 32 - 1))

section
variable {n : Nat} (hn : n < 8)

theorem lockLost_touches (s : State) : Frame [highs, events] s (lockLost s n) := .next (.raise (.refl _ s) _ _) (capTrig_touches _ 2)

theorem lockLost_within (s : State) : Within (lanePages n) s (lockLost s n) :=
  .trans (.raise (.refl _ s) _ _ (mem_lanePages n).1) (capTrig_within n _ 2)

include hn

theorem raised_lockLost (s : State) : raised (lockLost s n) LRX.evLOCK_LOST n :=
  Frame.lrxRaised hn (gs := []) (.next (.refl _ _) (capTrig_touches _ 2)) (raised_raiseBy s _ _ 0 (by decide))

omit hn in
theorem lossMarked_parts (s : State) (cause : Nat) :
    Frame (laneParts n [LRX.LN_STAT.LOSS_CAUSE, whole LRX.CNT_LOCK_LOSS]) s (lossMarked s n cause) := by
  unfold lossMarked
  exact .when (.modLrx (.setField (.refl _ s) _) _ _) _ fun _ => .setField (.refl _ _) _

theorem laneLoss_parts (s : State) (cause st : Nat) : Frame (laneParts n lossFields) s (s.laneLoss n cause st) := by
  rw [laneLoss_eq]
  exact .when (.next ((lossMarked_parts s cause).mono (by simp)) (setLn_parts hn _ st)) _ fun _ => (lockLost_touches _).mono (by simp)

omit hn in
theorem laneLoss_within (s : State) (cause st : Nat) :
    Within (lanePages n) (s.modLrx n fun x => { x with low := 0 }) (s.laneLoss n cause st) := by
  have hlrx := (mem_lanePages n).1
  have hmark : Within (lanePages n) (s.modLrx n fun x => { x with low := 0 }) (lossMarked s n cause) := by
    unfold lossMarked
    exact .when (.modLrx (.setFld (.refl _ s) cause hlrx) _ _) _ fun _ => .addSat (.refl _ _) 1 hlrx
  rw [laneLoss_eq]
  exact .when (hmark.trans (setLn_within n _ st)) _ fun _ => lockLost_within _

/-- The cause stands, and from LOCKED the loss is counted. -/
theorem lossMarked_shows (s : State) {cause : Nat} (hc : cause < 8) :
    (lossMarked s n cause).fld (pLRX n) LRX.LN_STAT.LOSS_CAUSE = cause
      ∧ (s.lnState n = 6 → (lossMarked s n cause).rd (pLRX n + LRX.CNT_LOCK_LOSS)
          = BitVec.ofNat 32 (min ((s.rd (pLRX n + LRX.CNT_LOCK_LOSS)).toNat + 1) (2 ^ 32 - 1))) := by
  let u := (s.setFld (pLRX n) LRX.LN_STAT.LOSS_CAUSE cause).modLrx n fun x => { x with low := 0 }
  have hu : Frame (laneParts n [LRX.LN_STAT.LOSS_CAUSE]) s u := .modLrx (.setField (.refl _ s) _) _ _
  have he : lossMarked s n cause = u.when (s.lnState n == 6) fun s => s.addSat (pLRX n) (whole LRX.CNT_LOCK_LOSS) 1 := rfl
  have hcount : Frame (laneParts n [whole LRX.CNT_LOCK_LOSS]) u (lossMarked s n cause) :=
    he ▸ .when (.refl _ u) _ fun _ => .setField (.refl _ u) _
  have hset : u.fld (pLRX n) LRX.LN_STAT.LOSS_CAUSE = cause := (fld_setFld _ _ _ _ (by decide)).trans (Nat.mod_eq_of_lt hc)
  refine ⟨(hcount.lrxFld hn LRX.LN_STAT.LOSS_CAUSE).trans hset, fun h => ?_⟩
  rw [he, h, beq_self_eq_true, when_true, rd_countSat, hu.lrxReg hn LRX.CNT_LOCK_LOSS]

/-- A loss leads to its state with its cause; from LOCKED it is counted, and below FRAME frame lock ends. -/
theorem laneLoss_shows (s : State) {cause st : Nat} (hc : cause < 8) (hst : st < 8) :
    (s.laneLoss n cause st).lnState n = st ∧ (s.laneLoss n cause st).fld (pLRX n) LRX.LN_STAT.LOSS_CAUSE = cause
      ∧ lockCounted s (s.laneLoss n cause st) n ∧ (st < 5 → 5 ≤ s.lnState n → (s.laneLoss n cause st).ifState n = 0) := by
  let u := lossMarked s n cause
  obtain ⟨hcause, hcount⟩ := lossMarked_shows hn s hc
  have hold : u.lnState n = s.lnState n := (lossMarked_parts s cause).lrxState hn
  have hset := setLn_parts hn u st
  have hlost : Frame [highs, events] (u.setLn n st) (s.laneLoss n cause st) := laneLoss_eq .. ▸ .when (.refl _ _) _ fun _ => lockLost_touches _
  have hend : Frame (laneParts n []) (u.setLn n st) (s.laneLoss n cause st) := hlost.mono (by simp)
  refine ⟨(hend.lrxState hn).trans (lnState_setLn hn u hst),
    ((hend.lrxFld hn LRX.LN_STAT.LOSS_CAUSE).trans (hset.lrxFld hn LRX.LN_STAT.LOSS_CAUSE)).trans hcause,
    fun hlocked => ⟨?_, ((hend.lrxReg hn LRX.CNT_LOCK_LOSS).trans (hset.lrxReg hn LRX.CNT_LOCK_LOSS)).trans (hcount hlocked)⟩,
    fun hlow hhigh => ?_⟩
  · rw [laneLoss_eq, hlocked]
    exact raised_lockLost hn _
  · have hkept : (s.laneLoss n cause st).ifState n = (u.setLn n st).ifState n := hlost.fld fun i _ _ => by
      simp [HDR.EVT_RAW]
      simp only [pIFEC]
      omega
    exact hkept.trans ((ifState_setLn hn u).1 st hlow (hold ▸ hhigh))

end

end Sys2Proof.Proofs

namespace Sys2Proof.Proofs

open Sys2Proof Sys2Proof.Machine Sys2Proof.Safety Sys2Proof.Laws

-- One declaration after another, as the tests are: a thread for every proof would not fit the memory of the check.
set_option Elab.async false

/-! ## What a lane's change sets off (R198) -/

theorem laneParts_mono (n : Nat) {gs fs : List Fld} (h : gs ⊆ fs) : laneParts n gs ⊆ laneParts n fs :=
  List.append_subset.2 ⟨fun _ hz => List.mem_append_left _ (List.map_subset _ h hz), List.subset_append_right ..⟩

/-- A lane's steps one after another touch the fields of both. -/
theorem Frame.thenLane {n : Nat} {gs fs : List Fld} {s t u : State} (h : Frame (laneParts n gs) s t) (g : Frame (laneParts n fs) t u) :
    Frame (laneParts n (gs ++ fs)) s u :=
  (h.mono (laneParts_mono n (List.subset_append_left ..))).trans (g.mono (laneParts_mono n (List.subset_append_right ..)))

/-- Nothing of a lane lies on the page CAL. -/
theorem laneParts_not_cal {n : Nat} (hn : n < 8) (gs : List Fld) (hg : ∀ g ∈ gs, g.off < 0x1000) :
    ∀ z ∈ laneParts n gs, ∀ x i, z (.bit x i) → ¬ calAt x :=
  forall_laneParts (fun g hgs x i hx hcal => by
    have := hg g hgs
    have := hx.1
    unfold calAt at hcal
    simp only [pLRX, pCAL] at *
    omega) (by
    simp +contextual [raw_not_cal]
    simp [calAt, ifecAt, ofecAt, HDR.EVT_RAW]
    simp only [pIFEC, pOFEC, pPORT, pPERF, pCAL]
    refine ⟨?_, ?_, ?_, ?_⟩ <;> intros <;> omega)

section
variable {n : Nat} (hn : n < 8) {gs : List Fld} {s u : State} (hq : settled s) (hu : Frame (laneParts n gs) s u)
include hn hq hu

/-- With no self-test and no visit under way, a lane's change sets off the ports' events alone. -/
theorem watch_lane (hg : ∀ g ∈ gs, g.off < 0x1000 := by decide) : Frame [events] u (watch s u) ∧ Within (lanePages n) u (watch s u) := by
  obtain ⟨hbist, hunits⟩ := hq
  have hfixed : sameFixed s u := hu.fixed (forall_laneParts (fun _ _ => id) (by simp))
  have hphase (w : Nat) (hw : w < 16) : u.phase w = 0 := (hu.phase hw (laneParts_not_cal hn gs hg)).trans (hunits w hw).1
  refine ⟨watch_settled s (hfixed.bist hbist) hphase, ?_⟩
  rw [watch_portEvents s (hfixed.bist hbist) hphase]
  exact .each (.refl _ u) _ fun v p _ => portEvents_within n s v p

end

/-- A lane has fallen to a state, with the loss's cause and event (R66). -/
def laneFell (s t : State) (n dst cause : Nat) (e : Ev) : Prop :=
  t.lnState n = dst ∧ t.fld (pLRX n) LRX.LN_STAT.LOSS_CAUSE = cause ∧ raised t e n ∧ lockCounted s t n

/-- Fields other than STATE and the count of losses: changing them before a loss does not matter to it. -/
abbrev besideState (gs : List Fld) : Prop :=
  (∀ g ∈ gs, apart LRX.LN_STAT.STATE g) ∧ (∀ g ∈ gs, g.off ≠ LRX.CNT_LOCK_LOSS) ∧ ∀ g ∈ gs, g.off < 0x1000

/-- A loss, its event and what it sets off. -/
def lossTold (s0 s : State) (n cause st : Nat) (e : Ev) : State := watch s0 ((s.laneLoss n cause st).raise e n)

section
variable {n : Nat} (hn : n < 8) {gs : List Fld} {s u : State} (hq : settled s) (hu : Frame (laneParts n gs) s u)
include hn hq hu

/-- A loss, its event and what it sets off, after changes that leave the lane's state. -/
theorem lossTold_shows {cause st : Nat} (hc : cause < 8) (hst : st < 8) (e : Ev) (he : e.fam = 9 ∧ e.bit < 32 := by decide)
    (hg : besideState gs := by decide) :
    Frame (laneParts n lossFields) u (lossTold s u n cause st e)
      ∧ Within (lanePages n) (u.modLrx n fun x => { x with low := 0 }) (lossTold s u n cause st e)
      ∧ laneFell s (lossTold s u n cause st e) n st cause e ∧ (st < 5 → 5 ≤ s.lnState n → (lossTold s u n cause st e).ifState n = 0) := by
  obtain ⟨hgstate, hgcount, hgoff⟩ := hg
  let v := (u.laneLoss n cause st).raise e n
  have hloss := laneLoss_parts hn u cause st
  have hraise : Frame [events] (u.laneLoss n cause st) v := .raise (.refl _ _) e n
  have hv : Frame (laneParts n lossFields) u v := hloss.next hraise
  obtain ⟨hwatch, hwithin⟩ := watch_lane hn hq (hu.thenLane hv) (List.forall_mem_append.2 ⟨hgoff, by decide⟩)
  have hend : Frame [events] (u.laneLoss n cause st) (lossTold s u n cause st e) := hraise.next hwatch
  have htail : Frame (laneParts n []) (u.laneLoss n cause st) (lossTold s u n cause st e) := hend.mono (by simp)
  obtain ⟨hstate, hcause, hcount, hif⟩ := laneLoss_shows hn u hc hst
  have hold : u.lnState n = s.lnState n := hu.lrxState hn hgstate
  refine ⟨hv.next hwatch, .trans (.raise (laneLoss_within u cause st) e n (mem_lanePages n).1 (by rw [he.1]; rfl)) hwithin,
    ⟨(htail.lrxState hn).trans hstate, (htail.lrxFld hn LRX.LN_STAT.LOSS_CAUSE).trans hcause, ?_, fun hlocked => ?_⟩, fun hlow hhigh => ?_⟩
  · exact hwatch.raised (raised_raiseBy _ e n 0 he.2) (by simp)
  · obtain ⟨hlost, hrd⟩ := hcount (hold.trans hlocked)
    exact ⟨htail.lrxRaised hn hlost, ((htail.lrxReg hn LRX.CNT_LOCK_LOSS).trans hrd).trans
      (by rw [hu.lrxReg hn LRX.CNT_LOCK_LOSS (by decide) hgcount])⟩
  · refine Eq.trans (hend.fld fun i _ _ => ?_) (hif hlow (hold ▸ hhigh))
    simp [HDR.EVT_RAW]
    simp only [pIFEC]
    omega

end

/-- Another field of a page keeps its bit. -/
theorem bit_setFld_ne (s : State) (b : Nat) (f : Fld) (v : Nat) (g : Fld) (h : apart f g) :
    (s.setFld b f v).bit b g = s.bit b g := by
  unfold State.bit
  rw [fld_setFld_ne _ _ _ _ _ _ (by omega)]

/-! ## LOS (R48, R64, R66) -/

section
variable {s : State} {n : Fin 8}

/-- The amplitude and LOS, as LOS asserts: the timing and the SNR are lost with the signal (R53, R66; log entry 100). -/
def losSet (s : State) (n ampl : Nat) : State :=
  let b := pLRX n
  let s := (s.setFld b LRX.AFE_STAT.AMPL ampl).setFld b LRX.LN_STAT.LOS 1
  (s.setFld b LRX.LN_STAT.TR_LOCK 0).setFld b LRX.SNR_EST.SNR 0

/-- The fields that LOS touches beside what its loss does. -/
abbrev losFields : List Fld := [LRX.AFE_STAT.AMPL, LRX.LN_STAT.LOS, LRX.LN_STAT.TR_LOCK, LRX.SNR_EST.SNR]

theorem losSet_parts (s : State) (n ampl : Nat) : Frame (laneParts n losFields) s (losSet s n ampl) := by
  unfold losSet
  exact .setField (.setField (.setField (.setField (.refl _ s) _) _) _) _

theorem losSet_within (s : State) (n ampl : Nat) : Within (lanePages n) s (losSet s n ampl) := by
  have hlrx := (mem_lanePages n).1
  unfold losSet
  exact .setFld (.setFld (.setFld (.setFld (.refl _ s) _ hlrx) _ hlrx) _ hlrx) _ hlrx

theorem losSet_shows (s : State) (n ampl : Nat) : (losSet s n ampl).bit (pLRX n) LRX.LN_STAT.LOS = true
    ∧ (losSet s n ampl).bit (pLRX n) LRX.LN_STAT.TR_LOCK = false ∧ (losSet s n ampl).fld (pLRX n) LRX.SNR_EST.SNR = 0 := by
  unfold losSet
  dsimp only
  refine ⟨?_, ?_, fld_setFld _ _ _ _ (by decide)⟩
  · rw [bit_setFld_ne _ _ _ _ _ (by decide), bit_setFld_ne _ _ _ _ _ (by decide), bit_setFld_one _ _ _ (by decide) (by decide)]
  · rw [bit_setFld_ne _ _ _ _ _ (by decide), bit_setFld_zero _ _ _ (by decide)]

theorem losAssert_falls (hq : settled s) (a : BitVec 10) (hst : s.lnState n ≠ 0) (hlos : s.bit (pLRX n) LRX.LN_STAT.LOS = false)
    (ha : a.toNat < 4 * s.fld (pLRX n) LRX.LOS_CFG.LOS_ON) :
    completes (.losAssert n a) s (fun t => laneFell s t n 1 1 LRX.evLOS_ASSERT ∧ t.bit (pLRX n) LRX.LN_STAT.LOS = true
      ∧ onlyPages s t (lanePages n) ∧ t.bit (pLRX n) LRX.LN_STAT.TR_LOCK = false ∧ t.fld (pLRX n) LRX.SNR_EST.SNR = 0
      ∧ (5 ≤ s.lnState n → t.ifState n = 0)) := by
  have hn := n.isLt
  obtain ⟨ht, hwt, hfell, hif⟩ := lossTold_shows hn hq (losSet_parts s n a.toNat) (cause := 1) (st := 1) (by decide) (by decide) LRX.evLOS_ASSERT
  obtain ⟨hset, htr, hsnr⟩ := losSet_shows s n a.toNat
  refine ⟨lossTold s (losSet s n a.toNat) n 1 1 LRX.evLOS_ASSERT, ?_, hfell, (ht.lrxBit hn LRX.LN_STAT.LOS).trans hset,
    onlyPages_trans (losSet_within s n a.toNat).pages hwt.pagesOfMod, (ht.lrxBit hn LRX.LN_STAT.TR_LOCK).trans htr,
    (ht.lrxFld hn LRX.SNR_EST.SNR).trans hsnr, hif (by decide)⟩
  show execLosAssert n a s = _
  unfold execLosAssert
  rw [if_pos ⟨hst, by simp [hlos], ha⟩]
  rfl

/-- LOS that clears changes the lane's page alone: below EQ nothing hangs on the state. -/
theorem losClear_climbs (a : BitVec 10) (hst : s.lnState n = 1) (hlos : s.bit (pLRX n) LRX.LN_STAT.LOS = true)
    (ha : 4 * s.fld (pLRX n) LRX.LOS_CFG.LOS_OFF < a.toNat) :
    completes (.losClear n a) s (fun t => t.lnState n = 2 ∧ t.bit (pLRX n) LRX.LN_STAT.LOS = false ∧ raised t LRX.evLOS_CLEAR n
      ∧ onlyPage s t (pLRX n)) := by
  have hn := n.isLt
  let u := (s.setFld (pLRX n) LRX.AFE_STAT.AMPL a.toNat).setFld (pLRX n) LRX.LN_STAT.LOS 0
  have hu : u.lnState n = 1 := by
    refine Eq.trans ?_ hst
    exact (Frame.setField (.setField (.refl (laneParts n [LRX.AFE_STAT.AMPL, LRX.LN_STAT.LOS]) s) _) _).lrxState hn
  have hset : u.setLn n 2 = u.setFld (pLRX n) LRX.LN_STAT.STATE 2 := by
    rw [setLn_eq, hu]
    rfl
  have hraise : Frame (laneParts n []) (u.setFld (pLRX n) LRX.LN_STAT.STATE 2) ((u.setFld (pLRX n) LRX.LN_STAT.STATE 2).raise LRX.evLOS_CLEAR n) :=
    .raise (.refl _ _) _ _
  refine ⟨(u.setFld (pLRX n) LRX.LN_STAT.STATE 2).raise LRX.evLOS_CLEAR n, ?_, (hraise.lrxState hn).trans (fld_setFld _ _ _ _ (by decide)),
    (hraise.lrxBit hn LRX.LN_STAT.LOS).trans ?_, raised_raiseBy _ _ _ 0 (by decide), onlyPage_of_onlyPages (Within.pages ?_)⟩
  · show execLosClear n a s = _
    unfold execLosClear
    rw [if_pos ⟨hst, hlos, ha⟩, ← hset]
  · rw [bit_setFld_ne _ _ _ _ _ (by decide), bit_setFld_zero _ _ _ (by decide)]
  · exact .raise (.setFld (.setFld (.setFld (.refl _ s) _ (by simp)) _ (by simp)) _ (by simp)) _ _ (List.mem_singleton_self _)

end

end Sys2Proof.Proofs

namespace Sys2Proof.Proofs

open Sys2Proof Sys2Proof.Machine Sys2Proof.Safety Sys2Proof.Laws

-- One declaration after another, as the tests are: a thread for every proof would not fit the memory of the check.
set_option Elab.async false

/-! ## Timing (R52, R53, R66) -/

/-- A code of a signed number is within its field. -/
theorem unsx_lt (w : Nat) (i : Int) : unsx w i < 2 ^ w := by
  have h : (0 : Int) < ((2 ^ w : Nat) : Int) := by exact_mod_cast Nat.two_pow_pos w
  unfold unsx
  have := Int.emod_nonneg i h.ne'
  have := Int.emod_lt_of_pos i h
  omega

section
variable {s : State} {n : Nat}

theorem lrxSt_modPipe (s : State) (n : Nat) (f : RxPipe → RxPipe) : (s.modPipe n f).lrxSt n = { s.lrxSt n with pipe := f (s.lrxSt n).pipe } := by
  unfold State.modPipe
  rw [lrxSt_modLrx, if_pos rfl]

/-- A step that changes a lane's stages changes no register. -/
theorem Frame.modPipe {l : List Zone} {s t : State} (h : Frame l s t) (n : Nat) (f : RxPipe → RxPipe) : Frame l s (t.modPipe n f) := h.modLrx n _

theorem showFreq_within (s : State) (n : Nat) : Within [pLRX n] s (s.showFreq n) :=
  .wr (.setFld (.refl _ s) _ (List.mem_singleton_self _)) _ (List.mem_singleton_self _)

theorem showFreq_shows (s : State) (n : Nat) : (s.showFreq n).fld (pLRX n) LRX.TR_FREQ.DELTA = unsx 24 (s.lrxSt n).pipe.shown := by
  unfold State.showFreq State.setFreq
  rw [fld_wr_ne _ _ _ _ _ (by simp), fld_setFld _ _ _ _ (by decide)]
  exact Nat.mod_eq_of_lt (unsx_lt ..)

/-- Five frequencies, each within 0.5 ppm of the next. -/
theorem steady_of_near {v : Nat → Rat} (h : ∀ i, i < 4 → -500 < v i - v (i + 1) ∧ v i - v (i + 1) < 500) :
    steady ((List.range 5).map v) = true := by
  have hlist : (List.range 5).map v = [v 0, v 1, v 2, v 3, v 4] := rfl
  simp only [hlist, steady, List.all_cons, List.all_nil, Bool.and_eq_true, decide_eq_true_eq]
  exact ⟨h 0 (by decide), h 1 (by decide), h 2 (by decide), h 3 (by decide), trivial⟩

end

section
variable {s : State} {n : Fin 8}

theorem timingLock_sets {v : Nat → Rat} (hrun : s.trRuns n = true) (hwin : (s.lrxSt n).pipe.trWin = (List.range 5).map v)
    (hnear : ∀ i, i < 4 → -500 < v i - v (i + 1) ∧ v i - v (i + 1) < 500) :
    completes (.timingLockSet n) s (fun t => t.bit (pLRX n) LRX.LN_STAT.TR_LOCK = true
      ∧ t.fld (pLRX n) LRX.TR_FREQ.DELTA = unsx 24 (s.lrxSt n).pipe.shown ∧ t.lnState n = s.lnState n ∧ onlyPage s t (pLRX n)) := by
  have hn := n.isLt
  let u := s.modPipe n fun p => { p with trWin := [] }
  have hu : (u.lrxSt n).pipe.shown = (s.lrxSt n).pipe.shown := by rw [lrxSt_modPipe]; rfl
  have hset : Frame (laneParts n [LRX.LN_STAT.TR_LOCK]) (u.showFreq n) ((u.showFreq n).setFld (pLRX n) LRX.LN_STAT.TR_LOCK 1) :=
    .setField (.refl _ _) _
  have hall : Frame (laneParts n [LRX.TR_FREQ.DELTA, whole LRX.TR_STEP, LRX.LN_STAT.TR_LOCK]) s
      ((u.showFreq n).setFld (pLRX n) LRX.LN_STAT.TR_LOCK 1) :=
    .setField (.next (.modPipe (.refl _ s) _ _) (showFreq_parts u)) _
  refine ⟨(u.showFreq n).setFld (pLRX n) LRX.LN_STAT.TR_LOCK 1, ?_, bit_setFld_one _ _ _ (by decide) (by decide),
    ((hset.lrxFld hn LRX.TR_FREQ.DELTA).trans (showFreq_shows u n)).trans (by rw [hu]), hall.lrxState hn, ?_⟩
  · show execTimingLockSet n s = _
    unfold execTimingLockSet
    rw [if_pos ⟨hrun, hwin ▸ steady_of_near hnear⟩]
  · have hw : Within [pLRX n] u ((u.showFreq n).setFld (pLRX n) LRX.LN_STAT.TR_LOCK 1) :=
      .setFld (showFreq_within u n) 1 (List.mem_singleton_self _)
    exact onlyPage_of_onlyPages hw.pagesOfMod

end

/-! ### Timing lost -/

section
variable {n : Nat} (hn : n < 8) {gs : List Fld} {s u : State} (hq : settled s) (hu : Frame (laneParts n gs) s u)
include hn hq hu

/-- The loss of timing clears TR_LOCK, and a lane at EQ or above falls to TIMING (R64, R66). -/
theorem trLost_shows (hg : besideState (gs ++ [LRX.LN_STAT.TR_LOCK]) := by decide)
    (htr : ∀ g ∈ gs, apart LRX.LN_STAT.TR_LOCK g := by decide) :
    (watch s (u.trLost n)).bit (pLRX n) LRX.LN_STAT.TR_LOCK = false ∧ onlyPages u (watch s (u.trLost n)) (lanePages n)
      ∧ Frame (laneParts n (LRX.LN_STAT.TR_LOCK :: lossFields)) u (watch s (u.trLost n))
      ∧ (s.bit (pLRX n) LRX.LN_STAT.TR_LOCK = true → 4 ≤ s.lnState n → laneFell s (watch s (u.trLost n)) n 3 2 LRX.evTIMING_LOST) := by
  let v := u.setFld (pLRX n) LRX.LN_STAT.TR_LOCK 0
  have hv : Frame (laneParts n [LRX.LN_STAT.TR_LOCK]) u v := .setField (.refl _ u) 0
  have hsv := hu.thenLane hv
  have hwv : Within (lanePages n) u v := .setFld (.refl _ u) 0 (mem_lanePages n).1
  have hclear : v.bit (pLRX n) LRX.LN_STAT.TR_LOCK = false := bit_setFld_zero _ _ _ (by decide)
  have hbit : u.bit (pLRX n) LRX.LN_STAT.TR_LOCK = s.bit (pLRX n) LRX.LN_STAT.TR_LOCK := hu.lrxBit hn _ (by decide) htr
  have hst : v.lnState n = s.lnState n := hsv.lrxState hn hg.1
  have he : u.trLost n = if u.bit (pLRX n) LRX.LN_STAT.TR_LOCK = true then
      if 4 ≤ v.lnState n then (v.laneLoss n 2 3).raise LRX.evTIMING_LOST n else v else u := rfl
  rw [he, hbit, hst]
  by_cases hlock : s.bit (pLRX n) LRX.LN_STAT.TR_LOCK = true
  · rw [if_pos hlock]
    by_cases hhigh : 4 ≤ s.lnState n
    · rw [if_pos hhigh]
      obtain ⟨ht, hwt, hfell, -⟩ := lossTold_shows hn hq hsv (cause := 2) (st := 3) (by decide) (by decide) LRX.evTIMING_LOST (hg := hg)
      exact ⟨(ht.lrxBit hn LRX.LN_STAT.TR_LOCK).trans hclear, onlyPages_trans hwv.pages hwt.pagesOfMod,
        (hv.mono (by simp)).next ht, fun _ _ => hfell⟩
    · rw [if_neg hhigh]
      obtain ⟨ht, hwt⟩ := watch_lane hn hq hsv hg.2.2
      exact ⟨((ht.mono (by simp) : Frame (laneParts n []) _ _).lrxBit hn LRX.LN_STAT.TR_LOCK).trans hclear,
        onlyPages_trans hwv.pages hwt.pages, (hv.mono (by simp)).next ht, fun _ h => absurd h hhigh⟩
  · rw [if_neg hlock]
    obtain ⟨ht, hwt⟩ := watch_lane hn hq hu fun g hgs => hg.2.2 g (List.mem_append_left _ hgs)
    exact ⟨((ht.mono (by simp) : Frame (laneParts n []) _ _).lrxBit hn LRX.LN_STAT.TR_LOCK).trans
      (hbit.trans (eq_false_of_ne_true hlock)), hwt.pages, ht.mono (by simp), fun h => absurd h hlock⟩

end

section
variable {s : State} {n : Fin 8} (hq : settled s) (hrun : s.trRuns n = true)
include hq hrun

/-- The range limit of the loop (R53): TR_RANGE, TR_FREQ where the loop stands, and timing is lost. -/
theorem trRange_loses (hlim : (s.lrxSt n).pipe.limit = true) :
    completes (.trRange n) s (fun t => raised t LRX.evTR_RANGE n ∧ onlyPages s t (lanePages n) ∧ t.bit (pLRX n) LRX.LN_STAT.TR_LOCK = false
      ∧ t.fld (pLRX n) LRX.TR_FREQ.DELTA = unsx 24 (s.lrxSt n).pipe.shown
      ∧ (s.bit (pLRX n) LRX.LN_STAT.TR_LOCK = true → 4 ≤ s.lnState n → laneFell s t n 3 2 LRX.evTIMING_LOST)) := by
  have hn := n.isLt
  let v := s.modPipe n fun p => { p with limit := false, trWin := [] }
  let u := (v.showFreq n).raise LRX.evTR_RANGE n
  have hraise : Frame (laneParts n []) (v.showFreq n) u := .raise (.refl _ _) _ _
  have hu : Frame (laneParts n [LRX.TR_FREQ.DELTA, whole LRX.TR_STEP]) s u :=
    .raise (.next (.modPipe (.refl _ s) _ _) (showFreq_parts v)) _ _
  have hwu : Within (lanePages n) v u :=
    .raise (.wr (.setFld (.refl _ v) _ (mem_lanePages n).1) _ (mem_lanePages n).1) _ _ (mem_lanePages n).1
  have hshown : (v.lrxSt n).pipe.shown = (s.lrxSt n).pipe.shown := by rw [lrxSt_modPipe]; rfl
  obtain ⟨hclear, hpages, ht, hfell⟩ := trLost_shows hn hq hu
  refine ⟨watch s (u.trLost n), ?_, ht.lrxRaised hn (raised_raiseBy _ _ _ 0 (by decide)), ?_, hclear, ?_, hfell⟩
  · show execTrRange n s = _
    unfold execTrRange
    rw [if_pos ⟨hrun, hlim⟩]
  · exact onlyPages_trans hwu.pagesOfMod hpages
  · exact ((ht.lrxFld hn LRX.TR_FREQ.DELTA).trans (hraise.lrxFld hn LRX.TR_FREQ.DELTA)).trans ((showFreq_shows v n).trans (by rw [hshown]))

/-- A cycle slip (R53): timing is lost. -/
theorem cycleSlip_loses : completes (.cycleSlip n) s (fun t => t.bit (pLRX n) LRX.LN_STAT.TR_LOCK = false ∧ onlyPages s t (lanePages n)
    ∧ (s.bit (pLRX n) LRX.LN_STAT.TR_LOCK = true → 4 ≤ s.lnState n → laneFell s t n 3 2 LRX.evTIMING_LOST)) := by
  have hn := n.isLt
  let u := s.modPipe n fun p => { p with trWin := [] }
  have hu : Frame (laneParts n []) s u := .modPipe (.refl _ s) _ _
  obtain ⟨hclear, hpages, -, hfell⟩ := trLost_shows hn hq hu
  exact ⟨watch s (u.trLost n), if_pos hrun, hclear, onlyPages_trans (onlyPages_modLrx ..) hpages, hfell⟩

end

/-! ## The time-out of an acquisition (R67) -/

section
variable {s : State} {n : Fin 8}

theorem acqTimeout_restarts (hq : settled s) (hlo : 2 ≤ s.lnState n) (hhi : s.lnState n ≤ 5) (hcfg : s.fld (pLRX n) ⟨LRX.ACQ_TMO, 0, 16⟩ ≠ 0) :
    completes (.acqTimeout n) s (fun t => t.lnState n = 2 ∧ onlyPages s t (lanePages n) ∧ raised t LRX.evACQ_TIMEOUT n
      ∧ t.rd (pLRX n + LRX.CNT_ACQ_FAIL) = BitVec.ofNat 32 (min ((s.rd (pLRX n + LRX.CNT_ACQ_FAIL)).toNat + 1) (2 ^ 32 - 1))) := by
  have hn := n.isLt
  let u := s.addSat (pLRX n) (whole LRX.CNT_ACQ_FAIL) 1
  let v := (u.setLn n 2).raise LRX.evACQ_TIMEOUT n
  have hu : Frame (laneParts n [whole LRX.CNT_ACQ_FAIL]) s u := .setField (.refl _ s) _
  have hset := setLn_parts hn u 2
  have hraise : Frame (laneParts n []) (u.setLn n 2) v := .raise (.refl _ _) _ _
  have hw : Within (lanePages n) s v :=
    .raise (.trans (.addSat (.refl _ s) 1 (mem_lanePages n).1) (setLn_within n u 2)) _ _ (mem_lanePages n).1
  obtain ⟨hwatch, hwithin⟩ := watch_lane hn hq ((hu.thenLane hset).thenLane hraise)
  have hend : Frame (laneParts n []) (u.setLn n 2) (watch s v) := hraise.next hwatch
  refine ⟨watch s v, if_pos ⟨hlo, hhi, hcfg⟩, (hend.lrxState hn).trans (lnState_setLn hn u (by decide)), (hw.trans hwithin).pages,
    hwatch.raised (raised_raiseBy _ _ _ 0 (by decide)) (by simp), ?_⟩
  exact ((hend.lrxReg hn LRX.CNT_ACQ_FAIL).trans (hset.lrxReg hn LRX.CNT_ACQ_FAIL)).trans (rd_countSat ..)

end

/-! ## The ADC monitor (R76) -/

section
variable {s : State} {n : Fin 8}

theorem adcMon_shows {sq clip : Nat} {rest : List (Nat × Nat)} (z : BitVec 10) (hdone : (s.lrxSt n).pipe.adcDone = (sq, clip) :: rest) :
    completes (.adcMonWindow n z) s (fun t => t.fld (pLRX n) LRX.ADC_MON.RMS = rmsOf sq ∧ t.fld (pLRX n) LRX.ADC_MON.CLIP = clip % 2 ^ 12
      ∧ t.fld (pLRX n) LRX.AFE_STAT.AMPL = z.toNat ∧ onlyPage s t (pLRX n) ∧ t.lnState n = s.lnState n) := by
  have hn := n.isLt
  let v := s.modPipe n fun p => { p with adcDone := rest }
  let u := v.setFld (pLRX n) LRX.ADC_MON.RMS (rmsOf sq)
  let w := u.setFld (pLRX n) LRX.ADC_MON.CLIP clip
  let t := w.setFld (pLRX n) LRX.AFE_STAT.AMPL z.toNat
  have ht : Frame (laneParts n [LRX.AFE_STAT.AMPL]) w t := .setField (.refl _ w) _
  have hut : Frame (laneParts n [LRX.AFE_STAT.AMPL, LRX.ADC_MON.CLIP]) u t := .setField (.setField (.refl _ u) _) _
  have hall : Frame (laneParts n [LRX.AFE_STAT.AMPL, LRX.ADC_MON.CLIP, LRX.ADC_MON.RMS]) s t :=
    .setField (.setField (.setField (.modPipe (.refl _ s) _ _) _) _) _
  have hw : Within [pLRX n] v t := .setFld (.setFld (.setFld (.refl _ v) _ (List.mem_singleton_self _)) _ (List.mem_singleton_self _)) _
    (List.mem_singleton_self _)
  have hrms : rmsOf sq < 2 ^ 12 := lt_of_le_of_lt (min_le_right _ _) (by decide)
  refine ⟨t, ?_, (hut.lrxFld hn LRX.ADC_MON.RMS).trans ((fld_setFld _ _ _ _ (by decide)).trans (Nat.mod_eq_of_lt hrms)),
    (ht.lrxFld hn LRX.ADC_MON.CLIP).trans (fld_setFld _ _ _ _ (by decide)),
    (fld_setFld _ _ _ _ (by decide)).trans (Nat.mod_eq_of_lt z.isLt), ?_, hall.lrxState hn⟩
  · show execAdcMonWindow n z s = _
    unfold execAdcMonWindow
    rw [hdone]
  · exact onlyPage_of_onlyPages hw.pagesOfMod

end

end Sys2Proof.Proofs

namespace Sys2Proof.Proofs

open Sys2Proof Sys2Proof.Machine Sys2Proof.Safety Sys2Proof.Laws

-- One declaration after another, as the tests are: a thread for every proof would not fit the memory of the check.
set_option Elab.async false

/-! ## SNR windows (R66, R177, R178) -/

/-- An SNR code is within its ten bits. -/
theorem windowSnr_lt (w : List LvlAcc) : windowSnr w < 2 ^ 10 := by
  have htenths (r : Rat) : tenthsDb r < 2 ^ 10 := by
    unfold tenthsDb
    refine List.foldlRecOn (motive := (· < 2 ^ 10)) _ _ (by decide) fun m hm k hk => ?_
    have := List.mem_range.1 hk
    split
    · omega
    · exact hm
  unfold windowSnr snrOf
  dsimp only
  split_ifs
  · decide
  · decide
  · exact htenths _

/-- The levels of a window, in the live statistics. -/
def levelsShown (s : State) (n : Nat) (w : List LvlAcc) : State :=
  (List.range 4).foldl (fun s l => s.setLv (pIFEC n + IFEC.LVL + 4 * l) (lvlWord (w.getD l ⟨0, 0, 0, 0⟩))) s

/-- The SNR shown, and watched by capture. -/
def snrTaken (s : State) (n snr : Nat) : State := (s.setFld (pLRX n) LRX.SNR_EST.SNR snr).capSnr n snr

/-- What a window shows: its SNR and its levels. -/
def snrShown (s : State) (n : Nat) (w : List LvlAcc) : State := levelsShown (snrTaken s n (windowSnr w)) n w

/-- What follows from a window's SNR for the lane. -/
def snrJudged (s : State) (n snr : Nat) : State :=
  let st := s.lnState n
  if (st = 5 ∨ st = 6) ∧ snr < s.fld (pLRX n) LRX.SNR_CFG.SNR_LOSS then
    if 63 ≤ (s.lrxSt n).low then (s.laneLoss n 3 4).raise LRX.evSNR_LOSS n
    else s.modLrx n fun x => { x with low := x.low + 1 }
  else s.modLrx n fun x => { x with low := 0 }

theorem snrWindow_eq (s : State) (n : Nat) (w : List LvlAcc) : s.snrWindow n w = snrJudged (snrShown s n w) n (windowSnr w) := rfl

theorem levelsShown_touches (s : State) (n : Nat) (w : List LvlAcc) : Frame [] s (levelsShown s n w) :=
  .foldl (.refl _ s) _ fun u _ _ => .setLv (.refl _ u) _ _

theorem levelsShown_pages (s : State) (n : Nat) (w : List LvlAcc) (l : List Nat) :
    onlyPages s (levelsShown s n w) l ∧ (levelsShown s n w).lrx = s.lrx :=
  List.foldlRecOn (motive := fun t => onlyPages s t l ∧ t.lrx = s.lrx) _ _ ⟨(Within.refl l s).pages, rfl⟩
    fun _ ⟨⟨hp, hc, hm, hr⟩, hx⟩ _ _ => ⟨⟨hp, hc, hm, hr⟩, hx⟩

theorem lv_levelsShown (s : State) (n : Nat) (w : List LvlAcc) {l : Nat} (hl : l < 4) :
    (levelsShown s n w).lv (pIFEC n + IFEC.LVL + 4 * l) = lvlWord (w.getD l ⟨0, 0, 0, 0⟩) := by
  unfold levelsShown
  rw [show List.range 4 = [0, 1, 2, 3] from rfl]
  simp only [List.foldl_cons, List.foldl_nil]
  interval_cases l <;> simp [lv_setLv_ne]

theorem snrShown_parts (s : State) (n : Nat) (w : List LvlAcc) : Frame (laneParts n [LRX.SNR_EST.SNR]) s (snrShown s n w) := by
  have h : Frame (laneParts n [LRX.SNR_EST.SNR]) s (snrTaken s n (windowSnr w)) := .next (.setField (.refl _ s) _) (capSnr_touches ..)
  unfold snrShown
  exact h.next (levelsShown_touches ..)

theorem snrShown_pages (s : State) (n : Nat) (w : List LvlAcc) : onlyPages s (snrShown s n w) (lanePages n) ∧ (snrShown s n w).lrx = s.lrx := by
  have h : Within (lanePages n) s (snrTaken s n (windowSnr w)) := .trans (.setFld (.refl _ s) _ (mem_lanePages n).1) (capSnr_within n _ _)
  obtain ⟨hpages, hlrx⟩ := levelsShown_pages (snrTaken s n (windowSnr w)) n w (lanePages n)
  unfold snrShown
  exact ⟨onlyPages_trans h.pages hpages, hlrx.trans h.lrx⟩

theorem snrShown_snr {n : Nat} (hn : n < 8) (s : State) (w : List LvlAcc) : (snrShown s n w).fld (pLRX n) LRX.SNR_EST.SNR = windowSnr w := by
  have hcap : Frame (laneParts n []) (s.setFld (pLRX n) LRX.SNR_EST.SNR (windowSnr w)) (snrTaken s n (windowSnr w)) :=
    (capSnr_touches ..).mono (by simp)
  have h := hcap.next (levelsShown_touches (snrTaken s n (windowSnr w)) n w)
  unfold snrShown
  exact (h.lrxFld hn LRX.SNR_EST.SNR).trans ((fld_setFld _ _ _ _ (by decide)).trans (Nat.mod_eq_of_lt (windowSnr_lt w)))

theorem lv_snrShown (s : State) (n : Nat) (w : List LvlAcc) {l : Nat} (hl : l < 4) :
    (snrShown s n w).lv (pIFEC n + IFEC.LVL + 4 * l) = lvlWord (w.getD l ⟨0, 0, 0, 0⟩) := lv_levelsShown _ n w hl

section
variable {n : Nat} (hn : n < 8) {gs : List Fld} {s u : State} (hq : settled s) (hu : Frame (laneParts n gs) s u)
include hn hq hu

/-- A window's SNR judged: the 64th low one in a row drops the lane to EQ, another counts, a sufficient one ends the count (R66). -/
theorem snrJudged_shows (hg : besideState gs := by decide) (snr : Nat) :
    (∃ f : LrxSt → LrxSt, (∀ x, (f x).pipe = x.pipe) ∧ Within (lanePages n) (u.modLrx n f) (watch s (snrJudged u n snr))
        ∧ Frame (laneParts n lossFields) u (watch s (snrJudged u n snr)))
      ∧ ((s.lnState n = 5 ∨ s.lnState n = 6) → snr < u.fld (pLRX n) LRX.SNR_CFG.SNR_LOSS → 63 ≤ (u.lrxSt n).low →
          laneFell s (watch s (snrJudged u n snr)) n 4 3 LRX.evSNR_LOSS)
      ∧ ((s.lnState n = 5 ∨ s.lnState n = 6) → snr < u.fld (pLRX n) LRX.SNR_CFG.SNR_LOSS → (u.lrxSt n).low < 63 →
          (watch s (snrJudged u n snr)).lnState n = s.lnState n ∧ ((watch s (snrJudged u n snr)).lrxSt n).low = (u.lrxSt n).low + 1)
      ∧ (u.fld (pLRX n) LRX.SNR_CFG.SNR_LOSS ≤ snr →
          (watch s (snrJudged u n snr)).lnState n = s.lnState n ∧ ((watch s (snrJudged u n snr)).lrxSt n).low = 0) := by
  have hold : u.lnState n = s.lnState n := hu.lrxState hn hg.1
  have counted (f : LrxSt → LrxSt) (hf : ∀ x, (f x).written = x.written) :
      Within (lanePages n) (u.modLrx n f) (watch s (u.modLrx n f)) ∧ Frame (laneParts n []) u (watch s (u.modLrx n f))
        ∧ (watch s (u.modLrx n f)).lrxSt n = f (u.lrxSt n) := by
    have hf : Frame (laneParts n []) u (u.modLrx n f) := .modLrx (.refl _ u) _ _ hf
    obtain ⟨ht, hwt⟩ := watch_lane hn hq (hu.thenLane hf) (by simpa using hg.2.2)
    exact ⟨hwt, hf.next ht, (hwt.lrxSt n).trans ((lrxSt_modLrx ..).trans (if_pos rfl))⟩
  unfold snrJudged
  dsimp only
  rw [hold]
  by_cases hlow : (s.lnState n = 5 ∨ s.lnState n = 6) ∧ snr < u.fld (pLRX n) LRX.SNR_CFG.SNR_LOSS
  · rw [if_pos hlow]
    by_cases hmany : 63 ≤ (u.lrxSt n).low
    · rw [if_pos hmany]
      obtain ⟨ht, hwt, hfell, -⟩ := lossTold_shows hn hq hu (cause := 3) (st := 4) (by decide) (by decide) LRX.evSNR_LOSS (hg := hg)
      exact ⟨⟨fun x => { x with low := 0 }, fun _ => rfl, hwt, ht⟩, fun _ _ _ => hfell,
        fun _ _ h => absurd hmany (by omega), fun h => absurd hlow.2 (by omega)⟩
    · rw [if_neg hmany]
      obtain ⟨hwt, ht, hlrx⟩ := counted (fun x => { x with low := x.low + 1 }) fun _ => rfl
      exact ⟨⟨fun x => { x with low := x.low + 1 }, fun _ => rfl, hwt, ht.mono (by simp)⟩, fun _ _ h => absurd h hmany,
        fun _ _ _ => ⟨(ht.lrxState hn).trans hold, by rw [hlrx]⟩, fun h => absurd hlow.2 (by omega)⟩
  · rw [if_neg hlow]
    obtain ⟨hwt, ht, hlrx⟩ := counted (fun x => { x with low := 0 }) fun _ => rfl
    exact ⟨⟨fun x => { x with low := 0 }, fun _ => rfl, hwt, ht.mono (by simp)⟩, fun h1 h2 => absurd ⟨h1, h2⟩ hlow, fun h1 h2 => absurd ⟨h1, h2⟩ hlow,
      fun _ => ⟨(ht.lrxState hn).trans hold, by rw [hlrx]⟩⟩

end

theorem snrWindow_shows {s : State} {n : Fin 8} (hq : settled s) {w : List LvlAcc} {rest : List (List LvlAcc)} (hrun : s.trRuns n = true)
    (hdone : (s.lrxSt n).pipe.lvlDone = w :: rest) :
    completes (.snrWindowEnd n) s (fun t => t.fld (pLRX n) LRX.SNR_EST.SNR = windowSnr w ∧ onlyPages s t (lanePages n)
      ∧ (t.lrxSt n).pipe.lvlDone = rest
      ∧ (∀ l, l < 4 → t.lv (pIFEC n + IFEC.LVL + 4 * l) = lvlWord (w.getD l ⟨0, 0, 0, 0⟩))
      ∧ ((s.lnState n = 5 ∨ s.lnState n = 6) → windowSnr w < s.fld (pLRX n) LRX.SNR_CFG.SNR_LOSS → 63 ≤ (s.lrxSt n).low →
          laneFell s t n 4 3 LRX.evSNR_LOSS)
      ∧ ((s.lnState n = 5 ∨ s.lnState n = 6) → windowSnr w < s.fld (pLRX n) LRX.SNR_CFG.SNR_LOSS → (s.lrxSt n).low < 63 →
          t.lnState n = s.lnState n ∧ (t.lrxSt n).low = (s.lrxSt n).low + 1)
      ∧ (s.fld (pLRX n) LRX.SNR_CFG.SNR_LOSS ≤ windowSnr w → t.lnState n = s.lnState n ∧ (t.lrxSt n).low = 0)) := by
  have hn := n.isLt
  let v := s.modPipe n fun p => { p with lvlDone := rest }
  let u := snrShown v n w
  have hv : Frame (laneParts n [LRX.SNR_EST.SNR]) s v := .modPipe (.refl _ s) _ _
  have hu : Frame (laneParts n [LRX.SNR_EST.SNR]) s u := hv.trans (snrShown_parts v n w)
  obtain ⟨hpages, hlrx⟩ := snrShown_pages v n w
  have hstages : u.lrxSt n = v.lrxSt n := by
    unfold State.lrxSt
    rw [hlrx]
  have hlow : (u.lrxSt n).low = (s.lrxSt n).low := by rw [hstages, lrxSt_modPipe]
  have hrest : (u.lrxSt n).pipe.lvlDone = rest := by rw [hstages, lrxSt_modPipe]
  obtain ⟨⟨f, hf, hwt, ht⟩, hfalls, hcounts, hends⟩ := snrJudged_shows hn hq hu (by decide) (windowSnr w)
  rw [hu.lrxFld hn LRX.SNR_CFG.SNR_LOSS, hlow] at *
  refine ⟨watch s (snrJudged u n (windowSnr w)), ?_, (ht.lrxFld hn LRX.SNR_EST.SNR).trans (snrShown_snr hn v w), ?_, ?_, fun l hl => ?_,
    hfalls, hcounts, hends⟩
  · show execSnrWindowEnd n s = _
    unfold execSnrWindowEnd
    dsimp only
    rw [hdone]
    dsimp only
    rw [if_pos hrun, snrWindow_eq]
  · exact onlyPages_trans (onlyPages_trans (onlyPages_modLrx ..) hpages) hwt.pagesOfMod
  · rw [hwt.lrxSt, lrxSt_modLrx, if_pos rfl, hf, hrest]
  · rw [hwt.lvl n l hl, lv_congr (modLrx_live u n f)]
    exact lv_snrShown v n w hl

end Sys2Proof.Proofs

namespace Sys2Proof.Proofs

open Sys2Proof Sys2Proof.Machine Sys2Proof.Safety Sys2Proof.Laws

-- One declaration after another, as the tests are: a thread for every proof would not fit the memory of the check.
set_option Elab.async false

/-! ## ACQ_CMD (R64, R65) -/

/-- A write of ACQ_CMD that reaches it, once its requester has been told. -/
theorem txn_acqCmd {s u : State} {r : Requester} {n : Fin 8} {v : Word} (h : reaches s r 9 n LRX.ACQ_CMD v) (he : effAcqCmd r n v s = .ok u) :
    txn r (pLRX n + LRX.ACQ_CMD) v (effAcqCmd r n v) s = .next (u.reportOk r) := by
  rw [show pLRX n = pageAt 9 n from rfl, txn_reaches _ _ _ _ _ _ _ h (pageAt_mod4 9 n), he, finish_ok]

theorem onlyPages_reportOk {s t : State} {l : List Nat} (h : onlyPages s t l) (r : Requester) : onlyPages s (t.reportOk r) l := by
  obtain ⟨hp, hc, hm, hr⟩ := nothing_reportOk t r
  exact onlyPages_trans h ⟨hp, hc, hm, fun a _ => hr a (by simp)⟩

theorem lnState_reportOk (s : State) (r : Requester) (n : Nat) : (s.reportOk r).lnState n = s.lnState n := fld_reportOk ..

theorem raised_reportOk {s : State} {e : Ev} {i : Nat} (h : raised s e i) (r : Requester) : raised (s.reportOk r) e i :=
  raised_congr h (rd_reportOk ..)

/-- ADVANCE by an engine that counts in the lane's cluster. -/
theorem effAcqCmd_advance {s : State} {n c e : Nat} (h : s.homeOf (16 * c + e) = n) : effAcqCmd (.engine c e) n 0x1 s =
    if s.lnState n = 2 then .ok (s.setLn n 3)
    else if s.lnState n = 3 ∧ s.bit (pLRX n) LRX.LN_STAT.TR_LOCK = true then .ok (s.setLn n 4)
    else if s.lnState n = 4 ∧ s.snrOk n = true then .ok (s.setLn n 5)
    else .ok s := by
  have hengine : s.engineOf (.engine c e) n = true := by
    unfold State.engineOf
    simp [h]
  unfold effAcqCmd
  rw [if_neg (by decide), hengine, if_pos (by decide)]

section
variable {s : State} {n : Fin 8}

/-- ADVANCE climbs by one state where its condition holds, and at FRAME the search for frames begins. -/
theorem acqAdvance_climbs {c e : Nat} (hhome : s.homeOf (16 * c + e) = n) (h : reaches s (.engine c e) 9 n LRX.ACQ_CMD 0x1) :
    completes (.acqAdvance (.engine c e) n) s (fun t => onlyPages s t (lanePages n)
      ∧ t.lnState n = (if s.lnState n = 2 then 3 else if s.lnState n = 3 ∧ s.bit (pLRX n) LRX.LN_STAT.TR_LOCK = true then 4
          else if s.lnState n = 4 ∧ s.snrOk n = true then 5 else s.lnState n)
      ∧ (s.lnState n = 4 → s.snrOk n = true → t.ifState n = 1)) := by
  have hn := n.isLt
  have told {u : State} (he : effAcqCmd (.engine c e) n 0x1 s = .ok u) (hpages : onlyPages s u (lanePages n))
      (hif : s.lnState n = 4 → s.snrOk n = true → u.ifState n = 1) {st : Nat} (hst : u.lnState n = st) :
      completes (.acqAdvance (.engine c e) n) s (fun t => onlyPages s t (lanePages n) ∧ t.lnState n = st
        ∧ (s.lnState n = 4 → s.snrOk n = true → t.ifState n = 1)) :=
    ⟨_, txn_acqCmd h he, onlyPages_reportOk hpages _, (lnState_reportOk ..).trans hst, fun h4 hok => (fld_reportOk ..).trans (hif h4 hok)⟩
  have heff := effAcqCmd_advance hhome
  split_ifs at heff ⊢ with h2 h3 h4
  · exact told heff (setLn_within n s 3).pages (fun h => by omega) (lnState_setLn hn s (by decide))
  · exact told heff (setLn_within n s 4).pages (fun h => by omega) (lnState_setLn hn s (by decide))
  · exact told heff (setLn_within n s 5).pages (fun _ _ => (ifState_setLn hn s).2 (by omega)) (lnState_setLn hn s (by decide))
  · exact told heff (Within.refl _ s).pages (fun h hok => absurd ⟨h, hok⟩ h4) rfl

/-- The cause of a restart, and the state that it leads to. -/
def restarted (s : State) (n : Nat) : State :=
  ((s.setFld (pLRX n) LRX.LN_STAT.LOSS_CAUSE 5).modLrx n fun x => { x with low := 0 }).setLn n 2

/-- RESTART of a lane above SIGNAL. -/
theorem effAcqCmd_restart (r : Requester) (s : State) (n : Nat) : effAcqCmd r n 0x2 s =
    if 2 ≤ s.lnState n then .ok (watch s ((restarted s n).when (s.lnState n == 6) fun s => lockLost s n)) else .ok s := rfl

/-- RESTART of a lane that acquires or is LOCKED leads to GAIN with cause 5; from LOCKED it is a loss of lock. -/
theorem restart_shows (hq : settled s) :
    let t := watch s ((restarted s n).when (s.lnState n == 6) fun s => lockLost s n)
    onlyPages s t (lanePages n) ∧ t.lnState n = 2 ∧ t.fld (pLRX n) LRX.LN_STAT.LOSS_CAUSE = 5 ∧ (s.lnState n = 6 → raised t LRX.evLOCK_LOST n) := by
  intro t
  have hn := n.isLt
  let v := (s.setFld (pLRX n) LRX.LN_STAT.LOSS_CAUSE 5).modLrx n fun x => { x with low := 0 }
  have hv : Frame (laneParts n [LRX.LN_STAT.LOSS_CAUSE]) s v := .modLrx (.setField (.refl _ s) _) _ _
  have hwv : Within (lanePages n) (s.modLrx n fun x => { x with low := 0 }) v := .modLrx (.setFld (.refl _ s) _ (mem_lanePages n).1) _ _
  have hset := setLn_parts hn v 2
  let w := (restarted s n).when (s.lnState n == 6) fun s => lockLost s n
  have hlost : Frame (laneParts n []) (restarted s n) w := .when (.refl _ _) _ fun _ => (lockLost_touches _).mono (by simp)
  have hww : Within (lanePages n) (restarted s n) w := .when (.refl _ _) _ fun _ => lockLost_within _
  obtain ⟨hwatch, hwithin⟩ := watch_lane hn hq ((hv.thenLane hset).thenLane hlost)
  have hend : Frame (laneParts n []) (restarted s n) t := hlost.next hwatch
  refine ⟨onlyPages_trans (hwv.trans (setLn_within n v 2)).pagesOfMod (hww.trans hwithin).pages,
    (hend.lrxState hn).trans (lnState_setLn hn v (by decide)), ?_, fun h => hwatch.raised ?_ (by simp)⟩
  · exact ((hend.lrxFld hn LRX.LN_STAT.LOSS_CAUSE).trans (hset.lrxFld hn LRX.LN_STAT.LOSS_CAUSE)).trans (fld_setFld _ _ _ _ (by decide))
  · show raised ((restarted s n).when (s.lnState n == 6) fun s => lockLost s n) _ _
    rw [h]
    exact raised_lockLost hn _

theorem acqRestart_restarts (hq : settled s) {r : Requester} (h : reaches s r 9 n LRX.ACQ_CMD 0x2) :
    completes (.acqRestart r n) s (fun t => onlyPages s t (lanePages n) ∧ (s.lnState n < 2 → nothing s t)
      ∧ (2 ≤ s.lnState n → t.lnState n = 2 ∧ t.fld (pLRX n) LRX.LN_STAT.LOSS_CAUSE = 5) ∧ (s.lnState n = 6 → raised t LRX.evLOCK_LOST n)) := by
  have heff := effAcqCmd_restart r s n
  split_ifs at heff with hst
  · obtain ⟨hpages, hstate, hcause, hlost⟩ := restart_shows (n := n) hq
    exact ⟨_, txn_acqCmd h heff, onlyPages_reportOk hpages r, fun hlow => by omega,
      fun _ => ⟨(lnState_reportOk ..).trans hstate, (fld_reportOk ..).trans hcause⟩, fun h6 => raised_reportOk (hlost h6) r⟩
  · exact ⟨_, txn_acqCmd h heff, onlyPages_reportOk (Within.refl _ s).pages r, fun _ => nothing_reportOk s r, fun h2 => absurd h2 hst,
      fun h6 => by omega⟩

end

/-- Settles O36, by each loss's own step and the footprints of what it sets off. -/
theorem lineReceiveLaneStates : Obligations.LineReceiveLaneStates := fun _ _ hq =>
  ⟨losAssert_falls hq, losClear_climbs, fun _ => timingLock_sets, trRange_loses hq, cycleSlip_loses hq, fun _ _ => snrWindow_shows hq,
    acqTimeout_restarts hq, fun _ _ _ z => adcMon_shows z, fun _ _ => acqAdvance_climbs, fun _ => acqRestart_restarts hq⟩

end Sys2Proof.Proofs

namespace Sys2Proof.Proofs

open Sys2Proof Sys2Proof.Machine Sys2Proof.Safety Sys2Proof.Laws

-- One declaration after another, as the tests are: a thread for every proof would not fit the memory of the check.
set_option Elab.async false

/-! ## Remote transmit requests (R107 to R111)

Short of its acceptance, a request touches the record of the last one and the page of the partner; what it takes to be accepted is read off
the branches of `State.remNew`. -/

/-- What a TXREQ cell and a response at once touch: the lane's page PART, and the record of the last request. -/
abbrev answering (n : Nat) : List Zone := [regsAt (inPage (pPART n)), regAt (pLTX n + LTX.REM_STAT), regAt (pLTX n + LTX.REM_CNT), events]

theorem cellCheck_touches (s : State) (n type : Nat) (c : Cell) : Frame [regsAt (inPage (pPART n)), events] s (s.cellCheck n type c).1 := by
  have hcnt (u : State) (f : Fld) (k : Nat) (hf : f.off < 0x1000 := by decide) :
      Frame [regsAt (inPage (pPART n)), events] u (u.addSat (pPART n) f k) :=
    .setIn (.refl _ u) (inPage (pPART n)) _ ⟨Nat.le_add_right .., Nat.add_lt_add_left hf _⟩
  have htaken : Frame [regsAt (inPage (pPART n)), events] s (s.cellTaken n) := .modPart (.refl _ s) _ _
  unfold State.cellCheck
  dsimp only
  split_ifs
  · exact .refl _ s
  · exact .raise (htaken.next (hcnt _ PART.CNT_CELL.BAD 1)) _ _
  · exact htaken.next (hcnt _ PART.CNT_SEQ.STALE 1)
  · dsimp only
    refine .modPart (.when htaken _ fun _ => ?_) _ _
    exact .raise (hcnt _ PART.CNT_SEQ.LOST _) _ _

theorem remReady_touches (s : State) (n : Nat) (atSlot : Bool) : Frame [] s (s.remReady n atSlot) := by
  unfold State.remReady
  split
  · split
    · dsimp only
      split
      · exact .refl _ s
      · exact .modPart (.modLtx (.refl _ s) _ _) _ _
    · exact .refl _ s
  · exact .refl _ s

theorem remShow_touches (s : State) (n code req arg : Nat) : Frame (answering n) s (s.remShow n code req arg) := by
  have hstat : Frame (answering n) s (((s.setFld (pLTX n) LTX.REM_STAT.LAST_REQ req).setFld (pLTX n) LTX.REM_STAT.LAST_RESP code).setFld (pLTX n)
      LTX.REM_STAT.LAST_ARG arg) := .setAt (.setAt (.setAt (.refl _ s) _) _) _
  unfold State.remShow
  dsimp only
  split
  · exact .raise (.setAt hstat _) _ _
  · exact .raise (.setAt hstat _) _ _

/-- A request that R109 calls invalid. -/
def invalidRequest (code tap step : Nat) : Prop := 6 ≤ code ∨ ((code = 2 ∨ code = 3) ∧ (tap = 7 ∨ step = 0 ∨ 8 < step))

/-- The swing that a request of codes 4 and 5 would leave. -/
def remSwing (s : State) (n code : Nat) : Int := (s.fld (pLTX n) LTX.AMP_CTRL.SWING : Int) + (if code = 4 then 1 else -1)

/-- What R110 asks of a request that changes something: the swing allowed and in range, or a FIR within its limits. -/
def remMeets (s : State) (n code tap step preset : Nat) : Prop :=
  if code = 4 ∨ code = 5 then s.bit (pLTX n) LTX.REM_CTRL.SWING_ALLOW = true ∧ 0 ≤ remSwing s n code ∧ remSwing s n code ≤ 63
  else s.firAllowed n (s.remFir n code tap step preset) = true

/-- A request short of its acceptance touches what an answer touches; one that is accepted is neither invalid nor a QUERY, and meets R110. -/
def remLimited (s t : State) (n code tap step preset : Nat) : Prop :=
  Frame (answering n) s t ∨ (code ≠ 0 ∧ ¬ invalidRequest code tap step ∧ remMeets s n code tap step preset)

section
variable {s t : State} {n : Nat} (h : Frame (answering n) s t)
include h

/-- What an answer leaves of the lane's page. -/
theorem Frame.remLtx {off : Nat} (ho : off < 0x1000 ∧ off ≠ HDR.EVT_RAW ∧ off ≠ LTX.REM_STAT ∧ off ≠ LTX.REM_CNT := by decide) :
    t.rd (pLTX n + off) = s.rd (pLTX n + off) :=
  h.rd fun i _ => by
    simp [inPage]
    simp only [pLTX, pPART, HDR.EVT_RAW] at *
    omega

theorem Frame.remFirOf {k : Nat} (hk : k < 7) : t.rd (pLTX n + LTX.FIR + 4 * k) = s.rd (pLTX n + LTX.FIR + 4 * k) := by
  rw [Nat.add_assoc]
  exact h.remLtx (by simp only [LTX.FIR, HDR.EVT_RAW, LTX.REM_STAT, LTX.REM_CNT]; omega)

/-- Nor does it matter to what R110 asks. -/
theorem remMeets_of_answered {code tap step preset : Nat} (hm : remMeets t n code tap step preset) : remMeets s n code tap step preset := by
  have hfir : t.remFir n code tap step preset = s.remFir n code tap step preset := by
    unfold State.remFir firOf
    split
    · rfl
    · refine List.map_congr_left fun k hk => ?_
      rw [h.remFirOf (List.mem_range.1 hk)]
  have hmax (l : List Int) : t.firAllowed n l = s.firAllowed n l := by
    unfold State.firAllowed
    rw [fld_congr (f := LTX.REM_CTRL.TAP_MAX) (h.remLtx), fld_congr (f := LTX.REM_CTRL.SUM_MAX) (h.remLtx)]
  unfold remMeets remSwing at *
  rwa [hfir, hmax, bit_congr (f := LTX.REM_CTRL.SWING_ALLOW) (h.remLtx), fld_congr (f := LTX.AMP_CTRL.SWING) (h.remLtx)] at hm

/-- What has been answered before a request does not matter to it. -/
theorem remLimited_of_answered {u : State} {code tap step preset : Nat} (hl : remLimited t u n code tap step preset) :
    remLimited s u n code tap step preset :=
  hl.imp h.trans fun ⟨h0, hv, hm⟩ => ⟨h0, hv, remMeets_of_answered h hm⟩

end

/-- A new request is answered at once, or accepted within the limits of R110. -/
theorem remNew_limited (s : State) (n tag code tap step preset : Nat) :
    remLimited s (s.remNew n tag code tap step preset) n code tap step preset := by
  refine remLimited_of_answered ((remReady_touches s n false).mono (by simp)) ?_
  unfold State.remNew
  generalize s.remReady n false = u
  have refused (k arg : Nat) (f : PartSt → PartSt) : Frame (answering n) u ((u.remShow n k code arg).modPart n f) :=
    .modPart (remShow_touches ..) _ _
  dsimp only
  have branch {p : Prop} [Decidable p] {x y : State} (hx : p → remLimited u x n code tap step preset)
      (hy : ¬ p → remLimited u y n code tap step preset) : remLimited u (if p then x else y) n code tap step preset :=
    iteInduction (motive := fun t => remLimited u t n code tap step preset) hx hy
  refine branch (fun _ => .inl (refused ..)) fun _ => branch (fun _ => .inl (refused ..)) fun hvalid => branch (fun _ => .inl (refused ..))
    fun hallow => branch (fun _ => .inl (refused ..)) fun _ => branch (fun _ => .inl (.modPart (.refl _ u) _ _)) fun hquery => ?_
  refine branch (fun hswing => branch (fun _ => .inl (refused ..)) fun hrange => .inr ⟨hquery, hvalid, ?_⟩)
    fun hswing => branch (fun hfir => .inr ⟨hquery, hvalid, ?_⟩) fun _ => .inl (refused ..)
  · unfold remMeets
    rw [if_pos hswing]
    have hmay : u.bit (pLTX n) LTX.REM_CTRL.SWING_ALLOW = true := by
      by_contra hno
      exact hallow ⟨hquery, .inr ⟨hswing, by simpa using hno⟩⟩
    rw [not_or, not_lt, not_lt] at hrange
    exact ⟨hmay, hrange⟩
  · unfold remMeets
    rwa [if_neg hswing]

section
variable {s : State} {n : Fin 8} {c : Cell}

theorem onCell_eq (s : State) (n type : Nat) (c : Cell) (f : State → State) : onCell n type c f s =
    .next (if (s.cellCheck n type c).2 then f ((s.cellCheck n type c).1.addWrap (pPART n) (whole PART.CNT_RXOK) 1) else (s.cellCheck n type c).1) :=
  rfl

/-- A request is a repetition, answered again, or acts. -/
theorem repeated_cases (s : State) (n type tag : Nat) (new : State → State) :
    (∃ f, s.repeated n type tag new = s.modPart n f) ∨ s.repeated n type tag new = new s := by
  unfold State.repeated
  split
  · split
    · exact .inl ⟨_, rfl⟩
    · exact .inr rfl
  · exact .inr rfl

/-- A TXREQ cell leads to an answer, or to an acceptance within the limits. -/
theorem txreqCell_limited (mine : Bool) : ∃ t, txreqCell n c mine s = .next t
    ∧ (Frame (answering n) s t ∨ mine = true ∧ remLimited s t n (pfield c 0 3) (pfield c 3 3) (pfield c 6 4) (pfield c 10 2)) := by
  cases mine
  · exact ⟨s, rfl, .inl (.refl _ s)⟩
  · have hcell : Frame (answering n) s (s.cellCheck n 2 c).1 := (cellCheck_touches s n 2 c).mono (by simp)
    refine ⟨_, (if_pos rfl).trans (onCell_eq ..), ?_⟩
    split
    · let u := (s.cellCheck n 2 c).1.addWrap (pPART n) (whole PART.CNT_RXOK) 1
      have hu : Frame (answering n) s u := .setIn hcell (inPage (pPART n)) _ ⟨Nat.le_add_right .., Nat.add_lt_add_left (by decide) _⟩
      obtain ⟨f, he⟩ | he := repeated_cases u n 2 c.tag.toNat fun s =>
        s.remNew n c.tag.toNat (pfield c 0 3) (pfield c 3 3) (pfield c 6 4) (pfield c 10 2)
      · rw [he]
        exact .inl (.modPart hu n f)
      · rw [he]
        exact .inr ⟨rfl, remLimited_of_answered hu (remNew_limited u ..)⟩
    · exact .inl hcell

/-- A request has been accepted: it asks for a commit, or the shadow's FIR or AMP_CTRL has changed. -/
def remTaken (s t : State) (n : Nat) : Prop := t.commits ≠ s.commits
  ∨ (∃ k, k < 7 ∧ t.rd (pLTX n + LTX.FIR + 4 * k) ≠ s.rd (pLTX n + LTX.FIR + 4 * k))
  ∨ t.rd (pLTX n + LTX.AMP_CTRL) ≠ s.rd (pLTX n + LTX.AMP_CTRL)

theorem not_remTaken_of_answered {s t : State} {n : Nat} (h : Frame (answering n) s t) : ¬ remTaken s t n := by
  rintro (hcommits | ⟨k, hk, hfir⟩ | hamp)
  · exact hcommits (h.same .commits (by simp))
  · exact hfir (h.remFirOf hk)
  · exact hamp (h.remLtx)

/-- A TXREQ cell of a row is accepted only if what it takes to be accepted gives `P`. -/
theorem txreq_onlyIf {i : Instr} {mine : Bool} {P : Prop} (he : exec i s = txreqCell n c mine s)
    (hP : mine = true → pfield c 0 3 ≠ 0 → ¬ invalidRequest (pfield c 0 3) (pfield c 3 3) (pfield c 6 4) →
      remMeets s n (pfield c 0 3) (pfield c 3 3) (pfield c 6 4) (pfield c 10 2) → P) :
    completes i s (fun t => remTaken s t n → P) := by
  obtain ⟨t, ht, hlim⟩ := txreqCell_limited (s := s) (n := n) (c := c) mine
  refine ⟨t, he.trans ht, fun htaken => ?_⟩
  obtain hans | ⟨hmine, hans | ⟨hquery, hvalid, hmeets⟩⟩ := hlim
  · exact absurd htaken (not_remTaken_of_answered hans)
  · exact absurd htaken (not_remTaken_of_answered hans)
  · exact hP hmine hquery hvalid hmeets

/-- The limits of R110, said of a FIR. -/
def firWithin (s : State) (n : Nat) (l : List Int) : Prop :=
  (∀ k, k < 7 → k ≠ 2 → (l.getD k 0).natAbs ≤ s.fld (pLTX n) LTX.REM_CTRL.TAP_MAX) ∧ 128 ≤ l.getD 2 0
    ∧ (∀ x ∈ l, -512 ≤ x ∧ x ≤ 511) ∧ (l.map Int.natAbs).sum ≤ s.fld (pLTX n) LTX.REM_CTRL.SUM_MAX

theorem firWithin_of_allowed {s : State} {n : Nat} {l : List Int} (h : s.firAllowed n l = true) : firWithin s n l := by
  unfold State.firAllowed at h
  rw [← List.sum_eq_foldl] at h
  simp only [Bool.and_eq_true, List.all_eq_true, List.mem_range, Bool.or_eq_true, beq_iff_eq, decide_eq_true_eq] at h
  obtain ⟨⟨⟨htaps, hmain⟩, hrange⟩, hsum⟩ := h
  exact ⟨fun k hk h2 => (htaps k hk).resolve_left h2, hmain, hrange, hsum⟩

/-- A row of a request of code `code`: a cell of another code stands for no event. -/
theorem txreqRow_onlyIf {i : Instr} {code : Nat} {P : Prop} (he : exec i s = txreqCell n c (pfield c 0 3 == code) s)
    (hP : code ≠ 0 → remMeets s n code (pfield c 3 3) (pfield c 6 4) (pfield c 10 2) → P) : completes i s (fun t => remTaken s t n → P) :=
  txreq_onlyIf he fun hmine hquery _ hmeets => by
    rw [beq_iff_eq.1 hmine] at hquery hmeets
    exact hP hquery hmeets

/-- A row of a FIR request is accepted only within the limits of its FIR. -/
theorem firRow_onlyIf {i : Instr} {code : Nat} (he : exec i s = txreqCell n c (pfield c 0 3 == code) s) (hcode : ¬ (code = 4 ∨ code = 5)) :
    completes i s (fun t => remTaken s t n → firWithin s n (s.remFir n code (pfield c 3 3) (pfield c 6 4) (pfield c 10 2))) :=
  txreqRow_onlyIf he fun _ hmeets => firWithin_of_allowed (by
    unfold remMeets at hmeets
    rwa [if_neg hcode] at hmeets)

/-- A row of a swing request is accepted only if the swing may change and stays in range. -/
theorem swingRow_onlyIf {i : Instr} {code : Nat} (he : exec i s = txreqCell n c (pfield c 0 3 == code) s) (hcode : code = 4 ∨ code = 5) :
    completes i s (fun t => remTaken s t n →
      s.bit (pLTX n) LTX.REM_CTRL.SWING_ALLOW = true ∧ 0 ≤ remSwing s n code ∧ remSwing s n code ≤ 63) :=
  txreqRow_onlyIf he fun _ hmeets => by
    unfold remMeets at hmeets
    rwa [if_pos hcode] at hmeets

theorem remInvalid_never : completes (.remInvalidRequest n c) s (fun t => remTaken s t n → False) :=
  txreq_onlyIf rfl fun hmine _ hvalid _ => hvalid (by simpa [invalidRequest, or_assoc] using hmine)

end

/-- Settles O42, by the two ways that a new request can end: an answer, which leaves the shadow and the requests, or an acceptance. -/
theorem remoteRequestsAcceptedOnlyWithinLimits : Obligations.RemoteRequestsAcceptedOnlyWithinLimits := fun _ _ _ =>
  ⟨firRow_onlyIf (code := 1) rfl (by decide), firRow_onlyIf (code := 2) rfl (by decide), firRow_onlyIf (code := 3) rfl (by decide),
    swingRow_onlyIf (code := 4) rfl (by decide), swingRow_onlyIf (code := 5) rfl (by decide),
    txreqRow_onlyIf (code := 0) rfl fun hquery _ => hquery rfl, remInvalid_never⟩

end Sys2Proof.Proofs

namespace Sys2Proof.Proofs

open Sys2Proof Sys2Proof.Machine Sys2Proof.Safety Sys2Proof.Laws

-- One declaration after another, as the tests are: a thread for every proof would not fit the memory of the check.
set_option Elab.async false

/-! ## The steps of a transmit lane's state (R97, R99) -/

/-- The pages that the state of transmit lane `n` reaches, short of leaving ACTIVE. -/
abbrev txPages (n : Nat) : List Nat := [pLTX n, pCLK, pDAWN n]

/-! ### The dawn transmitter, on its page (R301, R313) -/

/-- A packet's end, before its count and event. -/
def dawnEnded (s : State) (n result : Nat) : State :=
  let b := pDAWN n
  let s := (s.modDawn n fun x => { x with tx := none }).setFld b DAWN.TX_STAT.RESULT result
  let s := (s.setFld b ⟨DAWN.TX_STAT, 30, 2⟩ 2).setFld b DAWN.DW_STAT.TX_BUSY 0
  s.setFld b DAWN.DW_STAT.TX_BLOCKED 0

theorem dawnEnd_eq (s : State) (n result : Nat) : s.dawnEnd n result =
    if result = 0 then ((dawnEnded s n result).addSat (pDAWN n) DAWN.CNT_F.TX 1).raise DAWN.evTX_DONE n
    else (dawnEnded s n result).raise DAWN.evTX_FAIL n := rfl

section
variable {l : List Nat} {n : Nat} (hl : pDAWN n ∈ l) (s : State)
include hl

theorem dawnEnd_within (result : Nat) : Within l s (s.dawnEnd n result) := by
  have h : Within l s (dawnEnded s n result) := .setFld (.setFld (.setFld (.setFld (.step (.refl _ s)) _ hl) _ hl) _ hl) _ hl
  rw [dawnEnd_eq]
  split
  · exact .raise (.addSat h _ hl) _ _ hl
  · exact .raise h _ _ hl

theorem dawnBegin_within (p : DawnTx) : Within l s (s.dawnBegin n p) :=
  .setFld (.setFld (.setFld (.setFld (.step (.refl _ s)) _ hl) _ hl) _ hl) _ hl

theorem dawnTurn_within : Within l s (dawnTurn s n) := by
  unfold dawnTurn
  split
  · split
    · exact dawnEnd_within hl s 1
    · split
      · exact dawnBegin_within hl s _
      · exact .refl _ s
  · exact .refl _ s

theorem dawnHello_within : Within l s (dawnHello s n) := by
  unfold dawnHello
  dsimp only
  split
  · exact .trans (.step (.refl _ s)) (dawnBegin_within hl _ _)
  · exact .step (.refl _ s)

theorem dawnSettle_within : Within l s (s.dawnSettle n) := by
  rw [dawnSettle_eq]
  split
  · exact (dawnTurn_within hl s).trans (dawnHello_within hl _)
  · exact dawnTurn_within hl s

end

/-! ### A lane takes a state -/

theorem Within.modLtx {l : List Nat} {s t : State} (h : Within l s t) (n : Nat) (f : LtxSt → LtxSt) : Within l s (t.modLtx n f) := h.step

/-- STATE and the lock of the lane's PLL. -/
def txShown (s : State) (n st : Nat) : State :=
  (s.setFld (pLTX n) LTX.TX_STAT.STATE st).setFld pCLK (bitAt CLK.LOCK0 (8 + n)) (if st = 0 then 0 else 1)

/-- What leaving ACTIVE ends, and its event. -/
def txStopped (s : State) (n : Nat) : State := ((s.modLtx n fun t => { t with stop := false }).partStop n).raise LTX.evTX_INACTIVE n

/-- What follows from the state that a lane has taken. -/
def txLeft (s : State) (n st old : Nat) : State :=
  let s := s.when (old == 3 && st != 3) fun s => txStopped s n
  let s := s.when (st == 3 && old != 3) fun s => (s.partStart n).raise LTX.evTX_ACTIVE n
  let s := s.when (st == 2 && old != 2) fun s =>
    s.modLtx n fun t => { t with enc := TxEnc.init, skew := getBits (s.inf (pLTX n + LTX.SKEW_F)) 0 6 }
  s.dawnSettle n

theorem setTx_eq (s : State) (n st : Nat) : s.setTx n st = txLeft (txShown s n st) n st (s.txState n) := rfl

section
variable (s : State) {n : Nat} {st old : Nat}

theorem txShown_touches : Frame [fieldAt (pLTX n) LTX.TX_STAT.STATE, locks] s (txShown s n st) := .setLock (.setField (.refl _ s) _) _

theorem txState_txShown (hst : st < 8) : (txShown s n st).txState n = st := by
  unfold txShown State.txState
  rw [fld_setFld_ne _ _ _ _ _ _ (.inl ?_), fld_setFld _ _ _ _ (by decide)]
  · exact Nat.mod_eq_of_lt hst
  · simp only [bitAt, pLTX, pCLK, CLK.LOCK0]
    omega

theorem lock_txShown (hn : n < 8) (hst : st ≠ 0) : (txShown s n st).bit pCLK (bitAt CLK.LOCK0 (8 + n)) = true := by
  unfold txShown
  rw [if_neg hst]
  exact bit_setFld_one _ _ _ (by simp only [bitAt]; omega) (by simp [bitAt])

/-- Only a lane that leaves ACTIVE reaches beyond its dawn transmitter: there are eight. -/
theorem txLeft_touches (h : old = 3 → st ≠ 3 → n < 8) : Frame [quiets, highs, events, just (.stop n)] s (txLeft s n st old) := by
  unfold txLeft
  refine .next (.when (.when (.when (.refl _ s) _ fun hc => ?_) _ fun _ => ?_) _ fun _ => .modLtx (.refl _ _) _ _) (dawnSettle_touches ..)
  · simp only [Bool.and_eq_true, beq_iff_eq, bne_iff_ne] at hc
    exact .raise (.next (.modStop (.refl _ s) _ _) (partStop_touches _ (h hc.1 hc.2))) _ _
  · exact .raise (.next (.refl _ _) (partStart_touches ..)) _ _

/-- A lane neither in ACTIVE nor on its way there: its own page, its PLL's lock and its dawn transmitter. -/
theorem setTx_within (hold : s.txState n ≠ 3) (hst : st ≠ 3) : Within (txPages n) s (s.setTx n st) := by
  have hlock : (bitAt CLK.LOCK0 (8 + n)).off < 0x1000 := show CLK.LOCK0 < 0x1000 by decide
  have hs : Within (txPages n) s (txShown s n st) := .setFld (.setFld (.refl _ s) _ (by simp)) _ (by simp) hlock
  rw [setTx_eq, txLeft, beq_false_of_ne hold, beq_false_of_ne hst, Bool.false_and, Bool.false_and]
  exact .trans (.when hs _ fun _ => .modLtx (.refl _ _) _ _) (dawnSettle_within (by simp) _)

variable (hn : n < 8)
include hn

theorem setTx_shows (hst : st < 8) : (s.setTx n st).txState n = st
    ∧ (st ≠ 0 → (s.setTx n st).bit pCLK (bitAt CLK.LOCK0 (8 + n)) = true) := by
  have h := txLeft_touches (txShown s n st) (n := n) (st := st) (old := s.txState n) fun _ _ => hn
  rw [setTx_eq]
  refine ⟨(h.fld fun i _ _ => ?_).trans (txState_txShown s hst), fun h0 => (h.bit fun i _ _ => ?_).trans (lock_txShown s hn h0)⟩
  · simp [HDR.EVT_RAW]
    simp only [pLTX, pCAL]
    omega
  · simp [HDR.EVT_RAW, bitAt]
    simp only [pCAL, pCLK, pPERF, CAL.U_STAT, CLK.LOCK0]
    omega

theorem setTx_settling (st : Nat) : Frame (settling 8) s (s.setTx n st) :=
  (setTx_touches s hn st).cover (by
    have hs : fieldAt (pLTX n) LTX.TX_STAT.STATE ≤ txs 8 := bitsAt_le fun x i h => by
      obtain ⟨rfl, -, hi⟩ := h
      unfold inPage
      simp only [pLTX, pCAL, LTX.TX_STAT] at *
      omega
    have hstop : just (.stop n) ≤ stops 8 := fun y hy => by subst hy; exact Nat.ne_of_lt hn
    simp [hs, hstop])

end

/-! ### A lane that can run settles (R99) -/

/-- The state to which a lane that can run goes over, by whether an enabled port contains it and by its BEACON. -/
def txRest (st : Nat) (on beacon : Bool) : Nat :=
  if st = 2 ∧ (on || !beacon) = true then 1 else if st = 1 ∧ (!on && beacon) = true then 2 else st

theorem txRest_moves {st : Nat} {on beacon : Bool} (h : txRest st on beacon ≠ st) : st ≠ 3 ∧ txRest st on beacon ∈ [1, 2] := by
  unfold txRest at *
  split_ifs at * with h2 h1
  · exact ⟨by omega, by simp⟩
  · exact ⟨by omega, by simp⟩
  · exact absurd rfl h

theorem not_inNight_of_noon {s : State} (h : s.noon = true) : s.inNight = false := by
  unfold State.noon at h
  unfold State.inNight
  by_contra hnight
  simp_all

/-- The state that lane `n` goes over to. -/
def txNext (s : State) (n : Nat) : Nat := txRest (s.txState n) (s.portOfLine n).isSome (s.bit (pLTX n) LTX.TX_CTRL.BEACON)

section
variable {s : State} {n : Nat} (hcan : s.canRun = true)
include hcan

theorem settleTx_rests : s.settleTx n = if txNext s n = s.txState n then s else s.setTx n (txNext s n) := by
  obtain ⟨hnoon, href⟩ : s.noon = true ∧ s.refOk = true := by simpa [State.canRun] using hcan
  unfold State.settleTx txNext txRest
  simp only [hnoon, href, not_inNight_of_noon hnoon]
  by_cases h2 : s.txState n = 2
  · cases (s.portOfLine n).isSome <;> cases s.bit (pLTX n) LTX.TX_CTRL.BEACON <;> simp [h2]
  · by_cases h1 : s.txState n = 1
    · cases (s.portOfLine n).isSome <;> cases s.bit (pLTX n) LTX.TX_CTRL.BEACON <;> simp [h1]
    · simp [h1, h2]

theorem settleTx_shows (hn : n < 8) : (s.settleTx n).txState n = txNext s n ∧ Within (txPages n) s (s.settleTx n)
    ∧ (s.bit pCLK (bitAt CLK.LOCK0 (8 + n)) = true → (s.settleTx n).bit pCLK (bitAt CLK.LOCK0 (8 + n)) = true) := by
  rw [settleTx_rests hcan]
  split_ifs with h
  · exact ⟨h.symm, .refl _ s, id⟩
  · obtain ⟨hold, hnew⟩ := txRest_moves h
    change txNext s n ∈ [1, 2] at hnew
    have hnew : txNext s n = 1 ∨ txNext s n = 2 := by simpa using hnew
    obtain ⟨hst, hlock⟩ := setTx_shows s hn (st := txNext s n) (by omega)
    exact ⟨hst, setTx_within s hold (by omega), fun _ => hlock (by omega)⟩

end

/-- The enabled port of a lane. -/
theorem Frame.portOfLine {s t : State} {p k j : Nat} {l : List Zone} (h : Frame l s t) (hl : l ⊆ porting p k j) (n : Nat) :
    t.portOfLine n = s.portOfLine n := by
  unfold State.portOfLine
  refine List.find?_congr fun q hq => ?_
  have hq := List.mem_range.1 hq
  rw [h.portOn hl hq, h.portLanes (List.subset_cons_of_subset _ hl) hq]

section
variable {s : State} {n : Fin 8} (hcan : s.canRun = true)
include hcan

/-- A PLL that locks takes its lane from OFF to SQUELCH, and on to BEACON without a port (R99). -/
theorem txPllLocked_starts (hl : n.val < s.lines) (hst : s.txState n = 0)
    (hon : (s.portOfLine n).isSome = true ∨ s.bit (pLTX n) LTX.TX_CTRL.BEACON = true) :
    completes (.txPllLocked n) s (fun t => t.txState n = (if (s.portOfLine n).isSome = true then 1 else 2)
      ∧ t.bit pCLK (bitAt CLK.LOCK0 (8 + n)) = true ∧ onlyPages s t (txPages n)) := by
  have hn := n.isLt
  let u := s.setTx n 1
  have hu : Frame (settling 8) s u := setTx_settling s hn 1
  obtain ⟨hone, hlock⟩ := setTx_shows s hn (st := 1) (by decide)
  obtain ⟨hstate, hwithin, hkept⟩ := settleTx_shows (s := u) (n := n) ((hu.canRun (q := 0) (k := 8) (j := 8) (by simp)).trans hcan) hn
  have hbeacon : u.bit (pLTX n) LTX.TX_CTRL.BEACON = s.bit (pLTX n) LTX.TX_CTRL.BEACON := hu.bit fun i _ _ => by
    simp [hslAt, lockAt, HDR.EVT_RAW]
    simp only [pLTX, pCAL, pCLK, CAL.U_STAT, CLK.LOCK0, CLK.LOCK1, LTX.TX_STAT]
    omega
  refine ⟨u.settleTx n, ?_, hstate.trans ?_, hkept (hlock (by decide)), ((setTx_within s (by omega) (by decide)).trans hwithin).pages⟩
  · show execTxPllLocked n s = _
    unfold execTxPllLocked
    rw [if_pos ⟨hl, hst, hcan, hon⟩]
  · rw [txNext, show u.txState n = 1 from hone, hu.portOfLine (p := 0) (k := 8) (j := 8) (by simp), hbeacon]
    cases hport : (s.portOfLine n).isSome
    · rw [hon.resolve_left (by simp [hport])]
      rfl
    · rfl

/-- A write of TX_CTRL without a reserved pattern: its BEACON, and the state that the lane goes over to (R99, R104). -/
theorem txCtrl_settles {r : Requester} {v : Word} (h : reaches s r 10 n LTX.TX_CTRL v) (hpat : getBits v 4 3 ≤ 4) :
    ∃ t, txn r (pLTX n + LTX.TX_CTRL) v (effTxCtrl n v) s = .next t ∧ t.bit (pLTX n) LTX.TX_CTRL.BEACON = v.getLsbD 0
      ∧ onlyPages s t (txPages n) ∧ t.txState n = txRest (s.txState n) (s.portOfLine n).isSome (v.getLsbD 0) := by
  have hn := n.isLt
  let u := s.wr (pLTX n + LTX.TX_CTRL) v
  have hu : Frame [ltxs] s u := .wrIn (.refl _ s) ltxAt v (by
    unfold ltxAt
    simp only [pLTX, pCAL, LTX.TX_CTRL, LTX.TX_STAT]
    omega)
  have hctrl : u.bit (pLTX n) LTX.TX_CTRL.BEACON = v.getLsbD 0 := by
    rw [show LTX.TX_CTRL.BEACON = bitAt LTX.TX_CTRL 0 from rfl, bit_bitAt]
    exact congrArg (fun w : Word => w.getLsbD 0) (rd_wr_self ..)
  obtain ⟨hstate, hwithin, -⟩ := settleTx_shows (s := u) (n := n) ((hu.canRun (q := 0) (k := 8) (j := 8) (by simp)).trans hcan) hn
  have hkept : (u.settleTx n).bit (pLTX n) LTX.TX_CTRL.BEACON = u.bit (pLTX n) LTX.TX_CTRL.BEACON := (settleTx_touches u hn).bit fun i _ _ => by
    simp [lockAt, HDR.EVT_RAW]
    simp only [pLTX, pCAL, pCLK, CAL.U_STAT, CLK.LOCK0, CLK.LOCK1]
    omega
  refine ⟨(u.settleTx n).reportOk r, ?_, (bit_congr (rd_reportOk ..)).trans (hkept.trans hctrl),
    onlyPages_reportOk ((Within.wr (.refl _ s) v (by simp)).trans hwithin).pages r, (fld_reportOk ..).trans (hstate.trans ?_)⟩
  · rw [show pLTX n = pageAt 10 n from rfl, txn_reaches _ _ _ _ _ _ _ h (pageAt_mod4 10 n), effTxCtrl, if_neg (by omega), finish_ok]
  · rw [txNext, hctrl, hu.portOfLine (p := 0) (k := 8) (j := 8) (by simp), hu.txState (p := 0) (k := 8) (j := n) (by simp) hn]

/-- BEACON set: a lane in SQUELCH beacons if no enabled port contains it (R99). -/
theorem txBeaconSet_beacons {r : Requester} (h : reaches s r 10 n LTX.TX_CTRL (s.rd (pLTX n + LTX.TX_CTRL) ||| 0x1))
    (hpat : s.fld (pLTX n) LTX.TX_CTRL.PAT ≤ 4) :
    completes (.txBeaconSet r n) s (fun t => t.bit (pLTX n) LTX.TX_CTRL.BEACON = true ∧ onlyPages s t (txPages n)
      ∧ (s.txState n = 1 → t.txState n = if (s.portOfLine n).isSome = true then 1 else 2)
      ∧ (s.txState n = 0 ∨ s.txState n = 3 → t.txState n = s.txState n)) := by
  have hkeep : getBits (s.rd (pLTX n + LTX.TX_CTRL) ||| 0x1) 4 3 = s.fld (pLTX n) LTX.TX_CTRL.PAT := by
    refine Nat.eq_of_testBit_eq fun i => ?_
    rw [State.fld, testBit_getBits, testBit_getBits]
    simp [BitVec.getLsbD_one]
  have hbit : (s.rd (pLTX n + LTX.TX_CTRL) ||| 0x1).getLsbD 0 = true := by simp
  obtain ⟨t, he, hbeacon, hpages, hstate⟩ := txCtrl_settles hcan h (hkeep.trans_le hpat)
  rw [hbit] at hbeacon hstate
  refine ⟨t, he, hbeacon, hpages, fun h1 => ?_, fun h03 => ?_⟩
  · rw [hstate, h1]
    cases (s.portOfLine n).isSome <;> rfl
  · rw [hstate]
    rcases h03 with h0 | h3
    · rw [h0]
      rfl
    · rw [h3]
      rfl

/-- BEACON cleared: a lane in BEACON goes back to SQUELCH (R99). -/
theorem txBeaconClear_squelches {r : Requester} (h : reaches s r 10 n LTX.TX_CTRL (s.rd (pLTX n + LTX.TX_CTRL) &&& ~~~0x1))
    (hpat : s.fld (pLTX n) LTX.TX_CTRL.PAT ≤ 4) :
    completes (.txBeaconClear r n) s (fun t => t.bit (pLTX n) LTX.TX_CTRL.BEACON = false ∧ onlyPages s t (txPages n)
      ∧ (s.txState n = 2 → t.txState n = 1) ∧ (s.txState n ≠ 2 → t.txState n = s.txState n)) := by
  have hkeep : getBits (s.rd (pLTX n + LTX.TX_CTRL) &&& ~~~0x1) 4 3 = s.fld (pLTX n) LTX.TX_CTRL.PAT := by
    refine Nat.eq_of_testBit_eq fun i => ?_
    rw [State.fld, testBit_getBits, testBit_getBits, BitVec.getLsbD_and, BitVec.getLsbD_not]
    by_cases hi : i < 3
    · simp [hi, show 4 + i < 32 by omega]
    · simp [hi]
  have hbit : (s.rd (pLTX n + LTX.TX_CTRL) &&& ~~~0x1).getLsbD 0 = false := by simp
  obtain ⟨t, he, hbeacon, hpages, hstate⟩ := txCtrl_settles hcan h (hkeep.trans_le hpat)
  rw [hbit] at hbeacon hstate
  refine ⟨t, he, hbeacon, hpages, fun h2 => ?_, fun h2 => ?_⟩
  · rw [hstate, h2]
    cases (s.portOfLine n).isSome <;> rfl
  · rw [hstate, txRest, if_neg fun h => h2 h.1, if_neg (by simp)]

omit hcan in
/-- SQ_HOLD's end is kept for the lane of an enabled port (R99). -/
theorem sqHoldExpiry_kept (hport : (s.portOfLine n).isSome = true) :
    completes (.sqHoldExpiry n) s (fun t => (t.ltxSt n).sq = true ∧ nothing s t) := by
  refine ⟨s.modLtx n fun t => { t with sq := true }, ?_, ?_, rfl, fun _ => rfl, fun _ => rfl, fun _ _ => rfl⟩
  · show execSqHoldExpiry n s = _
    unfold execSqHoldExpiry
    rw [if_pos hport]
  · rw [ltxSt_modLtx, if_pos rfl]

omit hcan in
/-- A skew step moves the interpolator towards SKEW_F in force, and nothing else (R97). -/
theorem skewFineStep_moves (hst : 2 ≤ s.txState n) : let want := getBits (s.inf (pLTX n + LTX.SKEW_F)) 0 6
    completes (.skewFineStep n) s (fun t => nothing s t ∧ (t.ltxSt n).skew
      = if (s.ltxSt n).skew < want then (s.ltxSt n).skew + 1 else if want < (s.ltxSt n).skew then (s.ltxSt n).skew - 1 else want) := by
  intro want
  refine ⟨s.modLtx n fun t => { t with skew := if t.skew < want then t.skew + 1 else if want < t.skew then t.skew - 1 else t.skew }, ?_,
    ⟨rfl, fun _ => rfl, fun _ => rfl, fun _ _ => rfl⟩, ?_⟩
  · show execSkewFineStep n s = _
    unfold execSkewFineStep
    rw [if_pos hst]
  · rw [ltxSt_modLtx, if_pos rfl]
    dsimp only
    split_ifs
    · rfl
    · rfl
    · omega

end

end Sys2Proof.Proofs

namespace Sys2Proof.Proofs

open Sys2Proof Sys2Proof.Machine Sys2Proof.Safety Sys2Proof.Laws

-- One declaration after another, as the tests are: a thread for every proof would not fit the memory of the check.
set_option Elab.async false

/-! ## A commit point with nothing to do (R30, R138, R142) -/

/-- Nothing waits to commit, and nothing is under way in calibration. -/
def calm (s : State) : Prop := settled s ∧ s.commits = []

/-- The PHASE of a unit of calibration. -/
def phaseAt (x i : Nat) : Prop := ∃ u < 16, x = pCAL + (uf u CAL.U_STAT.PHASE).off ∧ i < 3

theorem phaseAt_within {x i : Nat} (h : phaseAt x i) : 0x10020080 ≤ x ∧ x < 0x100200C0 ∧ i < 3 := by
  obtain ⟨u, hu, rfl, hi⟩ := h
  simp only [uf, fldAt, pCAL]
  omega

theorem phase_bit {s : State} (hq : settled s) {x i : Nat} (h : phaseAt x i) : (s.rd x).getLsbD i = false := by
  obtain ⟨u, hu, rfl, hi⟩ := h
  have hzero : getBits (s.rd (pCAL + (uf u CAL.U_STAT.PHASE).off)) 0 3 = 0 := (hq.2 u hu).1
  have hbit := testBit_getBits (s.rd (pCAL + (uf u CAL.U_STAT.PHASE).off)) 0 3 i
  rw [hzero, Nat.zero_testBit, decide_eq_true hi, Bool.true_and, Nat.zero_add] at hbit
  exact hbit.symm

/-- A change beside the phases leaves a state calm. -/
theorem Frame.calm {l : List Zone} {s t : State} (h : Frame l s t) (hc : calm s)
    (hl : ∀ z ∈ l, ¬ z .fixed ∧ ¬ z .cal ∧ ¬ z .commits := by simp) (hp : ∀ x i, phaseAt x i → ∀ z ∈ l, ¬ z (.bit x i)) : calm t := by
  obtain ⟨⟨hbist, hunits⟩, hcommits⟩ := hc
  refine ⟨⟨(h.fixed fun z hz => (hl z hz).1).bist hbist, fun u hu => ?_⟩, (h.same .commits fun z hz => (hl z hz).2.2).trans hcommits⟩
  obtain ⟨hphase, hrest⟩ := hunits u hu
  have hcal : t.calSt u = s.calSt u := congrArg (fun c => Tbl.get CalSt.init c u) (h.same .cal fun z hz => (hl z hz).2.1)
  rw [hcal]
  refine ⟨(h.fld fun i _ hi => hp _ i ⟨u, hu, rfl, ?_⟩).trans hphase, hrest⟩
  simpa [uf, fldAt] using hi

theorem applyCommits_none {s : State} (h : s.commits = []) (page dir late frame : Nat) : s.applyCommits page dir late frame = s := by
  rw [applyCommits_eq, h, if_pos (by simp [takeDue])]

/-- With nothing flagged, waiting or to be retired, a commit point at most forgets that nothing is to be retired. -/
theorem calPoint_idle {s : State} {u : Nat} (hw : (s.calSt u).wait = 0) (hs : (s.calSt u).suspect = 0) (hr : (s.calSt u).retireCmd = []) :
    ∃ b, s.calPoint u = s.when b fun s => s.modCal u fun x => { x with retireCmd := [] } := by
  have hnone : s.emergencySlice u = none := by
    unfold State.emergencySlice State.suspectSlice
    simp [hr, hs]
  have he : s.emergency u = s := by
    unfold State.emergency
    rw [hnone]
  obtain ⟨b, hret⟩ : ∃ b, s.retireSpare u = s.when b fun s => s.modCal u fun x => { x with retireCmd := [] } := by
    unfold State.retireSpare
    rw [hr]
    exact ⟨_, rfl⟩
  have hwait : ((s.retireSpare u).calSt u).wait = 0 := by
    rw [hret]
    cases b
    · exact hw
    · rw [when_true, calSt_modCal, if_pos rfl]
      exact hw
  refine ⟨b, ?_⟩
  unfold State.calPoint
  rw [he]
  dsimp only
  rw [hwait]
  exact hret

section
variable {s : State} (hc : calm s)
include hc

theorem calPoint_calm {u : Nat} (hu : u < 16) : Frame [just .cal] s (s.calPoint u) ∧ calm (s.calPoint u) := by
  obtain ⟨hq, hcommits⟩ := hc
  obtain ⟨hbist, hunits⟩ := hq
  obtain ⟨-, hwait, hsus, hret⟩ := hunits u hu
  have h := calPoint_settled hwait hsus hret
  refine ⟨h, ⟨(h.fixed (by simp)).bist hbist, fun v hv => ?_⟩, (h.same .commits (by simp)).trans hcommits⟩
  have hcal : (s.calPoint u).calSt v = s.calSt v := by
    obtain ⟨b, he⟩ := calPoint_idle hwait hsus hret
    rw [he]
    cases b
    · rfl
    · rw [when_true, calSt_modCal]
      split_ifs with hvu
      · rw [hvu, ← hret]
      · rfl
  rw [hcal]
  exact ⟨(h.phase hv).trans (hunits v hv).1, (hunits v hv).2⟩

/-- A transmit lane's commit point, with nothing to do, is the dawn transmitter's. -/
theorem txPoint_calm {n : Nat} (hn : n < 8) (late : Nat) : Frame [just .cal, highs, events] s (s.txPoint n late) ∧ calm (s.txPoint n late) := by
  have he : s.txPoint n late = (s.calPoint (8 + n)).dawnSettle n := by
    unfold State.txPoint
    dsimp only
    rw [applyCommits_none hc.2]
    simp
  obtain ⟨hcal, hcalm⟩ := calPoint_calm hc (u := 8 + n) (by omega)
  have hdawn := dawnSettle_touches (s.calPoint (8 + n)) n
  rw [he]
  refine ⟨.next (hcal.mono (by simp)) hdawn, hdawn.calm hcalm (hp := fun x i hx => ?_)⟩
  have hx := phaseAt_within hx
  simp [HDR.EVT_RAW]
  simp only [pPERF]
  omega

end

/-! ## A stop takes effect at a frame boundary (R99, R101) -/

/-- A lane that leaves ACTIVE reports it. -/
theorem raised_setTx_inactive {s : State} {n : Nat} (hn : n < 8) (hst : s.txState n = 3) : raised (s.setTx n 1) LTX.evTX_INACTIVE n := by
  rw [setTx_eq, hst]
  show raised ((txStopped (txShown s n 1) n).dawnSettle n) _ _
  refine (dawnSettle_touches _ n).raised (raised_raiseBy _ _ _ 0 (by decide)) ?_
  rw [show pageAt LTX.evTX_INACTIVE.fam n = pLTX n from rfl]
  simp
  simp only [pLTX, pPERF, HDR.EVT_RAW]
  omega

/-- The parts that a frame boundary touches before its stop. -/
abbrev boundaryParts (n : Nat) : List Zone :=
  [regAt (pLTX n + LTX.CLIP_CNT), regAt (pLTX n + LTX.FRAME_CNT), events, just .cal, highs, quiets]

section
variable {s : State} {n : Nat} (hn : n < 8) (hc : calm s)
include hn hc

/-- A frame boundary with nothing waiting to commit, before its stop. -/
theorem txSettled_calm (late : Nat) : Frame (boundaryParts n) s (txSettled (txCounted s n) (txApplied s n late) n) := by
  have hcount : Frame [regAt (pLTX n + LTX.CLIP_CNT), events, regAt (pLTX n + LTX.FRAME_CNT)] s (txCounted s n) :=
    .setIn ((txSend_touches s n).mono (by simp)) (· = pLTX n + LTX.FRAME_CNT) _ rfl
  have hcalm : calm (txCounted s n) := hcount.calm hc (hp := fun x i hx => by
    have hx := phaseAt_within hx
    simp [HDR.EVT_RAW]
    simp only [pLTX, LTX.CLIP_CNT, LTX.FRAME_CNT]
    omega)
  have hpoint := (txPoint_calm hcalm hn late).1
  exact .next (hcount.mono (by simp)) hpoint

omit hc in
theorem boundaryParts_apart {off i : Nat} (ho : off < 0x1000 ∧ off ≠ 0x10 ∧ off ≠ 0x68 ∧ off ≠ 0x7C := by decide) :
    ∀ z ∈ boundaryParts n, ¬ z (.bit (pLTX n + off) i) := by
  simp [HDR.EVT_RAW, LTX.CLIP_CNT, LTX.FRAME_CNT]
  simp only [pLTX, pCAL, pPERF, CAL.U_STAT]
  omega

omit hc in
theorem boundaryParts_enabling : ∀ z ∈ boundaryParts n, ∃ w ∈ enabling 0 8 8, z ≤ w := by
  have h {off : Nat} (ho : off < 0x1000 ∧ off ≠ LTX.TX_STAT) : regAt (pLTX n + off) ≤ ltxs := bitsAt_le fun x _ hx => by
    subst hx
    unfold ltxAt
    simp only [pLTX, pCAL, LTX.TX_STAT] at *
    omega
  simp [h (off := LTX.CLIP_CNT) (by decide), h (off := LTX.FRAME_CNT) (by decide)]

end

/-- The parts that a lane's state touches keep its events. -/
theorem setTx_keepsRaw {n : Nat} (hn : n < 8) {e : Ev} (he : e.fam = 10) :
    ∀ z ∈ [fieldAt (pLTX n) LTX.TX_STAT.STATE, locks, quiets, highs, events, just (.stop n)], ¬ z (.set (pageAt e.fam n + HDR.EVT_RAW) e.bit) := by
  rw [he, show pageAt 10 n = pLTX n from rfl]
  simp [lockAt]
  simp only [pLTX, pCAL, pCLK, pPERF, HDR.EVT_RAW, CAL.U_STAT, CLK.LOCK0, CLK.LOCK1]
  omega

/-- A lane that stops: it leaves ACTIVE with its event, and settles where it may be. -/
theorem stopped_shows {s u t : State} {n : Nat} (hn : n < 8) (hcan : s.canRun = true) (hq : settled s) (hu : Frame (enabling 0 8 8) s u)
    (hst : u.txState n = 3) (ht : t = watch s ((u.setTx n 1).settleTx n)) : t.txState n ≠ 3 ∧ raised t LTX.evTX_INACTIVE n := by
  rw [ht]
  let v := u.setTx n 1
  let w := v.settleTx n
  have hv : Frame (enabling 0 8 8) s v := hu.next (setTx_settling u hn 1)
  have hw : Frame (enabling 0 8 8) s w := hv.next (settleTx_settling v hn (k := 8) fun h => absurd h (by decide))
  have hwatch := settled_watch hq hw (List.Subset.refl _)
  obtain ⟨hwst, -⟩ := settleTx_shows ((hv.canRun (List.Subset.refl _)).trans hcan) hn
  have hleft : w.txState n ≠ 3 := by
    rw [show w.txState n = _ from hwst, txNext, show v.txState n = 1 from (setTx_shows u hn (by decide)).1]
    cases (v.portOfLine n).isSome <;> cases v.bit (pLTX n) LTX.TX_CTRL.BEACON <;> decide
  refine ⟨fun h3 => hleft ((hwatch.fld fun i _ _ => ?_).symm.trans h3),
    hwatch.raised ((settleTx_touches v hn).raised (raised_setTx_inactive hn hst) (setTx_keepsRaw hn rfl)) (by simp)⟩
  simp [HDR.EVT_RAW]
  simp only [pLTX]
  omega

/-- A stop requested of an ACTIVE lane takes effect at its frame boundary; its count goes one on all the same (log entry 100). -/
theorem lineTx_stops {s : State} {n : Fin 8} (hcan : s.canRun = true) (hc : calm s) (hst : s.txState n = 3) (hstop : (s.ltxSt n).stop = true) :
    completes (.lineTxFrameBoundary n 0) s (fun t => t.txState n ≠ 3 ∧ raised t LTX.evTX_INACTIVE n
      ∧ t.rd (pLTX n + LTX.FRAME_CNT) = s.rd (pLTX n + LTX.FRAME_CNT) + 1) := by
  have hn := n.isLt
  obtain ⟨t, he, -, hcount, -⟩ := lineTx_applies s n hst
  obtain ⟨opens, he'⟩ := exec_lineTxFrameBoundary s n 0 hst
  let u := (txSettled (txCounted s n) (txApplied s n 0) n).when opens fun s => s.setFld pCAL (uf (8 + n) CAL.U_STAT.QUIET_OPEN) 1
  have hu : Frame (boundaryParts n) s u := .when (txSettled_calm hn hc 0) _ fun _ =>
    .setFld (.refl _ _) 1 (p := fun x i => pCAL + CAL.U_STAT ≤ x ∧ x < pCAL + CAL.U_STAT + 64 ∧ i = CAL.U_STAT.QUIET_OPEN.lo) (by simp)
      fun i hlo hhi => by
        simp only [uf, fldAt, pCAL, CAL.U_STAT] at *
        omega
  have hend : txEnded s (txSettled (txCounted s n) (txApplied s n 0) n) n opens = watch s (u.when (u.ltxSt n).stop fun s => (s.setTx n 1).settleTx n) :=
    rfl
  rw [hend, (hu.same (.stop n) (by simp)).trans hstop, he] at he'
  injection he' with ht
  obtain ⟨hleft, hraised⟩ := stopped_shows hn hcan hc.1 (hu.cover (boundaryParts_enabling hn))
    ((hu.fld fun i _ _ => boundaryParts_apart hn).trans hst) ht
  exact ⟨t, he, hleft, hraised, hcount⟩

end Sys2Proof.Proofs

namespace Sys2Proof.Proofs

open Sys2Proof Sys2Proof.Machine Sys2Proof.Safety Sys2Proof.Laws

-- One declaration after another, as the tests are: a thread for every proof would not fit the memory of the check.
set_option Elab.async false

/-! ## Lanes start at a boundary of the frame timer (R97, R101, R102, R104)

A port that is ready need not fit: its lanes may lie beyond the eight, where the pages of lanes would go on with CAL. -/

/-- The registers that lane `n`'s start touches beside events; no PHASE of a unit among them. -/
def startAt (n x i : Nat) : Prop := (inPage (pLTX n) x ∨ inPage pCAL x ∨ lockAt x) ∧ x % 0x1000 ≠ HDR.EVT_RAW ∧ ¬ phaseAt x i

/-- The parts that lane `n`'s start touches. -/
abbrev startParts (n : Nat) : List Zone := [bitsAt (startAt n), highs, events, just (.stop n)]

/-- A register of the lane's page is cleared: a phase that stands there is 0 already. -/
theorem Frame.clearStart {s t : State} {n off : Nat} (hc : Proofs.calm s) (h : Frame [bitsAt (startAt n)] s t)
    (ho : off < 0x1000 ∧ off ≠ HDR.EVT_RAW := by decide) : Frame [bitsAt (startAt n)] s (t.wr (pLTX n + off) 0) :=
  h.wrBits 0 fun i _ => by
    by_cases hp : phaseAt (pLTX n + off) i
    · have hkept : (t.rd (pLTX n + off)).getLsbD i = (s.rd (pLTX n + off)).getLsbD i :=
        h.same (.bit (pLTX n + off) i) (by simp [startAt, hp])
      rw [hkept, phase_bit hc.1 hp]
      exact .inl (by simp)
    · have hat : startAt n (pLTX n + off) i := ⟨.inl ⟨by omega, by omega⟩, by simp only [pLTX, HDR.EVT_RAW] at *; omega, hp⟩
      exact .inr ⟨⟨_, List.mem_singleton_self _, hat⟩, .inl ⟨_, List.mem_singleton_self _, hat⟩⟩

/-- The registers cleared as lane `n` starts. -/
def startCleared (s : State) (n : Nat) : State :=
  let b := pLTX n
  let s := ((s.wr (b + LTX.FRAME_CNT) 0).wr (b + LTX.CLIP_CNT) 0).wr (b + LTX.REM_CNT) 0
  (s.setFld b LTX.REM_STAT.LOCAL_IGNORED 0).setFld pCAL (uf (8 + n) CAL.U_STAT.QUIET_BROKEN) 0

theorem startTx_eq (s : State) (n : Nat) : ∃ f : LtxSt → LtxSt, (∀ x, (f x).stop = false) ∧
    s.startTx n = (startCleared (s.modLtx n f) n).setTx n 3 := ⟨_, fun _ => rfl, rfl⟩

/-- Entering ACTIVE, from another state with its event. -/
theorem setTx_active (s : State) (n : Nat) : s.setTx n 3 =
    ((txShown s n 3).when (s.txState n != 3) fun s => (s.partStart n).raise LTX.evTX_ACTIVE n).dawnSettle n := by
  rw [setTx_eq]
  unfold txLeft
  simp

section
variable {s : State} {n : Nat} (hn : n < 15) (hc : calm s)
include hn hc

theorem startCleared_touches : Frame [bitsAt (startAt n)] s (startCleared s n) := by
  unfold startCleared
  refine .setFld (.setFld (.clearStart hc (.clearStart hc (.clearStart hc (.refl _ s)))) 0 (List.mem_singleton_self _) fun i hlo _ => ?_) 0
    (List.mem_singleton_self _) fun i hlo _ => ?_
  · refine ⟨.inl ⟨by omega, by simp⟩, ?_, fun hp => ?_⟩
    · simp only [pLTX, HDR.EVT_RAW]
      omega
    · have := (phaseAt_within hp).2.2
      simp at hlo
      omega
  · refine ⟨.inr (.inl ?_), ?_, fun hp => ?_⟩
    · simp only [inPage, uf, fldAt, pCAL]
      omega
    · simp only [uf, fldAt, pCAL, HDR.EVT_RAW]
      omega
    · have := (phaseAt_within hp).2.2
      simp [uf, fldAt] at hlo
      omega

theorem startTx_touches : Frame (startParts n) s (s.startTx n) := by
  obtain ⟨f, -, he⟩ := startTx_eq s n
  have hmod : Frame [just (.stop n)] s (s.modLtx n f) := .modStop (.refl _ s) _ _
  have hcalm : calm (s.modLtx n f) := hmod.calm hc (hp := by simp)
  have hcleared := startCleared_touches hn hcalm
  have hshown : Frame (startParts n) (startCleared (s.modLtx n f) n) (txShown (startCleared (s.modLtx n f) n) n 3) :=
    (txShown_touches _).cover (by
      have hfield : fieldAt (pLTX n) LTX.TX_STAT.STATE ≤ bitsAt (startAt n) := bitsAt_le fun x i h => by
        obtain ⟨rfl, -, hi⟩ := h
        refine ⟨.inl ⟨by omega, by simp⟩, ?_, fun hp => ?_⟩
        · simp only [pLTX, HDR.EVT_RAW]
          omega
        · have hp := phaseAt_within hp
          simp only [pLTX] at hp
          omega
      have hlocks : locks ≤ bitsAt (startAt n) := bitsAt_le fun x i h => by
        refine ⟨.inr (.inr h), ?_, fun hp => ?_⟩
        · rcases h with rfl | rfl <;> decide
        · have hp := phaseAt_within hp
          unfold lockAt at h
          simp only [pCLK, CLK.LOCK0, CLK.LOCK1] at h
          omega
      simp [hfield, hlocks])
  rw [he, setTx_active]
  refine .next (.when (.next (.next (hmod.mono (by simp)) hcleared) hshown) _ fun _ => ?_) (dawnSettle_touches ..)
  exact .raise (.next (.refl _ _) (partStart_touches ..)) _ _

theorem startTx_calm : calm (s.startTx n) :=
  (startTx_touches hn hc).calm hc (hp := fun x i hx => by
    have hw := phaseAt_within hx
    simp [startAt, hx, HDR.EVT_RAW]
    simp only [pPERF]
    omega)

end

/-- Transmit lane `k` has started. -/
def txStarted (t : State) (k : Nat) : Prop :=
  t.txState k = 3 ∧ t.rd (pLTX k + LTX.FRAME_CNT) = 0 ∧ raised t LTX.evTX_ACTIVE k ∧ (t.ltxSt k).stop = false

/-- What touches neither the lane's registers nor its stop keeps it started. -/
theorem txStarted_kept {l : List Zone} {s t : State} {k : Nat} (h : Frame l s t) (hs : txStarted s k)
    (hl : ∀ z ∈ l, ¬ z (.stop k) ∧ ¬ z (.set (pLTX k + HDR.EVT_RAW) 0)
      ∧ ∀ off i, off < 0x1000 → off ≠ HDR.EVT_RAW → ¬ z (.bit (pLTX k + off) i)) :
    txStarted t k := by
  obtain ⟨hst, hcnt, hraised, hstop⟩ := hs
  exact ⟨(h.fld fun i _ _ z hz => (hl z hz).2.2 _ i (by decide) (by decide)).trans hst,
    (h.rd fun i _ z hz => (hl z hz).2.2 _ i (by decide) (by decide)).trans hcnt,
    h.raised hraised fun z hz => (hl z hz).2.1, (h.same (.stop k) fun z hz => (hl z hz).1).trans hstop⟩

/-- The start of another lane does not touch lane `k`. -/
theorem startParts_apart {j k : Nat} (hk : k < 8) (hjk : j ≠ k) : ∀ z ∈ startParts j,
    ¬ z (.stop k) ∧ ¬ z (.set (pLTX k + HDR.EVT_RAW) 0) ∧ ∀ off i, off < 0x1000 → off ≠ HDR.EVT_RAW → ¬ z (.bit (pLTX k + off) i) := by
  have hat {off i : Nat} (ho : off < 0x1000) : ¬ startAt j (pLTX k + off) i := by
    rintro ⟨hpage | hpage | hlock, -⟩
    · simp only [inPage, pLTX] at hpage
      omega
    · simp only [inPage, pLTX, pCAL] at hpage
      omega
    · simp only [lockAt, pLTX, pCLK, CLK.LOCK0, CLK.LOCK1] at hlock
      omega
  have hhigh {off : Nat} (ho : off < 0x1000) : ¬ pPERF 0 ≤ pLTX k + off := by
    simp only [pLTX, pPERF]
    omega
  have hraw {off : Nat} (ho : off < 0x1000) (hne : off ≠ HDR.EVT_RAW) : (pLTX k + off) % 0x1000 ≠ HDR.EVT_RAW := by
    simp only [pLTX, HDR.EVT_RAW] at *
    omega
  simp only [List.forall_mem_cons, List.not_mem_nil, false_implies, implies_true, and_true]
  refine ⟨⟨id, hat (by decide), fun off i ho _ => hat ho⟩, ⟨id, hhigh (by decide), fun off i ho _ => hhigh ho⟩,
    ⟨id, id, fun off i ho hne => hraw ho hne⟩, ⟨fun h => hjk (Part.stop.inj h).symm, nofun, nofun⟩⟩

theorem startCleared_regs (s : State) {k : Nat} (hk : k < 8) : (startCleared s k).rd (pLTX k + LTX.FRAME_CNT) = 0
    ∧ (startCleared s k).txState k = s.txState k := by
  have hcal (off : Nat) (ho : off < 0x1000) : pLTX k + off ≠ pCAL + (uf (8 + k) CAL.U_STAT.QUIET_BROKEN).off := by
    simp only [uf, fldAt, pLTX, pCAL]
    omega
  have hne {a b : Nat} (h : a ≠ b) : pLTX k + a ≠ pLTX k + b := fun he => h (Nat.add_left_cancel he)
  unfold startCleared
  dsimp only
  constructor
  · rw [rd_setFld_ne _ _ _ _ _ (hcal _ (by decide)), rd_setFld_ne _ _ _ _ _ (hne (by decide)), rd_wr_ne _ _ _ _ (hne (by decide)),
      rd_wr_ne _ _ _ _ (hne (by decide)), rd_wr_self]
  · refine fld_congr (f := LTX.TX_STAT.STATE) ?_
    rw [rd_setFld_ne _ _ _ _ _ (hcal _ (by decide)), rd_setFld_ne _ _ _ _ _ (hne (by decide)), rd_wr_ne _ _ _ _ (hne (by decide)),
      rd_wr_ne _ _ _ _ (hne (by decide)), rd_wr_ne _ _ _ _ (hne (by decide))]

/-- A lane in ACTIVE has its event raised, if it was raised before or the lane was not ACTIVE. -/
theorem raised_setTx_active {s : State} {k : Nat} (hk : k < 8) (h : s.txState k = 3 → raised s LTX.evTX_ACTIVE k) :
    raised (s.setTx k 3) LTX.evTX_ACTIVE k := by
  by_cases hst : s.txState k = 3
  · exact (setTx_touches s hk 3).raised (h hst) (setTx_keepsRaw hk rfl)
  · rw [setTx_active, bne_iff_ne.2 hst]
    refine (dawnSettle_touches _ k).raised (raised_raiseBy _ _ _ 0 (by decide)) fun z hz => setTx_keepsRaw hk rfl z ?_
    simp only [List.mem_cons, List.not_mem_nil, or_false] at hz ⊢
    tauto

section
variable {s : State} {k : Nat} (hk : k < 8) (hc : calm s)
include hk hc

/-- A lane that starts is ACTIVE, with its event if it was not already. -/
theorem startTx_starts (hs : s.txState k = 3 → txStarted s k) : txStarted (s.startTx k) k := by
  obtain ⟨f, hstop, he⟩ := startTx_eq s k
  let u := startCleared (s.modLtx k f) k
  have hmod : Frame [just (.stop k)] s (s.modLtx k f) := .modStop (.refl _ s) _ _
  have hu : Frame [bitsAt (startAt k)] (s.modLtx k f) u := startCleared_touches (by omega) (hmod.calm hc (hp := by simp))
  have hraw : ¬ startAt k (pageAt LTX.evTX_ACTIVE.fam k + HDR.EVT_RAW) LTX.evTX_ACTIVE.bit := fun h => h.2.1 (by
    rw [Nat.add_mod, pageAt_mod]
    rfl)
  have hend : Frame [highs, events] (txShown u k 3) (u.setTx k 3) := by
    rw [setTx_active]
    refine .next (.when (.refl _ _) _ fun _ => ?_) (dawnSettle_touches ..)
    exact .raise (.next (.refl _ _) (partStart_touches ..)) _ _
  obtain ⟨hcnt, hst⟩ := startCleared_regs (s.modLtx k f) hk
  rw [he]
  refine ⟨(setTx_shows u hk (by decide)).1, ((setTx_touches u hk 3).rd fun i _ => ?_).trans hcnt,
    raised_setTx_active hk fun h3 => hu.raised (hmod.raised (hs (hst.symm.trans h3)).2.2.1 (by simp)) (by simpa using hraw), ?_⟩
  · simp [lockAt, HDR.EVT_RAW]
    simp only [pLTX, pCAL, pCLK, pPERF, CAL.U_STAT, CLK.LOCK0, CLK.LOCK1, LTX.FRAME_CNT]
    omega
  · have hkept : ((u.setTx k 3).ltxSt k).stop = ((s.modLtx k f).ltxSt k).stop :=
      ((hend.same (.stop k) (by simp)).trans ((txShown_touches u).same (.stop k) (by simp))).trans (hu.same (.stop k) (by simp))
    rw [hkept, ltxSt_modLtx, if_pos rfl]
    exact hstop _

end

/-- The lanes of a port depend on its SIZE alone (R27). -/
theorem portLanes_congr {s t : State} {q : Nat}
    (h : t.fld pPORT (fldAt PORT.PCFG.SIZE (4 * q)) = s.fld pPORT (fldAt PORT.PCFG.SIZE (4 * q))) : t.portLanes q = s.portLanes q := by
  unfold State.portLanes State.portK
  rw [h]

/-- What holds while lanes start: a calm state in which ports have their lanes, and lane `k`, if ACTIVE, has started. -/
def startsWell (s0 s : State) (k : Nat) : Prop :=
  calm s ∧ (∀ q < 8, s.portLanes q = s0.portLanes q) ∧ (s.txState k = 3 → txStarted s k)

/-- The same, with lane `k` ACTIVE. -/
def startedWell (s0 s : State) (k : Nat) : Prop := startsWell s0 s k ∧ s.txState k = 3

section
variable {s0 s : State} {j k : Nat} (hj : j < 15) (hk : k < 8)
include hj hk

omit hk in
theorem startTx_portLanes (hc : calm s) {q : Nat} (hq : q < 8) : (s.startTx j).portLanes q = s.portLanes q := by
  refine portLanes_congr ((startTx_touches hj hc).fld fun i _ _ => ?_)
  simp [startAt, lockAt, inPage, fldAt, HDR.EVT_RAW]
  simp only [pLTX, pCAL, pPORT, pPERF, pCLK, CLK.LOCK0, CLK.LOCK1]
  omega

theorem startTx_well (h : startsWell s0 s k) : startsWell s0 (s.startTx j) k
    ∧ (j = k ∨ s.txState k = 3 → (s.startTx j).txState k = 3) := by
  obtain ⟨hc, hlanes, hs⟩ := h
  have hcalm := startTx_calm hj hc
  have hports (q : Nat) (hq : q < 8) := (startTx_portLanes hj hc hq).trans (hlanes q hq)
  by_cases hjk : j = k
  · subst hjk
    have hstarted := startTx_starts hk hc hs
    exact ⟨⟨hcalm, hports, fun _ => hstarted⟩, fun _ => hstarted.1⟩
  · have hapart := startParts_apart hk hjk
    have hst : (s.startTx j).txState k = s.txState k :=
      (startTx_touches hj hc).fld fun i _ _ z hz => (hapart z hz).2.2 _ i (by decide) (by decide)
    rw [hst]
    exact ⟨⟨hcalm, hports, fun h3 => txStarted_kept (startTx_touches hj hc) (hs (hst ▸ h3)) hapart⟩, fun h => h.resolve_left hjk⟩

end

/-! ### The boundary of the frame timer -/

/-- A fold whose steps keep `I` and keep `G`, one of which leads from `I` to `G`. -/
theorem foldl_reaches {α : Type} {I G : State → Prop} {f : State → α → State} {l : List α} {x : α} (hx : x ∈ l)
    (hI : ∀ u, I u → ∀ y ∈ l, I (f u y)) (hG : ∀ u, G u → ∀ y ∈ l, G (f u y)) (hIG : ∀ u, I u → G (f u x)) {s : State} (hs : I s) :
    G (l.foldl f s) := by
  obtain ⟨a, b, rfl⟩ := List.append_of_mem hx
  rw [List.foldl_append, List.foldl_cons]
  refine List.foldlRecOn b f (hIG _ (List.foldlRecOn a f hs fun u hu y hy => hI u hu y ?_)) fun u hu y hy => hG u hu y ?_
  · exact List.mem_append_left _ hy
  · exact List.mem_append_right _ (List.mem_cons_of_mem _ hy)

/-- The lanes of a port, fitting or not, end before the fifteenth. -/
theorem portLanes_lt {s : State} {q n : Nat} (hq : q < 8) (hn : n ∈ s.portLanes q) : n < 15 := by
  have hsize : s.fld pPORT (fldAt PORT.PCFG.SIZE (4 * q)) < 4 := getBits_lt ..
  have hk : s.portK q ≤ 2 ^ 3 := Nat.pow_le_pow_right (by decide) (by omega)
  obtain ⟨i, hi, rfl⟩ := List.mem_map.1 hn
  have := List.mem_range.1 hi
  omega

/-- The ports that start at this boundary. -/
def starters (s : State) : List Nat := (List.range 8).filter s.txReady

/-- The frame counts of the lanes that start. -/
def startCounts (s : State) : State := s.each ((starters s).flatMap s.portLanes) fun s n => s.wr (pLTX n + LTX.FRAME_CNT) 0

/-- The commit point of a lane not ACTIVE, where a beacon has sent a frame. -/
def idlePoint (s : State) (n late : Nat) : State :=
  s.when (s.txState n != 3) fun s => (s.when (s.txState n == 2) fun s => s.txSend n).txPoint n late

/-- The commit points of the lanes not ACTIVE. -/
def idlePoints (s : State) (late : List Nat) : State := s.each (List.range s.lines) fun s n => idlePoint s n (late.getD n 0)

/-- The lanes of a port start. -/
def portStarts (s : State) (p : Nat) : State := (s.portLanes p).foldl State.startTx s

theorem exec_txFrameTimerBoundary {s : State} (href : s.refOk = true) (late : List Nat) :
    exec (.txFrameTimerBoundary late) s = .next (watch s ((starters s).foldl portStarts (idlePoints (startCounts s) late))) := by
  show execTxFrameTimerBoundary late s = _
  unfold execTxFrameTimerBoundary
  rw [if_pos href]
  rfl

/-- The parts that come before the lanes start: counts on the pages of lanes, and what a commit point with nothing to do touches. -/
abbrev beforeStart : List Zone :=
  [regsAt fun x => pLTX 0 ≤ x ∧ x < pLTX 15 ∧ (x % 0x1000 = LTX.FRAME_CNT ∨ x % 0x1000 = LTX.CLIP_CNT), events, just .cal, highs]

theorem beforeStart_apart {x i : Nat} (hx : x % 0x1000 ≠ HDR.EVT_RAW ∧ x % 0x1000 ≠ LTX.FRAME_CNT ∧ x % 0x1000 ≠ LTX.CLIP_CNT) (hlow : x < pPERF 0) :
    ∀ z ∈ beforeStart, ¬ z (.bit x i) := by
  simp [hx, hlow]

/-- It leaves the lanes' states, and the lanes of ports. -/
theorem beforeStart_keeps {s t : State} (h : Frame beforeStart s t) :
    (∀ k < 8, t.txState k = s.txState k) ∧ ∀ q < 8, t.portLanes q = s.portLanes q := by
  refine ⟨fun k hk => h.fld fun i _ _ => beforeStart_apart ?_ ?_, fun q hq => portLanes_congr (h.fld fun i _ _ => beforeStart_apart ?_ ?_)⟩
  · simp only [pLTX, HDR.EVT_RAW, LTX.FRAME_CNT, LTX.CLIP_CNT]
    omega
  · simp only [pLTX, pPERF]
    omega
  · simp only [fldAt, pPORT, HDR.EVT_RAW, LTX.FRAME_CNT, LTX.CLIP_CNT]
    omega
  · simp only [fldAt, pPORT, pPERF]
    omega

section
variable {s : State} (hc : calm s)
include hc

theorem startCounts_calm : Frame beforeStart s (startCounts s) ∧ calm (startCounts s) := by
  have hat : ∀ n ∈ (starters s).flatMap s.portLanes, n < 15 := fun n hn => by
    obtain ⟨q, hq, hnq⟩ := List.mem_flatMap.1 hn
    exact portLanes_lt (List.mem_range.1 (List.mem_filter.1 hq).1) hnq
  have h : Frame [regsAt fun x => pLTX 0 ≤ x ∧ x < pLTX 15 ∧ (x % 0x1000 = LTX.FRAME_CNT ∨ x % 0x1000 = LTX.CLIP_CNT)] s (startCounts s) :=
    .each (.refl _ s) _ fun u n hn => .wr (.refl _ u) 0 (List.mem_singleton_self _) fun _ => by
      have := hat n hn
      simp only [pLTX, LTX.FRAME_CNT]
      omega
  refine ⟨h.mono (by simp), h.calm hc (hp := fun x i hx => ?_)⟩
  have hx := phaseAt_within hx
  simp [LTX.FRAME_CNT, LTX.CLIP_CNT]
  omega

theorem idlePoint_calm {n : Nat} (hn : n < 8) (late : Nat) : Frame beforeStart s (idlePoint s n late) ∧ calm (idlePoint s n late) := by
  unfold idlePoint
  cases s.txState n != 3
  · exact ⟨.refl _ s, hc⟩
  · rw [when_true]
    have hsent : Frame [regAt (pLTX n + LTX.CLIP_CNT), events] s (s.when (s.txState n == 2) fun s => s.txSend n) :=
      .when (.refl _ s) _ fun _ => txSend_touches s n
    have hcalm : calm (s.when (s.txState n == 2) fun s => s.txSend n) := hsent.calm hc (hp := fun x i hx => by
      have hx := phaseAt_within hx
      simp [HDR.EVT_RAW]
      simp only [pLTX, LTX.CLIP_CNT]
      omega)
    obtain ⟨hpoint, hend⟩ := txPoint_calm hcalm hn late
    refine ⟨.next (hsent.cover ?_) hpoint, hend⟩
    have hclip : regAt (pLTX n + LTX.CLIP_CNT) ≤
        regsAt fun x => pLTX 0 ≤ x ∧ x < pLTX 15 ∧ (x % 0x1000 = LTX.FRAME_CNT ∨ x % 0x1000 = LTX.CLIP_CNT) := bitsAt_le fun x _ hx => by
      subst hx
      simp only [pLTX, LTX.CLIP_CNT]
      omega
    simp [hclip]

theorem idlePoints_calm (late : List Nat) : Frame beforeStart s (idlePoints s late) ∧ calm (idlePoints s late) := by
  unfold idlePoints State.each
  refine List.foldlRecOn (motive := fun t => Frame beforeStart s t ∧ calm t) _ _ ⟨.refl _ s, hc⟩ fun u ⟨hu, hcu⟩ n hn => ?_
  obtain ⟨h, hcalm⟩ := idlePoint_calm hcu (lt_of_lt_of_le (List.mem_range.1 hn) (lines_le s)) (late.getD n 0)
  exact ⟨hu.trans h, hcalm⟩

end

section
variable {s0 s : State} {p k : Nat} (hk : k < 8) (hp : p < 8)
include hk hp

theorem portStarts_well (h : startsWell s0 s k) : startsWell s0 (portStarts s p) k :=
  List.foldlRecOn (motive := fun t => startsWell s0 t k) _ _ h fun _ hu _ hj => (startTx_well (portLanes_lt hp hj) hk hu).1

theorem portStarts_active (h : startedWell s0 s k) : startedWell s0 (portStarts s p) k :=
  List.foldlRecOn (motive := fun t => startedWell s0 t k) _ _ h fun _ hu _ hj =>
    (startTx_well (portLanes_lt hp hj) hk hu.1).imp_right fun hto => hto (.inr hu.2)

/-- The lanes of a port that starts end ACTIVE. -/
theorem portStarts_starts (hkp : k ∈ s0.portLanes p) (h : startsWell s0 s k) : startedWell s0 (portStarts s p) k := by
  have hmem : k ∈ s.portLanes p := (h.2.1 p hp).symm ▸ hkp
  exact foldl_reaches (I := fun t => startsWell s0 t k) (G := fun t => startedWell s0 t k) hmem
    (fun _ hu _ hj => (startTx_well (portLanes_lt hp hj) hk hu).1)
    (fun _ hu _ hj => (startTx_well (portLanes_lt hp hj) hk hu.1).imp_right fun hto => hto (.inr hu.2))
    (fun _ hu => (startTx_well (portLanes_lt hp hmem) hk hu).imp_right fun hto => hto (.inl rfl)) h

end

/-- The lanes of a fitting port that is ready start at the boundary (R102). -/
theorem txFrameTimer_starts {s : State} {p : Nat} (hp : p < 8) (href : s.refOk = true) (hc : calm s) (hready : s.txReady p = true)
    (hfit : s.portFits p = true) :
    completes (.txFrameTimerBoundary []) s (fun t => ∀ k ∈ s.portLanes p, txStarted t k) := by
  refine ⟨_, exec_txFrameTimerBoundary href [], fun k hk => ?_⟩
  have hk8 : k < 8 := lanesFit_of_portFits hfit k hk
  obtain ⟨hcounts, hcalm⟩ := startCounts_calm hc
  obtain ⟨hpoints, hcalm⟩ := idlePoints_calm hcalm []
  obtain ⟨hstates, hlanes⟩ := beforeStart_keeps (hcounts.trans hpoints)
  have hst : s.txState k = 1 := by
    unfold State.txReady at hready
    simp only [Bool.and_eq_true, List.all_eq_true, beq_iff_eq] at hready
    exact (hready.2 k hk).1
  have hidle : (idlePoints (startCounts s) []).txState k ≠ 3 := by
    rw [hstates k hk8, hst]
    decide
  have hport : ∀ q ∈ starters s, q < 8 := fun q hq => List.mem_range.1 (List.mem_filter.1 hq).1
  have hend : startedWell s ((starters s).foldl portStarts (idlePoints (startCounts s) [])) k :=
    foldl_reaches (I := fun t => startsWell s t k) (G := fun t => startedWell s t k) (List.mem_filter.2 ⟨List.mem_range.2 hp, hready⟩)
      (fun _ hu q hq => portStarts_well hk8 (hport q hq) hu) (fun _ hu q hq => portStarts_active hk8 (hport q hq) hu)
      (fun _ hu => portStarts_starts hk8 hp hk hu) ⟨hcalm, hlanes, fun h3 => absurd h3 hidle⟩
  obtain ⟨⟨⟨⟨hbist, hunits⟩, -⟩, -, hstarted⟩, h3⟩ := hend
  refine txStarted_kept (watch_settled s hbist fun u hu => (hunits u hu).1) (hstarted h3) ?_
  simp [HDR.EVT_RAW]
  simp only [pLTX]
  omega

/-- Settles O37, by what each step of a lane's state shows and, at the boundaries, by the footprints of what comes before and after. -/
theorem lineTransmitLaneStates : Obligations.LineTransmitLaneStates := fun s n hnoon href => by
  have hcan : s.canRun = true := by simp [State.canRun, hnoon, href]
  exact ⟨txPllLocked_starts hcan, fun _ => txBeaconSet_beacons hcan, fun _ => txBeaconClear_squelches hcan, sqHoldExpiry_kept,
    fun p hq hcommits => txFrameTimer_starts p.isLt href ⟨hq, hcommits⟩, fun hq hcommits => lineTx_stops hcan ⟨hq, hcommits⟩, skewFineStep_moves⟩

end Sys2Proof.Proofs

namespace Sys2Proof.Proofs

open Sys2Proof Sys2Proof.Machine Sys2Proof.Safety Sys2Proof.Laws

-- One declaration after another, as the tests are: a thread for every proof would not fit the memory of the check.
set_option Elab.async false

/-! ## What a change of the calibration units leaves

`Sets` carries `onlyRegs` along the steps of a change, with the values in force and the requests waiting. -/

/-- `t` differs from `s` in the registers at `l` and in what the units and the log keep beside registers. -/
structure Sets (l : List Nat) (s t : State) : Prop where
  only : onlyRegs s t l
  inForce : t.inForce = s.inForce
  commits : t.commits = s.commits

namespace Sets
variable {l m : List Nat} {s t u : State}

theorem refl (l : List Nat) (s : State) : Sets l s s := ⟨onlyRegs_refl s l, rfl, rfl⟩

theorem trans (h : Sets l s t) (g : Sets l t u) : Sets l s u :=
  ⟨onlyRegs_trans h.only g.only, g.inForce.trans h.inForce, g.commits.trans h.commits⟩

theorem mono (h : Sets l s t) (hl : l ⊆ m := by simp) : Sets m s t := ⟨onlyRegs_mono h.only fun _ ha => hl ha, h.inForce, h.commits⟩

/-- One more step, whose registers are among those named. -/
theorem next (h : Sets l s t) (g : Sets m t u) (hl : m ⊆ l := by simp) : Sets l s u := h.trans (g.mono hl)

/-- A register outside those named. -/
theorem rd (h : Sets l s t) {a : Nat} (ha : a ∉ l) : t.rd a = s.rd a := h.only.2.2.2 a ha

theorem fld (h : Sets l s t) {b : Nat} {f : Fld} (hf : b + f.off ∉ l) : t.fld b f = s.fld b f := fld_congr (h.rd hf)

theorem bit (h : Sets l s t) {b : Nat} {f : Fld} (hf : b + f.off ∉ l) : t.bit b f = s.bit b f := bit_congr (h.rd hf)

theorem mem (h : Sets l s t) : memSame s t := h.only.2.2.1

theorem inf (h : Sets l s t) (a : Nat) : t.inf a = s.inf a := by
  unfold State.inf
  rw [h.inForce]

/-- A change of registers of one page. -/
theorem page (h : Sets l s t) {b : Nat} (hl : ∀ a ∈ l, inPage b a) : onlyPage s t b := onlyPage_of_onlyRegs h.only hl

/-! ### Steps -/

/-- A step that leaves the registers, the queue, the cores and the memory. -/
theorem step (h : Sets l s t) (regs : u.regs = t.regs := by rfl) (pending : u.pending = t.pending := by rfl)
    (cores : u.cores = t.cores := by rfl) (mem : u.mem = t.mem := by rfl) (ms : u.ms = t.ms := by rfl)
    (inForce : u.inForce = t.inForce := by rfl) (commits : u.commits = t.commits := by rfl) : Sets l s u :=
  h.trans ⟨onlyRegs_of_nothing (nothing_of_eq pending cores mem ms regs) l, inForce, commits⟩

theorem wr (h : Sets l s t) {a : Nat} (w : Word) (ha : a ∈ l := by simp) : Sets l s (t.wr a w) :=
  h.next ⟨onlyRegs_wr t a w, wr_inForce .., wr_commits ..⟩ (by simpa using ha)

theorem setFld (h : Sets l s t) {b : Nat} {f : Fld} (v : Nat) (ha : b + f.off ∈ l := by simp) : Sets l s (t.setFld b f v) := h.wr _ ha

theorem addSat (h : Sets l s t) {b : Nat} {f : Fld} (n : Nat) (ha : b + f.off ∈ l := by simp) : Sets l s (t.addSat b f n) := h.setFld _ ha

theorem modCal (h : Sets l s t) (n : Nat) (f : CalSt → CalSt) : Sets l s (t.modCal n f) := h.step

theorem logOcc (h : Sets l s t) (o : Occ) (r : Bool) : Sets l s (t.logOcc o r) := by
  obtain ⟨_, he⟩ := logOcc_eq t o r
  rw [he]
  exact h.step

theorem setRaw (h : Sets l s t) (e : Ev) (i : Nat) (ha : rawAt e.fam i ∈ l := by simp) : Sets l s (t.setRaw e i) := h.setFld _ ha

theorem raise (h : Sets l s t) (e : Ev) (i : Nat) (ha : rawAt e.fam i ∈ l := by simp) : Sets l s (t.raise e i) := (h.setRaw e i ha).logOcc _ _

theorem raiseRec (h : Sets l s t) (e : Ev) (i m : Nat) (d : List Word) (ha : rawAt e.fam i ∈ l := by simp) :
    Sets l s (t.raiseRec e i m d) := (h.setRaw e i ha).logOcc _ _

theorem raiseAct (h : Sets l s t) (e : Ev) (i : Nat) (d : List Word) (ha : rawAt e.fam i ∈ l := by simp) :
    Sets l s (t.raiseAct e i d) := (h.setRaw e i ha).logOcc ((t.setRaw e i).occ (evNum e i) 1 0 (some d)) true

theorem when (h : Sets l s t) (c : Bool) {f : State → State} (hf : c = true → Sets l t (f t)) : Sets l s (t.when c f) := by
  cases c
  · exact h
  · exact h.trans (hf rfl)

theorem foldl {α : Type} (h : Sets l s t) (xs : List α) {f : State → α → State} (hf : ∀ u, ∀ x ∈ xs, Sets l u (f u x)) :
    Sets l s (xs.foldl f t) :=
  List.foldlRecOn (motive := Sets l s) xs f h fun u hu x hx => hu.trans (hf u x hx)

end Sets

/-! ### The units beside their registers -/

theorem calSt_congr {s t : State} (h : t.cal = s.cal) (u : Nat) : t.calSt u = s.calSt u := by rw [State.calSt, State.calSt, h]

@[simp] theorem calSt_modCal_self (s : State) (u : Nat) (f : CalSt → CalSt) : (s.modCal u f).calSt u = f (s.calSt u) :=
  (calSt_modCal s u f u).trans (if_pos rfl)

@[simp] theorem calSt_setFld (s : State) (b : Nat) (f : Fld) (v u : Nat) : (s.setFld b f v).calSt u = s.calSt u := rfl

@[simp] theorem calSt_raise (s : State) (e : Ev) (i u : Nat) : (s.raise e i).calSt u = s.calSt u := calSt_congr (raise_cal ..) u

@[simp] theorem calSt_raiseAct (s : State) (e : Ev) (i u : Nat) (d : List Word) : (s.raiseAct e i d).calSt u = s.calSt u :=
  calSt_congr (raiseAct_cal ..) u

@[simp] theorem fld_modCal (s : State) (u b : Nat) (f : CalSt → CalSt) (g : Fld) : (s.modCal u f).fld b g = s.fld b g := rfl

/-! ### U_STAT of a unit (R154) -/

/-- The address of U_STAT of a unit. -/
abbrev statAt (u : Nat) : Nat := pCAL + CAL.U_STAT + 4 * u

/-- U_STAT of a unit, and EVT_RAW of the page CAL. -/
abbrev unitRegs (u : Nat) : List Nat := [statAt u, rawAt 11 0]

theorem rawAt_cal : rawAt 11 0 = pCAL + 0x10 := rfl

/-- The registers of a unit stand in the page CAL. -/
theorem unitRegs_page {u : Nat} (hu : u < 16) : ∀ a ∈ unitRegs u, inPage pCAL a := by
  simp only [List.forall_mem_cons, List.not_mem_nil, false_implies, implies_true, and_true, inPage, rawAt_cal, statAt, CAL.U_STAT]
  omega

/-- A field of another register of the unit than U_STAT. -/
theorem unitFld_notin {u : Nat} {f : Fld} (h : f.off % 0x40 = 0 ∧ 0xC0 ≤ f.off := by decide) (hu : u < 16) :
    pCAL + (uf u f).off ∉ unitRegs u := by
  simp only [rawAt_cal, List.mem_cons, List.not_mem_nil, or_false, uf, fldAt, statAt, CAL.U_STAT]
  omega

theorem unitFld_stat {u : Nat} {f : Fld} (hf : f.off = CAL.U_STAT) : pCAL + (uf u f).off = statAt u := by
  simp only [uf, fldAt, hf, statAt, Nat.add_assoc]

namespace Sets
variable {l : List Nat} {s t : State}

/-- A field of U_STAT. -/
theorem setStat (h : Sets l s t) {u : Nat} {f : Fld} (v : Nat) (hf : f.off = CAL.U_STAT := by rfl) (ha : statAt u ∈ l := by simp) :
    Sets l s (t.setFld pCAL (uf u f) v) :=
  h.setFld v (by rwa [unitFld_stat hf])

end Sets

section
variable (s : State) (u : Nat)

/-- A field of a unit's registers reads as what it was set to. -/
theorem fld_setUnit (f : Fld) (v : Nat) (hf : f.lo + f.width ≤ 32 := by decide) :
    (s.setFld pCAL (uf u f) v).fld pCAL (uf u f) = v % 2 ^ f.width := fld_setFld s pCAL (uf u f) v hf

/-- A flag of a unit's registers is set. -/
theorem bit_setUnit_one (f : Fld) (hf : f.lo + f.width ≤ 32 := by decide) (hw : 0 < f.width := by decide) :
    (s.setFld pCAL (uf u f) 1).bit pCAL (uf u f) = true := bit_setFld_one s pCAL (uf u f) hf hw

/-- Setting a field of a unit's registers leaves those apart from it. -/
theorem fld_setUnit_apart (f g : Fld) (v : Nat) (h : apart f g := by decide) :
    (s.setFld pCAL (uf u f) v).fld pCAL (uf u g) = s.fld pCAL (uf u g) := by
  refine fld_setFld_ne _ _ _ _ _ _ ?_
  simp only [uf, fldAt]
  unfold apart at h
  omega

theorem phase_setPhase {ph : Nat} (h : ph < 8) : (s.setPhase u ph).phase u = ph :=
  (fld_setUnit s u CAL.U_STAT.PHASE ph).trans (Nat.mod_eq_of_lt h)

theorem spare_lt : s.spare u < 32 := getBits_lt _ _ 5

end

/-! ### Marks, DEGRADED and EXHAUSTED (R137, R140, R141) -/

section
variable (s : State) (u : Nat)

theorem setMarks_sets (a b : Nat) : Sets (unitRegs u) s (s.setMarks u a b) := .setStat (.modCal (.refl _ s) _ _) _

@[simp] theorem calSt_setMarks (a b : Nat) : (s.setMarks u a b).calSt u = { s.calSt u with suspect := a, revisit := b } := by
  simp [State.setMarks]

/-- Setting the marks leaves the fields of a unit but SUSPECT. -/
theorem fld_setMarks (g : Fld) (a b : Nat) (h : apart CAL.U_STAT.SUSPECT g := by decide) :
    (s.setMarks u a b).fld pCAL (uf u g) = s.fld pCAL (uf u g) := fld_setUnit_apart _ u CAL.U_STAT.SUSPECT g _ h

theorem degrade_sets : Sets (unitRegs u) s (s.degrade u) := .raise (.setStat (.refl _ s) _) _ _

@[simp] theorem degrade_cal : (s.degrade u).cal = s.cal := by simp [State.degrade]

/-- What a change of DEGRADED touches. -/
theorem degrade_touches : Frame [fieldAt pCAL (uf u CAL.U_STAT.DEGRADED), events] s (s.degrade u) := .raise (.setField (.refl _ s) 1) _ _

theorem exhaustCheck_sets : Sets (unitRegs u) s (s.exhaustCheck u) := by
  unfold State.exhaustCheck
  split
  · exact .when (.raise (.setStat (.refl _ s) _) _ _) _ fun _ => degrade_sets _ u
  · exact .refl _ s

@[simp] theorem exhaustCheck_cal : (s.exhaustCheck u).cal = s.cal := by
  unfold State.exhaustCheck
  split
  · refine when_ind (P := fun t => t.cal = s.cal) _ _ _ (by simp) fun h => (degrade_cal ..).trans h
  · rfl

/-- The check for a slice to spare touches EXHAUSTED and DEGRADED, and raises events. -/
theorem exhaustCheck_touches :
    Frame [fieldAt pCAL (uf u CAL.U_STAT.EXHAUSTED), fieldAt pCAL (uf u CAL.U_STAT.DEGRADED), events] s (s.exhaustCheck u) := by
  unfold State.exhaustCheck
  split
  · exact .when (.raise (.setField (.refl _ s) 1) _ _) _ fun _ => (degrade_touches ..).mono (by simp)
  · exact .refl _ s

/-- The check keeps every field of the unit but EXHAUSTED and DEGRADED. -/
theorem fld_exhaustCheck {f : Fld} (hf : 0x10 < f.off ∧ f.off < 0xF00 := by decide) (hx : apart CAL.U_STAT.EXHAUSTED f := by decide)
    (hd : apart CAL.U_STAT.DEGRADED f := by decide) (hu : u < 16) :
    (s.exhaustCheck u).fld pCAL (uf u f) = s.fld pCAL (uf u f) :=
  (exhaustCheck_touches s u).fld fun i hlo hhi => by
    unfold apart at hx hd
    simp only [List.forall_mem_cons, bitsAt, events, List.not_mem_nil, false_implies, implies_true, and_true, uf, fldAt, HDR.EVT_RAW, pCAL] at *
    omega

theorem fld_degrade {f : Fld} (hf : 0x10 < f.off ∧ f.off < 0xF00 := by decide) (hd : apart CAL.U_STAT.DEGRADED f := by decide) (hu : u < 16) :
    (s.degrade u).fld pCAL (uf u f) = s.fld pCAL (uf u f) :=
  (degrade_touches s u).fld fun i hlo hhi => by
    unfold apart at hd
    simp only [List.forall_mem_cons, bitsAt, events, List.not_mem_nil, false_implies, implies_true, and_true, uf, fldAt, HDR.EVT_RAW, pCAL] at *
    omega

/-! ### The end of a step (R124) -/

theorem endStep_sets : Sets (unitRegs u) s (s.endStep u) :=
  .next (.setStat (.setStat (.setStat (.setStat (.modCal (.refl _ s) _ _) _) _) _) _) (exhaustCheck_sets _ u)

/-- A unit with no step under way keeps its marks, its order and what commands named. -/
def stepEnded (x : CalSt) : CalSt :=
  { x with spareVisit := false, todo := 0, acc := [], bad := 0, passes := 0, failA := 0, failB := 0, dead := false, wait := 0, quiet := 0 }

@[simp] theorem calSt_endStep : (s.endStep u).calSt u = stepEnded (s.calSt u) := by
  unfold State.endStep
  rw [calSt_congr (exhaustCheck_cal ..)]
  simp [stepEnded]

theorem phase_endStep {u : Nat} (hu : u < 16) : (s.endStep u).phase u = 0 := by
  unfold State.endStep State.phase
  rw [fld_exhaustCheck _ u (f := CAL.U_STAT.PHASE) (hu := hu), fld_setUnit_apart _ u CAL.U_STAT.RETRY CAL.U_STAT.PHASE,
    fld_setUnit_apart _ u CAL.U_STAT.POS CAL.U_STAT.PHASE, fld_setUnit_apart _ u CAL.U_STAT.SLICE CAL.U_STAT.PHASE,
    fld_setUnit _ u CAL.U_STAT.PHASE]
  rfl

end

/-- An event of the page CAL that was raised stays so through what the units do. -/
theorem raised_visiting {s t : State} (h : Frame visiting s t) {e : Ev} (he : e.fam = 11) (hr : raised s e 0) : raised t e 0 := by
  refine h.raised hr ?_
  rw [he]
  simp [calAt, free, lowRaw, HDR.EVT_RAW, show pageAt 11 0 = 0x10020000 from rfl]

/-! ### A write of a unit's command register (R154) -/

/-- A command that writes U_CMD, where the write reaches it. -/
theorem completes_uCmd {c : Instr} {s w : State} {r : Requester} {u : Nat} {v : Word} {P : State → Prop} (hc : exec c s = uCmd r u v s)
    (h : reaches s r 11 0 (CAL.U_CMD + 4 * u) v) (he : effUCmd u v s = .ok w) (hP : ∀ x, P { w with spi := x }) : completes c s P := by
  obtain ⟨x, hx⟩ := reportOk_eq w r
  refine ⟨w.reportOk r, ?_, hx ▸ hP x⟩
  rw [hc, uCmd, Nat.add_assoc, show pCAL = pageAt 11 0 from rfl, txn_reaches _ _ _ _ _ _ _ h (pageAt_mod4 11 0), he, finish_ok]

/-- A unit that the variant lacks ignores commands (R121). -/
theorem effUCmd_absent {s : State} {u : Nat} (h : s.unitHere u = false) (v : Word) : effUCmd u v s = .ok s := by
  unfold effUCmd
  simp [h]

section
variable {s : State} {u : Nat} (h : s.unitHere u = true)
include h

/-- What U_CMD does on a unit that the variant has, bit by bit. -/
theorem effUCmd_here (v : Word) : effUCmd u v s = .ok (((((s.when (v.getLsbD 2) fun s => s.modCal u fun x => { x with held := true }).when
    (v.getLsbD 3) fun s => s.modCal u fun x => { x with held := false }).when (v.getLsbD 4) fun s => s.retireCommand u (getBits v 8 5)).when
      (v.getLsbD 1) fun s => s.submitCal u).when (v.getLsbD 0) fun s => s.startStep u) := by
  unfold effUCmd
  simp [h]

theorem effUCmd_stepNow : effUCmd u 0x1 s = .ok (s.startStep u) := effUCmd_here h _

theorem effUCmd_submit : effUCmd u 0x2 s = .ok (s.submitCal u) := effUCmd_here h _

theorem effUCmd_hold : effUCmd u 0x4 s = .ok (s.modCal u fun x => { x with held := true }) := effUCmd_here h _

theorem effUCmd_resume : effUCmd u 0x8 s = .ok (s.modCal u fun x => { x with held := false }) := effUCmd_here h _

theorem effUCmd_retire (sl : BitVec 5) : effUCmd u (BitVec.ofNat 32 (0x10 + 256 * sl.toNat)) s = .ok (s.retireCommand u sl.toNat) := by
  have hbits : ∀ sl : BitVec 5, let v : Word := BitVec.ofNat 32 (0x10 + 256 * sl.toNat)
      v.getLsbD 2 = false ∧ v.getLsbD 3 = false ∧ v.getLsbD 4 = true ∧ v.getLsbD 1 = false ∧ v.getLsbD 0 = false
        ∧ getBits v 8 5 = sl.toNat := by
    decide
  obtain ⟨h2, h3, h4, h1, h0, hsl⟩ := hbits sl
  rw [effUCmd_here h, h2, h3, h4, h1, h0, hsl]
  rfl

end

end Sys2Proof.Proofs

namespace Sys2Proof.Proofs

open Sys2Proof Sys2Proof.Machine Sys2Proof.Safety Sys2Proof.Laws

-- One declaration after another, as the tests are: a thread for every proof would not fit the memory of the check.
set_option Elab.async false

/-! ## Slice maps (R49, R77, R92) -/

/-- A unit's slice map: SLICE_MAP and POS_MAP0 to POS_MAP2. -/
abbrev mapRegs (u : Nat) : List Nat := [mapBase u, mapBase u + 4, mapBase u + 8, mapBase u + 12]

/-- The slice map of a unit holds what it held. -/
structure mapSame (u : Nat) (s t : State) : Prop where
  fld : ∀ f : Fld, f.off ≤ 12 → t.fld (mapBase u) f = s.fld (mapBase u) f

theorem smPos_off {p : Nat} (hp : p < 16) : (smPos p).off ≤ 12 := by
  simp only [smPos]
  omega

namespace mapSame
variable {u : Nat} {s t v : State}

theorem trans (h : mapSame u s t) (g : mapSame u t v) : mapSame u s v := ⟨fun f hf => (g.fld f hf).trans (h.fld f hf)⟩

theorem spare (h : mapSame u s t) : t.spare u = s.spare u := h.fld smSpare (by decide)

theorem calOut (h : mapSame u s t) : t.calOut u = s.calOut u := h.fld smCal (by decide)

theorem posSlice (h : mapSame u s t) {p : Nat} (hp : p < 16) : t.posSlice u p = s.posSlice u p := h.fld (smPos p) (smPos_off hp)

theorem sliceRetired (h : mapSame u s t) (sl : Nat) : t.sliceRetired u sl = s.sliceRetired u sl := by
  unfold State.sliceRetired State.bit
  rw [h.fld (smRet sl) (Nat.zero_le _)]

theorem serving (h : mapSame u s t) : t.serving u = s.serving u :=
  List.map_congr_left fun _ hp => h.posSlice (List.mem_range.1 hp)

end mapSame

section
variable {u : Nat} (hu : u < 16)
include hu

/-- The slice maps stand below the page CAL, on the unit's page. -/
theorem map_place {off : Nat} (ho : off ≤ 12) : mapBase u + off < pCAL ∧ inPage (unitPage u) (mapBase u + off) := by
  unfold mapBase
  rcases unitPage_cases hu with ⟨h, hp⟩ | ⟨h, hp, hn⟩ <;> rw [hp]
  · simp only [if_pos h, inPage, pLRX, pCAL, LRX.SLICE_MAP]
    omega
  · simp only [if_neg hn, inPage, pLTX, pCAL, LTX.SLICE_MAP]
    omega

/-- A change of the registers of units leaves the slice maps. -/
theorem Sets.map {v : Nat} {s t : State} (h : Sets (unitRegs v) s t) : mapSame u s t := ⟨fun f hf => h.fld fun ha => by
  have hlow := (map_place hu hf).1
  simp only [List.mem_cons, List.not_mem_nil, or_false, rawAt_cal, statAt] at ha
  omega⟩

/-- A change of a slice map leaves the page CAL. -/
theorem Sets.mapRegs_cal {s t : State} (h : Sets (mapRegs u) s t) (off : Nat) : t.rd (pCAL + off) = s.rd (pCAL + off) := h.rd fun ha => by
  have h0 := (map_place hu (off := 0) (by decide)).1
  have h4 := (map_place hu (off := 4) (by decide)).1
  have h8 := (map_place hu (off := 8) (by decide)).1
  have h12 := (map_place hu (off := 12) (by decide)).1
  simp only [List.mem_cons, List.not_mem_nil, or_false] at ha
  omega

/-- Changes of a unit's slice map and of its registers stay on the unit's page and the page CAL. -/
theorem onlyPages_unit {s t : State} (h : Sets (mapRegs u ++ unitRegs u) s t) : onlyPages s t [pCAL, unitPage u] := by
  obtain ⟨⟨hq, hc, hm, hr⟩, -, -⟩ := h
  refine ⟨hq, hc, hm, regsSame_mono hr fun a ha => ?_⟩
  rcases List.mem_append.1 ha with ha | ha
  · refine ⟨unitPage u, by simp, ?_⟩
    simp only [List.mem_cons, List.not_mem_nil, or_false] at ha
    rcases ha with rfl | rfl | rfl | rfl
    · exact (map_place hu (off := 0) (by decide)).2
    · exact (map_place hu (by decide)).2
    · exact (map_place hu (by decide)).2
    · exact (map_place hu (by decide)).2
  · exact ⟨pCAL, by simp, unitRegs_page hu a ha⟩

end

section
variable (s : State) (u : Nat)

theorem setRet_sets (sl v : Nat) : Sets (mapRegs u) s (s.setFld (mapBase u) (smRet sl) v) := .setFld (.refl _ s) v (by simp [smRet])

theorem setSpareSlice_sets (sl : Nat) : Sets (mapRegs u) s (s.setSpareSlice u sl) := .setFld (.refl _ s) sl (by simp [smSpare])

theorem setPos_sets {p : Nat} (hp : p < 16) (sl : Nat) : Sets (mapRegs u) s (s.setPos u p sl) := by
  have h : p / 6 = 0 ∨ p / 6 = 1 ∨ p / 6 = 2 := by omega
  exact .setFld (.refl _ s) sl (by rcases h with h | h | h <;> simp [smPos, h])

/-- The RETIRED bit of a slice is set: the others stay. -/
theorem sliceRetired_setRet {sl z : Nat} (hsl : sl ≤ 16) :
    (s.setFld (mapBase u) (smRet sl) 1).sliceRetired u z = (z == sl || s.sliceRetired u z) := by
  by_cases hz : z = sl
  · subst hz
    rw [beq_self_eq_true, Bool.true_or]
    exact bit_setFld_one s _ _ (by simp only [smRet]; omega) (by simp [smRet])
  · unfold State.sliceRetired State.bit
    rw [fld_setFld_ne _ _ _ _ _ _ (.inr (by simp only [smRet]; omega)), beq_eq_false_iff_ne.2 hz, Bool.false_or]

/-- The spare's field lies beside the RETIRED bits and the slice out for calibration. -/
theorem sliceRetired_setSpareSlice (sl z : Nat) : (s.setSpareSlice u sl).sliceRetired u z = s.sliceRetired u z := by
  unfold State.sliceRetired State.bit State.setSpareSlice
  rw [fld_setFld_ne _ _ _ _ _ _ (.inr (by simp only [smSpare, smRet]; omega))]

theorem spare_setSpareSlice {sl : Nat} (h : sl < 32) : (s.setSpareSlice u sl).spare u = sl :=
  (fld_setFld s (mapBase u) smSpare sl (by decide)).trans (Nat.mod_eq_of_lt h)

theorem spare_setRet {sl v : Nat} : (s.setFld (mapBase u) (smRet sl) v).spare u = s.spare u :=
  fld_setFld_ne _ _ _ _ _ _ (.inr (by simp only [smSpare, smRet]; omega))

theorem calOut_setRet {sl v : Nat} : (s.setFld (mapBase u) (smRet sl) v).calOut u = s.calOut u :=
  fld_setFld_ne _ _ _ _ _ _ (.inr (by simp only [smCal, smRet]; omega))

theorem calOut_setSpareSlice (sl : Nat) : (s.setSpareSlice u sl).calOut u = s.calOut u :=
  fld_setFld_ne _ _ _ _ _ _ (.inr (by simp only [smCal, smSpare]; omega))

/-- The positions stand in other registers than the spare and the RETIRED bits. -/
theorem posSlice_setSpareSlice (sl p : Nat) : (s.setSpareSlice u sl).posSlice u p = s.posSlice u p :=
  fld_setFld_ne _ _ _ _ _ _ (.inl (by simp only [smPos, smSpare]; omega))

theorem posSlice_setRet (sl v p : Nat) : (s.setFld (mapBase u) (smRet sl) v).posSlice u p = s.posSlice u p :=
  fld_setFld_ne _ _ _ _ _ _ (.inl (by simp only [smPos, smRet]; omega))

theorem sliceRetired_setPos (p sl z : Nat) : (s.setPos u p sl).sliceRetired u z = s.sliceRetired u z := by
  unfold State.sliceRetired State.bit State.setPos
  rw [fld_setFld_ne _ _ _ _ _ _ (.inl (by simp only [smPos, smRet]; omega))]

/-- The slice of a position after another, or the same, was given one. -/
theorem posSlice_setPos (p q : Nat) {sl : Nat} (h : sl < 32) : (s.setPos u p sl).posSlice u q = if q = p then sl else s.posSlice u q := by
  split
  next hq =>
    subst hq
    exact (fld_setFld s (mapBase u) (smPos q) sl (by simp only [smPos]; omega)).trans (Nat.mod_eq_of_lt h)
  next hq => exact fld_setFld_ne _ _ _ _ _ _ (by simp only [smPos]; omega)

end

/-! ## Retirement (R135, R136) -/

theorem raised_raiseAct (s : State) (e : Ev) (i : Nat) (d : List Word) (h : e.bit < 32) : raised (s.raiseAct e i d) e i := by
  refine raised_congr (s := s.setRaw e i) ?_ (rd_logOcc _ _ _ _)
  exact bit_setFld_one s _ _ (by simp only [bitAt]; omega) (by simp [bitAt])

/-- A command waits for a commit point, after those before it. -/
def retireWaits (s : State) (u sl : Nat) : State :=
  s.modCal u fun x => { x with retireCmd := x.retireCmd.filter (· != sl) ++ [sl] }

/-- The RETIRED bit of a slice is set, and the slice is unmarked. -/
def markRetired (s : State) (u sl : Nat) : State := (s.setFld (mapBase u) (smRet sl) 1).unmark u sl

/-- A slice marked retired leaves its role of spare, or of the slice under visit. -/
def retiredOff (s : State) (u sl : Nat) : State :=
  let s := markRetired s u sl
  let s := s.when (s.spare u == sl) fun s => s.setSpareSlice u 31
  s.when (s.calOut u == sl) fun s => s.setCalOut u 31

theorem retireSlice_eq {s : State} {u sl : Nat} (h : s.sliceRetired u sl = false) (cause : Nat) : s.retireSlice u sl cause =
    ((retiredOff s u sl).raiseAct CAL.evSLICE_RETIRED 0
      [BitVec.ofNat 32 u, BitVec.ofNat 32 sl, BitVec.ofNat 32 cause, (retiredOff s u sl).unitFrame u]).exhaustCheck u := by
  unfold State.retireSlice
  rw [h]
  rfl

/-- A step that the spare was being prepared for ends. -/
def stepDropped (s : State) (u : Nat) : State := s.when (s.phase u == 1 || s.phase u == 2) fun s => s.endStep u

/-- A serving slice of a lane at rest is retired, and the map is rebuilt. -/
def servingRetired (s : State) (u sl : Nat) : State :=
  ((markRetired s u sl).raiseAct CAL.evSLICE_RETIRED 0 [BitVec.ofNat 32 u, BitVec.ofNat 32 sl, 3, (markRetired s u sl).unitFrame u]).rebuild u

/-- The slice to retire is neither retired, nor under visit, nor out for calibration. -/
structure retirable (s : State) (u sl : Nat) : Prop where
  slice : sl ≤ 16
  kept : s.sliceRetired u sl = false
  unvisited : s.visited u = sl → s.phase u = 0
  inside : s.calOut u ≠ sl

/-- RETIRE by the slice's role (R136). -/
theorem retireCommand_eq {s : State} {u sl : Nat} (h : retirable s u sl) : s.retireCommand u sl =
    if s.spare u = sl then (if s.unitRuns u then retireWaits s u sl else (stepDropped s u).retireSlice u sl 3)
    else if s.spare u = 31 then s else if s.unitRuns u then retireWaits s u sl else servingRetired s u sl := by
  have hsl : ¬ (16 < sl ∨ s.sliceRetired u sl = true) := by
    have := h.slice
    simp [h.kept]
    omega
  have hbusy : ¬ (s.visited u = sl ∧ s.phase u ≠ 0 ∨ s.calOut u = sl) := by
    rintro (⟨hv, hp⟩ | hc)
    · exact hp (h.unvisited hv)
    · exact h.inside hc
  unfold State.retireCommand
  rw [if_neg hsl]
  dsimp only
  rw [if_neg hbusy]
  rfl

section
variable {s : State} {u : Nat} (hu : u < 16) {sl : Nat}

theorem stepDropped_sets (s : State) (u : Nat) : Sets (unitRegs u) s (stepDropped s u) := .when (.refl _ s) _ fun _ => endStep_sets s u

theorem markRetired_sets (s : State) (u sl : Nat) : Sets (mapRegs u ++ unitRegs u) s (markRetired s u sl) :=
  .next (.next (.refl _ s) (setRet_sets s u sl 1)) (setMarks_sets ..)

include hu

/-- A slice marked retired: its bit is set, the map is otherwise as it was. -/
theorem markRetired_map (hsl : sl ≤ 16) : (∀ z, (markRetired s u sl).sliceRetired u z = (z == sl || s.sliceRetired u z))
    ∧ (markRetired s u sl).spare u = s.spare u ∧ (markRetired s u sl).calOut u = s.calOut u
    ∧ ∀ p, p < 16 → (markRetired s u sl).posSlice u p = s.posSlice u p := by
  have h : mapSame u (s.setFld (mapBase u) (smRet sl) 1) (markRetired s u sl) := (setMarks_sets _ u _ _).map hu
  exact ⟨fun z => (h.sliceRetired z).trans (sliceRetired_setRet s u hsl), h.spare.trans (spare_setRet s u), h.calOut.trans (calOut_setRet s u),
    fun p hp => (h.posSlice hp).trans (posSlice_setRet s u sl 1 p)⟩

/-- The spare marked retired leaves the unit without one (R136). -/
theorem retiredOff_spare (hsl : sl ≤ 16) (hspare : s.spare u = sl) (hout : s.calOut u ≠ sl) :
    retiredOff s u sl = (markRetired s u sl).setSpareSlice u 31 := by
  obtain ⟨-, hsp, hcal, -⟩ := markRetired_map (s := s) hu hsl
  have h1 : ((markRetired s u sl).spare u == sl) = true := by simp [hsp, hspare]
  have h2 : (((markRetired s u sl).setSpareSlice u 31).calOut u == sl) = false := by
    rw [calOut_setSpareSlice, hcal]
    simpa using hout
  unfold retiredOff
  dsimp only
  rw [h1, when_true, h2, when_false]

/-- What the retirement of a spare shows. -/
theorem retireSlice_spare_shows (hkept : s.sliceRetired u sl = false) (hsl : sl ≤ 16) (hspare : s.spare u = sl) (hout : s.calOut u ≠ sl)
    (cause : Nat) : let t := s.retireSlice u sl cause
    t.sliceRetired u sl = true ∧ t.spare u = 31 ∧ raised t CAL.evSLICE_RETIRED 0 ∧ (∀ p, p < 16 → t.posSlice u p = s.posSlice u p)
      ∧ Sets (mapRegs u ++ unitRegs u) s t := by
  intro t
  let w := (markRetired s u sl).setSpareSlice u 31
  let v := w.raiseAct CAL.evSLICE_RETIRED 0 [BitVec.ofNat 32 u, BitVec.ofNat 32 sl, BitVec.ofNat 32 cause, w.unitFrame u]
  have ht : t = v.exhaustCheck u := by
    show s.retireSlice u sl cause = _
    rw [retireSlice_eq hkept, retiredOff_spare hu hsl hspare hout]
  have hwt : Sets (unitRegs u) w t := ht ▸ .next (.raiseAct (.refl _ w) _ _ _) (exhaustCheck_sets v u)
  have hmap : mapSame u w t := hwt.map hu
  obtain ⟨hret, -, -, hpos⟩ := markRetired_map (s := s) hu hsl
  refine ⟨?_, hmap.spare.trans (spare_setSpareSlice _ u (by decide)), ?_, fun p hp => ?_, ?_⟩
  · rw [hmap.sliceRetired, sliceRetired_setSpareSlice, hret, beq_self_eq_true, Bool.true_or]
  · rw [ht]
    exact raised_visiting (exhaustCheck_visiting hu v) rfl (raised_raiseAct _ _ _ _ (by decide))
  · exact (hmap.posSlice hp).trans ((posSlice_setSpareSlice _ u 31 p).trans (hpos p hp))
  · exact .next (.next (markRetired_sets s u sl) (setSpareSlice_sets _ u 31)) hwt

/-! ### The map rebuilt -/

omit hu in
/-- The slices left to a unit, in increasing number. -/
def slicesLeft (s : State) (u : Nat) : List Nat := (List.range 17).filter fun sl => !s.sliceRetired u sl

omit hu in
theorem slicesLeft_lt (s : State) (u p : Nat) : (slicesLeft s u).getD p 31 < 32 := by
  rw [List.getD_eq_getElem?_getD]
  cases h : (slicesLeft s u)[p]? with
  | none => decide
  | some z =>
    have hz := List.mem_range.1 (List.mem_filter.1 (List.mem_of_getElem? h)).1
    simp only [Option.getD_some]
    omega

omit hu in
/-- Positions given slices in turn. -/
def positioned (s : State) (u n : Nat) (l : List Nat) : State := (List.range n).foldl (fun s p => s.setPos u p (l.getD p 31)) s

omit hu in
theorem positioned_succ (s : State) (u n : Nat) (l : List Nat) : positioned s u (n + 1) l = (positioned s u n l).setPos u n (l.getD n 31) := by
  unfold positioned
  rw [List.range_succ, List.foldl_append]
  rfl

omit hu in
/-- Positions given slices in turn: those, and no other part of the map. -/
theorem positioned_map (s : State) (u : Nat) {l : List Nat} (hl : ∀ p, l.getD p 31 < 32) (n : Nat) :
    (∀ q, (positioned s u n l).posSlice u q = if q < n then l.getD q 31 else s.posSlice u q)
      ∧ ∀ z, (positioned s u n l).sliceRetired u z = s.sliceRetired u z := by
  induction n with
  | zero => exact ⟨fun q => by simp [positioned], fun z => rfl⟩
  | succ n ih =>
    obtain ⟨hpos, hret⟩ := ih
    rw [positioned_succ]
    refine ⟨fun q => ?_, fun z => by rw [sliceRetired_setPos, hret]⟩
    rw [posSlice_setPos _ u n q (hl n), hpos]
    split_ifs with h1 h2 h3 h3
    · rw [h1]
    · omega
    · rfl
    · omega
    · omega
    · rfl

omit hu in
theorem positioned_sets (s : State) (u : Nat) (l : List Nat) : Sets (mapRegs u) s (positioned s u 16 l) :=
  .foldl (.refl _ s) _ fun v _ hp => setPos_sets v u (List.mem_range.1 hp) _

/-- The map rebuilt: the slices left in their order, the next as the spare (R136). -/
theorem rebuild_shows (s : State) : let t := s.rebuild u
    (∀ z, t.sliceRetired u z = s.sliceRetired u z) ∧ (∀ p, p < 16 → t.posSlice u p = (slicesLeft s u).getD p 31)
      ∧ t.spare u = (slicesLeft s u).getD 16 31 ∧ Sets (mapRegs u ++ unitRegs u) s t
      ∧ ∀ e : Ev, e.fam = 11 → raised s e 0 → raised t e 0 := by
  intro t
  have hl := slicesLeft_lt s u
  let v := (positioned s u 16 (slicesLeft s u)).setSpareSlice u ((slicesLeft s u).getD 16 31)
  have hv : Sets (mapRegs u) s v := .next (positioned_sets s u _) (setSpareSlice_sets _ u _)
  have hmap : mapSame u v t := (exhaustCheck_sets v u).map hu
  obtain ⟨hpos, hret⟩ := positioned_map s u hl 16
  refine ⟨fun z => ?_, fun p hp => ?_, hmap.spare.trans (spare_setSpareSlice _ u (hl 16)), .next (hv.mono) (exhaustCheck_sets v u),
    fun e he hr => raised_visiting (exhaustCheck_visiting hu v) he (raised_congr hr ?_)⟩
  · rw [hmap.sliceRetired, sliceRetired_setSpareSlice, hret]
  · rw [hmap.posSlice hp, posSlice_setSpareSlice, hpos, if_pos hp]
  · rw [he]
    exact hv.mapRegs_cal hu 0x10

/-- What the retirement of a serving slice of a lane at rest shows. -/
theorem servingRetired_shows (hsl : sl ≤ 16) :
    let t := servingRetired s u sl
    let left := (List.range 17).filter fun z => !s.sliceRetired u z && z != sl
    t.sliceRetired u sl = true ∧ raised t CAL.evSLICE_RETIRED 0 ∧ (∀ p, p < 16 → t.posSlice u p = left.getD p 31) ∧ t.spare u = left.getD 16 31
      ∧ Sets (mapRegs u ++ unitRegs u) s t := by
  intro t left
  let w := markRetired s u sl
  let v := w.raiseAct CAL.evSLICE_RETIRED 0 [BitVec.ofNat 32 u, BitVec.ofNat 32 sl, 3, w.unitFrame u]
  have hwv : Sets (unitRegs u) w v := .raiseAct (.refl _ w) _ _ _
  obtain ⟨hret, -⟩ := markRetired_map (s := s) hu hsl
  have hv (z : Nat) : v.sliceRetired u z = (z == sl || s.sliceRetired u z) := ((hwv.map hu).sliceRetired z).trans (hret z)
  have hleft : slicesLeft v u = left := List.filter_congr fun z _ => by
    rw [hv, Bool.not_or, Bool.and_comm]
    rfl
  obtain ⟨hkeep, hpos, hspare, hsets, hraised⟩ := rebuild_shows hu v
  rw [hleft] at hpos hspare
  exact ⟨(hkeep sl).trans (by simp [hv]), hraised _ rfl (raised_raiseAct _ _ _ _ (by decide)), hpos, hspare,
    .next (.next (markRetired_sets s u sl) hwv) hsets⟩

end

end Sys2Proof.Proofs

namespace Sys2Proof.Proofs

open Sys2Proof Sys2Proof.Machine Sys2Proof.Safety Sys2Proof.Laws

-- One declaration after another, as the tests are: a thread for every proof would not fit the memory of the check.
set_option Elab.async false

/-! ## RETIRE, HOLD and RESUME (R136, R154) -/

section
variable {s : State} {r : Requester} {u : Fin 16}

/-- RETIRE where nothing is to be done: the unit is missing, or the slice does not exist or is retired. -/
theorem calRetire_ignored {sl : BitVec 5} (hr : reaches s r 11 0 (CAL.U_CMD + 4 * u.val) (BitVec.ofNat 32 (0x10 + 256 * sl.toNat)))
    (h : s.unitHere u = false ∨ 16 < sl.toNat ∨ s.sliceRetired u sl.toNat = true) :
    completes (.calRetire r u sl) s (fun t => t.cal = s.cal ∧ nothing s t) := by
  refine completes_uCmd rfl hr (w := s) ?_ fun _ => ⟨rfl, onlyRegs_refl s []⟩
  by_cases hh : s.unitHere u = true
  · rw [effUCmd_retire hh]
    unfold State.retireCommand
    rw [if_pos (h.resolve_left (by simp [hh]))]
  · exact effUCmd_absent (by simpa using hh) _

/-- RETIRE of a slice that may be retired, by what the command comes to. -/
theorem calRetire_takes {sl : BitVec 5} {w : State} {P : State → Prop}
    (hr : reaches s r 11 0 (CAL.U_CMD + 4 * u.val) (BitVec.ofNat 32 (0x10 + 256 * sl.toNat))) (hh : s.unitHere u = true)
    (he : s.retireCommand u sl.toNat = w) (hP : ∀ x, P { w with spi := x }) : completes (.calRetire r u sl) s P :=
  completes_uCmd rfl hr (by rw [effUCmd_retire hh, he]) hP

/-- A slice that waits to be retired joins those that a command named, and nothing else changes. -/
theorem retireWaits_shows (s : State) (u sl : Nat) : nothing s (retireWaits s u sl)
    ∧ ((retireWaits s u sl).calSt u).retireCmd = (s.calSt u).retireCmd.filter (· != sl) ++ [sl] :=
  ⟨((Sets.refl [] s).modCal u _).only, by simp [retireWaits]⟩

section
variable {sl : BitVec 5} (hr : reaches s r 11 0 (CAL.U_CMD + 4 * u.val) (BitVec.ofNat 32 (0x10 + 256 * sl.toNat)))
  (hh : s.unitHere u = true) (h : retirable s u sl.toNat)
include hr hh h

/-- RETIRE of the spare of a running lane waits for a commit point. -/
theorem calRetire_spareRuns (hspare : s.spare u = sl.toNat) (hruns : s.unitRuns u = true) :
    completes (.calRetire r u sl) s (fun t => sl.toNat ∈ (t.calSt u).retireCmd ∧ nothing s t) := by
  have he := retireCommand_eq h
  rw [if_pos hspare, if_pos hruns] at he
  obtain ⟨honly, hlist⟩ := retireWaits_shows s u sl.toNat
  generalize retireWaits s u sl.toNat = w at he honly hlist
  have hmem : sl.toNat ∈ (w.calSt u).retireCmd := by simp [hlist]
  exact calRetire_takes hr hh he fun _ => ⟨hmem, honly⟩

/-- RETIRE of the spare of a lane at rest leaves the unit without one. -/
theorem calRetire_spareRests (hspare : s.spare u = sl.toNat) (hrests : s.unitRuns u = false) :
    completes (.calRetire r u sl) s (fun t => t.sliceRetired u sl.toNat = true ∧ t.spare u = 31 ∧ raised t CAL.evSLICE_RETIRED 0
      ∧ (∀ p, p < 16 → t.posSlice u p = s.posSlice u p) ∧ onlyPages s t [pCAL, unitPage u]) := by
  have hu := u.isLt
  have he := retireCommand_eq h
  rw [if_pos hspare, if_neg (by simp [hrests])] at he
  have hdrop := stepDropped_sets s u
  have hmap := hdrop.map hu
  obtain ⟨hret, hgone, hraised, hpos, hsets⟩ := retireSlice_spare_shows hu ((hmap.sliceRetired _).trans h.kept) h.slice
    (hmap.spare.trans hspare) (hmap.calOut.symm ▸ h.inside) 3
  have hpages := onlyPages_unit hu (.next (hdrop.mono (m := mapRegs u ++ unitRegs u)) hsets)
  have hkept (p : Nat) (hp : p < 16) := (hpos p hp).trans (hmap.posSlice hp)
  generalize (stepDropped s u).retireSlice u sl.toNat 3 = w at he hret hgone hraised hkept hpages
  exact calRetire_takes hr hh he fun _ => ⟨hret, hgone, hraised, hkept, hpages⟩

/-- RETIRE of a serving slice where no spare exists changes nothing. -/
theorem calRetire_noSpare (h31 : s.spare u = 31) : completes (.calRetire r u sl) s (fun t => t.cal = s.cal ∧ nothing s t) := by
  have he := retireCommand_eq h
  have hsl := h.slice
  rw [if_neg (by omega), if_pos h31] at he
  exact calRetire_takes hr hh he fun _ => ⟨rfl, onlyRegs_refl s []⟩

/-- RETIRE of a serving slice of a running lane waits for a commit point, after those before it. -/
theorem calRetire_servingRuns (hserves : s.spare u ≠ sl.toNat) (h31 : s.spare u ≠ 31) (hruns : s.unitRuns u = true) :
    completes (.calRetire r u sl) s (fun t => nothing s t
      ∧ (t.calSt u).retireCmd = (s.calSt u).retireCmd.filter (· != sl.toNat) ++ [sl.toNat]) := by
  have he := retireCommand_eq h
  rw [if_neg hserves, if_neg h31, if_pos hruns] at he
  have hshows := retireWaits_shows s u sl.toNat
  generalize retireWaits s u sl.toNat = w at he hshows
  exact calRetire_takes hr hh he fun _ => hshows

/-- RETIRE of a serving slice of a lane at rest rebuilds the map from the slices left. -/
theorem calRetire_servingRests (hserves : s.spare u ≠ sl.toNat) (h31 : s.spare u ≠ 31) (hrests : s.unitRuns u = false) :
    let left := (List.range 17).filter (fun z => !s.sliceRetired u z && z != sl.toNat)
    completes (.calRetire r u sl) s (fun t => t.sliceRetired u sl.toNat = true ∧ raised t CAL.evSLICE_RETIRED 0
      ∧ (∀ p, p < 16 → t.posSlice u p = left.getD p 31) ∧ t.spare u = left.getD 16 31 ∧ onlyPages s t [pCAL, unitPage u]) := by
  have hu := u.isLt
  have he := retireCommand_eq h
  rw [if_neg hserves, if_neg h31, if_neg (by simp [hrests])] at he
  obtain ⟨hret, hraised, hpos, hspare, hsets⟩ := servingRetired_shows (s := s) hu h.slice
  have hpages := onlyPages_unit hu hsets
  generalize servingRetired s u sl.toNat = w at he hret hspare hraised hpos hpages
  exact calRetire_takes hr hh he fun _ => ⟨hret, hraised, hpos, hspare, hpages⟩

end

/-- A command that changes what the unit keeps beside its registers, and nothing else. -/
theorem completes_modCal {c : Instr} {v : Word} {f : CalSt → CalSt} (hc : exec c s = uCmd r u v s) (hr : reaches s r 11 0 (CAL.U_CMD + 4 * u.val) v)
    (he : effUCmd u v s = .ok (s.modCal u f)) : completes c s (fun t => t.calSt u = f (s.calSt u) ∧ nothing s t) := by
  have hcal := calSt_modCal_self s u f
  have honly : nothing s (s.modCal u f) := ((Sets.refl [] s).modCal u f).only
  generalize s.modCal u f = w at he hcal honly
  exact completes_uCmd hc hr he fun _ => ⟨hcal, honly⟩

theorem calHold_holds (hr : reaches s r 11 0 (CAL.U_CMD + 4 * u.val) 0x4) (hh : s.unitHere u = true) :
    completes (.calHold r u) s (fun t => (t.calSt u).held = true ∧ nothing s t) := by
  obtain ⟨t, ht, hcal, h⟩ := completes_modCal (c := .calHold r u) rfl hr (effUCmd_hold hh)
  exact ⟨t, ht, congrArg CalSt.held hcal, h⟩

theorem calResume_frees (hr : reaches s r 11 0 (CAL.U_CMD + 4 * u.val) 0x8) (hh : s.unitHere u = true) :
    completes (.calResume r u) s (fun t => (t.calSt u).held = false ∧ nothing s t) := by
  obtain ⟨t, ht, hcal, h⟩ := completes_modCal (c := .calResume r u) rfl hr (effUCmd_resume hh)
  exact ⟨t, ht, congrArg CalSt.held hcal, h⟩

end

/-! ## The health monitor (R137) -/

theorem testBit_or_two_pow (n i j : Nat) : (n ||| 2 ^ i).testBit j = (n.testBit j || decide (i = j)) := by
  rw [Nat.testBit_or, Nat.testBit_two_pow]

section
variable (s : State) (u sl : Nat)

/-- Flagging changes the unit's registers alone. -/
theorem flag_sets : Sets (unitRegs u) s (s.flag u sl) := by
  unfold State.flag
  split
  · exact .refl _ s
  · exact .when (setMarks_sets ..) _ fun _ => degrade_sets ..

/-- A serving slice flagged is SUSPECT, and no other becomes so. -/
theorem calSt_flag (h : sl ∈ s.serving u) :
    (s.flag u sl).calSt u = { s.calSt u with suspect := (s.calSt u).suspect ||| 2 ^ sl } := by
  have hserves : (s.serving u).contains sl = true := by simpa using h
  unfold State.flag
  rw [hserves]
  by_cases hs : (s.calSt u).suspect.testBit sl = true
  · rw [if_pos (.inl hs)]
    have hor : (s.calSt u).suspect ||| 2 ^ sl = (s.calSt u).suspect := by
      apply Nat.eq_of_testBit_eq
      intro i
      rw [testBit_or_two_pow]
      by_cases hi : sl = i
      · rw [← hi, hs, Bool.true_or]
      · simp [hi]
    rw [hor]
  · rw [if_neg (by simp [hs])]
    have hmarks := calSt_setMarks s u ((s.calSt u).suspect ||| 2 ^ sl) (s.calSt u).revisit
    exact when_ind (P := fun t => t.calSt u = _) _ _ _ hmarks fun h => (calSt_congr (degrade_cal ..) u).trans h

end

/-- The windows running in which the mean of a position has deviated, this one included. -/
def meanRuns (s : State) (u : Nat) (devs : List (Nat × Nat)) (p : Nat) : Nat :=
  if 250 * s.fld pCAL CAL.MON_CFG.MON_OFS < (devs.getD p (0, 0)).1 then min 7 (Tbl.get 0 (s.calSt u).mean p + 1) else 0

/-- The windows running in which the RMS of a position has deviated, this one included. -/
def rmsRuns (s : State) (u : Nat) (devs : List (Nat × Nat)) (p : Nat) : Nat :=
  if 100 * s.fld pCAL CAL.MON_CFG.MON_GAIN < (devs.getD p (0, 0)).2 then min 7 (Tbl.get 0 (s.calSt u).rms p + 1) else 0

/-- The window of one position: its deviations are counted, and its slice flagged where either count has reached the limit. -/
def windowAt (s : State) (u lim : Nat) (devs : List (Nat × Nat)) (p : Nat) : State :=
  (s.modCal u fun x =>
    { x with mean := Tbl.put (some 0) x.mean p (meanRuns s u devs p), rms := Tbl.put (some 0) x.rms p (rmsRuns s u devs p) }).when
      (decide (lim ≤ meanRuns s u devs p) || decide (lim ≤ rmsRuns s u devs p)) fun s => s.flag u (s.posSlice u p)

/-- The windows of the positions below `n`. -/
def windows (s : State) (u lim : Nat) (devs : List (Nat × Nat)) (n : Nat) : State := (List.range n).foldl (fun s p => windowAt s u lim devs p) s

theorem exec_monWindowEnd {s : State} {n : Fin 8} (h : s.monitors n = true) (devs : List (Nat × Nat)) :
    exec (.monWindowEnd n devs) s = .next (windows s n (max 1 (s.fld pCAL CAL.MON_CFG.MON_N)) devs 16) := if_pos h

section
variable (s : State) (u lim : Nat) (devs : List (Nat × Nat))

theorem windowAt_sets (p : Nat) : Sets (unitRegs u) s (windowAt s u lim devs p) := .when (.modCal (.refl _ s) _ _) _ fun _ => flag_sets ..

theorem windows_sets (n : Nat) : Sets (unitRegs u) s (windows s u lim devs n) := .foldl (.refl _ s) _ fun v p _ => windowAt_sets v u lim devs p

/-- What the window of one position leaves of the unit. -/
theorem calSt_windowAt {p : Nat} (hp : p < 16) : (windowAt s u lim devs p).calSt u =
    { s.calSt u with
      mean := Tbl.put (some 0) (s.calSt u).mean p (meanRuns s u devs p), rms := Tbl.put (some 0) (s.calSt u).rms p (rmsRuns s u devs p),
      suspect := if lim ≤ meanRuns s u devs p ∨ lim ≤ rmsRuns s u devs p then (s.calSt u).suspect ||| 2 ^ s.posSlice u p
        else (s.calSt u).suspect } := by
  let v := s.modCal u fun x =>
    { x with mean := Tbl.put (some 0) x.mean p (meanRuns s u devs p), rms := Tbl.put (some 0) x.rms p (rmsRuns s u devs p) }
  have hw : windowAt s u lim devs p = v.when (decide (lim ≤ meanRuns s u devs p) || decide (lim ≤ rmsRuns s u devs p))
      fun s => s.flag u (s.posSlice u p) := rfl
  have hv : v.calSt u = { s.calSt u with
      mean := Tbl.put (some 0) (s.calSt u).mean p (meanRuns s u devs p),
      rms := Tbl.put (some 0) (s.calSt u).rms p (rmsRuns s u devs p) } := calSt_modCal_self ..
  rw [hw]
  by_cases h : lim ≤ meanRuns s u devs p ∨ lim ≤ rmsRuns s u devs p
  · rw [if_pos h, show (decide (lim ≤ meanRuns s u devs p) || decide (lim ≤ rmsRuns s u devs p)) = true by simpa using h, when_true,
      calSt_flag v u _ (List.mem_map.2 ⟨p, List.mem_range.2 hp, rfl⟩), hv]
    rfl
  · rw [if_neg h, show (decide (lim ≤ meanRuns s u devs p) || decide (lim ≤ rmsRuns s u devs p)) = false by simpa using h, when_false, hv]

/-- What was counted at the position `n` joins what was counted below. -/
theorem runs_succ (p n : Nat) (x y : Nat → Nat) : (if p = n then x n else if p < n then x p else y p) = if p < n + 1 then x p else y p := by
  rcases lt_trichotomy p n with h | rfl | h
  · simp [h, h.ne, Nat.lt_succ_of_lt h]
  · simp
  · simp [h.ne', show ¬ p < n by omega, show ¬ p < n + 1 by omega]

/-- The windows of the positions below `n`: their counts, and the slices that reached the limit, are as the window found them. -/
theorem windows_shows (hu : u < 16) {n : Nat} (hn : n ≤ 16) : let x := (windows s u lim devs n).calSt u
    (∀ p, Tbl.get 0 x.mean p = if p < n then meanRuns s u devs p else Tbl.get 0 (s.calSt u).mean p)
      ∧ (∀ p, Tbl.get 0 x.rms p = if p < n then rmsRuns s u devs p else Tbl.get 0 (s.calSt u).rms p)
      ∧ ∀ sl, x.suspect.testBit sl = true ↔ (s.calSt u).suspect.testBit sl = true
        ∨ ∃ p, p < n ∧ s.posSlice u p = sl ∧ (lim ≤ meanRuns s u devs p ∨ lim ≤ rmsRuns s u devs p) := by
  induction n with
  | zero => exact ⟨fun p => rfl, fun p => rfl, fun sl => by simp [windows]⟩
  | succ n ih =>
    obtain ⟨hmean, hrms, hsus⟩ := ih (by omega)
    have hsets := windows_sets s u lim devs n
    have hslice : (windows s u lim devs n).posSlice u n = s.posSlice u n := (hsets.map hu).posSlice (by omega)
    have hmon (f : Fld) (hf : f.off = CAL.MON_CFG) : (windows s u lim devs n).fld pCAL f = s.fld pCAL f := hsets.fld (by
      simp only [hf, List.mem_cons, List.not_mem_nil, or_false, rawAt_cal, statAt, CAL.MON_CFG, CAL.U_STAT]
      omega)
    have hm : meanRuns (windows s u lim devs n) u devs n = meanRuns s u devs n := by
      unfold meanRuns
      rw [hmon _ rfl, hmean, if_neg (lt_irrefl n)]
    have hr : rmsRuns (windows s u lim devs n) u devs n = rmsRuns s u devs n := by
      unfold rmsRuns
      rw [hmon _ rfl, hrms, if_neg (lt_irrefl n)]
    have hstep : windows s u lim devs (n + 1) = windowAt (windows s u lim devs n) u lim devs n := by
      unfold windows
      rw [List.range_succ, List.foldl_append]
      rfl
    intro x
    have hx : x = _ := (congrArg (fun t => State.calSt t u) hstep).trans (calSt_windowAt _ u lim devs (p := n) (by omega))
    rw [hm, hr, hslice] at hx
    rw [hx]
    refine ⟨fun p => ?_, fun p => ?_, fun sl => ?_⟩
    · rw [get_put, hmean, runs_succ]
    · rw [get_put, hrms, runs_succ]
    · have hnew : (if lim ≤ meanRuns s u devs n ∨ lim ≤ rmsRuns s u devs n then ((windows s u lim devs n).calSt u).suspect ||| 2 ^ s.posSlice u n
          else ((windows s u lim devs n).calSt u).suspect).testBit sl = true ↔ ((windows s u lim devs n).calSt u).suspect.testBit sl = true
            ∨ (s.posSlice u n = sl ∧ (lim ≤ meanRuns s u devs n ∨ lim ≤ rmsRuns s u devs n)) := by
        split_ifs with h
        · rw [testBit_or_two_pow]
          simp [h]
        · simp [h]
      rw [hnew, hsus]
      simp only [Nat.lt_succ_iff_lt_or_eq, or_and_right, exists_or, exists_eq_left, or_assoc]

end

/-- A window of the monitor counts its deviations, and flags the slices at positions that have reached the limit (R137). -/
theorem monWindow_flags {s : State} {n : Fin 8} (h : s.monitors n = true) (devs : List (Nat × Nat)) :
    completes (.monWindowEnd n devs) s (fun t => onlyPage s t pCAL
      ∧ (∀ p, p < 16 → Tbl.get 0 (t.calSt n).mean p = meanRuns s n devs p ∧ Tbl.get 0 (t.calSt n).rms p = rmsRuns s n devs p)
      ∧ ∀ sl, (t.calSt n).suspect.testBit sl = true ↔ (s.calSt n).suspect.testBit sl = true ∨ ∃ p, p < 16 ∧ s.posSlice n p = sl
        ∧ (max 1 (s.fld pCAL CAL.MON_CFG.MON_N) ≤ meanRuns s n devs p ∨ max 1 (s.fld pCAL CAL.MON_CFG.MON_N) ≤ rmsRuns s n devs p)) := by
  have hu : n.val < 16 := by omega
  obtain ⟨hmean, hrms, hsus⟩ := windows_shows s n (max 1 (s.fld pCAL CAL.MON_CFG.MON_N)) devs hu (le_refl 16)
  exact ⟨_, exec_monWindowEnd h devs, (windows_sets s n _ devs 16).page (unitRegs_page hu),
    fun p hp => ⟨(hmean p).trans (if_pos hp), (hrms p).trans (if_pos hp)⟩, hsus⟩

/-- DEGRADED shows, with its event (R141). -/
theorem degrade_shows (s : State) {u : Nat} (hu : u < 16) :
    (s.degrade u).bit pCAL (uf u CAL.U_STAT.DEGRADED) = true ∧ raised (s.degrade u) CAL.evSLICE_DEGRADED 0 := by
  refine ⟨(((Sets.refl [rawAt 11 0] _).raise _ _).bit ?_).trans (bit_setUnit_one s u CAL.U_STAT.DEGRADED), raised_raiseBy _ _ _ _ (by decide)⟩
  rw [unitFld_stat rfl, List.mem_singleton, rawAt_cal, statAt]
  simp only [CAL.U_STAT]
  omega

/-- A transmit slice whose bias is too low becomes SUSPECT; where no slice is to spare the lane is DEGRADED (R137, R141). -/
theorem txBias_flags {s : State} {n : Fin 8} {sl : Fin 17} {bias : List Nat} (hm : s.monitors (8 + n.val) = true)
    (hlow : 4 * (bias.getD sl.val 0 : Int) < median2 (((List.range 17).filter fun k => k != sl.val && (s.serving (8 + n.val)).contains k).map
      fun k => (bias.getD k 0 : Int)))
    (hserves : sl.val ∈ s.serving (8 + n.val)) (hnot : (s.calSt (8 + n.val)).suspect.testBit sl = false) :
    completes (.txBiasFlag n sl bias) s (fun t => (t.calSt (8 + n.val)).suspect.testBit sl = true
      ∧ t.bit pCAL (uf (8 + n.val) CAL.U_STAT.SUSPECT) = true ∧ onlyPage s t pCAL
      ∧ (s.bit pCAL (uf (8 + n.val) CAL.U_STAT.EXHAUSTED) = true →
        t.bit pCAL (uf (8 + n.val) CAL.U_STAT.DEGRADED) = true ∧ raised t CAL.evSLICE_DEGRADED 0)) := by
  have hu : 8 + n.val < 16 := by omega
  let u := 8 + n.val
  let v := s.setMarks u ((s.calSt u).suspect ||| 2 ^ sl.val) (s.calSt u).revisit
  have hflag : s.flag u sl = v.when (v.bit pCAL (uf u CAL.U_STAT.EXHAUSTED)) fun s => s.degrade u := by
    unfold State.flag
    rw [if_neg (by simp [u, hserves, hnot])]
  have hsuspect : v.bit pCAL (uf u CAL.U_STAT.SUSPECT) = true := by
    have hne : (s.calSt u).suspect ||| 2 ^ sl.val ≠ 0 := fun h0 => by
      have := testBit_or_two_pow (s.calSt u).suspect sl sl
      simp [h0] at this
    unfold v State.setMarks
    rw [if_neg hne]
    exact bit_setUnit_one _ u CAL.U_STAT.SUSPECT
  have hshown : (s.flag u sl).bit pCAL (uf u CAL.U_STAT.SUSPECT) = true := by
    rw [hflag]
    refine when_ind (P := fun t => t.bit pCAL (uf u CAL.U_STAT.SUSPECT) = true) _ _ _ hsuspect fun h => ?_
    unfold State.bit at h ⊢
    rwa [fld_degrade v u (f := CAL.U_STAT.SUSPECT) (hu := hu)]
  refine ⟨_, if_pos ⟨hm, hlow⟩, ?_, hshown, (flag_sets s u sl).page (unitRegs_page hu), fun hex => ?_⟩
  · rw [calSt_flag s u sl hserves]
    exact (testBit_or_two_pow _ sl sl).trans (by simp)
  · have hexhausted : v.bit pCAL (uf u CAL.U_STAT.EXHAUSTED) = true := by
      unfold State.bit at hex ⊢
      rwa [show v.fld _ _ = _ from fld_setMarks s u CAL.U_STAT.EXHAUSTED _ _]
    show (s.flag u sl).bit pCAL (uf u CAL.U_STAT.DEGRADED) = true ∧ raised (s.flag u sl) CAL.evSLICE_DEGRADED 0
    rw [hflag, hexhausted, when_true]
    exact degrade_shows v hu

/-! ## A missing grant, and CALREF (R146, R147, R150) -/

/-- Without a grant the step goes on without a window (R146). -/
theorem quietMissed_goesOn {s : State} {n : Fin 8} (hphase : s.phase n = 1) (hq : (s.calSt n).quiet = 1 ∨ (s.calSt n).quiet = 2) :
    completes (.quietMissed n) s (fun t => (t.calSt n).quiet = 0 ∧ raised t CAL.evQUIET_MISSED 0 ∧ t.phase n = 1 ∧ onlyPage s t pCAL) := by
  let v := s.modCal n fun x => { x with quiet := 0 }
  have hv : Sets [rawAt 11 0] v (v.raise CAL.evQUIET_MISSED 0) := .raise (.refl _ v) _ _
  refine ⟨_, if_pos ⟨hphase, hq⟩, by simp, raised_raiseBy _ _ _ _ (by decide), (hv.fld ?_).trans hphase,
    (Sets.next (.modCal (.refl [rawAt 11 0] s) _ _) hv).page fun a ha =>
      unitRegs_page (u := n) (by omega) a (List.mem_cons_of_mem _ ha)⟩
  rw [unitFld_stat rfl, List.mem_singleton, rawAt_cal, statAt]
  simp only [CAL.U_STAT]
  omega

/-- A change of CALREF is shown and raised (R147). -/
theorem calrefChange_shows (s : State) (uv us : Nat) : let c := calrefClass uv us
    completes (.calrefChange uv us) s (fun t => t.fld pCAL CAL.CAL_STAT.CALREF = c
      ∧ (s.fld pCAL CAL.CAL_STAT.CALREF ≠ c → raised t CAL.evCALREF_CHANGE 0) ∧ onlyRegs s t [pCAL + CAL.CAL_STAT, rawAt 11 0]) := by
  intro c
  have hc : c < 4 := by
    unfold c calrefClass
    split_ifs <;> decide
  by_cases h : s.fld pCAL CAL.CAL_STAT.CALREF = c
  · exact ⟨s, if_pos h, h, fun hne => absurd h hne, onlyRegs_refl ..⟩
  · have hset : Sets [pCAL + CAL.CAL_STAT, rawAt 11 0] s (s.setFld pCAL CAL.CAL_STAT.CALREF c) := .setFld (.refl _ s) c
    have hraise : Sets [rawAt 11 0] (s.setFld pCAL CAL.CAL_STAT.CALREF c) ((s.setFld pCAL CAL.CAL_STAT.CALREF c).raise CAL.evCALREF_CHANGE 0) :=
      .raise (.refl _ _) _ _
    refine ⟨_, if_neg h, (hraise.fld (by decide)).trans ((fld_setFld _ _ _ _ (by decide)).trans (Nat.mod_eq_of_lt hc)),
      fun _ => raised_raiseBy _ _ _ _ (by decide), (hset.next hraise).only⟩

/-- A write of CAL_CMD.REF_MEASURE, by what it comes to. -/
theorem calRefMeasure_takes {s w : State} {r : Requester} {P : State → Prop} (hr : reaches s r 11 0 CAL.CAL_CMD 0x1)
    (he : effCalCmd 0x1 s = .ok w) (hP : ∀ x, P { w with spi := x }) : completes (.calRefMeasure r) s P := by
  obtain ⟨x, hx⟩ := reportOk_eq w r
  refine ⟨w.reportOk r, ?_, hx ▸ hP x⟩
  show txn r (pageAt 11 0 + CAL.CAL_CMD) 0x1 (effCalCmd 0x1) s = _
  rw [txn_reaches _ _ _ _ _ _ _ hr (pageAt_mod4 11 0), he, finish_ok]

/-- REF_MEASURE starts a measurement, but in REF_MODE 0 (R150). -/
theorem calRefMeasure_starts {s : State} {r : Requester} (hr : reaches s r 11 0 CAL.CAL_CMD 0x1) :
    (s.fld pCAL CAL.CAL_CTRL.REF_MODE ≠ 0 → s.brownOut = false → s.enabled pCAL = true → completes (.calRefMeasure r) s (fun t =>
        t.bit pCAL CAL.CAL_STAT.REF_BUSY = true ∧ onlyRegs s t [pCAL + CAL.CAL_STAT]))
      ∧ (s.fld pCAL CAL.CAL_CTRL.REF_MODE = 0 → completes (.calRefMeasure r) s (nothing s)) := by
  refine ⟨fun hmode hbo hen => calRefMeasure_takes hr (w := s.setFld pCAL CAL.CAL_STAT.REF_BUSY 1) ?_ fun _ =>
    ⟨bit_setFld_one s _ _ (by decide) (by decide), onlyRegs_setFld s pCAL CAL.CAL_STAT.REF_BUSY 1⟩,
    fun hmode => calRefMeasure_takes hr (w := s) ?_ fun _ => onlyRegs_refl s []⟩
  · unfold effCalCmd
    simp [hmode, hbo, hen]
  · unfold effCalCmd
    simp [hmode]

/-- The means of a measurement stand in REF_MEAS, and the measurement is over. -/
def refMeasured (s : State) (bg calref : BitVec 16) : State :=
  (s.wr (pCAL + CAL.REF_MEAS) (BitVec.ofNat 32 (bg.toNat * 2 ^ 16 + calref.toNat))).setFld pCAL CAL.CAL_STAT.REF_BUSY 0

theorem refMeasured_sets (s : State) (bg calref : BitVec 16) : Sets [pCAL + CAL.REF_MEAS, pCAL + CAL.CAL_STAT] s (refMeasured s bg calref) :=
  .setFld (.wr (.refl _ s) _) 0

theorem append_ofNat (a b : BitVec 16) : BitVec.ofNat 32 (a.toNat * 2 ^ 16 + b.toNat) = a ++ b := by
  apply BitVec.eq_of_toNat_eq
  have := a.isLt
  have := b.isLt
  rw [BitVec.toNat_append, BitVec.toNat_ofNat, ← Nat.shiftLeft_add_eq_or_of_lt b.isLt, Nat.shiftLeft_eq]
  omega

theorem refMeasured_shows (s : State) (bg calref : BitVec 16) : (refMeasured s bg calref).rd (pCAL + CAL.REF_MEAS) = bg ++ calref
    ∧ (refMeasured s bg calref).bit pCAL CAL.CAL_STAT.REF_BUSY = false := by
  refine ⟨?_, bit_setFld_zero _ _ _ (by decide)⟩
  unfold refMeasured
  rw [rd_setFld_ne _ _ _ _ _ (by decide), rd_wr_self, append_ofNat]

/-- The trim that a field measurement gives (log entry 78). -/
def trimWord (bg calref : BitVec 16) : Word := (Config.fieldTrim bg calref).setWidth 32 ||| 0x80000000

/-- The trim lies within 0.3 % of the one in force. -/
def trimNear (s : State) (w : Word) : Prop := (sx 12 w.toNat - sx 12 (s.fld pCAL CAL.BG_TRIM.TRIM)).natAbs ≤ 300

/-- A trim near enough is written and stored, another rejected (R150). -/
theorem fieldTrim_shows (s : State) (bg calref : BitVec 16) : let w := trimWord bg calref
    let t := s.fieldTrim bg calref
    Sets [pCAL + CAL.BG_TRIM, rawAt 11 0] s t ∧ (trimNear s w → t.rd (pCAL + CAL.BG_TRIM) = w ∧ t.boot.flash.bgTrim = some w)
      ∧ (¬ trimNear s w → t.rd (pCAL + CAL.BG_TRIM) = s.rd (pCAL + CAL.BG_TRIM) ∧ raised t CAL.evCALREF_REJECT 0) := by
  intro w t
  by_cases h : trimNear s w
  · have ht : t = { s.wr (pCAL + CAL.BG_TRIM) w with boot := { s.boot with flash := { s.boot.flash with bgTrim := some w } } } := if_pos h
    rw [ht]
    exact ⟨.step (.wr (.refl _ s) (a := pCAL + CAL.BG_TRIM) w), fun _ => ⟨rd_wr_self s _ w, rfl⟩, fun hn => absurd h hn⟩
  · have ht : t = s.raise CAL.evCALREF_REJECT 0 := if_neg h
    rw [ht]
    exact ⟨.raise (.refl _ s) _ _, fun hn => absurd hn h, fun _ => ⟨rd_raise_ne s _ _ _ (by decide), raised_raiseBy _ _ _ _ (by decide)⟩⟩

/-- The end of a measurement (R150). -/
theorem calRefMeasureDone_shows {s : State} (bg calref : BitVec 16) (hbusy : s.bit pCAL CAL.CAL_STAT.REF_BUSY = true) :
    completes (.calRefMeasureDone bg calref) s (fun t => t.rd (pCAL + CAL.REF_MEAS) = bg ++ calref ∧ t.bit pCAL CAL.CAL_STAT.REF_BUSY = false
      ∧ (s.fld pCAL CAL.CAL_CTRL.REF_MODE ≠ 1 → onlyRegs s t [pCAL + CAL.REF_MEAS, pCAL + CAL.CAL_STAT])
      ∧ (s.fld pCAL CAL.CAL_CTRL.REF_MODE = 1 →
        onlyRegs s t [pCAL + CAL.REF_MEAS, pCAL + CAL.CAL_STAT, pCAL + CAL.BG_TRIM, rawAt 11 0]
          ∧ (trimNear s (trimWord bg calref) → t.rd (pCAL + CAL.BG_TRIM) = trimWord bg calref ∧ t.boot.flash.bgTrim = some (trimWord bg calref))
          ∧ (¬ trimNear s (trimWord bg calref) → t.rd (pCAL + CAL.BG_TRIM) = s.rd (pCAL + CAL.BG_TRIM) ∧ raised t CAL.evCALREF_REJECT 0))) := by
  let v := refMeasured s bg calref
  have hv := refMeasured_sets s bg calref
  obtain ⟨hmeas, hidle⟩ := refMeasured_shows s bg calref
  have hexec : exec (.calRefMeasureDone bg calref) s = .next (v.when (v.fld pCAL CAL.CAL_CTRL.REF_MODE == 1) fun s => s.fieldTrim bg calref) :=
    if_pos hbusy
  rw [show v.fld pCAL CAL.CAL_CTRL.REF_MODE = s.fld pCAL CAL.CAL_CTRL.REF_MODE from hv.fld (by decide)] at hexec
  by_cases hmode : s.fld pCAL CAL.CAL_CTRL.REF_MODE = 1
  · rw [hmode, beq_self_eq_true, when_true] at hexec
    obtain ⟨hsets, hnear, hfar⟩ := fieldTrim_shows v bg calref
    have htrim : trimNear v (trimWord bg calref) ↔ trimNear s (trimWord bg calref) := by
      unfold trimNear
      rw [show v.fld pCAL CAL.BG_TRIM.TRIM = s.fld pCAL CAL.BG_TRIM.TRIM from hv.fld (by decide)]
    refine ⟨_, hexec, (hsets.rd (by decide)).trans hmeas, (hsets.bit (by decide)).trans hidle, fun hne => absurd hmode hne, fun _ => ⟨?_, ?_, ?_⟩⟩
    · exact (Sets.next (l := [pCAL + CAL.REF_MEAS, pCAL + CAL.CAL_STAT, pCAL + CAL.BG_TRIM, rawAt 11 0]) hv.mono hsets).only
    · exact fun hn => hnear (htrim.2 hn)
    · exact fun hn => (hfar (mt htrim.1 hn)).imp_left fun h => h.trans (hv.rd (by decide))
  · rw [beq_eq_false_iff_ne.2 hmode, when_false] at hexec
    exact ⟨v, hexec, hmeas, hidle, fun _ => hv.only, fun h1 => absurd h1 hmode⟩

/-- Settles O50, clause by clause: RETIRE by the slice's role, HOLD and RESUME, the monitor, a missing grant and the CALREF measurement. -/
theorem sparingMonitorAndReference : Obligations.SparingMonitorAndReference := fun s =>
  ⟨fun _ _ _ hr => ⟨calRetire_ignored hr,
      fun ⟨hh, hsl, hret, hvis, hout⟩ => calRetire_spareRuns hr hh ⟨hsl, hret, hvis, hout⟩,
      fun ⟨hh, hsl, hret, hvis, hout⟩ => calRetire_spareRests hr hh ⟨hsl, hret, hvis, hout⟩,
      fun ⟨hh, hsl, hret, hvis, hout⟩ => calRetire_noSpare hr hh ⟨hsl, hret, hvis, hout⟩,
      fun ⟨hh, hsl, hret, hvis, hout⟩ => calRetire_servingRuns hr hh ⟨hsl, hret, hvis, hout⟩,
      fun ⟨hh, hsl, hret, hvis, hout⟩ => calRetire_servingRests hr hh ⟨hsl, hret, hvis, hout⟩⟩,
    fun _ _ hh => ⟨fun hr => calHold_holds hr hh, fun hr => calResume_frees hr hh⟩,
    fun _ devs hm => monWindow_flags hm devs,
    fun _ _ _ hm hlow hserves hnot => txBias_flags hm hlow hserves hnot,
    fun _ => quietMissed_goesOn, calrefChange_shows s, fun _ => calRefMeasure_starts, calRefMeasureDone_shows⟩

end Sys2Proof.Proofs

namespace Sys2Proof.Proofs

open Sys2Proof Sys2Proof.Machine Sys2Proof.Safety Sys2Proof.Laws

-- One declaration after another, as the tests are: a thread for every proof would not fit the memory of the check.
set_option Elab.async false

/-! ## The candidate of a step (R122) -/

/-- The serving slices, in increasing number. -/
def servingSlices (s : State) (u : Nat) : List Nat := (List.range 17).filter fun sl => (s.serving u).contains sl

theorem mem_servingSlices {s : State} {u sl : Nat} : sl ∈ servingSlices s u ↔ sl < 17 ∧ sl ∈ s.serving u := by
  simp [servingSlices]

theorem servingSlices_sorted (s : State) (u : Nat) : (servingSlices s u).Pairwise (· < ·) := List.pairwise_lt_range.filter _

/-- Of two slices, the one calibrated longer ago: the first where they tie. -/
def older (last : Tbl Nat) (b sl : Nat) : Nat := if b = 31 ∨ Tbl.get 0 last sl < Tbl.get 0 last b then sl else b

/-- The oldest of slices in increasing number, ties to the lowest. -/
theorem foldl_older (last : Tbl Nat) (l : List Nat) (b : Nat) (hb : b ≠ 31) (hl : ∀ z ∈ l, b < z ∧ z ≠ 31) (hsort : l.Pairwise (· < ·)) :
    let r := l.foldl (older last) b
    r ∈ b :: l ∧ ∀ z ∈ b :: l, Tbl.get 0 last r ≤ Tbl.get 0 last z ∧ (Tbl.get 0 last r = Tbl.get 0 last z → r ≤ z) := by
  induction l generalizing b with
  | nil => simp
  | cons a l ih =>
    obtain ⟨hal, hsort⟩ := List.pairwise_cons.1 hsort
    obtain ⟨⟨hba, ha⟩, hl⟩ := List.forall_mem_cons.1 hl
    intro r
    by_cases hage : Tbl.get 0 last a < Tbl.get 0 last b
    · have hr : r = l.foldl (older last) a := congrArg (l.foldl (older last)) (if_pos (.inr hage))
      obtain ⟨hmem, hold⟩ := ih a ha (fun z hz => ⟨hal z hz, (hl z hz).2⟩) hsort
      rw [← hr] at hmem hold
      have hra := (hold a List.mem_cons_self).1
      exact ⟨List.mem_cons_of_mem b hmem, List.forall_mem_cons.2 ⟨⟨by omega, by omega⟩, hold⟩⟩
    · have hr : r = l.foldl (older last) b := congrArg (l.foldl (older last)) (if_neg (by simp [hb, hage]))
      obtain ⟨hmem, hold⟩ := ih b hb hl hsort
      rw [← hr] at hmem hold
      obtain ⟨hb', hold⟩ := List.forall_mem_cons.1 hold
      refine ⟨(List.mem_cons.1 hmem).elim (· ▸ List.mem_cons_self) fun h => List.mem_cons_of_mem _ (List.mem_cons_of_mem _ h),
        List.forall_mem_cons.2 ⟨hb', List.forall_mem_cons.2 ⟨⟨by omega, by omega⟩, hold⟩⟩⟩

section
variable (s : State) (u : Nat)

theorem candidate_eq : s.candidate u = match (servingSlices s u).find? fun sl => (s.calSt u).suspect.testBit sl with
    | some c => c
    | none => (servingSlices s u).foldl (older (s.calSt u).last) 31 := rfl

/-- The candidate is a serving slice: the lowest SUSPECT one, else the one calibrated longest ago. -/
theorem candidate_shows {sl : Nat} (hlt : sl < 17) (hserves : sl ∈ s.serving u) : let x := s.calSt u
    (s.candidate u < 17 ∧ s.candidate u ∈ s.serving u)
      ∧ (x.suspect.testBit sl = true → x.suspect.testBit (s.candidate u) = true ∧ s.candidate u ≤ sl)
      ∧ ((∀ z, z < 17 → z ∈ s.serving u → x.suspect.testBit z = false) →
        Tbl.get 0 x.last (s.candidate u) ≤ Tbl.get 0 x.last sl
          ∧ (Tbl.get 0 x.last (s.candidate u) = Tbl.get 0 x.last sl → s.candidate u ≤ sl)) := by
  intro x
  have hsl : sl ∈ servingSlices s u := mem_servingSlices.2 ⟨hlt, hserves⟩
  have hsort := servingSlices_sorted s u
  have hin (c : Nat) (hc : c ∈ servingSlices s u) : c < 17 ∧ c ∈ s.serving u := mem_servingSlices.1 hc
  rw [candidate_eq]
  cases hfind : (servingSlices s u).find? fun sl => (s.calSt u).suspect.testBit sl with
  | some c =>
    obtain ⟨hc, before, after, hsplit, hbefore⟩ := List.find?_eq_some_iff_append.1 hfind
    have hcmem : c ∈ servingSlices s u := hsplit ▸ List.mem_append_right _ List.mem_cons_self
    obtain ⟨hclt, hcserves⟩ := hin c hcmem
    refine ⟨⟨hclt, hcserves⟩, fun hsus => ⟨hc, ?_⟩, fun hnone => absurd hc (by simp [x, hnone c hclt hcserves])⟩
    rw [hsplit] at hsl hsort
    rcases List.mem_append.1 hsl with h | h
    · exact absurd hsus (by simpa using hbefore sl h)
    · rcases List.mem_cons.1 h with rfl | h
      · exact le_refl _
      · exact ((List.pairwise_cons.1 (List.pairwise_append.1 hsort).2.1).1 sl h).le
  | none =>
    have hnone := List.find?_eq_none.1 hfind
    have h31 (z : Nat) (hz : z ∈ servingSlices s u) : z ≠ 31 := by
      have := (hin z hz).1
      omega
    obtain ⟨a, l, hal⟩ := List.exists_cons_of_ne_nil (List.ne_nil_of_mem hsl)
    rw [hal] at hsl hsort hin h31 ⊢
    obtain ⟨hlow, hsort⟩ := List.pairwise_cons.1 hsort
    obtain ⟨ha, hl⟩ := List.forall_mem_cons.1 h31
    obtain ⟨hmem, hold⟩ := foldl_older x.last l a ha (fun z hz => ⟨hlow z hz, hl z hz⟩) hsort
    refine ⟨hin _ hmem, fun hsus => absurd hsus (hnone sl (hal ▸ hsl)), fun _ => hold sl hsl⟩

end

/-! ## The start of a step (R122, R124) -/

/-- A step started, or the reason why none was. -/
def stepStarted (s : State) (u : Nat) (t : State) : Prop :=
  let x := s.calSt u
  onlyPage s t pCAL ∧ t.inForce = s.inForce
    ∧ (s.spare u = 31 → t.cal = s.cal ∧ nothing s t)
    ∧ (s.spare u ≠ 31 → x.revisit.testBit (s.spare u) = true → t.phase u = 3 ∧ t.visited u = s.spare u
        ∧ (t.calSt u).spareVisit = true ∧ (t.calSt u).todo = allPars u ∧ (t.calSt u).seq = (x.seq + 1) % 2 ^ 16)
    ∧ (s.spare u ≠ 31 → x.revisit.testBit (s.spare u) = false → x.suspect.testBit (s.spare u) = true → t.cal = s.cal ∧ nothing s t)
    ∧ (s.spare u ≠ 31 → x.revisit.testBit (s.spare u) = false → x.suspect.testBit (s.spare u) = false →
        t.phase u = 1 ∧ (t.calSt u).spareVisit = false ∧ (t.calSt u).seq = (x.seq + 1) % 2 ^ 16
        ∧ (∀ sl, sl < 17 → sl ∈ s.serving u →
            t.visited u ∈ s.serving u
              ∧ (x.suspect.testBit sl = true → x.suspect.testBit (t.visited u) = true ∧ t.visited u ≤ sl)
              ∧ ((∀ z, z < 17 → z ∈ s.serving u → x.suspect.testBit z = false) →
                  Tbl.get 0 x.last (t.visited u) ≤ Tbl.get 0 x.last sl
                    ∧ (Tbl.get 0 x.last (t.visited u) = Tbl.get 0 x.last sl → t.visited u ≤ sl))))

section
variable (s : State) (u : Nat)

theorem setPhase_sets (ph : Nat) : Sets [statAt u] s (s.setPhase u ph) := .setStat (.refl _ s) ph

@[simp] theorem calSt_setPhase (ph : Nat) : (s.setPhase u ph).calSt u = s.calSt u := rfl

theorem visited_setPhase (ph : Nat) : (s.setPhase u ph).visited u = s.visited u := fld_setUnit_apart s u CAL.U_STAT.PHASE CAL.U_STAT.SLICE ph

theorem measure_sets (todo ph : Nat) : Sets [statAt u] s (s.measure u todo ph) := .setStat (.modCal (.refl _ s) _ _) ph

@[simp] theorem calSt_measure (todo ph : Nat) :
    (s.measure u todo ph).calSt u = { s.calSt u with todo := todo, passes := 0, failA := 0, failB := 0 } := by simp [State.measure]

theorem phase_measure {ph : Nat} (todo : Nat) (h : ph < 8) : (s.measure u todo ph).phase u = ph := phase_setPhase _ u h

theorem visited_measure (todo ph : Nat) : (s.measure u todo ph).visited u = s.visited u := (visited_setPhase ..).trans (fld_modCal ..)

theorem visit0_sets (c p : Nat) (b : Bool) : Sets [statAt u] s (s.visit0 u c p b) := .setStat (.setStat (.modCal (.refl _ s) _ _) c) p

@[simp] theorem calSt_visit0 (c p : Nat) (b : Bool) :
    (s.visit0 u c p b).calSt u = { s.calSt u with seq := ((s.calSt u).seq + 1) % 2 ^ 16, spareVisit := b } := by simp [State.visit0]

theorem visited_visit0 {c : Nat} (p : Nat) (b : Bool) (h : c < 32) : (s.visit0 u c p b).visited u = c :=
  (fld_setUnit_apart _ u CAL.U_STAT.POS CAL.U_STAT.SLICE p).trans ((fld_setUnit _ u CAL.U_STAT.SLICE c).trans (Nat.mod_eq_of_lt h))

/-- A spare marked for revisit is visited itself (R143). -/
def spareVisited : State := (s.visit0 u (s.spare u) 0 true).measure u (allPars u) 3

/-- A hand-over step begins with PHASE. -/
def handOverBegun : State := (s.visit0 u (s.candidate u) ((s.posOf u (s.candidate u)).getD 0) false).setPhase u 1

/-- A hand-over step asks for a quiet window where its lane needs one (R144). -/
def quietAsked (t : State) : State :=
  if u < 8 ∧ t.m400 ∧ t.bit pCAL CAL.CAL_CTRL.QUIET_EN then t.modCal u fun x => { x with quiet := 1 } else t

variable {s u} in
theorem startStep_eq (h : s.canStep u = true) : s.startStep u =
    if s.spare u = 31 then s
    else if (s.calSt u).revisit.testBit (s.spare u) then spareVisited s u
    else if (s.calSt u).suspect.testBit (s.spare u) then s
    else quietAsked u (handOverBegun s u) := if_pos h

theorem spareVisited_shows : let t := spareVisited s u
    Sets [statAt u] s t ∧ t.phase u = 3 ∧ t.visited u = s.spare u ∧ (t.calSt u).spareVisit = true ∧ (t.calSt u).todo = allPars u
      ∧ (t.calSt u).seq = ((s.calSt u).seq + 1) % 2 ^ 16 := by
  unfold spareVisited
  dsimp only
  rw [calSt_measure, calSt_visit0]
  exact ⟨.next (visit0_sets ..) (measure_sets ..), phase_measure _ u _ (by decide),
    (visited_measure ..).trans (visited_visit0 s u 0 true (spare_lt s u)), rfl, rfl, rfl⟩

theorem handOverBegun_shows : let t := handOverBegun s u
    Sets [statAt u] s t ∧ t.phase u = 1 ∧ (s.candidate u < 32 → t.visited u = s.candidate u) ∧ (t.calSt u).spareVisit = false
      ∧ (t.calSt u).seq = ((s.calSt u).seq + 1) % 2 ^ 16 := by
  unfold handOverBegun
  dsimp only
  rw [calSt_setPhase, calSt_visit0]
  exact ⟨.next (visit0_sets ..) (setPhase_sets ..), phase_setPhase _ u (by decide),
    fun h => (visited_setPhase ..).trans (visited_visit0 s u _ false h), rfl, rfl⟩

theorem quietAsked_shows (v : State) : let t := quietAsked u v
    Sets [] v t ∧ (t.calSt u).spareVisit = (v.calSt u).spareVisit ∧ (t.calSt u).seq = (v.calSt u).seq := by
  unfold quietAsked
  split
  · exact ⟨.modCal (.refl _ v) _ _, by simp, by simp⟩
  · exact ⟨.refl _ v, rfl, rfl⟩

variable {s u}

/-- A unit that may start a step starts the one that R122 names. -/
theorem startStep_starts (hu : u < 16) (h : s.canStep u = true) : stepStarted s u (s.startStep u) := by
  have hpage {t : State} (ht : Sets [statAt u] s t) : onlyPage s t pCAL ∧ t.inForce = s.inForce :=
    ⟨ht.page fun a ha => unitRegs_page hu a (List.mem_singleton.1 ha ▸ List.mem_cons_self), ht.inForce⟩
  have hnothing : nothing s s := onlyRegs_refl s []
  have hbits {b : Bool} (h0 : b = false) (h1 : b = true) : False := Bool.false_ne_true (h0.symm.trans h1)
  rw [startStep_eq h]
  by_cases h31 : s.spare u = 31
  · rw [if_pos h31]
    obtain ⟨hp, hi⟩ := hpage (.refl _ s)
    exact ⟨hp, hi, fun _ => ⟨rfl, hnothing⟩, fun hn => absurd h31 hn, fun hn => absurd h31 hn, fun hn => absurd h31 hn⟩
  rw [if_neg h31]
  by_cases hrev : (s.calSt u).revisit.testBit (s.spare u) = true
  · rw [if_pos hrev]
    obtain ⟨hsets, hshows⟩ := spareVisited_shows s u
    obtain ⟨hp, hi⟩ := hpage hsets
    exact ⟨hp, hi, fun h => absurd h h31, fun _ _ => hshows, fun _ h0 => (hbits h0 hrev).elim, fun _ h0 => (hbits h0 hrev).elim⟩
  rw [if_neg hrev]
  by_cases hsus : (s.calSt u).suspect.testBit (s.spare u) = true
  · rw [if_pos hsus]
    obtain ⟨hp, hi⟩ := hpage (.refl _ s)
    exact ⟨hp, hi, fun _ => ⟨rfl, hnothing⟩, fun _ h1 => absurd h1 hrev, fun _ _ _ => ⟨rfl, hnothing⟩, fun _ _ h0 => (hbits h0 hsus).elim⟩
  rw [if_neg hsus]
  obtain ⟨hsets, hphase, hvisited, hspare, hseq⟩ := handOverBegun_shows s u
  obtain ⟨hq, hqspare, hqseq⟩ := quietAsked_shows u (handOverBegun s u)
  have hkept {f : Fld} : (quietAsked u (handOverBegun s u)).fld pCAL f = (handOverBegun s u).fld pCAL f := hq.fld List.not_mem_nil
  obtain ⟨hp, hi⟩ := hpage (hsets.next hq)
  refine ⟨hp, hi, fun h => absurd h h31, fun _ h1 => absurd h1 hrev, fun _ _ h1 => absurd h1 hsus,
    fun _ _ _ => ⟨hkept.trans hphase, hqspare.trans hspare, hqseq.trans hseq, fun sl hlt hserves => ?_⟩⟩
  obtain ⟨⟨hclt, hcserves⟩, hlow, hold⟩ := candidate_shows s u hlt hserves
  rw [show (quietAsked u (handOverBegun s u)).visited u = s.candidate u from hkept.trans (hvisited (by omega))]
  exact ⟨hcserves, hlow, hold⟩

end

theorem calStepStart_starts {s : State} {u : Fin 16} (h : s.canStep u = true) : completes (.calStepStart u) s (stepStarted s u) :=
  ⟨_, rfl, startStep_starts u.isLt h⟩

theorem unitHere_of_canStep {s : State} {u : Nat} (h : s.canStep u = true) : s.unitHere u = true := by
  simp only [State.canStep, Bool.and_eq_true] at h
  exact h.1.1.1.1.1

theorem calStepNow_starts {s : State} {u : Fin 16} {r : Requester} (h : s.canStep u = true) (hr : reaches s r 11 0 (CAL.U_CMD + 4 * u.val) 0x1) :
    completes (.calStepNow r u) s (stepStarted s u) := by
  have he := effUCmd_stepNow (unitHere_of_canStep h)
  have hstart := startStep_starts u.isLt h
  generalize s.startStep u = w at he hstart
  exact completes_uCmd rfl hr he fun _ => hstart

/-! ## PHASE and SHADOW (R124, R127) -/

theorem calPhaseEnd_shows {s : State} {u : Fin 16} (hphase : s.phase u = 1) (hq : (s.calSt u).quiet = 0 ∨ (s.calSt u).quiet = 3) :
    completes (.calPhaseEnd u) s (fun t => t.phase u = 2 ∧ onlyRegs s t [statAt u]) :=
  ⟨_, if_pos ⟨hphase, hq⟩, phase_setPhase s u (by decide), (setPhase_sets ..).only⟩

/-- The differences of the shadow check lie within its limits. -/
theorem shadowOk_iff (off gain skew : Int) : shadowOk off gain skew = true ↔ off.natAbs ≤ 800 ∧ gain.natAbs ≤ 300 ∧ skew.natAbs ≤ 24000 := by
  simp [shadowOk, and_assoc]

theorem calSt_toRevisit (s : State) (u sl : Nat) : (s.toRevisit u sl).calSt u = { s.calSt u with revisit := (s.calSt u).revisit ||| 2 ^ sl } := by
  simp [State.toRevisit]

theorem testBit_marked (n sl : Nat) : (n ||| 2 ^ sl).testBit sl = true := by simp

/-- A count of a unit counts on, and stays at its largest value. -/
theorem fld_addUnit (s : State) (u : Nat) (f : Fld) (n : Nat) (hf : f.lo + f.width ≤ 32 := by decide) :
    (s.addSat pCAL (uf u f) n).fld pCAL (uf u f) = min (s.fld pCAL (uf u f) + n) (2 ^ f.width - 1) := fld_addSat s pCAL (uf u f) n hf

section
variable {s : State} {u : Fin 16} (hphase : s.phase u = 2) (hwait : (s.calSt u).wait = 0) {off gain skew : Int}
include hphase hwait

/-- A shadow check passed waits for the commit point. -/
theorem calShadowEnd_passes (h : off.natAbs ≤ 800 ∧ gain.natAbs ≤ 300 ∧ skew.natAbs ≤ 24000) :
    completes (.calShadowEnd u off gain skew) s (fun t => (t.calSt u).wait = 1 ∧ nothing s t) := by
  refine ⟨s.modCal u fun x => { x with wait := 1 }, ?_, by simp, ((Sets.refl [] s).modCal ..).only⟩
  exact (if_pos ⟨hphase, hwait⟩).trans (if_pos ((shadowOk_iff ..).2 h))

/-- A shadow check refused ends the step (R127). -/
theorem calShadowEnd_refuses (h : 800 < off.natAbs ∨ 300 < gain.natAbs ∨ 24000 < skew.natAbs) :
    completes (.calShadowEnd u off gain skew) s (fun t => raised t CAL.evSHADOW_REFUSED 0 ∧ t.phase u = 0
      ∧ (t.calSt u).revisit.testBit (s.spare u) = true ∧ onlyPage s t pCAL
      ∧ t.fld pCAL (uf u CAL.U_CNT.SHADOW_REF) = min (s.fld pCAL (uf u CAL.U_CNT.SHADOW_REF) + 1) 255) := by
  have hu := u.isLt
  let a := s.addSat pCAL (uf u CAL.U_CNT.SHADOW_REF) 1
  let m := a.toRevisit u (s.spare u)
  let v := m.raise CAL.evSHADOW_REFUSED 0
  have hv : Sets (unitRegs u) a v := .raise (setMarks_sets ..) _ _
  have hrefused : shadowOk off gain skew ≠ true := fun hok => by
    have := (shadowOk_iff ..).1 hok
    omega
  have ht : Sets (unitRegs u) a (v.endStep u) := hv.next (endStep_sets v u)
  refine ⟨v.endStep u, (if_pos ⟨hphase, hwait⟩).trans (if_neg hrefused), ?_, phase_endStep v hu, ?_, ?_, ?_⟩
  · exact raised_visiting (endStep_visiting hu v) rfl (raised_raiseBy m _ _ _ (by decide))
  · rw [calSt_endStep, calSt_raise, calSt_toRevisit]
    exact testBit_marked _ _
  · have hcount : Sets [pCAL + (uf u CAL.U_CNT.SHADOW_REF).off] s a := .addSat (.refl _ s) 1
    refine (Sets.next (l := (pCAL + (uf u CAL.U_CNT.SHADOW_REF).off) :: unitRegs u) hcount.mono ht).page ?_
    refine List.forall_mem_cons.2 ⟨?_, unitRegs_page hu⟩
    simp only [inPage, uf, fldAt]
    omega
  · exact (ht.fld (unitFld_notin (f := CAL.U_CNT.SHADOW_REF) (hu := hu))).trans (fld_addUnit s u CAL.U_CNT.SHADOW_REF 1)

end

/-! ## The reference check and the mean of two results (R129, R133) -/

theorem testBit_fourBits : ∀ a b c d : Bool,
    let m : Nat := (if a then 0 else 2 ^ 0) + (if b then 0 else 2 ^ 1) + (if c then 0 else 2 ^ 2) + (if d then 0 else 2 ^ 3)
    m.testBit 0 = !a ∧ m.testBit 1 = !b ∧ m.testBit 2 = !c ∧ m.testBit 3 = !d := by
  decide

/-- The codes met at rising steps do not fall. -/
theorem rises_iff (l : List Int) : ((l.zip (l.drop 1)).all fun e => decide (e.1 ≤ e.2)) = true ↔
    ∀ i, i + 1 < l.length → l.getD i 0 ≤ l.getD (i + 1) 0 := by
  simp only [List.all_eq_true, decide_eq_true_eq, List.mem_iff_getElem, List.length_zip, List.length_drop, List.getElem_zip, List.getElem_drop]
  constructor
  · intro h i hi
    have := h _ ⟨i, by omega, rfl⟩
    simpa [List.getD_eq_getElem?_getD, List.getElem?_eq_getElem, hi, Nat.lt_of_succ_lt hi, Nat.add_comm 1] using this
  · rintro h e ⟨i, hi, rfl⟩
    have hi' : i + 1 < l.length := by omega
    simpa [List.getD_eq_getElem?_getD, List.getElem?_eq_getElem, hi', Nat.lt_of_succ_lt hi', Nat.add_comm 1] using h i hi'

/-- The raw values that miss a limit of R133, parameter by parameter. -/
theorem refCheck_bits (u : Nat) (p : RawPass) : ((refCheck u p).testBit 0 = true ↔ 24000 < p.offset.natAbs ∨ 1500 < p.noise)
    ∧ ((refCheck u p).testBit 1 = true ↔ 15000 < p.gain.natAbs ∨ ∃ i, i + 1 < p.steps.length ∧ p.steps.getD (i + 1) 0 < p.steps.getD i 0)
    ∧ ((refCheck u p).testBit 2 = true ↔ 3000000 < p.skew.natAbs) ∧ ((refCheck u p).testBit 3 = true ↔ u < 8 ∧ 10000 < p.bw.natAbs) := by
  let rises := (p.steps.zip (p.steps.drop 1)).all fun e => decide (e.1 ≤ e.2)
  have hbw : (if u < 8 then (if decide (p.bw.natAbs ≤ 10000) then 0 else 2 ^ 3) else 0) =
      if decide (u < 8 → p.bw.natAbs ≤ 10000) then 0 else 2 ^ 3 := by
    by_cases hu : u < 8 <;> simp [hu]
  obtain ⟨h0, h1, h2, h3⟩ := testBit_fourBits (decide (p.offset.natAbs ≤ 24000) && decide (p.noise ≤ 1500))
    (decide (p.gain.natAbs ≤ 15000) && rises) (decide (p.skew.natAbs ≤ 3000000)) (decide (u < 8 → p.bw.natAbs ≤ 10000))
  rw [← hbw] at h0 h1 h2 h3
  have hrises := rises_iff p.steps
  have e0 : (refCheck u p).testBit 0 = _ := h0
  have e1 : (refCheck u p).testBit 1 = _ := h1
  have e2 : (refCheck u p).testBit 2 = _ := h2
  have e3 : (refCheck u p).testBit 3 = _ := h3
  rw [e0, e1, e2, e3]
  refine ⟨?_, ?_, ?_, ?_⟩
  · simp [Nat.lt_iff_add_one_le]
  · rw [Bool.not_eq_true', Bool.and_eq_false_iff, decide_eq_false_iff_not, ← Bool.not_eq_true rises, hrises]
    push Not
    rfl
  · simp
  · simp

theorem meanAway_near (a b : Int) : (2 * meanAway a b - (a + b)).natAbs ≤ 1 ∧ (a + b).natAbs ≤ (2 * meanAway a b).natAbs := by
  unfold meanAway
  dsimp only
  split <;> omega

/-! ## A result time-out (R131, R143) -/

/-- A visit whose results are not in is given up. -/
theorem abandon_judging {s : State} {u : Nat} (hphase : s.phase u = 4) (hcmd : (s.calSt u).retireCmd = []) : s.abandon u =
    if (s.calSt u).spareVisit then (s.toRevisit u (s.visited u)).endStep u
    else ((s.toRevisit u (s.visited u)).endStep u).modCal u fun x => { x with wait := 3 } := by
  have hnamed (t : State) (h : (t.calSt u).retireCmd = []) (c : Nat) : t.retireNamed u c = t := by
    unfold State.retireNamed
    rw [h]
    rfl
  unfold State.abandon
  rw [hphase]
  dsimp only
  rw [if_neg (by decide), if_neg (by decide), show ((4 : Nat) == 5) = false from rfl, when_false, calSt_toRevisit,
    hnamed _ (by rw [calSt_endStep, calSt_toRevisit]; exact hcmd), ite_self]

/-- RESULT_TIMEOUT abandons the visit (R131). -/
theorem calResultTimeout_shows {s : State} {u : Fin 16} (hphase : s.phase u = 4) (hpasses : (s.calSt u).passes = 2) (hwait : (s.calSt u).wait = 0)
    (hcmd : (s.calSt u).retireCmd = []) : completes (.calResultTimeout u) s (fun t => raised t CAL.evRESULT_TIMEOUT 0 ∧ t.phase u = 0
      ∧ (t.calSt u).wait = (if (s.calSt u).spareVisit then 0 else 3) ∧ onlyPage s t pCAL ∧ (t.calSt u).revisit.testBit (s.visited u) = true
      ∧ t.fld pCAL (uf u CAL.U_CNT.DISAGREE) = s.fld pCAL (uf u CAL.U_CNT.DISAGREE)) := by
  have hu := u.isLt
  let v := s.raise CAL.evRESULT_TIMEOUT 0
  let e := (v.toRevisit u (v.visited u)).endStep u
  have hv : Sets (unitRegs u) s v := .raise (.refl _ s) _ _
  have hstat {f : Fld} (hf : f.off = CAL.U_STAT) : v.fld pCAL (uf u f) = s.fld pCAL (uf u f) :=
    (Sets.raise (.refl [rawAt 11 0] s) CAL.evRESULT_TIMEOUT 0).fld (by
      rw [unitFld_stat hf, List.mem_singleton, rawAt_cal, statAt]
      simp only [CAL.U_STAT]
      omega)
  have hcal : v.calSt u = s.calSt u := calSt_raise ..
  have he : Sets (unitRegs u) s e := .next (.next hv (setMarks_sets ..)) (endStep_sets ..)
  have hraised : raised e CAL.evRESULT_TIMEOUT 0 :=
    raised_visiting ((toRevisit_visiting hu v _).next (endStep_visiting hu _)) rfl (raised_raiseBy s _ _ _ (by decide))
  have hx : e.calSt u = stepEnded { s.calSt u with revisit := (s.calSt u).revisit ||| 2 ^ s.visited u } := by
    rw [calSt_endStep, calSt_toRevisit, hcal, show v.visited u = s.visited u from hstat rfl]
  have hdis : e.fld pCAL (uf u CAL.U_CNT.DISAGREE) = s.fld pCAL (uf u CAL.U_CNT.DISAGREE) :=
    he.fld (unitFld_notin (f := CAL.U_CNT.DISAGREE) (hu := hu))
  have hphase' : e.phase u = 0 := phase_endStep _ hu
  have hpage := he.page (unitRegs_page hu)
  have hmarked : (e.calSt u).revisit.testBit (s.visited u) = true := by
    rw [hx]
    exact testBit_marked _ _
  have hjudging : v.phase u = 4 := (hstat (f := CAL.U_STAT.PHASE) rfl).trans hphase
  have hcmd' : (v.calSt u).retireCmd = [] := hcal ▸ hcmd
  have hexec : exec (.calResultTimeout u) s = .next (if (s.calSt u).spareVisit then e else e.modCal u fun x => { x with wait := 3 }) := by
    rw [show exec (.calResultTimeout u) s = .next (v.abandon u) from if_pos ⟨hphase, hpasses, hwait⟩,
      abandon_judging hjudging hcmd', hcal]
  have hwait' : (e.calSt u).wait = 0 := congrArg CalSt.wait hx
  clear_value e
  refine ⟨_, hexec, ?_⟩
  cases (s.calSt u).spareVisit
  · exact ⟨hraised, hphase', by simp, hpage, by simpa using hmarked, hdis⟩
  · exact ⟨hraised, hphase', hwait', hpage, hmarked, hdis⟩

end Sys2Proof.Proofs

namespace Sys2Proof.Proofs

open Sys2Proof Sys2Proof.Machine Sys2Proof.Safety Sys2Proof.Laws

-- One declaration after another, as the tests are: a thread for every proof would not fit the memory of the check.
set_option Elab.async false

/-! ## Whole code words written to memory (R359, R360)

What `writeWords` leaves beside the memory, and the bytes that stand there after it. -/

/-- `t` differs from `s` in the memory, what is kept of it, and the registers of the page MEM. -/
structure MemWrote (s t : State) : Prop where
  cores : t.cores = s.cores
  cal : t.cal = s.cal
  regs : regsSame s t (inPage pMEM)

namespace MemWrote
variable {s t v : State}

theorem refl (s : State) : MemWrote s s := ⟨rfl, rfl, fun _ _ => rfl⟩

theorem trans (h : MemWrote s t) (g : MemWrote t v) : MemWrote s v :=
  ⟨g.cores.trans h.cores, g.cal.trans h.cal, fun a ha => (g.regs a ha).trans (h.regs a ha)⟩

/-- A step that leaves the registers, the cores and the units. -/
theorem step (h : MemWrote s t) (cores : v.cores = t.cores := by rfl) (cal : v.cal = t.cal := by rfl) (regs : v.regs = t.regs := by rfl) :
    MemWrote s v := h.trans ⟨cores, cal, fun a _ => rd_congr regs a⟩

theorem setMs (h : MemWrote s t) (m) : MemWrote s { t with ms := m } := h.step

theorem putBytes (h : MemWrote s t) (a : Nat) (l : List Byte) : MemWrote s (t.putBytes a l) := by
  obtain ⟨m, he⟩ := putBytes_eq t a l
  rw [he]
  exact h.step

theorem unpoison (h : MemWrote s t) (p : Nat → Bool) : MemWrote s (t.unpoison p) := by
  unfold State.unpoison
  split
  · refine h.trans ⟨setFld_cores .., setFld_cal .., fun a ha => rd_setFld_ne _ _ _ _ _ ?_⟩
    rintro rfl
    exact ha ⟨by decide, by decide⟩
  · exact h

theorem bwCount (h : MemWrote s t) (inst : Nat) (w : Bool) : MemWrote s (t.bwCount inst w) := by
  unfold State.bwCount
  split
  · exact h
  · split <;> exact h.setMs _

theorem writeWord (h : MemWrote s t) (inst idx d : Nat) : MemWrote s (t.writeWord inst idx d) := by
  unfold State.writeWord
  exact .bwCount (.setMs (.unpoison (.setMs (.putBytes h _ _) _) _) _) _ _

theorem writeWords (h : MemWrote s t) (inst idx : Nat) (l : List Byte) : MemWrote s (t.writeWords inst idx l) :=
  List.foldlRecOn (motive := MemWrote s) _ _ h fun _ hv _ _ => hv.writeWord ..

/-- A field of another page. -/
theorem fld (h : MemWrote s t) {b : Nat} {f : Fld} (hf : ¬ inPage pMEM (b + f.off)) : t.fld b f = s.fld b f := fld_congr (h.regs _ hf)

end MemWrote

/-- A word of a cluster's shared SRAM stands in its place in the cluster's window. -/
theorem devAddr_sram (c idx : Nat) : devAddr (8 + 3 * c) idx = 0x20000000 + 0x1000000 * c + 8 * idx := by
  unfold devAddr
  rw [if_neg (by omega), if_neg (by omega)]
  simp

/-- The first `k` words of bytes written from a word of shared SRAM up. -/
def wordsWritten (s : State) (inst idx : Nat) (l : List Byte) (k : Nat) : State :=
  (List.range k).foldl (fun s i => s.writeWord inst (idx + i) (ofBytes ((l.drop (8 * i)).take 8))) s

theorem wordsWritten_succ (s : State) (inst idx : Nat) (l : List Byte) (k : Nat) : wordsWritten s inst idx l (k + 1) =
    (wordsWritten s inst idx l k).writeWord inst (idx + k) (ofBytes ((l.drop (8 * k)).take 8)) := by
  unfold wordsWritten
  rw [List.range_succ, List.foldl_append]
  rfl

section
variable (s : State) (c idx : Nat) (l : List Byte)

/-- The bytes of the words written, and no other. -/
theorem byte_wordsWritten {k : Nat} (hk : 8 * k ≤ l.length) (x : Nat) : let a := devAddr (8 + 3 * c) idx
    (wordsWritten s (8 + 3 * c) idx l k).byte x = if a ≤ x ∧ x < a + 8 * k then l[x - a]? else s.byte x := by
  intro a
  induction k with
  | zero =>
    rw [if_neg (by omega)]
    rfl
  | succ k ih =>
    have hword : wordLen (8 + 3 * c) = 8 := if_neg (by omega)
    have hat : devAddr (8 + 3 * c) (idx + k) = a + 8 * k := by
      simp only [a, devAddr_sram]
      omega
    have hlen : ((l.drop (8 * k)).take 8).length = 8 := by
      rw [List.length_take, List.length_drop]
      omega
    have hbytes := toBytes_ofBytes ((l.drop (8 * k)).take 8)
    rw [hlen] at hbytes
    rw [wordsWritten_succ, byte_writeWord, hword, hat, hbytes]
    by_cases hx : a + 8 * k ≤ x ∧ x < a + 8 * k + 8
    · obtain ⟨i, rfl⟩ := Nat.exists_eq_add_of_le hx.1
      rw [byte_putBytes _ _ _ _ (by omega), if_pos (by omega), List.getElem?_take, if_pos (by omega), List.getElem?_drop,
        show a + 8 * k + i - a = 8 * k + i by omega]
    · rw [byte_putBytes_out _ _ _ _ (by omega), ih (by omega)]
      by_cases hlow : a ≤ x ∧ x < a + 8 * k
      · rw [if_pos hlow, if_pos (by omega)]
      · rw [if_neg hlow, if_neg (by omega)]

/-- Whole words written to shared SRAM: their bytes stand there, and no other byte changes. -/
theorem byte_writeWords {n : Nat} (hn : l.length = 8 * n) (x : Nat) : let a := devAddr (8 + 3 * c) idx
    (s.writeWords (8 + 3 * c) idx l).byte x = if a ≤ x ∧ x < a + 8 * n then l[x - a]? else s.byte x := by
  have hword : wordLen (8 + 3 * c) = 8 := if_neg (by omega)
  have h : s.writeWords (8 + 3 * c) idx l = wordsWritten s (8 + 3 * c) idx l n := by
    unfold State.writeWords
    rw [hword, hn, Nat.mul_div_cancel_left n (by decide)]
    rfl
  rw [h]
  exact byte_wordsWritten s c idx l hn.ge x

end

/-! ### The words of a record -/

/-- The bytes of 32-bit words in a row. -/
abbrev wordBytes (ws : List Nat) : List Byte := ws.flatMap (toBytes 4)

theorem wordBytes_length (ws : List Nat) : (wordBytes ws).length = 4 * ws.length := by
  induction ws with
  | nil => rfl
  | cons w ws ih =>
    rw [wordBytes, List.flatMap_cons, List.length_append, toBytes_length, ih, List.length_cons]
    omega

theorem getElem?_wordBytes {ws : List Nat} {j w : Nat} (h : ws[j]? = some w) {i : Nat} (hi : i < 4) :
    (wordBytes ws)[4 * j + i]? = (toBytes 4 w)[i]? := by
  induction ws generalizing j with
  | nil => simp at h
  | cons v ws ih =>
    rw [wordBytes, List.flatMap_cons]
    cases j with
    | zero =>
      rw [List.getElem?_cons_zero] at h
      rw [Option.some.inj h, Nat.mul_zero, Nat.zero_add, List.getElem?_append_left (by rwa [toBytes_length])]
    | succ j =>
      rw [List.getElem?_append_right (by rw [toBytes_length]; omega), toBytes_length, show 4 * (j + 1) + i - 4 = 4 * j + i by omega]
      exact ih h

/-- A word of those whose bytes stand in memory. -/
theorem number_wordBytes {s : State} {a : Nat} {ws : List Nat} (hbytes : ∀ i, i < 4 * ws.length → s.byte (a + i) = (wordBytes ws)[i]?)
    {j w : Nat} (hw : ws[j]? = some w) : s.number (a + 4 * j) 4 = some (w % 2 ^ 32) := by
  have hj := (List.getElem?_eq_some_iff.1 hw).1
  have h := number_of_bytes s (a + 4 * j) (toBytes 4 w) fun i hi => by
    rw [toBytes_length] at hi
    rw [Nat.add_assoc, hbytes _ (by omega), getElem?_wordBytes hw hi]
  rwa [toBytes_length, ofBytes_toBytes] at h

/-! ## Measurement records (R129, R132) -/

/-- The sixteen words of a measurement record. -/
def recordWords (x : CalSt) (sl : Nat) (words : List Word) (temp : BitVec 16) (ok : Bool) : List Nat :=
  [x.seq * 2 ^ 16 + x.passes * 2 ^ 12 + x.todo * 2 ^ 8 + sl] ++ (List.range 6).map (fun i => (words.getD i 0).toNat)
    ++ [temp.toNat + (if ok then 2 ^ 16 else 0)] ++ List.replicate 8 0

section
variable (x : CalSt) (sl : Nat) (words : List Word) (temp : BitVec 16) (ok : Bool)

theorem recordBytes_eq : recordBytes x sl words temp ok = wordBytes (recordWords x sl words temp ok) := by
  unfold recordWords wordBytes
  rw [List.flatMap_append (ys := List.replicate 8 0)]
  rfl

theorem recordWords_length : (recordWords x sl words temp ok).length = 16 := by simp [recordWords]

theorem recordBytes_length : (recordBytes x sl words temp ok).length = 8 * 8 := by
  rw [recordBytes_eq, wordBytes_length, recordWords_length]

/-- Word 0 names the visit, the pass and the slice, words 1 to 6 hold the results, word 7 the temperature and the check, the rest nothing. -/
theorem recordWords_at : let ws := recordWords x sl words temp ok
    ws[0]? = some (x.seq * 2 ^ 16 + x.passes * 2 ^ 12 + x.todo * 2 ^ 8 + sl)
      ∧ (∀ i, i < 6 → ws[i + 1]? = some (words.getD i 0).toNat)
      ∧ ws[7]? = some (temp.toNat + if ok then 2 ^ 16 else 0) ∧ ∀ i, i < 8 → ws[i + 8]? = some 0 := by
  refine ⟨rfl, fun i hi => ?_, rfl, fun i hi => ?_⟩
  · interval_cases i <;> rfl
  · interval_cases i <;> rfl

end

/-- What a pass that ends leaves of the unit: the pass counts on, and the parameters that missed a limit are noted. -/
def passNoted (x : CalSt) (f : Nat) : CalSt :=
  if x.passes = 0 then { x with passes := 1, failA := f } else { x with passes := 2, failB := f, dead := x.dead || (x.failA != 0 && f != 0) }

/-- The record of a pass stands in the shared SRAM of the lane's cluster. -/
def passRecorded (s : State) (u idx : Nat) (words : List Word) (temp : BitVec 16) (ok : Bool) : State :=
  s.writeWords (8 + 3 * (u % 8)) idx (recordBytes (s.calSt u) (s.visited u) words temp ok)

theorem passRecorded_wrote (s : State) (u idx : Nat) (words : List Word) (temp : BitVec 16) (ok : Bool) :
    MemWrote s (passRecorded s u idx words temp ok) := .writeWords (.refl s) ..

/-- The record's words, and no other byte touched (R132). -/
theorem passRecorded_shows (s : State) (u idx : Nat) (words : List Word) (temp : BitVec 16) (ok : Bool) :
    let t := passRecorded s u idx words temp ok
    let x := s.calSt u
    let a := devAddr (8 + 3 * (u % 8)) idx
    t.number a 4 = some ((x.seq * 2 ^ 16 + x.passes * 2 ^ 12 + x.todo * 2 ^ 8 + s.visited u) % 2 ^ 32)
      ∧ (∀ i, i < 6 → t.number (a + 4 + 4 * i) 4 = some (words.getD i 0).toNat)
      ∧ t.number (a + 28) 4 = some (temp.toNat + if ok then 2 ^ 16 else 0)
      ∧ (∀ i, i < 8 → t.number (a + 32 + 4 * i) 4 = some 0) ∧ memSameBut s t a 64 := by
  intro t x a
  have hbyte (y : Nat) : t.byte y = if a ≤ y ∧ y < a + 8 * 8 then (recordBytes x (s.visited u) words temp ok)[y - a]? else s.byte y :=
    byte_writeWords s (u % 8) idx _ (recordBytes_length ..) y
  have hword {j w : Nat} (hw : (recordWords x (s.visited u) words temp ok)[j]? = some w) : t.number (a + 4 * j) 4 = some (w % 2 ^ 32) := by
    refine number_wordBytes (fun i hi => ?_) hw
    rw [recordWords_length] at hi
    rw [hbyte, if_pos (by omega), Nat.add_sub_cancel_left, recordBytes_eq]
  obtain ⟨h0, hresults, htemp, hrest⟩ := recordWords_at x (s.visited u) words temp ok
  refine ⟨hword h0, fun i hi => ?_, ?_, fun i hi => ?_, fun y hy => ?_⟩
  · rw [show a + 4 + 4 * i = a + 4 * (i + 1) by omega, hword (hresults i hi), Nat.mod_eq_of_lt (words.getD i 0).isLt]
  · have hlt : temp.toNat + (if ok then 2 ^ 16 else 0) < 2 ^ 32 := by
      have := temp.isLt
      split <;> omega
    rw [show a + 28 = a + 4 * 7 by omega, hword htemp, Nat.mod_eq_of_lt hlt]
  · rw [show a + 32 + 4 * i = a + 4 * (i + 8) by omega, hword (hrest i hi)]
    rfl
  · rw [hbyte, if_neg (by omega)]

/-- The pass counts on, and what the check of R133 found is noted for it. -/
theorem passNoted_shows (x : CalSt) (f : Nat) (h : x.passes < 2) : (passNoted x f).passes = x.passes + 1
    ∧ (x.passes = 0 → (passNoted x f).failA = f) ∧ (x.passes = 1 → (passNoted x f).failB = f) := by
  unfold passNoted
  obtain h0 | h1 : x.passes = 0 ∨ x.passes = 1 := by omega
  · rw [if_pos h0, h0]
    exact ⟨rfl, fun _ => rfl, fun h => absurd h (by decide)⟩
  · rw [if_neg (by omega), h1]
    exact ⟨rfl, fun h => absurd h (by decide), fun _ => rfl⟩

/-- A pass that ends is noted; pass B leaves the unit in PHASE 4 (R129, R131). -/
def passEnded (v : State) (u p f : Nat) : State := (v.modCal u fun x => passNoted x f).when (p == 1) fun s => s.setPhase u 4

theorem passEnded_shows (v : State) (u p f : Nat) : let t := passEnded v u p f
    Sets [statAt u] v t ∧ t.calSt u = passNoted (v.calSt u) f ∧ (p = 1 → t.phase u = 4) ∧ (p = 0 → t.phase u = v.phase u) := by
  refine ⟨.when (.modCal (.refl _ v) _ _) _ fun _ => setPhase_sets .., ?_, ?_, ?_⟩
  · exact when_ind (P := fun t => t.calSt u = _) _ _ _ (calSt_modCal_self ..) fun h => h
  · rintro rfl
    exact phase_setPhase _ u (by decide)
  · rintro rfl
    rfl

/-- A pass that ends stores its record and is judged (R129, R131 to R133). -/
theorem calPassDone_shows {s : State} {u : Fin 16} (words : List Word) (temp : BitVec 16) (raw : RawPass) (hphase : s.phase u = 3 ∨ s.phase u = 4)
    (hwait : (s.calSt u).wait = 0) (hpasses : (s.calSt u).passes < 2) : let x := s.calSt u
    let a := devAddr (8 + 3 * (u.val % 8)) ((s.fld pCAL (uf u CAL.U_REC.OFS) * 8 + 8 * x.passes) % 32768)
    completes (.calPassDone u words temp raw) s (fun t => (t.calSt u).passes = x.passes + 1
      ∧ (x.passes = 0 → (t.calSt u).failA = refCheck u raw &&& x.todo) ∧ (x.passes = 1 → (t.calSt u).failB = refCheck u raw &&& x.todo)
      ∧ (x.passes = 1 → t.phase u = 4) ∧ (x.passes = 0 → t.phase u = s.phase u)
      ∧ t.number a 4 = some ((x.seq * 2 ^ 16 + x.passes * 2 ^ 12 + x.todo * 2 ^ 8 + s.visited u) % 2 ^ 32)
      ∧ (∀ i, i < 6 → t.number (a + 4 + 4 * i) 4 = some (words.getD i 0).toNat)
      ∧ t.number (a + 28) 4 = some (temp.toNat + if refCheck u raw &&& x.todo = 0 then 2 ^ 16 else 0)
      ∧ (∀ i, i < 8 → t.number (a + 32 + 4 * i) 4 = some 0)
      ∧ memSameBut s t a 64 ∧ coresSame s t ∧ regsSame s t (fun b => b = statAt u ∨ inPage pMEM b)) := by
  intro x a
  let f := refCheck u raw &&& x.todo
  let v := passRecorded s u ((s.fld pCAL (uf u CAL.U_REC.OFS) * 8 + 8 * x.passes) % 32768) words temp (f == 0)
  have hexec : exec (.calPassDone u words temp raw) s = .next (passEnded v u x.passes f) := if_pos ⟨hphase, hwait, hpasses⟩
  have hv : MemWrote s v := passRecorded_wrote ..
  obtain ⟨h0, hresults, htemp, hrest, hmem⟩ := passRecorded_shows s u ((s.fld pCAL (uf u CAL.U_REC.OFS) * 8 + 8 * x.passes) % 32768) words temp (f == 0)
  simp only [beq_iff_eq] at htemp
  have hkept : v.phase u = s.phase u := hv.fld (by
    rw [unitFld_stat rfl]
    simp only [inPage, statAt, CAL.U_STAT, pCAL, pMEM]
    omega)
  obtain ⟨hsets, hcal, hB, hA⟩ := passEnded_shows v u x.passes f
  rw [calSt_congr hv.cal] at hcal
  rw [hkept] at hA
  obtain ⟨hcount, hfailA, hfailB⟩ := passNoted_shows x f hpasses
  have hnum (b : Nat) : (passEnded v u x.passes f).number b 4 = v.number b 4 := number_congr b 4 fun y _ _ => hsets.mem y
  refine ⟨_, hexec, by rw [hcal]; exact hcount, by rw [hcal]; exact hfailA, by rw [hcal]; exact hfailB, hB, hA, (hnum _).trans h0,
    fun i hi => (hnum _).trans (hresults i hi), (hnum _).trans htemp, fun i hi => (hnum _).trans (hrest i hi),
    fun y hy => (hsets.mem y).trans (hmem y hy), fun k => (hsets.only.2.1 k).trans (core_congr hv.cores k), fun b hb => ?_⟩
  exact (hsets.rd (by simpa using fun h => hb (.inl h))).trans (hv.regs b fun h => hb (.inr h))

end Sys2Proof.Proofs

namespace Sys2Proof.Proofs

open Sys2Proof Sys2Proof.Machine Sys2Proof.Safety Sys2Proof.Laws

-- One declaration after another, as the tests are: a thread for every proof would not fit the memory of the check.
set_option Elab.async false

/-! ## Masks and tables of parameters -/

/-- The bits of a list of positions. -/
def maskOf (l : List Nat) : Nat := l.foldl (fun m i => m + 2 ^ i) 0

/-- Bits added in increasing order do not carry. -/
theorem testBit_foldl_add (l : List Nat) (m j : Nat) (hlow : ∀ i ∈ l, m < 2 ^ i) (hsort : l.Pairwise (· < ·)) :
    (l.foldl (fun m i => m + 2 ^ i) m).testBit j = true ↔ m.testBit j = true ∨ j ∈ l := by
  induction l generalizing m with
  | nil => simp
  | cons i l ih =>
    obtain ⟨hi, hsort⟩ := List.pairwise_cons.1 hsort
    obtain ⟨hm, -⟩ := List.forall_mem_cons.1 hlow
    have hor : m + 2 ^ i = m ||| 2 ^ i := by
      have := Nat.two_pow_add_eq_or_of_lt hm 1
      rw [Nat.mul_one] at this
      rw [Nat.add_comm, this, Nat.or_comm]
    have hnext (k : Nat) (hk : k ∈ l) : m + 2 ^ i < 2 ^ k := by
      have h2 : 2 ^ (i + 1) ≤ 2 ^ k := Nat.pow_le_pow_right (by decide) (hi k hk)
      rw [pow_succ] at h2
      omega
    rw [List.foldl_cons, ih _ hnext hsort, hor, testBit_or_two_pow, List.mem_cons, Bool.or_eq_true, decide_eq_true_iff, or_assoc, eq_comm (a := i)]

theorem testBit_maskOf {l : List Nat} (hsort : l.Pairwise (· < ·)) (j : Nat) : (maskOf l).testBit j = true ↔ j ∈ l := by
  rw [maskOf, testBit_foldl_add l 0 j (fun i _ => Nat.two_pow_pos i) hsort, Nat.zero_testBit]
  simp

theorem maskOf_ne_zero {l : List Nat} (hsort : l.Pairwise (· < ·)) : maskOf l ≠ 0 ↔ ∃ j, j ∈ l := by
  constructor
  · intro h
    obtain ⟨j, hj⟩ := Nat.exists_testBit_of_ne_zero h
    exact ⟨j, (testBit_maskOf hsort j).1 hj⟩
  · rintro ⟨j, hj⟩ h0
    have := (testBit_maskOf hsort j).2 hj
    simp [h0] at this

theorem mem_insert_iff {α : Type} (t : Tbl α) (a : Nat) (x : α) (e : Nat × α) : e ∈ Tbl.insert t a x ↔ e = (a, x) ∨ (e.1 ≠ a ∧ e ∈ t) := by
  simp only [Tbl.insert, List.mem_append, List.mem_cons, List.mem_filter, decide_eq_true_eq]
  constructor
  · rintro (⟨h, hlt⟩ | h | ⟨h, hlt⟩)
    · exact .inr ⟨by omega, h⟩
    · exact .inl h
    · exact .inr ⟨by omega, h⟩
  · rintro (h | ⟨hne, h⟩)
    · exact .inr (.inl h)
    · rcases Nat.lt_or_gt_of_ne hne with hlt | hlt
      · exact .inl ⟨h, hlt⟩
      · exact .inr (.inr ⟨h, hlt⟩)

/-- A table filled from a function lists its values at the keys given. -/
theorem mem_insert_foldl {α : Type} (f : Nat → α) (l : List Nat) (t : Tbl α) (e : Nat × α) :
    e ∈ l.foldl (fun t a => Tbl.insert t a (f a)) t ↔ (e.1 ∈ l ∧ e.2 = f e.1) ∨ (e.1 ∉ l ∧ e ∈ t) := by
  induction l generalizing t with
  | nil => simp
  | cons a l ih =>
    rw [List.foldl_cons, ih, mem_insert_iff, List.mem_cons]
    by_cases ha : e.1 = a
    · obtain ⟨b, x⟩ := e
      obtain rfl : b = a := ha
      by_cases hl : b ∈ l
      · simp [hl]
      · simp [hl]
    · simp [ha, Prod.ext_iff]

/-! ## The corrections of a slice (R83, R119) -/

/-- Where the correction of a parameter stands in MC[s]. -/
abbrev corrFld (i : Nat) : Fld := ⟨(parRow i).word, (parRow i).lo, (parRow i).width⟩

theorem corrFld_fits (i : Nat) : (corrFld i).lo + (corrFld i).width ≤ 32 := by
  unfold corrFld parRow
  split <;> decide

theorem parRow_word (i : Nat) : (parRow i).word = 0 ∨ (parRow i).word = 4 := by
  unfold parRow
  split <;> simp

/-- The corrections of two parameters stand apart. -/
theorem corrFld_apart : ∀ i : Fin 4, ∀ j : Fin 4, i ≠ j → (corrFld j).off ≠ (corrFld i).off
    ∨ (corrFld j).lo + (corrFld j).width ≤ (corrFld i).lo ∨ (corrFld i).lo + (corrFld i).width ≤ (corrFld j).lo := by decide

/-- Corrections written to the words of a slice. -/
def corrected (s : State) (a : Nat) (acc : Tbl Nat) : State := acc.foldl (fun s e => s.setFld a (corrFld e.1) e.2) s

theorem fld_setCorr (s : State) (a i v j : Nat) (hi : i < 4) (hj : j < 4) :
    (s.setFld a (corrFld i) v).fld a (corrFld j) = if i = j then v % 2 ^ (parRow i).width else s.fld a (corrFld j) := by
  split
  next h =>
    subst h
    exact fld_setFld s a (corrFld i) v (corrFld_fits i)
  next h =>
    refine fld_setFld_ne _ _ _ _ _ _ ?_
    rcases corrFld_apart ⟨i, hi⟩ ⟨j, hj⟩ (by simpa using h) with hoff | hbits
    · exact .inl fun he => hoff (Nat.add_left_cancel he)
    · exact .inr hbits

/-- A correction written reads as its value, another as before. -/
theorem fld_corrected (s : State) (a : Nat) (acc : Tbl Nat) (f : Nat → Nat) (hacc : ∀ e ∈ acc, e.1 < 4 ∧ e.2 = f e.1) (j : Nat) (hj : j < 4) :
    ((∃ e ∈ acc, e.1 = j) → (corrected s a acc).fld a (corrFld j) = f j % 2 ^ (parRow j).width)
      ∧ ((∀ e ∈ acc, e.1 ≠ j) → (corrected s a acc).fld a (corrFld j) = s.fld a (corrFld j)) := by
  induction acc generalizing s with
  | nil => simp [corrected]
  | cons e acc ih =>
    obtain ⟨⟨hlt, hval⟩, hacc⟩ := List.forall_mem_cons.1 hacc
    obtain ⟨hsome, hnone⟩ := ih (s.setFld a (corrFld e.1) e.2) hacc
    have hstep := fld_setCorr s a e.1 e.2 j hlt hj
    have hcons : corrected s a (e :: acc) = corrected (s.setFld a (corrFld e.1) e.2) a acc := rfl
    rw [hcons]
    refine ⟨fun h => ?_, fun h => ?_⟩
    · by_cases hlater : ∃ e ∈ acc, e.1 = j
      · exact hsome hlater
      · have he : e.1 = j := by
          obtain ⟨e', he', hj'⟩ := h
          rcases List.mem_cons.1 he' with rfl | h'
          · exact hj'
          · exact absurd ⟨e', h', hj'⟩ hlater
        rw [hnone fun e' h' hj' => hlater ⟨e', h', hj'⟩, hstep, if_pos he, hval, he]
    · obtain ⟨he, hrest⟩ := List.forall_mem_cons.1 h
      rw [hnone hrest, hstep, if_neg he]

/-- The words of MC[C] of a unit's slice under visit. -/
def mcAt (s : State) (u : Nat) : Nat := unitPage u + (if u < 8 then LRX.MC_A else LTX.MC_A) + 8 * s.visited u

/-- The page of a unit's lane direction. -/
theorem unitPage_eq {u : Nat} (hu : u < 16) : unitPage u = 0x10010000 + 0x1000 * u := by
  unfold unitPage pLRX pLTX
  split <;> omega

theorem mcAt_eq (s : State) {u : Nat} (hu : u < 16) : mcAt s u = 0x10010100 + 0x1000 * u + 8 * s.visited u := by
  unfold mcAt
  rw [unitPage_eq hu, show (if u < 8 then LRX.MC_A else LTX.MC_A) = 0x100 by split <;> rfl]
  omega

/-! ## RETURN (R124) -/

/-- The corrections stand in the shadow, and the unit waits for their commit point. -/
def returnReady (s : State) (u : Nat) : State :=
  ((corrected s (mcAt s u) (s.calSt u).acc).setPhase u 5).modCal u fun x => { x with wait := 2 }

/-- The groups of MC_A in a lane direction. -/
abbrev mcGroup (u : Nat) : Nat := if u < 8 then 2 else 4

theorem returnStep_eq (s : State) (u : Nat) : s.returnStep u = (returnReady s u).commitRequest (unitPage u) (mcGroup u) none 2 := rfl

/-- The registers that RETURN writes. -/
abbrev returnRegs (s : State) (u : Nat) : List Nat := [mcAt s u, mcAt s u + 4, statAt u]

theorem corrected_sets (s : State) (a : Nat) (acc : Tbl Nat) : Sets [a, a + 4] s (corrected s a acc) :=
  .foldl (.refl _ s) _ fun v e _ => .setFld (.refl _ v) e.2 (by rcases parRow_word e.1 with h | h <;> simp [h])

section
variable {s : State} {u : Nat} (hu : u < 16)

theorem returnReady_sets (s : State) (u : Nat) : Sets (returnRegs s u) s (returnReady s u) :=
  .modCal (.setStat (.next (.refl _ s) (corrected_sets ..)) 5) _ _

theorem brownOut_sets {l : List Nat} {t : State} (h : Sets l s t) (hl : pPWR + PWR.BO_STAT ∉ l) : t.brownOut = s.brownOut := by
  unfold State.brownOut
  rw [h.fld hl]

include hu

/-- The corrections of a unit stand below the page CAL. -/
theorem corr_low (i : Nat) : mcAt s u + (parRow i).word < pCAL := by
  have hword := parRow_word i
  have hvisited : s.visited u < 32 := getBits_lt _ _ 5
  rw [mcAt_eq s hu, pCAL]
  omega

theorem returnReady_shows (hvis : s.visited u < 17) : let t := returnReady s u
    t.phase u = 5 ∧ (t.calSt u).wait = 2 ∧ t.brownOut = s.brownOut
      ∧ ∀ i, t.fld (mcAt s u) (corrFld i) = (corrected s (mcAt s u) (s.calSt u).acc).fld (mcAt s u) (corrFld i) := by
  have hmc := mcAt_eq s hu
  refine ⟨phase_setPhase _ u (by decide), by simp [returnReady], brownOut_sets (returnReady_sets s u) ?_, fun i => ?_⟩
  · simp only [returnRegs, List.mem_cons, List.not_mem_nil, or_false, hmc, statAt, pPWR, pCAL, CAL.U_STAT, PWR.BO_STAT]
    omega
  · refine (setPhase_sets (corrected s (mcAt s u) (s.calSt u).acc) u 5).fld ?_
    have := corr_low (s := s) hu i
    simp only [List.mem_singleton, statAt]
    omega

/-- The page of a unit is that of a lane direction. -/
theorem laneDir_unit : ∃ stat e i, laneDir (unitPage u) stat e i ∧ stat < 0x100 := by
  rcases unitPage_cases hu with ⟨h, hp⟩ | ⟨h, hp, -⟩ <;> rw [hp]
  · exact ⟨_, _, _, laneDir_lrx ⟨u, h⟩, by decide⟩
  · exact ⟨_, _, _, laneDir_ltx ⟨u - 8, h⟩, by decide⟩

/-- The unit's own request for groups of its lane direction (R33, R59). -/
theorem unitRequest_accepts (s : State) {mask : Nat} (hm : mask ≠ 0) (hb : s.brownOut = false) :
    let t := s.commitRequest (unitPage u) mask none 2
    accepted s t (unitPage u) mask 2 ∧ (∀ a, t.inf a = s.inf a) ∧ memSame s t ∧ t.cal = s.cal
      ∧ ∀ a, unitPage u + 0x100 ≤ a → a < pPERF 0 → t.rd a = s.rd a := by
  obtain ⟨stat, e, i, hd, hstat⟩ := laneDir_unit hu
  intro t
  have ht : t = requested s (unitPage u) mask none 2 := by
    show s.commitRequest _ _ _ _ = _
    rw [commitRequest_eq _ _ hm, requested_brownOut hd, hb, if_neg (by simp)]
  have hf := requested_touches s (unitPage u) mask none 2
  rw [ht]
  refine ⟨⟨_, requested_commits .., rfl, rfl, rfl, fun g a hg hbit ha => ?_⟩, hf.inf (by simp), hf.bytes (by simp), hf.same .cal (by simp),
    fun a hlo hhi => hf.rd fun j _ => ?_⟩
  · rw [requested_shadow hd s mask none 2 ha]
    exact find_shadowVals s hg hbit ha
  · rw [hd.stat_eq]
    simp only [pPERF] at hhi
    simp only [List.forall_mem_cons, bitsAt, asks, not_false_eq_true, List.not_mem_nil, false_implies, implies_true, and_true, inPage, pPERF, not_exists]
    exact ⟨by omega, fun c => by omega⟩

/-- RETURN: the accepted corrections stand in the shadow, and their group is requested. -/
theorem returnStep_shows (hvis : s.visited u < 17) (hbo : s.brownOut = false) : let t := s.returnStep u
    t.phase u = 5 ∧ (t.calSt u).wait = 2 ∧ accepted s t (unitPage u) (mcGroup u) 2 ∧ (∀ a, t.inf a = s.inf a) ∧ memSame s t
      ∧ (∀ i, t.fld (mcAt s u) (corrFld i) = (corrected s (mcAt s u) (s.calSt u).acc).fld (mcAt s u) (corrFld i))
      ∧ ∀ off, off < 0x1000 → pCAL + off ≠ statAt u → t.rd (pCAL + off) = s.rd (pCAL + off) := by
  intro t
  have hmc := mcAt_eq s hu
  have hpage := unitPage_eq hu
  have hsets := returnReady_sets s u
  obtain ⟨hphase, hwait, hbrown, hcorr⟩ := returnReady_shows hu hvis
  obtain ⟨⟨q, hq, hqpage, hqmask, hqsrc, hqvals⟩, hinf, hmem, hcal, hrd⟩ := unitRequest_accepts hu (returnReady s u) (mask := mcGroup u)
    (by unfold mcGroup; split <;> decide) (hbrown.trans hbo)
  rw [← returnStep_eq] at hq hqvals hinf hmem hcal hrd
  have hlow (off : Nat) (h : off < 0x1000) : t.rd (pCAL + off) = (returnReady s u).rd (pCAL + off) :=
    hrd _ (by rw [hpage]; simp only [pCAL]; omega) (by simp only [pCAL, pPERF]; omega)
  refine ⟨?_, ?_, ⟨q, by rw [hq, hsets.commits], hqpage, hqmask, hqsrc, hqvals⟩, fun a => (hinf a).trans (hsets.inf a),
    fun a => (hmem a).trans (hsets.mem a), fun i => (fld_congr (hrd _ ?_ ?_)).trans (hcorr i), fun off ho hne => (hlow off ho).trans (hsets.rd ?_)⟩
  · refine (fld_congr (hlow _ ?_)).trans hphase
    simp only [uf, fldAt]
    omega
  · rw [calSt_congr hcal]
    exact hwait
  · rw [hmc, hpage]
    omega
  · have := parRow_word i
    rw [hmc]
    simp only [pPERF]
    omega
  · simp only [returnRegs, List.mem_cons, List.not_mem_nil, or_false, hmc]
    simp only [pCAL, statAt] at hne ⊢
    omega

end

end Sys2Proof.Proofs

namespace Sys2Proof.Proofs

open Sys2Proof Sys2Proof.Machine Sys2Proof.Safety Sys2Proof.Laws

-- One declaration after another, as the tests are: a thread for every proof would not fit the memory of the check.
set_option Elab.async false

/-! ## The pass pair of a SUBMIT (R129 to R131) -/

section
variable (s : State) (u : Nat)

/-- Results A and B of a parameter agree within its tolerance. -/
abbrev agrees (i : Nat) : Bool := agree i (s.results u i)

/-- The parameters measured whose results agree, and those whose do not. -/
def agreeing : List Nat := ((List.range 4).filter (s.calSt u).todo.testBit).filter fun i => agrees s u i

def differing : List Nat := ((List.range 4).filter (s.calSt u).todo.testBit).filter fun i => !agrees s u i

/-- The correction that a pass pair gives a parameter. -/
def meanCode (i : Nat) : Nat := unsx (parRow i).width (meanAway (s.results u i).1 (s.results u i).2)

/-- The corrections of the parameters that agree. -/
def means : Tbl Nat := (agreeing s u).foldl (fun t i => Tbl.insert t i (meanCode s u i)) []

theorem mem_agreeing {i : Nat} : i ∈ agreeing s u ↔ i < 4 ∧ (s.calSt u).todo.testBit i = true ∧ agrees s u i = true := by
  rw [agreeing, List.mem_filter, List.mem_filter, List.mem_range, and_assoc]

theorem mem_differing {i : Nat} : i ∈ differing s u ↔ i < 4 ∧ (s.calSt u).todo.testBit i = true ∧ agrees s u i = false := by
  rw [differing, List.mem_filter, List.mem_filter, List.mem_range, and_assoc, Bool.not_eq_true']

theorem differing_sorted : (differing s u).Pairwise (· < ·) := (List.pairwise_lt_range.filter _).filter _

theorem mem_means (e : Nat × Nat) : e ∈ means s u ↔ e.1 ∈ agreeing s u ∧ e.2 = meanCode s u e.1 := by
  rw [means, mem_insert_foldl]
  simp

/-- The corrections written are the means of the parameters that agree: the others stay. -/
theorem corrected_means (v : State) (a : Nat) {i : Nat} (hi : i < 4) : (corrected v a (means s u)).fld a (corrFld i) =
    if i ∈ agreeing s u then meanCode s u i else v.fld a (corrFld i) := by
  obtain ⟨hsome, hnone⟩ := fld_corrected v a (means s u) (meanCode s u)
    (fun e he => ⟨((mem_agreeing s u).1 ((mem_means s u e).1 he).1).1, ((mem_means s u e).1 he).2⟩) i hi
  split
  next h => rw [hsome ⟨(i, meanCode s u i), (mem_means ..).2 ⟨h, rfl⟩, rfl⟩, meanCode, Nat.mod_eq_of_lt (unsx_lt ..)]
  next h => exact hnone fun e he hei => h (hei ▸ ((mem_means s u e).1 he).1)

/-- The pair has been judged: what agrees is accepted. -/
def pairJudged : State := s.modCal u fun x => { x with acc := means s u, bad := 0 }

/-- The first pass pair of a visit, complete, that met every limit of the reference check. -/
structure firstPair : Prop where
  phase : s.phase u = 4
  passes : (s.calSt u).passes = 2
  wait : (s.calSt u).wait = 0
  failA : (s.calSt u).failA = 0
  failB : (s.calSt u).failB = 0
  bad : (s.calSt u).bad = 0
  acc : (s.calSt u).acc = []

variable {s u}

theorem submitCal_eq (h : firstPair s u) : s.submitCal u =
    if maskOf (differing s u) ≠ 0 ∧ s.fld pCAL (uf u CAL.U_STAT.RETRY) < s.fld pCAL CAL.RETRY_CFG.RETRIES then
      ((pairJudged s u).addWrap pCAL (uf u CAL.U_STAT.RETRY) 1).measure u (maskOf (differing s u)) 4
    else (pairJudged s u).judged u (maskOf (differing s u)) := by
  obtain ⟨hphase, hpasses, hwait, hA, hB, hbad, hacc⟩ := h
  unfold State.submitCal
  dsimp only
  rw [if_pos ⟨hphase, hpasses, hwait⟩, hA, hB, hbad, hacc]
  simp only [Nat.or_self, Nat.zero_testBit, Bool.not_false, Bool.and_true, Nat.zero_or, fld_modCal]
  rfl

end

/-! ## Disagreement (R130) -/

/-- The record of every parameter that disagreed. -/
def disagreeRaised (s : State) (u bad : Nat) : State :=
  ((List.range 4).filter bad.testBit).foldl (fun v i =>
    let r := v.results u i
    v.raiseRec CAL.evDISAGREE 0 0 [BitVec.ofNat 32 (u + 256 * s.visited u), BitVec.ofNat 32 i, BitVec.ofInt 32 r.1, BitVec.ofInt 32 r.2]) s

/-- What disagreed is recorded and counted. -/
def disagreeNoted (s : State) (u bad : Nat) : State :=
  ((disagreeRaised s u bad).when (bad != 0) fun s => s.addSat pCAL (uf u CAL.U_CNT.DISAGREE) 1).modCal u fun x => { x with bad := bad }

theorem judged_eq (s : State) (u bad : Nat) : s.judged u bad = (disagreeNoted s u bad).returnStep u := rfl

section
variable (s : State) (u bad : Nat)

theorem disagreeRaised_sets : Sets [rawAt 11 0] s (disagreeRaised s u bad) := .foldl (.refl _ s) _ fun v _ _ => .raiseRec (.refl _ v) _ _ _ _

theorem disagreeRaised_cal : (disagreeRaised s u bad).cal = s.cal :=
  List.foldlRecOn (motive := fun v => v.cal = s.cal) _ _ rfl fun v hv _ _ => (raiseRec_cal v _ _ _ _).trans hv

theorem raised_raiseRec (e : Ev) (i m : Nat) (d : List Word) (h : e.bit < 32) : raised (s.raiseRec e i m d) e i := by
  refine raised_congr (s := s.setRaw e i) ?_ (rd_logOcc _ _ _ _)
  exact bit_setFld_one s _ _ (by simp only [bitAt]; omega) (by simp [bitAt])

theorem disagreeRaised_raised (h : ∃ i, i < 4 ∧ bad.testBit i = true) : raised (disagreeRaised s u bad) CAL.evDISAGREE 0 := by
  obtain ⟨i, hi, hbit⟩ := h
  have hmem : i ∈ (List.range 4).filter bad.testBit := List.mem_filter.2 ⟨List.mem_range.2 hi, hbit⟩
  obtain ⟨before, last, hsplit⟩ := (List.eq_nil_or_concat _).resolve_left (List.ne_nil_of_mem hmem)
  unfold disagreeRaised
  rw [hsplit, List.concat_eq_append, List.foldl_append]
  exact raised_raiseRec _ _ _ _ _ (by decide)

/-- The address of U_CNT of a unit. -/
abbrev cntAt : Nat := pCAL + (uf u CAL.U_CNT.DISAGREE).off

theorem disagreeNoted_sets : Sets [cntAt u, rawAt 11 0] s (disagreeNoted s u bad) :=
  .modCal (.when (.next (.refl _ s) (disagreeRaised_sets ..)) _ fun _ => .addSat (.refl _ _) 1) _ _

theorem calSt_disagreeNoted : (disagreeNoted s u bad).calSt u = { s.calSt u with bad := bad } := by
  have h : ((disagreeRaised s u bad).when (bad != 0) fun s => s.addSat pCAL (uf u CAL.U_CNT.DISAGREE) 1).calSt u = s.calSt u :=
    when_ind (P := fun t => t.calSt u = s.calSt u) _ _ _ (calSt_congr (disagreeRaised_cal ..) u) fun h => h
  unfold disagreeNoted
  rw [calSt_modCal_self, h]

/-- U_CNT lies apart from EVT_RAW and from U_STAT. -/
theorem cntAt_apart (hu : u < 16) : cntAt u ≠ rawAt 11 0 ∧ cntAt u ≠ statAt u := by
  simp only [cntAt, uf, fldAt, rawAt_cal, statAt, CAL.U_STAT]
  omega

/-- A disagreement is raised and counted. -/
theorem disagreeNoted_shows (hu : u < 16) (h : ∃ i, i < 4 ∧ bad.testBit i = true) : let t := disagreeNoted s u bad
    raised t CAL.evDISAGREE 0 ∧ t.fld pCAL (uf u CAL.U_CNT.DISAGREE) = min (s.fld pCAL (uf u CAL.U_CNT.DISAGREE) + 1) 255 := by
  have hbad : (bad != 0) = true := by
    obtain ⟨i, -, hbit⟩ := h
    rw [bne_iff_ne]
    rintro rfl
    simp at hbit
  obtain ⟨hraw, -⟩ := cntAt_apart u hu
  have hraised := disagreeRaised_raised s u bad h
  have hsets := disagreeRaised_sets s u bad
  unfold disagreeNoted
  rw [hbad, when_true]
  generalize disagreeRaised s u bad = v at *
  refine ⟨raised_congr hraised (rd_setFld_ne v _ _ _ _ hraw.symm), ?_⟩
  rw [fld_modCal, fld_addUnit v u CAL.U_CNT.DISAGREE 1, hsets.fld (by simpa using hraw)]
  rfl

end

/-! ## The end of a judged pair -/

/-- The pair's verdicts in the statement's words. -/
theorem agrees_iff (s : State) (u : Nat) {i : Nat} (hi : i < 4) :
    agrees s u i = true ↔ ((s.results u i).1 - (s.results u i).2).natAbs ≤ [6, 15, 3, 5].getD i 0 := by
  have htol : (parRow i).tol = [6, 15, 3, 5].getD i 0 := by interval_cases i <;> rfl
  rw [← htol]
  simp [agrees, agree]

section
variable {s : State} {u : Nat} (hu : u < 16)
include hu

/-- The corrections stand apart from what a judgement writes. -/
theorem corr_notin (i : Nat) : mcAt s u + (corrFld i).off ∉ [cntAt u, rawAt 11 0] := by
  have hlow := corr_low (s := s) hu i
  simp only [List.mem_cons, List.not_mem_nil, or_false, cntAt, uf, fldAt, rawAt_cal]
  omega

/-- What a pair judged leaves before RETURN: what disagreed is noted, the slice under visit stays, and what agreed is accepted. -/
theorem pairNoted_shows : let v := disagreeNoted (pairJudged s u) u (maskOf (differing s u))
    Sets [cntAt u, rawAt 11 0] s v ∧ v.visited u = s.visited u ∧ (v.calSt u).acc = means s u ∧ v.brownOut = s.brownOut
      ∧ ((∃ i, i ∈ differing s u) → raised v CAL.evDISAGREE 0
        ∧ v.fld pCAL (uf u CAL.U_CNT.DISAGREE) = min (s.fld pCAL (uf u CAL.U_CNT.DISAGREE) + 1) 255) := by
  intro v
  have hv : Sets [cntAt u, rawAt 11 0] s v := .next (.modCal (.refl _ s) _ _) (disagreeNoted_sets ..)
  refine ⟨hv, hv.fld ?_, ?_, brownOut_sets hv ?_, fun hd => disagreeNoted_shows (pairJudged s u) u _ hu ?_⟩
  · obtain ⟨-, hstat⟩ := cntAt_apart u hu
    rw [unitFld_stat rfl]
    simp only [List.mem_cons, List.not_mem_nil, or_false, not_or]
    refine ⟨hstat.symm, ?_⟩
    simp only [rawAt_cal, statAt, CAL.U_STAT]
    omega
  · rw [calSt_disagreeNoted]
    simp [pairJudged]
  · simp only [List.mem_cons, List.not_mem_nil, or_false, cntAt, uf, fldAt, rawAt_cal, pPWR, pCAL, PWR.BO_STAT]
    omega
  · exact hd.imp fun i hi => ⟨((mem_differing s u).1 hi).1, (testBit_maskOf (differing_sorted s u) i).2 hi⟩

/-- The pair judged: RETURN begins, with the means of what agreed in the shadow. -/
theorem judged_shows (hvis : s.visited u < 17) (hbo : s.brownOut = false) : let t := (pairJudged s u).judged u (maskOf (differing s u))
    t.phase u = 5 ∧ (t.calSt u).wait = 2 ∧ accepted s t (unitPage u) (mcGroup u) 2 ∧ (∀ a, t.inf a = s.inf a) ∧ memSame s t
      ∧ (∀ i, i < 4 → t.fld (mcAt s u) (corrFld i) = if i ∈ agreeing s u then meanCode s u i else s.fld (mcAt s u) (corrFld i))
      ∧ ((∃ i, i ∈ differing s u) → raised t CAL.evDISAGREE 0
        ∧ t.fld pCAL (uf u CAL.U_CNT.DISAGREE) = min (s.fld pCAL (uf u CAL.U_CNT.DISAGREE) + 1) 255) := by
  obtain ⟨hv, hvisited, hacc, hbrown, hnoted⟩ := pairNoted_shows (s := s) hu
  rw [judged_eq]
  generalize disagreeNoted (pairJudged s u) u (maskOf (differing s u)) = v at *
  have hmc : mcAt v u = mcAt s u := by
    unfold mcAt
    rw [hvisited]
  obtain ⟨hphase, hwait, ⟨q, hq, hrest⟩, hinf, hmem, hcorr, hcal⟩ := returnStep_shows hu (hvisited ▸ hvis) (hbrown.trans hbo)
  rw [hmc, hacc] at hcorr
  generalize v.returnStep u = t at *
  refine ⟨hphase, hwait, ⟨q, hq.trans (by rw [hv.commits]), hrest⟩, fun a => (hinf a).trans (hv.inf a), fun a => (hmem a).trans (hv.mem a),
    fun i hi => ?_, fun hd => ?_⟩
  · rw [hcorr, corrected_means s u v _ hi]
    split
    · rfl
    · exact hv.fld (corr_notin hu i)
  · obtain ⟨hraised, hcount⟩ := hnoted hd
    obtain ⟨-, hstat⟩ := cntAt_apart u hu
    refine ⟨raised_congr hraised (hcal 0x10 (by decide) ?_), (fld_congr (hcal _ ?_ hstat)).trans hcount⟩
    · simp only [statAt, CAL.U_STAT]
      omega
    · simp only [uf, fldAt]
      omega

omit hu in
/-- Parameters that disagree are measured again while retries remain. -/
theorem measuredAgain_shows (hretry : s.fld pCAL (uf u CAL.U_STAT.RETRY) < s.fld pCAL CAL.RETRY_CFG.RETRIES) :
    let t := ((pairJudged s u).addWrap pCAL (uf u CAL.U_STAT.RETRY) 1).measure u (maskOf (differing s u)) 4
    t.phase u = 4 ∧ (t.calSt u).passes = 0 ∧ onlyRegs s t [statAt u]
      ∧ t.fld pCAL (uf u CAL.U_STAT.RETRY) = s.fld pCAL (uf u CAL.U_STAT.RETRY) + 1
      ∧ ∀ i, (t.calSt u).todo.testBit i = true ↔ i ∈ differing s u := by
  have hlim : s.fld pCAL CAL.RETRY_CFG.RETRIES < 4 := getBits_lt _ _ 2
  refine ⟨phase_measure _ u _ (by decide), by rw [calSt_measure], ?_, ?_, fun i => ?_⟩
  · exact (Sets.next (.setStat (.modCal (.refl [statAt u] s) _ _) _) (measure_sets ..)).only
  · refine (fld_setUnit_apart _ u CAL.U_STAT.PHASE CAL.U_STAT.RETRY 4).trans ((fld_setUnit (pairJudged s u) u CAL.U_STAT.RETRY _).trans ?_)
    exact Nat.mod_eq_of_lt (show s.fld pCAL (uf u CAL.U_STAT.RETRY) + 1 < 2 ^ 4 by omega)
  · rw [calSt_measure]
    exact testBit_maskOf (differing_sorted s u) i

end

/-! ## SUBMIT (R131) -/

section
variable {s : State} {u : Fin 16} {r : Requester} (hr : reaches s r 11 0 (CAL.U_CMD + 4 * u.val) 0x2) (hh : s.unitHere u = true)
  (hpair : firstPair s u)
include hr hh hpair

/-- A pair of which nothing is left to measure again is judged. -/
theorem calSubmit_judges (hvis : s.visited u < 17) (hbo : s.brownOut = false)
    (hlast : (∃ i, i ∈ differing s u) → s.fld pCAL CAL.RETRY_CFG.RETRIES ≤ s.fld pCAL (uf u CAL.U_STAT.RETRY)) :
    completes (.calSubmit r u) s (fun t => t.phase u = 5 ∧ (t.calSt u).wait = 2 ∧ accepted s t (unitPage u) (mcGroup u) 2
      ∧ (∀ a, t.inf a = s.inf a) ∧ memSame s t
      ∧ (∀ i, i < 4 → t.fld (mcAt s u) (corrFld i) = if i ∈ agreeing s u then meanCode s u i else s.fld (mcAt s u) (corrFld i))
      ∧ ((∃ i, i ∈ differing s u) → raised t CAL.evDISAGREE 0
        ∧ t.fld pCAL (uf u CAL.U_CNT.DISAGREE) = min (s.fld pCAL (uf u CAL.U_CNT.DISAGREE) + 1) 255)) := by
  have hjudged : s.submitCal u = (pairJudged s u).judged u (maskOf (differing s u)) := by
    refine (submitCal_eq hpair).trans (if_neg ?_)
    rintro ⟨hne, hlt⟩
    exact absurd (hlast ((maskOf_ne_zero (differing_sorted s u)).1 hne)) (Nat.not_le.2 hlt)
  have he := (effUCmd_submit hh).trans (congrArg Out.ok hjudged)
  have hshows := judged_shows u.isLt hvis hbo
  generalize (pairJudged s u).judged u (maskOf (differing s u)) = w at he hshows
  exact completes_uCmd rfl hr he fun _ => hshows

/-- What disagrees is measured again, and nothing else, while retries remain. -/
theorem calSubmit_retries (hdiffers : ∃ i, i ∈ differing s u)
    (hretry : s.fld pCAL (uf u CAL.U_STAT.RETRY) < s.fld pCAL CAL.RETRY_CFG.RETRIES) :
    completes (.calSubmit r u) s (fun t => t.phase u = 4 ∧ (t.calSt u).passes = 0 ∧ onlyRegs s t [statAt u]
      ∧ t.fld pCAL (uf u CAL.U_STAT.RETRY) = s.fld pCAL (uf u CAL.U_STAT.RETRY) + 1
      ∧ ∀ i, (t.calSt u).todo.testBit i = true ↔ i ∈ differing s u) := by
  have hagain := (submitCal_eq hpair).trans (if_pos ⟨(maskOf_ne_zero (differing_sorted s u)).2 hdiffers, hretry⟩)
  have he := (effUCmd_submit hh).trans (congrArg Out.ok hagain)
  have hshows := measuredAgain_shows hretry
  generalize ((pairJudged s u).addWrap pCAL (uf u CAL.U_STAT.RETRY) 1).measure u (maskOf (differing s u)) 4 = w at he hshows
  exact completes_uCmd rfl hr he fun _ => hshows

end

/-- The two results of a parameter lie within its tolerance (R129). -/
abbrev near (s : State) (u i : Nat) : Prop := ((s.results u i).1 - (s.results u i).2).natAbs ≤ [6, 15, 3, 5].getD i 0

section
variable {s : State} {u : Nat} {i : Nat} (hi : i < 4)
include hi

theorem mem_agreeing_iff_near : i ∈ agreeing s u ↔ (s.calSt u).todo.testBit i = true ∧ near s u i := by
  rw [mem_agreeing, agrees_iff s u hi]
  exact and_iff_right hi

theorem mem_differing_iff_not_near : i ∈ differing s u ↔ (s.calSt u).todo.testBit i = true ∧ ¬ near s u i := by
  rw [mem_differing, ← Bool.not_eq_true, agrees_iff s u hi]
  exact and_iff_right hi

end

theorem exists_differing {s : State} {u : Nat} : (∃ i, i ∈ differing s u) ↔ ∃ i, i < 4 ∧ (s.calSt u).todo.testBit i = true ∧ ¬ near s u i := by
  refine exists_congr fun i => ⟨fun h => ?_, fun ⟨hi, h⟩ => (mem_differing_iff_not_near hi).2 h⟩
  have hi := ((mem_differing s u).1 h).1
  exact ⟨hi, (mem_differing_iff_not_near hi).1 h⟩

/-- SUBMIT of a first pass pair that met every limit, by its verdicts (R130). -/
theorem calSubmit_shows {s : State} {u : Fin 16} {r : Requester} (hr : reaches s r 11 0 (CAL.U_CMD + 4 * u.val) 0x2) (hh : s.unitHere u = true)
    (hpair : firstPair s u) (hvis : s.visited u < 17) (hbo : s.brownOut = false) : let todo := (s.calSt u).todo
    ((∀ i, i < 4 → todo.testBit i = true → near s u i) → completes (.calSubmit r u) s (fun t => t.phase u = 5 ∧ (t.calSt u).wait = 2
        ∧ accepted s t (unitPage u) (mcGroup u) 2 ∧ (∀ a, t.inf a = s.inf a) ∧ memSame s t
        ∧ ∀ i, i < 4 → t.fld (mcAt s u) (corrFld i) = if todo.testBit i then meanCode s u i else s.fld (mcAt s u) (corrFld i)))
      ∧ ((∃ i, i < 4 ∧ todo.testBit i = true ∧ ¬ near s u i) → s.fld pCAL (uf u CAL.U_STAT.RETRY) < s.fld pCAL CAL.RETRY_CFG.RETRIES →
          completes (.calSubmit r u) s (fun t => t.phase u = 4 ∧ (t.calSt u).passes = 0 ∧ onlyRegs s t [statAt u]
            ∧ t.fld pCAL (uf u CAL.U_STAT.RETRY) = s.fld pCAL (uf u CAL.U_STAT.RETRY) + 1
            ∧ ∀ i, i < 4 → ((t.calSt u).todo.testBit i = true ↔ todo.testBit i = true ∧ ¬ near s u i)))
      ∧ ((∃ i, i < 4 ∧ todo.testBit i = true ∧ ¬ near s u i) → s.fld pCAL CAL.RETRY_CFG.RETRIES ≤ s.fld pCAL (uf u CAL.U_STAT.RETRY) →
          completes (.calSubmit r u) s (fun t => t.phase u = 5 ∧ raised t CAL.evDISAGREE 0 ∧ memSame s t
            ∧ t.fld pCAL (uf u CAL.U_CNT.DISAGREE) = min (s.fld pCAL (uf u CAL.U_CNT.DISAGREE) + 1) 255
            ∧ ∀ i, i < 4 → todo.testBit i = true → ¬ near s u i → t.fld (mcAt s u) (corrFld i) = s.fld (mcAt s u) (corrFld i))) := by
  refine ⟨fun hall => ?_, fun hdiffers hretry => ?_, fun hdiffers hlast => ?_⟩
  · obtain ⟨t, ht, hphase, hwait, hacc, hinf, hmem, hcorr, -⟩ := calSubmit_judges hr hh hpair hvis hbo fun hd => by
      obtain ⟨i, hi, hbit, hn⟩ := exists_differing.1 hd
      exact absurd (hall i hi hbit) hn
    refine ⟨t, ht, hphase, hwait, hacc, hinf, hmem, fun i hi => (hcorr i hi).trans (if_congr ?_ rfl rfl)⟩
    exact (mem_agreeing_iff_near hi).trans (and_iff_left_of_imp (hall i hi))
  · obtain ⟨t, ht, hphase, hpasses, honly, hcount, htodo⟩ := calSubmit_retries hr hh hpair (exists_differing.2 hdiffers) hretry
    exact ⟨t, ht, hphase, hpasses, honly, hcount, fun i hi => (htodo i).trans (mem_differing_iff_not_near hi)⟩
  · obtain ⟨t, ht, hphase, -, -, -, hmem, hcorr, hnoted⟩ := calSubmit_judges hr hh hpair hvis hbo fun _ => hlast
    obtain ⟨hraised, hcount⟩ := hnoted (exists_differing.2 hdiffers)
    exact ⟨t, ht, hphase, hraised, hmem, hcount, fun i hi _ hn => (hcorr i hi).trans (if_neg fun h => hn ((mem_agreeing_iff_near hi).1 h).2)⟩

/-- Settles O49, clause by clause: the start of a step, PHASE, SHADOW, the passes, SUBMIT, the reference check, the mean, and RESULT_TIMEOUT. -/
theorem calibrationSteps : Obligations.CalibrationSteps := fun _ _ =>
  ⟨fun h => ⟨calStepStart_starts h, fun _ => calStepNow_starts h⟩, calPhaseEnd_shows,
    fun _ _ _ hphase hwait => ⟨calShadowEnd_passes hphase hwait, calShadowEnd_refuses hphase hwait⟩,
    calPassDone_shows,
    fun _ hr hh hphase hpasses hwait hA hB hbad hacc _ hvis hbo => calSubmit_shows hr hh ⟨hphase, hpasses, hwait, hA, hB, hbad, hacc⟩ hvis hbo,
    refCheck_bits _, meanAway_near, calResultTimeout_shows⟩

end Sys2Proof.Proofs
